-- ==== Sys2Proof/Word.lean ====
section
/-!
DEFINITION. Sys2Proof/Word.lean: the widths of the Glatar 40's words (R5, R6, R102) and nothing else.
-/

namespace Sys2Proof

/-- One byte of memory. -/
abbrev Byte := BitVec 8

/-- A scalar register, an instruction, a 32-bit memory word (R6, R97). -/
abbrev Word := BitVec 32

/-- A base register, an address, a 64-bit register (R102, R165). -/
abbrev DWord := BitVec 64

/-- A vector register of 256 bits (R102). -/
abbrev VWord := BitVec 256

/-- The 64 bytes of one line, byte k at bits [8k+7:8k] (R57). -/
abbrev Line := BitVec 512

end Sys2Proof
end

