-- ==== Sys2Proof/Syntax.lean ====
section
/-!
DEFINITION. Sys2Proof/Syntax.lean: the instructions and events of the Glatar 40, one constructor per row of
spec/opcode_table.json. An encoded row carries its operand fields, each as wide as the encoding of R166 makes it
(`s` is the t1 bit and `t` the t2 bit). An event row carries what names the place and the occasion of the event;
values that come from outside the module (a translation, a host write) are arguments too. The lowest part of the file holds the types of those arguments.
-/

namespace Sys2Proof

/-- The translation sizes the host defines (R14). -/
inductive PageSize where
  | k4
  | m2
  | g1
deriving DecidableEq, Repr

/-- The host IOMMU's answer to an ATS Translation Request (R14, R18): absent, or a translation with its rights.
`u`: the page is open to U mode; without it the page is mapped for S mode only (log entry 20). -/
structure FillResponse where
  present : Bool
  pa : BitVec 64
  size : PageSize
  r : Bool
  w : Bool
  x : Bool
  u : Bool
deriving DecidableEq, Repr

/-- What a host snoop asks of a bridge slice (R70, R71): to share the line, or to take it away. -/
inductive SnoopKind where
  | share
  | take
deriving DecidableEq, Repr

/-- Who writes a module register outside SYSWR (R315, R404): the host through BAR 0, or the device's own logic. -/
inductive Writer where
  | host
  | device
deriving DecidableEq, Repr

/-- A chunk of an all-reduce that the other module sends (R424, R425): its operation's TAG, number among those of the TAG,
format and length, the chunk's index and its 4,096 bytes as a number. -/
structure Chunk where
  tag : Nat
  ordinal : Nat
  fmt : Nat
  len : Nat
  index : Nat
  data : Nat
deriving DecidableEq, Repr

/-- An access of the other module that arrives over the Course link (R29, R77, R333). -/
inductive PeerAccess where
  | load (pa : BitVec 64) (n : Nat)
  | store (pa : BitVec 64) (data : List Byte)
  | atomic (pa : BitVec 64) (op : BitVec 4) (wide : Bool) (operand : BitVec 64) (swap : BitVec 64)
  | cswap (pa : BitVec 64) (expected new : BitVec 128)
  /-- One attempt of a full/empty instruction, by its sub-op of R228. -/
  | fullEmpty (pa : BitVec 64) (op : BitVec 3) (x : BitVec 32)
  | chunk (c : Chunk)
deriving DecidableEq, Repr

/-- The instructions (with an encoding) and the events (without one) of the opcode table. -/
inductive Instr where
  /-- ILLEGAL_INSTR (R183). A word that names no instruction, or fails privilege or field checks, traps precisely. -/
  | illegalInstr (w : BitVec 32)
  /-- NOP (R184). A hint word executes as a no-op in one issue cycle. -/
  | nop (h : BitVec 26)
  /-- ADD (R198). rd gets rs1 plus rs2, modulo 2^32. -/
  | add (d : BitVec 5) (a : BitVec 5) (b : BitVec 5) (s : BitVec 1) (t : BitVec 1)
  /-- SUB (R198). rd gets rs1 minus rs2. -/
  | sub (d : BitVec 5) (a : BitVec 5) (b : BitVec 5) (s : BitVec 1) (t : BitVec 1)
  /-- AND (R198). Bitwise AND of two registers. -/
  | and (d : BitVec 5) (a : BitVec 5) (b : BitVec 5) (s : BitVec 1) (t : BitVec 1)
  /-- OR (R198). Bitwise OR of two registers. -/
  | or (d : BitVec 5) (a : BitVec 5) (b : BitVec 5) (s : BitVec 1) (t : BitVec 1)
  /-- XOR (R198). Bitwise XOR of two registers. -/
  | xor (d : BitVec 5) (a : BitVec 5) (b : BitVec 5) (s : BitVec 1) (t : BitVec 1)
  /-- ANDN (R198). rs1 AND NOT rs2. -/
  | andn (d : BitVec 5) (a : BitVec 5) (b : BitVec 5) (s : BitVec 1) (t : BitVec 1)
  /-- SLL (R198). Logical left shift by rs2[4:0]. -/
  | sll (d : BitVec 5) (a : BitVec 5) (b : BitVec 5) (s : BitVec 1) (t : BitVec 1)
  /-- SRL (R198). Logical right shift by rs2[4:0]. -/
  | srl (d : BitVec 5) (a : BitVec 5) (b : BitVec 5) (s : BitVec 1) (t : BitVec 1)
  /-- SRA (R198). Arithmetic right shift by rs2[4:0]. -/
  | sra (d : BitVec 5) (a : BitVec 5) (b : BitVec 5) (s : BitVec 1) (t : BitVec 1)
  /-- ROR (R198). Rotate right by rs2[4:0]. -/
  | ror (d : BitVec 5) (a : BitVec 5) (b : BitVec 5) (s : BitVec 1) (t : BitVec 1)
  /-- SLLI (R198). Logical left shift by an immediate amount. -/
  | slli (d : BitVec 5) (a : BitVec 5) (n : BitVec 5) (s : BitVec 1)
  /-- SRLI (R198). Logical right shift by an immediate amount. -/
  | srli (d : BitVec 5) (a : BitVec 5) (n : BitVec 5) (s : BitVec 1)
  /-- SRAI (R198). Arithmetic right shift by an immediate amount. -/
  | srai (d : BitVec 5) (a : BitVec 5) (n : BitVec 5) (s : BitVec 1)
  /-- MUL (R198). Low 32 bits of the product. -/
  | mul (d : BitVec 5) (a : BitVec 5) (b : BitVec 5) (s : BitVec 1) (t : BitVec 1)
  /-- MULH (R198). High 32 bits of the signed product. -/
  | mulh (d : BitVec 5) (a : BitVec 5) (b : BitVec 5) (s : BitVec 1) (t : BitVec 1)
  /-- MULHU (R198). High 32 bits of the unsigned product. -/
  | mulhu (d : BitVec 5) (a : BitVec 5) (b : BitVec 5) (s : BitVec 1) (t : BitVec 1)
  /-- DIV (R199). Signed quotient toward zero; division by zero gives all ones. -/
  | div (d : BitVec 5) (a : BitVec 5) (b : BitVec 5) (s : BitVec 1) (t : BitVec 1)
  /-- DIVU (R199). Unsigned quotient. -/
  | divu (d : BitVec 5) (a : BitVec 5) (b : BitVec 5) (s : BitVec 1) (t : BitVec 1)
  /-- REM (R199). Signed remainder with the dividend's sign. -/
  | rem (d : BitVec 5) (a : BitVec 5) (b : BitVec 5) (s : BitVec 1) (t : BitVec 1)
  /-- REMU (R199). Unsigned remainder. -/
  | remu (d : BitVec 5) (a : BitVec 5) (b : BitVec 5) (s : BitVec 1) (t : BitVec 1)
  /-- MIN (R198). Signed minimum. -/
  | min (d : BitVec 5) (a : BitVec 5) (b : BitVec 5) (s : BitVec 1) (t : BitVec 1)
  /-- MAX (R198). Signed maximum. -/
  | max (d : BitVec 5) (a : BitVec 5) (b : BitVec 5) (s : BitVec 1) (t : BitVec 1)
  /-- MINU (R198). Unsigned minimum. -/
  | minu (d : BitVec 5) (a : BitVec 5) (b : BitVec 5) (s : BitVec 1) (t : BitVec 1)
  /-- MAXU (R198). Unsigned maximum. -/
  | maxu (d : BitVec 5) (a : BitVec 5) (b : BitVec 5) (s : BitVec 1) (t : BitVec 1)
  /-- SLT (R198). 1 if rs1 is less than rs2, signed. -/
  | slt (d : BitVec 5) (a : BitVec 5) (b : BitVec 5) (s : BitVec 1) (t : BitVec 1)
  /-- SLTU (R198). 1 if rs1 is less than rs2, unsigned. -/
  | sltu (d : BitVec 5) (a : BitVec 5) (b : BitVec 5) (s : BitVec 1) (t : BitVec 1)
  /-- SEQ (R198). 1 if rs1 equals rs2. -/
  | seq (d : BitVec 5) (a : BitVec 5) (b : BitVec 5) (s : BitVec 1) (t : BitVec 1)
  /-- CMOV (R198). Writes rs1 to rd when rs2 is nonzero. -/
  | cmov (d : BitVec 5) (a : BitVec 5) (b : BitVec 5) (s : BitVec 1) (t : BitVec 1)
  /-- CLZ (R198). Counts leading zero bits. -/
  | clz (d : BitVec 5) (a : BitVec 5) (s : BitVec 1)
  /-- CTZ (R198). Counts trailing zero bits. -/
  | ctz (d : BitVec 5) (a : BitVec 5) (s : BitVec 1)
  /-- POPC (R198). Counts one bits. -/
  | popc (d : BitVec 5) (a : BitVec 5) (s : BitVec 1)
  /-- BREV (R198). Reverses the bit order. -/
  | brev (d : BitVec 5) (a : BitVec 5) (s : BitVec 1)
  /-- BSWAP (R198). Reverses the byte order. -/
  | bswap (d : BitVec 5) (a : BitVec 5) (s : BitVec 1)
  /-- EXTU (R200). Extracts a zero-extended bit field. -/
  | extu (d : BitVec 5) (a : BitVec 5) (b : BitVec 5) (s : BitVec 1) (t : BitVec 1)
  /-- EXTS (R200). Extracts a sign-extended bit field. -/
  | exts (d : BitVec 5) (a : BitVec 5) (b : BitVec 5) (s : BitVec 1) (t : BitVec 1)
  /-- INS (R200). Inserts a bit field into rd. -/
  | ins (d : BitVec 5) (a : BitVec 5) (b : BitVec 5) (s : BitVec 1) (t : BitVec 1)
  /-- ADDI (R201). Adds a sign-extended 15-bit immediate. -/
  | addi (d : BitVec 5) (a : BitVec 5) (s : BitVec 1) (i : BitVec 15)
  /-- ANDI (R201). ANDs with a sign-extended immediate. -/
  | andi (d : BitVec 5) (a : BitVec 5) (s : BitVec 1) (i : BitVec 15)
  /-- ORI (R201). ORs with a sign-extended immediate. -/
  | ori (d : BitVec 5) (a : BitVec 5) (s : BitVec 1) (i : BitVec 15)
  /-- XORI (R201). XORs with a sign-extended immediate. -/
  | xori (d : BitVec 5) (a : BitVec 5) (s : BitVec 1) (i : BitVec 15)
  /-- SLTI (R201). Signed compare against an immediate. -/
  | slti (d : BitVec 5) (a : BitVec 5) (s : BitVec 1) (i : BitVec 15)
  /-- SLTIU (R201). Unsigned compare against a sign-extended immediate. -/
  | sltiu (d : BitVec 5) (a : BitVec 5) (s : BitVec 1) (i : BitVec 15)
  /-- LIH (R202). Loads imm21 into rd bits [31:11]. -/
  | lih (d : BitVec 5) (i : BitVec 21)
  /-- ADDPC (R202). rd gets the low word of a PC-relative address. -/
  | addpc (d : BitVec 5) (i : BitVec 21)
  /-- ADDC (R203). Adds a constant-window word. -/
  | addc (d : BitVec 5) (a : BitVec 5) (c : BitVec 2) (w : BitVec 14)
  /-- SUBC (R203). Subtracts a constant-window word. -/
  | subc (d : BitVec 5) (a : BitVec 5) (c : BitVec 2) (w : BitVec 14)
  /-- ANDC (R203). ANDs with a constant-window word. -/
  | andc (d : BitVec 5) (a : BitVec 5) (c : BitVec 2) (w : BitVec 14)
  /-- ORC (R203). ORs with a constant-window word. -/
  | orc (d : BitVec 5) (a : BitVec 5) (c : BitVec 2) (w : BitVec 14)
  /-- XORC (R203). XORs with a constant-window word. -/
  | xorc (d : BitVec 5) (a : BitVec 5) (c : BitVec 2) (w : BitVec 14)
  /-- MULC (R203). Multiplies by a constant-window word. -/
  | mulc (d : BitVec 5) (a : BitVec 5) (c : BitVec 2) (w : BitVec 14)
  /-- MINC (R203). Signed minimum with a constant-window word. -/
  | minc (d : BitVec 5) (a : BitVec 5) (c : BitVec 2) (w : BitVec 14)
  /-- MAXC (R203). Signed maximum with a constant-window word. -/
  | maxc (d : BitVec 5) (a : BitVec 5) (c : BitVec 2) (w : BitVec 14)
  /-- SLTC (R203). Signed compare with a constant-window word. -/
  | sltc (d : BitVec 5) (a : BitVec 5) (c : BitVec 2) (w : BitVec 14)
  /-- BSET (R204). Builds a base register from two scalar words. -/
  | bset (d : BitVec 3) (a : BitVec 5) (b : BitVec 5) (s : BitVec 1) (t : BitVec 1)
  /-- BGET_LO (R204). Reads the low word of a base register. -/
  | bgetLo (d : BitVec 5) (a : BitVec 3) (s : BitVec 1)
  /-- BGET_HI (R204). Reads the high word of a base register. -/
  | bgetHi (d : BitVec 5) (a : BitVec 3) (s : BitVec 1)
  /-- BADD (R204). Adds a sign-extended scalar to a base. -/
  | badd (d : BitVec 3) (a : BitVec 3) (b : BitVec 5) (s : BitVec 1) (t : BitVec 1)
  /-- BMOV (R204). Copies a base register. -/
  | bmov (d : BitVec 3) (a : BitVec 3) (s : BitVec 1)
  /-- BADDI (R205). Adds a sign-extended immediate to a base. -/
  | baddi (d : BitVec 3) (a : BitVec 3) (s : BitVec 1) (i : BitVec 15)
  /-- BLEA (R205). Sets a base to a PC-relative address. -/
  | blea (d : BitVec 3) (i : BitVec 21)
  /-- LDB (R205). Loads 8 bytes into a base register. -/
  | ldb (d : BitVec 3) (x : BitVec 5) (g : BitVec 3) (s : BitVec 1) (i : BitVec 12)
  /-- STB (R205). Stores a base register as 8 bytes. -/
  | stb (d : BitVec 3) (x : BitVec 5) (g : BitVec 3) (s : BitVec 1) (i : BitVec 12)
  /-- BEQ (R206). Branches when the registers are equal. -/
  | beq (a : BitVec 5) (b : BitVec 5) (i : BitVec 13)
  /-- BNE (R206). Branches when the registers differ. -/
  | bne (a : BitVec 5) (b : BitVec 5) (i : BitVec 13)
  /-- BLT (R206). Branches when less, signed. -/
  | blt (a : BitVec 5) (b : BitVec 5) (i : BitVec 13)
  /-- BGE (R206). Branches when greater or equal, signed. -/
  | bge (a : BitVec 5) (b : BitVec 5) (i : BitVec 13)
  /-- BLTU (R206). Branches when less, unsigned. -/
  | bltu (a : BitVec 5) (b : BitVec 5) (i : BitVec 13)
  /-- BGEU (R206). Branches when greater or equal, unsigned. -/
  | bgeu (a : BitVec 5) (b : BitVec 5) (i : BitVec 13)
  /-- BBS (R206). Branches when a named bit is set. -/
  | bbs (a : BitVec 5) (n : BitVec 5) (i : BitVec 13)
  /-- BBC (R206). Branches when a named bit is clear. -/
  | bbc (a : BitVec 5) (n : BitVec 5) (i : BitVec 13)
  /-- LOOP (R207). Decrements rs1 and branches while the result is nonzero. -/
  | loop (a : BitVec 5) (i : BitVec 13)
  /-- J (R208). Jumps PC-relative. -/
  | j (i : BitVec 26)
  /-- CALL (R209). Rotates the window and calls PC-relative. -/
  | call (i : BitVec 26)
  /-- CALLB (R209). Rotates the window and calls the address in a base. -/
  | callb (b : BitVec 3) (t : BitVec 1)
  /-- JB (R208). Jumps to the address in a base register. -/
  | jb (b : BitVec 3) (t : BitVec 1)
  /-- RET (R209). Returns from a call frame and rotates the window back. -/
  | ret
  /-- CALLAT (R210). Sends a remote task request to a core; the reply fills rd. -/
  | callat (d : BitVec 5) (a : BitVec 5) (b : BitVec 3) (s : BitVec 1) (t : BitVec 1)
  /-- WINDOW_SPILL (R98). The core spills the oldest resident frame in bubbles. -/
  | windowSpill (t : BitVec 12)
  /-- WINDOW_FILL (R98). The core refills the most recent spilled frame in bubbles. -/
  | windowFill (t : BitVec 12)
  /-- FADD (R213). FP32 add, rounded once. -/
  | fadd (d : BitVec 5) (a : BitVec 5) (b : BitVec 5) (s : BitVec 1) (t : BitVec 1)
  /-- FSUB (R213). FP32 subtract. -/
  | fsub (d : BitVec 5) (a : BitVec 5) (b : BitVec 5) (s : BitVec 1) (t : BitVec 1)
  /-- FMUL (R213). FP32 multiply. -/
  | fmul (d : BitVec 5) (a : BitVec 5) (b : BitVec 5) (s : BitVec 1) (t : BitVec 1)
  /-- FMA (R213). Fused FP32 multiply-add with rd as addend. -/
  | fma (d : BitVec 5) (a : BitVec 5) (b : BitVec 5) (s : BitVec 1) (t : BitVec 1)
  /-- FDIV (R213). FP32 divide. -/
  | fdiv (d : BitVec 5) (a : BitVec 5) (b : BitVec 5) (s : BitVec 1) (t : BitVec 1)
  /-- FSQRT (R213). FP32 square root. -/
  | fsqrt (d : BitVec 5) (a : BitVec 5) (s : BitVec 1)
  /-- FMIN (R139). FP32 minimum. -/
  | fmin (d : BitVec 5) (a : BitVec 5) (b : BitVec 5) (s : BitVec 1) (t : BitVec 1)
  /-- FMAX (R139). FP32 maximum. -/
  | fmax (d : BitVec 5) (a : BitVec 5) (b : BitVec 5) (s : BitVec 1) (t : BitVec 1)
  /-- FEQ (R213). Quiet FP32 equality compare. -/
  | feq (d : BitVec 5) (a : BitVec 5) (b : BitVec 5) (s : BitVec 1) (t : BitVec 1)
  /-- FLT (R213). Ordered FP32 less-than compare. -/
  | flt (d : BitVec 5) (a : BitVec 5) (b : BitVec 5) (s : BitVec 1) (t : BitVec 1)
  /-- FLE (R213). Ordered FP32 less-or-equal compare. -/
  | fle (d : BitVec 5) (a : BitVec 5) (b : BitVec 5) (s : BitVec 1) (t : BitVec 1)
  /-- FCLASS (R214). Sets one bit naming the FP32 class. -/
  | fclass (d : BitVec 5) (a : BitVec 5) (s : BitVec 1)
  /-- FCVTI (R215). Converts FP32 to INT32. -/
  | fcvti (d : BitVec 5) (a : BitVec 5) (s : BitVec 1) (q : BitVec 1) (r : BitVec 3)
  /-- FCVTF (R215). Converts INT32 to FP32. -/
  | fcvtf (d : BitVec 5) (a : BitVec 5) (s : BitVec 1) (r : BitVec 3)
  /-- LB (R222). Loads a sign-extended byte. -/
  | lb (d : BitVec 5) (x : BitVec 5) (g : BitVec 3) (s : BitVec 1) (i : BitVec 12)
  /-- LBU (R222). Loads a zero-extended byte. -/
  | lbu (d : BitVec 5) (x : BitVec 5) (g : BitVec 3) (s : BitVec 1) (i : BitVec 12)
  /-- LH (R222). Loads a sign-extended half. -/
  | lh (d : BitVec 5) (x : BitVec 5) (g : BitVec 3) (s : BitVec 1) (i : BitVec 12)
  /-- LHU (R222). Loads a zero-extended half. -/
  | lhu (d : BitVec 5) (x : BitVec 5) (g : BitVec 3) (s : BitVec 1) (i : BitVec 12)
  /-- LW (R222). Loads a word; marks rd empty until arrival. -/
  | lw (d : BitVec 5) (x : BitVec 5) (g : BitVec 3) (s : BitVec 1) (i : BitVec 12)
  /-- LDP (R222). Loads 8 bytes into a register pair. -/
  | ldp (d : BitVec 5) (x : BitVec 5) (g : BitVec 3) (s : BitVec 1) (i : BitVec 12)
  /-- SB (R222). Stores a byte into the store buffer. -/
  | sb (d : BitVec 5) (x : BitVec 5) (g : BitVec 3) (s : BitVec 1) (i : BitVec 12)
  /-- SH (R222). Stores a half. -/
  | sh (d : BitVec 5) (x : BitVec 5) (g : BitVec 3) (s : BitVec 1) (i : BitVec 12)
  /-- SW (R222). Stores a word. -/
  | sw (d : BitVec 5) (x : BitVec 5) (g : BitVec 3) (s : BitVec 1) (i : BitVec 12)
  /-- STP (R222). Stores a register pair as 8 bytes. -/
  | stp (d : BitVec 5) (x : BitVec 5) (g : BitVec 3) (s : BitVec 1) (i : BitVec 12)
  /-- LDA (R224). Load with scope and relaxed or acquire order. -/
  | lda (d : BitVec 5) (x : BitVec 5) (g : BitVec 3) (s : BitVec 1) (c : BitVec 3) (r : BitVec 2) (z : BitVec 2) (f : BitVec 4)
  /-- STL (R224). Store with scope and relaxed or release order. -/
  | stl (d : BitVec 5) (x : BitVec 5) (g : BitVec 3) (s : BitVec 1) (c : BitVec 3) (r : BitVec 2) (z : BitVec 2) (f : BitVec 4)
  /-- AMOADD (R233). Atomic add returning the old value. -/
  | amoadd (d : BitVec 5) (x : BitVec 5) (g : BitVec 3) (s : BitVec 1) (c : BitVec 3) (r : BitVec 2) (p : BitVec 1)
  /-- AMOAND (R233). Atomic AND returning the old value. -/
  | amoand (d : BitVec 5) (x : BitVec 5) (g : BitVec 3) (s : BitVec 1) (c : BitVec 3) (r : BitVec 2) (p : BitVec 1)
  /-- AMOOR (R233). Atomic OR returning the old value. -/
  | amoor (d : BitVec 5) (x : BitVec 5) (g : BitVec 3) (s : BitVec 1) (c : BitVec 3) (r : BitVec 2) (p : BitVec 1)
  /-- AMOXOR (R233). Atomic XOR returning the old value. -/
  | amoxor (d : BitVec 5) (x : BitVec 5) (g : BitVec 3) (s : BitVec 1) (c : BitVec 3) (r : BitVec 2) (p : BitVec 1)
  /-- AMOMIN (R233). Atomic signed minimum. -/
  | amomin (d : BitVec 5) (x : BitVec 5) (g : BitVec 3) (s : BitVec 1) (c : BitVec 3) (r : BitVec 2) (p : BitVec 1)
  /-- AMOMAX (R233). Atomic signed maximum. -/
  | amomax (d : BitVec 5) (x : BitVec 5) (g : BitVec 3) (s : BitVec 1) (c : BitVec 3) (r : BitVec 2) (p : BitVec 1)
  /-- AMOMINU (R233). Atomic unsigned minimum. -/
  | amominu (d : BitVec 5) (x : BitVec 5) (g : BitVec 3) (s : BitVec 1) (c : BitVec 3) (r : BitVec 2) (p : BitVec 1)
  /-- AMOMAXU (R233). Atomic unsigned maximum. -/
  | amomaxu (d : BitVec 5) (x : BitVec 5) (g : BitVec 3) (s : BitVec 1) (c : BitVec 3) (r : BitVec 2) (p : BitVec 1)
  /-- AMOSWAP (R233). Atomic swap. -/
  | amoswap (d : BitVec 5) (x : BitVec 5) (g : BitVec 3) (s : BitVec 1) (c : BitVec 3) (r : BitVec 2) (p : BitVec 1)
  /-- AMOCAS (R233). Atomic compare-and-swap returning the old value. -/
  | amocas (d : BitVec 5) (x : BitVec 5) (g : BitVec 3) (s : BitVec 1) (c : BitVec 3) (r : BitVec 2) (p : BitVec 1)
  /-- AMOFADD (R234). Atomic FP32 add to nearest-even. -/
  | amofadd (d : BitVec 5) (x : BitVec 5) (g : BitVec 3) (s : BitVec 1) (c : BitVec 3) (r : BitVec 2)
  /-- CSWAP (R294). 16-byte compare-and-swap of a root record, advancing VER. -/
  | cswap (d : BitVec 5) (x : BitVec 5) (g : BitVec 3) (s : BitVec 1) (c : BitVec 3) (r : BitVec 2)
  /-- REDADD (R235). Posted atomic add with no return. -/
  | redadd (d : BitVec 5) (x : BitVec 5) (g : BitVec 3) (s : BitVec 1) (c : BitVec 3) (r : BitVec 2) (p : BitVec 1)
  /-- REDAND (R235). Posted atomic AND. -/
  | redand (d : BitVec 5) (x : BitVec 5) (g : BitVec 3) (s : BitVec 1) (c : BitVec 3) (r : BitVec 2) (p : BitVec 1)
  /-- REDOR (R235). Posted atomic OR. -/
  | redor (d : BitVec 5) (x : BitVec 5) (g : BitVec 3) (s : BitVec 1) (c : BitVec 3) (r : BitVec 2) (p : BitVec 1)
  /-- REDXOR (R235). Posted atomic XOR. -/
  | redxor (d : BitVec 5) (x : BitVec 5) (g : BitVec 3) (s : BitVec 1) (c : BitVec 3) (r : BitVec 2) (p : BitVec 1)
  /-- REDMIN (R235). Posted atomic signed minimum. -/
  | redmin (d : BitVec 5) (x : BitVec 5) (g : BitVec 3) (s : BitVec 1) (c : BitVec 3) (r : BitVec 2) (p : BitVec 1)
  /-- REDMAX (R235). Posted atomic signed maximum. -/
  | redmax (d : BitVec 5) (x : BitVec 5) (g : BitVec 3) (s : BitVec 1) (c : BitVec 3) (r : BitVec 2) (p : BitVec 1)
  /-- REDFADD (R235). Posted atomic FP32 add. -/
  | redfadd (d : BitVec 5) (x : BitVec 5) (g : BitVec 3) (s : BitVec 1) (c : BitVec 3) (r : BitVec 2)
  /-- LDFE (R228). Waits for full, reads the word and sets it empty. -/
  | ldfe (d : BitVec 5) (x : BitVec 5) (g : BitVec 3) (s : BitVec 1) (c : BitVec 3) (r : BitVec 2) (f : BitVec 4)
  /-- STFE (R228). Waits for empty, writes the word and sets it full. -/
  | stfe (d : BitVec 5) (x : BitVec 5) (g : BitVec 3) (s : BitVec 1) (c : BitVec 3) (r : BitVec 2) (f : BitVec 4)
  /-- LDFF (R228). Waits for full and reads, leaving it full. -/
  | ldff (d : BitVec 5) (x : BitVec 5) (g : BitVec 3) (s : BitVec 1) (c : BitVec 3) (r : BitVec 2) (f : BitVec 4)
  /-- STFF (R228). Writes the word and sets it full. -/
  | stff (d : BitVec 5) (x : BitVec 5) (g : BitVec 3) (s : BitVec 1) (c : BitVec 3) (r : BitVec 2) (f : BitVec 4)
  /-- FEGET (R228). Reads a word's full/empty bit. -/
  | feget (d : BitVec 5) (x : BitVec 5) (g : BitVec 3) (s : BitVec 1) (c : BitVec 3) (r : BitVec 2) (f : BitVec 4)
  /-- FE_RETRY (R229). A failed full/empty attempt is retried after GAP issue periods, then parks. -/
  | feRetry (t : BitVec 12)
  /-- FE_WAKE (R231). A word changing full/empty state wakes parked LDFE, LDFF or STFE waiters. -/
  | feWake (place : Nat) (key : Nat)
  /-- LRW (R237). Enqueues for a line reservation and reads with acquire when granted. -/
  | lrw (d : BitVec 5) (x : BitVec 5) (g : BitVec 3) (s : BitVec 1) (c : BitVec 3) (r : BitVec 2) (f : BitVec 4)
  /-- SCH (R237). Stores with release, releases the reservation and grants the next waiter. -/
  | sch (d : BitVec 5) (x : BitVec 5) (g : BitVec 3) (s : BitVec 1) (c : BitVec 3) (r : BitVec 2) (f : BitVec 4)
  /-- RSVX (R237). Leaves the reservation queue or releases a held reservation. -/
  | rsvx (x : BitVec 5) (g : BitVec 3) (s : BitVec 1) (c : BitVec 3) (r : BitVec 2) (f : BitVec 4)
  /-- RESERVATION_EXPIRY (R238). The hold timer expires; the line passes to the next waiter. -/
  | reservationExpiry (t : BitVec 12)
  /-- WAITA (R240). Registers a wait on a word unless it differs or the deadline passed. -/
  | waita (d : BitVec 5) (x : BitVec 5) (g : BitVec 3) (s : BitVec 1) (c : BitVec 3) (r : BitVec 2) (f : BitVec 4)
  /-- WAKEA (R240). Wakes up to n registered waiters on a word. -/
  | wakea (d : BitVec 5) (x : BitVec 5) (g : BitVec 3) (s : BitVec 1) (c : BitVec 3) (r : BitVec 2) (f : BitVec 4)
  /-- WAITA_DEADLINE (R242). The pitch counter reaches TH_WAITDL; the waiter returns code 2. -/
  | waitaDeadline (t : BitVec 12)
  /-- WAITA_POLL (R241). An unregistered WAITA polls its word every 1,024 pitch ticks. -/
  | waitaPoll (t : BitVec 12)
  /-- CFLUSH (R227). Pushes dirty bytes of a line to its home and drops copies. -/
  | cflush (x : BitVec 5) (g : BitVec 3) (s : BitVec 1) (i : BitVec 10)
  /-- CINVL (R227). Drops the core's L1 and stash copy of a line. -/
  | cinvl (x : BitVec 5) (g : BitVec 3) (s : BitVec 1) (i : BitVec 10)
  /-- CPREF (R227). Prefetches a line under a fresh lease. -/
  | cpref (x : BitVec 5) (g : BitVec 3) (s : BitVec 1) (i : BitVec 10)
  /-- CZERO (R227). Stores 64 zero bytes as one plain store. -/
  | czero (x : BitVec 5) (g : BitVec 3) (s : BitVec 1) (i : BitVec 10)
  /-- FENCE (R225). Orders the thread's accesses of the masked kinds at a scope. -/
  | fence (k : BitVec 4) (c : BitVec 3)
  /-- SDRAIN (R226). Waits until earlier stores are translated and performed or recorded. -/
  | sdrain
  /-- PCLR (R243). Marks a register empty. -/
  | pclr (c : BitVec 2) (i : BitVec 6)
  /-- PSET (R243). Marks a register full. -/
  | pset (c : BitVec 2) (i : BitVec 6)
  /-- PTEST (R243). Writes a register's presence to rd. -/
  | ptest (d : BitVec 5) (c : BitVec 2) (i : BitVec 6)
  /-- PWAIT (R243). Waits until a register is full. -/
  | pwait (c : BitVec 2) (i : BitVec 6)
  /-- PRODUCER_ARRIVAL (R104). A long-latency result arrives and marks its destination full. -/
  | producerArrival (t : BitVec 12) (k : Nat)
  /-- STORE_DRAIN (R223). The head store-buffer entry is translated, checked and performed. -/
  | storeDrain (core : BitVec 9)
  /-- VADD_I8 (R246). Adds I8 lanes under predicate. -/
  | vaddI8 (v : BitVec 6) (a : BitVec 6) (b : BitVec 6) (q : BitVec 3)
  /-- VADD_I16 (R246). Adds I16 lanes. -/
  | vaddI16 (v : BitVec 6) (a : BitVec 6) (b : BitVec 6) (q : BitVec 3)
  /-- VADD_I32 (R246). Adds I32 lanes. -/
  | vaddI32 (v : BitVec 6) (a : BitVec 6) (b : BitVec 6) (q : BitVec 3)
  /-- VSUB_I8 (R246). Subtracts I8 lanes. -/
  | vsubI8 (v : BitVec 6) (a : BitVec 6) (b : BitVec 6) (q : BitVec 3)
  /-- VSUB_I16 (R246). Subtracts I16 lanes. -/
  | vsubI16 (v : BitVec 6) (a : BitVec 6) (b : BitVec 6) (q : BitVec 3)
  /-- VSUB_I32 (R246). Subtracts I32 lanes. -/
  | vsubI32 (v : BitVec 6) (a : BitVec 6) (b : BitVec 6) (q : BitVec 3)
  /-- VMUL_I8 (R246). Multiplies I8 lanes, low bits. -/
  | vmulI8 (v : BitVec 6) (a : BitVec 6) (b : BitVec 6) (q : BitVec 3)
  /-- VMUL_I16 (R246). Multiplies I16 lanes. -/
  | vmulI16 (v : BitVec 6) (a : BitVec 6) (b : BitVec 6) (q : BitVec 3)
  /-- VMUL_I32 (R246). Multiplies I32 lanes. -/
  | vmulI32 (v : BitVec 6) (a : BitVec 6) (b : BitVec 6) (q : BitVec 3)
  /-- VMIN_I8 (R246). Signed minimum of I8 lanes. -/
  | vminI8 (v : BitVec 6) (a : BitVec 6) (b : BitVec 6) (q : BitVec 3)
  /-- VMIN_I16 (R246). Signed minimum of I16 lanes. -/
  | vminI16 (v : BitVec 6) (a : BitVec 6) (b : BitVec 6) (q : BitVec 3)
  /-- VMIN_I32 (R246). Signed minimum of I32 lanes. -/
  | vminI32 (v : BitVec 6) (a : BitVec 6) (b : BitVec 6) (q : BitVec 3)
  /-- VMAX_I8 (R246). Signed maximum of I8 lanes. -/
  | vmaxI8 (v : BitVec 6) (a : BitVec 6) (b : BitVec 6) (q : BitVec 3)
  /-- VMAX_I16 (R246). Signed maximum of I16 lanes. -/
  | vmaxI16 (v : BitVec 6) (a : BitVec 6) (b : BitVec 6) (q : BitVec 3)
  /-- VMAX_I32 (R246). Signed maximum of I32 lanes. -/
  | vmaxI32 (v : BitVec 6) (a : BitVec 6) (b : BitVec 6) (q : BitVec 3)
  /-- VAND_I8 (R246). Bitwise AND of I8 lanes. -/
  | vandI8 (v : BitVec 6) (a : BitVec 6) (b : BitVec 6) (q : BitVec 3)
  /-- VAND_I16 (R246). Bitwise AND of I16 lanes. -/
  | vandI16 (v : BitVec 6) (a : BitVec 6) (b : BitVec 6) (q : BitVec 3)
  /-- VAND_I32 (R246). Bitwise AND of I32 lanes. -/
  | vandI32 (v : BitVec 6) (a : BitVec 6) (b : BitVec 6) (q : BitVec 3)
  /-- VOR_I8 (R246). Bitwise OR of I8 lanes. -/
  | vorI8 (v : BitVec 6) (a : BitVec 6) (b : BitVec 6) (q : BitVec 3)
  /-- VOR_I16 (R246). Bitwise OR of I16 lanes. -/
  | vorI16 (v : BitVec 6) (a : BitVec 6) (b : BitVec 6) (q : BitVec 3)
  /-- VOR_I32 (R246). Bitwise OR of I32 lanes. -/
  | vorI32 (v : BitVec 6) (a : BitVec 6) (b : BitVec 6) (q : BitVec 3)
  /-- VXOR_I8 (R246). Bitwise XOR of I8 lanes. -/
  | vxorI8 (v : BitVec 6) (a : BitVec 6) (b : BitVec 6) (q : BitVec 3)
  /-- VXOR_I16 (R246). Bitwise XOR of I16 lanes. -/
  | vxorI16 (v : BitVec 6) (a : BitVec 6) (b : BitVec 6) (q : BitVec 3)
  /-- VXOR_I32 (R246). Bitwise XOR of I32 lanes. -/
  | vxorI32 (v : BitVec 6) (a : BitVec 6) (b : BitVec 6) (q : BitVec 3)
  /-- VSLL_I8 (R246). Left shift of I8 lanes. -/
  | vsllI8 (v : BitVec 6) (a : BitVec 6) (b : BitVec 6) (q : BitVec 3)
  /-- VSLL_I16 (R246). Left shift of I16 lanes. -/
  | vsllI16 (v : BitVec 6) (a : BitVec 6) (b : BitVec 6) (q : BitVec 3)
  /-- VSLL_I32 (R246). Left shift of I32 lanes. -/
  | vsllI32 (v : BitVec 6) (a : BitVec 6) (b : BitVec 6) (q : BitVec 3)
  /-- VSRL_I8 (R246). Logical right shift of I8 lanes. -/
  | vsrlI8 (v : BitVec 6) (a : BitVec 6) (b : BitVec 6) (q : BitVec 3)
  /-- VSRL_I16 (R246). Logical right shift of I16 lanes. -/
  | vsrlI16 (v : BitVec 6) (a : BitVec 6) (b : BitVec 6) (q : BitVec 3)
  /-- VSRL_I32 (R246). Logical right shift of I32 lanes. -/
  | vsrlI32 (v : BitVec 6) (a : BitVec 6) (b : BitVec 6) (q : BitVec 3)
  /-- VSRA_I8 (R246). Arithmetic right shift of I8 lanes. -/
  | vsraI8 (v : BitVec 6) (a : BitVec 6) (b : BitVec 6) (q : BitVec 3)
  /-- VSRA_I16 (R246). Arithmetic right shift of I16 lanes. -/
  | vsraI16 (v : BitVec 6) (a : BitVec 6) (b : BitVec 6) (q : BitVec 3)
  /-- VSRA_I32 (R246). Arithmetic right shift of I32 lanes. -/
  | vsraI32 (v : BitVec 6) (a : BitVec 6) (b : BitVec 6) (q : BitVec 3)
  /-- VABS_I8 (R246). Absolute value of I8 lanes. -/
  | vabsI8 (v : BitVec 6) (a : BitVec 6) (q : BitVec 3)
  /-- VABS_I16 (R246). Absolute value of I16 lanes. -/
  | vabsI16 (v : BitVec 6) (a : BitVec 6) (q : BitVec 3)
  /-- VABS_I32 (R246). Absolute value of I32 lanes. -/
  | vabsI32 (v : BitVec 6) (a : BitVec 6) (q : BitVec 3)
  /-- VNEG_I8 (R246). Negates I8 lanes. -/
  | vnegI8 (v : BitVec 6) (a : BitVec 6) (q : BitVec 3)
  /-- VNEG_I16 (R246). Negates I16 lanes. -/
  | vnegI16 (v : BitVec 6) (a : BitVec 6) (q : BitVec 3)
  /-- VNEG_I32 (R246). Negates I32 lanes. -/
  | vnegI32 (v : BitVec 6) (a : BitVec 6) (q : BitVec 3)
  /-- VSAT_I8 (R246). Clamps I8 lanes to n bits, setting SATD. -/
  | vsatI8 (v : BitVec 6) (a : BitVec 6) (n : BitVec 6) (q : BitVec 3)
  /-- VSAT_I16 (R246). Clamps I16 lanes to n bits. -/
  | vsatI16 (v : BitVec 6) (a : BitVec 6) (n : BitVec 6) (q : BitVec 3)
  /-- VSAT_I32 (R246). Clamps I32 lanes to n bits. -/
  | vsatI32 (v : BitVec 6) (a : BitVec 6) (n : BitVec 6) (q : BitVec 3)
  /-- VMOV_I8 (R246). Copies 8-bit lanes. -/
  | vmovI8 (v : BitVec 6) (a : BitVec 6) (q : BitVec 3)
  /-- VMOV_I16 (R246). Copies 16-bit lanes. -/
  | vmovI16 (v : BitVec 6) (a : BitVec 6) (q : BitVec 3)
  /-- VMOV_I32 (R246). Copies 32-bit lanes. -/
  | vmovI32 (v : BitVec 6) (a : BitVec 6) (q : BitVec 3)
  /-- VPERM_I8 (R246). Permutes 8-bit lanes by index. -/
  | vpermI8 (v : BitVec 6) (a : BitVec 6) (b : BitVec 6) (q : BitVec 3)
  /-- VPERM_I16 (R246). Permutes 16-bit lanes by index. -/
  | vpermI16 (v : BitVec 6) (a : BitVec 6) (b : BitVec 6) (q : BitVec 3)
  /-- VPERM_I32 (R246). Permutes 32-bit lanes by index. -/
  | vpermI32 (v : BitVec 6) (a : BitVec 6) (b : BitVec 6) (q : BitVec 3)
  /-- VCMP_EQ_I8 (R248). Compares I8 lanes for equality into a predicate. -/
  | vcmpEqI8 (p : BitVec 3) (a : BitVec 6) (b : BitVec 6) (q : BitVec 3)
  /-- VCMP_EQ_I16 (R248). Compares I16 lanes for equality. -/
  | vcmpEqI16 (p : BitVec 3) (a : BitVec 6) (b : BitVec 6) (q : BitVec 3)
  /-- VCMP_EQ_I32 (R248). Compares I32 lanes for equality. -/
  | vcmpEqI32 (p : BitVec 3) (a : BitVec 6) (b : BitVec 6) (q : BitVec 3)
  /-- VCMP_NE_I8 (R248). Compares I8 lanes for inequality. -/
  | vcmpNeI8 (p : BitVec 3) (a : BitVec 6) (b : BitVec 6) (q : BitVec 3)
  /-- VCMP_NE_I16 (R248). Compares I16 lanes for inequality. -/
  | vcmpNeI16 (p : BitVec 3) (a : BitVec 6) (b : BitVec 6) (q : BitVec 3)
  /-- VCMP_NE_I32 (R248). Compares I32 lanes for inequality. -/
  | vcmpNeI32 (p : BitVec 3) (a : BitVec 6) (b : BitVec 6) (q : BitVec 3)
  /-- VCMP_LT_I8 (R248). Signed less-than of I8 lanes. -/
  | vcmpLtI8 (p : BitVec 3) (a : BitVec 6) (b : BitVec 6) (q : BitVec 3)
  /-- VCMP_LT_I16 (R248). Signed less-than of I16 lanes. -/
  | vcmpLtI16 (p : BitVec 3) (a : BitVec 6) (b : BitVec 6) (q : BitVec 3)
  /-- VCMP_LT_I32 (R248). Signed less-than of I32 lanes. -/
  | vcmpLtI32 (p : BitVec 3) (a : BitVec 6) (b : BitVec 6) (q : BitVec 3)
  /-- VCMP_LE_I8 (R248). Signed less-or-equal of I8 lanes. -/
  | vcmpLeI8 (p : BitVec 3) (a : BitVec 6) (b : BitVec 6) (q : BitVec 3)
  /-- VCMP_LE_I16 (R248). Signed less-or-equal of I16 lanes. -/
  | vcmpLeI16 (p : BitVec 3) (a : BitVec 6) (b : BitVec 6) (q : BitVec 3)
  /-- VCMP_LE_I32 (R248). Signed less-or-equal of I32 lanes. -/
  | vcmpLeI32 (p : BitVec 3) (a : BitVec 6) (b : BitVec 6) (q : BitVec 3)
  /-- VCMP_LTU_I8 (R248). Unsigned less-than of I8 lanes. -/
  | vcmpLtuI8 (p : BitVec 3) (a : BitVec 6) (b : BitVec 6) (q : BitVec 3)
  /-- VCMP_LTU_I16 (R248). Unsigned less-than of I16 lanes. -/
  | vcmpLtuI16 (p : BitVec 3) (a : BitVec 6) (b : BitVec 6) (q : BitVec 3)
  /-- VCMP_LTU_I32 (R248). Unsigned less-than of I32 lanes. -/
  | vcmpLtuI32 (p : BitVec 3) (a : BitVec 6) (b : BitVec 6) (q : BitVec 3)
  /-- VCMP_LEU_I8 (R248). Unsigned less-or-equal of I8 lanes. -/
  | vcmpLeuI8 (p : BitVec 3) (a : BitVec 6) (b : BitVec 6) (q : BitVec 3)
  /-- VCMP_LEU_I16 (R248). Unsigned less-or-equal of I16 lanes. -/
  | vcmpLeuI16 (p : BitVec 3) (a : BitVec 6) (b : BitVec 6) (q : BitVec 3)
  /-- VCMP_LEU_I32 (R248). Unsigned less-or-equal of I32 lanes. -/
  | vcmpLeuI32 (p : BitVec 3) (a : BitVec 6) (b : BitVec 6) (q : BitVec 3)
  /-- VRADD_I8 (R249). Sums active I8 lanes into lane 0. -/
  | vraddI8 (v : BitVec 6) (a : BitVec 6) (q : BitVec 3)
  /-- VRADD_I16 (R249). Sums active I16 lanes into lane 0. -/
  | vraddI16 (v : BitVec 6) (a : BitVec 6) (q : BitVec 3)
  /-- VRADD_I32 (R249). Sums active I32 lanes into lane 0. -/
  | vraddI32 (v : BitVec 6) (a : BitVec 6) (q : BitVec 3)
  /-- VRMAX_I8 (R249). Greatest active I8 lane into lane 0. -/
  | vrmaxI8 (v : BitVec 6) (a : BitVec 6) (q : BitVec 3)
  /-- VRMAX_I16 (R249). Greatest active I16 lane into lane 0. -/
  | vrmaxI16 (v : BitVec 6) (a : BitVec 6) (q : BitVec 3)
  /-- VRMAX_I32 (R249). Greatest active I32 lane into lane 0. -/
  | vrmaxI32 (v : BitVec 6) (a : BitVec 6) (q : BitVec 3)
  /-- VRMIN_I8 (R249). Least active I8 lane into lane 0. -/
  | vrminI8 (v : BitVec 6) (a : BitVec 6) (q : BitVec 3)
  /-- VRMIN_I16 (R249). Least active I16 lane into lane 0. -/
  | vrminI16 (v : BitVec 6) (a : BitVec 6) (q : BitVec 3)
  /-- VRMIN_I32 (R249). Least active I32 lane into lane 0. -/
  | vrminI32 (v : BitVec 6) (a : BitVec 6) (q : BitVec 3)
  /-- VFADD_F16 (R247). Adds F16 lanes, rounded once. -/
  | vfaddF16 (v : BitVec 6) (a : BitVec 6) (b : BitVec 6) (q : BitVec 3)
  /-- VFADD_BF16 (R247). Adds BF16 lanes. -/
  | vfaddBf16 (v : BitVec 6) (a : BitVec 6) (b : BitVec 6) (q : BitVec 3)
  /-- VFADD_F32 (R247). Adds F32 lanes. -/
  | vfaddF32 (v : BitVec 6) (a : BitVec 6) (b : BitVec 6) (q : BitVec 3)
  /-- VFSUB_F16 (R247). Subtracts F16 lanes. -/
  | vfsubF16 (v : BitVec 6) (a : BitVec 6) (b : BitVec 6) (q : BitVec 3)
  /-- VFSUB_BF16 (R247). Subtracts BF16 lanes. -/
  | vfsubBf16 (v : BitVec 6) (a : BitVec 6) (b : BitVec 6) (q : BitVec 3)
  /-- VFSUB_F32 (R247). Subtracts F32 lanes. -/
  | vfsubF32 (v : BitVec 6) (a : BitVec 6) (b : BitVec 6) (q : BitVec 3)
  /-- VFMUL_F16 (R247). Multiplies F16 lanes. -/
  | vfmulF16 (v : BitVec 6) (a : BitVec 6) (b : BitVec 6) (q : BitVec 3)
  /-- VFMUL_BF16 (R247). Multiplies BF16 lanes. -/
  | vfmulBf16 (v : BitVec 6) (a : BitVec 6) (b : BitVec 6) (q : BitVec 3)
  /-- VFMUL_F32 (R247). Multiplies F32 lanes. -/
  | vfmulF32 (v : BitVec 6) (a : BitVec 6) (b : BitVec 6) (q : BitVec 3)
  /-- VFMA_F16 (R247). Fused multiply-add of F16 lanes into vd. -/
  | vfmaF16 (v : BitVec 6) (a : BitVec 6) (b : BitVec 6) (q : BitVec 3)
  /-- VFMA_BF16 (R247). Fused multiply-add of BF16 lanes. -/
  | vfmaBf16 (v : BitVec 6) (a : BitVec 6) (b : BitVec 6) (q : BitVec 3)
  /-- VFMA_F32 (R247). Fused multiply-add of F32 lanes. -/
  | vfmaF32 (v : BitVec 6) (a : BitVec 6) (b : BitVec 6) (q : BitVec 3)
  /-- VFMIN_F16 (R247). Minimum of F16 lanes. -/
  | vfminF16 (v : BitVec 6) (a : BitVec 6) (b : BitVec 6) (q : BitVec 3)
  /-- VFMIN_BF16 (R247). Minimum of BF16 lanes. -/
  | vfminBf16 (v : BitVec 6) (a : BitVec 6) (b : BitVec 6) (q : BitVec 3)
  /-- VFMIN_F32 (R247). Minimum of F32 lanes. -/
  | vfminF32 (v : BitVec 6) (a : BitVec 6) (b : BitVec 6) (q : BitVec 3)
  /-- VFMAX_F16 (R247). Maximum of F16 lanes. -/
  | vfmaxF16 (v : BitVec 6) (a : BitVec 6) (b : BitVec 6) (q : BitVec 3)
  /-- VFMAX_BF16 (R247). Maximum of BF16 lanes. -/
  | vfmaxBf16 (v : BitVec 6) (a : BitVec 6) (b : BitVec 6) (q : BitVec 3)
  /-- VFMAX_F32 (R247). Maximum of F32 lanes. -/
  | vfmaxF32 (v : BitVec 6) (a : BitVec 6) (b : BitVec 6) (q : BitVec 3)
  /-- VFDIV_F16 (R247). Divides F16 lanes. -/
  | vfdivF16 (v : BitVec 6) (a : BitVec 6) (b : BitVec 6) (q : BitVec 3)
  /-- VFDIV_BF16 (R247). Divides BF16 lanes. -/
  | vfdivBf16 (v : BitVec 6) (a : BitVec 6) (b : BitVec 6) (q : BitVec 3)
  /-- VFDIV_F32 (R247). Divides F32 lanes. -/
  | vfdivF32 (v : BitVec 6) (a : BitVec 6) (b : BitVec 6) (q : BitVec 3)
  /-- VFSQRT_F16 (R247). Square root of F16 lanes. -/
  | vfsqrtF16 (v : BitVec 6) (a : BitVec 6) (q : BitVec 3)
  /-- VFSQRT_BF16 (R247). Square root of BF16 lanes. -/
  | vfsqrtBf16 (v : BitVec 6) (a : BitVec 6) (q : BitVec 3)
  /-- VFSQRT_F32 (R247). Square root of F32 lanes. -/
  | vfsqrtF32 (v : BitVec 6) (a : BitVec 6) (q : BitVec 3)
  /-- VCMP_EQ_F16 (R248). Quiet equality compare of F16 lanes. -/
  | vcmpEqF16 (p : BitVec 3) (a : BitVec 6) (b : BitVec 6) (q : BitVec 3)
  /-- VCMP_EQ_BF16 (R248). Quiet equality compare of BF16 lanes. -/
  | vcmpEqBf16 (p : BitVec 3) (a : BitVec 6) (b : BitVec 6) (q : BitVec 3)
  /-- VCMP_EQ_F32 (R248). Quiet equality compare of F32 lanes. -/
  | vcmpEqF32 (p : BitVec 3) (a : BitVec 6) (b : BitVec 6) (q : BitVec 3)
  /-- VCMP_NE_F16 (R248). Ordered inequality of F16 lanes. -/
  | vcmpNeF16 (p : BitVec 3) (a : BitVec 6) (b : BitVec 6) (q : BitVec 3)
  /-- VCMP_NE_BF16 (R248). Ordered inequality of BF16 lanes. -/
  | vcmpNeBf16 (p : BitVec 3) (a : BitVec 6) (b : BitVec 6) (q : BitVec 3)
  /-- VCMP_NE_F32 (R248). Ordered inequality of F32 lanes. -/
  | vcmpNeF32 (p : BitVec 3) (a : BitVec 6) (b : BitVec 6) (q : BitVec 3)
  /-- VCMP_LT_F16 (R248). Less-than of F16 lanes. -/
  | vcmpLtF16 (p : BitVec 3) (a : BitVec 6) (b : BitVec 6) (q : BitVec 3)
  /-- VCMP_LT_BF16 (R248). Less-than of BF16 lanes. -/
  | vcmpLtBf16 (p : BitVec 3) (a : BitVec 6) (b : BitVec 6) (q : BitVec 3)
  /-- VCMP_LT_F32 (R248). Less-than of F32 lanes. -/
  | vcmpLtF32 (p : BitVec 3) (a : BitVec 6) (b : BitVec 6) (q : BitVec 3)
  /-- VCMP_LE_F16 (R248). Less-or-equal of F16 lanes. -/
  | vcmpLeF16 (p : BitVec 3) (a : BitVec 6) (b : BitVec 6) (q : BitVec 3)
  /-- VCMP_LE_BF16 (R248). Less-or-equal of BF16 lanes. -/
  | vcmpLeBf16 (p : BitVec 3) (a : BitVec 6) (b : BitVec 6) (q : BitVec 3)
  /-- VCMP_LE_F32 (R248). Less-or-equal of F32 lanes. -/
  | vcmpLeF32 (p : BitVec 3) (a : BitVec 6) (b : BitVec 6) (q : BitVec 3)
  /-- VCMP_UN_F16 (R248). Unordered test of F16 lanes. -/
  | vcmpUnF16 (p : BitVec 3) (a : BitVec 6) (b : BitVec 6) (q : BitVec 3)
  /-- VCMP_UN_BF16 (R248). Unordered test of BF16 lanes. -/
  | vcmpUnBf16 (p : BitVec 3) (a : BitVec 6) (b : BitVec 6) (q : BitVec 3)
  /-- VCMP_UN_F32 (R248). Unordered test of F32 lanes. -/
  | vcmpUnF32 (p : BitVec 3) (a : BitVec 6) (b : BitVec 6) (q : BitVec 3)
  /-- VRFADD_F16 (R250). Pairwise-tree sum of active F16 lanes. -/
  | vrfaddF16 (v : BitVec 6) (a : BitVec 6) (q : BitVec 3)
  /-- VRFADD_BF16 (R250). Pairwise-tree sum of active BF16 lanes. -/
  | vrfaddBf16 (v : BitVec 6) (a : BitVec 6) (q : BitVec 3)
  /-- VRFADD_F32 (R250). Pairwise-tree sum of active F32 lanes. -/
  | vrfaddF32 (v : BitVec 6) (a : BitVec 6) (q : BitVec 3)
  /-- VBCAST_I8 (R251). Broadcasts a scalar into active 8-bit lanes. -/
  | vbcastI8 (v : BitVec 6) (r : BitVec 5) (q : BitVec 3)
  /-- VBCAST_I16 (R251). Broadcasts a scalar into active 16-bit lanes. -/
  | vbcastI16 (v : BitVec 6) (r : BitVec 5) (q : BitVec 3)
  /-- VBCAST_I32 (R251). Broadcasts a scalar into active 32-bit lanes. -/
  | vbcastI32 (v : BitVec 6) (r : BitVec 5) (q : BitVec 3)
  /-- VEXT_I8 (R251). Extracts an 8-bit lane into a scalar, sign-extended. -/
  | vextI8 (n : BitVec 5) (a : BitVec 6) (r : BitVec 5)
  /-- VEXT_I16 (R251). Extracts a 16-bit lane into a scalar. -/
  | vextI16 (n : BitVec 5) (a : BitVec 6) (r : BitVec 5)
  /-- VEXT_I32 (R251). Extracts a 32-bit lane into a scalar. -/
  | vextI32 (n : BitVec 5) (a : BitVec 6) (r : BitVec 5)
  /-- VINS_I8 (R251). Inserts a scalar into one 8-bit lane. -/
  | vinsI8 (v : BitVec 6) (n : BitVec 5) (r : BitVec 5)
  /-- VINS_I16 (R251). Inserts a scalar into one 16-bit lane. -/
  | vinsI16 (v : BitVec 6) (n : BitVec 5) (r : BitVec 5)
  /-- VINS_I32 (R251). Inserts a scalar into one 32-bit lane. -/
  | vinsI32 (v : BitVec 6) (n : BitVec 5) (r : BitVec 5)
  /-- QAND (R252). ANDs two predicates. -/
  | qand (d : BitVec 3) (a : BitVec 3) (b : BitVec 3)
  /-- QOR (R252). ORs two predicates. -/
  | qor (d : BitVec 3) (a : BitVec 3) (b : BitVec 3)
  /-- QXOR (R252). XORs two predicates. -/
  | qxor (d : BitVec 3) (a : BitVec 3) (b : BitVec 3)
  /-- QNOT (R252). Complements a predicate. -/
  | qnot (d : BitVec 3) (a : BitVec 3)
  /-- QPOP (R252). Counts one bits of a predicate into a scalar. -/
  | qpop (a : BitVec 3) (r : BitVec 5)
  /-- QFIRST (R252). Writes the index of a predicate's lowest one bit. -/
  | qfirst (a : BitVec 3) (r : BitVec 5)
  /-- VCVT (R253). Converts lanes between equal-width types. -/
  | vcvt (v : BitVec 6) (a : BitVec 6) (r : BitVec 3) (q : BitVec 3) (dt : BitVec 3) (st : BitVec 3)
  /-- VPACK (R253). Narrows a register group into one register. -/
  | vpack (v : BitVec 6) (a : BitVec 6) (r : BitVec 3) (q : BitVec 3) (dt : BitVec 3) (st : BitVec 3)
  /-- VUNPK (R253). Widens one register into a register group. -/
  | vunpk (v : BitVec 6) (a : BitVec 6) (r : BitVec 3) (q : BitVec 3) (dt : BitVec 3) (st : BitVec 3)
  /-- VLD (R255). Loads an aligned 32-byte block. -/
  | vld (v : BitVec 6) (g : BitVec 3) (x : BitVec 5) (q : BitVec 3) (i : BitVec 6)
  /-- VST (R255). Stores an aligned 32-byte block as one entry. -/
  | vst (v : BitVec 6) (g : BitVec 3) (x : BitVec 5) (q : BitVec 3) (i : BitVec 6)
  /-- VLDS (R256). Strided load of 8 words. -/
  | vlds (v : BitVec 6) (g : BitVec 3) (x : BitVec 5) (q : BitVec 3) (i : BitVec 6)
  /-- VSTS (R257). Strided store of 8 words, one entry each. -/
  | vsts (v : BitVec 6) (g : BitVec 3) (x : BitVec 5) (q : BitVec 3) (i : BitVec 6)
  /-- VGATH (R256). Gathers 8 words by vector index. -/
  | vgath (v : BitVec 6) (g : BitVec 3) (x : BitVec 5) (q : BitVec 3) (i : BitVec 6)
  /-- VSCAT (R257). Scatters 8 words by vector index. -/
  | vscat (v : BitVec 6) (g : BitVec 3) (x : BitVec 5) (q : BitVec 3) (i : BitVec 6)
  /-- VLDB (R259). Loads a group decoded through the bank's register view. -/
  | vldb (v : BitVec 6) (g : BitVec 3) (x : BitVec 5) (q : BitVec 3) (i : BitVec 6)
  /-- VSTB (R260). Stores lanes encoded into the bank's storage format. -/
  | vstb (v : BitVec 6) (g : BitVec 3) (x : BitVec 5) (q : BitVec 3) (i : BitVec 6)
  /-- LEASE (R268). Requests an engine lease and joins the class queue. -/
  | lease (e : BitVec 2) (a : BitVec 5) (b : BitVec 5)
  /-- LRENEW (R269). Restarts the lease term and clears OVD. -/
  | lrenew (e : BitVec 2) (a : BitVec 5)
  /-- LFREE (R270). Releases the lease slot and winds down its engine. -/
  | lfree (e : BitVec 2)
  /-- LSTAT (R271). Returns lease state; the acquire form joins completed operations. -/
  | lstat (e : BitVec 2) (d : BitVec 5) (c : BitVec 5)
  /-- LWAIT (R271). Waits until the lease leaves REQUESTED and WAKING, or a limit passes. -/
  | lwait (e : BitVec 2) (d : BitVec 5) (a : BitVec 5)
  /-- LWAIT_TIMEOUT (R271). The LWAIT limit in pitch ticks runs out; TIMEOUT is returned. -/
  | lwaitTimeout (t : BitVec 12) (e : BitVec 2)
  /-- ECFG (R272). Writes a geometry register of a lease slot. -/
  | ecfg (e : BitVec 2) (a : BitVec 5) (k : BitVec 5)
  /-- ALL_REDUCE (R286). An ECFG of ec11 bit 0 on an LXE lease issues an all-reduce operation. -/
  | allReduce (e : BitVec 2) (a : BitVec 5)
  /-- EGET (R272). Reads a geometry register into rd. -/
  | eget (e : BitVec 2) (d : BitVec 5) (k : BitVec 5)
  /-- EWAIT (R273). Waits for the lease's operations and joins the completed ones. -/
  | ewait (e : BitVec 2) (d : BitVec 5)
  /-- MLDS (R275). Fetches a k-block of B into the shadow plane. -/
  | mlds (e : BitVec 2) (a : BitVec 5)
  /-- MSWAP (R275). Exchanges stationary and shadow planes. -/
  | mswap (e : BitVec 2)
  /-- MSTREAM (R275). Streams A rows of one k-block through the stationary plane. -/
  | mstream (e : BitVec 2) (a : BitVec 5)
  /-- MTILE (R275). Runs a whole tile product over all k-blocks. -/
  | mtile (e : BitVec 2)
  /-- MROT (R276). Multiplies resident blocks and rotates A west and B north. -/
  | mrot (e : BitVec 2)
  /-- MDRAIN (R277). Rounds an accumulator bank and writes it to a core's local store. -/
  | mdrain (e : BitVec 2) (a : BitVec 5) (b : BitVec 5)
  /-- MZERO (R275). Starts a new accumulation in a bank. -/
  | mzero (e : BitVec 2) (a : BitVec 5)
  /-- MRESUME (R275). Continues a fault-stopped operation from POS. -/
  | mresume (e : BitVec 2)
  /-- RLDS (R279). Fetches a B k-block into the RXE and swaps planes. -/
  | rlds (e : BitVec 2) (a : BitVec 5)
  /-- RTILE (R279). Runs the residue product from a first k-block. -/
  | rtile (e : BitVec 2) (a : BitVec 5)
  /-- RCONV (R279). Converts residue outputs and writes them. -/
  | rconv (e : BitVec 2)
  /-- GCONV (R284). Converts COUNT elements between formats. -/
  | gconv (e : BitVec 2)
  /-- GGATH (R285). Gathers elements by an index array. -/
  | ggath (e : BitVec 2)
  /-- GCOPY (R285). Copies a CAR tensor out to ordinary memory. -/
  | gcopy (e : BitVec 2)
  /-- HDIGEST (R281). Computes SHA3-256 of LEN bytes. -/
  | hdigest (e : BitVec 2)
  /-- HINGEST (R282). Looks up or allocates LEN lines in the CAR store. -/
  | hingest (e : BitVec 2)
  /-- LEASE_GRANT (R160). A queue head is granted an engine when one is free and budget allows. -/
  | leaseGrant (queue : Nat)
  /-- ENGINE_WAKE_DONE (R159). An engine finishes its wake or handoff; the lease becomes HELD. -/
  | engineWakeDone (engine : Nat)
  /-- LEASE_TERM_EXPIRY (R269). A held lease's term expires; OVD becomes 1. -/
  | leaseTermExpiry (t : BitVec 12) (e : BitVec 2)
  /-- FORCED_EVICTION (R162). Lease pressure or the clamp evicts a victim lease. -/
  | forcedEviction (engine : Nat)
  /-- ENGINE_STEP (R264). An engine fetches a step's operands and applies the step. -/
  | engineStep (engine : Nat)
  /-- ENGINE_POWER_OFF (R399). A stopped engine opens its switches and its units stop counting. -/
  | enginePowerOff (engine : Nat)
  /-- COPY (R288). Queues a copy request into the copy FIFO. -/
  | copy (a : BitVec 5) (s : BitVec 1) (bd : BitVec 3) (bs : BitVec 3)
  /-- COPY_NB (R288). Queues a copy request if the FIFO has room. -/
  | copyNb (r : BitVec 5) (a : BitVec 5) (s : BitVec 1) (bd : BitVec 3) (bs : BitVec 3)
  /-- TCOPY (R289). Queues a tensor copy from a layout record. -/
  | tcopy (a : BitVec 5) (s : BitVec 1)
  /-- CSEAL (R290). Seals the open batch and returns its number. -/
  | cseal (d : BitVec 5)
  /-- CWAIT (R290). Waits until at most n sealed batches are unfinished. -/
  | cwait (n : BitVec 5)
  /-- CPOLL (R290). Reports whether a batch has finished. -/
  | cpoll (d : BitVec 5) (a : BitVec 5) (s : BitVec 1)
  /-- COPY_DISPATCH (R82). A FIFO entry is dispatched to the CCE once earlier stores drain. -/
  | copyDispatch (core : BitVec 9)
  /-- COPY_REQUEST_END (R91). A copy request completes or fails and its failure is recorded. -/
  | copyRequestEnd (cl : BitVec 5) (idx : Nat)
  /-- BATCH_FINISH (R88). A sealed batch finishes; flags are ORed and any pluck posted. -/
  | batchFinish (t : BitVec 12)
  /-- CLKL (R293). Looks up or allocates a leaf line and returns its name. -/
  | clkl (a : BitVec 6) (r : BitVec 5)
  /-- CLKN (R293). Looks up or allocates a node line. -/
  | clkn (a : BitVec 6) (r : BitVec 5)
  /-- CNLD (R293). Reads a named line's 64 bytes. -/
  | cnld (v : BitVec 6) (r : BitVec 5)
  /-- CREF (R293). Increments a live line's reference count. -/
  | cref (r : BitVec 5)
  /-- CREL (R293). Decrements a count; at zero the line becomes DYING. -/
  | crel (r : BitVec 5)
  /-- CSTAT (R293). Returns a live line's count and kind. -/
  | cstat (r : BitVec 5)
  /-- RECLAIM_STEP (R49). The reclaim walker takes one DYING line and frees it. -/
  | reclaimStep
  /-- SEND (R297). Sends a 32-byte message, retrying until accepted. -/
  | send (a : BitVec 5) (v : BitVec 5) (s : BitVec 1)
  /-- SEND_RETRY (R297). A refused SEND retries every 64 cycles until TH_SENDLIM gives SEND_STALL. -/
  | sendRetry (t : BitVec 12)
  /-- SENDNB (R297). Makes one delivery attempt and returns a status. -/
  | sendnb (d : BitVec 5) (a : BitVec 5) (v : BitVec 5) (s : BitVec 1)
  /-- RECV (R299). Waits for and removes the oldest message of the interface. -/
  | recv (v : BitVec 5) (a : BitVec 5)
  /-- RECVP (R299). Removes the oldest message if one is present. -/
  | recvp (v : BitVec 5) (a : BitVec 5)
  /-- MESSAGE_ARRIVAL (R295). A message arrives at a core and is queued, overflowed or refused. -/
  | messageArrival (idx : Nat)
  /-- REPLY (R303). Ends a CALLAT child and fills its caller's rd. -/
  | reply (a : BitVec 5) (s : BitVec 1)
  /-- WAKEST (R304). Releases and posts a wake-up of a later stage. -/
  | wakest (a : BitVec 5) (b : BitVec 5) (s : BitVec 1) (t : BitVec 1)
  /-- TEXIT (R302). Seals and waits for copies, drains, frees leases, releases and ends the thread. -/
  | texit
  /-- CALLAT_ARRIVAL (R211). A CALLAT request arrives and is accepted into the task queue or refused. -/
  | callatArrival (idx : Nat)
  /-- TASK_QUEUE_START (R346). A queued CALLAT child starts on a freed slot. -/
  | taskQueueStart (core : BitVec 9)
  /-- ARRIVE (R309). Posts a barrier arrival, deferred if it carries a credit. -/
  | arrive (a : BitVec 5) (b : BitVec 5) (s : BitVec 1) (t : BitVec 1) (c : BitVec 3) (o : BitVec 2)
  /-- EXPECT (R310). Adds expected bytes to a barrier's balance. -/
  | expect (a : BitVec 5) (b : BitVec 5) (s : BitVec 1) (t : BitVec 1)
  /-- BWAIT (R310). Waits until the barrier phase moves on, then acquires. -/
  | bwait (d : BitVec 5) (a : BitVec 5) (b : BitVec 5) (s : BitVec 1) (t : BitVec 1) (c : BitVec 3)
  /-- BTEST (R310). Reads a barrier's phase, arrivals and balance flag. -/
  | btest (d : BitVec 5) (a : BitVec 5) (s : BitVec 1)
  /-- DEFERRED_ARRIVAL (R309). A deferred arrival is sent once earlier copies and engine operations end. -/
  | deferredArrival (t : BitVec 12)
  /-- BARRIER_CYCLE (R307). A barrier resolves its cycle's arrivals, completion and expectations. -/
  | barrierCycle (cl : BitVec 5) (n : BitVec 4)
  /-- SVC (R313). Traps to S mode with SVC_CALL. -/
  | svc (n : BitVec 12)
  /-- MCALL (R313). Traps to M mode with MONITOR_CALL. -/
  | mcall (n : BitVec 12)
  /-- XRET (R377). Returns from the trap handled in the current mode. -/
  | xret
  /-- UPRET (R313). Leaves an upcall frame, restoring k0-k3 and PC. -/
  | upret
  /-- PLRET (R313). Returns from a pluck handler, restoring w8-w11. -/
  | plret
  /-- SYSRD (R315). Reads a system register. -/
  | sysrd (d : BitVec 5) (n : BitVec 12)
  /-- SYSWR (R315). Writes a system register under its field access. -/
  | syswr (a : BitVec 5) (n : BitVec 12)
  /-- SYSSET (R315). Sets masked RW bits and returns the old value. -/
  | sysset (d : BitVec 5) (a : BitVec 5) (n : BitVec 12)
  /-- SYSCLR (R315). Clears masked RW bits and returns the old value. -/
  | sysclr (d : BitVec 5) (a : BitVec 5) (n : BitVec 12)
  /-- HALT (R314). Stops the issuing slot in place. -/
  | halt
  /-- TLBINV_PG (R320). Drops a PASID's translations of one page module-wide. -/
  | tlbinvPg (a : BitVec 5) (g : BitVec 3)
  /-- TLBINV_AS (R320). Drops every translation of a PASID. -/
  | tlbinvAs (a : BitVec 5)
  /-- TLBINV_ALL (R320). Drops every translation. -/
  | tlbinvAll
  /-- RPUT (R321). Writes a scalar register of another core's slot. -/
  | rput (i : BitVec 5) (a : BitVec 5) (v : BitVec 5)
  /-- BRK (R313). Traps to S mode with BREAKPOINT. -/
  | brk (n : BitVec 12)
  /-- STORE_FAULT_DELIVERY (R384). Pending store-fault records are copied to bank 15 and STORE_FAULT taken. -/
  | storeFaultDelivery (t : BitVec 12)
  /-- POSTED_CAUSE_DELIVERY (R390). A posted cause is taken at a U-mode issue boundary. -/
  | postedCauseDelivery (t : BitVec 12)
  /-- PLUCK_DELIVERY (R389). A pending enabled notice is delivered to the pluck handler. -/
  | pluckDelivery (t : BitVec 12)
  /-- MACHINE_CHECK (R375). A parity error in core state raises MACHINE_CHECK to the monitor. -/
  | machineCheck (t : BitVec 12) (structureNo : BitVec 8) (entry : BitVec 8)
  /-- UNCORRECTABLE_ERROR (R428). An uncorrectable memory error poisons the line or faults the reader. -/
  | uncorrectableError (line : Nat)
  /-- TRANSLATION_FILL (R14). A returned translation is installed and wakes its waiters. -/
  | translationFill (pasid : BitVec 20) (va : BitVec 64) (resp : FillResponse)
  /-- PRG_RESPONSE (R19). A host Page Request Group response posts fault-completion notices. -/
  | prgResponse (pasid : BitVec 20) (page : BitVec 64) (ok : Bool)
  /-- ATS_INVALIDATION (R20). The host invalidates translations; completion waits for affected accesses. -/
  | atsInvalidation (pasid : BitVec 20) (base : BitVec 64) (bytes : Nat)
  /-- CLOCK_AGEING (R60). Every core logical clock advances one tick per 4,096 cycles. -/
  | clockAgeing
  /-- CLUSTER_LINE_EVICTION (R67). A cluster cache evicts a line, pushing its dirty bytes. -/
  | clusterLineEviction (cl : BitVec 5) (line : Nat)
  /-- PARTIAL_EVICTION (R75). An evicted commutative partial is combined with memory. -/
  | partialEviction (cl : BitVec 5) (line : Nat)
  /-- BRIDGE_EVICTION (R63). The bridge cache evicts a line to LPDDR6, raising memory time. -/
  | bridgeEviction (line : Nat)
  /-- HOST_SNOOP (R71). A host snoop takes a line from the bridge without waiting for leases. -/
  | hostSnoop (line : Nat) (kind : SnoopKind)
  /-- HOST_READ (R78). A host read of a module line; CAR lines poison, range lines combine. -/
  | hostRead (pa : BitVec 64) (n : Nat)
  /-- HOST_WRITE (R37). A host write to a module line; CAR and range lines drop it. -/
  | hostWrite (pa : BitVec 64) (data : List (BitVec 8))
  /-- HOST_WAKE (R242). A host wake operation wakes .S waiters on a word. -/
  | hostWake (pa : BitVec 64) (n : BitVec 32)
  /-- ENQUEUE (R355). A full-line write to ENQ is checked and the record queued or refused. -/
  | enqueue (vi : BitVec 10) (record : List (BitVec 8))
  /-- DEPENDENCY_CHECK (R359). The queue head reads its dependency word on readiness or wake. -/
  | dependencyCheck (vi : BitVec 10)
  /-- PLACEMENT_PASS (R364). The scheduler places blocks by class and deficit round robin. -/
  | placementPass
  /-- BUDGET_SAMPLE (R363). Every 1,000 ticks the held slots are charged to each queue. -/
  | budgetSample
  /-- PERIOD_START (R363). Every 100,000 ticks USED and EXH reset. -/
  | periodStart
  /-- STAGE_START (R343). A pending stage starts when its seat is free and in rotation. -/
  | stageStart (launch : Nat) (block : Nat) (tile : Nat)
  /-- MDRAIN_WAKEUP (R344). An MDRAIN wake-up arrives at a core and sets a stage pending. -/
  | mdrainWakeup (idx : Nat)
  /-- BLOCK_COMPLETION (R345). A block with nothing running, pending or in flight completes. -/
  | blockCompletion (launch : Nat) (block : Nat)
  /-- LAUNCH_COMPLETION (R360). A launch completes and its completion word is written. -/
  | launchCompletion (launch : Nat)
  /-- PREEMPT_SAVE (R371). CO_PREEMPT SAVE pre-empts a slot's thread into its image. -/
  | preemptSave (core : BitVec 9)
  /-- PREEMPT_RESTORE (R371). CO_PREEMPT REST restores a saved thread. -/
  | preemptRestore (core : BitVec 9)
  /-- BLOCK_END (R391). VI_BLKEND END ends the issuing task's block. -/
  | blockEnd (t : BitVec 12)
  /-- SLOT_RESUME (R314). Writing 1 to CO_SLOTCTL.HALTED resumes a halted slot. -/
  | slotResume (core : BitVec 9) (mask : BitVec 8)
  /-- VI_QCFG_WRITE (R362). Writes queue configuration; clearing EN cancels queued records. -/
  | viQcfgWrite (vi : BitVec 10) (value : BitVec 32)
  /-- SAVEBASE_WRITE (R419). Writing VI_SAVEBASE releases refused re-placements. -/
  | savebaseWrite (vi : BitVec 10) (value : BitVec 64)
  /-- CAR_INIT (R32). MD_CARCFG INIT starts clearing a store's directory. -/
  | carInit (store : BitVec 2) (value : BitVec 64)
  /-- CAR_DIRECTORY_CLEAR_DONE (R32). The last directory entry is cleared and IBUSY clears. -/
  | carDirectoryClearDone (store : BitVec 2)
  /-- CAR_STORE_ENABLE (R30). Setting EN recalls host copies and activates a store. -/
  | carStoreEnable (store : BitVec 2) (value : BitVec 64)
  /-- CAR_STORE_DISABLE (R33). Clearing EN refuses new requests and sets DBUSY. -/
  | carStoreDisable (store : BitVec 2) (value : BitVec 64)
  /-- CAR_DISABLE_DONE (R33). Disable work ends and DBUSY clears. -/
  | carDisableDone (store : BitVec 2)
  /-- CRANGE_ENABLE (R73). Setting EN recalls host copies and activates a commutative range. -/
  | crangeEnable (n : BitVec 4) (value : BitVec 32)
  /-- CRANGE_DISABLE (R73). Clearing EN sets BUSY and starts combining partials. -/
  | crangeDisable (n : BitVec 4) (value : BitVec 32)
  /-- CRANGE_DISABLE_DONE (R73). Every partial is combined and BUSY clears. -/
  | crangeDisableDone (n : BitVec 4)
  /-- STASH_MAP (R96). Setting CO_BSTASH EN maps a bank as a stash. -/
  | stashMap (core : BitVec 9) (bank : BitVec 4) (value : BitVec 64)
  /-- STASH_UNMAP (R96). Clearing EN sets BUSY and writes back dirty stash lines. -/
  | stashUnmap (core : BitVec 9) (bank : BitVec 4) (value : BitVec 64)
  /-- STASH_UNMAP_DONE (R96). Write-back ends and BUSY clears. -/
  | stashUnmapDone (core : BitVec 9) (bank : BitVec 4)
  /-- CCFG_WRITE (R58). A CL_CCFG write changes lease length or scratch split. -/
  | ccfgWrite (cl : BitVec 5) (value : BitVec 32)
  /-- BARRIER_INIT (R306). CL_BARCFG INIT zeroes PHASE, ARR and BAL. -/
  | barrierInit (cl : BitVec 5) (n : BitVec 4) (value : BitVec 32)
  /-- CO_PWR_WRITE (R395). Sets a core's requested divider and power switch. -/
  | coPwrWrite (core : BitVec 9) (value : BitVec 32)
  /-- EFF_CHANGE (R396). A new effective divider takes effect after a cycle with c mod 8 = 7. -/
  | effChange (core : BitVec 9)
  /-- RAIL_RISE (R397). A voltage row rail finishes rising. -/
  | railRise (row : BitVec 5)
  /-- CORE_SWITCH_READY (R396). A core is ready 1.0 µs after its power switch closes. -/
  | coreSwitchReady (core : BitVec 9)
  /-- SLOT_REMOVAL (R398). A row at its current limit has one more slot number removed. -/
  | slotRemoval (row : BitVec 5)
  /-- SLOT_RETURN (R398). After 10 µs below 90 % of the limit, a removed slot returns. -/
  | slotReturn (row : BitVec 5)
  /-- FIRMWARE_HEARTBEAT (R401). A firmware heartbeat; the second on-time one releases the capo. -/
  | firmwareHeartbeat (onTime : Bool)
  /-- HEARTBEAT_MISSED (R401). The watchdog expires and the capo engages. -/
  | heartbeatMissed
  /-- FIRMWARE_IMAGE_SWITCH (R401). Firmware begins switching images; the capo engages. -/
  | firmwareImageSwitch
  /-- THERMAL_TRIP (R402). A die reaches 105 °C; its slots and engines stop. -/
  | thermalTrip (die : BitVec 1)
  /-- THERMAL_RECOVERY (R402). After 1 ms below 95 °C, issue returns. -/
  | thermalRecovery (die : BitVec 1)
  /-- PROFILE_SELECT (R404). A host write of MD_HOSTCFG selects the power profile. -/
  | profileSelect (value : BitVec 32)
  /-- LANE_SHED (R422). A Course link port changes width, replaying buffered flits. -/
  | laneShed (port : BitVec 1) (width : BitVec 2)
  /-- PORT_DOWN (R423). A Course link port fails; traffic moves or faults. -/
  | portDown (port : BitVec 1)
  /-- PORT_UP (R431). A Course link port comes up at a trained width. -/
  | portUp (port : BitVec 1) (width : BitVec 2)
  /-- LOCK_INTERFACE_REQUEST (R406). Freezes the locked set and returns a new nonce. -/
  | lockInterfaceRequest
  /-- START_INTERFACE_REQUEST (R406). Moves the interface to RUN if the nonce matches. -/
  | startInterfaceRequest (nonce : BitVec 256)
  /-- STOP_INTERFACE_REQUEST (R406). Returns the interface to CONFIG_UNLOCKED, ending protection. -/
  | stopInterfaceRequest
  /-- LOCKED_SET_WRITE (R407). A host write to the locked set moves the interface to ERROR. -/
  | lockedSetWrite (item : Nat) (value : BitVec 64)
  /-- GET_DEVICE_INTERFACE_REPORT (R409). Returns the signed measurement report. -/
  | getDeviceInterfaceReport
  /-- GET_CERTIFICATE (R409). Returns the certified device public key. -/
  | getCertificate (slot : Nat)
  /-- SCRUB_GO (R430). MD_SCRUB GO starts a patrol sweep. -/
  | scrubGo (value : BitVec 32)
  /-- PAGE_RETIRE (R429). MD_SCRUB RETIRE marks a 4 KiB page retired. -/
  | pageRetire (value : BitVec 32)
  /-- SCRUB_SWEEP_END (R430). The sweep ends; the receipt is written and BUSY clears. -/
  | scrubSweepEnd
  /-- POWER_ON_RESET (R431). Power-on reset starts the bring-up sequence. -/
  | powerOnReset
  /-- REGISTER_WRITE (R315). A write to a register with no row of its own, under its field rules. -/
  | registerWrite (agent : Writer) (num : BitVec 12) (value : BitVec 64)
  /-- PEER_ACCESS_ARRIVAL (R77). A load, store, atomic, copy or engine access from the other module arrives over the Course link and is performed at this module's bridge home. -/
  | peerAccessArrival (access : PeerAccess)
  /-- WAKEST_WAKEUP_ARRIVAL (R343). A wake-up posted by WAKEST reaches its block's cluster and sets the pending bit of the named tile and stage, or is dropped. -/
  | wakestWakeupArrival (idx : Nat)
  /-- PREEMPT_SAVE_DONE (R371). The last write of a thread image to the save area is acknowledged, the slot becomes empty, its CO_PREEMPT.BUSY bit clears and the core's next queued save or restore begins. -/
  | preemptSaveDone (core : BitVec 9)
  /-- PREEMPT_RESTORE_DONE (R371). The last read of a saved image completes, parked leases begin their return to HELD, the BUSY bit clears and the thread becomes ready to issue. -/
  | preemptRestoreDone (core : BitVec 9)
deriving DecidableEq, Repr

end Sys2Proof
end

