-- ==== Sys2Proof/WellFormed.lean ====
section
/-!
DEFINITION. Sys2Proof/WellFormed.lean: which instructions lie inside the field ranges of R167 to R182 and of the
instruction chapters, that is, pass step 3 of R183. The decoder yields nothing else.
-/

namespace Sys2Proof

/-- Indexes 24 to 27 name the neighbour ports (R97). -/
def notPort (r : BitVec 5) : Bool := !(24 ≤ r.toNat && r.toNat ≤ 27)

/-- A register pair (R167, R217): even, not index 0, not a port pair. -/
def pairOk (r : BitVec 5) : Bool := r.toNat % 2 == 0 && r != 0 && notPort r

/-- A group of four (R167, R217): a multiple of 4, neither index 0 nor the ports. -/
def quadOk (r : BitVec 5) : Bool := r.toNat % 4 == 0 && r != 0 && notPort r

/-- A vector pair is named by an even index (R167). -/
def vpairOk (v : BitVec 6) : Bool := v.toNat % 2 == 0

/-- LOOP's counter is neither `z` nor a port (R207). -/
def counterOk (r : BitVec 5) : Bool := r != 0 && notPort r

/-- Scope codes 5 to 7 are out of range (R170). -/
def scopeOk (c : BitVec 3) : Bool := c.toNat ≤ 4

/-- RSV and barrier instructions take `.L`, `.D` or `.S` (R236, R308). -/
def placeScopeOk (c : BitVec 3) : Bool := 2 ≤ c.toNat && c.toNat ≤ 4

/-- Rounding codes 5 and 6 are out of range (R173, R215, R253). -/
def roundOk (r : BitVec 3) : Bool := r != 5 && r != 6

/-- The class and index of a presence instruction (R182). A scalar index above 31 names no register. -/
def presenceOk (c : BitVec 2) (i : BitVec 6) : Bool :=
  match c with
  | 0 => 1 ≤ i.toNat && i.toNat ≤ 31 && !(24 ≤ i.toNat && i.toNat ≤ 27)
  | 1 => true
  | 2 => i.toNat ≤ 7
  | _ => false

/-- Width in bits of a lane-type code, 0 for the codes out of range (R170, R244). -/
def laneWidth (t : BitVec 3) : Nat :=
  match t with
  | 0 => 8
  | 1 => 16
  | 2 => 32
  | 3 => 16
  | 4 => 16
  | 5 => 32
  | _ => 0

/-- VCVT's pairs (R253): I32 with F32, I16 with F16 or BF16, F16 with BF16. -/
def cvtOk (dt st : BitVec 3) : Bool :=
  (dt == 2 && st == 5) || (dt == 5 && st == 2) ||
  (dt == 1 && (st == 3 || st == 4)) || (st == 1 && (dt == 3 || dt == 4)) ||
  (dt == 3 && st == 4) || (dt == 4 && st == 3)

/-- VPACK's pairs, narrow type first (R253): a 16-bit type from a 32-bit type, I8 from a 16-bit or 32-bit type. -/
def packOk (narrow wide : BitVec 3) : Bool :=
  (laneWidth narrow == 16 && laneWidth wide == 32) ||
  (narrow == 0 && (laneWidth wide == 16 || laneWidth wide == 32))

/-- The group of a COPY (R287). -/
def copyGroupOk (r : BitVec 5) : Bool :=
  r == 4 || r == 8 || r == 12 || r == 16 || r == 20 || r == 28

/-- Every field of the instruction lies in the range that R167 to R182 and its own description give it. An event has
no encoding and no field. -/
def Instr.wf (i : Instr) : Bool :=
  match i with
  | .illegalInstr _ => true
  | .nop _ => true
  | .add _ _ _ _ _ => true
  | .sub _ _ _ _ _ => true
  | .and _ _ _ _ _ => true
  | .or _ _ _ _ _ => true
  | .xor _ _ _ _ _ => true
  | .andn _ _ _ _ _ => true
  | .sll _ _ _ _ _ => true
  | .srl _ _ _ _ _ => true
  | .sra _ _ _ _ _ => true
  | .ror _ _ _ _ _ => true
  | .slli _ _ _ _ => true
  | .srli _ _ _ _ => true
  | .srai _ _ _ _ => true
  | .mul _ _ _ _ _ => true
  | .mulh _ _ _ _ _ => true
  | .mulhu _ _ _ _ _ => true
  | .div _ _ _ _ _ => true
  | .divu _ _ _ _ _ => true
  | .rem _ _ _ _ _ => true
  | .remu _ _ _ _ _ => true
  | .min _ _ _ _ _ => true
  | .max _ _ _ _ _ => true
  | .minu _ _ _ _ _ => true
  | .maxu _ _ _ _ _ => true
  | .slt _ _ _ _ _ => true
  | .sltu _ _ _ _ _ => true
  | .seq _ _ _ _ _ => true
  | .cmov _ _ _ _ _ => true
  | .clz _ _ _ => true
  | .ctz _ _ _ => true
  | .popc _ _ _ => true
  | .brev _ _ _ => true
  | .bswap _ _ _ => true
  | .extu _ _ _ _ _ => true
  | .exts _ _ _ _ _ => true
  | .ins _ _ _ _ _ => true
  | .addi _ _ _ _ => true
  | .andi _ _ _ _ => true
  | .ori _ _ _ _ => true
  | .xori _ _ _ _ => true
  | .slti _ _ _ _ => true
  | .sltiu _ _ _ _ => true
  | .lih _ _ => true
  | .addpc _ _ => true
  | .addc _ _ _ _ => true
  | .subc _ _ _ _ => true
  | .andc _ _ _ _ => true
  | .orc _ _ _ _ => true
  | .xorc _ _ _ _ => true
  | .mulc _ _ _ _ => true
  | .minc _ _ _ _ => true
  | .maxc _ _ _ _ => true
  | .sltc _ _ _ _ => true
  | .bset _ _ _ _ _ => true
  | .bgetLo _ _ _ => true
  | .bgetHi _ _ _ => true
  | .badd _ _ _ _ _ => true
  | .bmov _ _ _ => true
  | .baddi _ _ _ _ => true
  | .blea _ _ => true
  | .ldb _ _ _ _ _ => true
  | .stb _ _ _ _ _ => true
  | .beq _ _ _ => true
  | .bne _ _ _ => true
  | .blt _ _ _ => true
  | .bge _ _ _ => true
  | .bltu _ _ _ => true
  | .bgeu _ _ _ => true
  | .bbs _ _ _ => true
  | .bbc _ _ _ => true
  | .loop a _ => counterOk a
  | .j _ => true
  | .call _ => true
  | .callb _ _ => true
  | .jb _ _ => true
  | .ret => true
  | .callat _ _ _ _ _ => true
  | .windowSpill _ => true
  | .windowFill _ => true
  | .fadd _ _ _ _ _ => true
  | .fsub _ _ _ _ _ => true
  | .fmul _ _ _ _ _ => true
  | .fma _ _ _ _ _ => true
  | .fdiv _ _ _ _ _ => true
  | .fsqrt _ _ _ => true
  | .fmin _ _ _ _ _ => true
  | .fmax _ _ _ _ _ => true
  | .feq _ _ _ _ _ => true
  | .flt _ _ _ _ _ => true
  | .fle _ _ _ _ _ => true
  | .fclass _ _ _ => true
  | .fcvti _ _ _ _ r => roundOk r
  | .fcvtf _ _ _ r => roundOk r
  | .lb d _ _ _ _ => notPort d
  | .lbu d _ _ _ _ => notPort d
  | .lh d _ _ _ _ => notPort d
  | .lhu d _ _ _ _ => notPort d
  | .lw d _ _ _ _ => notPort d
  | .ldp d _ _ _ _ => pairOk d
  | .sb _ _ _ _ _ => true
  | .sh _ _ _ _ _ => true
  | .sw _ _ _ _ _ => true
  | .stp d _ _ _ _ => pairOk d
  | .lda d _ _ _ c r z _ => scopeOk c && (r == 0 || r == 1) && notPort d && (z != 3 || pairOk d)
  | .stl d _ _ _ c r z _ => scopeOk c && (r == 0 || r == 2) && (z != 3 || pairOk d)
  | .amoadd d _ _ _ c _ p => scopeOk c && notPort d && (p == 0 || pairOk d)
  | .amoand d _ _ _ c _ p => scopeOk c && notPort d && (p == 0 || pairOk d)
  | .amoor d _ _ _ c _ p => scopeOk c && notPort d && (p == 0 || pairOk d)
  | .amoxor d _ _ _ c _ p => scopeOk c && notPort d && (p == 0 || pairOk d)
  | .amomin d _ _ _ c _ p => scopeOk c && notPort d && (p == 0 || pairOk d)
  | .amomax d _ _ _ c _ p => scopeOk c && notPort d && (p == 0 || pairOk d)
  | .amominu d _ _ _ c _ p => scopeOk c && notPort d && (p == 0 || pairOk d)
  | .amomaxu d _ _ _ c _ p => scopeOk c && notPort d && (p == 0 || pairOk d)
  | .amoswap d _ _ _ c _ p => scopeOk c && notPort d && (p == 0 || pairOk d)
  | .amocas d _ _ _ c _ p => scopeOk c && (if p == 0 then pairOk d else quadOk d)
  | .amofadd d _ _ _ c _ => scopeOk c && notPort d
  | .cswap d _ _ _ c _ => scopeOk c && (d == 8 || d == 16)
  | .redadd d _ _ _ c r p => scopeOk c && (r == 0 || r == 2) && (p == 0 || pairOk d)
  | .redand d _ _ _ c r p => scopeOk c && (r == 0 || r == 2) && (p == 0 || pairOk d)
  | .redor d _ _ _ c r p => scopeOk c && (r == 0 || r == 2) && (p == 0 || pairOk d)
  | .redxor d _ _ _ c r p => scopeOk c && (r == 0 || r == 2) && (p == 0 || pairOk d)
  | .redmin d _ _ _ c r p => scopeOk c && (r == 0 || r == 2) && (p == 0 || pairOk d)
  | .redmax d _ _ _ c r p => scopeOk c && (r == 0 || r == 2) && (p == 0 || pairOk d)
  | .redfadd _ _ _ _ c r => scopeOk c && (r == 0 || r == 2)
  | .ldfe d _ _ _ c r _ => scopeOk c && (r == 0 || r == 1) && notPort d
  | .stfe _ _ _ _ c r _ => scopeOk c && (r == 0 || r == 2)
  | .ldff d _ _ _ c r _ => scopeOk c && (r == 0 || r == 1) && notPort d
  | .stff _ _ _ _ c r _ => scopeOk c && (r == 0 || r == 2)
  | .feget d _ _ _ c r _ => scopeOk c && (r == 0 || r == 1) && notPort d
  | .feRetry _ => true
  | .feWake _ _ => true
  | .lrw d _ _ _ c r _ => placeScopeOk c && r == 0 && notPort d
  | .sch _ _ _ _ c r _ => placeScopeOk c && r == 0
  | .rsvx _ _ _ c r _ => placeScopeOk c && r == 0
  | .reservationExpiry _ => true
  | .waita d _ _ _ c r _ => placeScopeOk c && (r == 0 || r == 1) && notPort d
  | .wakea d _ _ _ c r _ => placeScopeOk c && (r == 0 || r == 2) && notPort d
  | .waitaDeadline _ => true
  | .waitaPoll _ => true
  | .cflush _ _ _ _ => true
  | .cinvl _ _ _ _ => true
  | .cpref _ _ _ _ => true
  | .czero _ _ _ _ => true
  | .fence k c => k != 0 && scopeOk c
  | .sdrain => true
  | .pclr c i => presenceOk c i
  | .pset c i => presenceOk c i
  | .ptest d c i => presenceOk c i && notPort d
  | .pwait c i => presenceOk c i
  | .producerArrival _ _ => true
  | .storeDrain _ => true
  | .vaddI8 _ _ _ _ => true
  | .vaddI16 _ _ _ _ => true
  | .vaddI32 _ _ _ _ => true
  | .vsubI8 _ _ _ _ => true
  | .vsubI16 _ _ _ _ => true
  | .vsubI32 _ _ _ _ => true
  | .vmulI8 _ _ _ _ => true
  | .vmulI16 _ _ _ _ => true
  | .vmulI32 _ _ _ _ => true
  | .vminI8 _ _ _ _ => true
  | .vminI16 _ _ _ _ => true
  | .vminI32 _ _ _ _ => true
  | .vmaxI8 _ _ _ _ => true
  | .vmaxI16 _ _ _ _ => true
  | .vmaxI32 _ _ _ _ => true
  | .vandI8 _ _ _ _ => true
  | .vandI16 _ _ _ _ => true
  | .vandI32 _ _ _ _ => true
  | .vorI8 _ _ _ _ => true
  | .vorI16 _ _ _ _ => true
  | .vorI32 _ _ _ _ => true
  | .vxorI8 _ _ _ _ => true
  | .vxorI16 _ _ _ _ => true
  | .vxorI32 _ _ _ _ => true
  | .vsllI8 _ _ _ _ => true
  | .vsllI16 _ _ _ _ => true
  | .vsllI32 _ _ _ _ => true
  | .vsrlI8 _ _ _ _ => true
  | .vsrlI16 _ _ _ _ => true
  | .vsrlI32 _ _ _ _ => true
  | .vsraI8 _ _ _ _ => true
  | .vsraI16 _ _ _ _ => true
  | .vsraI32 _ _ _ _ => true
  | .vabsI8 _ _ _ => true
  | .vabsI16 _ _ _ => true
  | .vabsI32 _ _ _ => true
  | .vnegI8 _ _ _ => true
  | .vnegI16 _ _ _ => true
  | .vnegI32 _ _ _ => true
  | .vsatI8 _ _ n _ => 1 ≤ n.toNat && n.toNat ≤ 8
  | .vsatI16 _ _ n _ => 1 ≤ n.toNat && n.toNat ≤ 16
  | .vsatI32 _ _ n _ => 1 ≤ n.toNat && n.toNat ≤ 32
  | .vmovI8 _ _ _ => true
  | .vmovI16 _ _ _ => true
  | .vmovI32 _ _ _ => true
  | .vpermI8 _ _ _ _ => true
  | .vpermI16 _ _ _ _ => true
  | .vpermI32 _ _ _ _ => true
  | .vcmpEqI8 _ _ _ _ => true
  | .vcmpEqI16 _ _ _ _ => true
  | .vcmpEqI32 _ _ _ _ => true
  | .vcmpNeI8 _ _ _ _ => true
  | .vcmpNeI16 _ _ _ _ => true
  | .vcmpNeI32 _ _ _ _ => true
  | .vcmpLtI8 _ _ _ _ => true
  | .vcmpLtI16 _ _ _ _ => true
  | .vcmpLtI32 _ _ _ _ => true
  | .vcmpLeI8 _ _ _ _ => true
  | .vcmpLeI16 _ _ _ _ => true
  | .vcmpLeI32 _ _ _ _ => true
  | .vcmpLtuI8 _ _ _ _ => true
  | .vcmpLtuI16 _ _ _ _ => true
  | .vcmpLtuI32 _ _ _ _ => true
  | .vcmpLeuI8 _ _ _ _ => true
  | .vcmpLeuI16 _ _ _ _ => true
  | .vcmpLeuI32 _ _ _ _ => true
  | .vraddI8 _ _ _ => true
  | .vraddI16 _ _ _ => true
  | .vraddI32 _ _ _ => true
  | .vrmaxI8 _ _ _ => true
  | .vrmaxI16 _ _ _ => true
  | .vrmaxI32 _ _ _ => true
  | .vrminI8 _ _ _ => true
  | .vrminI16 _ _ _ => true
  | .vrminI32 _ _ _ => true
  | .vfaddF16 _ _ _ _ => true
  | .vfaddBf16 _ _ _ _ => true
  | .vfaddF32 _ _ _ _ => true
  | .vfsubF16 _ _ _ _ => true
  | .vfsubBf16 _ _ _ _ => true
  | .vfsubF32 _ _ _ _ => true
  | .vfmulF16 _ _ _ _ => true
  | .vfmulBf16 _ _ _ _ => true
  | .vfmulF32 _ _ _ _ => true
  | .vfmaF16 _ _ _ _ => true
  | .vfmaBf16 _ _ _ _ => true
  | .vfmaF32 _ _ _ _ => true
  | .vfminF16 _ _ _ _ => true
  | .vfminBf16 _ _ _ _ => true
  | .vfminF32 _ _ _ _ => true
  | .vfmaxF16 _ _ _ _ => true
  | .vfmaxBf16 _ _ _ _ => true
  | .vfmaxF32 _ _ _ _ => true
  | .vfdivF16 _ _ _ _ => true
  | .vfdivBf16 _ _ _ _ => true
  | .vfdivF32 _ _ _ _ => true
  | .vfsqrtF16 _ _ _ => true
  | .vfsqrtBf16 _ _ _ => true
  | .vfsqrtF32 _ _ _ => true
  | .vcmpEqF16 _ _ _ _ => true
  | .vcmpEqBf16 _ _ _ _ => true
  | .vcmpEqF32 _ _ _ _ => true
  | .vcmpNeF16 _ _ _ _ => true
  | .vcmpNeBf16 _ _ _ _ => true
  | .vcmpNeF32 _ _ _ _ => true
  | .vcmpLtF16 _ _ _ _ => true
  | .vcmpLtBf16 _ _ _ _ => true
  | .vcmpLtF32 _ _ _ _ => true
  | .vcmpLeF16 _ _ _ _ => true
  | .vcmpLeBf16 _ _ _ _ => true
  | .vcmpLeF32 _ _ _ _ => true
  | .vcmpUnF16 _ _ _ _ => true
  | .vcmpUnBf16 _ _ _ _ => true
  | .vcmpUnF32 _ _ _ _ => true
  | .vrfaddF16 _ _ _ => true
  | .vrfaddBf16 _ _ _ => true
  | .vrfaddF32 _ _ _ => true
  | .vbcastI8 _ _ _ => true
  | .vbcastI16 _ _ _ => true
  | .vbcastI32 _ _ _ => true
  | .vextI8 _ _ _ => true
  | .vextI16 n _ _ => n.toNat < 16
  | .vextI32 n _ _ => n.toNat < 8
  | .vinsI8 _ _ _ => true
  | .vinsI16 _ n _ => n.toNat < 16
  | .vinsI32 _ n _ => n.toNat < 8
  | .qand _ _ _ => true
  | .qor _ _ _ => true
  | .qxor _ _ _ => true
  | .qnot _ _ => true
  | .qpop _ _ => true
  | .qfirst _ _ => true
  | .vcvt _ _ r _ dt st => roundOk r && cvtOk dt st
  | .vpack _ a r _ dt st => roundOk r && packOk dt st && a.toNat % (laneWidth st / laneWidth dt) == 0
  | .vunpk v _ r _ dt st => roundOk r && packOk st dt && v.toNat % (laneWidth dt / laneWidth st) == 0
  | .vld _ _ _ _ _ => true
  | .vst _ _ _ _ _ => true
  | .vlds _ _ _ _ _ => true
  | .vsts _ _ _ _ _ => true
  | .vgath _ _ _ _ _ => true
  | .vscat _ _ _ _ _ => true
  | .vldb _ _ _ _ _ => true
  | .vstb _ _ _ _ _ => true
  | .lease _ _ _ => true
  | .lrenew _ _ => true
  | .lfree _ => true
  | .lstat _ d c => notPort d && c.toNat ≤ 1
  | .lwait _ d _ => notPort d
  | .lwaitTimeout _ _ => true
  | .ecfg _ _ _ => true
  | .allReduce _ _ => true
  | .eget _ d _ => notPort d
  | .ewait _ d => notPort d
  | .mlds _ _ => true
  | .mswap _ => true
  | .mstream _ _ => true
  | .mtile _ => true
  | .mrot _ => true
  | .mdrain _ _ _ => true
  | .mzero _ _ => true
  | .mresume _ => true
  | .rlds _ _ => true
  | .rtile _ _ => true
  | .rconv _ => true
  | .gconv _ => true
  | .ggath _ => true
  | .gcopy _ => true
  | .hdigest _ => true
  | .hingest _ => true
  | .leaseGrant _ => true
  | .engineWakeDone _ => true
  | .leaseTermExpiry _ _ => true
  | .forcedEviction _ => true
  | .engineStep _ => true
  | .enginePowerOff _ => true
  | .copy a _ _ _ => copyGroupOk a
  | .copyNb _ a _ _ _ => copyGroupOk a
  | .tcopy _ _ => true
  | .cseal _ => true
  | .cwait n => n.toNat ≤ 16
  | .cpoll _ _ _ => true
  | .copyDispatch _ => true
  | .copyRequestEnd _ _ => true
  | .batchFinish _ => true
  | .clkl a r => vpairOk a && pairOk r
  | .clkn a r => vpairOk a && pairOk r
  | .cnld v r => vpairOk v && pairOk r
  | .cref r => pairOk r
  | .crel r => pairOk r
  | .cstat r => pairOk r
  | .reclaimStep => true
  | .send _ _ _ => true
  | .sendRetry _ => true
  | .sendnb d _ _ _ => notPort d
  | .recv _ a => notPort a
  | .recvp _ a => notPort a
  | .messageArrival _ => true
  | .reply _ _ => true
  | .wakest _ _ _ _ => true
  | .texit => true
  | .callatArrival _ => true
  | .taskQueueStart _ => true
  | .arrive _ _ _ _ c o => placeScopeOk c && (o == 0 || o == 2)
  | .expect _ _ _ _ => true
  | .bwait d _ _ _ _ c => placeScopeOk c && notPort d
  | .btest d _ _ => notPort d
  | .deferredArrival _ => true
  | .barrierCycle _ _ => true
  | .svc _ => true
  | .mcall _ => true
  | .xret => true
  | .upret => true
  | .plret => true
  | .sysrd _ _ => true
  | .syswr _ _ => true
  | .sysset _ _ _ => true
  | .sysclr _ _ _ => true
  | .halt => true
  | .tlbinvPg _ _ => true
  | .tlbinvAs _ => true
  | .tlbinvAll => true
  | .rput i _ _ => notPort i
  | .brk _ => true
  | .storeFaultDelivery _ => true
  | .postedCauseDelivery _ => true
  | .pluckDelivery _ => true
  | .machineCheck _ _ _ => true
  | .uncorrectableError _ => true
  | .translationFill _ _ _ => true
  | .prgResponse _ _ _ => true
  | .atsInvalidation _ _ _ => true
  | .clockAgeing => true
  | .clusterLineEviction _ _ => true
  | .partialEviction _ _ => true
  | .bridgeEviction _ => true
  | .hostSnoop _ _ => true
  | .hostRead _ _ => true
  | .hostWrite _ _ => true
  | .hostWake _ _ => true
  | .enqueue _ _ => true
  | .dependencyCheck _ => true
  | .placementPass => true
  | .budgetSample => true
  | .periodStart => true
  | .stageStart _ _ _ => true
  | .mdrainWakeup _ => true
  | .blockCompletion _ _ => true
  | .launchCompletion _ => true
  | .preemptSave _ => true
  | .preemptRestore _ => true
  | .blockEnd _ => true
  | .slotResume _ _ => true
  | .viQcfgWrite _ _ => true
  | .savebaseWrite _ _ => true
  | .carInit _ _ => true
  | .carDirectoryClearDone _ => true
  | .carStoreEnable _ _ => true
  | .carStoreDisable _ _ => true
  | .carDisableDone _ => true
  | .crangeEnable _ _ => true
  | .crangeDisable _ _ => true
  | .crangeDisableDone _ => true
  | .stashMap _ _ _ => true
  | .stashUnmap _ _ _ => true
  | .stashUnmapDone _ _ => true
  | .ccfgWrite _ _ => true
  | .barrierInit _ _ _ => true
  | .coPwrWrite _ _ => true
  | .effChange _ => true
  | .railRise _ => true
  | .coreSwitchReady _ => true
  | .slotRemoval _ => true
  | .slotReturn _ => true
  | .firmwareHeartbeat _ => true
  | .heartbeatMissed => true
  | .firmwareImageSwitch => true
  | .thermalTrip _ => true
  | .thermalRecovery _ => true
  | .profileSelect _ => true
  | .laneShed _ _ => true
  | .portDown _ => true
  | .portUp _ _ => true
  | .lockInterfaceRequest => true
  | .startInterfaceRequest _ => true
  | .stopInterfaceRequest => true
  | .lockedSetWrite _ _ => true
  | .getDeviceInterfaceReport => true
  | .getCertificate _ => true
  | .scrubGo _ => true
  | .pageRetire _ => true
  | .scrubSweepEnd => true
  | .powerOnReset => true
  | .registerWrite _ _ _ => true
  | .peerAccessArrival _ => true
  | .wakestWakeupArrival _ => true
  | .preemptSaveDone _ => true
  | .preemptRestoreDone _ => true

end Sys2Proof
end

