-- ==== Sys2Proof/Decode.lean ====
section
/-!
DEFINITION. Sys2Proof/Decode.lean: the decoder of R165 to R184, total on every word and rejecting by name, and after it
the encoder, both from the formats of R166 and the opcode map of R171 to R182.
-/

namespace Sys2Proof

/-- What one word is, by steps 1 and 3 of R183: it names no instruction, or it names one with a field out of range or
a nonzero unused field, or it is an instruction. -/
inductive Decoded where
  | noInstr
  | badField
  | instr (i : Instr)
deriving DecidableEq, Repr

/-- Bits [lo+w-1:lo] of the word n, as a number (R6). -/
def bits (n lo w : Nat) : Nat := n / 2 ^ lo % 2 ^ w

/-- Bits [lo+w-1:lo] of the word n, as a field (R6). -/
def field (w n lo : Nat) : BitVec w := BitVec.ofNat w (n / 2 ^ lo)

/-- The members of major 0x01 (R172). -/
noncomputable def decodeInt (n : Nat) : Decoded :=
  match bits n 0 9 with
  | 0 => .instr (.add (field 5 n 21) (field 5 n 16) (field 5 n 11) (field 1 n 10) (field 1 n 9))
  | 1 => .instr (.sub (field 5 n 21) (field 5 n 16) (field 5 n 11) (field 1 n 10) (field 1 n 9))
  | 2 => .instr (.and (field 5 n 21) (field 5 n 16) (field 5 n 11) (field 1 n 10) (field 1 n 9))
  | 3 => .instr (.or (field 5 n 21) (field 5 n 16) (field 5 n 11) (field 1 n 10) (field 1 n 9))
  | 4 => .instr (.xor (field 5 n 21) (field 5 n 16) (field 5 n 11) (field 1 n 10) (field 1 n 9))
  | 5 => .instr (.andn (field 5 n 21) (field 5 n 16) (field 5 n 11) (field 1 n 10) (field 1 n 9))
  | 8 => .instr (.sll (field 5 n 21) (field 5 n 16) (field 5 n 11) (field 1 n 10) (field 1 n 9))
  | 9 => .instr (.srl (field 5 n 21) (field 5 n 16) (field 5 n 11) (field 1 n 10) (field 1 n 9))
  | 10 => .instr (.sra (field 5 n 21) (field 5 n 16) (field 5 n 11) (field 1 n 10) (field 1 n 9))
  | 11 => .instr (.ror (field 5 n 21) (field 5 n 16) (field 5 n 11) (field 1 n 10) (field 1 n 9))
  | 12 => if bits n 9 1 = 0 then .instr (.slli (field 5 n 21) (field 5 n 16) (field 5 n 11) (field 1 n 10)) else .badField
  | 13 => if bits n 9 1 = 0 then .instr (.srli (field 5 n 21) (field 5 n 16) (field 5 n 11) (field 1 n 10)) else .badField
  | 14 => if bits n 9 1 = 0 then .instr (.srai (field 5 n 21) (field 5 n 16) (field 5 n 11) (field 1 n 10)) else .badField
  | 16 => .instr (.mul (field 5 n 21) (field 5 n 16) (field 5 n 11) (field 1 n 10) (field 1 n 9))
  | 17 => .instr (.mulh (field 5 n 21) (field 5 n 16) (field 5 n 11) (field 1 n 10) (field 1 n 9))
  | 18 => .instr (.mulhu (field 5 n 21) (field 5 n 16) (field 5 n 11) (field 1 n 10) (field 1 n 9))
  | 20 => .instr (.div (field 5 n 21) (field 5 n 16) (field 5 n 11) (field 1 n 10) (field 1 n 9))
  | 21 => .instr (.divu (field 5 n 21) (field 5 n 16) (field 5 n 11) (field 1 n 10) (field 1 n 9))
  | 22 => .instr (.rem (field 5 n 21) (field 5 n 16) (field 5 n 11) (field 1 n 10) (field 1 n 9))
  | 23 => .instr (.remu (field 5 n 21) (field 5 n 16) (field 5 n 11) (field 1 n 10) (field 1 n 9))
  | 24 => .instr (.min (field 5 n 21) (field 5 n 16) (field 5 n 11) (field 1 n 10) (field 1 n 9))
  | 25 => .instr (.max (field 5 n 21) (field 5 n 16) (field 5 n 11) (field 1 n 10) (field 1 n 9))
  | 26 => .instr (.minu (field 5 n 21) (field 5 n 16) (field 5 n 11) (field 1 n 10) (field 1 n 9))
  | 27 => .instr (.maxu (field 5 n 21) (field 5 n 16) (field 5 n 11) (field 1 n 10) (field 1 n 9))
  | 28 => .instr (.slt (field 5 n 21) (field 5 n 16) (field 5 n 11) (field 1 n 10) (field 1 n 9))
  | 29 => .instr (.sltu (field 5 n 21) (field 5 n 16) (field 5 n 11) (field 1 n 10) (field 1 n 9))
  | 30 => .instr (.seq (field 5 n 21) (field 5 n 16) (field 5 n 11) (field 1 n 10) (field 1 n 9))
  | 31 => .instr (.cmov (field 5 n 21) (field 5 n 16) (field 5 n 11) (field 1 n 10) (field 1 n 9))
  | 32 => if bits n 9 1 = 0 ∧ bits n 11 5 = 0 then .instr (.clz (field 5 n 21) (field 5 n 16) (field 1 n 10)) else .badField
  | 33 => if bits n 9 1 = 0 ∧ bits n 11 5 = 0 then .instr (.ctz (field 5 n 21) (field 5 n 16) (field 1 n 10)) else .badField
  | 34 => if bits n 9 1 = 0 ∧ bits n 11 5 = 0 then .instr (.popc (field 5 n 21) (field 5 n 16) (field 1 n 10)) else .badField
  | 35 => if bits n 9 1 = 0 ∧ bits n 11 5 = 0 then .instr (.brev (field 5 n 21) (field 5 n 16) (field 1 n 10)) else .badField
  | 36 => if bits n 9 1 = 0 ∧ bits n 11 5 = 0 then .instr (.bswap (field 5 n 21) (field 5 n 16) (field 1 n 10)) else .badField
  | 40 => .instr (.extu (field 5 n 21) (field 5 n 16) (field 5 n 11) (field 1 n 10) (field 1 n 9))
  | 41 => .instr (.exts (field 5 n 21) (field 5 n 16) (field 5 n 11) (field 1 n 10) (field 1 n 9))
  | 42 => .instr (.ins (field 5 n 21) (field 5 n 16) (field 5 n 11) (field 1 n 10) (field 1 n 9))
  | _ => .noInstr

/-- The members of major 0x13 (R174). -/
noncomputable def decodeBase (n : Nat) : Decoded :=
  match bits n 0 9 with
  | 0 => if bits n 24 2 = 0 then .instr (.bset (field 3 n 21) (field 5 n 16) (field 5 n 11) (field 1 n 10) (field 1 n 9)) else .badField
  | 1 => if bits n 9 1 = 0 ∧ bits n 11 5 = 0 ∧ bits n 19 2 = 0 then .instr (.bgetLo (field 5 n 21) (field 3 n 16) (field 1 n 10)) else .badField
  | 2 => if bits n 9 1 = 0 ∧ bits n 11 5 = 0 ∧ bits n 19 2 = 0 then .instr (.bgetHi (field 5 n 21) (field 3 n 16) (field 1 n 10)) else .badField
  | 3 => if bits n 19 2 = 0 ∧ bits n 24 2 = 0 then .instr (.badd (field 3 n 21) (field 3 n 16) (field 5 n 11) (field 1 n 10) (field 1 n 9)) else .badField
  | 4 => if bits n 9 1 = 0 ∧ bits n 11 5 = 0 ∧ bits n 19 2 = 0 ∧ bits n 24 2 = 0 then .instr (.bmov (field 3 n 21) (field 3 n 16) (field 1 n 10)) else .badField
  | _ => .noInstr

/-- The members of major 0x18 (R174). -/
noncomputable def decodeBranch (n : Nat) : Decoded :=
  match bits n 13 3 with
  | 0 => .instr (.beq (field 5 n 21) (field 5 n 16) (field 13 n 0))
  | 1 => .instr (.bne (field 5 n 21) (field 5 n 16) (field 13 n 0))
  | 2 => .instr (.blt (field 5 n 21) (field 5 n 16) (field 13 n 0))
  | 3 => .instr (.bge (field 5 n 21) (field 5 n 16) (field 13 n 0))
  | 4 => .instr (.bltu (field 5 n 21) (field 5 n 16) (field 13 n 0))
  | 5 => .instr (.bgeu (field 5 n 21) (field 5 n 16) (field 13 n 0))
  | 6 => .instr (.bbs (field 5 n 21) (field 5 n 16) (field 13 n 0))
  | 7 => .instr (.bbc (field 5 n 21) (field 5 n 16) (field 13 n 0))
  | _ => .noInstr

/-- The members of major 0x1C (R174). -/
noncomputable def decodeCtrl (n : Nat) : Decoded :=
  match bits n 0 9 with
  | 0 => if bits n 10 1 = 0 ∧ bits n 14 12 = 0 then .instr (.callb (field 3 n 11) (field 1 n 9)) else .badField
  | 1 => if bits n 10 1 = 0 ∧ bits n 14 12 = 0 then .instr (.jb (field 3 n 11) (field 1 n 9)) else .badField
  | 2 => if bits n 9 17 = 0 then .instr .ret else .badField
  | 3 => if bits n 14 2 = 0 then .instr (.callat (field 5 n 21) (field 5 n 16) (field 3 n 11) (field 1 n 10) (field 1 n 9)) else .badField
  | _ => .noInstr

/-- The members of major 0x27 (R176). -/
noncomputable def decodeOrdered (n : Nat) : Decoded :=
  match bits n 11 1 with
  | 0 => .instr (.lda (field 5 n 21) (field 5 n 16) (field 3 n 13) (field 1 n 12) (field 3 n 8) (field 2 n 6) (field 2 n 4) (field 4 n 0))
  | 1 => .instr (.stl (field 5 n 21) (field 5 n 16) (field 3 n 13) (field 1 n 12) (field 3 n 8) (field 2 n 6) (field 2 n 4) (field 4 n 0))
  | _ => .noInstr

/-- The members of major 0x28 (R176). -/
noncomputable def decodeAtom (n : Nat) : Decoded :=
  match bits n 1 1, bits n 8 4 with
  | 0, 0 => if bits n 0 1 = 0 then .instr (.amoadd (field 5 n 21) (field 5 n 16) (field 3 n 13) (field 1 n 12) (field 3 n 5) (field 2 n 3) (field 1 n 2)) else .badField
  | 0, 1 => if bits n 0 1 = 0 then .instr (.amoand (field 5 n 21) (field 5 n 16) (field 3 n 13) (field 1 n 12) (field 3 n 5) (field 2 n 3) (field 1 n 2)) else .badField
  | 0, 2 => if bits n 0 1 = 0 then .instr (.amoor (field 5 n 21) (field 5 n 16) (field 3 n 13) (field 1 n 12) (field 3 n 5) (field 2 n 3) (field 1 n 2)) else .badField
  | 0, 3 => if bits n 0 1 = 0 then .instr (.amoxor (field 5 n 21) (field 5 n 16) (field 3 n 13) (field 1 n 12) (field 3 n 5) (field 2 n 3) (field 1 n 2)) else .badField
  | 0, 4 => if bits n 0 1 = 0 then .instr (.amomin (field 5 n 21) (field 5 n 16) (field 3 n 13) (field 1 n 12) (field 3 n 5) (field 2 n 3) (field 1 n 2)) else .badField
  | 0, 5 => if bits n 0 1 = 0 then .instr (.amomax (field 5 n 21) (field 5 n 16) (field 3 n 13) (field 1 n 12) (field 3 n 5) (field 2 n 3) (field 1 n 2)) else .badField
  | 0, 6 => if bits n 0 1 = 0 then .instr (.amominu (field 5 n 21) (field 5 n 16) (field 3 n 13) (field 1 n 12) (field 3 n 5) (field 2 n 3) (field 1 n 2)) else .badField
  | 0, 7 => if bits n 0 1 = 0 then .instr (.amomaxu (field 5 n 21) (field 5 n 16) (field 3 n 13) (field 1 n 12) (field 3 n 5) (field 2 n 3) (field 1 n 2)) else .badField
  | 0, 8 => if bits n 0 1 = 0 then .instr (.amoswap (field 5 n 21) (field 5 n 16) (field 3 n 13) (field 1 n 12) (field 3 n 5) (field 2 n 3) (field 1 n 2)) else .badField
  | 0, 9 => if bits n 0 1 = 0 then .instr (.amocas (field 5 n 21) (field 5 n 16) (field 3 n 13) (field 1 n 12) (field 3 n 5) (field 2 n 3) (field 1 n 2)) else .badField
  | 0, 10 => if bits n 0 1 = 0 ∧ bits n 2 1 = 0 then .instr (.amofadd (field 5 n 21) (field 5 n 16) (field 3 n 13) (field 1 n 12) (field 3 n 5) (field 2 n 3)) else .badField
  | 0, 11 => if bits n 0 1 = 0 ∧ bits n 2 1 = 0 then .instr (.cswap (field 5 n 21) (field 5 n 16) (field 3 n 13) (field 1 n 12) (field 3 n 5) (field 2 n 3)) else .badField
  | 1, 0 => if bits n 0 1 = 0 then .instr (.redadd (field 5 n 21) (field 5 n 16) (field 3 n 13) (field 1 n 12) (field 3 n 5) (field 2 n 3) (field 1 n 2)) else .badField
  | 1, 1 => if bits n 0 1 = 0 then .instr (.redand (field 5 n 21) (field 5 n 16) (field 3 n 13) (field 1 n 12) (field 3 n 5) (field 2 n 3) (field 1 n 2)) else .badField
  | 1, 2 => if bits n 0 1 = 0 then .instr (.redor (field 5 n 21) (field 5 n 16) (field 3 n 13) (field 1 n 12) (field 3 n 5) (field 2 n 3) (field 1 n 2)) else .badField
  | 1, 3 => if bits n 0 1 = 0 then .instr (.redxor (field 5 n 21) (field 5 n 16) (field 3 n 13) (field 1 n 12) (field 3 n 5) (field 2 n 3) (field 1 n 2)) else .badField
  | 1, 4 => if bits n 0 1 = 0 then .instr (.redmin (field 5 n 21) (field 5 n 16) (field 3 n 13) (field 1 n 12) (field 3 n 5) (field 2 n 3) (field 1 n 2)) else .badField
  | 1, 5 => if bits n 0 1 = 0 then .instr (.redmax (field 5 n 21) (field 5 n 16) (field 3 n 13) (field 1 n 12) (field 3 n 5) (field 2 n 3) (field 1 n 2)) else .badField
  | 1, 10 => if bits n 0 1 = 0 ∧ bits n 2 1 = 0 then .instr (.redfadd (field 5 n 21) (field 5 n 16) (field 3 n 13) (field 1 n 12) (field 3 n 5) (field 2 n 3)) else .badField
  | _, _ => .noInstr

/-- The members of major 0x29 (R176). -/
noncomputable def decodeFeMem (n : Nat) : Decoded :=
  match bits n 9 3 with
  | 0 => .instr (.ldfe (field 5 n 21) (field 5 n 16) (field 3 n 13) (field 1 n 12) (field 3 n 6) (field 2 n 4) (field 4 n 0))
  | 1 => .instr (.stfe (field 5 n 21) (field 5 n 16) (field 3 n 13) (field 1 n 12) (field 3 n 6) (field 2 n 4) (field 4 n 0))
  | 2 => .instr (.ldff (field 5 n 21) (field 5 n 16) (field 3 n 13) (field 1 n 12) (field 3 n 6) (field 2 n 4) (field 4 n 0))
  | 3 => .instr (.stff (field 5 n 21) (field 5 n 16) (field 3 n 13) (field 1 n 12) (field 3 n 6) (field 2 n 4) (field 4 n 0))
  | 4 => .instr (.feget (field 5 n 21) (field 5 n 16) (field 3 n 13) (field 1 n 12) (field 3 n 6) (field 2 n 4) (field 4 n 0))
  | _ => .noInstr

/-- The members of major 0x2A (R176). -/
noncomputable def decodeRsv (n : Nat) : Decoded :=
  match bits n 9 3 with
  | 0 => .instr (.lrw (field 5 n 21) (field 5 n 16) (field 3 n 13) (field 1 n 12) (field 3 n 6) (field 2 n 4) (field 4 n 0))
  | 1 => .instr (.sch (field 5 n 21) (field 5 n 16) (field 3 n 13) (field 1 n 12) (field 3 n 6) (field 2 n 4) (field 4 n 0))
  | 2 => if bits n 21 5 = 0 then .instr (.rsvx (field 5 n 16) (field 3 n 13) (field 1 n 12) (field 3 n 6) (field 2 n 4) (field 4 n 0)) else .badField
  | 3 => .instr (.waita (field 5 n 21) (field 5 n 16) (field 3 n 13) (field 1 n 12) (field 3 n 6) (field 2 n 4) (field 4 n 0))
  | 4 => .instr (.wakea (field 5 n 21) (field 5 n 16) (field 3 n 13) (field 1 n 12) (field 3 n 6) (field 2 n 4) (field 4 n 0))
  | _ => .noInstr

/-- The members of major 0x2B (R176). -/
noncomputable def decodeLine (n : Nat) : Decoded :=
  match bits n 10 2 with
  | 0 => if bits n 21 5 = 0 then .instr (.cflush (field 5 n 16) (field 3 n 13) (field 1 n 12) (field 10 n 0)) else .badField
  | 1 => if bits n 21 5 = 0 then .instr (.cinvl (field 5 n 16) (field 3 n 13) (field 1 n 12) (field 10 n 0)) else .badField
  | 2 => if bits n 21 5 = 0 then .instr (.cpref (field 5 n 16) (field 3 n 13) (field 1 n 12) (field 10 n 0)) else .badField
  | 3 => if bits n 21 5 = 0 then .instr (.czero (field 5 n 16) (field 3 n 13) (field 1 n 12) (field 10 n 0)) else .badField
  | _ => .noInstr

/-- The members of major 0x2C (R173). -/
noncomputable def decodeFp (n : Nat) : Decoded :=
  match bits n 0 5 with
  | 0 => if bits n 5 4 = 0 then .instr (.fadd (field 5 n 21) (field 5 n 16) (field 5 n 11) (field 1 n 10) (field 1 n 9)) else .badField
  | 1 => if bits n 5 4 = 0 then .instr (.fsub (field 5 n 21) (field 5 n 16) (field 5 n 11) (field 1 n 10) (field 1 n 9)) else .badField
  | 2 => if bits n 5 4 = 0 then .instr (.fmul (field 5 n 21) (field 5 n 16) (field 5 n 11) (field 1 n 10) (field 1 n 9)) else .badField
  | 3 => if bits n 5 4 = 0 then .instr (.fma (field 5 n 21) (field 5 n 16) (field 5 n 11) (field 1 n 10) (field 1 n 9)) else .badField
  | 4 => if bits n 5 4 = 0 then .instr (.fdiv (field 5 n 21) (field 5 n 16) (field 5 n 11) (field 1 n 10) (field 1 n 9)) else .badField
  | 5 => if bits n 5 5 = 0 ∧ bits n 11 5 = 0 then .instr (.fsqrt (field 5 n 21) (field 5 n 16) (field 1 n 10)) else .badField
  | 6 => if bits n 5 4 = 0 then .instr (.fmin (field 5 n 21) (field 5 n 16) (field 5 n 11) (field 1 n 10) (field 1 n 9)) else .badField
  | 7 => if bits n 5 4 = 0 then .instr (.fmax (field 5 n 21) (field 5 n 16) (field 5 n 11) (field 1 n 10) (field 1 n 9)) else .badField
  | 8 => if bits n 5 4 = 0 then .instr (.feq (field 5 n 21) (field 5 n 16) (field 5 n 11) (field 1 n 10) (field 1 n 9)) else .badField
  | 9 => if bits n 5 4 = 0 then .instr (.flt (field 5 n 21) (field 5 n 16) (field 5 n 11) (field 1 n 10) (field 1 n 9)) else .badField
  | 10 => if bits n 5 4 = 0 then .instr (.fle (field 5 n 21) (field 5 n 16) (field 5 n 11) (field 1 n 10) (field 1 n 9)) else .badField
  | 11 => if bits n 5 5 = 0 ∧ bits n 11 5 = 0 then .instr (.fclass (field 5 n 21) (field 5 n 16) (field 1 n 10)) else .badField
  | 12 => if bits n 9 1 = 0 ∧ bits n 11 5 = 0 then .instr (.fcvti (field 5 n 21) (field 5 n 16) (field 1 n 10) (field 1 n 8) (field 3 n 5)) else .badField
  | 13 => if bits n 8 2 = 0 ∧ bits n 11 5 = 0 then .instr (.fcvtf (field 5 n 21) (field 5 n 16) (field 1 n 10) (field 3 n 5)) else .badField
  | _ => .noInstr

/-- The members of major 0x2D (R177). -/
noncomputable def decodeVI8 (n : Nat) : Decoded :=
  match bits n 0 5 with
  | 0 => .instr (.vaddI8 (field 6 n 20) (field 6 n 14) (field 6 n 8) (field 3 n 5))
  | 1 => .instr (.vsubI8 (field 6 n 20) (field 6 n 14) (field 6 n 8) (field 3 n 5))
  | 2 => .instr (.vmulI8 (field 6 n 20) (field 6 n 14) (field 6 n 8) (field 3 n 5))
  | 3 => .instr (.vminI8 (field 6 n 20) (field 6 n 14) (field 6 n 8) (field 3 n 5))
  | 4 => .instr (.vmaxI8 (field 6 n 20) (field 6 n 14) (field 6 n 8) (field 3 n 5))
  | 5 => .instr (.vandI8 (field 6 n 20) (field 6 n 14) (field 6 n 8) (field 3 n 5))
  | 6 => .instr (.vorI8 (field 6 n 20) (field 6 n 14) (field 6 n 8) (field 3 n 5))
  | 7 => .instr (.vxorI8 (field 6 n 20) (field 6 n 14) (field 6 n 8) (field 3 n 5))
  | 8 => .instr (.vsllI8 (field 6 n 20) (field 6 n 14) (field 6 n 8) (field 3 n 5))
  | 9 => .instr (.vsrlI8 (field 6 n 20) (field 6 n 14) (field 6 n 8) (field 3 n 5))
  | 10 => .instr (.vsraI8 (field 6 n 20) (field 6 n 14) (field 6 n 8) (field 3 n 5))
  | 11 => if bits n 8 6 = 0 then .instr (.vabsI8 (field 6 n 20) (field 6 n 14) (field 3 n 5)) else .badField
  | 12 => if bits n 8 6 = 0 then .instr (.vnegI8 (field 6 n 20) (field 6 n 14) (field 3 n 5)) else .badField
  | 13 => .instr (.vsatI8 (field 6 n 20) (field 6 n 14) (field 6 n 8) (field 3 n 5))
  | 14 => if bits n 8 6 = 0 then .instr (.vmovI8 (field 6 n 20) (field 6 n 14) (field 3 n 5)) else .badField
  | 15 => .instr (.vpermI8 (field 6 n 20) (field 6 n 14) (field 6 n 8) (field 3 n 5))
  | 16 => if bits n 23 3 = 0 then .instr (.vcmpEqI8 (field 3 n 20) (field 6 n 14) (field 6 n 8) (field 3 n 5)) else .badField
  | 17 => if bits n 23 3 = 0 then .instr (.vcmpNeI8 (field 3 n 20) (field 6 n 14) (field 6 n 8) (field 3 n 5)) else .badField
  | 18 => if bits n 23 3 = 0 then .instr (.vcmpLtI8 (field 3 n 20) (field 6 n 14) (field 6 n 8) (field 3 n 5)) else .badField
  | 19 => if bits n 23 3 = 0 then .instr (.vcmpLeI8 (field 3 n 20) (field 6 n 14) (field 6 n 8) (field 3 n 5)) else .badField
  | 20 => if bits n 23 3 = 0 then .instr (.vcmpLtuI8 (field 3 n 20) (field 6 n 14) (field 6 n 8) (field 3 n 5)) else .badField
  | 21 => if bits n 23 3 = 0 then .instr (.vcmpLeuI8 (field 3 n 20) (field 6 n 14) (field 6 n 8) (field 3 n 5)) else .badField
  | 24 => if bits n 8 6 = 0 then .instr (.vraddI8 (field 6 n 20) (field 6 n 14) (field 3 n 5)) else .badField
  | 25 => if bits n 8 6 = 0 then .instr (.vrmaxI8 (field 6 n 20) (field 6 n 14) (field 3 n 5)) else .badField
  | 26 => if bits n 8 6 = 0 then .instr (.vrminI8 (field 6 n 20) (field 6 n 14) (field 3 n 5)) else .badField
  | _ => .noInstr

/-- The members of major 0x2E (R177). -/
noncomputable def decodeVI16 (n : Nat) : Decoded :=
  match bits n 0 5 with
  | 0 => .instr (.vaddI16 (field 6 n 20) (field 6 n 14) (field 6 n 8) (field 3 n 5))
  | 1 => .instr (.vsubI16 (field 6 n 20) (field 6 n 14) (field 6 n 8) (field 3 n 5))
  | 2 => .instr (.vmulI16 (field 6 n 20) (field 6 n 14) (field 6 n 8) (field 3 n 5))
  | 3 => .instr (.vminI16 (field 6 n 20) (field 6 n 14) (field 6 n 8) (field 3 n 5))
  | 4 => .instr (.vmaxI16 (field 6 n 20) (field 6 n 14) (field 6 n 8) (field 3 n 5))
  | 5 => .instr (.vandI16 (field 6 n 20) (field 6 n 14) (field 6 n 8) (field 3 n 5))
  | 6 => .instr (.vorI16 (field 6 n 20) (field 6 n 14) (field 6 n 8) (field 3 n 5))
  | 7 => .instr (.vxorI16 (field 6 n 20) (field 6 n 14) (field 6 n 8) (field 3 n 5))
  | 8 => .instr (.vsllI16 (field 6 n 20) (field 6 n 14) (field 6 n 8) (field 3 n 5))
  | 9 => .instr (.vsrlI16 (field 6 n 20) (field 6 n 14) (field 6 n 8) (field 3 n 5))
  | 10 => .instr (.vsraI16 (field 6 n 20) (field 6 n 14) (field 6 n 8) (field 3 n 5))
  | 11 => if bits n 8 6 = 0 then .instr (.vabsI16 (field 6 n 20) (field 6 n 14) (field 3 n 5)) else .badField
  | 12 => if bits n 8 6 = 0 then .instr (.vnegI16 (field 6 n 20) (field 6 n 14) (field 3 n 5)) else .badField
  | 13 => .instr (.vsatI16 (field 6 n 20) (field 6 n 14) (field 6 n 8) (field 3 n 5))
  | 14 => if bits n 8 6 = 0 then .instr (.vmovI16 (field 6 n 20) (field 6 n 14) (field 3 n 5)) else .badField
  | 15 => .instr (.vpermI16 (field 6 n 20) (field 6 n 14) (field 6 n 8) (field 3 n 5))
  | 16 => if bits n 23 3 = 0 then .instr (.vcmpEqI16 (field 3 n 20) (field 6 n 14) (field 6 n 8) (field 3 n 5)) else .badField
  | 17 => if bits n 23 3 = 0 then .instr (.vcmpNeI16 (field 3 n 20) (field 6 n 14) (field 6 n 8) (field 3 n 5)) else .badField
  | 18 => if bits n 23 3 = 0 then .instr (.vcmpLtI16 (field 3 n 20) (field 6 n 14) (field 6 n 8) (field 3 n 5)) else .badField
  | 19 => if bits n 23 3 = 0 then .instr (.vcmpLeI16 (field 3 n 20) (field 6 n 14) (field 6 n 8) (field 3 n 5)) else .badField
  | 20 => if bits n 23 3 = 0 then .instr (.vcmpLtuI16 (field 3 n 20) (field 6 n 14) (field 6 n 8) (field 3 n 5)) else .badField
  | 21 => if bits n 23 3 = 0 then .instr (.vcmpLeuI16 (field 3 n 20) (field 6 n 14) (field 6 n 8) (field 3 n 5)) else .badField
  | 24 => if bits n 8 6 = 0 then .instr (.vraddI16 (field 6 n 20) (field 6 n 14) (field 3 n 5)) else .badField
  | 25 => if bits n 8 6 = 0 then .instr (.vrmaxI16 (field 6 n 20) (field 6 n 14) (field 3 n 5)) else .badField
  | 26 => if bits n 8 6 = 0 then .instr (.vrminI16 (field 6 n 20) (field 6 n 14) (field 3 n 5)) else .badField
  | _ => .noInstr

/-- The members of major 0x2F (R177). -/
noncomputable def decodeVI32 (n : Nat) : Decoded :=
  match bits n 0 5 with
  | 0 => .instr (.vaddI32 (field 6 n 20) (field 6 n 14) (field 6 n 8) (field 3 n 5))
  | 1 => .instr (.vsubI32 (field 6 n 20) (field 6 n 14) (field 6 n 8) (field 3 n 5))
  | 2 => .instr (.vmulI32 (field 6 n 20) (field 6 n 14) (field 6 n 8) (field 3 n 5))
  | 3 => .instr (.vminI32 (field 6 n 20) (field 6 n 14) (field 6 n 8) (field 3 n 5))
  | 4 => .instr (.vmaxI32 (field 6 n 20) (field 6 n 14) (field 6 n 8) (field 3 n 5))
  | 5 => .instr (.vandI32 (field 6 n 20) (field 6 n 14) (field 6 n 8) (field 3 n 5))
  | 6 => .instr (.vorI32 (field 6 n 20) (field 6 n 14) (field 6 n 8) (field 3 n 5))
  | 7 => .instr (.vxorI32 (field 6 n 20) (field 6 n 14) (field 6 n 8) (field 3 n 5))
  | 8 => .instr (.vsllI32 (field 6 n 20) (field 6 n 14) (field 6 n 8) (field 3 n 5))
  | 9 => .instr (.vsrlI32 (field 6 n 20) (field 6 n 14) (field 6 n 8) (field 3 n 5))
  | 10 => .instr (.vsraI32 (field 6 n 20) (field 6 n 14) (field 6 n 8) (field 3 n 5))
  | 11 => if bits n 8 6 = 0 then .instr (.vabsI32 (field 6 n 20) (field 6 n 14) (field 3 n 5)) else .badField
  | 12 => if bits n 8 6 = 0 then .instr (.vnegI32 (field 6 n 20) (field 6 n 14) (field 3 n 5)) else .badField
  | 13 => .instr (.vsatI32 (field 6 n 20) (field 6 n 14) (field 6 n 8) (field 3 n 5))
  | 14 => if bits n 8 6 = 0 then .instr (.vmovI32 (field 6 n 20) (field 6 n 14) (field 3 n 5)) else .badField
  | 15 => .instr (.vpermI32 (field 6 n 20) (field 6 n 14) (field 6 n 8) (field 3 n 5))
  | 16 => if bits n 23 3 = 0 then .instr (.vcmpEqI32 (field 3 n 20) (field 6 n 14) (field 6 n 8) (field 3 n 5)) else .badField
  | 17 => if bits n 23 3 = 0 then .instr (.vcmpNeI32 (field 3 n 20) (field 6 n 14) (field 6 n 8) (field 3 n 5)) else .badField
  | 18 => if bits n 23 3 = 0 then .instr (.vcmpLtI32 (field 3 n 20) (field 6 n 14) (field 6 n 8) (field 3 n 5)) else .badField
  | 19 => if bits n 23 3 = 0 then .instr (.vcmpLeI32 (field 3 n 20) (field 6 n 14) (field 6 n 8) (field 3 n 5)) else .badField
  | 20 => if bits n 23 3 = 0 then .instr (.vcmpLtuI32 (field 3 n 20) (field 6 n 14) (field 6 n 8) (field 3 n 5)) else .badField
  | 21 => if bits n 23 3 = 0 then .instr (.vcmpLeuI32 (field 3 n 20) (field 6 n 14) (field 6 n 8) (field 3 n 5)) else .badField
  | 24 => if bits n 8 6 = 0 then .instr (.vraddI32 (field 6 n 20) (field 6 n 14) (field 3 n 5)) else .badField
  | 25 => if bits n 8 6 = 0 then .instr (.vrmaxI32 (field 6 n 20) (field 6 n 14) (field 3 n 5)) else .badField
  | 26 => if bits n 8 6 = 0 then .instr (.vrminI32 (field 6 n 20) (field 6 n 14) (field 3 n 5)) else .badField
  | _ => .noInstr

/-- The members of major 0x30 (R177). -/
noncomputable def decodeVF16 (n : Nat) : Decoded :=
  match bits n 0 5 with
  | 0 => .instr (.vfaddF16 (field 6 n 20) (field 6 n 14) (field 6 n 8) (field 3 n 5))
  | 1 => .instr (.vfsubF16 (field 6 n 20) (field 6 n 14) (field 6 n 8) (field 3 n 5))
  | 2 => .instr (.vfmulF16 (field 6 n 20) (field 6 n 14) (field 6 n 8) (field 3 n 5))
  | 3 => .instr (.vfmaF16 (field 6 n 20) (field 6 n 14) (field 6 n 8) (field 3 n 5))
  | 4 => .instr (.vfminF16 (field 6 n 20) (field 6 n 14) (field 6 n 8) (field 3 n 5))
  | 5 => .instr (.vfmaxF16 (field 6 n 20) (field 6 n 14) (field 6 n 8) (field 3 n 5))
  | 6 => .instr (.vfdivF16 (field 6 n 20) (field 6 n 14) (field 6 n 8) (field 3 n 5))
  | 7 => if bits n 8 6 = 0 then .instr (.vfsqrtF16 (field 6 n 20) (field 6 n 14) (field 3 n 5)) else .badField
  | 16 => if bits n 23 3 = 0 then .instr (.vcmpEqF16 (field 3 n 20) (field 6 n 14) (field 6 n 8) (field 3 n 5)) else .badField
  | 17 => if bits n 23 3 = 0 then .instr (.vcmpNeF16 (field 3 n 20) (field 6 n 14) (field 6 n 8) (field 3 n 5)) else .badField
  | 18 => if bits n 23 3 = 0 then .instr (.vcmpLtF16 (field 3 n 20) (field 6 n 14) (field 6 n 8) (field 3 n 5)) else .badField
  | 19 => if bits n 23 3 = 0 then .instr (.vcmpLeF16 (field 3 n 20) (field 6 n 14) (field 6 n 8) (field 3 n 5)) else .badField
  | 22 => if bits n 23 3 = 0 then .instr (.vcmpUnF16 (field 3 n 20) (field 6 n 14) (field 6 n 8) (field 3 n 5)) else .badField
  | 24 => if bits n 8 6 = 0 then .instr (.vrfaddF16 (field 6 n 20) (field 6 n 14) (field 3 n 5)) else .badField
  | _ => .noInstr

/-- The members of major 0x31 (R177). -/
noncomputable def decodeVBF16 (n : Nat) : Decoded :=
  match bits n 0 5 with
  | 0 => .instr (.vfaddBf16 (field 6 n 20) (field 6 n 14) (field 6 n 8) (field 3 n 5))
  | 1 => .instr (.vfsubBf16 (field 6 n 20) (field 6 n 14) (field 6 n 8) (field 3 n 5))
  | 2 => .instr (.vfmulBf16 (field 6 n 20) (field 6 n 14) (field 6 n 8) (field 3 n 5))
  | 3 => .instr (.vfmaBf16 (field 6 n 20) (field 6 n 14) (field 6 n 8) (field 3 n 5))
  | 4 => .instr (.vfminBf16 (field 6 n 20) (field 6 n 14) (field 6 n 8) (field 3 n 5))
  | 5 => .instr (.vfmaxBf16 (field 6 n 20) (field 6 n 14) (field 6 n 8) (field 3 n 5))
  | 6 => .instr (.vfdivBf16 (field 6 n 20) (field 6 n 14) (field 6 n 8) (field 3 n 5))
  | 7 => if bits n 8 6 = 0 then .instr (.vfsqrtBf16 (field 6 n 20) (field 6 n 14) (field 3 n 5)) else .badField
  | 16 => if bits n 23 3 = 0 then .instr (.vcmpEqBf16 (field 3 n 20) (field 6 n 14) (field 6 n 8) (field 3 n 5)) else .badField
  | 17 => if bits n 23 3 = 0 then .instr (.vcmpNeBf16 (field 3 n 20) (field 6 n 14) (field 6 n 8) (field 3 n 5)) else .badField
  | 18 => if bits n 23 3 = 0 then .instr (.vcmpLtBf16 (field 3 n 20) (field 6 n 14) (field 6 n 8) (field 3 n 5)) else .badField
  | 19 => if bits n 23 3 = 0 then .instr (.vcmpLeBf16 (field 3 n 20) (field 6 n 14) (field 6 n 8) (field 3 n 5)) else .badField
  | 22 => if bits n 23 3 = 0 then .instr (.vcmpUnBf16 (field 3 n 20) (field 6 n 14) (field 6 n 8) (field 3 n 5)) else .badField
  | 24 => if bits n 8 6 = 0 then .instr (.vrfaddBf16 (field 6 n 20) (field 6 n 14) (field 3 n 5)) else .badField
  | _ => .noInstr

/-- The members of major 0x32 (R177). -/
noncomputable def decodeVF32 (n : Nat) : Decoded :=
  match bits n 0 5 with
  | 0 => .instr (.vfaddF32 (field 6 n 20) (field 6 n 14) (field 6 n 8) (field 3 n 5))
  | 1 => .instr (.vfsubF32 (field 6 n 20) (field 6 n 14) (field 6 n 8) (field 3 n 5))
  | 2 => .instr (.vfmulF32 (field 6 n 20) (field 6 n 14) (field 6 n 8) (field 3 n 5))
  | 3 => .instr (.vfmaF32 (field 6 n 20) (field 6 n 14) (field 6 n 8) (field 3 n 5))
  | 4 => .instr (.vfminF32 (field 6 n 20) (field 6 n 14) (field 6 n 8) (field 3 n 5))
  | 5 => .instr (.vfmaxF32 (field 6 n 20) (field 6 n 14) (field 6 n 8) (field 3 n 5))
  | 6 => .instr (.vfdivF32 (field 6 n 20) (field 6 n 14) (field 6 n 8) (field 3 n 5))
  | 7 => if bits n 8 6 = 0 then .instr (.vfsqrtF32 (field 6 n 20) (field 6 n 14) (field 3 n 5)) else .badField
  | 16 => if bits n 23 3 = 0 then .instr (.vcmpEqF32 (field 3 n 20) (field 6 n 14) (field 6 n 8) (field 3 n 5)) else .badField
  | 17 => if bits n 23 3 = 0 then .instr (.vcmpNeF32 (field 3 n 20) (field 6 n 14) (field 6 n 8) (field 3 n 5)) else .badField
  | 18 => if bits n 23 3 = 0 then .instr (.vcmpLtF32 (field 3 n 20) (field 6 n 14) (field 6 n 8) (field 3 n 5)) else .badField
  | 19 => if bits n 23 3 = 0 then .instr (.vcmpLeF32 (field 3 n 20) (field 6 n 14) (field 6 n 8) (field 3 n 5)) else .badField
  | 22 => if bits n 23 3 = 0 then .instr (.vcmpUnF32 (field 3 n 20) (field 6 n 14) (field 6 n 8) (field 3 n 5)) else .badField
  | 24 => if bits n 8 6 = 0 then .instr (.vrfaddF32 (field 6 n 20) (field 6 n 14) (field 3 n 5)) else .badField
  | _ => .noInstr

/-- The members of major 0x33 (R178). -/
noncomputable def decodeVMisc (n : Nat) : Decoded :=
  match bits n 0 6 with
  | 0 => if bits n 14 6 = 0 then .instr (.vbcastI8 (field 6 n 20) (field 5 n 9) (field 3 n 6)) else .badField
  | 1 => if bits n 14 6 = 0 then .instr (.vbcastI16 (field 6 n 20) (field 5 n 9) (field 3 n 6)) else .badField
  | 2 => if bits n 14 6 = 0 then .instr (.vbcastI32 (field 6 n 20) (field 5 n 9) (field 3 n 6)) else .badField
  | 4 => if bits n 6 3 = 0 ∧ bits n 25 1 = 0 then .instr (.vextI8 (field 5 n 20) (field 6 n 14) (field 5 n 9)) else .badField
  | 5 => if bits n 6 3 = 0 ∧ bits n 25 1 = 0 then .instr (.vextI16 (field 5 n 20) (field 6 n 14) (field 5 n 9)) else .badField
  | 6 => if bits n 6 3 = 0 ∧ bits n 25 1 = 0 then .instr (.vextI32 (field 5 n 20) (field 6 n 14) (field 5 n 9)) else .badField
  | 8 => if bits n 6 3 = 0 ∧ bits n 19 1 = 0 then .instr (.vinsI8 (field 6 n 20) (field 5 n 14) (field 5 n 9)) else .badField
  | 9 => if bits n 6 3 = 0 ∧ bits n 19 1 = 0 then .instr (.vinsI16 (field 6 n 20) (field 5 n 14) (field 5 n 9)) else .badField
  | 10 => if bits n 6 3 = 0 ∧ bits n 19 1 = 0 then .instr (.vinsI32 (field 6 n 20) (field 5 n 14) (field 5 n 9)) else .badField
  | 16 => if bits n 6 3 = 0 ∧ bits n 12 2 = 0 ∧ bits n 17 3 = 0 ∧ bits n 23 3 = 0 then .instr (.qand (field 3 n 20) (field 3 n 14) (field 3 n 9)) else .badField
  | 17 => if bits n 6 3 = 0 ∧ bits n 12 2 = 0 ∧ bits n 17 3 = 0 ∧ bits n 23 3 = 0 then .instr (.qor (field 3 n 20) (field 3 n 14) (field 3 n 9)) else .badField
  | 18 => if bits n 6 3 = 0 ∧ bits n 12 2 = 0 ∧ bits n 17 3 = 0 ∧ bits n 23 3 = 0 then .instr (.qxor (field 3 n 20) (field 3 n 14) (field 3 n 9)) else .badField
  | 19 => if bits n 6 8 = 0 ∧ bits n 17 3 = 0 ∧ bits n 23 3 = 0 then .instr (.qnot (field 3 n 20) (field 3 n 14)) else .badField
  | 20 => if bits n 6 3 = 0 ∧ bits n 17 9 = 0 then .instr (.qpop (field 3 n 14) (field 5 n 9)) else .badField
  | 21 => if bits n 6 3 = 0 ∧ bits n 17 9 = 0 then .instr (.qfirst (field 3 n 14) (field 5 n 9)) else .badField
  | _ => .noInstr

/-- The members of major 0x34 (R178). -/
noncomputable def decodeVConv (n : Nat) : Decoded :=
  match bits n 12 2 with
  | 0 => .instr (.vcvt (field 6 n 20) (field 6 n 14) (field 3 n 9) (field 3 n 6) (field 3 n 3) (field 3 n 0))
  | 1 => .instr (.vpack (field 6 n 20) (field 6 n 14) (field 3 n 9) (field 3 n 6) (field 3 n 3) (field 3 n 0))
  | 2 => .instr (.vunpk (field 6 n 20) (field 6 n 14) (field 3 n 9) (field 3 n 6) (field 3 n 3) (field 3 n 0))
  | _ => .noInstr

/-- The members of major 0x35 (R179). -/
noncomputable def decodeVMem (n : Nat) : Decoded :=
  match bits n 6 3 with
  | 0 => .instr (.vld (field 6 n 20) (field 3 n 17) (field 5 n 12) (field 3 n 9) (field 6 n 0))
  | 1 => .instr (.vst (field 6 n 20) (field 3 n 17) (field 5 n 12) (field 3 n 9) (field 6 n 0))
  | 2 => .instr (.vlds (field 6 n 20) (field 3 n 17) (field 5 n 12) (field 3 n 9) (field 6 n 0))
  | 3 => .instr (.vsts (field 6 n 20) (field 3 n 17) (field 5 n 12) (field 3 n 9) (field 6 n 0))
  | 4 => .instr (.vgath (field 6 n 20) (field 3 n 17) (field 5 n 12) (field 3 n 9) (field 6 n 0))
  | 5 => .instr (.vscat (field 6 n 20) (field 3 n 17) (field 5 n 12) (field 3 n 9) (field 6 n 0))
  | 6 => .instr (.vldb (field 6 n 20) (field 3 n 17) (field 5 n 12) (field 3 n 9) (field 6 n 0))
  | 7 => .instr (.vstb (field 6 n 20) (field 3 n 17) (field 5 n 12) (field 3 n 9) (field 6 n 0))
  | _ => .noInstr

/-- The members of major 0x36 (R180). -/
noncomputable def decodeLease (n : Nat) : Decoded :=
  match bits n 15 9 with
  | 0 => if bits n 10 5 = 0 then .instr (.lease (field 2 n 24) (field 5 n 5) (field 5 n 0)) else .badField
  | 1 => if bits n 0 5 = 0 ∧ bits n 10 5 = 0 then .instr (.lrenew (field 2 n 24) (field 5 n 5)) else .badField
  | 2 => if bits n 0 15 = 0 then .instr (.lfree (field 2 n 24)) else .badField
  | 3 => if bits n 0 5 = 0 then .instr (.lstat (field 2 n 24) (field 5 n 10) (field 5 n 5)) else .badField
  | 4 => if bits n 0 5 = 0 then .instr (.lwait (field 2 n 24) (field 5 n 10) (field 5 n 5)) else .badField
  | 16 => if bits n 10 5 = 0 then .instr (.ecfg (field 2 n 24) (field 5 n 5) (field 5 n 0)) else .badField
  | 17 => if bits n 5 5 = 0 then .instr (.eget (field 2 n 24) (field 5 n 10) (field 5 n 0)) else .badField
  | 18 => if bits n 0 10 = 0 then .instr (.ewait (field 2 n 24) (field 5 n 10)) else .badField
  | _ => .noInstr

/-- The members of major 0x37 (R180). -/
noncomputable def decodeEngine (n : Nat) : Decoded :=
  match bits n 15 9 with
  | 0 => if bits n 0 5 = 0 ∧ bits n 10 5 = 0 then .instr (.mlds (field 2 n 24) (field 5 n 5)) else .badField
  | 1 => if bits n 0 15 = 0 then .instr (.mswap (field 2 n 24)) else .badField
  | 2 => if bits n 0 5 = 0 ∧ bits n 10 5 = 0 then .instr (.mstream (field 2 n 24) (field 5 n 5)) else .badField
  | 3 => if bits n 0 15 = 0 then .instr (.mtile (field 2 n 24)) else .badField
  | 4 => if bits n 0 15 = 0 then .instr (.mrot (field 2 n 24)) else .badField
  | 5 => if bits n 10 5 = 0 then .instr (.mdrain (field 2 n 24) (field 5 n 5) (field 5 n 0)) else .badField
  | 6 => if bits n 0 5 = 0 ∧ bits n 10 5 = 0 then .instr (.mzero (field 2 n 24) (field 5 n 5)) else .badField
  | 7 => if bits n 0 15 = 0 then .instr (.mresume (field 2 n 24)) else .badField
  | 64 => if bits n 0 5 = 0 ∧ bits n 10 5 = 0 then .instr (.rlds (field 2 n 24) (field 5 n 5)) else .badField
  | 65 => if bits n 0 5 = 0 ∧ bits n 10 5 = 0 then .instr (.rtile (field 2 n 24) (field 5 n 5)) else .badField
  | 66 => if bits n 0 15 = 0 then .instr (.rconv (field 2 n 24)) else .badField
  | 128 => if bits n 0 15 = 0 then .instr (.gconv (field 2 n 24)) else .badField
  | 129 => if bits n 0 15 = 0 then .instr (.ggath (field 2 n 24)) else .badField
  | 130 => if bits n 0 15 = 0 then .instr (.gcopy (field 2 n 24)) else .badField
  | 192 => if bits n 0 15 = 0 then .instr (.hdigest (field 2 n 24)) else .badField
  | 193 => if bits n 0 15 = 0 then .instr (.hingest (field 2 n 24)) else .badField
  | _ => .noInstr

/-- The members of major 0x38 (R181). -/
noncomputable def decodeCopy (n : Nat) : Decoded :=
  match bits n 0 3 with
  | 0 => if bits n 9 1 = 0 ∧ bits n 11 5 = 0 ∧ bits n 21 5 = 0 then .instr (.copy (field 5 n 16) (field 1 n 10) (field 3 n 6) (field 3 n 3)) else .badField
  | 1 => if bits n 9 1 = 0 ∧ bits n 11 5 = 0 then .instr (.copyNb (field 5 n 21) (field 5 n 16) (field 1 n 10) (field 3 n 6) (field 3 n 3)) else .badField
  | 2 => if bits n 3 7 = 0 ∧ bits n 11 5 = 0 ∧ bits n 21 5 = 0 then .instr (.tcopy (field 5 n 16) (field 1 n 10)) else .badField
  | 3 => if bits n 3 18 = 0 then .instr (.cseal (field 5 n 21)) else .badField
  | 4 => if bits n 3 8 = 0 ∧ bits n 16 10 = 0 then .instr (.cwait (field 5 n 11)) else .badField
  | 5 => if bits n 3 7 = 0 ∧ bits n 11 5 = 0 then .instr (.cpoll (field 5 n 21) (field 5 n 16) (field 1 n 10)) else .badField
  | _ => .noInstr

/-- The members of major 0x39 (R178). -/
noncomputable def decodeCar (n : Nat) : Decoded :=
  match bits n 0 6 with
  | 0 => if bits n 6 3 = 0 ∧ bits n 20 6 = 0 then .instr (.clkl (field 6 n 14) (field 5 n 9)) else .badField
  | 1 => if bits n 6 3 = 0 ∧ bits n 20 6 = 0 then .instr (.clkn (field 6 n 14) (field 5 n 9)) else .badField
  | 2 => if bits n 6 3 = 0 ∧ bits n 14 6 = 0 then .instr (.cnld (field 6 n 20) (field 5 n 9)) else .badField
  | 3 => if bits n 6 3 = 0 ∧ bits n 14 12 = 0 then .instr (.cref (field 5 n 9)) else .badField
  | 4 => if bits n 6 3 = 0 ∧ bits n 14 12 = 0 then .instr (.crel (field 5 n 9)) else .badField
  | 5 => if bits n 6 3 = 0 ∧ bits n 14 12 = 0 then .instr (.cstat (field 5 n 9)) else .badField
  | _ => .noInstr

/-- The members of major 0x3A (R181). -/
noncomputable def decodeMsg (n : Nat) : Decoded :=
  match bits n 0 9 with
  | 0 => if bits n 9 1 = 0 ∧ bits n 21 5 = 0 then .instr (.send (field 5 n 16) (field 5 n 11) (field 1 n 10)) else .badField
  | 1 => if bits n 9 1 = 0 then .instr (.sendnb (field 5 n 21) (field 5 n 16) (field 5 n 11) (field 1 n 10)) else .badField
  | 2 => if bits n 9 7 = 0 then .instr (.recv (field 5 n 21) (field 5 n 16)) else .badField
  | 3 => if bits n 9 7 = 0 then .instr (.recvp (field 5 n 21) (field 5 n 16)) else .badField
  | 4 => if bits n 9 1 = 0 ∧ bits n 11 5 = 0 ∧ bits n 21 5 = 0 then .instr (.reply (field 5 n 16) (field 1 n 10)) else .badField
  | 8 => if bits n 21 5 = 0 then .instr (.wakest (field 5 n 16) (field 5 n 11) (field 1 n 10) (field 1 n 9)) else .badField
  | 9 => if bits n 9 17 = 0 then .instr .texit else .badField
  | _ => .noInstr

/-- The members of major 0x3B (R181). -/
noncomputable def decodeBar (n : Nat) : Decoded :=
  match bits n 0 4 with
  | 0 => if bits n 21 5 = 0 then .instr (.arrive (field 5 n 16) (field 5 n 11) (field 1 n 10) (field 1 n 9) (field 3 n 6) (field 2 n 4)) else .badField
  | 1 => if bits n 4 5 = 0 ∧ bits n 21 5 = 0 then .instr (.expect (field 5 n 16) (field 5 n 11) (field 1 n 10) (field 1 n 9)) else .badField
  | 2 => if bits n 4 2 = 0 then .instr (.bwait (field 5 n 21) (field 5 n 16) (field 5 n 11) (field 1 n 10) (field 1 n 9) (field 3 n 6)) else .badField
  | 3 => if bits n 4 6 = 0 ∧ bits n 11 5 = 0 then .instr (.btest (field 5 n 21) (field 5 n 16) (field 1 n 10)) else .badField
  | _ => .noInstr

/-- The members of major 0x3C (R182, R320). -/
noncomputable def decodeSys (n : Nat) : Decoded :=
  match bits n 0 4 with
  | 0 => if bits n 16 10 = 0 then .instr (.svc (field 12 n 4)) else .badField
  | 1 => if bits n 16 10 = 0 then .instr (.mcall (field 12 n 4)) else .badField
  | 2 => if bits n 4 22 = 0 then .instr .xret else .badField
  | 3 => if bits n 4 22 = 0 then .instr .upret else .badField
  | 4 => if bits n 4 22 = 0 then .instr .plret else .badField
  | 5 => if bits n 16 5 = 0 then .instr (.sysrd (field 5 n 21) (field 12 n 4)) else .badField
  | 6 => if bits n 21 5 = 0 then .instr (.syswr (field 5 n 16) (field 12 n 4)) else .badField
  | 7 => .instr (.sysset (field 5 n 21) (field 5 n 16) (field 12 n 4))
  | 8 => .instr (.sysclr (field 5 n 21) (field 5 n 16) (field 12 n 4))
  | 9 => if bits n 4 22 = 0 then .instr .halt else .badField
  | 10 =>
    match bits n 11 2 with
    | 0 => if bits n 4 7 = 0 ∧ bits n 21 5 = 0 then .instr (.tlbinvPg (field 5 n 16) (field 3 n 13)) else .badField
    | 1 => if bits n 4 7 = 0 ∧ bits n 13 3 = 0 ∧ bits n 21 5 = 0 then .instr (.tlbinvAs (field 5 n 16)) else .badField
    | 2 => if bits n 4 7 = 0 ∧ bits n 13 13 = 0 then .instr .tlbinvAll else .badField
    | _ => .badField
  | 11 => if bits n 4 7 = 0 then .instr (.rput (field 5 n 21) (field 5 n 16) (field 5 n 11)) else .badField
  | 15 => if bits n 16 10 = 0 then .instr (.brk (field 12 n 4)) else .badField
  | _ => .noInstr

/-- The members of major 0x3D (R182). -/
noncomputable def decodeSync (n : Nat) : Decoded :=
  match bits n 0 4 with
  | 0 => if bits n 4 5 = 0 ∧ bits n 16 10 = 0 then .instr (.fence (field 4 n 12) (field 3 n 9)) else .badField
  | 1 => if bits n 4 22 = 0 then .instr .sdrain else .badField
  | 4 => if bits n 4 4 = 0 ∧ bits n 16 10 = 0 then .instr (.pclr (field 2 n 14) (field 6 n 8)) else .badField
  | 5 => if bits n 4 4 = 0 ∧ bits n 16 10 = 0 then .instr (.pset (field 2 n 14) (field 6 n 8)) else .badField
  | 6 => if bits n 4 4 = 0 ∧ bits n 16 5 = 0 then .instr (.ptest (field 5 n 21) (field 2 n 14) (field 6 n 8)) else .badField
  | 7 => if bits n 4 4 = 0 ∧ bits n 16 10 = 0 then .instr (.pwait (field 2 n 14) (field 6 n 8)) else .badField
  | _ => .noInstr

/-- Steps 1 and 3 of R183 but for the ranges of well-formedness: the major opcode in bits [31:26] selects the group
of R171, the group its members. Every word of major 0x3E is a hint (R184). -/
noncomputable def decodeRaw (n : Nat) : Decoded :=
  match bits n 26 6 with
  | 1 => decodeInt n
  | 2 => .instr (.addi (field 5 n 21) (field 5 n 16) (field 1 n 15) (field 15 n 0))
  | 3 => .instr (.andi (field 5 n 21) (field 5 n 16) (field 1 n 15) (field 15 n 0))
  | 4 => .instr (.ori (field 5 n 21) (field 5 n 16) (field 1 n 15) (field 15 n 0))
  | 5 => .instr (.xori (field 5 n 21) (field 5 n 16) (field 1 n 15) (field 15 n 0))
  | 6 => .instr (.slti (field 5 n 21) (field 5 n 16) (field 1 n 15) (field 15 n 0))
  | 7 => .instr (.sltiu (field 5 n 21) (field 5 n 16) (field 1 n 15) (field 15 n 0))
  | 8 => .instr (.lih (field 5 n 21) (field 21 n 0))
  | 9 => .instr (.addpc (field 5 n 21) (field 21 n 0))
  | 10 => .instr (.addc (field 5 n 21) (field 5 n 16) (field 2 n 14) (field 14 n 0))
  | 11 => .instr (.subc (field 5 n 21) (field 5 n 16) (field 2 n 14) (field 14 n 0))
  | 12 => .instr (.andc (field 5 n 21) (field 5 n 16) (field 2 n 14) (field 14 n 0))
  | 13 => .instr (.orc (field 5 n 21) (field 5 n 16) (field 2 n 14) (field 14 n 0))
  | 14 => .instr (.xorc (field 5 n 21) (field 5 n 16) (field 2 n 14) (field 14 n 0))
  | 15 => .instr (.mulc (field 5 n 21) (field 5 n 16) (field 2 n 14) (field 14 n 0))
  | 16 => .instr (.minc (field 5 n 21) (field 5 n 16) (field 2 n 14) (field 14 n 0))
  | 17 => .instr (.maxc (field 5 n 21) (field 5 n 16) (field 2 n 14) (field 14 n 0))
  | 18 => .instr (.sltc (field 5 n 21) (field 5 n 16) (field 2 n 14) (field 14 n 0))
  | 19 => decodeBase n
  | 20 => if bits n 19 2 = 0 ∧ bits n 24 2 = 0 then .instr (.baddi (field 3 n 21) (field 3 n 16) (field 1 n 15) (field 15 n 0)) else .badField
  | 21 => if bits n 24 2 = 0 then .instr (.blea (field 3 n 21) (field 21 n 0)) else .badField
  | 22 => if bits n 24 2 = 0 then .instr (.ldb (field 3 n 21) (field 5 n 16) (field 3 n 13) (field 1 n 12) (field 12 n 0)) else .badField
  | 23 => if bits n 24 2 = 0 then .instr (.stb (field 3 n 21) (field 5 n 16) (field 3 n 13) (field 1 n 12) (field 12 n 0)) else .badField
  | 24 => decodeBranch n
  | 25 => if bits n 13 8 = 0 then .instr (.loop (field 5 n 21) (field 13 n 0)) else .badField
  | 26 => .instr (.j (field 26 n 0))
  | 27 => .instr (.call (field 26 n 0))
  | 28 => decodeCtrl n
  | 29 => .instr (.lb (field 5 n 21) (field 5 n 16) (field 3 n 13) (field 1 n 12) (field 12 n 0))
  | 30 => .instr (.lbu (field 5 n 21) (field 5 n 16) (field 3 n 13) (field 1 n 12) (field 12 n 0))
  | 31 => .instr (.lh (field 5 n 21) (field 5 n 16) (field 3 n 13) (field 1 n 12) (field 12 n 0))
  | 32 => .instr (.lhu (field 5 n 21) (field 5 n 16) (field 3 n 13) (field 1 n 12) (field 12 n 0))
  | 33 => .instr (.lw (field 5 n 21) (field 5 n 16) (field 3 n 13) (field 1 n 12) (field 12 n 0))
  | 34 => .instr (.ldp (field 5 n 21) (field 5 n 16) (field 3 n 13) (field 1 n 12) (field 12 n 0))
  | 35 => .instr (.sb (field 5 n 21) (field 5 n 16) (field 3 n 13) (field 1 n 12) (field 12 n 0))
  | 36 => .instr (.sh (field 5 n 21) (field 5 n 16) (field 3 n 13) (field 1 n 12) (field 12 n 0))
  | 37 => .instr (.sw (field 5 n 21) (field 5 n 16) (field 3 n 13) (field 1 n 12) (field 12 n 0))
  | 38 => .instr (.stp (field 5 n 21) (field 5 n 16) (field 3 n 13) (field 1 n 12) (field 12 n 0))
  | 39 => decodeOrdered n
  | 40 => decodeAtom n
  | 41 => decodeFeMem n
  | 42 => decodeRsv n
  | 43 => decodeLine n
  | 44 => decodeFp n
  | 45 => decodeVI8 n
  | 46 => decodeVI16 n
  | 47 => decodeVI32 n
  | 48 => decodeVF16 n
  | 49 => decodeVBF16 n
  | 50 => decodeVF32 n
  | 51 => decodeVMisc n
  | 52 => decodeVConv n
  | 53 => decodeVMem n
  | 54 => decodeLease n
  | 55 => decodeEngine n
  | 56 => decodeCopy n
  | 57 => decodeCar n
  | 58 => decodeMsg n
  | 59 => decodeBar n
  | 60 => decodeSys n
  | 61 => decodeSync n
  | 62 => .instr (.nop (field 26 n 0))
  | _ => .noInstr

/-- What a word is (R183 steps 1 and 3): a raw reading whose fields are in range. -/
noncomputable def classify (w : Word) : Decoded :=
  match decodeRaw w.toNat with
  | .instr i => if i.wf then .instr i else .badField
  | r => r

/-- The instruction of a word, where it is one. -/
noncomputable def decode (w : Word) : Option Instr :=
  match classify w with
  | .instr i => some i
  | _ => none

/-- The word of four bytes, the lowest address least significant (R6). -/
def wordOfBytes (b0 b1 b2 b3 : Byte) : Word := b3 ++ b2 ++ b1 ++ b0

/-- Byte k of a word as memory holds it (R6). -/
def byteOfWord (w : Word) (k : Nat) : Byte := BitVec.ofNat 8 (w.toNat / 2 ^ (8 * k))

/-- Decoding from bytes in memory order: the instruction and the bytes after it, or none where fewer than four bytes
are left or the word is no instruction. -/
noncomputable def decodeBytes (bs : List Byte) : Option (Instr × List Byte) :=
  match bs with
  | b0 :: b1 :: b2 :: b3 :: rest => (decode (wordOfBytes b0 b1 b2 b3)).map (fun i => (i, rest))
  | _ => none

/-- The instruction the decoder reads from the low `nbits` bits of w, every bit above them 0. An instruction is one
32-bit word laid out little-endian. -/
noncomputable def decodeTableWord (nbits w : Nat) : Option Instr :=
  let x : Word := BitVec.ofNat 32 (w % 2 ^ nbits)
  (decodeBytes [byteOfWord x 0, byteOfWord x 1, byteOfWord x 2, byteOfWord x 3]).map Prod.fst

/-- Whether a member of major group Int has this code. -/
def namesInt (n : Nat) : Bool := [0, 1, 2, 3, 4, 5, 8, 9, 10, 11, 12, 13, 14, 16, 17, 18, 20, 21, 22, 23, 24, 25, 26, 27, 28, 29, 30, 31, 32, 33, 34, 35, 36, 40, 41, 42].contains (bits n 0 9)

/-- Whether a member of major group Base has this code. -/
def namesBase (n : Nat) : Bool := [0, 1, 2, 3, 4].contains (bits n 0 9)

/-- Whether a member of major group Branch has this code. -/
def namesBranch (n : Nat) : Bool := [0, 1, 2, 3, 4, 5, 6, 7].contains (bits n 13 3)

/-- Whether a member of major group Ctrl has this code. -/
def namesCtrl (n : Nat) : Bool := [0, 1, 2, 3].contains (bits n 0 9)

/-- Whether a member of major group Ordered has this code. -/
def namesOrdered (n : Nat) : Bool := [0, 1].contains (bits n 11 1)

/-- Whether a member of major group FeMem has this code. -/
def namesFeMem (n : Nat) : Bool := [0, 1, 2, 3, 4].contains (bits n 9 3)

/-- Whether a member of major group Rsv has this code. -/
def namesRsv (n : Nat) : Bool := [0, 1, 2, 3, 4].contains (bits n 9 3)

/-- Whether a member of major group Line has this code. -/
def namesLine (n : Nat) : Bool := [0, 1, 2, 3].contains (bits n 10 2)

/-- Whether a member of major group Fp has this code. -/
def namesFp (n : Nat) : Bool := [0, 1, 2, 3, 4, 5, 6, 7, 8, 9, 10, 11, 12, 13].contains (bits n 0 5)

/-- Whether a member of major group VI8 has this code. -/
def namesVI8 (n : Nat) : Bool := [0, 1, 2, 3, 4, 5, 6, 7, 8, 9, 10, 11, 12, 13, 14, 15, 16, 17, 18, 19, 20, 21, 24, 25, 26].contains (bits n 0 5)

/-- Whether a member of major group VI16 has this code. -/
def namesVI16 (n : Nat) : Bool := [0, 1, 2, 3, 4, 5, 6, 7, 8, 9, 10, 11, 12, 13, 14, 15, 16, 17, 18, 19, 20, 21, 24, 25, 26].contains (bits n 0 5)

/-- Whether a member of major group VI32 has this code. -/
def namesVI32 (n : Nat) : Bool := [0, 1, 2, 3, 4, 5, 6, 7, 8, 9, 10, 11, 12, 13, 14, 15, 16, 17, 18, 19, 20, 21, 24, 25, 26].contains (bits n 0 5)

/-- Whether a member of major group VF16 has this code. -/
def namesVF16 (n : Nat) : Bool := [0, 1, 2, 3, 4, 5, 6, 7, 16, 17, 18, 19, 22, 24].contains (bits n 0 5)

/-- Whether a member of major group VBF16 has this code. -/
def namesVBF16 (n : Nat) : Bool := [0, 1, 2, 3, 4, 5, 6, 7, 16, 17, 18, 19, 22, 24].contains (bits n 0 5)

/-- Whether a member of major group VF32 has this code. -/
def namesVF32 (n : Nat) : Bool := [0, 1, 2, 3, 4, 5, 6, 7, 16, 17, 18, 19, 22, 24].contains (bits n 0 5)

/-- Whether a member of major group VMisc has this code. -/
def namesVMisc (n : Nat) : Bool := [0, 1, 2, 4, 5, 6, 8, 9, 10, 16, 17, 18, 19, 20, 21].contains (bits n 0 6)

/-- Whether a member of major group VConv has this code. -/
def namesVConv (n : Nat) : Bool := [0, 1, 2].contains (bits n 12 2)

/-- Whether a member of major group VMem has this code. -/
def namesVMem (n : Nat) : Bool := [0, 1, 2, 3, 4, 5, 6, 7].contains (bits n 6 3)

/-- Whether a member of major group Lease has this code. -/
def namesLease (n : Nat) : Bool := [0, 1, 2, 3, 4, 16, 17, 18].contains (bits n 15 9)

/-- Whether a member of major group Engine has this code. -/
def namesEngine (n : Nat) : Bool := [0, 1, 2, 3, 4, 5, 6, 7, 64, 65, 66, 128, 129, 130, 192, 193].contains (bits n 15 9)

/-- Whether a member of major group Copy has this code. -/
def namesCopy (n : Nat) : Bool := [0, 1, 2, 3, 4, 5].contains (bits n 0 3)

/-- Whether a member of major group Car has this code. -/
def namesCar (n : Nat) : Bool := [0, 1, 2, 3, 4, 5].contains (bits n 0 6)

/-- Whether a member of major group Msg has this code. -/
def namesMsg (n : Nat) : Bool := [0, 1, 2, 3, 4, 8, 9].contains (bits n 0 9)

/-- Whether a member of major group Bar has this code. -/
def namesBar (n : Nat) : Bool := [0, 1, 2, 3].contains (bits n 0 4)

/-- Whether a member of major group Sys has this code. -/
def namesSys (n : Nat) : Bool := [0, 1, 2, 3, 4, 5, 6, 7, 8, 9, 10, 11, 15].contains (bits n 0 4)

/-- Whether a member of major group Sync has this code. -/
def namesSync (n : Nat) : Bool := [0, 1, 4, 5, 6, 7].contains (bits n 0 4)

/-- Whether a member of major group Atom has this code. -/
def namesAtom (n : Nat) : Bool :=
  (if bits n 1 1 = 0 then [0, 1, 2, 3, 4, 5, 6, 7, 8, 9, 10, 11] else [0, 1, 2, 3, 4, 5, 10]).contains (bits n 8 4)

/-- Whether a word names an instruction (R183 step 1). -/
def names (n : Nat) : Bool :=
  match bits n 26 6 with
  | 1 => namesInt n
  | 19 => namesBase n
  | 24 => namesBranch n
  | 28 => namesCtrl n
  | 39 => namesOrdered n
  | 40 => namesAtom n
  | 41 => namesFeMem n
  | 42 => namesRsv n
  | 43 => namesLine n
  | 44 => namesFp n
  | 45 => namesVI8 n
  | 46 => namesVI16 n
  | 47 => namesVI32 n
  | 48 => namesVF16 n
  | 49 => namesVBF16 n
  | 50 => namesVF32 n
  | 51 => namesVMisc n
  | 52 => namesVConv n
  | 53 => namesVMem n
  | 54 => namesLease n
  | 55 => namesEngine n
  | 56 => namesCopy n
  | 57 => namesCar n
  | 58 => namesMsg n
  | 59 => namesBar n
  | 60 => namesSys n
  | 61 => namesSync n
  | k => [2, 3, 4, 5, 6, 7, 8, 9, 10, 11, 12, 13, 14, 15, 16, 17, 18, 20, 21, 22, 23, 25, 26, 27, 29, 30, 31, 32, 33, 34, 35, 36, 37, 38, 62].contains k

/-- The lowest mode of a word's major and fn (R182): 0 U, 1 S, 2 M. Only members of SYS ask for more than U. -/
def lowestMode (w : Word) : Nat :=
  if bits w.toNat 26 6 = 60 then
    match bits w.toNat 0 4 with
    | 1 => 1
    | 2 => 1
    | 9 => 1
    | 10 => 1
    | 11 => 2
    | _ => 0
  else 0

/-- The fields h [25:0] over the fixed bits m. -/
def placeH (m : Nat) (h : BitVec 26) : Nat :=
  m + h.toNat

/-- The fields d [25:21], a [20:16], b [15:11], s [10:10], t [9:9] over the fixed bits m. -/
def placeDABST (m : Nat) (d : BitVec 5) (a : BitVec 5) (b : BitVec 5) (s : BitVec 1) (t : BitVec 1) : Nat :=
  m + d.toNat * 2097152 + a.toNat * 65536 + b.toNat * 2048 + s.toNat * 1024 + t.toNat * 512

/-- The fields d [25:21], a [20:16], n [15:11], s [10:10] over the fixed bits m. -/
def placeDANS (m : Nat) (d : BitVec 5) (a : BitVec 5) (n : BitVec 5) (s : BitVec 1) : Nat :=
  m + d.toNat * 2097152 + a.toNat * 65536 + n.toNat * 2048 + s.toNat * 1024

/-- The fields d [25:21], a [20:16], s [10:10] over the fixed bits m. -/
def placeDAS (m : Nat) (d : BitVec 5) (a : BitVec 5) (s : BitVec 1) : Nat :=
  m + d.toNat * 2097152 + a.toNat * 65536 + s.toNat * 1024

/-- The fields d [25:21], a [20:16], s [15:15], i [14:0] over the fixed bits m. -/
def placeDASI (m : Nat) (d : BitVec 5) (a : BitVec 5) (s : BitVec 1) (i : BitVec 15) : Nat :=
  m + d.toNat * 2097152 + a.toNat * 65536 + s.toNat * 32768 + i.toNat

/-- The fields d [25:21], i [20:0] over the fixed bits m. -/
def placeDI (m : Nat) (d : BitVec 5) (i : BitVec 21) : Nat :=
  m + d.toNat * 2097152 + i.toNat

/-- The fields d [25:21], a [20:16], c [15:14], w [13:0] over the fixed bits m. -/
def placeDACW (m : Nat) (d : BitVec 5) (a : BitVec 5) (c : BitVec 2) (w : BitVec 14) : Nat :=
  m + d.toNat * 2097152 + a.toNat * 65536 + c.toNat * 16384 + w.toNat

/-- The fields d [23:21], a [20:16], b [15:11], s [10:10], t [9:9] over the fixed bits m. -/
def placeDABST9 (m : Nat) (d : BitVec 3) (a : BitVec 5) (b : BitVec 5) (s : BitVec 1) (t : BitVec 1) : Nat :=
  m + d.toNat * 2097152 + a.toNat * 65536 + b.toNat * 2048 + s.toNat * 1024 + t.toNat * 512

/-- The fields d [25:21], a [18:16], s [10:10] over the fixed bits m. -/
def placeDAS10 (m : Nat) (d : BitVec 5) (a : BitVec 3) (s : BitVec 1) : Nat :=
  m + d.toNat * 2097152 + a.toNat * 65536 + s.toNat * 1024

/-- The fields d [23:21], a [18:16], b [15:11], s [10:10], t [9:9] over the fixed bits m. -/
def placeDABST9x (m : Nat) (d : BitVec 3) (a : BitVec 3) (b : BitVec 5) (s : BitVec 1) (t : BitVec 1) : Nat :=
  m + d.toNat * 2097152 + a.toNat * 65536 + b.toNat * 2048 + s.toNat * 1024 + t.toNat * 512

/-- The fields d [23:21], a [18:16], s [10:10] over the fixed bits m. -/
def placeDAS10x (m : Nat) (d : BitVec 3) (a : BitVec 3) (s : BitVec 1) : Nat :=
  m + d.toNat * 2097152 + a.toNat * 65536 + s.toNat * 1024

/-- The fields d [23:21], a [18:16], s [15:15], i [14:0] over the fixed bits m. -/
def placeDASI0 (m : Nat) (d : BitVec 3) (a : BitVec 3) (s : BitVec 1) (i : BitVec 15) : Nat :=
  m + d.toNat * 2097152 + a.toNat * 65536 + s.toNat * 32768 + i.toNat

/-- The fields d [23:21], i [20:0] over the fixed bits m. -/
def placeDI0 (m : Nat) (d : BitVec 3) (i : BitVec 21) : Nat :=
  m + d.toNat * 2097152 + i.toNat

/-- The fields d [23:21], x [20:16], g [15:13], s [12:12], i [11:0] over the fixed bits m. -/
def placeDXGSI (m : Nat) (d : BitVec 3) (x : BitVec 5) (g : BitVec 3) (s : BitVec 1) (i : BitVec 12) : Nat :=
  m + d.toNat * 2097152 + x.toNat * 65536 + g.toNat * 8192 + s.toNat * 4096 + i.toNat

/-- The fields a [25:21], b [20:16], i [12:0] over the fixed bits m. -/
def placeABI (m : Nat) (a : BitVec 5) (b : BitVec 5) (i : BitVec 13) : Nat :=
  m + a.toNat * 2097152 + b.toNat * 65536 + i.toNat

/-- The fields a [25:21], n [20:16], i [12:0] over the fixed bits m. -/
def placeANI (m : Nat) (a : BitVec 5) (n : BitVec 5) (i : BitVec 13) : Nat :=
  m + a.toNat * 2097152 + n.toNat * 65536 + i.toNat

/-- The fields a [25:21], i [12:0] over the fixed bits m. -/
def placeAI (m : Nat) (a : BitVec 5) (i : BitVec 13) : Nat :=
  m + a.toNat * 2097152 + i.toNat

/-- The fields i [25:0] over the fixed bits m. -/
def placeI (m : Nat) (i : BitVec 26) : Nat :=
  m + i.toNat

/-- The fields b [13:11], t [9:9] over the fixed bits m. -/
def placeBT (m : Nat) (b : BitVec 3) (t : BitVec 1) : Nat :=
  m + b.toNat * 2048 + t.toNat * 512

/-- The fields d [25:21], a [20:16], b [13:11], s [10:10], t [9:9] over the fixed bits m. -/
def placeDABST9xx (m : Nat) (d : BitVec 5) (a : BitVec 5) (b : BitVec 3) (s : BitVec 1) (t : BitVec 1) : Nat :=
  m + d.toNat * 2097152 + a.toNat * 65536 + b.toNat * 2048 + s.toNat * 1024 + t.toNat * 512

/-- The fields d [25:21], a [20:16], s [10:10], q [8:8], r [7:5] over the fixed bits m. -/
def placeDASQR (m : Nat) (d : BitVec 5) (a : BitVec 5) (s : BitVec 1) (q : BitVec 1) (r : BitVec 3) : Nat :=
  m + d.toNat * 2097152 + a.toNat * 65536 + s.toNat * 1024 + q.toNat * 256 + r.toNat * 32

/-- The fields d [25:21], a [20:16], s [10:10], r [7:5] over the fixed bits m. -/
def placeDASR (m : Nat) (d : BitVec 5) (a : BitVec 5) (s : BitVec 1) (r : BitVec 3) : Nat :=
  m + d.toNat * 2097152 + a.toNat * 65536 + s.toNat * 1024 + r.toNat * 32

/-- The fields d [25:21], x [20:16], g [15:13], s [12:12], i [11:0] over the fixed bits m. -/
def placeDXGSI0 (m : Nat) (d : BitVec 5) (x : BitVec 5) (g : BitVec 3) (s : BitVec 1) (i : BitVec 12) : Nat :=
  m + d.toNat * 2097152 + x.toNat * 65536 + g.toNat * 8192 + s.toNat * 4096 + i.toNat

/-- The fields d [25:21], x [20:16], g [15:13], s [12:12], c [10:8], r [7:6], z [5:4], f [3:0] over the fixed bits m. -/
def placeDXGSCRZF (m : Nat) (d : BitVec 5) (x : BitVec 5) (g : BitVec 3) (s : BitVec 1) (c : BitVec 3) (r : BitVec 2) (z : BitVec 2) (f : BitVec 4) : Nat :=
  m + d.toNat * 2097152 + x.toNat * 65536 + g.toNat * 8192 + s.toNat * 4096 + c.toNat * 256 + r.toNat * 64 + z.toNat * 16 + f.toNat

/-- The fields d [25:21], x [20:16], g [15:13], s [12:12], c [7:5], r [4:3], p [2:2] over the fixed bits m. -/
def placeDXGSCRP (m : Nat) (d : BitVec 5) (x : BitVec 5) (g : BitVec 3) (s : BitVec 1) (c : BitVec 3) (r : BitVec 2) (p : BitVec 1) : Nat :=
  m + d.toNat * 2097152 + x.toNat * 65536 + g.toNat * 8192 + s.toNat * 4096 + c.toNat * 32 + r.toNat * 8 + p.toNat * 4

/-- The fields d [25:21], x [20:16], g [15:13], s [12:12], c [7:5], r [4:3] over the fixed bits m. -/
def placeDXGSCR (m : Nat) (d : BitVec 5) (x : BitVec 5) (g : BitVec 3) (s : BitVec 1) (c : BitVec 3) (r : BitVec 2) : Nat :=
  m + d.toNat * 2097152 + x.toNat * 65536 + g.toNat * 8192 + s.toNat * 4096 + c.toNat * 32 + r.toNat * 8

/-- The fields d [25:21], x [20:16], g [15:13], s [12:12], c [8:6], r [5:4], f [3:0] over the fixed bits m. -/
def placeDXGSCRF (m : Nat) (d : BitVec 5) (x : BitVec 5) (g : BitVec 3) (s : BitVec 1) (c : BitVec 3) (r : BitVec 2) (f : BitVec 4) : Nat :=
  m + d.toNat * 2097152 + x.toNat * 65536 + g.toNat * 8192 + s.toNat * 4096 + c.toNat * 64 + r.toNat * 16 + f.toNat

/-- The fields x [20:16], g [15:13], s [12:12], c [8:6], r [5:4], f [3:0] over the fixed bits m. -/
def placeXGSCRF (m : Nat) (x : BitVec 5) (g : BitVec 3) (s : BitVec 1) (c : BitVec 3) (r : BitVec 2) (f : BitVec 4) : Nat :=
  m + x.toNat * 65536 + g.toNat * 8192 + s.toNat * 4096 + c.toNat * 64 + r.toNat * 16 + f.toNat

/-- The fields x [20:16], g [15:13], s [12:12], i [9:0] over the fixed bits m. -/
def placeXGSI (m : Nat) (x : BitVec 5) (g : BitVec 3) (s : BitVec 1) (i : BitVec 10) : Nat :=
  m + x.toNat * 65536 + g.toNat * 8192 + s.toNat * 4096 + i.toNat

/-- The fields k [15:12], c [11:9] over the fixed bits m. -/
def placeKC (m : Nat) (k : BitVec 4) (c : BitVec 3) : Nat :=
  m + k.toNat * 4096 + c.toNat * 512

/-- The fields c [15:14], i [13:8] over the fixed bits m. -/
def placeCI (m : Nat) (c : BitVec 2) (i : BitVec 6) : Nat :=
  m + c.toNat * 16384 + i.toNat * 256

/-- The fields d [25:21], c [15:14], i [13:8] over the fixed bits m. -/
def placeDCI (m : Nat) (d : BitVec 5) (c : BitVec 2) (i : BitVec 6) : Nat :=
  m + d.toNat * 2097152 + c.toNat * 16384 + i.toNat * 256

/-- The fields v [25:20], a [19:14], b [13:8], q [7:5] over the fixed bits m. -/
def placeVABQ (m : Nat) (v : BitVec 6) (a : BitVec 6) (b : BitVec 6) (q : BitVec 3) : Nat :=
  m + v.toNat * 1048576 + a.toNat * 16384 + b.toNat * 256 + q.toNat * 32

/-- The fields v [25:20], a [19:14], q [7:5] over the fixed bits m. -/
def placeVAQ (m : Nat) (v : BitVec 6) (a : BitVec 6) (q : BitVec 3) : Nat :=
  m + v.toNat * 1048576 + a.toNat * 16384 + q.toNat * 32

/-- The fields v [25:20], a [19:14], n [13:8], q [7:5] over the fixed bits m. -/
def placeVANQ (m : Nat) (v : BitVec 6) (a : BitVec 6) (n : BitVec 6) (q : BitVec 3) : Nat :=
  m + v.toNat * 1048576 + a.toNat * 16384 + n.toNat * 256 + q.toNat * 32

/-- The fields p [22:20], a [19:14], b [13:8], q [7:5] over the fixed bits m. -/
def placePABQ (m : Nat) (p : BitVec 3) (a : BitVec 6) (b : BitVec 6) (q : BitVec 3) : Nat :=
  m + p.toNat * 1048576 + a.toNat * 16384 + b.toNat * 256 + q.toNat * 32

/-- The fields v [25:20], r [13:9], q [8:6] over the fixed bits m. -/
def placeVRQ (m : Nat) (v : BitVec 6) (r : BitVec 5) (q : BitVec 3) : Nat :=
  m + v.toNat * 1048576 + r.toNat * 512 + q.toNat * 64

/-- The fields n [24:20], a [19:14], r [13:9] over the fixed bits m. -/
def placeNAR (m : Nat) (n : BitVec 5) (a : BitVec 6) (r : BitVec 5) : Nat :=
  m + n.toNat * 1048576 + a.toNat * 16384 + r.toNat * 512

/-- The fields v [25:20], n [18:14], r [13:9] over the fixed bits m. -/
def placeVNR (m : Nat) (v : BitVec 6) (n : BitVec 5) (r : BitVec 5) : Nat :=
  m + v.toNat * 1048576 + n.toNat * 16384 + r.toNat * 512

/-- The fields d [22:20], a [16:14], b [11:9] over the fixed bits m. -/
def placeDAB (m : Nat) (d : BitVec 3) (a : BitVec 3) (b : BitVec 3) : Nat :=
  m + d.toNat * 1048576 + a.toNat * 16384 + b.toNat * 512

/-- The fields d [22:20], a [16:14] over the fixed bits m. -/
def placeDA (m : Nat) (d : BitVec 3) (a : BitVec 3) : Nat :=
  m + d.toNat * 1048576 + a.toNat * 16384

/-- The fields a [16:14], r [13:9] over the fixed bits m. -/
def placeAR (m : Nat) (a : BitVec 3) (r : BitVec 5) : Nat :=
  m + a.toNat * 16384 + r.toNat * 512

/-- The fields v [25:20], a [19:14], r [11:9], q [8:6], dt [5:3], st [2:0] over the fixed bits m. -/
def placeVARQDtSt (m : Nat) (v : BitVec 6) (a : BitVec 6) (r : BitVec 3) (q : BitVec 3) (dt : BitVec 3) (st : BitVec 3) : Nat :=
  m + v.toNat * 1048576 + a.toNat * 16384 + r.toNat * 512 + q.toNat * 64 + dt.toNat * 8 + st.toNat

/-- The fields v [25:20], g [19:17], x [16:12], q [11:9], i [5:0] over the fixed bits m. -/
def placeVGXQI (m : Nat) (v : BitVec 6) (g : BitVec 3) (x : BitVec 5) (q : BitVec 3) (i : BitVec 6) : Nat :=
  m + v.toNat * 1048576 + g.toNat * 131072 + x.toNat * 4096 + q.toNat * 512 + i.toNat

/-- The fields e [25:24], a [9:5], b [4:0] over the fixed bits m. -/
def placeEAB (m : Nat) (e : BitVec 2) (a : BitVec 5) (b : BitVec 5) : Nat :=
  m + e.toNat * 16777216 + a.toNat * 32 + b.toNat

/-- The fields e [25:24], a [9:5] over the fixed bits m. -/
def placeEA (m : Nat) (e : BitVec 2) (a : BitVec 5) : Nat :=
  m + e.toNat * 16777216 + a.toNat * 32

/-- The fields e [25:24] over the fixed bits m. -/
def placeE (m : Nat) (e : BitVec 2) : Nat :=
  m + e.toNat * 16777216

/-- The fields e [25:24], d [14:10], c [9:5] over the fixed bits m. -/
def placeEDC (m : Nat) (e : BitVec 2) (d : BitVec 5) (c : BitVec 5) : Nat :=
  m + e.toNat * 16777216 + d.toNat * 1024 + c.toNat * 32

/-- The fields e [25:24], d [14:10], a [9:5] over the fixed bits m. -/
def placeEDA (m : Nat) (e : BitVec 2) (d : BitVec 5) (a : BitVec 5) : Nat :=
  m + e.toNat * 16777216 + d.toNat * 1024 + a.toNat * 32

/-- The fields e [25:24], a [9:5], k [4:0] over the fixed bits m. -/
def placeEAK (m : Nat) (e : BitVec 2) (a : BitVec 5) (k : BitVec 5) : Nat :=
  m + e.toNat * 16777216 + a.toNat * 32 + k.toNat

/-- The fields e [25:24], d [14:10], k [4:0] over the fixed bits m. -/
def placeEDK (m : Nat) (e : BitVec 2) (d : BitVec 5) (k : BitVec 5) : Nat :=
  m + e.toNat * 16777216 + d.toNat * 1024 + k.toNat

/-- The fields e [25:24], d [14:10] over the fixed bits m. -/
def placeED (m : Nat) (e : BitVec 2) (d : BitVec 5) : Nat :=
  m + e.toNat * 16777216 + d.toNat * 1024

/-- The fields a [20:16], s [10:10], bd [8:6], bs [5:3] over the fixed bits m. -/
def placeASBdBs (m : Nat) (a : BitVec 5) (s : BitVec 1) (bd : BitVec 3) (bs : BitVec 3) : Nat :=
  m + a.toNat * 65536 + s.toNat * 1024 + bd.toNat * 64 + bs.toNat * 8

/-- The fields r [25:21], a [20:16], s [10:10], bd [8:6], bs [5:3] over the fixed bits m. -/
def placeRASBdBs (m : Nat) (r : BitVec 5) (a : BitVec 5) (s : BitVec 1) (bd : BitVec 3) (bs : BitVec 3) : Nat :=
  m + r.toNat * 2097152 + a.toNat * 65536 + s.toNat * 1024 + bd.toNat * 64 + bs.toNat * 8

/-- The fields a [20:16], s [10:10] over the fixed bits m. -/
def placeAS (m : Nat) (a : BitVec 5) (s : BitVec 1) : Nat :=
  m + a.toNat * 65536 + s.toNat * 1024

/-- The fields d [25:21] over the fixed bits m. -/
def placeD (m : Nat) (d : BitVec 5) : Nat :=
  m + d.toNat * 2097152

/-- The fields n [15:11] over the fixed bits m. -/
def placeN (m : Nat) (n : BitVec 5) : Nat :=
  m + n.toNat * 2048

/-- The fields a [19:14], r [13:9] over the fixed bits m. -/
def placeAR9 (m : Nat) (a : BitVec 6) (r : BitVec 5) : Nat :=
  m + a.toNat * 16384 + r.toNat * 512

/-- The fields v [25:20], r [13:9] over the fixed bits m. -/
def placeVR (m : Nat) (v : BitVec 6) (r : BitVec 5) : Nat :=
  m + v.toNat * 1048576 + r.toNat * 512

/-- The fields r [13:9] over the fixed bits m. -/
def placeR (m : Nat) (r : BitVec 5) : Nat :=
  m + r.toNat * 512

/-- The fields a [20:16], v [15:11], s [10:10] over the fixed bits m. -/
def placeAVS (m : Nat) (a : BitVec 5) (v : BitVec 5) (s : BitVec 1) : Nat :=
  m + a.toNat * 65536 + v.toNat * 2048 + s.toNat * 1024

/-- The fields d [25:21], a [20:16], v [15:11], s [10:10] over the fixed bits m. -/
def placeDAVS (m : Nat) (d : BitVec 5) (a : BitVec 5) (v : BitVec 5) (s : BitVec 1) : Nat :=
  m + d.toNat * 2097152 + a.toNat * 65536 + v.toNat * 2048 + s.toNat * 1024

/-- The fields v [25:21], a [20:16] over the fixed bits m. -/
def placeVA (m : Nat) (v : BitVec 5) (a : BitVec 5) : Nat :=
  m + v.toNat * 2097152 + a.toNat * 65536

/-- The fields a [20:16], b [15:11], s [10:10], t [9:9] over the fixed bits m. -/
def placeABST (m : Nat) (a : BitVec 5) (b : BitVec 5) (s : BitVec 1) (t : BitVec 1) : Nat :=
  m + a.toNat * 65536 + b.toNat * 2048 + s.toNat * 1024 + t.toNat * 512

/-- The fields a [20:16], b [15:11], s [10:10], t [9:9], c [8:6], o [5:4] over the fixed bits m. -/
def placeABSTCO (m : Nat) (a : BitVec 5) (b : BitVec 5) (s : BitVec 1) (t : BitVec 1) (c : BitVec 3) (o : BitVec 2) : Nat :=
  m + a.toNat * 65536 + b.toNat * 2048 + s.toNat * 1024 + t.toNat * 512 + c.toNat * 64 + o.toNat * 16

/-- The fields d [25:21], a [20:16], b [15:11], s [10:10], t [9:9], c [8:6] over the fixed bits m. -/
def placeDABSTC (m : Nat) (d : BitVec 5) (a : BitVec 5) (b : BitVec 5) (s : BitVec 1) (t : BitVec 1) (c : BitVec 3) : Nat :=
  m + d.toNat * 2097152 + a.toNat * 65536 + b.toNat * 2048 + s.toNat * 1024 + t.toNat * 512 + c.toNat * 64

/-- The fields n [15:4] over the fixed bits m. -/
def placeN4 (m : Nat) (n : BitVec 12) : Nat :=
  m + n.toNat * 16

/-- The fields d [25:21], n [15:4] over the fixed bits m. -/
def placeDN (m : Nat) (d : BitVec 5) (n : BitVec 12) : Nat :=
  m + d.toNat * 2097152 + n.toNat * 16

/-- The fields a [20:16], n [15:4] over the fixed bits m. -/
def placeAN (m : Nat) (a : BitVec 5) (n : BitVec 12) : Nat :=
  m + a.toNat * 65536 + n.toNat * 16

/-- The fields d [25:21], a [20:16], n [15:4] over the fixed bits m. -/
def placeDAN (m : Nat) (d : BitVec 5) (a : BitVec 5) (n : BitVec 12) : Nat :=
  m + d.toNat * 2097152 + a.toNat * 65536 + n.toNat * 16

/-- The fields a [20:16], g [15:13] over the fixed bits m. -/
def placeAG (m : Nat) (a : BitVec 5) (g : BitVec 3) : Nat :=
  m + a.toNat * 65536 + g.toNat * 8192

/-- The fields a [20:16] over the fixed bits m. -/
def placeA (m : Nat) (a : BitVec 5) : Nat :=
  m + a.toNat * 65536

/-- The fields i [25:21], a [20:16], v [15:11] over the fixed bits m. -/
def placeIAV (m : Nat) (i : BitVec 5) (a : BitVec 5) (v : BitVec 5) : Nat :=
  m + i.toNat * 2097152 + a.toNat * 65536 + v.toNat * 2048

/-- The word of an instruction as a number, its fixed bits and each field at its place. An event has no word;
ILLEGAL_INSTR carries its own. -/
def encodeNat (i : Instr) : Nat :=
  match i with
  | .illegalInstr w => w.toNat
  | .nop h => placeH 4160749568 h
  | .add d a b s t => placeDABST 67108864 d a b s t
  | .sub d a b s t => placeDABST 67108865 d a b s t
  | .and d a b s t => placeDABST 67108866 d a b s t
  | .or d a b s t => placeDABST 67108867 d a b s t
  | .xor d a b s t => placeDABST 67108868 d a b s t
  | .andn d a b s t => placeDABST 67108869 d a b s t
  | .sll d a b s t => placeDABST 67108872 d a b s t
  | .srl d a b s t => placeDABST 67108873 d a b s t
  | .sra d a b s t => placeDABST 67108874 d a b s t
  | .ror d a b s t => placeDABST 67108875 d a b s t
  | .slli d a n s => placeDANS 67108876 d a n s
  | .srli d a n s => placeDANS 67108877 d a n s
  | .srai d a n s => placeDANS 67108878 d a n s
  | .mul d a b s t => placeDABST 67108880 d a b s t
  | .mulh d a b s t => placeDABST 67108881 d a b s t
  | .mulhu d a b s t => placeDABST 67108882 d a b s t
  | .div d a b s t => placeDABST 67108884 d a b s t
  | .divu d a b s t => placeDABST 67108885 d a b s t
  | .rem d a b s t => placeDABST 67108886 d a b s t
  | .remu d a b s t => placeDABST 67108887 d a b s t
  | .min d a b s t => placeDABST 67108888 d a b s t
  | .max d a b s t => placeDABST 67108889 d a b s t
  | .minu d a b s t => placeDABST 67108890 d a b s t
  | .maxu d a b s t => placeDABST 67108891 d a b s t
  | .slt d a b s t => placeDABST 67108892 d a b s t
  | .sltu d a b s t => placeDABST 67108893 d a b s t
  | .seq d a b s t => placeDABST 67108894 d a b s t
  | .cmov d a b s t => placeDABST 67108895 d a b s t
  | .clz d a s => placeDAS 67108896 d a s
  | .ctz d a s => placeDAS 67108897 d a s
  | .popc d a s => placeDAS 67108898 d a s
  | .brev d a s => placeDAS 67108899 d a s
  | .bswap d a s => placeDAS 67108900 d a s
  | .extu d a b s t => placeDABST 67108904 d a b s t
  | .exts d a b s t => placeDABST 67108905 d a b s t
  | .ins d a b s t => placeDABST 67108906 d a b s t
  | .addi d a s i => placeDASI 134217728 d a s i
  | .andi d a s i => placeDASI 201326592 d a s i
  | .ori d a s i => placeDASI 268435456 d a s i
  | .xori d a s i => placeDASI 335544320 d a s i
  | .slti d a s i => placeDASI 402653184 d a s i
  | .sltiu d a s i => placeDASI 469762048 d a s i
  | .lih d i => placeDI 536870912 d i
  | .addpc d i => placeDI 603979776 d i
  | .addc d a c w => placeDACW 671088640 d a c w
  | .subc d a c w => placeDACW 738197504 d a c w
  | .andc d a c w => placeDACW 805306368 d a c w
  | .orc d a c w => placeDACW 872415232 d a c w
  | .xorc d a c w => placeDACW 939524096 d a c w
  | .mulc d a c w => placeDACW 1006632960 d a c w
  | .minc d a c w => placeDACW 1073741824 d a c w
  | .maxc d a c w => placeDACW 1140850688 d a c w
  | .sltc d a c w => placeDACW 1207959552 d a c w
  | .bset d a b s t => placeDABST9 1275068416 d a b s t
  | .bgetLo d a s => placeDAS10 1275068417 d a s
  | .bgetHi d a s => placeDAS10 1275068418 d a s
  | .badd d a b s t => placeDABST9x 1275068419 d a b s t
  | .bmov d a s => placeDAS10x 1275068420 d a s
  | .baddi d a s i => placeDASI0 1342177280 d a s i
  | .blea d i => placeDI0 1409286144 d i
  | .ldb d x g s i => placeDXGSI 1476395008 d x g s i
  | .stb d x g s i => placeDXGSI 1543503872 d x g s i
  | .beq a b i => placeABI 1610612736 a b i
  | .bne a b i => placeABI 1610620928 a b i
  | .blt a b i => placeABI 1610629120 a b i
  | .bge a b i => placeABI 1610637312 a b i
  | .bltu a b i => placeABI 1610645504 a b i
  | .bgeu a b i => placeABI 1610653696 a b i
  | .bbs a n i => placeANI 1610661888 a n i
  | .bbc a n i => placeANI 1610670080 a n i
  | .loop a i => placeAI 1677721600 a i
  | .j i => placeI 1744830464 i
  | .call i => placeI 1811939328 i
  | .callb b t => placeBT 1879048192 b t
  | .jb b t => placeBT 1879048193 b t
  | .ret => 1879048194
  | .callat d a b s t => placeDABST9xx 1879048195 d a b s t
  | .windowSpill _ => 0
  | .windowFill _ => 0
  | .fadd d a b s t => placeDABST 2952790016 d a b s t
  | .fsub d a b s t => placeDABST 2952790017 d a b s t
  | .fmul d a b s t => placeDABST 2952790018 d a b s t
  | .fma d a b s t => placeDABST 2952790019 d a b s t
  | .fdiv d a b s t => placeDABST 2952790020 d a b s t
  | .fsqrt d a s => placeDAS 2952790021 d a s
  | .fmin d a b s t => placeDABST 2952790022 d a b s t
  | .fmax d a b s t => placeDABST 2952790023 d a b s t
  | .feq d a b s t => placeDABST 2952790024 d a b s t
  | .flt d a b s t => placeDABST 2952790025 d a b s t
  | .fle d a b s t => placeDABST 2952790026 d a b s t
  | .fclass d a s => placeDAS 2952790027 d a s
  | .fcvti d a s q r => placeDASQR 2952790028 d a s q r
  | .fcvtf d a s r => placeDASR 2952790029 d a s r
  | .lb d x g s i => placeDXGSI0 1946157056 d x g s i
  | .lbu d x g s i => placeDXGSI0 2013265920 d x g s i
  | .lh d x g s i => placeDXGSI0 2080374784 d x g s i
  | .lhu d x g s i => placeDXGSI0 2147483648 d x g s i
  | .lw d x g s i => placeDXGSI0 2214592512 d x g s i
  | .ldp d x g s i => placeDXGSI0 2281701376 d x g s i
  | .sb d x g s i => placeDXGSI0 2348810240 d x g s i
  | .sh d x g s i => placeDXGSI0 2415919104 d x g s i
  | .sw d x g s i => placeDXGSI0 2483027968 d x g s i
  | .stp d x g s i => placeDXGSI0 2550136832 d x g s i
  | .lda d x g s c r z f => placeDXGSCRZF 2617245696 d x g s c r z f
  | .stl d x g s c r z f => placeDXGSCRZF 2617247744 d x g s c r z f
  | .amoadd d x g s c r p => placeDXGSCRP 2684354560 d x g s c r p
  | .amoand d x g s c r p => placeDXGSCRP 2684354816 d x g s c r p
  | .amoor d x g s c r p => placeDXGSCRP 2684355072 d x g s c r p
  | .amoxor d x g s c r p => placeDXGSCRP 2684355328 d x g s c r p
  | .amomin d x g s c r p => placeDXGSCRP 2684355584 d x g s c r p
  | .amomax d x g s c r p => placeDXGSCRP 2684355840 d x g s c r p
  | .amominu d x g s c r p => placeDXGSCRP 2684356096 d x g s c r p
  | .amomaxu d x g s c r p => placeDXGSCRP 2684356352 d x g s c r p
  | .amoswap d x g s c r p => placeDXGSCRP 2684356608 d x g s c r p
  | .amocas d x g s c r p => placeDXGSCRP 2684356864 d x g s c r p
  | .amofadd d x g s c r => placeDXGSCR 2684357120 d x g s c r
  | .cswap d x g s c r => placeDXGSCR 2684357376 d x g s c r
  | .redadd d x g s c r p => placeDXGSCRP 2684354562 d x g s c r p
  | .redand d x g s c r p => placeDXGSCRP 2684354818 d x g s c r p
  | .redor d x g s c r p => placeDXGSCRP 2684355074 d x g s c r p
  | .redxor d x g s c r p => placeDXGSCRP 2684355330 d x g s c r p
  | .redmin d x g s c r p => placeDXGSCRP 2684355586 d x g s c r p
  | .redmax d x g s c r p => placeDXGSCRP 2684355842 d x g s c r p
  | .redfadd d x g s c r => placeDXGSCR 2684357122 d x g s c r
  | .ldfe d x g s c r f => placeDXGSCRF 2751463424 d x g s c r f
  | .stfe d x g s c r f => placeDXGSCRF 2751463936 d x g s c r f
  | .ldff d x g s c r f => placeDXGSCRF 2751464448 d x g s c r f
  | .stff d x g s c r f => placeDXGSCRF 2751464960 d x g s c r f
  | .feget d x g s c r f => placeDXGSCRF 2751465472 d x g s c r f
  | .feRetry _ => 0
  | .feWake _ _ => 0
  | .lrw d x g s c r f => placeDXGSCRF 2818572288 d x g s c r f
  | .sch d x g s c r f => placeDXGSCRF 2818572800 d x g s c r f
  | .rsvx x g s c r f => placeXGSCRF 2818573312 x g s c r f
  | .reservationExpiry _ => 0
  | .waita d x g s c r f => placeDXGSCRF 2818573824 d x g s c r f
  | .wakea d x g s c r f => placeDXGSCRF 2818574336 d x g s c r f
  | .waitaDeadline _ => 0
  | .waitaPoll _ => 0
  | .cflush x g s i => placeXGSI 2885681152 x g s i
  | .cinvl x g s i => placeXGSI 2885682176 x g s i
  | .cpref x g s i => placeXGSI 2885683200 x g s i
  | .czero x g s i => placeXGSI 2885684224 x g s i
  | .fence k c => placeKC 4093640704 k c
  | .sdrain => 4093640705
  | .pclr c i => placeCI 4093640708 c i
  | .pset c i => placeCI 4093640709 c i
  | .ptest d c i => placeDCI 4093640710 d c i
  | .pwait c i => placeCI 4093640711 c i
  | .producerArrival _ _ => 0
  | .storeDrain _ => 0
  | .vaddI8 v a b q => placeVABQ 3019898880 v a b q
  | .vaddI16 v a b q => placeVABQ 3087007744 v a b q
  | .vaddI32 v a b q => placeVABQ 3154116608 v a b q
  | .vsubI8 v a b q => placeVABQ 3019898881 v a b q
  | .vsubI16 v a b q => placeVABQ 3087007745 v a b q
  | .vsubI32 v a b q => placeVABQ 3154116609 v a b q
  | .vmulI8 v a b q => placeVABQ 3019898882 v a b q
  | .vmulI16 v a b q => placeVABQ 3087007746 v a b q
  | .vmulI32 v a b q => placeVABQ 3154116610 v a b q
  | .vminI8 v a b q => placeVABQ 3019898883 v a b q
  | .vminI16 v a b q => placeVABQ 3087007747 v a b q
  | .vminI32 v a b q => placeVABQ 3154116611 v a b q
  | .vmaxI8 v a b q => placeVABQ 3019898884 v a b q
  | .vmaxI16 v a b q => placeVABQ 3087007748 v a b q
  | .vmaxI32 v a b q => placeVABQ 3154116612 v a b q
  | .vandI8 v a b q => placeVABQ 3019898885 v a b q
  | .vandI16 v a b q => placeVABQ 3087007749 v a b q
  | .vandI32 v a b q => placeVABQ 3154116613 v a b q
  | .vorI8 v a b q => placeVABQ 3019898886 v a b q
  | .vorI16 v a b q => placeVABQ 3087007750 v a b q
  | .vorI32 v a b q => placeVABQ 3154116614 v a b q
  | .vxorI8 v a b q => placeVABQ 3019898887 v a b q
  | .vxorI16 v a b q => placeVABQ 3087007751 v a b q
  | .vxorI32 v a b q => placeVABQ 3154116615 v a b q
  | .vsllI8 v a b q => placeVABQ 3019898888 v a b q
  | .vsllI16 v a b q => placeVABQ 3087007752 v a b q
  | .vsllI32 v a b q => placeVABQ 3154116616 v a b q
  | .vsrlI8 v a b q => placeVABQ 3019898889 v a b q
  | .vsrlI16 v a b q => placeVABQ 3087007753 v a b q
  | .vsrlI32 v a b q => placeVABQ 3154116617 v a b q
  | .vsraI8 v a b q => placeVABQ 3019898890 v a b q
  | .vsraI16 v a b q => placeVABQ 3087007754 v a b q
  | .vsraI32 v a b q => placeVABQ 3154116618 v a b q
  | .vabsI8 v a q => placeVAQ 3019898891 v a q
  | .vabsI16 v a q => placeVAQ 3087007755 v a q
  | .vabsI32 v a q => placeVAQ 3154116619 v a q
  | .vnegI8 v a q => placeVAQ 3019898892 v a q
  | .vnegI16 v a q => placeVAQ 3087007756 v a q
  | .vnegI32 v a q => placeVAQ 3154116620 v a q
  | .vsatI8 v a n q => placeVANQ 3019898893 v a n q
  | .vsatI16 v a n q => placeVANQ 3087007757 v a n q
  | .vsatI32 v a n q => placeVANQ 3154116621 v a n q
  | .vmovI8 v a q => placeVAQ 3019898894 v a q
  | .vmovI16 v a q => placeVAQ 3087007758 v a q
  | .vmovI32 v a q => placeVAQ 3154116622 v a q
  | .vpermI8 v a b q => placeVABQ 3019898895 v a b q
  | .vpermI16 v a b q => placeVABQ 3087007759 v a b q
  | .vpermI32 v a b q => placeVABQ 3154116623 v a b q
  | .vcmpEqI8 p a b q => placePABQ 3019898896 p a b q
  | .vcmpEqI16 p a b q => placePABQ 3087007760 p a b q
  | .vcmpEqI32 p a b q => placePABQ 3154116624 p a b q
  | .vcmpNeI8 p a b q => placePABQ 3019898897 p a b q
  | .vcmpNeI16 p a b q => placePABQ 3087007761 p a b q
  | .vcmpNeI32 p a b q => placePABQ 3154116625 p a b q
  | .vcmpLtI8 p a b q => placePABQ 3019898898 p a b q
  | .vcmpLtI16 p a b q => placePABQ 3087007762 p a b q
  | .vcmpLtI32 p a b q => placePABQ 3154116626 p a b q
  | .vcmpLeI8 p a b q => placePABQ 3019898899 p a b q
  | .vcmpLeI16 p a b q => placePABQ 3087007763 p a b q
  | .vcmpLeI32 p a b q => placePABQ 3154116627 p a b q
  | .vcmpLtuI8 p a b q => placePABQ 3019898900 p a b q
  | .vcmpLtuI16 p a b q => placePABQ 3087007764 p a b q
  | .vcmpLtuI32 p a b q => placePABQ 3154116628 p a b q
  | .vcmpLeuI8 p a b q => placePABQ 3019898901 p a b q
  | .vcmpLeuI16 p a b q => placePABQ 3087007765 p a b q
  | .vcmpLeuI32 p a b q => placePABQ 3154116629 p a b q
  | .vraddI8 v a q => placeVAQ 3019898904 v a q
  | .vraddI16 v a q => placeVAQ 3087007768 v a q
  | .vraddI32 v a q => placeVAQ 3154116632 v a q
  | .vrmaxI8 v a q => placeVAQ 3019898905 v a q
  | .vrmaxI16 v a q => placeVAQ 3087007769 v a q
  | .vrmaxI32 v a q => placeVAQ 3154116633 v a q
  | .vrminI8 v a q => placeVAQ 3019898906 v a q
  | .vrminI16 v a q => placeVAQ 3087007770 v a q
  | .vrminI32 v a q => placeVAQ 3154116634 v a q
  | .vfaddF16 v a b q => placeVABQ 3221225472 v a b q
  | .vfaddBf16 v a b q => placeVABQ 3288334336 v a b q
  | .vfaddF32 v a b q => placeVABQ 3355443200 v a b q
  | .vfsubF16 v a b q => placeVABQ 3221225473 v a b q
  | .vfsubBf16 v a b q => placeVABQ 3288334337 v a b q
  | .vfsubF32 v a b q => placeVABQ 3355443201 v a b q
  | .vfmulF16 v a b q => placeVABQ 3221225474 v a b q
  | .vfmulBf16 v a b q => placeVABQ 3288334338 v a b q
  | .vfmulF32 v a b q => placeVABQ 3355443202 v a b q
  | .vfmaF16 v a b q => placeVABQ 3221225475 v a b q
  | .vfmaBf16 v a b q => placeVABQ 3288334339 v a b q
  | .vfmaF32 v a b q => placeVABQ 3355443203 v a b q
  | .vfminF16 v a b q => placeVABQ 3221225476 v a b q
  | .vfminBf16 v a b q => placeVABQ 3288334340 v a b q
  | .vfminF32 v a b q => placeVABQ 3355443204 v a b q
  | .vfmaxF16 v a b q => placeVABQ 3221225477 v a b q
  | .vfmaxBf16 v a b q => placeVABQ 3288334341 v a b q
  | .vfmaxF32 v a b q => placeVABQ 3355443205 v a b q
  | .vfdivF16 v a b q => placeVABQ 3221225478 v a b q
  | .vfdivBf16 v a b q => placeVABQ 3288334342 v a b q
  | .vfdivF32 v a b q => placeVABQ 3355443206 v a b q
  | .vfsqrtF16 v a q => placeVAQ 3221225479 v a q
  | .vfsqrtBf16 v a q => placeVAQ 3288334343 v a q
  | .vfsqrtF32 v a q => placeVAQ 3355443207 v a q
  | .vcmpEqF16 p a b q => placePABQ 3221225488 p a b q
  | .vcmpEqBf16 p a b q => placePABQ 3288334352 p a b q
  | .vcmpEqF32 p a b q => placePABQ 3355443216 p a b q
  | .vcmpNeF16 p a b q => placePABQ 3221225489 p a b q
  | .vcmpNeBf16 p a b q => placePABQ 3288334353 p a b q
  | .vcmpNeF32 p a b q => placePABQ 3355443217 p a b q
  | .vcmpLtF16 p a b q => placePABQ 3221225490 p a b q
  | .vcmpLtBf16 p a b q => placePABQ 3288334354 p a b q
  | .vcmpLtF32 p a b q => placePABQ 3355443218 p a b q
  | .vcmpLeF16 p a b q => placePABQ 3221225491 p a b q
  | .vcmpLeBf16 p a b q => placePABQ 3288334355 p a b q
  | .vcmpLeF32 p a b q => placePABQ 3355443219 p a b q
  | .vcmpUnF16 p a b q => placePABQ 3221225494 p a b q
  | .vcmpUnBf16 p a b q => placePABQ 3288334358 p a b q
  | .vcmpUnF32 p a b q => placePABQ 3355443222 p a b q
  | .vrfaddF16 v a q => placeVAQ 3221225496 v a q
  | .vrfaddBf16 v a q => placeVAQ 3288334360 v a q
  | .vrfaddF32 v a q => placeVAQ 3355443224 v a q
  | .vbcastI8 v r q => placeVRQ 3422552064 v r q
  | .vbcastI16 v r q => placeVRQ 3422552065 v r q
  | .vbcastI32 v r q => placeVRQ 3422552066 v r q
  | .vextI8 n a r => placeNAR 3422552068 n a r
  | .vextI16 n a r => placeNAR 3422552069 n a r
  | .vextI32 n a r => placeNAR 3422552070 n a r
  | .vinsI8 v n r => placeVNR 3422552072 v n r
  | .vinsI16 v n r => placeVNR 3422552073 v n r
  | .vinsI32 v n r => placeVNR 3422552074 v n r
  | .qand d a b => placeDAB 3422552080 d a b
  | .qor d a b => placeDAB 3422552081 d a b
  | .qxor d a b => placeDAB 3422552082 d a b
  | .qnot d a => placeDA 3422552083 d a
  | .qpop a r => placeAR 3422552084 a r
  | .qfirst a r => placeAR 3422552085 a r
  | .vcvt v a r q dt st => placeVARQDtSt 3489660928 v a r q dt st
  | .vpack v a r q dt st => placeVARQDtSt 3489665024 v a r q dt st
  | .vunpk v a r q dt st => placeVARQDtSt 3489669120 v a r q dt st
  | .vld v g x q i => placeVGXQI 3556769792 v g x q i
  | .vst v g x q i => placeVGXQI 3556769856 v g x q i
  | .vlds v g x q i => placeVGXQI 3556769920 v g x q i
  | .vsts v g x q i => placeVGXQI 3556769984 v g x q i
  | .vgath v g x q i => placeVGXQI 3556770048 v g x q i
  | .vscat v g x q i => placeVGXQI 3556770112 v g x q i
  | .vldb v g x q i => placeVGXQI 3556770176 v g x q i
  | .vstb v g x q i => placeVGXQI 3556770240 v g x q i
  | .lease e a b => placeEAB 3623878656 e a b
  | .lrenew e a => placeEA 3623911424 e a
  | .lfree e => placeE 3623944192 e
  | .lstat e d c => placeEDC 3623976960 e d c
  | .lwait e d a => placeEDA 3624009728 e d a
  | .lwaitTimeout _ _ => 0
  | .ecfg e a k => placeEAK 3624402944 e a k
  | .allReduce _ _ => 0
  | .eget e d k => placeEDK 3624435712 e d k
  | .ewait e d => placeED 3624468480 e d
  | .mlds e a => placeEA 3690987520 e a
  | .mswap e => placeE 3691020288 e
  | .mstream e a => placeEA 3691053056 e a
  | .mtile e => placeE 3691085824 e
  | .mrot e => placeE 3691118592 e
  | .mdrain e a b => placeEAB 3691151360 e a b
  | .mzero e a => placeEA 3691184128 e a
  | .mresume e => placeE 3691216896 e
  | .rlds e a => placeEA 3693084672 e a
  | .rtile e a => placeEA 3693117440 e a
  | .rconv e => placeE 3693150208 e
  | .gconv e => placeE 3695181824 e
  | .ggath e => placeE 3695214592 e
  | .gcopy e => placeE 3695247360 e
  | .hdigest e => placeE 3697278976 e
  | .hingest e => placeE 3697311744 e
  | .leaseGrant _ => 0
  | .engineWakeDone _ => 0
  | .leaseTermExpiry _ _ => 0
  | .forcedEviction _ => 0
  | .engineStep _ => 0
  | .enginePowerOff _ => 0
  | .copy a s bd bs => placeASBdBs 3758096384 a s bd bs
  | .copyNb r a s bd bs => placeRASBdBs 3758096385 r a s bd bs
  | .tcopy a s => placeAS 3758096386 a s
  | .cseal d => placeD 3758096387 d
  | .cwait n => placeN 3758096388 n
  | .cpoll d a s => placeDAS 3758096389 d a s
  | .copyDispatch _ => 0
  | .copyRequestEnd _ _ => 0
  | .batchFinish _ => 0
  | .clkl a r => placeAR9 3825205248 a r
  | .clkn a r => placeAR9 3825205249 a r
  | .cnld v r => placeVR 3825205250 v r
  | .cref r => placeR 3825205251 r
  | .crel r => placeR 3825205252 r
  | .cstat r => placeR 3825205253 r
  | .reclaimStep => 0
  | .send a v s => placeAVS 3892314112 a v s
  | .sendRetry _ => 0
  | .sendnb d a v s => placeDAVS 3892314113 d a v s
  | .recv v a => placeVA 3892314114 v a
  | .recvp v a => placeVA 3892314115 v a
  | .messageArrival _ => 0
  | .reply a s => placeAS 3892314116 a s
  | .wakest a b s t => placeABST 3892314120 a b s t
  | .texit => 3892314121
  | .callatArrival _ => 0
  | .taskQueueStart _ => 0
  | .arrive a b s t c o => placeABSTCO 3959422976 a b s t c o
  | .expect a b s t => placeABST 3959422977 a b s t
  | .bwait d a b s t c => placeDABSTC 3959422978 d a b s t c
  | .btest d a s => placeDAS 3959422979 d a s
  | .deferredArrival _ => 0
  | .barrierCycle _ _ => 0
  | .svc n => placeN4 4026531840 n
  | .mcall n => placeN4 4026531841 n
  | .xret => 4026531842
  | .upret => 4026531843
  | .plret => 4026531844
  | .sysrd d n => placeDN 4026531845 d n
  | .syswr a n => placeAN 4026531846 a n
  | .sysset d a n => placeDAN 4026531847 d a n
  | .sysclr d a n => placeDAN 4026531848 d a n
  | .halt => 4026531849
  | .tlbinvPg a g => placeAG 4026531850 a g
  | .tlbinvAs a => placeA 4026533898 a
  | .tlbinvAll => 4026535946
  | .rput i a v => placeIAV 4026531851 i a v
  | .brk n => placeN4 4026531855 n
  | .storeFaultDelivery _ => 0
  | .postedCauseDelivery _ => 0
  | .pluckDelivery _ => 0
  | .machineCheck _ _ _ => 0
  | .uncorrectableError _ => 0
  | .translationFill _ _ _ => 0
  | .prgResponse _ _ _ => 0
  | .atsInvalidation _ _ _ => 0
  | .clockAgeing => 0
  | .clusterLineEviction _ _ => 0
  | .partialEviction _ _ => 0
  | .bridgeEviction _ => 0
  | .hostSnoop _ _ => 0
  | .hostRead _ _ => 0
  | .hostWrite _ _ => 0
  | .hostWake _ _ => 0
  | .enqueue _ _ => 0
  | .dependencyCheck _ => 0
  | .placementPass => 0
  | .budgetSample => 0
  | .periodStart => 0
  | .stageStart _ _ _ => 0
  | .mdrainWakeup _ => 0
  | .blockCompletion _ _ => 0
  | .launchCompletion _ => 0
  | .preemptSave _ => 0
  | .preemptRestore _ => 0
  | .blockEnd _ => 0
  | .slotResume _ _ => 0
  | .viQcfgWrite _ _ => 0
  | .savebaseWrite _ _ => 0
  | .carInit _ _ => 0
  | .carDirectoryClearDone _ => 0
  | .carStoreEnable _ _ => 0
  | .carStoreDisable _ _ => 0
  | .carDisableDone _ => 0
  | .crangeEnable _ _ => 0
  | .crangeDisable _ _ => 0
  | .crangeDisableDone _ => 0
  | .stashMap _ _ _ => 0
  | .stashUnmap _ _ _ => 0
  | .stashUnmapDone _ _ => 0
  | .ccfgWrite _ _ => 0
  | .barrierInit _ _ _ => 0
  | .coPwrWrite _ _ => 0
  | .effChange _ => 0
  | .railRise _ => 0
  | .coreSwitchReady _ => 0
  | .slotRemoval _ => 0
  | .slotReturn _ => 0
  | .firmwareHeartbeat _ => 0
  | .heartbeatMissed => 0
  | .firmwareImageSwitch => 0
  | .thermalTrip _ => 0
  | .thermalRecovery _ => 0
  | .profileSelect _ => 0
  | .laneShed _ _ => 0
  | .portDown _ => 0
  | .portUp _ _ => 0
  | .lockInterfaceRequest => 0
  | .startInterfaceRequest _ => 0
  | .stopInterfaceRequest => 0
  | .lockedSetWrite _ _ => 0
  | .getDeviceInterfaceReport => 0
  | .getCertificate _ => 0
  | .scrubGo _ => 0
  | .pageRetire _ => 0
  | .scrubSweepEnd => 0
  | .powerOnReset => 0
  | .registerWrite _ _ _ => 0
  | .peerAccessArrival _ => 0
  | .wakestWakeupArrival _ => 0
  | .preemptSaveDone _ => 0
  | .preemptRestoreDone _ => 0

/-- The word of an instruction (R166 to R182). -/
def encode (i : Instr) : Word := BitVec.ofNat 32 (encodeNat i)

end Sys2Proof
end

