-- ==== Sys2Proof/Config.lean ====
section
/-!
DEFINITION. Sys2Proof/Config.lean: the figures of the Glatar 40 (R1, R2, R4) and the free values, the values which the
spec leaves open. A free value has no body here, so no proof can see what it is; each is named in notes/assumptions.
-/

namespace Sys2Proof.Config

/-- Cores of the module (R2). -/
def cores : Nat := 512

/-- Thread slots of a core (R2). -/
def slots : Nat := 8

/-- Hardware threads (R2). -/
def threads : Nat := 4096

/-- Clusters of the module (R2). -/
def clusters : Nat := 32

/-- Entries of a core's store buffer (R223). -/
def storeBufferEntries : Nat := 32

/-- Words a neighbour port's inbound FIFO holds (R107). -/
def portWords : Nat := 8

/-- FREE VALUE (log entry 9): the contents of a fresh frame's registers (R97). Argument: the state's free-value counter. -/
opaque freshRegister : Nat → BitVec 32

/-- FREE VALUE (log entry 24): the elements of the shadow plane after MTILE (R275), as FP64 codes. Argument: the state's
free-value counter plus the element's number. -/
opaque shadowElem : Nat → BitVec 64

/-- FREE VALUE (log entry 26): whether a byte beyond DONE of a failed copy request is written (R91). -/
opaque tailWritten : Nat → Bool

/-- FREE VALUE (log entry 24): whether a source element that an earlier destination line of GCONV overlaps is read before the
overwriting (R284). Arguments: the operation's number and the element's. -/
opaque overlapOld : Nat → Nat → Bool

/-- FREE VALUE (log entry 24): the amount ε of a drain with sticky bits (R144): (n, k) stands for the fraction
(n mod (2^(k+1) − 1) + 1) / 2^(k+1) of one unit. Arguments: W, E and the count of terms, so that the same program on the same data
drains the same (R143). -/
opaque stickyPart : Int → Int → Nat → Nat × Nat

/-- FREE VALUE (log entry 48): the bytes of a new nonce (R406). Argument: the state's free-value counter. -/
opaque nonceByte : Nat → BitVec 8

/-- FREE VALUE (log entry 50): the bytes of the hashes of the bridge firmware and of the two controller images, and of the device
public key (R409). -/
opaque firmwareHash : Nat → BitVec 8
opaque controllerHash : Nat → Nat → BitVec 8
opaque publicKey : Nat → BitVec 8

/-- FREE VALUE (log entry 5): the bytes of the monitor image, which the manual does not give (R94, R431). -/
opaque monitorByte : Nat → BitVec 8

/-- FREE VALUE (log entry 50): the hash of the locked set's values, whose form as bytes the manual does not give (R409). -/
opaque lockedHash : List (Nat × BitVec 64) → Nat → BitVec 8

/-- FREE VALUE (log entry 50): the ML-DSA-44 signature of a message under the device key (R409, R430), byte by byte. -/
opaque signature : List (BitVec 8) → Nat → BitVec 8

/-- FREE VALUE (log entry 49): how many lines a sweep has corrected (R430). -/
opaque linesCorrected : Nat → BitVec 64

/-- FREE VALUE (log entry 41): what the controller lowers MD_EBUDGET.LIMIT to when slot removal does not suffice (R398). -/
opaque loweredLimit : Nat → Nat

/-- FREE VALUE (log entry 83): the pitch counter of the other module. Argument: this module's. -/
opaque peerPitch : Nat → Nat

/-- FREE VALUE (log entry 42): whether a store that was on its way to the other module when both ports failed has been performed
there (R423). -/
opaque sentPerformed : Nat → Bool

/-- FREE VALUE (log entry 23): the AES-256 keystream of a sealed line (R92). Arguments: the context, the era of its key, the
nonce. -/
opaque keystream : Nat → Nat → Nat → BitVec 512

/-- FREE VALUE (log entry 23): the 48-bit tag of a sealed line (R92). Arguments: those of the keystream and the sealed bytes. -/
opaque sealTag : Nat → Nat → Nat → BitVec 512 → BitVec 48

/-- FREE VALUE (log entry 22): the LINK field of a dying CAR slot, whose form the manual does not give (R31). -/
opaque linkField : Nat → BitVec 64

/-- FREE VALUE (log entry 18): the set an entry of a set-associative TLB belongs to (R14 gives the ways, not the index). -/
opaque tlbSet : Nat → Nat

/-- FREE VALUE (log entry 13): which line a full cache gives up (R57 gives the capacity, not the choice). -/
opaque victim : Nat → Nat

/-- FREE VALUE (log entry 21): TH_TVAL of a trap for which the manual names no value (PERMISSION_FAULT of an instruction that
takes no address, R35). -/
opaque openTval : Nat → BitVec 64

/-- FREE VALUE (log entry 22): whether CNLD of a DYING name is served from a cluster cache that holds the line by name (R54). -/
opaque nameServed : Nat → Bool

/-- FREE VALUE (log entry 36): the bytes of a slot's spill staging after a save or a restore (R94, R371). -/
opaque stagingByte : Nat → BitVec 8

/-- FREE VALUE (log entry 45): the bytes of a bank once it has been a stash (R96). -/
opaque stashByte : Nat → BitVec 8

/-- FREE VALUE (log entry 30): the 16 bytes that hold a saved barrier (R373), whose layout the manual does not give. -/
opaque barrierByte : Nat → BitVec 8

end Sys2Proof.Config
end

