-- ==== Sys2Proof/Machine/State.lean ====
section
/-!
DEFINITION. Sys2Proof/Machine/State.lean: the state of one Glatar 40 module, all of it plain data, with State.reset. The
default value of each field is its value after reset; INVENTORY.md lists the rule and the reset value of each. Tables by
number (registers, threads, cores, lines) are lists of (number, value) pairs; a number that is not listed holds the
reset value of its kind.
-/

namespace Sys2Proof.Machine

/-- A table by number. -/
abbrev AMap (α : Type) := List (Nat × α)

/-- The execution modes (R7, R319). -/
inductive Mode where
  | u
  | s
  | m
deriving DecidableEq, Repr

/-- A register with its presence bit (R102, R104). `busy`: a producer in flight will write it. -/
structure Cell (w : Nat) where
  val : BitVec w := 0
  full : Bool := true
  busy : Bool := false
deriving DecidableEq, Repr

/-- The register a producer writes: a scalar by its place in the window ring (R97), a vector or a base register. -/
inductive RegRef where
  | scalar (place : Nat)
  | vec (n : Nat)
  | base (n : Nat)
deriving DecidableEq, Repr

/-- One register of a producer in flight (R104): the bits it will write and the value, once there is one. -/
structure Landing where
  reg : RegRef
  value : BitVec 256 := 0
  mask : BitVec 256 := BitVec.allOnes 256
deriving DecidableEq, Repr

/-- Where an access is performed (R220). -/
inductive Place where
  | own (pa : Nat)
  | peer (pa : Nat)
  | window (pa : Nat)
  | host (pa : Nat)
  | localStore (core off : Nat)
  | scratch (k off : Nat)
deriving DecidableEq, Repr

/-- A load in flight that may still be performed (R17, R327): its address, its size, where its translation led, the width from
which its value is sign-extended (0: none), and the number of store-buffer entries issued before it. -/
structure Late where
  va : DWord
  n : Nat
  place : Place
  ext : Nat := 0
  after : Nat := 0
deriving DecidableEq, Repr

/-- A producer in flight (R104). `ready` is false while the answer (a CALLAT reply, a SENDNB status) is outstanding.
`tag` names the outstanding answer. `flags` are ORed into TH_FFLAGS at the arrival (R234, R259). -/
structure Producer where
  landings : List Landing
  ready : Bool := true
  tag : Nat := 0
  flags : BitVec 11 := 0
  /-- The clock the answer carries, which the core learns of (R331). -/
  clock : Nat := 0
  /-- An EGET's slot and geometry register, read at the arrival (R272). -/
  geom : Option (Nat × Nat) := none
  /-- A load that may be performed later than at its issue. -/
  late : Option Late := none
deriving DecidableEq, Repr

/-- What a frame keeps beside its registers (R99). Kind: 0 CALL, 1 CALLB, 2 task entry, 3 upcall. -/
structure FrameInfo where
  retPc : DWord := 0
  kind : BitVec 2 := 2
deriving DecidableEq, Repr

/-- The causes of R375. -/
inductive Cause where
  | illegalInstr | privInstr | illegalOperand | breakpoint | svcCall | monitorCall
  | windowOverflow | windowUnderflow | paramUnbound
  | translationFault | permissionFault | subpageFault | misaligned | lsWindowFault | storeFault
  | feHost | crangeConflict | linkFault | memUncorrectable
  | presenceEmpty | sendStall | barrierFault | reservationState
  | leaseEvicted | copyFault | carStaleName | carSetFull | carCollision
  | sealFail | saveStale | machineCheck
deriving DecidableEq, Repr

/-- A posted cause that waits for a boundary (R390). With a restart point it is the refused seal of a drained store, which goes to
the monitor with the store as its restart point (R375). -/
structure Posted where
  cause : Cause
  tval : DWord
  restart : Option DWord := none
deriving DecidableEq, Repr

/-- The reservation of a thread (R237): none, awaiting or holding a line's queue. `queue` numbers the queue's place:
0 for the home, 1 + k for cluster k; `line` is the line's key. -/
inductive Rsv where
  | free
  | awaits (queue : Nat) (line : Nat)
  | holds (queue : Nat) (line : Nat)
  /-- Queued at the other module until the link failed: the LRW of that line traps when it is tried again (R423). -/
  | lost (line : Nat)
deriving DecidableEq, Repr

/-- What a stalled instruction has already done, beyond the checks it repeats (the Waits of R371). A trap, a pluck or
a pre-emption abandons it. -/
inductive Wait where
  | idle
  /-- A full/empty instruction after n failed attempts, waiting out its gap (R229). -/
  | feGap (n : Nat)
  /-- The gap is over: the slot may attempt again. -/
  | feGo (n : Nat)
  /-- Parked at its place (R229). -/
  | feParked (n : Nat)
  /-- Woken by R231: the next attempt is not counted. -/
  | feWoken (n : Nat)
  /-- WAITA registered and asleep (R240). -/
  | waitaAsleep
  /-- WAITA found no registration free and polls (R241). -/
  | waitaPolling
  /-- WAITA ended with this code. -/
  | waitaDone (code : BitVec 32)
  /-- SEND: message on its way, first tried at this tick (R297). -/
  | sendFlight (start : Nat)
  /-- SEND: refused, waiting out 64 cycles. -/
  | sendRefused (start : Nat)
  /-- SEND: the time limit ran out. -/
  | sendTimedOut
  /-- SEND: accepted. -/
  | sendAccepted
  /-- LWAIT on slot `e` until this tick (R271). -/
  | lwaitUntil (e limit : Nat)
  /-- LWAIT's limit has run out (R271). -/
  | lwaitOver
  /-- A barrier instruction has put its question (R310). -/
  | barAsked
  /-- A BWAIT or BTEST with its answer. -/
  | barAnswered (value : BitVec 32)
  /-- A barrier instruction whose barrier belongs to no block of its virtual interface. -/
  | barRefused
  /-- TEXIT or REPLY has completed its steps below n (R302). -/
  | ending (n : Nat)
  /-- VSTS or VSCAT: the entries of the elements below n are in the buffer (R257). -/
  | placed (n : Nat)
  /-- CLKN: slot (set, w) of store k is PENDING for it, and its children below j are referenced (R44). `col`: another slot has
  an equal digest. -/
  | carPending (k set w j : Nat) (col : Bool)
  /-- CLKL or CLKN at its home in store k, where it waits for another's PENDING slot (R33, R44). -/
  | carWaits (k : Nat)
deriving DecidableEq, Repr

/-- Kinds of store-buffer entry, as R383 records them. -/
inductive StoreKind where
  | plain
  | stl
  | reduction (op : BitVec 4) (wide : Bool)
  | czero
  | vec
  | elem (n : BitVec 8)
deriving DecidableEq, Repr

/-- A translation held by a TLB (R13, R14). `page` is the first virtual address it covers; `u`: open to U mode; `bad`: an
uncorrectable error in it (R428). -/
structure TlbEntry where
  pasid : BitVec 20
  page : Nat
  pa : Nat
  size : PageSize
  r : Bool
  w : Bool
  x : Bool
  u : Bool
  bad : Bool := false
deriving DecidableEq, Repr

/-- Where an access on its way goes, and the translation that said so (R20). -/
structure Sent where
  place : Place
  entry : Option TlbEntry := none
deriving DecidableEq, Repr

/-- One entry of a store buffer (R223). The bits of `mask` within the low 8·n are stored. `fixedAt` is the local-store
key a VSTB group was decoded to at issue (R260). `feBit` is the full/empty bit an instruction of scope `.T` or `.C`
changes with its store (R228). -/
structure StoreEntry where
  thread : Nat
  vi : BitVec 10
  kind : StoreKind := .plain
  va : DWord
  n : Nat
  data : Line
  mask : Line
  active : BitVec 8 := 0
  pc : DWord
  mode : Mode
  /-- The priority class and the protected context its thread had at issue (R92, R340). -/
  cls : BitVec 2 := 0
  ctx : Nat := 0
  scope : BitVec 3 := 2
  rel : Bool := false
  fixedAt : Option Nat := none
  feBit : Option Bool := none
  /-- Its thread's block has been ended: a failure is not recorded (R391). -/
  ended : Bool := false
  /-- It has left the buffer and is on its way, translated and checked, to its place (R24, R352). -/
  away : Option Sent := none
  /-- It was on its way to the other module when both ports failed (R423). -/
  cut : Bool := false
deriving DecidableEq, Repr

/-- A store-fault record (R383). -/
structure StoreRecord where
  va : DWord
  data : DWord
  pc : DWord
  size : BitVec 8
  slot : BitVec 3
  cause : Cause
  kind : BitVec 8
  mask : BitVec 32
deriving DecidableEq, Repr

/-- Who waits for a translation (R16). -/
inductive Waiter where
  | thread (t : Nat)
  /-- A line operation of a thread, which asks no page of the host (R219), and a prefetch, for which nobody waits (R227). -/
  | lineOp (t : Nat)
  | prefetch (t : Nat) (va : DWord)
  | drain (core : Nat)
  /-- A copy request and an engine's operation of a core, by number (R82, R263). -/
  | copy (core id : Nat)
  | engine (core id : Nat)
  /-- The launch scheduler, for a record of virtual interface `vi` (R358 to R360). -/
  | sched (vi : Nat)
deriving DecidableEq, Repr

/-- A miss that waits at a level for a free entry, with its priority class; the oldest of a class first (R17). -/
structure MissWait where
  pasid : BitVec 20
  page : Nat
  waiter : Waiter
  cls : BitVec 2
deriving DecidableEq, Repr

/-- An outstanding translation miss, one per PASID and 4 KiB page at each level (R16): the waiters that joined it. -/
structure Miss where
  pasid : BitVec 20
  page : Nat
  waiters : List Waiter
deriving DecidableEq, Repr

/-- A clean copy in a core's L1 (R57, R61). -/
structure L1Line where
  data : Line
  fe : BitVec 16
  wts : Nat
  rts : Nat
  /-- Where a write's stamp has taken the lease past what the home granted (R62): the end of that grant, and the bytes that `rts`
  covers beyond it. -/
  part : Option (Nat × BitVec 64) := none
  /-- The protected context and its version it was opened for (R92): CTX + 2^16 · VERSION, 0 for none. -/
  ctx : Nat := 0
  /-- The copy has an uncorrectable error (R428). -/
  bad : Bool := false
deriving DecidableEq, Repr

/-- A line of a stash bank (R72). -/
structure StashLine where
  data : Line
  fe : BitVec 16
  mask : BitVec 64 := 0
  feMask : BitVec 16 := 0
  ctx : Nat := 0
  bad : Bool := false
deriving DecidableEq, Repr

/-- The states of a line in the host fabric's protocol, but for its absence (R70). -/
inductive Moesi where
  | modified | owned | exclusive | shared
deriving DecidableEq, Repr

/-- A commutative partial (R74) and the protected context its updates came from (R92). -/
structure Partial where
  data : Line
  ctx : Nat := 0
  /-- It has an uncorrectable error (R428). -/
  bad : Bool := false
deriving DecidableEq, Repr

/-- A CAR line held by name in a cluster cache (R54). -/
structure NamedLine where
  data : Line
  bad : Bool := false
deriving DecidableEq, Repr

/-- A copy in a cluster cache (R61, R67). It is cluster-dirty when a mask is nonzero. `granted` is the greatest lease
the cluster cache has given its L1s (R62). -/
structure ClusterLine where
  data : Line
  fe : BitVec 16
  wts : Nat
  rts : Nat
  /-- As for an L1 copy. -/
  part : Option (Nat × BitVec 64) := none
  granted : Nat := 0
  /-- While it is dirty: the stamp of the first write since its last push (R323). -/
  since : Nat := 0
  byteMask : BitVec 64 := 0
  coreMask : BitVec 16 := 0
  feMask : BitVec 16 := 0
  ctx : Nat := 0
  bad : Bool := false
deriving DecidableEq, Repr

/-- A line as its home's bridge slice holds it (R59, R62): its write time and the greatest lease granted. Its bytes are
in memory. -/
structure HomeLine where
  wts : Nat
  maxLease : Nat
deriving DecidableEq, Repr

/-- A decoded value. `fin neg m e st` is ±(m + δ)·2^e, with δ = 0, or 0 < δ < 1 where st. `nan` keeps the sign, whether
it signals, the fraction bits below the quiet bit and the code of the format it came from (R115, R136). -/
inductive Num where
  | nan (neg sig : Bool) (frac src : Nat)
  | inf (neg : Bool)
  | fin (neg : Bool) (m : Nat) (e : Int) (st : Bool)
deriving DecidableEq, Repr

/-- The coordinate and stage a tile task runs (R338). `launch` is the launch's number in State.launches. -/
structure Task where
  launch : Nat
  block : Nat
  tile : Nat
  stage : Nat
deriving DecidableEq, Repr

/-- What a CALLAT child was started by (R347): its caller's launch and block, its caller and the tag of the reply. -/
structure Child where
  launch : Option Nat
  block : Option Nat := none
  caller : Nat
  tag : Nat
deriving DecidableEq, Repr

/-- A batch of copies (R88): its number, the requests that joined it, those that have ended, whether one asked for a
pluck (R90), the conversion flags (R87). -/
structure Batch where
  number : BitVec 16 := 0
  issued : Nat := 0
  ended : Nat := 0
  pluck : Bool := false
  flags : BitVec 11 := 0
deriving DecidableEq, Repr

/-- TH_CFAULT (R91). -/
structure CopyFault where
  done : Word := 0
  batch : BitVec 16 := 0
  cause : BitVec 6 := 0
  req : BitVec 8 := 0
  ovf : Bool := false
  v : Bool := false
deriving DecidableEq, Repr

/-- A copy request (R80, R86): a COPY is one row. `thread` refers to its issuer. `row` and `off` say how far it has come;
`fmts` holds the storage formats of banks (by core × 16 + bank) as they were at dispatch (R87); `bad` marks a request that
breaks the conversion conditions. `off` counts the row's destination bytes written. `after` counts the entries of the core's
store buffer up to the issuer's last one before the request (R82). -/
structure CopyReq where
  thread : Nat
  vi : BitVec 10
  mode : Mode
  cls : BitVec 2
  batch : BitVec 16
  ordinal : Nat
  id : Nat
  tensor : Bool
  src : DWord
  dst : DWord
  len : Nat
  ext : List Nat
  sstr : List Int
  dstr : List Int
  pluck : Bool
  rnd : BitVec 3
  sat : Bool
  scope : BitVec 2
  ctx : Nat := 0
  after : Nat := 0
  fmts : AMap Nat := []
  bad : Option DWord := none
  /-- Its thread's block has been ended, and with it the open batch it had joined (R391). -/
  ended : Bool := false
  loose : Bool := false
  /-- The page whose page request it is held for (R91), the address of the access, and whether the request was refused. -/
  held : Option Nat := none
  heldVa : DWord := 0
  refused : Bool := false
  row : Nat := 0
  off : Nat := 0
  flags : BitVec 11 := 0
deriving DecidableEq, Repr

/-- The operations of the engines (R262, R286). -/
inductive EngineKind where
  | mlds | mswap | mstream | mtile | mrot | mdrain | mzero
  | rlds | rtile | rconv
  | gconv | ggath | gcopy
  | hdigest | hingest
  | allReduce
deriving DecidableEq, Repr

/-- An operation of a lease (R263): the snapshot of `ec0`–`ec11`, its register operands, and how far it has come. -/
structure EngineOp where
  kind : EngineKind
  id : Nat
  /-- The reference to its thread (see `State.refOf`). -/
  thread : Nat
  vi : BitVec 10
  mode : Mode
  cls : BitVec 2
  ctx : Nat := 0
  ec : List Word
  x : Word := 0
  y : Word := 0
  /-- Steps completed, and the flags gathered in them (R149). -/
  steps : Nat := 0
  flags : BitVec 9 := 0
  /-- HINGEST and GCOPY: the store, and whether it has been disabled meanwhile (R33). GCOPY: the root's name, for which it
  holds a reference where it is not null, with the record's LEAVES and DEPTH. -/
  store : Nat := 0
  lost : Bool := false
  name : DWord := 0
  /-- HINGEST: the key of the place to which the name is written, as its translation gave it (R282), and that translation. -/
  nameKey : Nat := 0
  nameEntry : Option TlbEntry := none
  leaves : Nat := 0
  depth : Nat := 0
  /-- HDIGEST's sponge (R281). -/
  sponge : Nat := 0
  /-- GCONV: the old values of source bytes it has overwritten, by address (R284). -/
  old : AMap Nat := []
  /-- GCONV: the source span read for the line before, with its bytes as they were. -/
  seen : Option (DWord × Nat × Nat) := none
  /-- All-reduce: its number among the operations of its TAG (R424). -/
  ordinal : Nat := 0
  /-- Products: the planes of B loaded so far (R154). MROT: the lines of its transfer step that have gone (R157). -/
  loaded : Nat := 0
  moved : Nat := 0
deriving DecidableEq, Repr

/-- The states of a lease (R158). -/
inductive LeaseState where
  | released | requested | waking | held | parked | evicted
deriving DecidableEq, Repr

/-- A lease slot with its geometry registers (R152, R158). `base` is the pitch tick at which the term began to run, or the
ticks already used while the lease is parked. `wakePark` marks a WAKING lease that goes to PARKED. -/
structure Lease where
  state : LeaseState := .released
  kind : BitVec 3 := 0
  prio : BitVec 2 := 0
  ovd : Bool := false
  ev : Bool := false
  flt : Bool := false
  drn : Bool := false
  eng : BitVec 8 := 0
  kblk : BitVec 6 := 0
  rgrp : BitVec 4 := 0
  term : Word := 0
  used : Nat := 0
  since : Nat := 0
  plk : Bool := false
  wakePark : Bool := false
  ec : AMap Word := []
  pos : Word := 0
  /-- Completed operations not yet joined, with their flags (R266). -/
  done : List (Nat × BitVec 9) := []
  fcause : BitVec 6 := 0
  fva : DWord := 0
  /-- Operations queued, running or stopped, oldest first (R263). -/
  ops : List EngineOp := []
deriving DecidableEq, Repr

/-- An arrival at a barrier that has not been sent (R309): the barrier, the barrier word, the scope of its release, if it is
one, the store-buffer entries that go before it, and the copy requests that were not yet dispatched (`sent`). `copies` and `ops` are
what a deferred arrival waits for. -/
structure Arrival where
  cl : Nat
  n : Nat
  word : Word
  credit : Word
  rel : Option Nat := none
  after : Nat := 0
  sent : List Nat := []
  copies : List Nat := []
  ops : List Nat := []
deriving DecidableEq, Repr

/-- A message (R295). -/
structure Message where
  sender : Nat
  vi : BitVec 10
  payload : VWord
  /-- The sender's clock, which a receive learns of (R298). -/
  clock : Nat := 0
  /-- It has been moved out of a line of the overflow area with an uncorrectable error (R428). -/
  bad : Bool := false
deriving DecidableEq, Repr

/-- A message on its way to a core (R297): from a SEND, whose slot waits, or a SENDNB, whose status fills the producer
with this tag. -/
structure Mail where
  target : Nat
  msg : Message
  tag : Option Nat
  /-- A SEND that was refused and waits for its next attempt. -/
  refused : Bool := false
deriving DecidableEq, Repr

/-- A CALLAT request (R211): on its way to its core, or in that core's task queue. -/
structure Call where
  target : Nat
  caller : Nat
  tag : Nat
  vi : BitVec 10
  cls : BitVec 2
  launch : Option Nat
  block : Option Nat := none
  pc : DWord
  args : List Word
  cwbase : AMap DWord
  cwsize : AMap Word
  clock : Nat := 0
deriving DecidableEq, Repr

/-- A stage wake-up on its way: of a coordinate (R304), or from an MDRAIN, of a core (R344). -/
structure WakeUp where
  launch : Nat
  block : Nat
  tile : Nat
  stage : Nat
  core : Nat := 0
  /-- The block whose tile posted it. -/
  poster : Option Nat
  clock : Nat := 0
deriving DecidableEq, Repr

/-- A protected thread's registers while its trap is with the executive, to which they read zero (R412). -/
structure Veil where
  scal : AMap (Cell 32)
  cwp : BitVec 3
  resident : Nat
  frames : AMap FrameInfo
  wsptr : BitVec 15
  base : AMap (Cell 64)
  vec : AMap (Cell 256)
  pred : AMap Word
  shadow : List (Cell 32)
deriving DecidableEq, Repr

/-- One thread slot: the thread in it, or its emptiness (`present` false), with the registers of "Local Store and
Registers", the thread registers TH_ and what the slot's instruction in progress has done. -/
structure Thread where
  /-- The slot holds a thread (R27, R339). -/
  present : Bool := false
  /-- Its virtual interface (R13). -/
  vi : BitVec 10 := 0
  /-- Program counter (R165). -/
  pc : DWord := 0
  /-- TH_STAT.MODE (R319). -/
  mode : Mode := .u
  /-- TH_STAT.PLEN, INPL, INUP, CWOOB, PTRAP (R106, R319). -/
  plen : Bool := false
  inpl : Bool := false
  inup : Bool := false
  cwoob : Bool := false
  ptrap : Bool := false
  /-- Scalar registers by place: the window ring 0 to 127, `g1` to `g7` at 129 to 135 (R97). -/
  scal : AMap (Cell 32) := []
  /-- The ring position of the newest frame, and how many frames are resident (R97, R98). -/
  cwp : BitVec 3 := 0
  resident : Nat := 1
  /-- Return PC and kind of each resident frame, by ring position (R99). -/
  frames : AMap FrameInfo := []
  /-- `b1` to `b7`, `v0` to `v63`, `q1` to `q7` (R102). -/
  base : AMap (Cell 64) := []
  vec : AMap (Cell 256) := []
  pred : AMap Word := []
  /-- TH_FFLAGS (R132) and TH_FPCR (R131). -/
  fflags : BitVec 11 := 0
  fpcr : BitVec 4 := 0
  /-- TH_WSBASE, TH_WSLIM, TH_WSPTR (R100); a slot's own reset values stand in `Thread.reset`. -/
  wsbase : BitVec 15 := 0
  wslim : BitVec 15 := 0
  wsptr : BitVec 15 := 0
  /-- TH_CWBASE_n and TH_CWSIZE_n (R103). -/
  cwbase : AMap DWord := []
  cwsize : AMap Word := []
  /-- The priority class (R340) and the profile word (R368) it runs under. -/
  cls : BitVec 2 := 0
  profile : Word := 0xC0000008
  /-- What it runs: a tile task, a CALLAT child, or neither (RPUT, R110). -/
  task : Option Task := none
  child : Option Child := none
  /-- Its task ends at its next XRET (R391). -/
  ends : Bool := false
  /-- Its block has been ended while its instruction had begun its effect: it stops at its next boundary (R391). -/
  stops : Bool := false
  /-- The context its image is sealed for, while it is saved (R414). -/
  ctx : Nat := 0
  /-- The era of the key it is sealed with (R408). -/
  era : Nat := 0
  /-- It stands for the monitor's entry for a refused restore: its XRET leaves the slot empty (R419). -/
  refusal : Bool := false
  /-- Its registers, where the monitor has hidden them from the executive (R412). -/
  veil : Option Veil := none
  /-- The number this thread was given when it started (the model's own): a reference to a thread is
  uid × 4096 + thread number, so that a saved thread and a later one of its slot differ. -/
  uid : Nat := 0
  /-- While it is empty: how many numbers had been given out when the slot became free (the model's own; R346). -/
  freedAt : Nat := 0
  /-- The open batch, whose number is TH_CBATCH.NEXT, and the sealed unfinished ones, whose count is UNF (R88). -/
  openBatch : Batch := {}
  sealed : List Batch := []
  /-- TH_CFAULT and TH_CFADDR (R91). -/
  cfault : CopyFault := {}
  cfaddr : DWord := 0
  /-- The lease slots `e0` to `e3` (R152). -/
  leases : AMap Lease := []
  /-- Arrivals not yet sent, oldest first (R309). -/
  arrivals : List Arrival := []
  /-- TH_EPC, TH_CAUSE, TH_TVAL (R376), TH_UPVEC (R379). -/
  epc : DWord := 0
  cause : Word := 0
  tval : DWord := 0
  upvec : DWord := 0
  /-- TH_PLVEC, TH_PLPC, and the fields of TH_PLSRC (R388). -/
  plvec : DWord := 0
  plpc : DWord := 0
  plens : BitVec 4 := 0
  plbsub : Bool := false
  plbnum : BitVec 4 := 0
  plsrc : BitVec 3 := 0
  pldata : BitVec 16 := 0
  /-- Notices pending: one each of the batch, lease and barrier sources, a queue of fault completions (R382, R388). -/
  noteBatch : Option (BitVec 16) := none
  noteLease : Option (BitVec 16) := none
  noteBarrier : Option (BitVec 16) := none
  noteFault : List (BitVec 16) := []
  /-- The shadows of `w8` to `w11` (R389). -/
  shadow : List (Cell 32) := []
  /-- The upcall token, and the (token, page) pairs whose notices are awaited (R380, R382). -/
  tok : BitVec 8 := 0
  awaited : List (BitVec 8 × Nat) := []
  /-- TH_FERETRY (R230), TH_RSVHOLD (R238), TH_WAITDL (R242), TH_SENDLIM (R300). -/
  feretry : BitVec 24 := 0x040010
  rsvhold : BitVec 20 := 0x186A0
  waitdl : DWord := 0
  sendlim : BitVec 20 := 0x2710
  /-- The staged low word of a 64-bit register write, with its even number (R316). -/
  staged : Option (BitVec 12 × Word) := none
  /-- Causes posted, oldest first (R390). -/
  posted : List Posted := []
  /-- The reservation (R237). -/
  rsv : Rsv := .free
  /-- The latest time behind what its loads and waits have seen at places that answer with no write time: windows, the other
  module, a wake (R323, R331). An acquire learns of it. -/
  heard : Nat := 0
  /-- Producers in flight, oldest first (R104). -/
  producers : List Producer := []
  /-- The slot is stopped by HALT (R314). -/
  halted : Bool := false
  /-- The instruction word in the slot, and whether it is stalled there; what it has done (model: see the log). -/
  ir : Word := 0
  stalled : Bool := false
  wait : Wait := .idle
deriving DecidableEq, Repr

/-- The registers of slot `slot` after reset: the window stack of the slot is 2 KiB of bank 14 (R100). -/
def Thread.reset (slot : Nat) : Thread :=
  { wsbase := BitVec.ofNat 15 (slot * 0x800), wslim := BitVec.ofNat 15 (slot * 0x800 + 0x800),
    wsptr := BitVec.ofNat 15 (slot * 0x800) }

/-- A request of CO_PREEMPT (R370), or of the scheduler for a block it displaces or re-places. `started`: the spill or the
restore is in progress. -/
structure Preempt where
  slot : Nat
  restore : Bool
  started : Bool := false
  block : Option Nat := none
  /-- The save area of a re-placement (R418). -/
  base : Option Nat := none
deriving DecidableEq, Repr

/-- One barrel core: what its eight slots share. -/
structure Core where
  /-- The store buffer, oldest first (R223). -/
  buffer : List StoreEntry := []
  /-- Inbound FIFOs of `pn`, `pe`, `ps`, `pw` (0 to 3), oldest word first (R107). -/
  ports : AMap (List Word) := []
  /-- Port words that instructions in progress have read and not yet completed with (R109): FIFO, index in it, thread. -/
  portHolds : List (Nat × Nat × Nat) := []
  /-- CO_LCLK (R60). -/
  clock : Nat := 0
  /-- The L1 data cache by line (R57). -/
  l1 : AMap L1Line := []
  /-- Stash lines by 16 × line + bank (R72). -/
  stash : AMap StashLine := []
  /-- The L1 TLB, most recently used first, and its outstanding misses (R14, R16). -/
  tlb : List TlbEntry := []
  misses : List Miss := []
  missWaits : List MissWait := []
  /-- Pages a fill reported absent, until the access that waited has taken its fault (R18). -/
  absent : List (Waiter × BitVec 20 × Nat) := []
  /-- CO_SUBPG_A to D (R21); the sub-page map by word 128·region + n, all ones where not listed, and CO_SPMAP_SEL (R23). -/
  subpg : AMap DWord := []
  spmap : AMap Word := []
  spsel : Word := 0
  /-- CO_RSEG (R108). -/
  rseg : BitVec 4 := 0
  /-- CO_BFMT_n: VIEW in [10:8], SFMT in [5:0] (R95). CO_BSTASH_n with BUSY in bit 1 (R96). -/
  bfmt : AMap Word := []
  bstash : AMap DWord := []
  /-- The store-fault record queue (R383), each with its thread's number. -/
  records : List (Nat × StoreRecord) := []
  /-- MN_VEC; MN_EPC, MN_CAUSE and MN_TVAL by slot (R377). -/
  mnvec : DWord := 0
  mnepc : AMap DWord := []
  mncause : AMap Word := []
  mntval : AMap DWord := []
  /-- MN_PENT_n and MN_PVER_n (R410). -/
  pent : AMap DWord := []
  pver : AMap Word := []
  /-- The save counter and the latest counters of slots (0 to 7), banks (8 + bank) and bank-14 regions (32 + slot) (R413,
  R417). -/
  saveCount : Nat := 1
  latest : AMap Nat := []
  /-- The copy FIFO (R81). -/
  copies : List CopyReq := []
  /-- Banks in which a whole block of an MROT has arrived: of A, of B (R276). -/
  arrivedA : List Nat := []
  arrivedB : List Nat := []
  /-- The receive queue, and the tags of the messages in the overflow area, whose oldest stands at `head` (R295). -/
  queue : List Message := []
  overflow : List (Nat × BitVec 10 × Nat) := []
  head : Nat := 0
  /-- The CALLAT task queue (R346). -/
  calls : List Call := []
  /-- Lines that ended threads still hold, by thread, place and line: each goes on once the thread's buffered stores have drained
  (R237, R391). -/
  handing : List (Nat × Nat × Nat) := []
  /-- CO_PREEMPT's requests in arrival order (R370). -/
  preempts : List Preempt := []
  /-- CO_PWR: DIV, SW, EFF, RMV, LIM (R395); the controller's own divider (R396), and whether the closed switch is ready. -/
  div : BitVec 3 := 0
  sw : Bool := true
  eff : BitVec 3 := 0
  rmv : BitVec 8 := 0
  lim : Bool := false
  ctlDiv : BitVec 3 := 0
  ready : Bool := true
deriving DecidableEq, Repr

/-- A registration that sleeps at a place on a word (R229, R241). -/
structure Sleeper where
  thread : Nat
  key : Nat
  /-- 0 LDFE, 1 STFE, 2 LDFF, 3 WAITA. -/
  kind : BitVec 2
  /-- A WAITA of scope `.S`, which a host wake reaches (R242). -/
  sys : Bool := false
  /-- The core whose stash bank holds the word for it (R220). -/
  bank : Option Nat := none
deriving DecidableEq, Repr

/-- The queue of a line's reservation (R236): the holder with the pitch tick at which the hold ends, if it has a limit
(R238), and the waiters in arrival order. -/
structure RsvQueue where
  holder : Option (Nat × Option Nat) := none
  waiters : List Nat := []
deriving DecidableEq, Repr

/-- An arrival that has reached its barrier: the reference to its sender, the sender's virtual interface, the barrier word, the
credit. -/
structure Arrived where
  sender : Nat
  vi : BitVec 10
  word : Word
  credit : Word
deriving DecidableEq, Repr

/-- A barrier (R305) with the events that have reached it since its last cycle (R307), in order: arrivals, expectations with
their threads, and the waiting and testing threads. `owner` is the block it is assigned to. -/
structure Barrier where
  count : BitVec 10 := 1
  phase : BitVec 16 := 0
  arr : BitVec 16 := 0
  bal : Int := 0
  owner : Option Nat := none
  arrivals : List Arrived := []
  expects : List (Nat × Word) := []
  waits : List (Nat × BitVec 16) := []
  tests : List Nat := []
deriving DecidableEq, Repr

/-- A pending lease request (R160). -/
structure LeaseReq where
  thread : Nat
  slot : Nat
  prio : BitVec 2
  seq : Nat
deriving DecidableEq, Repr

/-- A block displaced from this cluster or resident on it is listed in State.blocks; a cluster may be reserved for the head
of a queue, or for a displaced block (R366). -/
inductive Reserved where
  | head (vi : Nat)
  | block (key : Nat)
deriving DecidableEq, Repr

/-- One cluster: its cache and what is registered there. -/
structure Cluster where
  /-- The cluster clock (R60), CL_CCFG's LEASE and SCRATCH (R58). -/
  clock : Nat := 0
  lease : BitVec 8 := 4
  scratch : BitVec 4 := 0
  /-- Lines of the cluster cache, and commutative partials, by line (R57, R74). -/
  lines : AMap ClusterLine := []
  partials : AMap Partial := []
  /-- The latest lease given to an L1 out of a copy the cluster cache has dropped since (R62, R324). -/
  leaseFloor : Nat := 0
  /-- The cluster TLB, its misses and those that wait for an entry (R14, R16, R17). -/
  tlb : List TlbEntry := []
  misses : List Miss := []
  missWaits : List MissWait := []
  /-- Parked full/empty instructions, oldest first (R229); WAITA registrations, oldest first (R241). -/
  parked : List Sleeper := []
  watchers : List Sleeper := []
  /-- Reservation queues by line (R236). -/
  rsvQueues : AMap RsvQueue := []
  /-- CAR lines held by name (R54), by store × 2^64 + name. -/
  names : AMap NamedLine := []
  /-- Barriers 0 to 15 (R305). -/
  barriers : AMap Barrier := []
  /-- The CCE's requests in progress, and the core it looks at next, by class (R81). -/
  copies : List CopyReq := []
  copyNext : AMap Nat := []
  /-- Reservations of the scheduler (R366), the one that holds first. -/
  reserved : List Reserved := []
deriving DecidableEq, Repr

/-- A virtual interface (R13, R25, R35, R376). -/
structure Vi where
  pasid : BitVec 20 := 0
  lswin : DWord := 0
  clwin : DWord := 0
  tvec : DWord := 0
  /-- VI_CARPERM (R35), VI_QCFG (R362), VI_PROFILE (R368), VI_SAVEBASE (R369). -/
  carperm : BitVec 4 := 0
  qcfg : Word := 0x1C064000
  profile : Word := 0xC0000008
  savebase : DWord := 0
  /-- VI_QUSED (R362). -/
  used : BitVec 19 := 0
  exh : Bool := false
  /-- The queue window: QSEQ, QREF, QERR, QDONE (R354); the queued records, as numbers of launches, oldest first (R355). -/
  qseq : Word := 0
  qref : Word := 0
  qerr : BitVec 8 := 0
  qdone : Word := 0
  queue : List Nat := []
  /-- The deficit of R364, and the class of the ring the queue is in. -/
  deficit : Nat := 0
  ring : Option (BitVec 2) := none
deriving DecidableEq, Repr

/-- A command record (R357) and what has become of it. A SIGNAL is a launch of no block. -/
structure Launch where
  vi : BitVec 10
  signal : Bool
  cls : BitVec 2
  dep : Bool
  depeq : Bool
  cmp : Bool
  wake : Bool
  ser : Bool
  pin : Bool
  disp : Bool
  gx : Nat
  gy : Nat
  x : Nat
  y : Nat
  stages : Nat
  scr : Nat
  barmask : BitVec 16
  pcl : Nat
  stageTab : DWord
  argBlock : DWord
  cmpaddr : DWord
  cmpval : Word
  depval : Word
  depaddr : DWord
  banks : BitVec 14
  /-- The dependency has held (R359); and the table and the block have been read (R358). -/
  passed : Bool := false
  ready : Bool := false
  entries : List DWord := []
  cwbase : AMap DWord := []
  cwsize : AMap Word := []
  /-- Blocks placed and blocks completed; the failure code, 0 for none (R361); it has completed. -/
  placed : Nat := 0
  finished : Nat := 0
  code : Word := 0
  done : Bool := false
  /-- The page whose page request its reads or its completion write are held for, and whether that was refused; the failure
  code of the read that is held. -/
  held : Option Nat := none
  refused : Bool := false
  heldCode : Word := 0
  /-- The clock its start learns of (R360). -/
  clock : Nat := 0
deriving DecidableEq, Repr

/-- A block that has been placed and has not completed (R341, R343); its number in State.blocks is launch × 65,536 + its
number in the grid. A seat is the thread number of the tile's slot. -/
structure Block where
  launch : Nat
  number : Nat
  cluster : Nat
  seats : List Nat
  /-- Stages pending and started, as pairs of a tile and a stage (R343), and the latest clock of a wake-up (R304). -/
  clock : Nat := 0
  pending : List (Nat × Nat) := []
  started : List (Nat × Nat) := []
  displaced : Bool := false
  /-- It is being displaced (R373), or ended by VI_BLKEND or a loss of protection (R391, R408). -/
  leaving : Bool := false
  ended : Bool := false
  seq : Nat := 0
  /-- Barrier state saved at displacement (R373). -/
  bars : AMap Barrier := []
  /-- What a displacement took out of protection entries: core, entry, and the bits (R418). -/
  pents : List (Nat × Nat × DWord) := []
  /-- What a displacement sealed: core, bank (a region of bank 14: 32 + slot), in the order of their saves (R417). -/
  sealed : List (Nat × Nat) := []
  /-- The context and the era of those seals. -/
  ctx : Nat := 0
  era : Nat := 0
  /-- A restore was refused: no re-placement until the next write to VI_SAVEBASE (R419). -/
  barred : Bool := false
deriving DecidableEq, Repr

/-- The accumulator of one MXE output (R141). -/
structure Acc where
  w : Int := 0
  e : Int := 0
  s : Bool := false
  z : Bool := true
  pinf : Bool := false
  ninf : Bool := false
  /-- NPAY: core × 4096 + k (R116). -/
  nan : Option Nat := none
  isEmpty : Bool := true
  /-- Terms so far, modulo 4,096 (R142). -/
  terms : Nat := 0
deriving DecidableEq, Repr

/-- One RXE output (R147). -/
structure Residue where
  r : List Nat := [0, 0, 0, 0, 0, 0, 0, 0]
  bnd : Nat := 0
deriving DecidableEq, Repr

/-- The power of an engine (R150, R159, R399). `stopping`: released, to be handed off or turned off; `evicting`: evicted
for its units, to be turned off. -/
inductive EnginePower where
  | off | waking | handoff | ready | unparking | stopping | evicting
deriving DecidableEq, Repr

/-- A 64 × 64 plane of the MXE by element, row × 64 + column; an element that is not listed is zero, or, where the contents
are unspecified (R275), a free value counted from `unspec`. -/
structure Plane where
  elems : AMap Num := []
  unspec : Option Nat := none
deriving DecidableEq, Repr

/-- One engine: who holds it, when it was granted, and what it holds (R154, R278). Accumulators are by
bank × 4096 + row × 64 + column; the RXE's by row × 64 + column. -/
structure Engine where
  power : EnginePower := .off
  /-- The reference to the holder's thread, and its slot. -/
  holder : Option (Nat × Nat) := none
  granted : Nat := 0
  plane : Plane := {}
  shadow : Plane := {}
  banks : AMap Acc := []
  rplane : AMap Int := []
  rshadow : AMap Int := []
  rbank : AMap Residue := []
deriving DecidableEq, Repr

/-- The TDISP states (R406). -/
inductive Tdisp where
  | unlocked | locked | run | error
deriving DecidableEq, Repr

/-- A CAR store (R30, R34). -/
structure CarStore where
  pbase : BitVec 34 := 0
  gen : BitVec 8 := 0
  log2 : BitVec 4 := 0
  ibusy : Bool := false
  dbusy : Bool := false
  en : Bool := false
  coll : BitVec 16 := 0
  sfull : BitVec 16 := 0
  /-- PBASE and LOG2SIZE as they were written with INIT: what the clear in progress covers (R32). -/
  clearBase : BitVec 34 := 0
  clearLog : BitVec 4 := 0
  /-- The fields as they were when the store was last enabled: what its home goes by (R33). -/
  homeBase : BitVec 34 := 0
  homeGen : BitVec 8 := 0
  homeLog : BitVec 4 := 0
deriving DecidableEq, Repr

/-- The bridge: translation, homes and what is registered at the slices. -/
structure Bridge where
  tlb : List TlbEntry := []
  misses : List Miss := []
  missWaits : List MissWait := []
  /-- Page requests outstanding, one per PASID and 4 KiB page, with the write flag (R19). -/
  pageRequests : List (BitVec 20 × Nat × Bool) := []
  /-- Faults that wait until fewer than 256 page requests are outstanding (R19): PASID, page, write flag, class. -/
  pageWaits : List (BitVec 20 × Nat × Bool × BitVec 2) := []
  /-- Lines held in the bridge cache, by line (R62); the slice memory times (R63). -/
  homes : AMap HomeLine := []
  memTime : AMap Nat := []
  /-- The home directory toward the host: the state in which a host cache holds a module-homed line; and the state in which
  the bridge holds a host-homed line (R70). -/
  hostHeld : AMap Moesi := []
  held : AMap Moesi := []
  /-- Lines with an uncorrectable error (R428). -/
  poisoned : List Nat := []
  parked : List Sleeper := []
  watchers : List Sleeper := []
  rsvQueues : AMap RsvQueue := []
  /-- Seal tags by line (R79, R92). -/
  seals : AMap (BitVec 48) := []
  /-- Dying CAR lines: store, set and ordinal, oldest first (R49). -/
  reclaim : List (Nat × Nat × Nat) := []
  /-- Words for which a WAKEA.S has sent the host a wake notice, oldest first (R240). -/
  notices : List Nat := []
  /-- The bytes answered last to the host: a read, a report, a certificate, a nonce. -/
  answer : List Byte := []
  /-- The last host access got a poisoned or a write-error response (R37, R78). -/
  refusedHost : Bool := false
  /-- The cause with which the last access of the other module failed (R77). -/
  refusedPeer : Option Cause := none
  /-- The latest stamp of a host write (R360). -/
  hostClock : Nat := 0
  /-- The latest time the other module has learned of or been stamped with (R333); the latest release of a home
  reservation (R331). -/
  peerClock : Nat := 0
  rsvClock : Nat := 0
  /-- The latest time of a thread that has ended by TEXIT, which every acquire learns of (R331). -/
  exitClock : Nat := 0
  /-- Chunks of all-reduces that the other module has sent, and how many all-reduces of each TAG have been issued here
  (R424, R425). -/
  chunks : List Chunk := []
  tags : AMap Nat := []
deriving DecidableEq, Repr

/-- How far the bring-up has come (R431): what is done next. `host`: the module is up, and the host and the executive act. -/
inductive Bringup where
  | firmware | memory | link | monitor | host
deriving DecidableEq, Repr

/-- The module registers MD_. -/
structure Module where
  /-- The bring-up (R431). -/
  phase : Bringup := .firmware
  /-- MD_MEMBASE (R28). -/
  membase : DWord := 0
  /-- MD_CRBASE_n and MD_CRCFG_n (R73). -/
  crbase : AMap DWord := []
  crcfg : AMap Word := []
  /-- The CAR stores (R30). -/
  car : AMap CarStore := []
  /-- Base addresses of BAR 0 and BAR 2; 0: not placed (R403). Other configuration registers of the locked set, by number:
  below 16 the header's, from there those of ATS, PRI and PASID (R405). -/
  bar0 : DWord := 0
  bar2 : DWord := 0
  config : AMap DWord := []
  /-- MD_HOSTCFG.PROF (R404), MD_EBUDGET.LIMIT (R161). -/
  prof : BitVec 2 := 0
  limit : Nat := 256
  /-- MD_PWRSTAT: CAPO, WHY, IMG, PROF, TRIP, TJ1, TJ0 (R400); on-time heartbeats since the capo engaged (R401). -/
  capo : Bool := false
  why : BitVec 2 := 0
  img : BitVec 1 := 0
  profNow : BitVec 2 := 0
  trip : BitVec 2 := 0
  tj1 : BitVec 8 := 0
  tj0 : BitVec 8 := 0
  /-- The pitch tick since which a tripped die's junction has stayed below 95 °C, by die (R402). -/
  cooled : AMap Nat := []
  beats : Nat := 0
  lastBeat : Nat := 0
  /-- MD_LINKSTAT_p: WIDTH, SHED, SHEDS (R420). -/
  width : AMap (BitVec 2) := []
  /-- The pitch tick at which a port last came up while both were down: the guard band holds from 10,000 ticks on (R423). -/
  linkSince : Nat := 0
  shed : AMap Bool := []
  sheds : AMap (BitVec 16) := []
  /-- MD_SCRUB's SIGN and BUSY, MD_SCRADDR, the retired pages (R429); the receipt address and the pages of the sweep. -/
  sign : Bool := false
  scrubbing : Bool := false
  scraddr : DWord := 0
  receipt : DWord := 0
  retired : List Nat := []
  /-- How far the sweep has come in this module's memory, and what it has met so far: uncorrectable lines, pages skipped. -/
  swept : Nat := 0
  sweepBad : List Nat := []
  sweepSkipped : List Nat := []
  /-- The TDISP state and nonce (R406); the era of the context keys, which an erasure ends (R408). -/
  tdisp : Tdisp := .unlocked
  nonce : BitVec 256 := 0
  era : Nat := 0
  /-- Rail voltage step of each row (R397): the divider class it is set for, 0 to 3. -/
  rails : AMap Nat := []
  /-- A placement pass is due (R364); budget samples and periods so far (R363). -/
  passDue : Bool := false
  samples : Nat := 0
  periods : Nat := 0
  /-- Next queue to serve of each class (R364). -/
  nextVi : AMap Nat := []
  /-- Engines by kind × 256 + number, and lease queues by kind × 32 + cluster (R150, R160). -/
  engines : AMap Engine := []
  leaseQueues : AMap (List LeaseReq) := []
deriving DecidableEq, Repr

/-- Whose turn it is. The agenda is the model's own: the order in which slots issue and events happen, which the manual
leaves to arrival and timing. -/
inductive Turn where
  /-- The slot of thread t issues. -/
  | issue (t : Nat)
  /-- An event happens. -/
  | event (e : Instr)
  /-- n pitch ticks pass (R2). -/
  | elapse (n : Nat)
  /-- A core's L1 gives up a line (R61). -/
  | dropL1 (core : Nat) (line : Nat)
  /-- A copy engine moves the next line of a request in progress (R83). -/
  | copyLine (cl : Nat) (idx : Nat)
  /-- The next store of a core's buffer sets out for its place; the one numbered i among those on their way is performed there
  (R352). -/
  | sendStore (core : Nat)
  | landStore (core : Nat) (i : Nat)
  /-- The load behind producer k of thread t is performed now, not at its issue (R17, R327). -/
  | performLoad (t : Nat) (k : Nat)
  /-- An uncorrectable error in a copy: of a core's L1, of a cluster cache, of a stash bank, or in a core's translation of an
  address for a virtual interface (R428). -/
  | badL1 (core : Nat) (line : Nat)
  | badCluster (k : Nat) (line : Nat)
  | badName (k : Nat) (key : Nat)
  | badStash (core : Nat) (key : Nat)
  | badTlb (core : Nat) (vi : BitVec 10) (va : DWord)
  /-- An engine goes on with what its running operation does beside or within a step: the next plane of B is loaded (R154); a
  line of MROT's transfer step goes (R157). -/
  | engineWork (engine : Nat)
  /-- A width transition of a link port begins (R422). -/
  | retrain (port : BitVec 1)
  /-- The controller sets its own divider of a core (R396). -/
  | controller (core : BitVec 9) (div : BitVec 3)
  /-- A voltage row's rail is lowered to what its cores need (R397). -/
  | lowerRail (row : BitVec 5)
  /-- The monitor passes a protected thread's trap to the executive (R412). -/
  | monitorPass (t : Nat)
  /-- The next step of the bring-up ends (R431). -/
  | bringUp
  /-- The memory sweep visits its next lines, up to a physical address (R430). -/
  | sweepTo (pa : Nat)
  /-- The junction of a die has come to t °C (R400). -/
  | temperature (die : BitVec 1) (t : BitVec 8)
deriving DecidableEq, Repr

/-- The state of the module. -/
structure State where
  /-- The thread whose slot issues, and the turns to come. -/
  cur : Nat := 0
  agenda : List Turn := []
  /-- Pitch ticks since reset; the pitch counter is its low 64 bits (R2). -/
  pitch : Nat := 0
  /-- Memory by key: physical addresses, then the local stores from 2^64, then the scratches from 2^65. -/
  mem : List Host.Cell := []
  /-- Keys, divided by 4, of the words whose full/empty bit is empty, ascending (R79). -/
  empty : List Nat := []
  threads : AMap Thread := []
  /-- Pre-empted threads, by reference: what of them is not in their image (R371). -/
  saved : AMap Thread := []
  cores : AMap Core := []
  clusters : AMap Cluster := []
  vis : AMap Vi := []
  bridge : Bridge := {}
  module : Module := {}
  /-- Accepted command records and placed blocks (R355, R364). -/
  launches : AMap Launch := []
  blocks : AMap Block := []
  /-- Messages, CALLAT requests and stage wake-ups on their way. -/
  mails : List Mail := []
  flights : List Call := []
  stWakes : List WakeUp := []
  mdWakes : List WakeUp := []
  /-- Words whose full/empty bit changed and whose waiters have not been woken yet: the place (0 the home, 1 + k cluster
  k), the key and the new bit (R231). -/
  changes : List (Nat × Nat × Bool) := []
  /-- Numbers given out so far: launches, blocks, grants, copy requests, operations, reply tags (the model's own). -/
  serial : Nat := 0
  /-- The width of the host's virtual addresses (R18). -/
  vaBits : Nat := 48
  /-- How many free values have been drawn (the model's own). -/
  drawn : Nat := 0
deriving DecidableEq, Repr

/-- The machine after reset: every slot empty, every table at its reset values, no turn to come. -/
def State.reset : State := {}

/-- Why a step stops. -/
inductive Fault where
  /-- An event of the agenda that cannot happen in this state: raised by an event's meaning. Safe: the hardware makes no
  such step. -/
  | notEnabled (event : String)
deriving DecidableEq, Repr

/-- Why a meaning is missing. -/
inductive Refusal where
  /-- The instruction has no meaning yet. Safe. -/
  | notModelled (mnemonic : String)
deriving DecidableEq, Repr

end Sys2Proof.Machine
end

