-- ==== Sys2Proof/Machine/Ops.lean ====
section
/-!
DEFINITION. Sys2Proof/Machine/Ops.lean: the named operations over the state: tables, numbering, memory bytes, registers,
neighbour ports, the window ring, taking an exception and returning from one.
-/

namespace Sys2Proof.Machine

/-! ## Tables -/

/-- The value listed for a number. -/
def look {α : Type} : AMap α → Nat → Option α
  | [], _ => none
  | (j, v) :: rest, k => if j = k then some v else look rest k

/-- The table with a number's value replaced or entered in rising order. -/
def put {α : Type} : AMap α → Nat → α → AMap α
  | [], k, v => [(k, v)]
  | (j, u) :: rest, k, v =>
    if k < j then (k, v) :: (j, u) :: rest
    else if k = j then (k, v) :: rest
    else (j, u) :: put rest k v

/-- The table without a number. -/
def del {α : Type} (m : AMap α) (k : Nat) : AMap α := m.filter (fun p => p.1 != k)

/-- The value listed for a number, or else a given one. -/
def lookD {α : Type} (m : AMap α) (k : Nat) (d : α) : α := (look m k).getD d

/-- The first element of a list that satisfies a test, with its index. -/
def findIdxFrom {α : Type} (p : α → Bool) : List α → Nat → Option (Nat × α)
  | [], _ => none
  | x :: xs, n => if p x then some (n, x) else findIdxFrom p xs (n + 1)

/-- The list without its element n. -/
def removeAt {α : Type} (l : List α) (n : Nat) : List α := l.take n ++ l.drop (n + 1)

/-- The list with its element n replaced. -/
def replaceAt {α : Type} (l : List α) (n : Nat) (x : α) : List α :=
  match l, n with
  | [], _ => []
  | _ :: ys, 0 => x :: ys
  | y :: ys, k + 1 => y :: replaceAt ys k x

/-! ## Numbering (R4) -/

/-- The core and the slot of a thread. -/
def coreOf (t : Nat) : Nat := t / 8
def slotOf (t : Nat) : Nat := t % 8

/-- The cluster of a core: die×16 + (row/4)×4 + col/4. -/
def clusterOf (core : Nat) : Nat := core / 256 * 16 + core % 256 / 16 / 4 * 4 + core % 16 / 4

/-- The voltage row of a core: die×16 + row. -/
def rowOf (core : Nat) : Nat := core / 16

/-- A core's index among the 16 of its cluster, row by row. -/
def coreIndex (core : Nat) : Nat := core % 256 / 16 % 4 * 4 + core % 4

/-- The core with index i of cluster k. -/
def coreAt (k i : Nat) : Nat := k / 16 * 256 + (k % 16 / 4 * 4 + i / 4) * 16 + k % 4 * 4 + i % 4

/-! ## The parts of the state -/

namespace State

def thread (s : State) (t : Nat) : Thread := lookD s.threads t (Thread.reset (slotOf t))
def setThread (s : State) (t : Nat) (th : Thread) : State := { s with threads := put s.threads t th }
def th (s : State) : Thread := s.thread s.cur
def setTh (s : State) (th : Thread) : State := s.setThread s.cur th

def core (s : State) (c : Nat) : Core := lookD s.cores c {}
def setCore (s : State) (c : Nat) (x : Core) : State := { s with cores := put s.cores c x }
def cluster (s : State) (k : Nat) : Cluster := lookD s.clusters k {}
def setCluster (s : State) (k : Nat) (x : Cluster) : State := { s with clusters := put s.clusters k x }
def viOf (s : State) (v : Nat) : Vi := lookD s.vis v {}
def setVi (s : State) (v : Nat) (x : Vi) : State := { s with vis := put s.vis v x }

/-- The core and the cluster of the issuing thread. -/
def myCore (s : State) : Nat := coreOf s.cur
def myCluster (s : State) : Nat := clusterOf (coreOf s.cur)

/-- The reference to the thread in a slot. -/
def refOf (s : State) (t : Nat) : Nat := (s.thread t).uid * 4096 + t

/-- Whether a reference names the thread that is in its slot. -/
def live (s : State) (r : Nat) : Bool := (s.thread (r % 4096)).present && (s.thread (r % 4096)).uid == r / 4096

/-- The thread a reference names, in its slot or saved. -/
def byRef (s : State) (r : Nat) : Thread := if s.live r then s.thread (r % 4096) else lookD s.saved r {}

/-- A change to the thread a reference names, where it has not ended. -/
def updRef (s : State) (r : Nat) (f : Thread → Thread) : State :=
  if s.live r then s.setThread (r % 4096) (f (s.thread (r % 4096)))
  else match look s.saved r with
    | some th => { s with saved := put s.saved r (f th) }
    | none => s

/-- The references to the threads of a slot: the one in it and the saved ones. -/
def refsOf (s : State) (t : Nat) : List Nat := s.refOf t :: (s.saved.map (·.1)).filter (fun r => r % 4096 == t)

/-- The threads of a core that hold a thread. -/
def residents (s : State) (c : Nat) : List Nat :=
  (List.range 8).map (fun i => c * 8 + i) |>.filter (fun t => (s.thread t).present)

end State

/-! ## Memory bytes

One space of keys: a physical address is its own key, byte o of core c's local store has the key 2^64 + c·2^18 + o, and
byte o of cluster k's scratch has the key 2^65 + k·2^22 + o. A byte that is not listed reads 0. -/

/-- The key of a byte of a core's local store (R93). -/
def localKey (core off : Nat) : Nat := 2 ^ 64 + core * 2 ^ 18 + off

/-- The key of a byte of a cluster's scratch (R26). -/
def scratchKey (k off : Nat) : Nat := 2 ^ 65 + k * 2 ^ 22 + off

/-- One byte. -/
def memByte (m : List Host.Cell) (k : Nat) : Byte := lookD m k 0

/-- Writing one byte; a zero is not listed. -/
def memSet (m : List Host.Cell) (k : Nat) (b : Byte) : List Host.Cell := if b = 0 then del m k else put m k b

/-- n bytes from a key, the byte at the key lowest (R6). -/
def memRead (m : List Host.Cell) (k : Nat) : Nat → Line
  | 0 => 0
  | n + 1 => (memRead m (k + 1) n <<< 8) ||| (memByte m k).setWidth 512

/-- Writing the bits of `mask` among n bytes from a key; the other bits keep their values. -/
def memWrite (m : List Host.Cell) (k : Nat) : Nat → Line → Line → List Host.Cell
  | 0, _, _ => m
  | n + 1, data, mask =>
    let b := (memByte m k &&& ~~~(mask.setWidth 8)) ||| (data.setWidth 8 &&& mask.setWidth 8)
    memWrite (memSet m k b) (k + 1) n (data >>> 8) (mask >>> 8)

/-- The form memory is kept in: keys strictly rising, no zero listed. -/
def Memory.wf : List Host.Cell → Bool
  | [] => true
  | [(_, b)] => b != 0
  | (j, b) :: (k, c) :: rest => b != 0 && decide (j < k) && Memory.wf ((k, c) :: rest)

/-- A mask of the low n bytes. -/
def byteMask (n : Nat) : Line := BitVec.ofNat 512 (2 ^ (8 * n) - 1)

/-- Whether the word with this key (divided by 4) is full (R79). -/
def feFull (e : List Nat) (w : Nat) : Bool := !e.contains w

/-- Setting the full/empty bit of a word. -/
def feSet (e : List Nat) (w : Nat) (full : Bool) : List Nat :=
  if full then e.filter (· != w) else if e.contains w then e else e.filter (· < w) ++ w :: e.filter (w < ·)

/-! ## Why an instruction does not complete -/

/-- A trap an instruction asks for: its cause, TH_TVAL and CODE (R375). `next` moves the restart point past the
instruction. `upcall` marks the faults that R380 may deliver as upcalls. -/
structure TrapReq where
  cause : Cause
  tval : DWord := 0
  code : BitVec 12 := 0
  next : Bool := false
  posted : Bool := false
  upcall : Bool := false
  fetch : Bool := false
deriving DecidableEq, Repr

/-- An instruction that does not complete: it holds its slot, or it traps; what it did on the way stays (a
translation request, a registration). -/
inductive Stop where
  | stall (s : State)
  /-- A read of an empty register or port (R105), which holds no port word (R109). -/
  | blocked (s : State)
  | trap (s : State) (t : TrapReq)

abbrev Eff := Except Stop

/-! ## Registers (R97, R102) -/

/-- The place of a scalar register: the window ring holds `a` and `w` of the frame at position cwp and `k` at the `a`
places of the next position, so a call renames and copies nothing. -/
def scalarPlace (cwp : BitVec 3) (r : Nat) : Nat :=
  if 8 ≤ r ∧ r ≤ 23 then 16 * cwp.toNat + (r - 8)
  else if 28 ≤ r then 16 * (cwp + 1).toNat + (r - 28)
  else 128 + r

/-- Ports are named by 24 to 27 (R97). -/
def isPort (r : BitVec 5) : Bool := 24 ≤ r.toNat && r.toNat ≤ 27

namespace Thread

def scalar (th : Thread) (r : BitVec 5) : Cell 32 := lookD th.scal (scalarPlace th.cwp r.toNat) {}
def setScalar (th : Thread) (r : BitVec 5) (c : Cell 32) : Thread :=
  { th with scal := put th.scal (scalarPlace th.cwp r.toNat) c }
def baseReg (th : Thread) (b : BitVec 3) : Cell 64 := lookD th.base b.toNat {}
def setBase (th : Thread) (b : BitVec 3) (c : Cell 64) : Thread := { th with base := put th.base b.toNat c }
def vecReg (th : Thread) (v : Nat) : Cell 256 := lookD th.vec v {}
def setVec (th : Thread) (v : Nat) (c : Cell 256) : Thread := { th with vec := put th.vec v c }
/-- `q0` reads all ones (R102). -/
def predReg (th : Thread) (q : BitVec 3) : Word := if q = 0 then BitVec.allOnes 32 else lookD th.pred q.toNat 0
/-- `q0` discards writes (R102). -/
def setPred (th : Thread) (q : BitVec 3) (x : Word) : Thread :=
  if q = 0 then th else { th with pred := put th.pred q.toNat x }

end Thread

/-- A register as TH_TVAL codes it for PRESENCE_EMPTY: the sreg field of R182. -/
def presenceCode (cls index : Nat) : DWord := BitVec.ofNat 64 (cls * 2 ^ 10 + index * 2 ^ 4)

/-! ## Neighbour ports (R107, R108) -/

/-- The core a port sends to: 24 north, 25 east, 26 south, 27 west; none at the die's edge in open mode. -/
def neighbour (core : Nat) (rseg : BitVec 4) (port : Nat) : Option Nat :=
  let die := core / 256
  let row := core % 256 / 16
  let col := core % 16
  let along (code pos : Nat) (up : Bool) : Option Nat :=
    if code = 0 then
      if up then (if pos < 15 then some (pos + 1) else none) else (if 0 < pos then some (pos - 1) else none)
    else
      let n := 2 ^ (code + 1)
      let g := pos - pos % n
      some (g + (pos - g + (if up then 1 else n - 1)) % n)
  let ew := rseg.toNat % 4
  let ns := rseg.toNat / 4
  match port with
  | 24 => (along ns row false).map (fun r => die * 256 + r * 16 + col)
  | 25 => (along ew col true).map (fun c => die * 256 + row * 16 + c)
  | 26 => (along ns row true).map (fun r => die * 256 + r * 16 + col)
  | 27 => (along ew col false).map (fun c => die * 256 + row * 16 + c)
  | _ => none

/-- The FIFO in which a word sent out of a port arrives: the opposite direction's (R108). FIFOs are numbered 0 north,
1 east, 2 south, 3 west. -/
def arrivesAt (port : Nat) : Nat := (port - 24 + 2) % 4

/-- The inbound FIFO of a port. -/
def Core.fifo (c : Core) (port : Nat) : List Word := lookD c.ports (port - 24) []

/-- The places in a port's FIFO from which a thread reads, in order (R107, R109): the words it has read in an instruction in
progress, then those that no instruction in progress has read. -/
def Core.readable (c : Core) (t port : Nat) : List Nat :=
  let held (i : Nat) (mine : Bool) : Bool := c.portHolds.any (fun h => h.1 == port - 24 && h.2.1 == i && (h.2.2 == t) == mine)
  let all := List.range (c.fifo port).length
  all.filter (fun i => held i true) ++ all.filter (fun i => !held i true && !held i false)

/-- The k-th word that a thread reads from a port. -/
def Core.portWord (c : Core) (t port k : Nat) : Option Word :=
  if c.portHolds.isEmpty then (c.fifo port)[k]? else (c.readable t port)[k]?.bind (fun i => (c.fifo port)[i]?)

/-- Word i of FIFO p leaves it. -/
def Core.removeWord (c : Core) (p i : Nat) : Core :=
  { c with ports := put c.ports p (removeAt (lookD c.ports p []) i),
           portHolds := (c.portHolds.filter (fun h => !(h.1 == p && h.2.1 == i))).map
             (fun h => if h.1 == p && i < h.2.1 then (h.1, h.2.1 - 1, h.2.2) else h) }

/-- The words an instruction has read leave their FIFOs when it completes (R109). -/
def popPort (s : State) (r : BitVec 5) : State :=
  if isPort r then
    let c := s.core s.myCore
    let i := if c.portHolds.isEmpty then 0 else (c.readable s.cur r.toNat).head?.getD (c.fifo r.toNat).length
    s.setCore s.myCore (c.removeWord (r.toNat - 24) i)
  else s

/-- An instruction in progress keeps the port words it has read for itself until it completes (R107, R109). -/
def holdPorts (s : State) (rs : List (BitVec 5)) : State :=
  let c := s.core s.myCore
  let ports := (rs.filter isPort).map (·.toNat)
  let new := ports.eraseDups.flatMap (fun p =>
    ((c.readable s.cur p).take (ports.filter (· == p)).length).map (fun i => (p - 24, i, s.cur)))
  if new.isEmpty then s
  else s.setCore s.myCore { c with portHolds := c.portHolds.filter (fun h => h.2.2 != s.cur) ++ new }

/-! ## Words of TH_STAT and TH_CAUSE (R319, R376) -/

def Mode.code : Mode → BitVec 2
  | .u => 0
  | .s => 1
  | .m => 2

/-- The mode of a two-bit code; XRET takes the codes above M as the highest mode it may return to. -/
def Mode.ofCode (c : BitVec 2) : Mode :=
  match c with
  | 0 => .u
  | 1 => .s
  | _ => .m

/-- The lesser of two modes in the order U, S, M (R7). -/
def Mode.min (a b : Mode) : Mode := if a.code.toNat ≤ b.code.toNat then a else b

/-- Whether mode a has the rights of mode b (R7). -/
def Mode.covers (a b : Mode) : Bool := b.code.toNat ≤ a.code.toNat

def bit (b : Bool) : BitVec 1 := if b then 1 else 0

/-- TH_STAT as it reads (R106, R319). -/
def statWord (th : Thread) (t : Nat) : Word :=
  th.mode.code ++ bit th.plen ++ bit th.inpl ++ bit th.inup ++ (0 : BitVec 3) ++ BitVec.ofNat 12 t ++ (0 : BitVec 10) ++
    bit th.cwoob ++ bit th.ptrap

/-- The cause codes (R375). -/
def Cause.code : Cause → BitVec 6
  | .illegalInstr => 0x00 | .privInstr => 0x01 | .illegalOperand => 0x02 | .breakpoint => 0x03 | .svcCall => 0x04
  | .monitorCall => 0x05 | .windowOverflow => 0x06 | .windowUnderflow => 0x07 | .paramUnbound => 0x08
  | .translationFault => 0x10 | .permissionFault => 0x11 | .subpageFault => 0x12 | .misaligned => 0x13
  | .lsWindowFault => 0x14 | .storeFault => 0x15 | .feHost => 0x16 | .crangeConflict => 0x17 | .linkFault => 0x18
  | .memUncorrectable => 0x19 | .presenceEmpty => 0x20 | .sendStall => 0x21 | .barrierFault => 0x22
  | .reservationState => 0x23 | .leaseEvicted => 0x30 | .copyFault => 0x31 | .carStaleName => 0x32
  | .carSetFull => 0x33 | .carCollision => 0x34 | .sealFail => 0x38 | .saveStale => 0x39 | .machineCheck => 0x3A

/-- The causes delivered to the monitor (path M of R375). -/
def Cause.toMonitor : Cause → Bool
  | .monitorCall | .sealFail | .saveStale | .machineCheck => true
  | _ => false

/-- TH_CAUSE as a trap writes it (R376). -/
def causeWord (th : Thread) (posted upf : Bool) (code : BitVec 12) (c : Cause) : Word :=
  th.mode.code ++ bit th.plen ++ bit posted ++ bit upf ++ (0 : BitVec 3) ++ code ++ (0 : BitVec 6) ++ c.code

/-! ## Completing, stalling, abandoning -/

/-- The address of the next instruction (R165). -/
def nextPc (pc : DWord) : DWord := pc + 4

/-- The slot is free for its next instruction. -/
def Thread.release (th : Thread) : Thread := { th with stalled := false, wait := .idle }

/-- The issuing instruction completes and the slot goes on at `pc`. -/
def completeAt (s : State) (pc : DWord) : State := s.setTh { s.th.release with pc := pc }

/-- The issuing instruction completes. -/
def complete (s : State) : State := completeAt s (nextPc s.th.pc)

/-- The issuing instruction holds its slot; the cycle is a bubble (R195). -/
def holdSlot (s : State) : State := s.setTh { s.th with stalled := true }

/-- The registrations of a thread at all places are dropped (R229, R241). -/
def unregister (s : State) (t : Nat) : State :=
  let keep (l : List Sleeper) := l.filter (fun x => x.thread != t)
  { s with
    clusters := s.clusters.map (fun p => (p.1, { p.2 with parked := keep p.2.parked, watchers := keep p.2.watchers })),
    bridge := { s.bridge with parked := keep s.bridge.parked, watchers := keep s.bridge.watchers } }

/-- What a thread has asked and not been answered is taken back: a SEND on its way, its questions to barriers (R371). -/
def withdraw (s : State) (t : Nat) : State :=
  let bar (b : Barrier) : Barrier :=
    { b with expects := b.expects.filter (fun x => x.1 != t), waits := b.waits.filter (fun x => x.1 != t),
             tests := b.tests.filter (· != t) }
  { s with
    mails := s.mails.filter (fun m => !(m.tag.isNone && m.msg.sender == t)),
    clusters := s.clusters.map (fun p => (p.1, { p.2 with barriers := p.2.barriers.map (fun q => (q.1, bar q.2)) })) }

/-- The port words that an instruction has read stay for others when it is abandoned (R109). -/
def unholdPorts (s : State) (t : Nat) : State :=
  let c := s.core (coreOf t)
  if c.portHolds.isEmpty then s else s.setCore (coreOf t) { c with portHolds := c.portHolds.filter (fun h => h.2.2 != t) }

/-- The misses of a level without some waiters: a request that has gone outward stays. -/
def dropWaiters (p : Waiter → Bool) (l : List Miss × List MissWait) : List Miss × List MissWait :=
  (l.1.map (fun m => { m with waiters := m.waiters.filter (fun w => !p w) }), l.2.filter (fun w => !p w.waiter))

/-- A thread, or an operation, waits for no translation any more, where it began to, and the notes of absent pages for its
accesses are forgotten: a new access asks again (R18). -/
def forgetWaiter (s : State) (core : Nat) (p : Waiter → Bool) : State :=
  let c := s.core core
  let l := dropWaiters p (c.misses, c.missWaits)
  s.setCore core { c with absent := c.absent.filter (fun x => !p x.1), misses := l.1, missWaits := l.2 }

def forgetNotes (s : State) (t : Nat) : State := forgetWaiter s (coreOf t) (fun w => w == .thread t || w == .lineOp t)

/-- The same of a copy request or an engine's operation of a core, which begins at the cluster (R91). -/
def forgetAgent (s : State) (core : Nat) (w : Waiter) : State :=
  let s := forgetWaiter s core (· == w)
  let x := s.cluster (clusterOf core)
  let l := dropWaiters (· == w) (x.misses, x.missWaits)
  s.setCluster (clusterOf core) { x with misses := l.1, missWaits := l.2 }

/-- The Wait a thread is in is abandoned (R371, R384, R389): its registrations go, its instruction will start afresh. -/
def abandon (s : State) (t : Nat) : State :=
  let s := unholdPorts (forgetNotes (withdraw (unregister s t) t) t) t
  s.setThread t { (s.thread t).release with halted := false }

/-! ## The window (R97 to R101) -/

/-- The key of byte `off` of bank 14 of a core (R94). -/
def bank14Key (core off : Nat) : Nat := localKey core (14 * 0x4000 + off)

/-- The pitch counter: 64 bits (R2). -/
def pitchCounter (s : State) : DWord := BitVec.ofNat 64 s.pitch

/-- Limits that break R100. -/
def windowBad (th : Thread) : Bool :=
  decide (th.wsptr < th.wsbase) || decide (th.wslim < th.wsptr) || decide (0x4000 < th.wslim.toNat)

/-- Whether frames are spilled: TH_WSPTR is away from TH_WSBASE. Where it lies below, the limits are bad (R100). -/
def spilledExist (th : Thread) : Bool := th.wsptr != th.wsbase

/-- The places of the 16 registers of the frame at a ring position. -/
def framePlaces (pos : BitVec 3) : List Nat := (List.range 16).map (fun i => 16 * pos.toNat + i)

/-- Whether a register of the frame awaits a producer in flight. -/
def frameBusy (th : Thread) (pos : BitVec 3) : Bool := (framePlaces pos).any (fun p => (lookD th.scal p {}).busy)

/-- The ring position of the oldest resident frame. -/
def oldestPos (th : Thread) : BitVec 3 := th.cwp - BitVec.ofNat 3 (th.resident - 1)

/-- The 80 bytes of a frame's image, as a number (R99). An upcall frame's return PC is its a2 ‖ a1 (R380). -/
def frameImage (th : Thread) (pos : BitVec 3) : Nat :=
  let regs := ((List.range 16).map (fun i => (lookD th.scal (16 * pos.toNat + i) {}).val.toNat * 2 ^ (32 * i))).sum
  let full := ((List.range 16).map (fun i => if (lookD th.scal (16 * pos.toNat + i) {}).full then 2 ^ i else 0)).sum
  let info : FrameInfo := lookD th.frames pos.toNat {}
  let a (i : Nat) := (lookD th.scal (16 * pos.toNat + i) {}).val
  let retPc : DWord := if info.kind = 3 then a 2 ++ a 1 else info.retPc
  regs + retPc.toNat * 2 ^ 512 + full * 2 ^ 576 + info.kind.toNat * 2 ^ 592

/-- Writing n bytes of a number, lowest first, over whatever was there. -/
def memPutNat (m : List Host.Cell) (k : Nat) : Nat → Nat → List Host.Cell
  | 0, _ => m
  | n + 1, v => memPutNat (memSet m k (BitVec.ofNat 8 v)) (k + 1) n (v / 256)

/-- Reading n bytes as a number, lowest first. -/
def memGetNat (m : List Host.Cell) (k : Nat) : Nat → Nat
  | 0 => 0
  | n + 1 => (memByte m k).toNat + 256 * memGetNat m (k + 1) n

/-- The spill of the oldest resident frame: the image goes to TH_WSPTR, which rises by 80 (R98, R100). -/
def spillFrame (s : State) (t : Nat) : State :=
  let th := s.thread t
  let s' := { s with mem := memPutNat s.mem (bank14Key (coreOf t) th.wsptr.toNat) 80 (frameImage th (oldestPos th)) }
  s'.setThread t { th with wsptr := th.wsptr + 80, resident := th.resident - 1 }

/-- The registers of a frame image at a ring position (R99). -/
def loadFrame (scal : AMap (Cell 32)) (pos : BitVec 3) (image : Nat) : Nat → AMap (Cell 32)
  | 0 => scal
  | n + 1 =>
    let i := 15 - n
    loadFrame (put scal (16 * pos.toNat + i)
      { val := BitVec.ofNat 32 (image / 2 ^ (32 * i)), full := image / 2 ^ (576 + i) % 2 == 1 }) pos image n

/-- The address in the local window of a byte of a core. -/
def windowAddr (st : State) (vi : BitVec 10) (core off : Nat) : DWord :=
  ((st.viOf vi.toNat).lswin >>> 28 <<< 28) + BitVec.ofNat 64 (core * 2 ^ 18 + off)

/-- Whether the image of the most recent spilled frame touches a line with an uncorrectable error (R428), and its address. -/
def frameBad (s : State) (t : Nat) : Bool :=
  let k := bank14Key (coreOf t) ((s.thread t).wsptr - 80).toNat
  s.bridge.poisoned.contains (k / 64) || s.bridge.poisoned.contains ((k + 79) / 64)

/-- The fill of the most recent spilled frame: TH_WSPTR falls by 80 and the image there is read (R98, R100). A PC is a multiple
of 4 (R165): bits [1:0] of the image's return PC are not taken (log entry 65). DESIGN CHOICE (log entry 77): TH_WSPTR falls modulo
2^15 and the image is read where it then points, below TH_WSBASE too. -/
def fillFrame (s : State) (t : Nat) : State :=
  let th := s.thread t
  let at_ := th.wsptr - 80
  let image := memGetNat s.mem (bank14Key (coreOf t) at_.toNat) 80
  let pos := th.cwp - BitVec.ofNat 3 th.resident
  s.setThread t { th with
    wsptr := at_, resident := th.resident + 1, scal := loadFrame th.scal pos image 16,
    frames := put th.frames pos.toNat
      { retPc := BitVec.ofNat 64 (image / 2 ^ 512) &&& ~~~3, kind := BitVec.ofNat 2 (image / 2 ^ 592) } }

/-- A spill that R100 lets be made: limits in order and room for the image. -/
def spillFits (th : Thread) : Bool := !windowBad th && decide (th.wsptr.toNat + 80 ≤ th.wslim.toNat)

/-- R98 for an instruction that rotates by +16: with four frames resident the oldest is spilled first, which may have to
wait for producers in flight to it, and traps where R100 says so. -/
def spillIfNeeded (s : State) : Eff State :=
  let th := s.th
  if th.resident < 4 then .ok s
  else if !spillFits th then
    .error (.trap s { cause := .windowOverflow, tval := th.wsptr.setWidth 64 })
  else if frameBusy th (oldestPos th) then .error (.stall s)
  else .ok (spillFrame s s.cur)

/-- Fresh registers `w0` to `w11` and `k0` to `k3` of a new frame: full, with unspecified values (R97). -/
def freshen (scal : AMap (Cell 32)) (pos : BitVec 3) (drawn : Nat) : AMap (Cell 32) :=
  ((List.range 12).map (fun i => 16 * pos.toNat + 4 + i) ++ (List.range 4).map (fun i => 16 * (pos + 1).toNat + i)).zipIdx.foldl
    (fun m p => put m p.1 { val := Config.freshRegister (drawn + p.2) }) scal

/-- Rotation by +16: the caller's `k0`–`k3` become the new frame's `a0`–`a3` (R97). -/
def rotateIn (s : State) (info : FrameInfo) : State :=
  let th := s.th
  let pos := th.cwp + 1
  { s.setTh { th with cwp := pos, resident := th.resident + 1, scal := freshen th.scal pos s.drawn,
                      frames := put th.frames pos.toNat info } with drawn := s.drawn + 16 }

/-- Rotation by −16: the callee's `a0`–`a3` are the caller's `k0`–`k3` again (R97). -/
def rotateOut (th : Thread) : Thread := { th with cwp := th.cwp - 1, resident := th.resident - 1 }

/-- The newest frame. -/
def topFrame (th : Thread) : FrameInfo := lookD th.frames th.cwp.toNat {}

/-! ## Taking an exception -/

/-- Whether a thread's slot runs for a protected context: its bit is set in a valid MN_PENT_n (R410, R411). -/
def protectedThread (s : State) (t : Nat) : Bool :=
  (s.core (coreOf t)).pent.any (fun p => p.2.getLsbD 0 && p.2.getLsbD (40 + slotOf t))

/-- Entry to the executive (R377). -/
def enterExecutive (s : State) (t : Nat) (restart : DWord) (r : TrapReq) (upf : Bool) : State :=
  let th := s.thread t
  s.setThread t { th with
    epc := restart, cause := causeWord th r.posted upf r.code r.cause, tval := r.tval,
    mode := .s, plen := false, pc := (s.viOf th.vi.toNat).tvec }

/-- What the monitor's registers of a slot hold (R377). -/
def setMonitorRegs (c : Core) (slot : Nat) (pc : DWord) (cause : Word) (tval : DWord) : Core :=
  { c with mnepc := put c.mnepc slot pc, mncause := put c.mncause slot cause, mntval := put c.mntval slot tval }

/-- Entry to the monitor, through MN_VEC and the slot's MN_EPC, MN_CAUSE and MN_TVAL (R377). -/
def enterMonitor (s : State) (t : Nat) (restart : DWord) (r : TrapReq) (upf : Bool := false) : State :=
  let th := s.thread t
  let c := s.core (coreOf t)
  let s' := s.setCore (coreOf t) (setMonitorRegs c (slotOf t) restart (causeWord th r.posted upf r.code r.cause) r.tval)
  s'.setThread t { th with mode := .m, plen := false, pc := c.mnvec }

/-- Whether R380 delivers the fault as an upcall. The notices awaited are one for each page that has upcalls waiting (R382). -/
def upcallable (th : Thread) (isProtected : Bool) : Bool :=
  th.upvec.getLsbD 0 && th.mode == .u && !th.inup && !th.inpl && decide ((th.awaited.map (·.2)).eraseDups.length < 8) &&
    (decide (th.resident < 4) || spillFits th) && !isProtected

/-- The upcall of R380. It may have to wait for producers in flight to the frame it spills or to `k0`–`k3`; `none` says
that it waits. `page` is the 4 KiB page whose notice the token stands for. -/
def enterUpcall (s : State) (restart : DWord) (r : TrapReq) : Option State :=
  let th := s.th
  if (List.range 4).any (fun i => (lookD th.scal (16 * (th.cwp + 1).toNat + i) {}).busy) then none
  else if th.resident ≥ 4 && frameBusy th (oldestPos th) then none
  else
    let s := if th.resident < 4 then s else spillFrame s s.cur
    let s := rotateIn s { retPc := restart, kind := 3 }
    let th := s.th
    let tok := th.tok + 1
    let a (i : Nat) := lookD th.scal (16 * th.cwp.toNat + i) {}
    let setAt (m : AMap (Cell 32)) (i : Nat) (c : Cell 32) := put m (16 * th.cwp.toNat + i) c
    let saved := (List.range 4).foldl (fun m i => setAt m (12 + i) (a i)) th.scal
    let a0 : Word := tok.setWidth 32 ||| (r.cause.code.setWidth 32 <<< 8) ||| ((bit r.fetch).setWidth 32 <<< 14)
    let scal := setAt (setAt (setAt (setAt saved 0 { val := a0 }) 1 { val := restart.setWidth 32 })
      2 { val := (restart >>> 32).setWidth 32 }) 3 { val := 0 }
    some (s.setTh { th.release with
      scal := scal, tok := tok, inup := true, tval := r.tval, awaited := th.awaited ++ [(tok, r.tval.toNat / 4096)],
      pc := th.upvec &&& ~~~3 })

/-- A trap of a thread at a restart point: to the monitor on path M, from M mode and for a protected context, else to
the executive (R375, R377, R412). -/
def trapThread (s : State) (t : Nat) (restart : DWord) (r : TrapReq) (upf : Bool) : State :=
  let s := abandon s t
  if r.cause.toMonitor || (s.thread t).mode == .m || protectedThread s t then enterMonitor s t restart r upf
  else enterExecutive s t restart r upf

/-- The trap of the issuing instruction, as an upcall where R380 makes it one. A fetch whose upcall has to wait is made again.
A TRANSLATION_FAULT that is not delivered as an upcall sets UPF (R376). -/
def takeTrap (s : State) (r : TrapReq) : State :=
  let th := s.th
  let restart := if r.next then nextPc th.pc else th.pc
  if r.upcall && upcallable th (protectedThread s s.cur) then
    match enterUpcall s restart r with
    | some s' => unholdPorts (forgetNotes s' s'.cur) s'.cur
    | none => if r.fetch then s else holdSlot s
  else trapThread s s.cur restart r (r.cause == .translationFault)

/-- The registers that were hidden from the executive are back. -/
def Thread.unveil (th : Thread) : Thread :=
  match th.veil with
  | some v => { th with scal := v.scal, cwp := v.cwp, resident := v.resident, frames := v.frames, wsptr := v.wsptr,
                        base := v.base, vec := v.vec, pred := v.pred, shadow := v.shadow, veil := none }
  | none => th

/-- XRET (R313, R377): back to the mode and the point that the current mode's registers hold, never above the issuing
mode. The executive's return of a protected thread to U mode goes through the monitor, which gives it its registers back (R412). -/
def returnFromTrap (s : State) : State :=
  let th := s.th
  if th.mode == .m then
    let c := s.core s.myCore
    let cause := lookD c.mncause (slotOf s.cur) 0
    s.setTh { th.release with pc := lookD c.mnepc (slotOf s.cur) 0, mode := Mode.ofCode (BitVec.ofNat 2 (cause.toNat / 2 ^ 30)),
                              plen := cause.getLsbD 29 }
  else
    let mode := (Mode.ofCode (BitVec.ofNat 2 (th.cause.toNat / 2 ^ 30))).min .s
    let back := if mode = .u then th.unveil else th
    s.setTh { back.release with pc := th.epc, mode := mode, plen := th.cause.getLsbD 29 }

end Sys2Proof.Machine
end

