-- ==== Sys2Proof/Machine/Operands.lean ====
section
/-!
DEFINITION. Sys2Proof/Machine/Operands.lean: the operand forms: reads under the presence rules of R105, writes under R104
and R107, the effective address of R11, the lanes of a vector register, and how a meaning ends.
-/

namespace Sys2Proof.Machine

/-! ## Ends of a meaning -/

/-- A meaning's outcome: the instruction completes, holds its slot, or traps. -/
def finish (r : Eff State) : Host.Outcome State Fault Refusal :=
  match r with
  | .ok s => .next s
  | .error (.stall s) | .error (.blocked s) => .next (holdSlot s)
  | .error (.trap s t) => .next (takeTrap s t)

/-- The same of an instruction that reads some ports: where it waits once its sources are read, it keeps their words (R107,
R109; log entry 60). -/
def finishKeeping (rs : List (BitVec 5)) (r : Eff State) : Host.Outcome State Fault Refusal :=
  finish (match r with
    | .error (.stall s) => .error (.stall (holdPorts s rs))
    | r => r)

/-- ILLEGAL_OPERAND, with the instruction word (R375). -/
def illegalOperand (s : State) : Stop := .trap s { cause := .illegalOperand, tval := s.th.ir.setWidth 64 }

/-- MISALIGNED, with the address (R218, R375). -/
def misaligned (s : State) (a : DWord) : Stop := .trap s { cause := .misaligned, tval := a }

/-- The trap where a condition does not hold. -/
def require (c : Bool) (e : Stop) : Eff Unit := if c then .ok () else .error e

/-- RET and UPRET that fill a spilled frame from a line with an uncorrectable error fault as a load of it would (R428, log
entry 59). -/
def frameReadable (s : State) : Eff Unit :=
  let va := windowAddr s s.th.vi (coreOf s.cur) (14 * 0x4000 + (s.th.wsptr - 80).toNat)
  require (!frameBad s s.cur) (.trap s { cause := .memUncorrectable, tval := va })

/-- The instruction waits until a condition holds (R195). -/
def waitFor (c : Bool) (s : State) : Eff Unit := if c then .ok () else .error (.stall s)

/-- PRIV_INSTR below the lowest mode of R182 and R315, with the instruction word. -/
def needMode (s : State) (low : Mode) : Eff Unit :=
  require (s.th.mode.covers low) (.trap s { cause := .privInstr, tval := s.th.ir.setWidth 64 })

/-- A trap of some part of an instruction leaves the state the instruction began in (R183). -/
def trapIn {α : Type} (s : State) (r : Eff α) : Eff α :=
  match r with
  | .error (.trap _ t) => .error (.trap s t)
  | r => r

/-! ## Reads (R105) -/

/-- An empty source blocks, or traps with PRESENCE_EMPTY. -/
def emptySource (s : State) (traps : Bool) (cls index : Nat) : Stop :=
  if traps then .trap s { cause := .presenceEmpty, tval := presenceCode cls index } else .blocked s

/-- How many of the sources read before this one are the same port: each read pops its own word (R107). -/
def earlierReads (earlier : List (BitVec 5)) (r : BitVec 5) : Nat := (earlier.filter (· == r)).length

/-- A scalar source. `k` words of the same port have been read before it in this instruction. The word of a port stays
in its FIFO until the instruction completes (R109). -/
def readX (s : State) (r : BitVec 5) (traps : Bool) (k : Nat := 0) : Eff Word :=
  if r = 0 then .ok 0
  else if isPort r then
    let c := s.core s.myCore
    match neighbour s.myCore c.rseg r.toNat with
    | none => .error (illegalOperand s)
    | some _ =>
      match c.portWord s.cur r.toNat k with
      | some w => .ok w
      | none => .error (emptySource s traps 0 r.toNat)
  else
    let c := s.th.scalar r
    if c.full then .ok c.val else .error (emptySource s traps 0 r.toNat)

/-- A source under its t bit. -/
def readT (s : State) (r : BitVec 5) (t : BitVec 1) (k : Nat := 0) : Eff Word := readX s r (t == 1) k

/-- A source under TH_STAT.PTRAP. -/
def readP (s : State) (r : BitVec 5) (k : Nat := 0) : Eff Word := readX s r s.th.ptrap k

/-- A base register source; `b0` reads zero and is full (R102). -/
def readB (s : State) (b : BitVec 3) (traps : Bool) : Eff DWord :=
  if b = 0 then .ok 0
  else
    let c := s.th.baseReg b
    if c.full then .ok c.val else .error (emptySource s traps 2 b.toNat)

/-- A vector source, under TH_STAT.PTRAP (R245). -/
def readV (s : State) (v : Nat) : Eff VWord :=
  let c := s.th.vecReg v
  if c.full then .ok c.val else .error (emptySource s s.th.ptrap 1 v)

/-! ## Writes (R104, R107) -/

/-- A scalar result: discarded for `z`, pushed to the neighbour for a port, else written once no producer is in flight. It
leaves the presence bit as it is: only an arrival, RPUT or PSET fills a register that PCLR has emptied (R243). -/
def writeX (s : State) (r : BitVec 5) (v : Word) : Eff State :=
  if r = 0 then .ok s
  else if isPort r then
    match neighbour s.myCore (s.core s.myCore).rseg r.toNat with
    | none => .error (illegalOperand s)
    | some n =>
      let c := s.core n
      let q := lookD c.ports (arrivesAt r.toNat) []
      if q.length < Config.portWords then .ok (s.setCore n { c with ports := put c.ports (arrivesAt r.toNat) (q ++ [v]) })
      else .error (.stall s)
  else if (s.th.scalar r).busy then .error (.stall s)
  else .ok (s.setTh (s.th.setScalar r { s.th.scalar r with val := v }))

/-- A base register result; `b0` discards it (R102). -/
def writeB (s : State) (b : BitVec 3) (v : DWord) : Eff State :=
  if b = 0 then .ok s
  else if (s.th.baseReg b).busy then .error (.stall s)
  else .ok (s.setTh (s.th.setBase b { s.th.baseReg b with val := v }))

/-- A vector result, once no producer is in flight (R245). -/
def writeV (s : State) (v : Nat) (x : VWord) : Eff State :=
  if (s.th.vecReg v).busy then .error (.stall s)
  else .ok (s.setTh (s.th.setVec v { s.th.vecReg v with val := x }))

/-- The ports an instruction has read lose their words and the instruction completes (R109). -/
def completeReading (s : State) (rs : List (BitVec 5)) : State := complete (rs.foldl popPort s)

/-! ## Producers (R104) -/

/-- A register of a long-latency producer: empty and awaiting the arrival; `z` and `b0` are none. -/
def claim (th : Thread) (r : RegRef) : Thread :=
  match r with
  | .scalar p => { th with scal := put th.scal p { lookD th.scal p {} with full := false, busy := true } }
  | .vec n => { th with vec := put th.vec n { lookD th.vec n {} with full := false, busy := true } }
  | .base n => { th with base := put th.base n { lookD th.base n {} with full := false, busy := true } }

/-- Whether a register awaits a producer. -/
def refBusy (th : Thread) (r : RegRef) : Bool :=
  match r with
  | .scalar p => (lookD th.scal p {}).busy
  | .vec n => (lookD th.vec n {}).busy
  | .base n => (lookD th.base n {}).busy

/-- The place of a scalar destination, none for `z`. -/
def scalarRef (th : Thread) (r : BitVec 5) : List RegRef := if r = 0 then [] else [.scalar (scalarPlace th.cwp r.toNat)]

/-- A producer takes its destinations: it waits for earlier producers to them and marks them empty. -/
def launch (s : State) (p : Producer) : Eff State :=
  if p.landings.any (fun l => refBusy s.th l.reg) then .error (.stall s)
  else if p.landings.isEmpty && p.flags == 0 && p.ready then .ok s
  else
    let th := p.landings.foldl (fun th l => claim th l.reg) s.th
    .ok (s.setTh { th with producers := th.producers ++ [p] })

/-- A register takes an arriving value in the bits of the mask and becomes full. -/
def land (th : Thread) (l : Landing) : Thread :=
  match l.reg with
  | .scalar p =>
    let c := lookD th.scal p {}
    let m := l.mask.setWidth 32
    { th with scal := put th.scal p { val := (c.val &&& ~~~m) ||| (l.value.setWidth 32 &&& m) } }
  | .vec n =>
    let c := lookD th.vec n {}
    { th with vec := put th.vec n { val := (c.val &&& ~~~l.mask) ||| (l.value &&& l.mask) } }
  | .base n =>
    let c := lookD th.base n {}
    let m := l.mask.setWidth 64
    { th with base := put th.base n { val := (c.val &&& ~~~m) ||| (l.value.setWidth 64 &&& m) } }

/-- FLAGS of completed operations not yet joined. -/
def Lease.flags (l : Lease) : BitVec 9 := l.done.foldl (fun f o => f ||| o.2) 0

/-- The flags of `ec13` as bits of TH_FFLAGS (R153). -/
def ffOf (f : BitVec 9) : BitVec 11 :=
  f.extractLsb' 4 5 ++ (0 : BitVec 1) ++ f.extractLsb' 3 1 ++ (0 : BitVec 1) ++ f.extractLsb' 0 3
def ecFlags (f : BitVec 11) : BitVec 9 := f.extractLsb' 6 5 ++ f.extractLsb' 4 1 ++ f.extractLsb' 0 3

/-- The join of a thread with the completed operations of a slot (R267). -/
def joinLease (th : Thread) (e : Nat) : Thread :=
  let l : Lease := lookD th.leases e {}
  { th with fflags := th.fflags ||| ffOf l.flags, leases := put th.leases e { l with done := [] } }

/-- The join of a thread with every completed operation of its leases (R149). -/
def joinLeases (th : Thread) : Thread := th.leases.foldl (fun th l => joinLease th l.1) th

/-- A geometry register of a slot as it reads (R152, R153, R272). -/
def ecRead (l : Lease) (k : Nat) : Word :=
  if k < 12 then lookD l.ec k 0
  else if k = 12 then l.pos
  else if k = 13 then
    let running := (l.ops.head?.map (·.flags)).getD 0
    (0 : BitVec 10) ++ l.fcause ++ (0 : BitVec 7) ++ (l.flags ||| running)
  else if k = 14 then l.fva.setWidth 32
  else if k = 15 then (l.fva >>> 32).setWidth 32
  else 0

/-- The arrival of producer k of a thread (R104). An EGET's register is read then. -/
def arrive (s : State) (t k : Nat) : Option State :=
  let th := s.thread t
  match th.producers[k]? with
  | some p =>
    if p.ready then
      let p := match p.geom with
        | some (e, i) =>
          { p with landings := p.landings.map (fun (l : Landing) => { l with value := (ecRead (lookD th.leases e {}) i).setWidth 256 }) }
        | none => p
      let th := p.landings.foldl land { th with producers := removeAt th.producers k }
      let c := s.core (coreOf t)
      let s := if p.clock = 0 then s else s.setCore (coreOf t) { c with clock := max c.clock p.clock }
      some (s.setThread t { th with fflags := th.fflags ||| p.flags })
    else none
  | none => none

/-! ## Addresses (R11, R168) -/

/-- EA := (B[b] + ZeroExtend64(X[idx]) + SignExtend64(imm)) mod 2^64. -/
def effAddr (base : DWord) (index : Word) (imm : Int) : DWord := base + index.setWidth 64 + BitVec.ofInt 64 imm

/-- PC + 4 × SignExtend64(off) (R165). -/
def pcRelative {w : Nat} (pc : DWord) (off : BitVec w) : DWord := pc + 4 * off.signExtend 64

/-! ## Lanes (R244) -/

/-- Lane i of width w. -/
def lane (v : VWord) (w i : Nat) : Nat := v.toNat / 2 ^ (w * i) % 2 ^ w

/-- A vector from its lanes of width w, the first lowest. -/
def ofLanes (w : Nat) : List Nat → Nat
  | [] => 0
  | x :: xs => x % 2 ^ w + 2 ^ w * ofLanes w xs

/-- A lane as a signed number. -/
def signed (w x : Nat) : Int := if x < 2 ^ (w - 1) then (x : Int) else (x : Int) - 2 ^ w

/-- A signed number as a lane. -/
def unsigned (w : Nat) (x : Int) : Nat := (x % (2 ^ w : Int)).toNat

/-- Lanewise results under a predicate: an inactive lane keeps its value in `old` (R245). -/
def mergeLanes (w : Nat) (q : Word) (old : VWord) (f : Nat → Nat) : VWord :=
  BitVec.ofNat 256 (ofLanes w ((List.range (256 / w)).map (fun i => if q.getLsbD i then f i else lane old w i)))

end Sys2Proof.Machine
end

