-- ==== Sys2Proof/Machine/Flags.lean ====
section
/-!
DEFINITION. Sys2Proof/Machine/Flags.lean: the flags of TH_FFLAGS (R132) and how operations raise them (R138, R245).
-/

namespace Sys2Proof.Machine

/-- The flags of TH_FFLAGS, RANGE at bit 10 down to NX at bit 0 (R132). -/
structure Raised where
  range : Bool := false
  spill : Bool := false
  rcode : Bool := false
  nmap : Bool := false
  satd : Bool := false
  nv : Bool := false
  dz : Bool := false
  of : Bool := false
  uf : Bool := false
  nx : Bool := false
deriving DecidableEq, Repr

namespace Raised

/-- The union of two sets of flags. -/
def or (a b : Raised) : Raised :=
  { range := a.range || b.range, spill := a.spill || b.spill, rcode := a.rcode || b.rcode, nmap := a.nmap || b.nmap,
    satd := a.satd || b.satd, nv := a.nv || b.nv, dz := a.dz || b.dz, of := a.of || b.of, uf := a.uf || b.uf,
    nx := a.nx || b.nx }

/-- The bits of TH_FFLAGS. -/
def word (r : Raised) : BitVec 11 :=
  bit r.range ++ bit r.spill ++ bit r.rcode ++ bit r.nmap ++ bit r.satd ++ (0 : BitVec 1) ++ bit r.nv ++ bit r.dz ++
    bit r.of ++ bit r.uf ++ bit r.nx

end Raised

/-- Flags are sticky: an instruction ORs what it raises into TH_FFLAGS (R132). -/
def raise (s : State) (r : Raised) : State := s.setTh { s.th with fflags := s.th.fflags ||| r.word }

end Sys2Proof.Machine
end

