-- ==== Sys2Proof/Machine/Format.lean ====
section
/-!
DEFINITION. Sys2Proof/Machine/Format.lean: the number formats of R111 to R129, rounding by R130, R133 and R134, and
conversion by R135 to R137. Values are exact: a finite value is an integer times a power of two, with a mark for values
that lie strictly between two such (quotients, roots, LOG8).
-/

namespace Sys2Proof.Machine

namespace Num
def zero (neg : Bool) : Num := .fin neg 0 0 false
def quietNaN : Num := .nan false false 0 11
def isNaN : Num → Bool
  | .nan .. => true
  | _ => false
def isInf : Num → Bool
  | .inf _ => true
  | _ => false
def isSig : Num → Bool
  | .nan _ sig _ _ => sig
  | _ => false
def isNeg : Num → Bool
  | .nan n _ _ _ => n
  | .inf n => n
  | .fin n _ _ _ => n
def isZero : Num → Bool
  | .fin _ m _ st => m == 0 && !st
  | _ => false
def ofInt (x : Int) : Num := .fin (decide (x < 0)) x.natAbs 0 false
end Num

/-- The number of significant bits. -/
def bitLen (m : Nat) : Nat := if m = 0 then 0 else m.log2 + 1

/-- 2^k for an integer k that is not negative, else 1. -/
def twoTo (k : Int) : Nat := 2 ^ k.toNat

/-! ## Formats -/

/-- The width in bits of one element of a format code; of one element of a block for the scaled formats (R111). Code 0
is the byte format. -/
def fmtBits (f : Nat) : Nat :=
  match f with
  | 1 => 32 | 2 => 16 | 3 => 16 | 4 => 8 | 5 => 8 | 6 => 4 | 7 => 4 | 8 => 2 | 9 => 1
  | 10 => 64 | 11 => 32 | 12 => 16 | 13 => 16 | 14 => 8 | 15 => 8 | 16 => 6 | 17 => 6 | 18 => 4 | 19 => 8
  | 20 => 8 | 21 => 16 | 22 => 24 | 23 => 8 | 24 => 4 | 25 => 8 | 26 => 8 | 27 => 6 | 28 => 4
  | _ => 8

/-- The scaled-block formats (R126). -/
def isScaled (f : Nat) : Bool := 23 ≤ f && f ≤ 28

/-- The element format of a scaled-block format (R126). -/
def elemFmt (f : Nat) : Nat :=
  match f with
  | 23 => 4 | 24 => 6 | 25 => 14 | 26 => 15 | 27 => 16 | 28 => 18
  | _ => f

/-- The bytes of one block, its scale byte last (R126). -/
def blockBytes (f : Nat) : Nat := 32 * fmtBits f / 8 + 1

/-- Integer formats: their least and greatest values (R113, R114, R123). TRN2 counts here; BIN1 does not. -/
def intRange (f : Nat) : Option (Int × Int) :=
  match f with
  | 1 => some (-2147483648, 2147483647)
  | 2 => some (-32768, 32767)
  | 3 => some (0, 65535)
  | 4 => some (-128, 127)
  | 5 => some (0, 255)
  | 6 => some (-8, 7)
  | 7 => some (0, 15)
  | 8 => some (-1, 1)
  | 20 => some (-52, 52)
  | 21 => some (-16368, 16367)
  | 22 => some (-1048512, 1048511)
  | _ => none

/-- The layout of a float format (R115 to R120): exponent bits, fraction bits, bias. `ieee` formats keep the top
exponent for infinities and NaNs; the others use it for numbers. -/
structure FloatFmt where
  ew : Nat
  fw : Nat
  bias : Nat
  ieee : Bool
deriving DecidableEq, Repr

def floatFmt (f : Nat) : Option FloatFmt :=
  match f with
  | 10 => some { ew := 11, fw := 52, bias := 1023, ieee := true }
  | 11 => some { ew := 8, fw := 23, bias := 127, ieee := true }
  | 12 => some { ew := 5, fw := 10, bias := 15, ieee := true }
  | 13 => some { ew := 8, fw := 7, bias := 127, ieee := true }
  | 14 => some { ew := 4, fw := 3, bias := 7, ieee := false }
  | 15 => some { ew := 5, fw := 2, bias := 15, ieee := true }
  | 16 => some { ew := 3, fw := 2, bias := 3, ieee := false }
  | 17 => some { ew := 2, fw := 3, bias := 1, ieee := false }
  | 18 => some { ew := 2, fw := 1, bias := 1, ieee := false }
  | _ => none

/-- The moduli of a residue format (R123). -/
def moduli (f : Nat) : List Nat :=
  match f with
  | 20 => [3, 5, 7]
  | 21 => [31, 32, 33]
  | 22 => [127, 128, 129]
  | _ => []

/-- The basis of the residue engine (R147). -/
def rxeModuli : List Nat := [31, 32, 33, 29, 37, 41, 43, 47]

/-- The width of the field of a residue modulus: 0 to m − 1 (R123). -/
def residueBits (m : Nat) : Nat := bitLen (m - 1)

/-- The inverse of a modulo m, by trial. -/
def invMod (a m : Nat) : Nat := ((List.range m).find? (fun x => a * x % m == 1 % m)).getD 0

/-- The unique x in 0 … M−1 with the given residues. -/
def crt (ms rs : List Nat) : Nat :=
  let big := ms.foldl (· * ·) 1
  ((ms.zip rs).map (fun p => p.2 * (big / p.1) * invMod (big / p.1 % p.1) p.1)).sum % big

/-- A number modulo M taken into the centred range (R123). -/
def centre (big x : Nat) : Int := if 2 * x < big then (x : Int) else (x : Int) - big

/-! ## Roots, for LOG8 and square roots -/

/-- The greatest r below 2^n with r^k ≤ x, bit by bit. -/
def rootBits (k x : Nat) : Nat → Nat → Nat
  | 0, acc => acc
  | n + 1, acc => if (acc + 2 ^ n) ^ k ≤ x then rootBits k x n (acc + 2 ^ n) else rootBits k x n acc

/-- floor(2^(r/8) · 2^p). -/
def eighthPower (r p : Nat) : Nat := rootBits 8 (2 ^ (r + 8 * p)) (p + 2) 0

/-! ## Decoding an element (R113 to R124) -/

/-- The value of an IEEE-like code. DESIGN CHOICE (log entry 68): the one NaN of a format without infinities (FP8A 0x80, FP6
0x20) is read as a positive quiet NaN, though the code's sign bit is 1; R122 sees that sign where it is stored into a format
that has no default NaN. -/
def decodeFloat (f : Nat) (d : FloatFmt) (c : Nat) : Num :=
  let frac := c % 2 ^ d.fw
  let ex := c / 2 ^ d.fw % 2 ^ d.ew
  let neg := c / 2 ^ (d.fw + d.ew) % 2 == 1
  if d.ieee && ex == 2 ^ d.ew - 1 then
    if frac = 0 then .inf neg
    else .nan neg (frac / 2 ^ (d.fw - 1) == 0) (frac % 2 ^ (d.fw - 1)) f
  else if !d.ieee && d.ew + d.fw ≥ 5 && c == 2 ^ (d.fw + d.ew) then .quietNaN
  else if ex = 0 then .fin neg frac (1 - (d.bias : Int) - d.fw) false
  else .fin neg (2 ^ d.fw + frac) ((ex : Int) - d.bias - d.fw) false

/-- The value of a LOG8 code (R121): exact where L is a multiple of 8, else with the mark. -/
def decodeLog8 (c : Nat) : Num :=
  if c = 0x80 then .zero false
  else
    let l := c % 128
    let q : Int := (l / 8 : Nat) - 8
    if l % 8 = 0 then .fin (c ≥ 128) 1 q false
    else .fin (c ≥ 128) (eighthPower (l % 8) 160) (q - 160) true

/-- The value of one element, and the flags of reading it (R135). -/
def decodeElem (f c : Nat) : Num × Raised :=
  let w := fmtBits f
  let c := c % 2 ^ w
  match floatFmt f with
  | some d => (decodeFloat f d c, {})
  | none =>
    if f = 19 then (decodeLog8 c, {})
    else if f = 8 then
      if c = 2 then (.zero false, { rcode := true }) else (.ofInt (if c = 3 then -1 else c), {})
    else if f = 9 then (.ofInt (if c = 1 then -1 else 1), {})
    else if f = 3 || f = 5 || f = 7 then (.ofInt c, {})
    else if 20 ≤ f && f ≤ 22 then
      let ms := moduli f
      let step (acc : Nat × List Nat) (m : Nat) : Nat × List Nat :=
        (acc.1 / 2 ^ residueBits m, acc.2 ++ [acc.1 % 2 ^ residueBits m])
      let (rest, rs) := ms.foldl step (c, [])
      if rest ≠ 0 || (ms.zip rs).any (fun p => decide (p.1 ≤ p.2)) then (.zero false, { rcode := true })
      else (.ofInt (centre (ms.foldl (· * ·) 1) (crt ms rs)), {})
    else (.ofInt (signed w c), {})

/-! ## Rounding (R130, R133, R134) -/

/-- Whether rounding by a mode moves the magnitude q up, with `rem` of `unit` left over and the mark `st`. -/
def roundsUp (mode : Nat) (neg : Bool) (q rem unit : Nat) (st : Bool) : Bool :=
  let inexact := rem ≠ 0 || st
  match mode with
  | 0 => decide (unit < 2 * rem) || (2 * rem == unit && (st || q % 2 == 1))
  | 1 => decide (unit ≤ 2 * rem) && unit ≠ 0
  | 3 => !neg && inexact
  | 4 => neg && inexact
  | _ => false

/-- A magnitude rounded to a multiple of 2^l: the multiple, and whether it is inexact. -/
def roundAt (mode : Nat) (neg : Bool) (m : Nat) (e : Int) (st : Bool) (l : Int) : Nat × Bool :=
  if l ≤ e then (m * twoTo (e - l) + (if roundsUp mode neg 0 0 1 st then 1 else 0), st)
  else
    let unit := twoTo (l - e)
    let q := m / unit
    let rem := m % unit
    ((if roundsUp mode neg q rem unit st then q + 1 else q), rem ≠ 0 || st)

/-- Overflow into a float format (R134): its code and flags. -/
def overflowCode (d : FloatFmt) (neg : Bool) (mode : Nat) (sat : Bool) : Nat × Raised :=
  let sign := if neg then 2 ^ (d.fw + d.ew) else 0
  if d.ieee then
    let infCode := (2 ^ d.ew - 1) * 2 ^ d.fw
    let maxCode := infCode - 1
    if sat then (sign + maxCode, { satd := true, of := true, nx := true })
    else
      let toMax := mode == 2 || (mode == 3 && neg) || (mode == 4 && !neg)
      (sign + (if toMax then maxCode else infCode), { of := true, nx := true })
  else (sign + (2 ^ (d.fw + d.ew) - 1), { satd := true, of := true, nx := true })

/-- A zero of a float format; FP8A and FP6 have no negative one (R122). -/
def zeroCode (f : Nat) (d : FloatFmt) (neg : Bool) : Nat :=
  if neg && (d.ieee || f = 18) then 2 ^ (d.fw + d.ew) else 0

/-- Rounding a finite value into a float format (R133). -/
def roundFloat (f : Nat) (d : FloatFmt) (mode : Nat) (sat neg : Bool) (m : Nat) (e : Int) (st : Bool) : Nat × Raised :=
  if m = 0 && !st then (zeroCode f d neg, {})
  else
    let minE : Int := 1 - (d.bias : Int) - d.fw
    let top : Int := e + bitLen m - 1
    let l := max (top - d.fw) minE
    let (q, inexact) := roundAt mode neg m e st l
    let (q, l) := if q ≥ 2 ^ (d.fw + 1) then (q / 2, l + 1) else (q, l)
    let tiny := decide (top < 1 - (d.bias : Int))
    let flags : Raised := { nx := inexact, uf := inexact && tiny }
    if q = 0 then (zeroCode f d neg, flags)
    else
      let ex : Int := if q < 2 ^ d.fw then 0 else l + d.fw + d.bias
      let maxEx : Int := if d.ieee then 2 ^ d.ew - 2 else 2 ^ d.ew - 1
      if ex > maxEx then overflowCode d neg mode sat
      else
        let sign := if neg then 2 ^ (d.fw + d.ew) else 0
        (sign + ex.toNat * 2 ^ d.fw + q % 2 ^ d.fw, flags)

/-- Rounding a finite value to an integer in a range, clamped with SATD alone (R134). The least magnitude of an integer format is 1,
so an inexact fraction that becomes ±1 sets UF too, and one that becomes 0 does not (R133; log entry 68). -/
def roundInt (lo hi : Int) (mode : Nat) (neg : Bool) (m : Nat) (e : Int) (st : Bool) : Int × Raised :=
  let (q, inexact) := roundAt mode neg m e st 0
  let v : Int := if neg then -(q : Int) else q
  if v < lo then (lo, { satd := true }) else if hi < v then (hi, { satd := true }) else (v, { nx := inexact, uf := inexact && q != 0 && decide (e + bitLen m ≤ 0) })

/-- The code of an integer in an integer, TRN2 or residue format. -/
def intCode (f : Nat) (v : Int) : Nat :=
  if 20 ≤ f && f ≤ 22 then
    ((moduli f).foldl (fun acc m => (acc.1 + unsignedMod v m * 2 ^ acc.2, acc.2 + residueBits m)) (0, 0)).1
  else unsigned (fmtBits f) v
where
  unsignedMod (v : Int) (m : Nat) : Nat := (v % (m : Int)).toNat

/-- Rounding a magnitude over the magnitudes of LOG8 (R121, R133, R135). The neighbours of the magnitude are found by
comparing eighth powers; a negative value cannot take 2^−8. Between two magnitudes 2^((L−64)/8) and 2^((L−63)/8) the
midpoint is irrational, and 300 further bits of it decide. -/
def roundLog8 (mode : Nat) (neg : Bool) (m : Nat) (e : Int) (st : Bool) : Nat × Raised :=
  if m = 0 && !st then (0x80, {})
  else
    let sign := if neg then 0x80 else 0
    let lowest : Nat := if neg then 1 else 0
    -- L with 2^((L-64)/8) ≤ |x|
    let lf : Int := (bitLen (m ^ 8) : Int) - 1 + 8 * e + 64
    let tiny := decide (e + bitLen m - 1 < -8)
    let exact := m == 2 ^ (m.log2) && !st
    let finish (l : Nat) (inexact : Bool) : Nat × Raised :=
      if l > 127 then (sign + 127, { satd := true, of := true, nx := true }) else (sign + l, { nx := inexact, uf := inexact && tiny })
    if lf < (lowest : Int) then
      -- between zero and the smallest magnitude 2^((lowest-64)/8)
      let p : Nat := 300
      -- half of the smallest magnitude, times 2^p: 2^(lowest/8 - 9)
      let k : Int := e + 9 + p
      let half := eighthPower lowest p * twoTo (-k)
      let x2 := m * twoTo k
      let above := decide (half < x2) || (half == x2 && st)
      let tie := lowest == 0 && half == x2 && !st
      let up := match mode with
        | 0 => above && !tie
        | 1 => above || tie
        | 3 => !neg
        | 4 => neg
        | _ => false
      if up then finish lowest true else (0x80, { nx := true, uf := tiny })
    else
      let l := lf.toNat
      if exact && 8 * (l / 8) = l then finish l false
      else
        let up := match mode with
          | 2 => false
          | 3 => !neg
          | 4 => neg
          | _ =>
            -- x against the midpoint of 2^((l-64)/8) and 2^((l-63)/8), both times 2^(300 - 8 + l/8)
            let a := eighthPower (l % 8) 300
            let b := eighthPower (l % 8 + 1) 300
            let k : Int := e - ((l / 8 : Nat) - 8 : Int) + 300
            decide (a + b < 2 * (m * twoTo k / twoTo (-k)))
        finish (if up then l + 1 else l) true

/-! ## Encoding an element (R122, R135, R136) -/

/-- A NaN stored into a format (R122, R136). DESIGN CHOICE (log entry 68): a NaN stored into the IEEE format it came from keeps
its sign and payload and becomes quiet; one narrowed from FP64 to FP32 with its payload keeps its sign. -/
def encodeNaN (f : Nat) (neg sig : Bool) (frac src : Nat) : Nat × Raised :=
  let flags : Raised := { nv := sig }
  match floatFmt f with
  | some d =>
    if d.ieee then
      let quiet := (2 ^ d.ew - 1) * 2 ^ d.fw + 2 ^ (d.fw - 1)
      let sign := if neg then 2 ^ (d.fw + d.ew) else 0
      let keeps := src == f || (src == 15 && (10 ≤ f && f ≤ 13)) || ((src == 12 || src == 13) && (f == 10 || f == 11)) ||
        (src == 11 && f == 10) || (src == 10 && f == 11 && frac < 2 ^ 22)
      (if keeps then sign + quiet + frac else quiet, flags)
    else if f = 16 || f = 17 then (0x20, flags)
    else (if neg then 2 ^ (d.fw + d.ew + 1) - 1 else 2 ^ (d.fw + d.ew) - 1, { flags with nmap := true })
  | none =>
    if f = 19 then (if neg then 0xFF else 0x7F, { flags with nmap := true })
    else (0, { nv := true, nmap := true })

/-- An infinity stored into a format (R122, R135). -/
def encodeInf (f : Nat) (neg : Bool) : Nat × Raised :=
  match floatFmt f with
  | some d =>
    let sign := if neg then 2 ^ (d.fw + d.ew) else 0
    if d.ieee then (sign + (2 ^ d.ew - 1) * 2 ^ d.fw, {})
    else (sign + 2 ^ (d.fw + d.ew) - 1, { satd := true })
  | none =>
    if f = 19 then (if neg then 0xFF else 0x7F, { satd := true })
    else if f = 9 then (if neg then 1 else 0, { nv := true })
    else
      match intRange f with
      | some (lo, hi) => (intCode f (if neg then lo else hi), { nv := true, satd := true })
      | none => (0, {})

/-- One conversion step: the value encoded once into an element format (R135). -/
def encodeElem (f mode : Nat) (sat : Bool) (x : Num) : Nat × Raised :=
  match x with
  | .nan neg sig frac src => encodeNaN f neg sig frac src
  | .inf neg => encodeInf f neg
  | .fin neg m e st =>
    match floatFmt f with
    | some d => roundFloat f d mode sat neg m e st
    | none =>
      if f = 19 then roundLog8 mode neg m e st
      else if f = 9 then
        (if neg && (m ≠ 0 || st) then 1 else 0, { nx := !(!st && (if e ≤ 0 then m == twoTo (-e) else false)) })
      else
        match intRange f with
        | some (lo, hi) =>
          let (v, fl) := roundInt lo hi mode neg m e st
          (intCode f v, fl)
        | none => (0, {})

/-! ## Scaled blocks (R125 to R127, R137) -/

/-- The value of an element under a scale byte (R127). -/
def scaleElem (x : Num) (scale : Nat) : Num :=
  if scale = 0xFF then .quietNaN
  else
    match x with
    | .nan .. => x
    | .inf neg => if scale = 0 then .quietNaN else .inf neg
    | .fin neg m e st =>
      if scale = 0 then .zero (neg && true)
      else .fin neg (m * (4 + scale % 4)) (e + (scale / 4 : Nat) - 33) st

/-- Element i of the block whose elements and scale byte are the low bits of a number. An integer element of 0 is not
negative (R127). -/
def decodeBlockElem (f : Nat) (block : Nat) (i : Nat) : Num × Raised :=
  let w := fmtBits f
  let (x, fl) := decodeElem (elemFmt f) (block / 2 ^ (w * i) % 2 ^ w)
  (scaleElem x (block / 2 ^ (32 * w) % 256), fl)

/-- MaxFinite of a scaled format's elements, as an integer number of halves (R137): 7.5 would need them. -/
def maxElem (f : Nat) : Nat :=
  match f with
  | 23 => 127 | 24 => 7 | 25 => 480 | 26 => 57344 | 27 => 28 | _ => 6

/-- Whether (m + δ)·2^e / Scale(s) ≤ b. -/
def scaleFits (m : Nat) (e : Int) (st : Bool) (s b : Nat) : Bool :=
  -- (m + δ)·2^e ≤ b·(4 + s mod 4)·2^(s/4 − 33)
  let rhs := b * (4 + s % 4)
  let k : Int := e - ((s / 4 : Nat) - 33 : Int)
  let l := m * twoTo k
  let r := rhs * twoTo (-k)
  decide (l < r) || (l == r && !st)

/-- The scale of a group of 32 values (R137). -/
def blockScale (f : Nat) (xs : List Num) : Nat :=
  let fits (s : Nat) : Bool := xs.all (fun x => match x with
    | .fin _ m e st => scaleFits m e st s (maxElem f)
    | _ => true)
  let allZero := xs.all (fun x => match x with
    | .fin _ m _ st => m == 0 && !st
    | _ => true)
  if allZero then 0x7C
  else ((List.range 254).map (· + 1)).find? fits |>.getD 0xFE

/-- x / Scale(s), exactly or with the mark. -/
def unscale (x : Num) (s : Nat) : Num :=
  match x with
  | .fin neg m e st =>
    if m = 0 && !st then x
    else
      let dvs := 4 + s % 4
      let n := m * 2 ^ 200
      .fin neg (n / dvs) (e - 200 - ((s / 4 : Nat) - 33 : Int)) (st || n % dvs ≠ 0)
  | _ => x

/-- A value encoded as an element of a block (R137): a NaN sets NV only where it signals. DESIGN CHOICE (log entry 69): an
integer element, which has neither a NaN code nor a mapping of R122, takes 0 for a NaN, with NMAP; an infinity there follows
the integer row of R135. -/
def blockElem (f mode : Nat) (sat : Bool) (x : Num) (s : Nat) : Nat × Raised :=
  let r := encodeElem (elemFmt f) mode sat (unscale x s)
  if x.isNaN then (r.1, { r.2 with nv := x.isSig }) else r

/-- A group of 32 values encoded as a block, as a number with the scale byte above the elements (R137). -/
def encodeBlock (f mode : Nat) (sat : Bool) (xs : List Num) : Nat × Raised :=
  let s := blockScale f xs
  let w := fmtBits f
  let rs := xs.map (fun x => blockElem f mode sat x s)
  let body := rs.foldr (fun r acc => r.1 + 2 ^ w * acc) 0
  (body + s * 2 ^ (32 * w), rs.foldl (fun a r => a.or r.2) {})

/-! ## Views (R128, R129) -/

/-- The format of a view code: 1 FP32, 2 FP16, 3 BF16, 4 INT32, 5 INT16, 6 INT8 (R95). -/
def viewFmt (v : Nat) : Nat :=
  match v with
  | 1 => 11 | 2 => 12 | 3 => 13 | 4 => 1 | 5 => 2 | 6 => 4
  | _ => 0

/-- The legal pairs of storage format and view (R128); view 0 is legal with every format. -/
def viewLegal (f v : Nat) : Bool :=
  match v with
  | 0 => true
  | 1 => (11 ≤ f && f ≤ 19) || isScaled f
  | 2 => f == 12 || (14 ≤ f && f ≤ 19)
  | 3 => 13 ≤ f && f ≤ 19
  | 4 => (1 ≤ f && f ≤ 9) || (20 ≤ f && f ≤ 22)
  | 5 => f == 2 || (4 ≤ f && f ≤ 9) || f == 20 || f == 21
  | 6 => f == 4 || (6 ≤ f && f ≤ 9) || f == 20
  | _ => false

/-- The IEEE format of a vector lane type: 3 F16, 4 BF16, 5 F32; the integer formats of types 0 to 2 (R170). -/
def laneFmt (t : Nat) : Nat :=
  match t with
  | 0 => 4 | 1 => 2 | 2 => 1 | 3 => 12 | 4 => 13
  | _ => 11

end Sys2Proof.Machine
end

