-- ==== Sys2Proof/Machine/Arith.lean ====
section
/-!
DEFINITION. Sys2Proof/Machine/Arith.lean: the IEEE operations of R138 and R139 on the codes of FP32, FP16 and BF16 (format
codes 11 to 13), each rounded once by R133, and the integer operations of R198 to R200.
-/

namespace Sys2Proof.Machine

/-! ## Exact operations on finite values -/

/-- The sum of two finite values without a mark: an exact zero has the operands' sign where they agree, else it is +0, or
−0 toward −∞ (R138). -/
def addExact (mode : Nat) (n1 : Bool) (m1 : Nat) (e1 : Int) (n2 : Bool) (m2 : Nat) (e2 : Int) : Num :=
  let e := min e1 e2
  let v1 : Int := m1 * twoTo (e1 - e)
  let v2 : Int := m2 * twoTo (e2 - e)
  let v := (if n1 then -v1 else v1) + (if n2 then -v2 else v2)
  if v = 0 then
    if m1 = 0 && m2 = 0 && n1 == n2 then .zero n1 else .zero (mode == 4)
  else .fin (decide (v < 0)) v.natAbs e false

/-- The sum of two values that are not NaNs; `none` for opposite infinities. -/
def addNum (mode : Nat) : Num → Num → Option Num
  | .inf a, .inf b => if a == b then some (.inf a) else none
  | .inf a, _ => some (.inf a)
  | _, .inf b => some (.inf b)
  | .fin n1 m1 e1 _, .fin n2 m2 e2 _ => some (addExact mode n1 m1 e1 n2 m2 e2)
  | x, _ => some x

/-- The product of two values that are not NaNs; `none` for 0 × ∞. DESIGN CHOICE (log entry 80): a zero product has the sign of its
factors also where these are integers or residues (R142). -/
def mulNum : Num → Num → Option Num
  | .inf a, .inf b => some (.inf (a != b))
  | .inf a, .fin b m _ _ => if m = 0 then none else some (.inf (a != b))
  | .fin a m _ _, .inf b => if m = 0 then none else some (.inf (a != b))
  | .fin a m1 e1 s1, .fin b m2 e2 s2 => some (.fin (a != b) (m1 * m2) (e1 + e2) ((s1 && m2 != 0) || (s2 && m1 != 0)))
  | x, _ => some x

/-- The negative. -/
def negNum : Num → Num
  | .nan n s f c => .nan (!n) s f c
  | .inf n => .inf (!n)
  | .fin n m e st => .fin (!n) m e st

/-- The quotient of finite values, the divisor not zero, to 200 bits beyond the divisor's, with the mark. -/
def divExact (n1 : Bool) (m1 : Nat) (e1 : Int) (n2 : Bool) (m2 : Nat) (e2 : Int) : Num :=
  let k := 200 + bitLen m2
  let n := m1 * 2 ^ k
  .fin (n1 != n2) (n / m2) (e1 - e2 - k) (n % m2 != 0)

/-- The square root of a positive finite value, to more than 100 bits, with the mark. -/
def sqrtExact (m : Nat) (e : Int) : Num :=
  let k : Nat := 200 + (if e % 2 = 0 then 0 else 1)
  let n := m * 2 ^ k
  let r := rootBits 2 n (bitLen n / 2 + 1) 0
  .fin false r ((e - k) / 2) (r * r != n)

/-! ## IEEE operations on codes -/

/-- The quiet form of a NaN code: its quiet bit set (R138). -/
def quieten (f c : Nat) : Nat :=
  match floatFmt f with
  | some d => if c / 2 ^ (d.fw - 1) % 2 = 1 then c else c + 2 ^ (d.fw - 1)
  | none => c

/-- The default NaN of an IEEE format (R115). -/
def defaultNaN (f : Nat) : Nat :=
  match floatFmt f with
  | some d => (2 ^ d.ew - 1) * 2 ^ d.fw + 2 ^ (d.fw - 1)
  | none => 0

/-- The rounded result of an operation; an invalid one gives the default NaN with NV (R138). -/
def roundResult (f mode : Nat) (sat : Bool) (x : Option Num) : Nat × Raised :=
  match x with
  | some y => encodeElem f mode sat y
  | none => (defaultNaN f, { nv := true })

/-- The first NaN among the operand codes, made quiet, with NV where any of them signals; `none` if there is none. -/
def nanOperand (f : Nat) (cs : List Nat) : Option (Nat × Raised) :=
  let vs := cs.map (fun c => (c, (decodeElem f c).1))
  match vs.find? (fun p => p.2.isNaN) with
  | some p => some (quieten f p.1, { nv := vs.any (fun p => p.2.isSig) })
  | none => none

def fpAdd (f mode : Nat) (sat : Bool) (a b : Nat) : Nat × Raised :=
  (nanOperand f [a, b]).getD (roundResult f mode sat (addNum mode (decodeElem f a).1 (decodeElem f b).1))

def fpSub (f mode : Nat) (sat : Bool) (a b : Nat) : Nat × Raised :=
  (nanOperand f [a, b]).getD (roundResult f mode sat (addNum mode (decodeElem f a).1 (negNum (decodeElem f b).1)))

def fpMul (f mode : Nat) (sat : Bool) (a b : Nat) : Nat × Raised :=
  (nanOperand f [a, b]).getD (roundResult f mode sat (mulNum (decodeElem f a).1 (decodeElem f b).1))

/-- a × b + c, fused. A NaN addend of 0 × ∞ is returned, with NV (R138). -/
def fpFma (f mode : Nat) (sat : Bool) (a b c : Nat) : Nat × Raised :=
  let x := (decodeElem f a).1
  let y := (decodeElem f b).1
  let invalid := !x.isNaN && !y.isNaN && (mulNum x y).isNone
  match nanOperand f [a, b, c] with
  | some (r, fl) => (r, { fl with nv := fl.nv || invalid })
  | none =>
    roundResult f mode sat ((mulNum x y).bind (fun p => addNum mode p (decodeElem f c).1))

def fpDiv (f mode : Nat) (sat : Bool) (a b : Nat) : Nat × Raised :=
  (nanOperand f [a, b]).getD
    (match (decodeElem f a).1, (decodeElem f b).1 with
    | .inf _, .inf _ => roundResult f mode sat none
    | .inf n, y => roundResult f mode sat (some (.inf (n != y.isNeg)))
    | x, .inf n => roundResult f mode sat (some (.zero (x.isNeg != n)))
    | .fin n1 m1 e1 _, .fin n2 m2 e2 _ =>
      if m2 = 0 then
        if m1 = 0 then roundResult f mode sat none
        else
          let r := roundResult f mode sat (some (.inf (n1 != n2)))
          (r.1, { r.2 with dz := true })
      else roundResult f mode sat (some (divExact n1 m1 e1 n2 m2 e2))
    | x, _ => roundResult f mode sat (some x))

def fpSqrt (f mode : Nat) (sat : Bool) (a : Nat) : Nat × Raised :=
  (nanOperand f [a]).getD
    (match (decodeElem f a).1 with
    | .inf n => roundResult f mode sat (if n then none else some (.inf false))
    | .fin n m e _ =>
      if m = 0 then roundResult f mode sat (some (.zero n))
      else if n then roundResult f mode sat none
      else roundResult f mode sat (some (sqrtExact m e))
    | x => roundResult f mode sat (some x))

/-- Whether a < b among values that are not NaNs, −0 and +0 equal. -/
def ltNum (a b : Num) : Bool :=
  match a, b with
  | .inf n, .inf k => n && !k
  | .inf n, _ => n
  | _, .inf n => !n
  | .fin n1 m1 e1 _, .fin n2 m2 e2 _ =>
    let e := min e1 e2
    let v1 : Int := m1 * twoTo (e1 - e)
    let v2 : Int := m2 * twoTo (e2 - e)
    decide ((if n1 then -v1 else v1) < (if n2 then -v2 else v2))
  | _, _ => false

/-- The lesser or the greater operand, −0 below +0; a number beats a NaN; two NaNs give the default NaN (R139). -/
def fpMinMax (f : Nat) (wantMax : Bool) (a b : Nat) : Nat × Raised :=
  let x := (decodeElem f a).1
  let y := (decodeElem f b).1
  let fl : Raised := { nv := x.isSig || y.isSig }
  if x.isNaN && y.isNaN then (defaultNaN f, fl)
  else if x.isNaN then (b, fl)
  else if y.isNaN then (a, fl)
  else
    let less := ltNum x y || (!ltNum y x && x.isNeg && !y.isNeg)
    (if less != wantMax then a else b, fl)

/-- A comparison: false with a NaN. `quiet` ones set NV only for a signalling NaN (R139, R248). -/
def fpCompare (f : Nat) (quiet : Bool) (rel : Num → Num → Bool) (a b : Nat) : Bool × Raised :=
  let x := (decodeElem f a).1
  let y := (decodeElem f b).1
  if x.isNaN || y.isNaN then (false, { nv := if quiet then x.isSig || y.isSig else true })
  else (rel x y, {})

def eqNum (a b : Num) : Bool := !ltNum a b && !ltNum b a
def leNum (a b : Num) : Bool := !ltNum b a

/-- The class of an FP32 code (R214). -/
def fpClass (c : Nat) : Nat :=
  match (decodeElem 11 c).1 with
  | .nan _ sig _ _ => if sig then 2 ^ 8 else 2 ^ 9
  | .inf n => if n then 2 ^ 0 else 2 ^ 7
  | .fin n m _ _ =>
    if m = 0 then (if n then 2 ^ 3 else 2 ^ 4)
    else if c % 2 ^ 31 < 2 ^ 23 then (if n then 2 ^ 2 else 2 ^ 5)
    else (if n then 2 ^ 1 else 2 ^ 6)

/-! ## Integer operations (R198 to R200) -/

/-- The number of zero bits above the highest one. -/
def clz32 (a : Word) : Word := BitVec.ofNat 32 (32 - bitLen a.toNat)

/-- The number of zero bits below the lowest one. -/
def ctz32 (a : Word) : Word := BitVec.ofNat 32 (((List.range 32).find? (fun i => a.getLsbD i)).getD 32)

/-- The number of one bits. -/
def popCount (a : Word) : Nat := ((List.range 32).filter (fun i => a.getLsbD i)).length

/-- Bit i is bit 31 − i. -/
def bitReverse (a : Word) : Word := BitVec.ofNat 32 (((List.range 32).map (fun i => if a.getLsbD i then 2 ^ (31 - i) else 0)).sum)

/-- Byte i is byte 3 − i. -/
def byteSwap (a : Word) : Word :=
  a.extractLsb' 0 8 ++ a.extractLsb' 8 8 ++ a.extractLsb' 16 8 ++ a.extractLsb' 24 8

/-- DIV and REM: toward zero; a zero divisor gives all ones and the dividend (R199). −2^31 / −1 wraps to −2^31. -/
def divSigned (a b : Word) : Word := if b = 0 then BitVec.allOnes 32 else BitVec.ofInt 32 (a.toInt.tdiv b.toInt)
def remSigned (a b : Word) : Word := if b = 0 then a else BitVec.ofInt 32 (a.toInt.tmod b.toInt)
def divUnsigned (a b : Word) : Word := if b = 0 then BitVec.allOnes 32 else BitVec.ofNat 32 (a.toNat / b.toNat)
def remUnsigned (a b : Word) : Word := if b = 0 then a else BitVec.ofNat 32 (a.toNat % b.toNat)

/-- The position and width of a field descriptor: the field never passes bit 31 (R200). -/
def fieldPos (d : Word) : Nat := d.toNat % 32
def fieldWidth (d : Word) : Nat := min (d.toNat / 256 % 64) (32 - fieldPos d)

def extractU (a d : Word) : Word := BitVec.ofNat 32 (a.toNat / 2 ^ fieldPos d % 2 ^ fieldWidth d)

def extractS (a d : Word) : Word :=
  if fieldWidth d = 0 then 0 else BitVec.ofInt 32 (signed (fieldWidth d) (a.toNat / 2 ^ fieldPos d % 2 ^ fieldWidth d))

/-- The low bits of a replace the field of `old`. -/
def insertField (old a d : Word) : Word :=
  let m : Word := BitVec.ofNat 32 ((2 ^ fieldWidth d - 1) * 2 ^ fieldPos d)
  (old &&& ~~~m) ||| ((a <<< fieldPos d) &&& m)

def boolWord (b : Bool) : Word := if b then 1 else 0
def minSigned (a b : Word) : Word := if b.slt a then b else a
def maxSigned (a b : Word) : Word := if a.slt b then b else a
def minUnsigned (a b : Word) : Word := if b < a then b else a
def maxUnsigned (a b : Word) : Word := if a < b then b else a
def mulHighSigned (a b : Word) : Word := BitVec.ofInt 32 (a.toInt * b.toInt / 2 ^ 32)
def mulHighUnsigned (a b : Word) : Word := BitVec.ofNat 32 (a.toNat * b.toNat / 2 ^ 32)

end Sys2Proof.Machine
end

