-- ==== Sys2Proof/Machine/Translate.lean ====
section
/-!
DEFINITION. Sys2Proof/Machine/Translate.lean: where an access goes: the windows (R12, R25 to R27), translation through the
three levels (R13 to R19), sub-page permission (R21, R22), and the classes of physical addresses (R28, R29, R36, R432).
-/

namespace Sys2Proof.Machine

/-! ## Who accesses, and what comes of it -/

/-- The rights of R18. -/
inductive Right where
  | read | write | modify | exec
deriving DecidableEq, Repr

/-- Who makes an access: the thread it is made for, with its virtual interface, mode (R27), core, cluster and what its
lines are sealed for (`sealOf`; 0: nothing). `own` marks an access of the thread itself, which goes through its core's L1s; a
copy or an engine begins at the cluster (R91). `waiter` is who waits for its translation, `cls` its priority class (R17, R340). -/
structure Who where
  thread : Nat
  cls : BitVec 2
  vi : BitVec 10
  mode : Mode
  core : Nat
  cluster : Nat
  own : Bool
  waiter : Waiter
  ctx : Nat
deriving DecidableEq, Repr

/-- An access that is not performed: it waits, or it fails with a cause and an address. `soft` marks a TRANSLATION_FAULT
on a canonical address. What has happened on the way stays. -/
inductive Bad where
  | wait (s : State)
  | fault (s : State) (c : Cause) (va : DWord) (soft : Bool)

abbrev Mem := Except Bad

/-- The protected context a slot runs for (R411), 0 for none. -/
def ctxOf (s : State) (t : Nat) : Nat :=
  match (s.core (coreOf t)).pent.find? (fun p => p.2.getLsbD 0 && p.2.getLsbD (40 + slotOf t)) with
  | some p => p.2.toNat / 2 ^ 48
  | none => 0

/-- What a slot's lines are sealed for (R92): its context with the version its core holds for it, CTX + 2^16 · VERSION. -/
def sealOf (s : State) (t : Nat) : Nat :=
  match (s.core (coreOf t)).pent.find? (fun p => p.2.getLsbD 0 && p.2.getLsbD (40 + slotOf t)) with
  | some p => p.2.toNat / 2 ^ 48 + 2 ^ 16 * (lookD (s.core (coreOf t)).pver p.1 0).toNat
  | none => 0

/-- The context of such a seal. -/
def sealCtx (x : Nat) : Nat := x % 2 ^ 16

/-- A thread's own access. -/
def whoThread (s : State) (t : Nat) : Who :=
  { thread := t, cls := (s.thread t).cls, vi := (s.thread t).vi, mode := (s.thread t).mode, core := coreOf t, cluster := clusterOf (coreOf t),
    own := true, waiter := .thread t, ctx := sealOf s t }

/-- The issuing thread's own access. -/
def me (s : State) : Who := whoThread s s.cur

/-! ## Translation (R13 to R19) -/

/-- Bytes of a page. -/
def pageBytes : PageSize → Nat
  | .k4 => 0x1000
  | .m2 => 0x200000
  | .g1 => 0x40000000

/-- The 4 KiB page of an address. -/
def pageOf (va : DWord) : Nat := va.toNat / 4096 * 4096

/-- An address canonical for the host's width (R18): its bits from the top one of that width up are equal. -/
def canonical (s : State) (va : DWord) : Bool :=
  let hi := va.toNat / 2 ^ (s.vaBits - 1)
  hi == 0 || hi == 2 ^ (65 - s.vaBits) - 1

/-- Whether an entry translates an address for a PASID. -/
def TlbEntry.covers (e : TlbEntry) (pasid : BitVec 20) (va : Nat) : Bool :=
  e.pasid == pasid && decide (e.page ≤ va) && decide (va < e.page + pageBytes e.size)

/-- The entry for an address, with the entries in least-recently-used order after its use (R14). -/
def tlbFind (l : List TlbEntry) (pasid : BitVec 20) (va : Nat) : Option (TlbEntry × List TlbEntry) :=
  match findIdxFrom (fun e => e.covers pasid va) l 0 with
  | some (i, e) => some (e, e :: removeAt l i)
  | none => none

/-- Installing an entry in a level of `sets` sets of `ways` entries: the least recently used one of a full set goes. -/
def tlbInstall (sets ways : Nat) (l : List TlbEntry) (e : TlbEntry) : List TlbEntry :=
  let setOf (x : TlbEntry) := if sets = 1 then 0 else Config.tlbSet x.page % sets
  let l := e :: l.filter (fun x => !(x.pasid == e.pasid && x.page == e.page && x.size == e.size))
  if (l.filter (fun x => setOf x == setOf e)).length ≤ ways then l
  else (l.reverse.eraseP (fun x => setOf x == setOf e)).reverse

/-- A level's outstanding misses and the misses that wait there for an entry. -/
abbrev MissLevel := List Miss × List MissWait

/-- A new miss at a level: it joins the outstanding one on its PASID and page, takes a free entry, or waits for one (R16,
R17). The last part says whether a new entry was taken, so that a request goes outward. -/
def MissLevel.enter (cap : Nat) (l : MissLevel) (pasid : BitVec 20) (page : Nat) (who : Who) : MissLevel × Bool :=
  match findIdxFrom (fun m => m.pasid == pasid && m.page == page) l.1 0 with
  | some (i, m) =>
    ((replaceAt l.1 i { m with waiters := if m.waiters.contains who.waiter then m.waiters else m.waiters ++ [who.waiter] }, l.2), false)
  | none =>
    if l.1.length < cap then ((l.1 ++ [{ pasid := pasid, page := page, waiters := [who.waiter] }], l.2), true)
    else if l.2.any (fun w => w.pasid == pasid && w.page == page && w.waiter == who.waiter) then (l, false)
    else ((l.1, l.2 ++ [{ pasid := pasid, page := page, waiter := who.waiter, cls := who.cls }]), false)

/-- The first of some waiting things in the order of R17: the least class, then the oldest. -/
def firstInClass {α : Type} (cls : α → Nat) (l : List α) : Option α :=
  l.foldl (fun best x => match best with
    | some y => if cls x < cls y then some x else best
    | none => some x) none

/-- The next waiting miss of a level takes a free entry, with those that wait for the same page. -/
def MissLevel.next (cap : Nat) (l : MissLevel) : Option (MissLevel × MissWait) :=
  if l.1.length < cap then
    (firstInClass (fun w => w.cls.toNat) l.2).map (fun w =>
      let same (x : MissWait) : Bool := x.pasid == w.pasid && x.page == w.page
      ((l.1 ++ [{ pasid := w.pasid, page := w.page, waiters := (l.2.filter same).map (·.waiter) }], l.2.filter (fun x => !same x)), w))
  else none

/-- Installing an entry in a core's L1 TLB, in a cluster TLB, in the bridge (R14). -/
def installCore (s : State) (c : Nat) (e : TlbEntry) : State :=
  s.setCore c { s.core c with tlb := tlbInstall 1 256 (s.core c).tlb e }
def installCluster (s : State) (k : Nat) (e : TlbEntry) : State :=
  s.setCluster k { s.cluster k with tlb := tlbInstall 512 8 (s.cluster k).tlb e }
def installBridge (s : State) (e : TlbEntry) : State :=
  { s with bridge := { s.bridge with tlb := tlbInstall 4096 16 s.bridge.tlb e } }

/-- Outstanding misses of each level at most (R16). -/
def missCap : Nat := 16
def clusterMissCap : Nat := 64
def bridgeMissCap : Nat := 512

/-- The misses of each level. -/
def setMissCore (s : State) (c : Nat) (l : MissLevel) : State := s.setCore c { s.core c with misses := l.1, missWaits := l.2 }
def setMissCluster (s : State) (k : Nat) (l : MissLevel) : State := s.setCluster k { s.cluster k with misses := l.1, missWaits := l.2 }
def setMissBridge (s : State) (l : MissLevel) : State := { s with bridge := { s.bridge with misses := l.1, missWaits := l.2 } }

/-- A miss at the bridge: an ATS request, or a wait. -/
def missBridge (s : State) (pasid : BitVec 20) (page : Nat) (who : Who) : State :=
  setMissBridge s (MissLevel.enter bridgeMissCap (s.bridge.misses, s.bridge.missWaits) pasid page who).1

/-- A miss at a cluster TLB. -/
def missCluster (s : State) (pasid : BitVec 20) (page : Nat) (who : Who) : State :=
  let x := s.cluster who.cluster
  let (l, sent) := MissLevel.enter clusterMissCap (x.misses, x.missWaits) pasid page who
  let s := setMissCluster s who.cluster l
  if sent then missBridge s pasid page who else s

/-- A miss at a core's L1 TLB. -/
def missCore (s : State) (pasid : BitVec 20) (page : Nat) (who : Who) : State :=
  let x := s.core who.core
  let (l, sent) := MissLevel.enter missCap (x.misses, x.missWaits) pasid page who
  let s := setMissCore s who.core l
  if sent then missCluster s pasid page who else s

/-- Whether a new miss on a page finds no entry at a level, and so waits there (R16, R17). -/
def MissLevel.full (cap : Nat) (l : MissLevel) (pasid : BitVec 20) (page : Nat) : Bool :=
  decide (cap ≤ l.1.length) && !l.1.any (fun m => m.pasid == pasid && m.page == page)

/-- What the cluster TLB, and the bridge beyond it, hold for an address: a miss that finds no entry at the cluster goes no
further. -/
def outerFind (s : State) (k : Nat) (pasid : BitVec 20) (va : DWord) : State × Option TlbEntry :=
  match tlbFind (s.cluster k).tlb pasid va.toNat with
  | some (e, l) => (s.setCluster k { s.cluster k with tlb := l }, some e)
  | none =>
    if MissLevel.full clusterMissCap ((s.cluster k).misses, (s.cluster k).missWaits) pasid (pageOf va) then (s, none)
    else match tlbFind s.bridge.tlb pasid va.toNat with
      | some (e, l) => (installCluster { s with bridge := { s.bridge with tlb := l } } k e, some e)
      | none => (s, none)

/-- Translation through the levels: an entry, or none where the access waits for a fill. -/
def tlbWalk (s : State) (who : Who) (va : DWord) : State × Option TlbEntry :=
  let pasid := (s.viOf who.vi.toNat).pasid
  let x := s.core who.core
  if who.own then
    match tlbFind x.tlb pasid va.toNat with
    | some (e, l) => (s.setCore who.core { x with tlb := l }, some e)
    | none =>
      if MissLevel.full missCap (x.misses, x.missWaits) pasid (pageOf va) then (missCore s pasid (pageOf va) who, none)
      else match outerFind s who.cluster pasid va with
        | (s', some e) => (installCore s' who.core e, some e)
        | (s', none) => (missCore s' pasid (pageOf va) who, none)
  else
    match outerFind s who.cluster pasid va with
    | (s', some e) => (s', some e)
    | (s', none) => (missCluster s' pasid (pageOf va) who, none)

/-- Whether two states have the same misses and page requests on the path of a core. -/
def sameMisses (s s' : State) (core : Nat) : Bool :=
  let k := clusterOf core
  (s.core core).misses == (s'.core core).misses && (s.core core).missWaits == (s'.core core).missWaits &&
  (s.cluster k).misses == (s'.cluster k).misses && (s.cluster k).missWaits == (s'.cluster k).missWaits &&
  s.bridge.misses == s'.bridge.misses && s.bridge.missWaits == s'.bridge.missWaits &&
  s.bridge.pageRequests == s'.bridge.pageRequests && s.bridge.pageWaits == s'.bridge.pageWaits

/-- The page request of R19: one outstanding for a PASID and page, 256 in all; with the state, whether it has been sent. A
fault that finds none free waits in the order of R17, each with its own class and write flag. -/
def pageRequest (s : State) (pasid : BitVec 20) (page : Nat) (write : Bool) (cls : BitVec 2) : State × Bool :=
  let b := s.bridge
  if b.pageRequests.any (fun r => r.1 == pasid && r.2.1 == page) then (s, true)
  else if b.pageRequests.length < 256 then
    ({ s with bridge := { b with pageRequests := b.pageRequests ++ [(pasid, page, write)] } }, true)
  else if b.pageWaits.contains (pasid, page, write, cls) then (s, false)
  else ({ s with bridge := { b with pageWaits := b.pageWaits ++ [(pasid, page, write, cls)] } }, false)

/-- The next waiting fault sends its page request, where there is room (R17, R19). -/
def nextPageRequest (s : State) : State :=
  let b := s.bridge
  match firstInClass (fun r => r.2.2.2.toNat) b.pageWaits with
  | some (pasid, page, write, _) =>
    if b.pageRequests.length < 256 then
      { s with bridge := { b with pageRequests := b.pageRequests ++ [(pasid, page, write)],
                                  pageWaits := b.pageWaits.filter (fun r => !(r.1 == pasid && r.2.1 == page)) } }
    else s
  | none => s

/-- Whether a right needs write (R18, R19). -/
def Right.writes : Right → Bool
  | .write | .modify => true
  | _ => false

/-- The permission pair of an address for a core's threads (R21 to R23), 11 where no region governs. -/
def subPair (c : Core) (vi : BitVec 10) (va : DWord) : BitVec 2 :=
  match (List.range 4).find? (fun r =>
    let w := lookD c.subpg r 0
    w.getLsbD 0 && (w >>> 11).setWidth 10 == vi && w >>> 21 == va >>> 21) with
  | some r =>
    let o := va.toNat % 2 ^ 21 / 1024
    (lookD c.spmap (128 * r + o / 16) (BitVec.allOnes 32) >>> (2 * (o % 16))).setWidth 2
  | none => 3

/-- Whether a page is open to a mode: a page may be mapped for S mode only. -/
def pageOpen (e : TlbEntry) (m : Mode) : Bool := e.u || m != .u

/-- Whether a page grants a right, and whether a pair does (R18, R22). -/
def pageGrants (e : TlbEntry) : Right → Bool
  | .read => e.r
  | .write => e.w
  | .modify => e.r && e.w
  | .exec => e.x
def pairGrants (p : BitVec 2) : Right → Bool
  | .read | .exec => p == 3 || p == 1
  | .write | .modify => p == 3

/-- The note that a page was absent is used up (R18). -/
def clearNote (s : State) (core : Nat) (key : Waiter × BitVec 20 × Nat) : State :=
  let c := s.core core
  if c.absent.contains key then s.setCore core { c with absent := c.absent.filter (· != key) } else s

/-- Whether an access that finds no page asks the host for it (R19, R219). -/
def Waiter.asks : Waiter → Bool
  | .lineOp _ | .prefetch .. => false
  | _ => true

/-- A translation with an uncorrectable error (R428) is lost at every level. What reads or fetches by it fails; a write asks for
it anew, as does whatever drains (log entry 59). -/
def badEntry {α : Type} (s : State) (who : Who) (k : Right) (va : DWord) (e : TlbEntry) : Mem α :=
  let keep (l : List TlbEntry) := l.filter (· != e)
  let s := s.setCore who.core { s.core who.core with tlb := keep (s.core who.core).tlb }
  let s := s.setCluster who.cluster { s.cluster who.cluster with tlb := keep (s.cluster who.cluster).tlb }
  let s := { s with bridge := { s.bridge with tlb := keep s.bridge.tlb } }
  let again : Bool := match who.waiter with
    | .drain _ => true
    | _ => k = .write
  if again then .error (.wait s) else .error (.fault s .memUncorrectable va false)

/-- Translation with the checks of R18, in their order. An access whose fill reported no page faults once its page request
has been sent (R19). -/
def translate (s : State) (who : Who) (k : Right) (va : DWord) : Mem (State × Nat) :=
  let pasid := (s.viOf who.vi.toNat).pasid
  let c := s.core who.core
  let key := (who.waiter, pasid, pageOf va)
  if !canonical s va then .error (.fault s .translationFault va false)
  else
    match tlbWalk s who va with
    | (s', none) =>
      if c.absent.contains key then
        if !who.waiter.asks then .error (.fault (clearNote s who.core key) .translationFault va true)
        else match pageRequest s pasid (pageOf va) k.writes who.cls with
        | (s', true) => .error (.fault (clearNote s' who.core key) .translationFault va true)
        | (s', false) => .error (.wait s')
      else .error (.wait s')
    | (s', some e) =>
      let s' := clearNote s' who.core key
      if e.bad then badEntry s' who k va e else
      if !(pageOpen e who.mode && pageGrants e k) then .error (.fault s' .permissionFault va false)
      else if !pairGrants (subPair c who.vi va) k then .error (.fault s' .subpageFault va false)
      else .ok (s', e.pa + (va.toNat - e.page))

/-! ## Windows (R25 to R27, R411) -/

/-- The offset of an address in a window, where the window decodes it. -/
def windowOff (reg va : DWord) : Option Nat :=
  if reg.getLsbD 0 && reg >>> 28 == va >>> 28 then some (va.toNat % 2 ^ 28) else none

/-- Whether a thread is resident and not pre-empted.
DESIGN CHOICE (log entry 78): one whose save has started, though its slot is not yet empty, counts as pre-empted. -/
def running (s : State) (t : Nat) : Bool :=
  (s.thread t).present && !((s.core (coreOf t)).preempts.any (fun p => p.slot == slotOf t && p.started && !p.restore))

/-- Whether a core holds a resident thread of a virtual interface. -/
def viOnCore (s : State) (c : Nat) (vi : BitVec 10) : Bool :=
  (List.range 8).any (fun i => running s (c * 8 + i) && (s.thread (c * 8 + i)).vi == vi)

/-- The virtual interface of a block. -/
def blockVi (s : State) (b : Block) : Option (BitVec 10) := (look s.launches b.launch).map (·.vi)

/-- Whether a cluster holds a resident block of a virtual interface. -/
def viOnCluster (s : State) (k : Nat) (vi : BitVec 10) : Bool :=
  s.blocks.any (fun p => p.2.cluster == k && !p.2.displaced && blockVi s p.2 == some vi)

/-- Whether a byte of bank 15 is reached only in M mode: in the monitor's region (R94), or in the staging kilobyte of a slot whose
protected thread is being saved or restored (R416). -/
def monitorOnly (s : State) (c o : Nat) : Bool :=
  decide (0x3000 ≤ o) ||
    (decide (0x1000 ≤ o) && (s.core c).preempts.any (fun p => p.started && p.slot == (o - 0x1000) / 0x400) &&
      ctxOf s (c * 8 + (o - 0x1000) / 0x400) != 0)

/-- Whether a bank of a core is open to an access (R411): that of a protected context to U-mode accesses made for that context, by
the core's own threads or by units that act for it, and to the monitor. -/
def bankOpen (s : State) (who : Who) (c bank : Nat) : Bool :=
  (s.core c).pent.all (fun p => !(p.2.getLsbD 0 && p.2.getLsbD (26 + bank) && bank < 14) || who.mode == .m ||
    (p.2.toNat / 2 ^ 48 == sealCtx who.ctx && who.mode == .u && (!who.own || who.core == c)))

/-- The tests of R27, R94, R411 and R416 on a byte of a core's local store. -/
def localReach (s : State) (who : Who) (c off : Nat) : Bool :=
  let bank := off / 0x4000
  let x := s.core c
  viOnCore s c who.vi && !((lookD x.bstash bank 0).getLsbD 0) &&
    (bank < 14 || who.mode != .u) && (bank < 15 || who.mode == .m || !monitorOnly s c (off % 0x4000)) &&
    bankOpen s who c bank

/-- The tests of R27 on a byte of a cluster's scratch. -/
def scratchReach (s : State) (who : Who) (k off : Nat) : Bool :=
  viOnCluster s k who.vi && decide (off < (s.cluster k).scratch.toNat * 0x80000)

/-! ## Physical addresses (R28, R29) -/

/-- This module's 128 GiB, and the other module's. -/
def ownRange (m : Module) (pa : Nat) : Bool :=
  m.membase.getLsbD 0 && pa / 2 ^ 37 == m.membase.toNat / 2 ^ 37 + (if m.membase.getLsbD 1 then 1 else 0)
def peerRange (m : Module) (pa : Nat) : Bool :=
  m.membase.getLsbD 0 && m.membase.getLsbD 2 && pa / 2 ^ 37 == m.membase.toNat / 2 ^ 37 + (if m.membase.getLsbD 1 then 0 else 1)

/-- The ranges of BAR 2 and BAR 0, where they have been placed (R354, R403). -/
def bar2Range (m : Module) (pa : Nat) : Bool :=
  m.bar2 != 0 && decide (m.bar2.toNat ≤ pa) && decide (pa < m.bar2.toNat + 0x400000)
def bar0Range (m : Module) (pa : Nat) : Bool :=
  m.bar0 != 0 && decide (m.bar0.toNat ≤ pa) && decide (pa < m.bar0.toNat + 0x10000)

/-- The bytes of a CAR store (R30). -/
def CarStore.covers (c : CarStore) (pa : Nat) : Bool :=
  decide (c.pbase.toNat * 2 ^ 30 ≤ pa) && decide (pa < c.pbase.toNat * 2 ^ 30 + 2 ^ (30 + c.log2.toNat))

/-- Whether an address lies in an enabled CAR store (R36). -/
def inCar (m : Module) (pa : Nat) : Bool := m.car.any (fun p => p.2.en && p.2.covers pa)

/-- The bytes of a commutative range (R73). -/
def crCovers (m : Module) (n pa : Nat) : Bool :=
  let base := (lookD m.crbase n 0).toNat / 4096 * 4096
  decide (base ≤ pa) && decide (pa < base + ((lookD m.crcfg n 0).toNat / 2 ^ 8 % 2 ^ 20 + 1) * 4096)

/-- The commutative range an address lies in that is enabled or whose disable has not ended (R73, R337). -/
def inCrange (m : Module) (pa : Nat) : Option Nat :=
  (List.range 16).find? (fun n => (lookD m.crcfg n 0).toNat % 4 != 0 && crCovers m n pa)

/-- Both ports of the Course link are down (R423). -/
def linkDown (m : Module) : Bool := lookD m.width 0 3 == 3 && lookD m.width 1 3 == 3

/-- The port of a peer access (R420): that of PA[12] while both are up, else the one that is up. -/
def portOf (m : Module) (pa : Nat) : Nat :=
  if lookD m.width 0 3 = 3 then 1 else if lookD m.width 1 3 = 3 then 0 else pa / 4096 % 2

/-- Whether a port's width is in transition: it takes no new access (R422). -/
def portPaused (m : Module) (p : Nat) : Bool := lookD m.shed p false

/-- The pitch counter of the other module: within the guard band of 32 ticks of this module's while a port is up, from 10 µs
after the first came up (R2, R423); else it runs free. A free value (log entry 83). -/
def peerCounter (s : State) : DWord :=
  let x := Config.peerPitch s.pitch
  BitVec.ofNat 64 (if linkDown s.module ∨ s.pitch < s.module.linkSince + 10000 then x
    else s.pitch + x % 65 - 32)

/-- The place of a physical address, with the refusals of R36, R423 and R432. -/
def classify (s : State) (va : DWord) (pa : Nat) : Mem (State × Place) :=
  let m := s.module
  if ownRange m pa then
    if inCar m pa then .error (.fault s .permissionFault va false) else .ok (s, .own pa)
  else if peerRange m pa then
    if linkDown m then .error (.fault s .linkFault va false)
    else if portPaused m (portOf m pa) then .error (.wait s)
    else .ok (s, .peer pa)
  else if bar2Range m pa then .ok (s, .window pa)
  else if bar0Range m pa then .error (.fault s .permissionFault va false)
  else .ok (s, .host pa)

/-- The stash bank that serves an address of a thread, with whether the address waits for an unmap: while any bank of its range is
being unmapped (R96). -/
def stashBank (s : State) (who : Who) (va : DWord) : Option (Nat × Bool) :=
  if !who.own then none
  else
    let banks := (s.core who.core).bstash.filter (fun p =>
      let w : DWord := p.2
      (w.getLsbD 0 || w.getLsbD 1) && (w >>> 4).setWidth 10 == who.vi && w >>> 14 == va >>> 14)
    banks.head?.map (fun p => (p.1, banks.any (fun q => !q.2.getLsbD 0)))

/-- Where an address leads: the windows first, then translation (R12). A stash bank of a protected context serves nobody else
(R411). -/
def resolve (s : State) (who : Who) (k : Right) (va : DWord) : Mem (State × Place) :=
  let v := s.viOf who.vi.toNat
  match windowOff v.lswin va with
  | some off =>
    if off < 2 ^ 27 ∧ localReach s who (off / 2 ^ 18) (off % 2 ^ 18) then
      .ok (s, .localStore (off / 2 ^ 18) (off % 2 ^ 18))
    else .error (.fault s .lsWindowFault va false)
  | none =>
    match windowOff v.clwin va with
    | some off =>
      if off < 2 ^ 27 ∧ scratchReach s who (off / 2 ^ 22) (off % 2 ^ 22) then .ok (s, .scratch (off / 2 ^ 22) (off % 2 ^ 22))
      else .error (.fault s .lsWindowFault va false)
    | none =>
      if (stashBank s who va).all (fun b => bankOpen s who who.core b.1) then do
        let (s, pa) ← translate s who k va
        classify s va pa
      else .error (.fault s .lsWindowFault va false)

/-- The key of a place's first byte. -/
def Place.key : Place → Nat
  | .own pa | .peer pa | .window pa | .host pa => pa
  | .localStore c o => localKey c o
  | .scratch k o => scratchKey k o

/-- Whether a place is in a window. -/
def Place.windowed : Place → Bool
  | .localStore .. | .scratch .. => true
  | _ => false

/-- The physical address of the line of an address just translated, as TH_TVAL names it for SEAL_FAIL (R375). -/
def linePa (s : State) (who : Who) (va : DWord) : DWord :=
  match tlbWalk s who va with
  | (_, some e) => BitVec.ofNat 64 ((e.pa + (va.toNat - e.page)) / 64 * 64)
  | (_, none) => va

end Sys2Proof.Machine
end

