-- ==== Sys2Proof/Machine/Cache.lean ====
section
/-!
DEFINITION. Sys2Proof/Machine/Cache.lean: the copies of a line and its home: logical time (R59 to R63), pushes (R67), stash
banks (R72), commutative ranges (R73 to R75), full/empty bits (R79), sealed lines (R92). A line is named by its first key
divided by 64.
-/

namespace Sys2Proof.Machine

/-! ## Bytes and bits of a line -/

/-- The bits of the bytes a 64-bit byte mask names. -/
def expandMask (m : BitVec 64) : Line :=
  BitVec.ofNat 512 (((List.range 64).map (fun i => if m.getLsbD i then 255 * 2 ^ (8 * i) else 0)).sum)

/-- The bytes of which a bit mask covers any bit. -/
def bytesOf (mask : Line) : BitVec 64 :=
  BitVec.ofNat 64 (((List.range 64).map (fun i => if (mask >>> (8 * i)).setWidth 8 = (0 : Byte) then 0 else 2 ^ i)).sum)

/-- The new bits where the mask is set, the old ones elsewhere. -/
def mergeBits (old new mask : Line) : Line := (old &&& ~~~mask) ||| (new &&& mask)

/-- The words of a line of which a byte mask covers any byte, and those it covers whole. -/
def wordsTouched (m : BitVec 64) : List Nat := (List.range 16).filter (fun w => (m >>> (4 * w)).setWidth 4 != (0 : BitVec 4))
def wordsWhole (m : BitVec 64) : List Nat := (List.range 16).filter (fun w => (m >>> (4 * w)).setWidth 4 == (0xF : BitVec 4))

/-- The words of which a byte mask covers all, as bits. -/
def wholeBits (m : BitVec 64) : BitVec 16 := (wordsWhole m).foldl (fun b w => b ||| BitVec.ofNat 16 (2 ^ w)) 0

/-- The sixteen full/empty bits of a line, 1 for full (R79). -/
def feLine (e : List Nat) (line : Nat) : BitVec 16 :=
  BitVec.ofNat 16 (((List.range 16).map (fun w => if feFull e (16 * line + w) then 2 ^ w else 0)).sum)

/-! ## Who is told of a write -/

/-- A registration pool: the home's, or a cluster's (place 1 + k). -/
def watchersAt (s : State) (place : Nat) : List Sleeper :=
  if place = 0 then s.bridge.watchers else (s.cluster (place - 1)).watchers
def setWatchers (s : State) (place : Nat) (l : List Sleeper) : State :=
  if place = 0 then { s with bridge := { s.bridge with watchers := l } }
  else s.setCluster (place - 1) { s.cluster (place - 1) with watchers := l }
def parkedAt (s : State) (place : Nat) : List Sleeper :=
  if place = 0 then s.bridge.parked else (s.cluster (place - 1)).parked
def setParked (s : State) (place : Nat) (l : List Sleeper) : State :=
  if place = 0 then { s with bridge := { s.bridge with parked := l } }
  else s.setCluster (place - 1) { s.cluster (place - 1) with parked := l }

/-- The end of a WAITA with a code, by an event of time c. The launch scheduler's own registration, for virtual interface v,
has the number 4,096 + v (R359): it reads again. -/
def endWaita (s : State) (t : Nat) (code : BitVec 32) (c : Nat) : State :=
  if t < Config.threads then
    s.setThread t { s.thread t with wait := .waitaDone code, heard := max (s.thread t).heard c }
  else s

/-- A write of time c at a place wakes the waiters on each word of which it writes a byte (R241). Keys are of words. -/
def wakeWords (s : State) (place : Nat) (keys : List Nat) (c : Nat) : State :=
  let l := watchersAt s place
  let woken := l.filter (fun w => keys.contains (w.key / 4))
  if woken.isEmpty then s
  else woken.foldl (fun s w => endWaita s w.thread 0 c) (setWatchers s place (l.filter (fun w => !keys.contains (w.key / 4))))

/-- The words of keys [k, k + n), by key / 4. -/
def wordKeys (k n : Nat) : List Nat := (List.range ((k % 4 + n + 3) / 4)).map (fun i => k / 4 + i)

/-- A full/empty bit set at a place, with the change noted for its waiters (R231). -/
def setFe (s : State) (place w : Nat) (full : Bool) : State :=
  if feFull s.empty w == full then s
  else { s with empty := feSet s.empty w full, changes := s.changes ++ [(place, 4 * w, full)] }

/-! ## Seals (R92) -/

/-- The nonce of a line for a context with its version, as `sealOf` gives them (R92, R410). -/
def sealNonce (ctx line : Nat) : Nat := line * 64 + ctx / 2 ^ 16 * 2 ^ 64

/-- A line's bytes as a context outside or inside the clusters sees them: sealing and opening are one exclusive or. -/
def sealLine (s : State) (ctx line : Nat) (x : Line) : Line :=
  if ctx = 0 then x else x ^^^ Config.keystream (sealCtx ctx) s.module.era (sealNonce ctx line)

/-- The tag of sealed bytes. -/
def tagOf (s : State) (ctx line : Nat) (sealed : Line) : BitVec 48 :=
  Config.sealTag (sealCtx ctx) s.module.era (sealNonce ctx line) sealed

/-! ## Homes (R59, R62, R63) -/

/-- The slice of a line's home. -/
def sliceOf (line : Nat) : Nat := (line % 64) ^^^ (line / 64 % 64) ^^^ (line / 4096 % 64)

/-- Whether two lines have their homes at one slice: of this module's, or of the other's (R59). -/
def sameSlice (s : State) (a b : Nat) : Bool := sliceOf a == sliceOf b && peerRange s.module (64 * a) == peerRange s.module (64 * b)

/-- Lines a slice of the bridge cache holds at most: 3 MiB (R57). -/
def sliceLines : Nat := 0xC000

/-- The times of a line at its home. -/
def homeTimes (s : State) (line : Nat) : HomeLine :=
  match look s.bridge.homes line with
  | some h => h
  | none => let t := lookD s.bridge.memTime (sliceOf line) 0; { wts := t, maxLease := t }

/-- The bridge cache gives up a line, and its slice's memory time rises (R63). DESIGN CHOICE (log entry 62): R63 speaks of
module-homed lines; the write time and the leases of a host-homed line go into the slice's memory time too, and it starts from
there again. -/
def evictHome (s : State) (line : Nat) : State :=
  let t := max (lookD s.bridge.memTime (sliceOf line) 0) (homeTimes s line).maxLease
  { s with bridge := { s.bridge with homes := del s.bridge.homes line, held := del s.bridge.held line,
                                     memTime := put s.bridge.memTime (sliceOf line) t } }

/-- A line's times set at its home; a slice that is full gives up another line. -/
def setHome (s : State) (line : Nat) (h : HomeLine) : State :=
  let slice := s.bridge.homes.filter (fun p => sliceOf p.1 == sliceOf line)
  let s := if (look s.bridge.homes line).isNone && sliceLines ≤ slice.length then
      match slice[Config.victim s.drawn % slice.length]? with
      | some v => { evictHome s v.1 with drawn := s.drawn + 1 }
      | none => s
    else s
  { s with bridge := { s.bridge with homes := put s.bridge.homes line h } }

/-- The 64 bytes of a line as its owner holds them. -/
def lineBytes (s : State) (line : Nat) : Line := memRead s.mem (64 * line) 64

/-- Whether a line is homed on this module (R29). -/
def ownLine (s : State) (line : Nat) : Bool := ownRange s.module (64 * line)

/-- The bridge obtains a line for reading (R70): a host cache that holds a module line in E, M or O is snooped, and it keeps
the line in S or O; a host-homed line enters the bridge cache, where it takes room like any other (R57). -/
def fetchLine (s : State) (line : Nat) : State :=
  let b := s.bridge
  if ownLine s line then
    match look b.hostHeld line with
    | some .modified => { s with bridge := { b with hostHeld := put b.hostHeld line .owned } }
    | some .exclusive => { s with bridge := { b with hostHeld := put b.hostHeld line .shared } }
    | _ => s
  else if (look b.held line).isSome then s
  else setHome { s with bridge := { b with held := put b.held line .shared } } line (homeTimes s line)

/-- The bridge takes a line in M: host copies of a module line are recalled (R69, R70), and a host-homed line is then held in
M (R67). -/
def takeLine (s : State) (line : Nat) : State :=
  let b := s.bridge
  if ownLine s line then { s with bridge := { b with hostHeld := del b.hostHeld line } }
  else { s with bridge := { b with held := put b.held line .modified } }

/-- The home's stamp on a write that carries clock c. -/
def stampHome (s : State) (line c : Nat) : State × Nat :=
  let h := homeTimes s line
  let wts := max (max h.wts h.maxLease) c + 1
  (setHome s line { wts := wts, maxLease := wts }, wts)

/-- A line's bytes as they come from the home to a cluster for a context; none where the tag does not check. -/
def homeBytes (s : State) (ctx line : Nat) : Option Line :=
  let x := lineBytes s line
  if ctx = 0 then some x
  else if lookD s.bridge.seals line 0 = tagOf s ctx line x then some (sealLine s ctx line x) else none

/-- The bytes of a line with some bits merged in, sealed for a context (R92). A line whose tag does not check keeps its tag,
and so stays refused, unless all of it is written. DESIGN CHOICE (log entry 23): the tag of a host-homed line stands in the bridge's
table by line as well, since R79 gives metadata to the module's lines only. -/
def mergeLine (s : State) (ctx line : Nat) (data mask : Line) : State :=
  if ctx = 0 then { s with mem := memWrite s.mem (64 * line) 64 data mask }
  else
    let sound := mask = BitVec.allOnes 512 ∨ (homeBytes s ctx line).isSome
    let new := sealLine s ctx line (mergeBits (sealLine s ctx line (lineBytes s line)) data mask)
    { s with mem := memWrite s.mem (64 * line) 64 new (BitVec.allOnes 512),
             bridge := { s.bridge with
               seals := if sound then put s.bridge.seals line (tagOf s ctx line new) else s.bridge.seals } }

/-- A write merged at the home, for a context, with its stamp. The bridge holds the line in M first. -/
def homeMerge (s : State) (ctx line : Nat) (data mask : Line) (c : Nat) : State × Nat :=
  let s := mergeLine (takeLine s line) ctx line data mask
  let (s, wts) := stampHome s line c
  (wakeWords s 0 ((wordsTouched (bytesOf mask)).map (fun w => 16 * line + w)) wts, wts)

/-! ## Commutative ranges (R73 to R75) -/

/-- Operation (0 add, 1 min, 2 max), and format (0 INT32, 1 FP32, 2 INT64) of a range. -/
def crOp (m : Module) (n : Nat) : Nat := (lookD m.crcfg n 0).toNat / 2 ^ 4 % 4
def crFmt (m : Module) (n : Nat) : Nat := (lookD m.crcfg n 0).toNat / 2 ^ 6 % 4

/-- Bits of an element. -/
def crBits (f : Nat) : Nat := if f = 2 then 64 else 32

/-- The identity element (R74). -/
def crIdentity (op f : Nat) : Nat :=
  match op, f with
  | 0, 1 => 0x80000000
  | 0, _ => 0
  | 1, 0 => 0x7FFFFFFF
  | 1, 1 => 0x7F800000
  | 1, _ => 0x7FFFFFFFFFFFFFFF
  | _, 0 => 0x80000000
  | _, 1 => 0xFF800000
  | _, _ => 0x8000000000000000

/-- A line of identities. -/
def identityLine (op f : Nat) : Line :=
  let w := crBits f
  BitVec.ofNat 512 (((List.range (512 / w)).map (fun i => crIdentity op f * 2 ^ (w * i))).sum)

/-- One update of an element (R74). -/
def crUpdate (op f m x : Nat) : Nat :=
  let w := crBits f
  let sg (v : Nat) : Int := if v < 2 ^ (w - 1) then (v : Int) else (v : Int) - 2 ^ w
  match op, f with
  | 0, 1 => (fpAdd 11 0 false m x).1
  | 1, 1 => (fpMinMax 11 false m x).1
  | 2, 1 => (fpMinMax 11 true m x).1
  | 0, _ => (m + x) % 2 ^ w
  | 1, _ => if sg m ≤ sg x then m else x
  | _, _ => if sg x ≤ sg m then m else x

/-- The sum of FP32 terms, exact and rounded once (R75). -/
def crSum (xs : List Nat) : Nat :=
  let ns := xs.map (fun x => (decodeElem 11 x).1)
  match xs.find? (fun x => (decodeElem 11 x).1.isNaN) with
  | some x => quieten 11 x
  | none =>
    let total := ns.foldl (fun a n => match a with
      | some a => addNum 0 a n
      | none => none) (some (Num.fin true 0 0 false))
    (roundResult 11 0 false total).1

/-- The combination of an element's partials, lowest cluster first, with the memory value last (R75). -/
def crCombine (op f : Nat) (xs : List Nat) : Nat :=
  if op = 0 ∧ f = 1 then crSum xs
  else match xs with
    | [] => crIdentity op f
    | x :: rest => rest.foldl (fun a b => crUpdate op f a b) x

/-- An element of a line. -/
def elemOf (l : Line) (w i : Nat) : Nat := l.toNat / 2 ^ (w * i) % 2 ^ w

/-- A line has an uncorrectable error at its home (R428). -/
def poison (s : State) (line : Nat) : State :=
  if s.bridge.poisoned.contains line then s else { s with bridge := { s.bridge with poisoned := s.bridge.poisoned ++ [line] } }

/-- Lines copied from line `src` on to line `dst` on: one with an uncorrectable error leaves its copy poisoned (R428). -/
def carryErrors (s : State) (src dst n : Nat) : State :=
  (List.range n).foldl (fun s i => if s.bridge.poisoned.contains (src + i) then poison s (dst + i) else s) s

/-- The combine of one line of a range over given clusters, for a context, stamped with clock c (R75). The context is that of
a partial, where one has any. A partial with an uncorrectable error leaves its line poisoned (R428). DESIGN CHOICE (log entry
23): where the tag of a protected context's line does not check (R92), the clusters surrender their partials and nothing is
written. -/
def combineLine (s : State) (n ctx line c : Nat) (clusters : List Nat) : State :=
  let op := crOp s.module n
  let f := crFmt s.module n
  let w := crBits f
  let parts := clusters.filterMap (fun k => look (s.cluster k).partials line)
  let ctx := ((parts.find? (fun p => p.ctx != 0)).map (·.ctx)).getD ctx
  let mem := sealLine s ctx line (lineBytes s line)
  let new := BitVec.ofNat 512 (((List.range (512 / w)).map (fun i =>
    crCombine op f (parts.map (fun p => elemOf p.data w i) ++ [elemOf mem w i]) * 2 ^ (w * i))).sum)
  let sound := (homeBytes s ctx line).isSome
  let s := if parts.any (·.bad) then poison s line else s
  let s := clusters.foldl (fun s k =>
    if (look (s.cluster k).partials line).isSome then
      s.setCluster k { s.cluster k with partials := del (s.cluster k).partials line } else s) s
  if sound then (homeMerge s ctx line new (BitVec.allOnes 512) c).1 else s

/-- Every cluster of the module. -/
def allClusters : List Nat := List.range Config.clusters

/-! ## Cluster caches (R61, R62, R67) -/

/-- The bit of a core in its cluster's core masks. -/
def coreBit (core : Nat) : BitVec 16 := BitVec.ofNat 16 (2 ^ coreIndex core)

def ClusterLine.dirty (l : ClusterLine) : Bool := l.byteMask != 0 || l.feMask != 0

/-- A line with some bits, and some full/empty bits, written by a core. -/
def ClusterLine.written (l : ClusterLine) (core : Nat) (data mask : Line) (fe feMask : BitVec 16) : ClusterLine :=
  { l with data := mergeBits l.data data mask, byteMask := l.byteMask ||| bytesOf mask, coreMask := l.coreMask ||| coreBit core,
           fe := (l.fe &&& ~~~feMask) ||| (fe &&& feMask), feMask := l.feMask ||| feMask }

/-- A core's clock raised to a time it learns of (R60). -/
def raiseClock (s : State) (core c : Nat) : State := s.setCore core { s.core core with clock := max (s.core core).clock c }

/-- A cluster's clock raised to a time it learns of. -/
def raiseCluster (s : State) (k c : Nat) : State := s.setCluster k { s.cluster k with clock := max (s.cluster k).clock c }

/-- A request of a core passes its cluster cache, whose clock learns of the core's and the core's of it (R60). -/
def askCluster (s : State) (core : Nat) : State :=
  let k := clusterOf core
  let c := max (s.cluster k).clock (s.core core).clock
  raiseClock (raiseCluster s k c) core c

/-- The clock a request carries, and the clock its reply raises: the core's for a thread's own access, the cluster's for that
of a copy or an engine (R60, R62, R330). -/
def Who.clock (s : State) (w : Who) : Nat := if w.own then (s.core w.core).clock else (s.cluster w.cluster).clock
def Who.raise (s : State) (w : Who) (c : Nat) : State := if w.own then raiseClock s w.core c else raiseCluster s w.cluster c

/-- A request passes the cluster cache of its requester. -/
def Who.ask (s : State) (w : Who) : State := if w.own then askCluster s w.core else s

/-- The full/empty bits a push carries: the words wholly written, and those changed in the cluster (R79). -/
def carryFe (s : State) (line : Nat) (fe : BitVec 16) (bytes : BitVec 64) (feMask : BitVec 16) : State :=
  ((List.range 16).filter (fun w => feMask.getLsbD w || (wordsWhole bytes).contains w)).foldl
    (fun s w => setFe s 0 (16 * line + w) (fe.getLsbD w)) s

/-- What a push brings home (R67), with its stamp. Bytes for a line of an enabled CAR store are refused (R36). -/
def pushBytes (s : State) (k ctx line : Nat) (data : Line) (bytes : BitVec 64) (fe feMask : BitVec 16) : State :=
  if ownLine s line && inCar s.module (64 * line) then s
  else
    let (s, wts) := homeMerge s ctx line data (expandMask bytes) (s.cluster k).clock
    raiseCluster (carryFe s line fe bytes feMask) k wts

/-- The push of a cluster's line to its home (R67): the line stays as a clean copy. Where the copy has an uncorrectable error its
line is poisoned (R428). -/
def pushLine (s : State) (k line : Nat) : State :=
  match look (s.cluster k).lines line with
  | some l =>
    if l.dirty then
      let s := pushBytes (if l.bad then poison s line else s) k l.ctx line l.data l.byteMask l.fe l.feMask
      let x := s.cluster k
      s.setCluster k { x with lines := put x.lines line { l with byteMask := 0, coreMask := 0, feMask := 0 } }
    else s
  | none => s

/-- A cluster's copy pushed where dirty, then dropped. What it has leased to L1s is not forgotten (R62, R324). -/
def dropLine (s : State) (k line : Nat) : State :=
  let s := pushLine s k line
  let x := s.cluster k
  let granted := ((look x.lines line).map (·.granted)).getD 0
  s.setCluster k { x with lines := del x.lines line, leaseFloor := max x.leaseFloor granted }

/-- Lines a cluster cache holds at most (R58), and those it holds: copies, partials, and CAR lines held by name. -/
def clusterLines (s : State) (k : Nat) : Nat := (16 - (s.cluster k).scratch.toNat) * 8192
def Cluster.use (x : Cluster) : Nat := x.lines.length + x.partials.length + x.names.length

/-- A partial combined with memory as its cluster gives it up (R75), whose clock learns of the stamp (R62). -/
def dropPartial (s : State) (k line : Nat) : State :=
  match inCrange s.module (64 * line) with
  | some n =>
    let s := combineLine s n 0 line (s.cluster k).clock [k]
    raiseCluster s k (homeTimes s line).wts
  | none => s.setCluster k { s.cluster k with partials := del (s.cluster k).partials line }

/-- A full cluster cache gives up one line, partial or named line. -/
def makeRoom (s : State) (k : Nat) : State :=
  let x := s.cluster k
  if x.use < clusterLines s k then s
  else
    let i := Config.victim s.drawn % x.use
    let s := { s with drawn := s.drawn + 1 }
    match x.lines[i]?, x.partials[i - x.lines.length]?, x.names[i - x.lines.length - x.partials.length]? with
    | some v, _, _ => dropLine s k v.1
    | none, some v, _ => dropPartial s k v.1
    | none, none, some v => s.setCluster k { x with names := del x.names v.1 }
    | none, none, none => s

/-- A line entered in a cluster cache. -/
def enterLine (s : State) (k line : Nat) (l : ClusterLine) : State :=
  let s := if (look (s.cluster k).lines line).isNone then makeRoom s k else s
  s.setCluster k { s.cluster k with lines := put (s.cluster k).lines line l }

/-- Why a line cannot be read: its tag does not check, or its data holds an uncorrectable error. -/
def readBar (s : State) (ctx line : Nat) : Option Cause :=
  if s.bridge.poisoned.contains line then some .memUncorrectable
  else if (homeBytes s ctx line).isNone then some .sealFail
  else none

/-- A grant of the home to a cluster for clock c (R61): a copy, or a renewal that keeps the bytes the cluster has
written. `cover` names bytes about to be written; where no byte is wanted of the home, none is opened.
DESIGN CHOICE (log entry 62): where the line's write time exceeds c + LEASE, the lease ends at the write time, so that
wts ≤ rts; and at a renewal a word whose bytes the cluster has written, without a change of its full/empty bit there, takes
the home's bit. -/
def grantHome (s : State) (k ctx line c : Nat) (cover : BitVec 64 := 0) : Except Cause State :=
  let x := s.cluster k
  let kept := ((look x.lines line).map (·.byteMask)).getD 0
  match (if kept ||| cover = BitVec.allOnes 64 then none else readBar s ctx line) with
  | some e => .error e
  | none =>
    let s := fetchLine s line
    let h := homeTimes s line
    let rts := max (c + x.lease.toNat) h.wts
    let s := setHome s line { h with maxLease := max h.maxLease rts }
    let bytes := (homeBytes s ctx line).getD 0
    let fe := feLine s.empty line
    let new : ClusterLine :=
      match look x.lines line with
      | some l =>
        { l with data := mergeBits bytes l.data (expandMask l.byteMask), fe := (fe &&& ~~~l.feMask) ||| (l.fe &&& l.feMask),
                 wts := h.wts, rts := rts, part := none, bad := l.bad && l.dirty }
      | none => { data := bytes, fe := fe, wts := h.wts, rts := rts, granted := x.leaseFloor, ctx := ctx }
    .ok (enterLine s k line new)

/-- A copy of another context leaves the cluster cache before this one enters it. -/
def sameContext (s : State) (k ctx line : Nat) : State :=
  match look (s.cluster k).lines line with
  | some l => if l.ctx = ctx then s else dropLine s k line
  | none => s

/-- A cluster's line, which is there. -/
def lineAt (s : State) (k line : Nat) : ClusterLine :=
  lookD (s.cluster k).lines line { data := 0, fe := 0, wts := 0, rts := 0 }

/-- The bytes of a line from byte o on, as a mask. -/
def needOf (o n : Nat) : BitVec 64 := BitVec.ofNat 64 ((2 ^ n - 1) * 2 ^ o)

/-- Where the lease of some bytes of a copy ends (R61). A write's stamp covers the bytes its cluster has written; the others
keep the lease the home granted (R62; log entry 62). -/
def leaseEnd (rts : Nat) (part : Option (Nat × BitVec 64)) (need : BitVec 64) : Nat :=
  match part with
  | some (end_, bytes) => if need &&& ~~~bytes = 0 then rts else end_
  | none => rts

/-- Whether a cluster's copy serves a load of some bytes with clock c (R61). -/
def ClusterLine.serves (l : ClusterLine) (c : Nat) (need : BitVec 64) : Bool := decide (c ≤ leaseEnd l.rts l.part need)

/-- Whether a cluster's copy has an uncorrectable error (R428). A clean one that no lease holds for clock c is fetched anew. -/
def clusterBad (s : State) (k line c : Nat) (need : BitVec 64) : Bool :=
  (look (s.cluster k).lines line).any (fun l => l.bad && (l.dirty || l.serves c need))

/-- A cluster's copy good for some of its bytes at clock c, asked for with that clock (R60, R61). -/
def clusterRead (s : State) (k ctx line c : Nat) (need : BitVec 64 := BitVec.allOnes 64) : Except Cause (State × ClusterLine) := do
  let s := raiseCluster (sameContext s k ctx line) k c
  if clusterBad s k line c need then throw .memUncorrectable
  match look (s.cluster k).lines line with
  | some l => if l.serves c need then return (s, l)
  | none => pure ()
  let s ← grantHome s k ctx line c
  .ok (s, lineAt s k line)

/-- The cluster's copy read by a full/empty instruction of a thread performed there: the reply raises the core's clock (R60,
R69). -/
def clusterAsk (s : State) (who : Who) (line : Nat) (need : BitVec 64 := BitVec.allOnes 64) : Except Cause (State × ClusterLine) := do
  let (s, l) ← clusterRead s who.cluster who.ctx line (who.clock s) need
  .ok (who.raise s (max (s.cluster who.cluster).clock l.wts), l)

/-- The cluster's copy read by an atomic performed there (R69). R61 renews a dirty line for a load; an atomic takes the dirty line
as its cluster holds it (R336; log entry 62). -/
def clusterAtomic (s : State) (who : Who) (line : Nat) (need : BitVec 64 := BitVec.allOnes 64) : Except Cause (State × ClusterLine) :=
  let k := who.cluster
  let s := raiseCluster (sameContext s k who.ctx line) k (who.clock s)
  match look (s.cluster k).lines line with
  | some l =>
    if l.dirty then
      if l.bad then .error .memUncorrectable else .ok (who.raise s (max (s.cluster k).clock l.wts), l)
    else clusterAsk s who line need
  | none => clusterAsk s who line need

/-- A core's L1 copy of a line, where it has one, takes what a write or an access at the home answers (R62, R66): the line's bytes
and full/empty bits at the place it was performed, with wts and rts equal to the write time. The bytes that were not written are
taken anew too, under the lease they have there (R323 to R325; log entry 62). -/
def l1Merge (s : State) (core ctx line : Nat) (data : Line) (fe : BitVec 16) (wts : Nat) (part : Option (Nat × BitVec 64)) : State :=
  let y := s.core core
  if (look y.l1 line).isSome then
    s.setCore core { y with l1 := put y.l1 line { data := data, fe := fe, wts := wts, rts := wts, part := part, ctx := ctx } }
  else s

/-- A core's L1 copy of a line is dropped. -/
def l1Drop (s : State) (core line : Nat) : State := s.setCore core { s.core core with l1 := del (s.core core).l1 line }

/-- The waiters of a cluster on the words of a line that a write there touches (R241), and the full/empty changes it makes there
(R231). -/
def tellCluster (s : State) (k line : Nat) (mask : Line) (fe feMask : BitVec 16) (c : Nat) : State :=
  let s := wakeWords s (k + 1) ((wordsTouched (bytesOf mask)).map (fun w => 16 * line + w)) c
  let changed := (List.range 16).filter (fun w => feMask.getLsbD w)
  { s with changes := s.changes ++ changed.map (fun w => (k + 1, 4 * (16 * line + w), fe.getLsbD w)) }

/-- A write into a cluster's line (R62, R66, R330): filled where absent, and stamped past its write time, the leases given to L1s
and the writer's clock; the stamp is then the write time and the latest lease of all three, for the bytes written here, while the
others keep the lease the home granted (R62; log entry 62). A write renews nothing (R61, R336). Bits of `feMask` take the bits of
`fe`. -/
def clusterWrite (s : State) (who : Who) (line : Nat) (data mask : Line) (fe feMask : BitVec 16) : Except Cause State := do
  let k := who.cluster
  let c := who.clock s
  let s := raiseCluster (sameContext s k who.ctx line) k c
  let s ← if (look (s.cluster k).lines line).isSome then .ok s else grantHome s k who.ctx line c (bytesOf mask)
  let l := lineAt s k line
  let wts := max (max l.wts l.granted) c + 1
  let since := if l.dirty then l.since else wts
  let part := if l.part.isNone && decide (wts ≤ l.rts) then none
    else some ((l.part.map (·.1)).getD l.rts, l.byteMask ||| bytesOf mask)
  let l := { l.written who.core data mask fe feMask with
             wts := wts, rts := max l.rts wts, part := part, granted := wts, since := since }
  let s := s.setCluster k { s.cluster k with lines := put (s.cluster k).lines line l }
  let s := who.raise s (max (s.cluster k).clock wts)
  let s := if !who.own then s
    else if l.bad then l1Drop s who.core line
    else l1Merge s who.core who.ctx line l.data l.fe wts part
  .ok (tellCluster s k line mask fe feMask wts)

/-- What a release of scope `.D` or wider pushes of its core's cluster (R67): the lines that the core has written, and the dirty
lines of which the core's clock has reached the stamp of the first write not yet pushed, since what the thread has acquired at
`.L` goes before its release too (R323; log entry 13). -/
def releasedLines (s : State) (core : Nat) : List Nat :=
  ((s.cluster (clusterOf core)).lines.filter (fun p =>
    p.2.coreMask &&& coreBit core != 0 || (p.2.dirty && decide (p.2.since ≤ (s.core core).clock)))).map (·.1)

/-- Those lines go home; the replies raise the core's clock, which also learns of pushes made before (R327). -/
def pushCore (s : State) (core : Nat) : State :=
  let written := releasedLines s core
  let s := askCluster s core
  askCluster (written.foldl (fun s line => pushLine s (clusterOf core) line) s) core

/-- Every dirty line of a cluster goes home. -/
def pushAll (s : State) (k : Nat) : State := (s.cluster k).lines.foldl (fun s p => pushLine s k p.1) s

/-! ## L1 (R57, R61) -/

/-- Lines an L1 holds at most: 32 KiB. -/
def l1Lines : Nat := 512

def enterL1 (y : Core) (line : Nat) (m : L1Line) (drawn : Nat) : Core :=
  let l1 :=
    if (look y.l1 line).isNone && l1Lines ≤ y.l1.length then
      match y.l1[Config.victim drawn % y.l1.length]? with
      | some v => del y.l1 v.1
      | none => y.l1
    else y.l1
  { y with l1 := put l1 line m }

/-- A core's copy asked of its cluster (R60, R61). As in `grantHome` (log entry 62), its lease does not end before its write
time. -/
def l1Fill (s : State) (core ctx line : Nat) (need : BitVec 64 := BitVec.allOnes 64) : Except Cause (State × L1Line) := do
  let k := clusterOf core
  let c := (s.core core).clock
  let (s, l) ← clusterRead s k ctx line c need
  let rts := max (min l.rts (c + (s.cluster k).lease.toNat)) l.wts
  let s := s.setCluster k { s.cluster k with lines := put (s.cluster k).lines line { l with granted := max l.granted rts } }
  let part := l.part.map (fun p => (min p.1 (c + (s.cluster k).lease.toNat), p.2))
  let m : L1Line := { data := l.data, fe := l.fe, wts := l.wts, rts := rts, part := part, ctx := ctx }
  let s := s.setCore core (enterL1 (s.core core) line m s.drawn)
  let s := raiseClock s core (max (s.cluster k).clock l.wts)
  .ok ({ s with drawn := s.drawn + 1 }, m)

/-- A line as a load of some of its bytes by the core reads it (R61). -/
def l1Read (s : State) (core ctx line : Nat) (need : BitVec 64 := BitVec.allOnes 64) : Except Cause (State × L1Line) :=
  let y := s.core core
  match look y.l1 line with
  | some m =>
    if y.clock ≤ leaseEnd m.rts m.part need ∧ m.ctx = ctx then (if m.bad then .error .memUncorrectable else .ok (s, m))
    else l1Fill s core ctx line need
  | none => l1Fill s core ctx line need

/-- A read at the home, the copies on its path refreshed by the reply (R66). A dirty copy of the own cluster goes home
first. -/
def homeRead (s : State) (who : Who) (line : Nat) : Except Cause (State × Line) := do
  let k := who.cluster
  let s := pushLine (sameContext (who.ask s) k who.ctx line) k line
  let s ← grantHome s k who.ctx line (who.clock s)
  let bytes := (homeBytes s who.ctx line).getD 0
  let s := who.raise s (homeTimes s line).wts
  if who.own then
    let (s, _) ← l1Fill (l1Drop s who.core line) who.core who.ctx line
    .ok (s, bytes)
  else .ok (s, bytes)

/-- The bytes and full/empty bits of a line as an access of scope `.D` or wider finds them, with what its own cluster holds dirty
merged in (R66, R79). No lease is granted. -/
def homePeek (s : State) (who : Who) (line : Nat) : Except Cause (State × Line × BitVec 16) := do
  let k := who.cluster
  let s := sameContext (who.ask s) k who.ctx line
  let l := lineAt s k line
  if l.bad && l.dirty then throw .memUncorrectable
  match (if l.byteMask = BitVec.allOnes 64 then none else readBar s who.ctx line) with
  | some e => .error e
  | none =>
    let s := fetchLine s line
    let words := l.feMask ||| wholeBits l.byteMask
    .ok (s, mergeBits ((homeBytes s who.ctx line).getD 0) l.data (expandMask l.byteMask),
      (feLine s.empty line &&& ~~~words) ||| (l.fe &&& words))

/-- The reply of an access at the home raises the requester's clock (R60), and the clean copies on its path take the line as it is
there, with the home's write time (R62, R66; log entry 62). The cluster knows the lease its L1 then holds. -/
def homeReply (s : State) (who : Who) (line : Nat) : State :=
  let k := who.cluster
  let wts := (homeTimes s line).wts
  let s := who.raise s wts
  if (readBar s who.ctx line).isSome then (if who.own then l1Drop s who.core line else s)
  else
    let data := (homeBytes s who.ctx line).getD 0
    let fe := feLine s.empty line
    let x := s.cluster k
    let x : Cluster := match look x.lines line with
      | some l => { x with lines := put x.lines line { l with data := data, fe := fe, wts := wts, rts := max l.rts wts, part := none,
                                                               granted := max l.granted wts, bad := false } }
      | none => if who.own && (look (s.core who.core).l1 line).isSome then { x with leaseFloor := max x.leaseFloor wts } else x
    let s := s.setCluster k x
    if who.own then l1Merge s who.core who.ctx line data fe wts none else s

/-- An access of scope `.D` or wider that writes nothing: the own cluster's dirty copy goes home first (R66). -/
def homeLook (s : State) (who : Who) (line : Nat) : State := homeReply (pushLine s who.cluster line) who line

/-- A write at the home (R62, R66). Where the own cluster holds the line dirty it is merged there, and all goes home as one
push. -/
def homeWrite (s : State) (who : Who) (line : Nat) (data mask : Line) (fe feMask : BitVec 16) : State :=
  let k := who.cluster
  let s := sameContext (who.ask s) k who.ctx line
  let alone (s : State) : State :=
    ((List.range 16).filter (fun w => feMask.getLsbD w)).foldl (fun s w => setFe s 0 (16 * line + w) (fe.getLsbD w))
      (homeMerge s who.ctx line data mask (who.clock s)).1
  homeReply (match look (s.cluster k).lines line with
    | some l =>
      if l.dirty then
        let l := l.written who.core data mask fe feMask
        let s := pushLine (s.setCluster k { s.cluster k with lines := put (s.cluster k).lines line l }) k line
        tellCluster s k line mask fe feMask (homeTimes s line).wts
      else alone s
    | none => alone s) who line

/-! ## Stash banks (R72, R96) -/

/-- The key of a stash line. -/
def stashKey (bank line : Nat) : Nat := 16 * line + bank

/-- The place at which a stash bank's words change for the waiters of its core (R220, R231). -/
def bankPlace (core : Nat) : Nat := 64 + core

/-- A stash line, filled from the normal path on its first touch. -/
def stashLine (s : State) (core ctx bank line : Nat) : Except Cause (State × StashLine) :=
  match look (s.core core).stash (stashKey bank line) with
  | some l => if l.bad then .error .memUncorrectable else .ok (s, l)
  | none => do
    let (s, m) ← l1Read s core ctx line
    let l : StashLine := { data := m.data, fe := m.fe, ctx := ctx }
    .ok (s.setCore core { s.core core with stash := put (s.core core).stash (stashKey bank line) l }, l)

/-- A store into a stash line; an error in it stays with it (R428). -/
def stashWrite (s : State) (core ctx bank line : Nat) (data mask : Line) (fe feMask : BitVec 16) : Except Cause State := do
  let (s, l) ← match look (s.core core).stash (stashKey bank line) with
    | some l => .ok (s, l)
    | none => stashLine s core ctx bank line
  let l := { l with data := mergeBits l.data data mask, mask := l.mask ||| bytesOf mask,
                    fe := (l.fe &&& ~~~feMask) ||| (fe &&& feMask), feMask := l.feMask ||| feMask }
  let s := s.setCore core { s.core core with stash := put (s.core core).stash (stashKey bank line) l }
  let changed := (List.range 16).filter (fun w => feMask.getLsbD w)
  .ok { s with changes := s.changes ++ changed.map (fun w => (bankPlace core, 4 * (16 * line + w), fe.getLsbD w)) }

/-- The write-back of a stash line: a push of its dirty bytes (R72). Where the own cluster holds the line dirty they are merged
there, and all goes home as one push (R66). -/
def stashPush (s : State) (core key : Nat) : State :=
  match look (s.core core).stash key with
  | some l =>
    if l.mask = 0 ∧ l.feMask = 0 then s
    else
      let k := clusterOf core
      let line := key / 16
      let s := sameContext (askCluster (if l.bad then poison s line else s) core) k l.ctx line
      let x := lineAt s k line
      let fes := l.feMask ||| wholeBits l.mask
      let s := askCluster (if x.dirty then
          let x := x.written core l.data (expandMask l.mask) l.fe fes
          let s := pushLine (s.setCluster k { s.cluster k with lines := put (s.cluster k).lines line x }) k line
          tellCluster s k line (expandMask l.mask) l.fe l.feMask (homeTimes s line).wts
        else pushBytes s k l.ctx line l.data l.mask l.fe l.feMask) core
      s.setCore core { s.core core with stash := put (s.core core).stash key { l with mask := 0, feMask := 0 } }
  | none => s

/-- The write-back of every dirty stash line of a core, or of one bank (a release, an unmap). -/
def stashPushAll (s : State) (core : Nat) (bank : Option Nat) : State :=
  ((s.core core).stash.filter (fun p => match bank with
    | some b => p.1 % 16 == b
    | none => true)).foldl (fun s p => stashPush s core p.1) s

end Sys2Proof.Machine
end

