-- ==== Sys2Proof/Machine/Queue.lean ====
section
/-!
DEFINITION. Sys2Proof/Machine/Queue.lean: queue windows and command records (R354 to R357).
-/

namespace Sys2Proof.Machine

/-- Byte i of a line. -/
def byteAt (l : Line) (i : Nat) : Byte := (l >>> (8 * i)).setWidth 8

/-- n bytes of a line from byte i, as a number. -/
def numAt (l : Line) (i n : Nat) : Nat := (l >>> (8 * i)).toNat % 2 ^ (8 * n)

/-- A word of a queue window (R354). -/
def queueWord (s : State) (vi off : Nat) : Word :=
  let v := s.viOf vi
  match off with
  | 0x40 => v.qseq
  | 0x44 => v.qref
  | 0x48 => BitVec.ofNat 32 (64 - v.queue.length)
  | 0x4C => v.qerr.setWidth 32
  | 0x50 => v.qdone
  | _ => 0

/-- n bytes of the queue windows, from byte `off` of BAR 2. -/
def queueRead (s : State) (off n : Nat) : Line :=
  BitVec.ofNat 512 (((List.range n).map (fun i =>
    let a := off + i
    (queueWord s (a / 0x1000) (a % 0x1000 / 4 * 4)).toNat / 2 ^ (8 * (a % 4)) % 256 * 2 ^ (8 * i))).sum)

/-- Whether the bytes i to j of a record are zero. -/
def zeroBytes (r : Line) (i j : Nat) : Bool := numAt r i (j + 1 - i) == 0

/-- Whether a shape is one of R338's. -/
def shapeOk (gx gy x y st : Nat) : Bool :=
  1 ≤ gx && 1 ≤ gy && gx * gy ≤ 65535 && 1 ≤ x && x ≤ 16 && 1 ≤ y && y ≤ 8 && 1 ≤ st && st ≤ 8

/-- A LAUNCH or SIGNAL record's fields (R357). -/
def readRecord (vi : BitVec 10) (r : Line) (clock : Nat) : Launch :=
  let flag (i : Nat) := (numAt r 2 2).testBit i
  let signal := numAt r 0 1 == 2
  { vi := vi, signal := signal, cls := BitVec.ofNat 2 (numAt r 1 1), dep := flag 0, depeq := flag 1, cmp := flag 2,
    wake := flag 3, ser := signal || flag 4, pin := !signal && flag 5, disp := !signal && flag 6, gx := numAt r 4 2,
    gy := numAt r 6 2, x := numAt r 8 1, y := numAt r 9 1, stages := numAt r 10 1, scr := numAt r 11 1,
    barmask := BitVec.ofNat 16 (numAt r 12 2), pcl := numAt r 14 1, stageTab := BitVec.ofNat 64 (numAt r 16 8),
    argBlock := BitVec.ofNat 64 (numAt r 24 8), cmpaddr := BitVec.ofNat 64 (numAt r 32 8),
    cmpval := BitVec.ofNat 32 (numAt r 40 4), depval := BitVec.ofNat 32 (numAt r 44 4),
    depaddr := BitVec.ofNat 64 (numAt r 48 8), banks := BitVec.ofNat 14 (numAt r 56 2), clock := clock }

/-- The reason for which a whole record is refused, 0 for none (R356). -/
def refusal (v : Vi) (r : Line) : BitVec 8 :=
  let opc := numAt r 0 1
  let l := readRecord 0 r 0
  let launch := opc == 1
  if 64 ≤ v.queue.length then 0x02
  else if !v.qcfg.getLsbD 31 then 0x03
  else if (opc != 1 && opc != 2) || 4 ≤ numAt r 1 1 || 128 ≤ numAt r 2 2 || numAt r 15 1 != 0 || 0x4000 ≤ numAt r 56 2 ||
      !zeroBytes r 58 63 || (launch && (31 < l.pcl || (l.pcl != 0 && !l.pin))) then 0x04
  else if l.cls.toNat < v.qcfg.toNat / 2 ^ 27 % 4 then 0x05
  else if (launch && (!shapeOk l.gx l.gy l.x l.y l.stages || 8 < l.scr)) ||
      (!launch && !(zeroBytes r 4 14 && zeroBytes r 56 57)) then 0x06
  else if l.stageTab.toNat % 64 != 0 || l.argBlock.toNat % 64 != 0 || l.cmpaddr.toNat % 4 != 0 || l.depaddr.toNat % 4 != 0 then
    0x07
  else if l.cmp && l.cmpval.getLsbD 31 then 0x08
  else if l.pin && !(l.pcl % 4 + l.gx ≤ 4 && l.pcl % 16 / 4 + l.gy ≤ 4) then 0x09
  else if launch && 16 * (v.profile.toNat % 16) < l.x * l.y then 0x0A
  else 0

/-- A refused enqueue (R356). -/
def refuseRecord (s : State) (vi : Nat) (reason : BitVec 8) : State :=
  let v := s.viOf vi
  s.setVi vi { v with qref := v.qref + 1, qerr := reason }

/-- A whole line written to ENQ (R355, R356). -/
def enqueueLine (s : State) (vi : BitVec 10) (r : Line) (clock : Nat) : State :=
  let v := s.viOf vi.toNat
  let reason := refusal v r
  if reason != 0 then refuseRecord s vi.toNat reason
  else
    let s := { s with launches := put s.launches s.serial (readRecord vi r clock), serial := s.serial + 1 }
    s.setVi vi.toNat { v with qseq := v.qseq + 1, queue := v.queue ++ [s.serial - 1] }

/-- A write of n bytes at byte `off` of BAR 2: an enqueue where it is ENQ whole in one transaction, a refusal where it
touches ENQ otherwise, dropped elsewhere (R354, R355). -/
def queueWrite (s : State) (off n : Nat) (data : Line) (whole : Bool) (clock : Nat) : State :=
  let vi := off / 0x1000 % 1024
  if off % 0x1000 < 0x40 then
    if whole && off % 0x1000 == 0 && n == 64 then enqueueLine s (BitVec.ofNat 10 vi) data clock
    else refuseRecord s vi 0x01
  else s

end Sys2Proof.Machine
end

