-- ==== Sys2Proof/Machine/Access.lean ====
section
/-!
DEFINITION. Sys2Proof/Machine/Access.lean: accesses by place and scope (R66, R69, R220): loads with forwarding (R223), writes,
store-buffer entries, atomics. Scopes are coded 0 `.T`, 1 `.C`, 2 `.L`, 3 `.D`, 4 `.S`.
-/

namespace Sys2Proof.Machine

/-- A cache operation's failure as the access's. -/
def ofCause {α : Type} (s : State) (va : DWord) : Except Cause α → Mem α
  | .ok x => .ok x
  | .error c => .error (.fault s c va false)

/-- The registrations of an access are kept here: 0 the home, 1 + k cluster k's cache (R220). -/
def registry (p : Place) (k scope : Nat) : Nat :=
  match p with
  | .localStore c _ => clusterOf c + 1
  | .scratch j _ => j + 1
  | .own _ | .host _ => if scope ≤ 2 then k + 1 else 0
  | .peer _ | .window _ => 0

/-- A place's line and the byte within it. -/
def Place.line (p : Place) : Nat := p.key / 64
def Place.byte (p : Place) : Nat := p.key % 64

/-! ## Time at places without write times (R323, R331, R333)

DESIGN CHOICE (log entry 63): the storage behind a window, and the other module, answer with no write time. The clock of the
cluster behind the window, or the bridge's clock for the other module, stands for it: a write there raises it to the writer's
clock, and a thread that reads there hears of it, which its next acquire makes its core's clock learn. -/

/-- The clock of a place, by its registration number. -/
def clockAt (s : State) (place : Nat) : Nat := if place = 0 then s.bridge.peerClock else (s.cluster (place - 1)).clock

/-- A write that carries clock c raises a place's clock. -/
def raisePlace (s : State) (place c : Nat) : State :=
  if place = 0 then { s with bridge := { s.bridge with peerClock := max s.bridge.peerClock c } } else raiseCluster s (place - 1) c

/-- The registration number of a window's storage, and of the other module. -/
def Place.seat : Place → Nat
  | .localStore c _ => clusterOf c + 1
  | .scratch k _ => k + 1
  | _ => 0

/-- A thread that reads at a place hears of its clock. -/
def hear (s : State) (who : Who) (c : Nat) : State :=
  if who.own then s.setThread who.thread { s.thread who.thread with heard := max (s.thread who.thread).heard c } else s

/-- The order codes of R176: does an access acquire, does it release. -/
def acquires (r : BitVec 2) : Bool := r.getLsbD 0
def releases (r : BitVec 2) : Bool := r.getLsbD 1

/-- An acquire of the issuing thread: its core's clock learns of all that the thread has heard (R221), and of the threads that have
ended (R331; log entry 63). -/
def acquire (s : State) : State := raiseClock s s.myCore (max s.th.heard s.bridge.exitClock)

/-- What an access's order code adds once it has read. -/
def acquireIf (r : BitVec 2) (s : State) : State := if acquires r then acquire s else s

/-! ## Reads -/

/-- Bytes from byte `o` of a line. -/
def fromByte (l : Line) (o : Nat) : Line := l >>> (8 * o)

/-- Bytes placed at byte `o` of a line. -/
def toByte (l : Line) (o : Nat) : Line := l <<< (8 * o)

/-- The storage behind a window, or the other module's memory, from a place to the end of its line; lines of the other module
are opened for a protected context (R92). -/
def readThere (s : State) (who : Who) (va : DWord) (p : Place) : Mem (State × Line) :=
  let s := hear s who (clockAt s p.seat)
  match p with
  | .peer _ => match readBar s who.ctx p.line with
    | some e => ofCause s va (.error e)
    | none => .ok (s, fromByte ((homeBytes s who.ctx p.line).getD 0) p.byte)
  | _ =>
    if s.bridge.poisoned.contains p.line then .error (.fault s .memUncorrectable va false)
    else .ok (s, memRead s.mem p.key (64 - p.byte))

/-- The range a place lies in (R73). -/
def rangeAt (s : State) : Place → Option Nat
  | .own pa => inCrange s.module pa
  | _ => none

/-- DESIGN CHOICE (log entry 45): a line of a commutative range is read as R75 has it, also where a stash bank maps its
address. A read of n bytes at scope `.L` or narrower (R61, R66, R75): the rest of the line answers, the bytes lowest. A queue
window is read at the bridge, as at scope `.S` (R432), and the thread hears of the bridge's time (log entry 63). -/
def readNear (s : State) (who : Who) (va : DWord) (p : Place) (n : Nat := 64) : Mem (State × Line) :=
  match p with
  | .localStore .. | .scratch .. | .peer _ => readThere s who va p
  | .window pa => .ok (hear s who s.bridge.hostClock, queueRead s (pa - s.module.bar2.toNat) (64 - p.byte))
  | .own _ | .host _ =>
    match rangeAt s p with
    | some r =>
      let s := who.ask s
      let l := (look (s.cluster who.cluster).partials p.line).getD { data := identityLine (crOp s.module r) (crFmt s.module r) }
      if l.bad then .error (.fault s .memUncorrectable va false) else .ok (s, fromByte l.data p.byte)
    | none =>
      match stashBank s who va with
      | some (_, true) => .error (.wait s)
      | some (b, false) => do
        let (s, l) ← ofCause s va (stashLine s who.core who.ctx b p.line)
        return (s, fromByte l.data p.byte)
      | none =>
        if who.own then do
          let (s, l) ← ofCause s va (l1Read s who.core who.ctx p.line (needOf p.byte n))
          return (s, fromByte l.data p.byte)
        else do
          let (s, l) ← ofCause s va (clusterRead s who.cluster who.ctx p.line (s.cluster who.cluster).clock (needOf p.byte n))
          return (s, fromByte l.data p.byte)

/-- A read of scope `.D` or `.S` (R66, R75). In a range mapped by a stash bank it is performed in the bank (R220). -/
def readFar (s : State) (who : Who) (va : DWord) (p : Place) : Mem (State × Line) :=
  match p with
  | .own _ | .host _ =>
    if (stashBank s who va).isSome then readNear s who va p
    else do
      let s := match rangeAt s p with
        | some n => combineLine (who.ask s) n who.ctx p.line (who.clock (who.ask s)) allClusters
        | none => s
      let (s, l) ← ofCause s va (homeRead s who p.line)
      return (s, fromByte l p.byte)
  | _ => readNear s who va p

/-- What the store buffer holds for the needed bits of n bytes of an address (R223): nothing, all of them (in a vector
store or another), or a reason to wait. -/
inductive Forward where
  | nothing
  | bytes (l : Line) (vec : Bool)
  | waits
deriving DecidableEq, Repr

/-- The requester of a buffered entry, as its thread was at issue. -/
def entryWho (core : Nat) (e : StoreEntry) : Who :=
  { thread := e.thread, cls := e.cls, vi := e.vi, mode := e.mode, core := core, cluster := clusterOf core, own := true,
    waiter := .drain core, ctx := e.ctx }

/-- How n bytes lie to a buffered entry: they do not meet; they begin d bytes after its first byte; or only the entry's
translation will tell, as both have the same place in their pages. -/
inductive Lie where
  | apart
  | at (d : Int)
  | open
deriving DecidableEq, Repr

/-- Whether n bytes d bytes after an entry's first meet it. -/
def StoreEntry.meets (e : StoreEntry) (d : Int) (n : Nat) : Bool := decide (-(n : Int) < d ∧ d < e.n)

/-- How n bytes at an address and a place lie to a buffered entry (R223, R324): by address in one address space, otherwise by
place, as far as the core's own translations give it. -/
def StoreEntry.lie (s : State) (who : Who) (e : StoreEntry) (va : DWord) (p : Place) (n : Nat) : Lie :=
  let pasid (v : BitVec 10) := (s.viOf v.toNat).pasid
  let near := (va - e.va).toInt
  let there (d : Int) : Lie := if e.meets d n then .at d else .apart
  if e.fixedAt.isNone ∧ pasid e.vi = pasid who.vi ∧ e.meets near n then .at near
  else match e.fixedAt.orElse (fun _ => e.away.map (fun x => x.place.key)) with
    | some key => there (p.key - key : Int)
    | none =>
      match resolve s (entryWho who.core e) .write e.va with
      | .ok (_, q) => there (p.key - q.key : Int)
      | .error (.wait _) => if e.meets ((va.toNat % 4096 : Nat) - (e.va.toNat % 4096 : Nat) : Int) n then .open else .apart
      | .error (.fault ..) => .apart

/-- The bits an entry stores among n bytes that begin d bytes after its first, lowest first, and their mask. -/
def StoreEntry.overlap (e : StoreEntry) (d : Int) (n : Nat) : Line × Line :=
  let m := e.mask &&& byteMask e.n
  let (x, k) := if d < 0 then (e.data <<< (8 * d.natAbs), m <<< (8 * d.natAbs)) else (e.data >>> (8 * d.natAbs), m >>> (8 * d.natAbs))
  (x, k &&& byteMask n)

/-- The youngest entry that covers any needed bit decides (R223). -/
def forward (s : State) (who : Who) (va : DWord) (p : Place) (n : Nat) (need : Line) : Forward :=
  match (s.core who.core).buffer.reverse.findSome? (fun e =>
      match e.lie s who va p n with
      | .apart => none
      | .open => some (e, none)
      | .at d => if (e.overlap d n).2 &&& need = 0 then none else some (e, some (e.overlap d n))) with
  | none => .nothing
  | some (_, none) => .waits
  | some (e, some (x, m)) =>
    match e.kind with
    | .reduction _ _ => .waits
    | k => if m &&& need = need then .bytes (x &&& m) (k == .vec) else .waits

/-- Loads of a core in flight that satisfy a test are performed. -/
def settleWhere (s : State) (core : Nat) (test : Late → Bool) : State :=
  let open_ (p : Producer) : Bool := p.late.any test
  (List.range 8).foldl (fun s i =>
    let th := s.thread (core * 8 + i)
    if th.producers.any open_ then
      s.setThread (core * 8 + i) { th with producers := th.producers.map (fun p => if open_ p then { p with late := none } else p) }
    else s) s

/-- Earlier loads of a core from a line, in flight, are performed before a later access of the core there (R324, R326); all of them
before a write that the core makes at issue, past its store buffer (R326). -/
def settleLoads (s : State) (core line : Nat) : State := settleWhere s core (fun l => l.place.line == line)
def settleCore (s : State) (core : Nat) : State := settleWhere s core (fun _ => true)

/-- The earlier loads of the issuing thread have been performed: a release and a fence see to it (R221, R225). -/
def performLoads (s : State) : State :=
  if s.th.producers.any (·.late.isSome) then
    s.setTh { s.th with producers := s.th.producers.map (fun p => { p with late := none }) }
  else s

/-- A load of n bytes of a thread, in one line (R18, R223): the bytes lowest. A load of a queue window (R432) waits until the
buffered stores to its bytes have been performed; every other is served from the buffer where it can be (R329). -/
def loadBytes (s : State) (who : Who) (va : DWord) (n scope : Nat) : Mem (State × Line) := do
  let (s, p) ← resolve s who .read va
  let s := settleLoads s who.core p.line
  let window : Bool := match p with
    | .window _ => true
    | _ => false
  match forward s who va p n (byteMask n) with
  | .waits => .error (.wait s)
  | .bytes l _ => if window then .error (.wait s) else return (s, l)
  | .nothing =>
    let (s, l) ← if scope ≤ 2 then readNear s who va p n else readFar s who va p
    return (s, l &&& byteMask n)

/-- What is left open of a load of the issuing thread that is served by no buffered store: when it is performed (R17, R327; log
entry 10). A load through a window needs no translation, and is performed and tested at issue (R27). -/
def lateLoad (s : State) (va : DWord) (n ext : Nat) : Option Late :=
  match resolve s (me s) .read va with
  | .ok (s, p) =>
    match p, forward s (me s) va p n (byteMask n) with
    | .window _, _ | .localStore .., _ | .scratch .., _ => none
    | _, .nothing => some { va := va, n := n, place := p, ext := ext, after := (s.core s.myCore).buffer.length }
    | _, _ => none
  | .error _ => none

/-- A read of a copy or an engine, at scope `.L`, `.D` or `.S`, in one line (R83, R264). -/
def agentRead (s : State) (who : Who) (va : DWord) (n scope : Nat) : Mem (State × Line) := do
  let (s, p) ← resolve s who .read va
  let (s, l) ← if scope ≤ 2 then readNear s who va p n else readFar s who va p
  return (s, l &&& byteMask n)

/-! ## Writes -/

/-- The words of n bytes of which a mask covers any byte. -/
def wordsMasked (key n : Nat) (mask : Line) : List Nat :=
  (wordKeys key n).filter (fun w => (List.range n).any (fun i => (key + i) / 4 == w && (mask >>> (8 * i)).setWidth 8 != (0 : Byte)))

/-- A write that carries clock c into a window's storage or the other module's memory, with the waiters there woken (R220,
R241). -/
def writeThere (s : State) (place key n : Nat) (data mask : Line) (c : Nat) : State :=
  let s := raisePlace { s with mem := memWrite s.mem key n data mask } place c
  wakeWords s place (wordsMasked key n mask) (clockAt s place)

/-- A write of the masked bits of n bytes in one line behind a window or in the other module, sealed for a context (R92). -/
def writeOut (s : State) (who : Who) (p : Place) (n : Nat) (data mask : Line) : State :=
  match p, who.ctx with
  | .peer _, _ + 1 =>
    let s := raisePlace (mergeLine s who.ctx p.line (toByte data p.byte) (toByte mask p.byte)) 0 (who.clock s)
    wakeWords s 0 (wordsMasked p.key n mask) (clockAt s 0)
  | _, _ => writeThere s p.seat p.key n data mask (who.clock s)

/-- A write into a line of the own module or of the host (R66, R72), where the place is not in a range: `fe` and `feMask`
change full/empty bits with it. Nothing is wanted of a line with an uncorrectable error: the bytes go to its home, where it is
poisoned (R428). A part of a sealed line whose tag does not check is not written (R92). -/
def lineWrite (s : State) (who : Who) (va : DWord) (p : Place) (data mask : Line) (fe feMask : BitVec 16) (scope : Nat) : Mem State :=
  let poisoned := s.bridge.poisoned.contains p.line
  match stashBank s who va with
  | some (_, true) => .error (.wait s)
  | some (b, false) =>
    match stashWrite s who.core who.ctx b p.line data mask fe feMask with
    | .error .memUncorrectable => .ok (homeWrite (poison s p.line) who p.line data mask fe feMask)
    | r => ofCause s va r
  | none =>
    if poisoned then .ok (homeWrite s who p.line data mask fe feMask)
    else if scope ≤ 2 then ofCause s va (clusterWrite s who p.line data mask fe feMask)
    else if mask != BitVec.allOnes 512 && (homeBytes s who.ctx p.line).isNone then ofCause s va (.error .sealFail)
    else .ok (homeWrite s who p.line data mask fe feMask)

/-- A write of the masked bits of n bytes in one line, at a scope (R66, R83). `whole` marks a copy's row line. -/
def writeBytes (s : State) (who : Who) (va : DWord) (p : Place) (n : Nat) (data mask : Line) (scope : Nat) (whole : Bool) :
    Mem State :=
  let mask := mask &&& byteMask n
  match p with
  | .localStore .. | .scratch .. | .peer _ => .ok (writeOut s who p n data mask)
  | .window pa => .ok (queueWrite s (pa - s.module.bar2.toNat) n data whole (who.clock s))
  | .own _ | .host _ =>
    if (rangeAt s p).isSome then .error (.fault s .crangeConflict va false)
    else lineWrite s who va p (toByte data p.byte) (toByte mask p.byte) 0 0 scope

/-- A write of a copy or an engine, in one line (R83, R264). -/
def agentWrite (s : State) (who : Who) (va : DWord) (n : Nat) (data mask : Line) (scope : Nat) (whole : Bool) :
    Mem State := do
  let (s, p) ← resolve s who .write va
  writeBytes s who va p n data mask scope whole

/-! ## Read and write at one place (R69, R74) -/

/-- An update: what is written for the old value (none writes nothing), and the commutative update it may match: its
operation, the formats of the ranges it fits, and its operand (R74). -/
structure Update where
  f : Nat → Option Nat
  cr : Option (Nat × List Nat × Nat) := none
  /-- The old value is answered: an error in it fails the access (R428). -/
  reads : Bool := true

/-- The operand of an update that matches a range (R74). -/
def Update.fits (u : Update) (m : Module) (rng : Nat) : Option Nat :=
  match u.cr with
  | some (o, formats, x) => if o = crOp m rng ∧ crFmt m rng ∈ formats then some x else none
  | none => none

/-- An update of a partial, where it matches the range (R74). -/
def updatePartial (s : State) (who : Who) (va : DWord) (p : Place) (rng : Nat) (u : Update) : Mem (State × Nat) :=
  match u.fits s.module rng with
  | some x =>
    let op := crOp s.module rng
    let f := crFmt s.module rng
    let w := crBits f
    let k := who.cluster
    let s := who.ask s
    let s := if (look (s.cluster k).partials p.line).isNone then makeRoom s k else s
    let l := (look (s.cluster k).partials p.line).getD { data := identityLine op f }
    if l.bad && u.reads then .error (.fault s .memUncorrectable va false) else
    let i := p.byte * 8 / w
    let m := elemOf l.data w i
    let bits : Line := BitVec.ofNat 512 ((2 ^ w - 1) * 2 ^ (w * i))
    let new := mergeBits l.data (BitVec.ofNat 512 (crUpdate op f m x * 2 ^ (w * i))) bits
    let s := s.setCluster k { s.cluster k with
      partials := put (s.cluster k).partials p.line { l with data := new, ctx := if who.ctx = 0 then l.ctx else who.ctx } }
    .ok (wakeWords s (k + 1) ((wordsTouched (bytesOf bits)).map (fun w => 16 * p.line + w)) (who.clock s), m)
  | none => .error (.fault s .crangeConflict va false)

/-- Room in a core's store buffer (R223), which the stores on their way have left (R352). -/
def bufferRoom (s : State) (core : Nat) : Bool :=
  decide (((s.core core).buffer.filter (fun e => e.away.isNone)).length < Config.storeBufferEntries)

/-- An entry joins its core's buffer. -/
def enterBuffer (s : State) (core : Nat) (e : StoreEntry) : State :=
  s.setCore core { s.core core with buffer := (s.core core).buffer ++ [e] }

/-- The full/empty bit of a word as a thread of the core sees it at scope `.T` or `.C`: the youngest buffered change, or
else the core's copy. -/
def bufferedFe (s : State) (who : Who) (va : DWord) (p : Place) : Option Bool :=
  (s.core who.core).buffer.reverse.findSome? (fun e => if e.lie s who va p 4 = .at 0 then e.feBit else none)

/-- Whether only its translation will tell if a buffered entry of the core meets n bytes. -/
def bufferOpen (s : State) (who : Who) (va : DWord) (p : Place) (n : Nat) : Bool :=
  (s.core who.core).buffer.any (fun e => e.lie s who va p n == .open)

/-- Whether a buffered entry of the core writes, or changes a full/empty bit, among n bytes: an access performed beyond the
core waits for it (R233, R326). -/
def bufferTouches (s : State) (who : Who) (va : DWord) (p : Place) (n : Nat) : Bool :=
  (s.core who.core).buffer.any (fun e =>
    match e.lie s who va p n with
    | .apart => false
    | .open => true
    | .at d => (e.overlap d n).2 != 0 || e.feBit.isSome)

/-- The bridge takes M for an atomic of scope `.S` on a module line, and of scope `.D` on a host line, whether or not it writes
(R69). -/
def atomicTakes (s : State) (p : Place) (scope : Nat) : State :=
  match p with
  | .own _ => if scope = 4 then takeLine s p.line else s
  | .host _ => if scope = 3 then takeLine s p.line else s
  | _ => s

/-- An atomic of scope `.S` on a host line is performed at the host's home, and leaves the bridge no copy (R69). -/
def atomicLeaves (s : State) (p : Place) (scope : Nat) : State :=
  match p with
  | .host _ => if scope = 4 then { s with bridge := { s.bridge with held := del s.bridge.held p.line } } else s
  | _ => s

/-- An indivisible read and write of n bytes at the place of R69. -/
def updateAt (s : State) (who : Who) (va : DWord) (n scope : Nat) (u : Update) : Mem (State × Nat) := do
  let (s, p) ← resolve s who .modify va
  let s := settleCore s who.core
  let inPlace (s : State) (old : Line) (write : State → Line → Mem State) : Mem (State × Nat) :=
    let m := (old &&& byteMask n).toNat
    match u.f m with
    | none => .ok (s, m)
    | some x => do
      let s ← write s (BitVec.ofNat 512 x)
      return (s, m)
  match p with
  | .window _ => .error (.fault s .permissionFault va false)
  | .localStore .. | .scratch .. | .peer _ =>
    if bufferTouches s who va p n then .error (.wait s)
    else do
      let (s, l) ← readThere s who va p
      inPlace s l (fun s x => .ok (writeOut s who p n x (byteMask n)))
  | .own _ | .host _ =>
    match rangeAt s p with
    | some rng => if bufferTouches s who va p n then .error (.wait s) else updatePartial s who va p rng u
    | none =>
      let stash := stashBank s who va
      match stash with
      | some (_, true) => .error (.wait s)
      | _ =>
        if stash.isSome ∨ scope ≤ 1 then
          match forward s who va p n (byteMask n) with
          | .waits => .error (.wait s)
          | .bytes l _ => coreUpdate s l
          | .nothing => do
            let (s, l) ← readNear s who va p n
            coreUpdate s l
        else if bufferTouches s who va p n then .error (.wait s)
        else if scope = 2 then do
          let (s, l) ← ofCause s va (clusterAtomic s who p.line (needOf p.byte n))
          inPlace s (fromByte l.data p.byte) (fun s x =>
            ofCause s va (clusterWrite s who p.line (toByte x p.byte) (toByte (byteMask n) p.byte) 0 0))
        else do
          let (s, l, _) ← ofCause s va (homePeek s who p.line)
          let m := (fromByte l p.byte &&& byteMask n).toNat
          let s := atomicTakes s p scope
          let s := match u.f m with
            | some x => homeWrite s who p.line (toByte (BitVec.ofNat 512 x) p.byte) (toByte (byteMask n) p.byte) 0 0
            | none => homeLook s who p.line
          return (atomicLeaves s p scope, m)
where
  /-- The core atomic unit: the result enters the store buffer as one store of scope `.L` (R69, R223). -/
  coreUpdate (s : State) (old : Line) : Mem (State × Nat) :=
    let m := (old &&& byteMask n).toNat
    match u.f m with
    | none => .ok (s, m)
    | some x =>
      if bufferRoom s who.core then
        .ok (enterBuffer s who.core { thread := who.thread, vi := who.vi, va := va, n := n, data := BitVec.ofNat 512 x &&& byteMask n,
                                      mask := byteMask n, pc := (s.thread who.thread).pc, mode := who.mode, cls := who.cls,
                                      ctx := who.ctx, ended := (s.thread who.thread).ends || (s.thread who.thread).stops }, m)
      else .error (.wait s)

/-! ## Full/empty accesses (R228) -/

/-- What a full/empty instruction does to a word whose bit is given: none where it has to wait; else the word it writes, if
any, and the new bit. -/
abbrev FeAct := Bool → Option (Option Word × Bool)

/-- A line's word and its bit. -/
def wordOf (l : Line) (o : Nat) : Word := (fromByte l o).setWidth 32
def feBitOf (fe : BitVec 16) (o : Nat) : Bool := fe.getLsbD (o / 4)

/-- One attempt of a full/empty instruction at its place: none where the attempt fails, else the old word and bit. -/
def feAttempt (s : State) (who : Who) (va : DWord) (k : Right) (scope : Nat) (act : FeAct) :
    Mem (State × Option (Word × Bool)) := do
  let (s, p) ← resolve s who k va
  let s := settleCore s who.core
  let o := p.byte
  let m := toByte (byteMask 4) o
  let bits : BitVec 16 := BitVec.ofNat 16 (2 ^ (o / 4))
  let mask (w : Option Word) : Line := if w.isSome then m else 0
  let data (w : Option Word) : Line := toByte ((w.getD 0).setWidth 512) o
  let fe (b : Bool) : BitVec 16 := if b then bits else 0
  match p with
  | .window _ => .error (.fault s .permissionFault va false)
  | .host _ => .error (.fault s .feHost va false)
  | .localStore .. | .scratch .. | .peer _ =>
    if bufferTouches s who va p 4 then .error (.wait s)
    else
      let (s, l) ← readThere s who va p
      let full := feFull s.empty (p.key / 4)
      match act full with
      | none => return (s, none)
      | some (w, b) =>
        let s := if w.isSome then writeOut s who p 4 ((w.getD 0).setWidth 512) (byteMask 4) else raisePlace s p.seat (who.clock s)
        return (setFe s p.seat (p.key / 4) b, some (l.setWidth 32, full))
  | .own pa =>
    if (inCrange s.module pa).isSome then .error (.fault s .crangeConflict va false)
    else
      match stashBank s who va with
      | some (_, true) => .error (.wait s)
      | stash =>
        if stash.isSome ∨ scope ≤ 1 then
          let (s, l, f) ← match stash with
            | some (b, _) => do
              let (s, l) ← ofCause s va (stashLine s who.core who.ctx b p.line)
              pure (s, l.data, l.fe)
            | none => do
              let (s, l) ← ofCause s va (l1Read s who.core who.ctx p.line (needOf p.byte 4))
              pure (s, l.data, l.fe)
          if bufferOpen s who va p 4 then throw (.wait s)
          let old ← match forward s who va p 4 (byteMask 4) with
            | .waits => .error (.wait s)
            | .bytes x _ => pure (x.setWidth 32)
            | .nothing => pure (wordOf l o)
          let full := (bufferedFe s who va p).getD (feBitOf f o)
          match act full with
          | none => return (s, none)
          | some (w, b) =>
            if w.isNone ∧ b = full then return (s, some (old, full))
            else if bufferRoom s who.core then
              let e : StoreEntry := { thread := who.thread, vi := who.vi, va := va, n := 4, data := (w.getD 0).setWidth 512,
                                      mask := if w.isSome then byteMask 4 else 0, pc := (s.thread who.thread).pc,
                                      mode := who.mode, cls := who.cls, ctx := who.ctx,
                                      ended := (s.thread who.thread).ends || (s.thread who.thread).stops,
                                      feBit := if b = full then none else some b }
              return (enterBuffer s who.core e, some (old, full))
            else .error (.wait s)
        else if bufferTouches s who va p 4 then .error (.wait s)
        else if scope = 2 then
          let (s, l) ← ofCause s va (clusterAsk s who p.line (needOf p.byte 4))
          let full := feBitOf l.fe o
          match act full with
          | none => return (s, none)
          | some (w, b) =>
            if w.isNone ∧ b = full then return (s, some (wordOf l.data o, full))
            else
              let s ← ofCause s va (clusterWrite s who p.line (data w) (mask w) (fe b) (if b = full then 0 else bits))
              return (s, some (wordOf l.data o, full))
        else
          let (s, l, f) ← ofCause s va (homePeek s who p.line)
          let s := atomicTakes s p scope
          let full := feBitOf f o
          match act full with
          | none => return (homeLook s who p.line, none)
          | some (w, b) =>
            if w.isNone ∧ b = full then return (homeLook s who p.line, some (wordOf l o, full))
            else return (homeWrite s who p.line (data w) (mask w) (fe b) (if b = full then 0 else bits), some (wordOf l o, full))

/-! ## Releases (R221) -/

/-- Whether every store a thread has issued has drained (R226). -/
def drained (s : State) (t : Nat) : Bool := (s.core (coreOf t)).buffer.all (fun e => e.thread != t)

/-- Whether every copy request a thread has issued has been dispatched (R82, R221). -/
def dispatched (s : State) (t : Nat) : Bool := (s.core (coreOf t)).copies.all (fun r => r.thread != s.refOf t)

/-- What a release of a scope pushes: the stash banks' dirty lines, and for `.D` or `.S` the core's cluster-dirty lines
(R67, R72). -/
def releasePush (s : State) (core scope : Nat) : State :=
  let s := if 2 ≤ scope then stashPushAll s core none else s
  if 3 ≤ scope then pushCore s core else s

/-- A release at issue: the thread's earlier stores have drained, its loads are performed, its copy requests have been dispatched,
and the pushes are made. -/
def release (s : State) (scope : Nat) : Eff State := do
  waitFor (drained s s.cur && dispatched s s.cur) s
  .ok (releasePush (performLoads s) s.myCore scope)

/-- The release an access's order code asks for. -/
def releaseIf (r : BitVec 2) (scope : Nat) (s : State) : Eff State := if releases r then release s scope else .ok s

/-! ## Failures of an access at issue (R219, R375) -/

/-- An access of the issuing thread: a fault is a precise trap, or an upcall where R380 makes it one. -/
def atIssue {α : Type} (canUpcall : Bool) : Mem α → Eff α
  | .ok x => .ok x
  | .error (.wait s) => .error (.stall s)
  | .error (.fault s c va soft) =>
    .error (.trap s { cause := c, tval := if c = .sealFail then linePa s (me s) va else va, upcall := soft && canUpcall })

end Sys2Proof.Machine
end

