-- ==== Sys2Proof/Machine/LoadStore.lean ====
section
/-!
DEFINITION. Sys2Proof/Machine/LoadStore.lean: plain and ordered loads and stores, constant windows, fences, line operations and presence
instructions (R203, R205, R217 to R227, R243).
-/

namespace Sys2Proof.Machine

/-! ## The parts every memory instruction shares (R217) -/

/-- The effective address of a memory operand (R11): the index under its t bit, the base under TH_STAT.PTRAP. -/
def address (st : State) (x : BitVec 5) (g : BitVec 3) (s : BitVec 1) (imm : Int) : Eff DWord := do
  let i ← readT st x s
  let b ← readB st g st.th.ptrap
  .ok (effAddr b i imm)

/-- The alignment check of R218. -/
def aligned (st : State) (ea : DWord) (n : Nat) : Eff Unit := require (ea.toNat % n == 0) (misaligned st ea)

/-- No producer in flight awaits the destinations (R104). -/
def destFree (st : State) (rs : List RegRef) : Eff Unit := waitFor (!rs.any (refBusy st.th)) st

/-- The destination of a 4-byte or of an 8-byte result: rd, or rd and rd + 1. -/
def destRefs (st : State) (d : BitVec 5) (pair : Bool) : List RegRef :=
  if pair then scalarRef st.th d ++ scalarRef st.th (d + 1) else scalarRef st.th d

/-- A value on its way to rd, or to rd and rd + 1. -/
def toDest (st : State) (d : BitVec 5) (pair : Bool) (v : Nat) : List Landing :=
  let at_ (r : BitVec 5) (v : Nat) : List Landing := (scalarRef st.th r).map (fun x => { reg := x, value := BitVec.ofNat 256 v })
  if pair then at_ d (v % 2 ^ 32) ++ at_ (d + 1) (v / 2 ^ 32) else at_ d v

/-- A scalar or pair source under TH_STAT.PTRAP, as a number. -/
def readPair (st : State) (d : BitVec 5) (pair : Bool) (k : Nat) : Eff Nat := do
  let lo ← readP st d k
  if pair then
    let hi ← readP st (d + 1)
    .ok (lo.toNat + 2 ^ 32 * hi.toNat)
  else .ok lo.toNat

/-- A narrow value sign-extended to a register. -/
def extend (w v : Nat) : Nat := unsigned 32 (signed w (v % 2 ^ w))

/-- The register value of a load, sign-extended from a width (0: as it is). -/
def loadValue (ext v : Nat) : Nat := if ext = 0 then v else extend ext v

/-- A load of n bytes of scope `.L` (R222), sign-extended from `ext` bits. -/
def load (n : Nat) (pair : Bool) (ext : Nat) (d x : BitVec 5) (g : BitVec 3) (s : BitVec 1) (i : BitVec 12)
    (st : State) : Host.Outcome State Fault Refusal :=
  finishKeeping [x] do
    let ea ← address st x g s (i.toInt * n)
    aligned st ea n
    destFree st (destRefs st d pair)
    let (st', l) ← atIssue true (loadBytes st (me st) ea n 2)
    let st' ← launch st' { landings := toDest st' d pair (loadValue ext l.toNat), late := lateLoad st' ea n ext }
    .ok (completeReading st' [x])

/-- A load in flight, not yet performed, is performed now (R17, R327): its registers will take what its place gives now. -/
def performLoad (st : State) (t k : Nat) : State :=
  match (st.thread t).producers[k]? with
  | some p => match p.late with
    | some l => match readNear st (whoThread st t) l.va l.place l.n with
      | .ok (st, x) =>
        let v := loadValue l.ext (x &&& byteMask l.n).toNat
        let value (i : Nat) (r : RegRef) : Nat := match r with
          | .scalar _ => v / 2 ^ (32 * i) % 2 ^ 32
          | _ => v
        let landings := p.landings.zipIdx.map (fun y => { y.1 with value := BitVec.ofNat 256 (value y.2 y.1.reg) })
        let th := st.thread t
        st.setThread t { th with producers := replaceAt th.producers k { p with landings := landings, late := none } }
      | .error _ => st
    | none => st
  | none => st

/-- The entry of a store of the issuing thread; a thread whose block has been ended leaves no record of it (R391). -/
def storeEntry (st : State) (va : DWord) (n : Nat) (data : Nat) : StoreEntry :=
  { thread := st.cur, vi := st.th.vi, va := va, n := n, data := BitVec.ofNat 512 data, mask := byteMask n, pc := st.th.pc,
    mode := st.th.mode, cls := st.th.cls, ctx := sealOf st st.cur, ended := st.th.ends || st.th.stops }

/-- A store enters the store buffer, or waits for room (R223). -/
def buffer (st : State) (e : StoreEntry) : Eff State := do
  waitFor (bufferRoom st st.myCore) st
  .ok (enterBuffer st st.myCore e)

/-- A plain store of n bytes (R222). -/
def store (n : Nat) (pair : Bool) (d x : BitVec 5) (g : BitVec 3) (s : BitVec 1) (i : BitVec 12) (st : State) :
    Host.Outcome State Fault Refusal :=
  finishKeeping [x, d] do
    let ea ← address st x g s (i.toInt * n)
    let v ← readPair st d pair (earlierReads [x] d)
    aligned st ea n
    let st' ← buffer st (storeEntry st ea n (v % 2 ^ (8 * n)))
    .ok (completeReading st' [x, d])

/-- LB (R222). Loads a sign-extended byte. -/
def execLb (d : BitVec 5) (x : BitVec 5) (g : BitVec 3) (s : BitVec 1) (i : BitVec 12) (st : State) : Host.Outcome State Fault Refusal :=
  load 1 false 8 d x g s i st

/-- LBU (R222). Loads a zero-extended byte. -/
def execLbu (d : BitVec 5) (x : BitVec 5) (g : BitVec 3) (s : BitVec 1) (i : BitVec 12) (st : State) : Host.Outcome State Fault Refusal :=
  load 1 false 0 d x g s i st

/-- LH (R222). Loads a sign-extended half. -/
def execLh (d : BitVec 5) (x : BitVec 5) (g : BitVec 3) (s : BitVec 1) (i : BitVec 12) (st : State) : Host.Outcome State Fault Refusal :=
  load 2 false 16 d x g s i st

/-- LHU (R222). Loads a zero-extended half. -/
def execLhu (d : BitVec 5) (x : BitVec 5) (g : BitVec 3) (s : BitVec 1) (i : BitVec 12) (st : State) : Host.Outcome State Fault Refusal :=
  load 2 false 0 d x g s i st

/-- LW (R222). Loads a word; marks rd empty until arrival. -/
def execLw (d : BitVec 5) (x : BitVec 5) (g : BitVec 3) (s : BitVec 1) (i : BitVec 12) (st : State) : Host.Outcome State Fault Refusal :=
  load 4 false 0 d x g s i st

/-- LDP (R222). Loads 8 bytes into a register pair. -/
def execLdp (d : BitVec 5) (x : BitVec 5) (g : BitVec 3) (s : BitVec 1) (i : BitVec 12) (st : State) : Host.Outcome State Fault Refusal :=
  load 8 true 0 d x g s i st

/-- SB (R222). Stores a byte into the store buffer. -/
def execSb (d : BitVec 5) (x : BitVec 5) (g : BitVec 3) (s : BitVec 1) (i : BitVec 12) (st : State) : Host.Outcome State Fault Refusal :=
  store 1 false d x g s i st

/-- SH (R222). Stores a half. -/
def execSh (d : BitVec 5) (x : BitVec 5) (g : BitVec 3) (s : BitVec 1) (i : BitVec 12) (st : State) : Host.Outcome State Fault Refusal :=
  store 2 false d x g s i st

/-- SW (R222). Stores a word. -/
def execSw (d : BitVec 5) (x : BitVec 5) (g : BitVec 3) (s : BitVec 1) (i : BitVec 12) (st : State) : Host.Outcome State Fault Refusal :=
  store 4 false d x g s i st

/-- STP (R222). Stores a register pair as 8 bytes. -/
def execStp (d : BitVec 5) (x : BitVec 5) (g : BitVec 3) (s : BitVec 1) (i : BitVec 12) (st : State) : Host.Outcome State Fault Refusal :=
  store 8 true d x g s i st

/-- LDB (R205). Loads 8 bytes into a base register. -/
def execLdb (d : BitVec 3) (x : BitVec 5) (g : BitVec 3) (s : BitVec 1) (i : BitVec 12) (st : State) : Host.Outcome State Fault Refusal :=
  finishKeeping [x] do
    let ea ← address st x g s (i.toInt * 8)
    aligned st ea 8
    let refs : List RegRef := if d = 0 then [] else [.base d.toNat]
    destFree st refs
    let (st', l) ← atIssue true (loadBytes st (me st) ea 8 2)
    let st' ← launch st' { landings := refs.map (fun r => { reg := r, value := l.setWidth 256 }), late := lateLoad st' ea 8 0 }
    .ok (completeReading st' [x])

/-- STB (R205). Stores a base register as 8 bytes. -/
def execStb (d : BitVec 3) (x : BitVec 5) (g : BitVec 3) (s : BitVec 1) (i : BitVec 12) (st : State) : Host.Outcome State Fault Refusal :=
  finishKeeping [x] do
    let ea ← address st x g s (i.toInt * 8)
    let v ← readB st d st.th.ptrap
    aligned st ea 8
    let st' ← buffer st (storeEntry st ea 8 v.toNat)
    .ok (completeReading st' [x])

/-- A word of a constant window (R103). -/
def constRead (st : State) (c : BitVec 2) (w : BitVec 14) : Eff (State × Word) :=
  let size := lookD st.th.cwsize c.toNat 0
  if !size.getLsbD 31 then .error (.trap st { cause := .paramUnbound, tval := c.setWidth 64 })
  else if size.toNat % 2 ^ 17 ≤ 4 * w.toNat then .ok (st.setTh { st.th with cwoob := true }, 0)
  else do
    let ea := lookD st.th.cwbase c.toNat 0 + BitVec.ofNat 64 (4 * w.toNat)
    let (st', l) ← atIssue true (loadBytes st (me st) ea 4 2)
    .ok (st', l.setWidth 32)

/-- A form with a constant-window operand (R203): the slot waits for the word, and rd is written when it has come. A trap
leaves CWOOB as it was (R183). -/
def constForm (f : Word → Word → Word) (d a : BitVec 5) (c : BitVec 2) (w : BitVec 14) (st : State) :
    Host.Outcome State Fault Refusal :=
  finishKeeping [a] do
    let x ← readP st a
    let (st', y) ← constRead st c w
    let st' ← trapIn st (writeX st' d (f x y))
    .ok (completeReading st' [a])

/-- ADDC (R203). Adds a constant-window word. -/
def execAddc (d : BitVec 5) (a : BitVec 5) (c : BitVec 2) (w : BitVec 14) (st : State) : Host.Outcome State Fault Refusal :=
  constForm (fun x y => x + y) d a c w st

/-- SUBC (R203). Subtracts a constant-window word. -/
def execSubc (d : BitVec 5) (a : BitVec 5) (c : BitVec 2) (w : BitVec 14) (st : State) : Host.Outcome State Fault Refusal :=
  constForm (fun x y => x - y) d a c w st

/-- ANDC (R203). ANDs with a constant-window word. -/
def execAndc (d : BitVec 5) (a : BitVec 5) (c : BitVec 2) (w : BitVec 14) (st : State) : Host.Outcome State Fault Refusal :=
  constForm (fun x y => x &&& y) d a c w st

/-- ORC (R203). ORs with a constant-window word. -/
def execOrc (d : BitVec 5) (a : BitVec 5) (c : BitVec 2) (w : BitVec 14) (st : State) : Host.Outcome State Fault Refusal :=
  constForm (fun x y => x ||| y) d a c w st

/-- XORC (R203). XORs with a constant-window word. -/
def execXorc (d : BitVec 5) (a : BitVec 5) (c : BitVec 2) (w : BitVec 14) (st : State) : Host.Outcome State Fault Refusal :=
  constForm (fun x y => x ^^^ y) d a c w st

/-- MULC (R203). Multiplies by a constant-window word. -/
def execMulc (d : BitVec 5) (a : BitVec 5) (c : BitVec 2) (w : BitVec 14) (st : State) : Host.Outcome State Fault Refusal :=
  constForm (fun x y => x * y) d a c w st

/-- MINC (R203). Signed minimum with a constant-window word. -/
def execMinc (d : BitVec 5) (a : BitVec 5) (c : BitVec 2) (w : BitVec 14) (st : State) : Host.Outcome State Fault Refusal :=
  constForm minSigned d a c w st

/-- MAXC (R203). Signed maximum with a constant-window word. -/
def execMaxc (d : BitVec 5) (a : BitVec 5) (c : BitVec 2) (w : BitVec 14) (st : State) : Host.Outcome State Fault Refusal :=
  constForm maxSigned d a c w st

/-- SLTC (R203). Signed compare with a constant-window word. -/
def execSltc (d : BitVec 5) (a : BitVec 5) (c : BitVec 2) (w : BitVec 14) (st : State) : Host.Outcome State Fault Refusal :=
  constForm (fun x y => boolWord (x.slt y)) d a c w st

/-! ## Ordered loads and stores (R224) -/

/-- LDA (R224). Load with scope and relaxed or acquire order. -/
def execLda (d : BitVec 5) (x : BitVec 5) (g : BitVec 3) (s : BitVec 1) (c : BitVec 3) (r : BitVec 2) (z : BitVec 2) (f : BitVec 4) (st : State) : Host.Outcome State Fault Refusal :=
  let n : Nat := 2 ^ z.toNat
  finishKeeping [x] do
    let ea ← address st x g s (f.toNat * n)
    aligned st ea n
    destFree st (destRefs st d (z == 3))
    let (st', l) ← atIssue true (loadBytes st (me st) ea n c.toNat)
    let v := if n ≤ 2 then extend (8 * n) l.toNat else l.toNat
    let st' ← launch (acquireIf r st') { landings := toDest st' d (z == 3) v }
    .ok (completeReading st' [x])

/-- STL (R224). Store with scope and relaxed or release order. With release the conditions of R221 are met at issue, where the
skid of a store fault ends (R385). -/
def execStl (d : BitVec 5) (x : BitVec 5) (g : BitVec 3) (s : BitVec 1) (c : BitVec 3) (r : BitVec 2) (z : BitVec 2) (f : BitVec 4) (st : State) : Host.Outcome State Fault Refusal :=
  let n : Nat := 2 ^ z.toNat
  finishKeeping [x, d] do
    let ea ← address st x g s (f.toNat * n)
    let v ← readPair st d (z == 3) (earlierReads [x] d)
    aligned st ea n
    let st' ← releaseIf r c.toNat st
    let st' ← buffer st' { storeEntry st ea n (v % 2 ^ (8 * n)) with kind := .stl, scope := c, rel := releases r }
    .ok (completeReading st' [x, d])

/-! ## Fences and the store drain (R225, R226) -/

/-- FENCE (R225). Orders the thread's accesses of the masked kinds at a scope. -/
def execFence (k : BitVec 4) (c : BitVec 3) (st : State) : Host.Outcome State Fault Refusal :=
  finish do
    waitFor (dispatched st st.cur) st
    let st' ← if k.toNat % 4 = 0 then .ok (performLoads st) else release st c.toNat
    .ok (complete (if k.toNat < 4 then st' else acquire st'))

/-- SDRAIN (R226). Waits until earlier stores are translated and performed or recorded. -/
def execSdrain (st : State) : Host.Outcome State Fault Refusal :=
  finish do
    waitFor (drained st st.cur) st
    .ok (complete st)

/-! ## Line operations (R227) -/

/-- CFLUSH and CINVL, which never trap: where the address fails they do nothing (R219).
DESIGN CHOICE (log entry 64): the right they and CPREF need is Read, which R18 does not list for them. -/
def lineOp (x : BitVec 5) (g : BitVec 3) (s : BitVec 1) (i : BitVec 10) (st : State)
    (act : State → Who → DWord → Place → Eff State) : Host.Outcome State Fault Refusal :=
  finishKeeping [x] do
    let ea ← address st x g s (i.toInt * 64)
    let va := ea &&& ~~~63
    let st' ← match resolve st { me st with waiter := .lineOp st.cur } .read va with
      | .error (.wait st') => .error (.stall st')
      | .error (.fault st' _ _ _) => .ok st'
      | .ok (st', p) => match p with
        | .own _ | .host _ => do
          waitFor (!bufferTouches st' (me st') va p 64) st
          act st' (me st') va p
        | _ => .ok st'
    .ok (completeReading st' [x])

/-- A prefetch for a thread, as far as the translations at hand let it come; `again` asks for what is missing (R227). -/
def prefetch (st : State) (t : Nat) (va : DWord) (again : Bool) : State :=
  match resolve st { whoThread st t with waiter := .prefetch t va } .read va with
  | .error (.wait st') => if again then st' else st
  | .error (.fault ..) => st
  | .ok (st', p) => match p with
    | .own _ | .host _ =>
      match l1Read st' (coreOf t) (sealOf st' t) p.line with
      | .ok (st', _) => st'
      | .error _ => st'
    | _ => st'

/-- The stash lines of a core that hold a line are written back and dropped. -/
def stashDrop (st : State) (core line : Nat) : State :=
  let keys := ((st.core core).stash.filter (fun p => p.1 / 16 == line)).map (·.1)
  let st := keys.foldl (fun st k => stashPush st core k) st
  st.setCore core { st.core core with stash := (st.core core).stash.filter (fun p => p.1 / 16 != line) }

/-- CFLUSH (R227). Pushes dirty bytes of a line to its home and drops copies. -/
def execCflush (x : BitVec 5) (g : BitVec 3) (s : BitVec 1) (i : BitVec 10) (st : State) : Host.Outcome State Fault Refusal :=
  lineOp x g s i st (fun st w _ p =>
    .ok (askCluster (dropLine (askCluster (l1Drop (stashDrop st w.core p.line) w.core p.line) w.core) w.cluster p.line) w.core))

/-- CINVL (R227). Drops the core's L1 and stash copy of a line. -/
def execCinvl (x : BitVec 5) (g : BitVec 3) (s : BitVec 1) (i : BitVec 10) (st : State) : Host.Outcome State Fault Refusal :=
  lineOp x g s i st (fun st w _ p =>
    let st := askCluster (l1Drop (stashDrop st w.core p.line) w.core p.line) w.core
    match look (st.cluster w.cluster).lines p.line with
    | some l => if l.dirty then .ok st else .ok (dropLine st w.cluster p.line)
    | none => .ok st)

/-- CPREF (R227). Prefetches a line under a fresh lease. -/
def execCpref (x : BitVec 5) (g : BitVec 3) (s : BitVec 1) (i : BitVec 10) (st : State) : Host.Outcome State Fault Refusal :=
  finishKeeping [x] do
    let ea ← address st x g s (i.toInt * 64)
    .ok (completeReading (prefetch st st.cur (ea &&& ~~~63) true) [x])

/-- CZERO (R227). Stores 64 zero bytes as one plain store. -/
def execCzero (x : BitVec 5) (g : BitVec 3) (s : BitVec 1) (i : BitVec 10) (st : State) : Host.Outcome State Fault Refusal :=
  finishKeeping [x] do
    let ea ← address st x g s (i.toInt * 64)
    let st' ← buffer st { storeEntry st (ea &&& ~~~63) 64 0 with kind := .czero }
    .ok (completeReading st' [x])

/-! ## Presence instructions (R243) -/

/-- The register a presence instruction names; none for `z` and `b0`, which have no presence bit. -/
def presenceRef (st : State) (c : BitVec 2) (i : BitVec 6) : Option RegRef :=
  if c = 1 then some (.vec i.toNat)
  else if i = 0 then none
  else if c = 0 then some (.scalar (scalarPlace st.th.cwp i.toNat))
  else some (.base i.toNat)

/-- Whether a register is full. -/
def refFull (th : Thread) : RegRef → Bool
  | .scalar p => (lookD th.scal p {}).full
  | .vec n => (lookD th.vec n {}).full
  | .base n => (lookD th.base n {}).full

/-- A register with its presence bit set anew. -/
def setFull (th : Thread) (r : RegRef) (b : Bool) : Thread :=
  match r with
  | .scalar p => { th with scal := put th.scal p { lookD th.scal p {} with full := b } }
  | .vec n => { th with vec := put th.vec n { lookD th.vec n {} with full := b } }
  | .base n => { th with base := put th.base n { lookD th.base n {} with full := b } }

/-- PCLR and PSET: once no producer is in flight, the register's presence is set. -/
def presenceSet (b : Bool) (c : BitVec 2) (i : BitVec 6) (st : State) : Host.Outcome State Fault Refusal :=
  finish do
    match presenceRef st c i with
    | none => .ok (complete st)
    | some r =>
      waitFor (!refBusy st.th r) st
      .ok (complete (st.setTh (setFull st.th r b)))

/-- PCLR (R243). Marks a register empty. -/
def execPclr (c : BitVec 2) (i : BitVec 6) (st : State) : Host.Outcome State Fault Refusal :=
  presenceSet false c i st

/-- PSET (R243). Marks a register full. -/
def execPset (c : BitVec 2) (i : BitVec 6) (st : State) : Host.Outcome State Fault Refusal :=
  presenceSet true c i st

/-- PTEST (R243). Writes a register's presence to rd. -/
def execPtest (d : BitVec 5) (c : BitVec 2) (i : BitVec 6) (st : State) : Host.Outcome State Fault Refusal :=
  finish do
    let full := match presenceRef st c i with
      | none => true
      | some r => refFull st.th r
    let st' ← writeX st d (boolWord full)
    .ok (complete st')

/-- PWAIT (R243). Waits until a register is full. -/
def execPwait (c : BitVec 2) (i : BitVec 6) (st : State) : Host.Outcome State Fault Refusal :=
  finish do
    waitFor (match presenceRef st c i with
      | none => true
      | some r => refFull st.th r) st
    .ok (complete st)


end Sys2Proof.Machine
end

