-- ==== Sys2Proof/Machine/Atomic.lean ====
section
/-!
DEFINITION. Sys2Proof/Machine/Atomic.lean: atomics, CSWAP and reductions (R51, R232 to R235, R294).
-/

namespace Sys2Proof.Machine

/-- The effects of the atomic operations on an old value and an operand of w bits (R232). -/
def minSignedN (w m x : Nat) : Nat := if signed w x < signed w m then x else m
def maxSignedN (w m x : Nat) : Nat := if signed w m < signed w x then x else m

/-- The formats of the ranges that an integer update of a size matches (R74): the least and the greatest are also those of
FP32. -/
def crFormats (op : Nat) (wide : Bool) : List Nat := if wide then [2] else if op = 0 then [0] else [0, 1]

/-- An AMO with one operand (R233). `cr` is the commutative update it may match. -/
def amo (f : Nat → Nat → Nat → Nat) (cr : Option Nat) (d x : BitVec 5) (g : BitVec 3) (s : BitVec 1) (c : BitVec 3)
    (r : BitVec 2) (p : BitVec 1) (st : State) : Host.Outcome State Fault Refusal :=
  let pair := p == 1
  let n := if pair then 8 else 4
  finishKeeping [x] do
    let ea ← address st x g s 0
    let v ← readPair st d pair 0
    aligned st ea n
    waitFor (!(destRefs st d pair).any (refBusy st.th)) st
    let st' ← releaseIf r c.toNat st
    let u : Update := { f := fun m => some (f (8 * n) m v % 2 ^ (8 * n)), cr := cr.map (fun o => (o, crFormats o pair, v)) }
    let (st', m) ← atIssue true (updateAt st' (me st') ea n c.toNat u)
    let st' ← launch (acquireIf r st') { landings := toDest st' d pair m }
    .ok (completeReading st' [x])

/-- Round(m + x) as AMOFADD has it (R234). -/
def floatSum (m x : Nat) : Nat × Raised :=
  if (decodeElem 11 m).1.isNaN then (quieten 11 m, { nv := (decodeElem 11 m).1.isSig || (decodeElem 11 x).1.isSig })
  else if (decodeElem 11 x).1.isNaN then (quieten 11 x, { nv := (decodeElem 11 x).1.isSig })
  else fpAdd 11 0 false m x

/-- A reduction (R235): it enters the store buffer. `op` is its code, `wide` its size. -/
def reduce (op : BitVec 4) (d x : BitVec 5) (g : BitVec 3) (s : BitVec 1) (c : BitVec 3) (r : BitVec 2) (wide : Bool)
    (st : State) : Host.Outcome State Fault Refusal :=
  let n := if wide then 8 else 4
  finishKeeping [x, d] do
    let ea ← address st x g s 0
    let v ← readPair st d wide (earlierReads [x] d)
    aligned st ea n
    let st' ← releaseIf r c.toNat st
    let st' ← buffer st' { storeEntry st ea n v with kind := .reduction op wide, scope := c, rel := releases r }
    .ok (completeReading st' [x, d])

/-- AMOADD (R233). Atomic add returning the old value. -/
def execAmoadd (d : BitVec 5) (x : BitVec 5) (g : BitVec 3) (s : BitVec 1) (c : BitVec 3) (r : BitVec 2) (p : BitVec 1) (st : State) : Host.Outcome State Fault Refusal :=
  amo (fun _ m v => m + v) (some 0) d x g s c r p st

/-- AMOAND (R233). Atomic AND returning the old value. -/
def execAmoand (d : BitVec 5) (x : BitVec 5) (g : BitVec 3) (s : BitVec 1) (c : BitVec 3) (r : BitVec 2) (p : BitVec 1) (st : State) : Host.Outcome State Fault Refusal :=
  amo (fun _ m v => m &&& v) none d x g s c r p st

/-- AMOOR (R233). Atomic OR returning the old value. -/
def execAmoor (d : BitVec 5) (x : BitVec 5) (g : BitVec 3) (s : BitVec 1) (c : BitVec 3) (r : BitVec 2) (p : BitVec 1) (st : State) : Host.Outcome State Fault Refusal :=
  amo (fun _ m v => m ||| v) none d x g s c r p st

/-- AMOXOR (R233). Atomic XOR returning the old value. -/
def execAmoxor (d : BitVec 5) (x : BitVec 5) (g : BitVec 3) (s : BitVec 1) (c : BitVec 3) (r : BitVec 2) (p : BitVec 1) (st : State) : Host.Outcome State Fault Refusal :=
  amo (fun _ m v => m ^^^ v) none d x g s c r p st

/-- AMOMIN (R233). Atomic signed minimum. -/
def execAmomin (d : BitVec 5) (x : BitVec 5) (g : BitVec 3) (s : BitVec 1) (c : BitVec 3) (r : BitVec 2) (p : BitVec 1) (st : State) : Host.Outcome State Fault Refusal :=
  amo minSignedN (some 1) d x g s c r p st

/-- AMOMAX (R233). Atomic signed maximum. -/
def execAmomax (d : BitVec 5) (x : BitVec 5) (g : BitVec 3) (s : BitVec 1) (c : BitVec 3) (r : BitVec 2) (p : BitVec 1) (st : State) : Host.Outcome State Fault Refusal :=
  amo maxSignedN (some 2) d x g s c r p st

/-- AMOMINU (R233). Atomic unsigned minimum. -/
def execAmominu (d : BitVec 5) (x : BitVec 5) (g : BitVec 3) (s : BitVec 1) (c : BitVec 3) (r : BitVec 2) (p : BitVec 1) (st : State) : Host.Outcome State Fault Refusal :=
  amo (fun _ m v => min m v) none d x g s c r p st

/-- AMOMAXU (R233). Atomic unsigned maximum. -/
def execAmomaxu (d : BitVec 5) (x : BitVec 5) (g : BitVec 3) (s : BitVec 1) (c : BitVec 3) (r : BitVec 2) (p : BitVec 1) (st : State) : Host.Outcome State Fault Refusal :=
  amo (fun _ m v => max m v) none d x g s c r p st

/-- AMOSWAP (R233). Atomic swap. -/
def execAmoswap (d : BitVec 5) (x : BitVec 5) (g : BitVec 3) (s : BitVec 1) (c : BitVec 3) (r : BitVec 2) (p : BitVec 1) (st : State) : Host.Outcome State Fault Refusal :=
  amo (fun _ _ v => v) none d x g s c r p st

/-- AMOCAS (R233). Atomic compare-and-swap returning the old value. -/
def execAmocas (d : BitVec 5) (x : BitVec 5) (g : BitVec 3) (s : BitVec 1) (c : BitVec 3) (r : BitVec 2) (p : BitVec 1) (st : State) : Host.Outcome State Fault Refusal :=
  let n := if p = 1 then 8 else 4
  let k : BitVec 5 := if p = 1 then 2 else 1
  finishKeeping [x] do
    let ea ← address st x g s 0
    let want ← readPair st d (p == 1) 0
    let new ← readPair st (d + k) (p == 1) 0
    aligned st ea n
    destFree st (destRefs st d (p == 1))
    let st' ← releaseIf r c.toNat st
    let (st', m) ← atIssue true (updateAt st' (me st') ea n c.toNat { f := fun m => if m = want then some new else none })
    let st' ← launch (acquireIf r st') { landings := toDest st' d (p == 1) m }
    .ok (completeReading st' [x])

/-- AMOFADD (R234). Atomic FP32 add to nearest-even. -/
def execAmofadd (d : BitVec 5) (x : BitVec 5) (g : BitVec 3) (s : BitVec 1) (c : BitVec 3) (r : BitVec 2) (st : State) : Host.Outcome State Fault Refusal :=
  finishKeeping [x] do
    let ea ← address st x g s 0
    let v ← readPair st d false 0
    aligned st ea 4
    destFree st (destRefs st d false)
    let st' ← releaseIf r c.toNat st
    let (st', m) ← atIssue true (updateAt st' (me st') ea 4 c.toNat
      { f := fun m => some (floatSum m v).1, cr := some (0, [1], v) })
    let inRange := match resolve st' (me st') .modify ea with
      | .ok (_, .own pa) => (inCrange st'.module pa).isSome
      | _ => false
    let fl := if inRange then 0 else (floatSum m v).2.word
    let m := if !inRange && (decodeElem 11 m).1.isNaN then quieten 11 m else m
    let st' ← launch (acquireIf r st') { landings := toDest st' d false m, flags := fl }
    .ok (completeReading st' [x])

/-- What CSWAP writes over a record m (R51): the new record with the next VER, where m is the expected one. -/
def cswapValue (want new m : Nat) : Option Nat :=
  if m = want then some (new % 2 ^ 112 + (want / 2 ^ 112 + 1) % 2 ^ 16 * 2 ^ 112) else none

/-- CSWAP (R294). 16-byte compare-and-swap of a root record, advancing VER. -/
def execCswap (d : BitVec 5) (x : BitVec 5) (g : BitVec 3) (s : BitVec 1) (c : BitVec 3) (r : BitVec 2) (st : State) : Host.Outcome State Fault Refusal :=
  let quad (st : State) (d : BitVec 5) : Eff Nat := do
    let lo ← readPair st d true 0
    let hi ← readPair st (d + 2) true 0
    .ok (lo + 2 ^ 64 * hi)
  finishKeeping [x] do
    let ea ← address st x g s 0
    let want ← quad st d
    let new ← quad st (d + 4)
    aligned st ea 16
    destFree st (destRefs st d true ++ destRefs st (d + 2) true)
    let st' ← releaseIf r c.toNat st
    let (st', m) ← atIssue true (updateAt st' (me st') ea 16 c.toNat { f := cswapValue want new })
    let st' ← launch (acquireIf r st') { landings := toDest st' d true (m % 2 ^ 64) ++ toDest st' (d + 2) true (m / 2 ^ 64) }
    .ok (completeReading st' [x])

/-- REDADD (R235). Posted atomic add with no return. -/
def execRedadd (d : BitVec 5) (x : BitVec 5) (g : BitVec 3) (s : BitVec 1) (c : BitVec 3) (r : BitVec 2) (p : BitVec 1) (st : State) : Host.Outcome State Fault Refusal :=
  reduce 0 d x g s c r (p == 1) st

/-- REDAND (R235). Posted atomic AND. -/
def execRedand (d : BitVec 5) (x : BitVec 5) (g : BitVec 3) (s : BitVec 1) (c : BitVec 3) (r : BitVec 2) (p : BitVec 1) (st : State) : Host.Outcome State Fault Refusal :=
  reduce 1 d x g s c r (p == 1) st

/-- REDOR (R235). Posted atomic OR. -/
def execRedor (d : BitVec 5) (x : BitVec 5) (g : BitVec 3) (s : BitVec 1) (c : BitVec 3) (r : BitVec 2) (p : BitVec 1) (st : State) : Host.Outcome State Fault Refusal :=
  reduce 2 d x g s c r (p == 1) st

/-- REDXOR (R235). Posted atomic XOR. -/
def execRedxor (d : BitVec 5) (x : BitVec 5) (g : BitVec 3) (s : BitVec 1) (c : BitVec 3) (r : BitVec 2) (p : BitVec 1) (st : State) : Host.Outcome State Fault Refusal :=
  reduce 3 d x g s c r (p == 1) st

/-- REDMIN (R235). Posted atomic signed minimum. -/
def execRedmin (d : BitVec 5) (x : BitVec 5) (g : BitVec 3) (s : BitVec 1) (c : BitVec 3) (r : BitVec 2) (p : BitVec 1) (st : State) : Host.Outcome State Fault Refusal :=
  reduce 4 d x g s c r (p == 1) st

/-- REDMAX (R235). Posted atomic signed maximum. -/
def execRedmax (d : BitVec 5) (x : BitVec 5) (g : BitVec 3) (s : BitVec 1) (c : BitVec 3) (r : BitVec 2) (p : BitVec 1) (st : State) : Host.Outcome State Fault Refusal :=
  reduce 5 d x g s c r (p == 1) st

/-- REDFADD (R235). Posted atomic FP32 add. -/
def execRedfadd (d : BitVec 5) (x : BitVec 5) (g : BitVec 3) (s : BitVec 1) (c : BitVec 3) (r : BitVec 2) (st : State) : Host.Outcome State Fault Refusal :=
  reduce 10 d x g s c r false st


end Sys2Proof.Machine
end

