-- ==== Sys2Proof/Machine/Holds.lean ====
section
/-!
DEFINITION. Sys2Proof/Machine/Holds.lean: the queues of reserved lines: grants, releases, and what a thread that ends leaves
(R236 to R239, R391).
-/

namespace Sys2Proof.Machine

/-- The reservation queue of a line at a place. -/
def rsvQueue (st : State) (place line : Nat) : RsvQueue :=
  lookD (if place = 0 then st.bridge.rsvQueues else (st.cluster (place - 1)).rsvQueues) line {}
def setRsvQueue (st : State) (place line : Nat) (q : RsvQueue) : State :=
  let upd (m : AMap RsvQueue) := if q = {} then del m line else put m line q
  if place = 0 then { st with bridge := { st.bridge with rsvQueues := upd st.bridge.rsvQueues } }
  else st.setCluster (place - 1) { st.cluster (place - 1) with rsvQueues := upd (st.cluster (place - 1)).rsvQueues }

/-- Entries of the queues of a slice, or of a cluster cache. -/
def rsvEntries (st : State) (place line : Nat) : Nat :=
  let size (p : Nat × RsvQueue) := p.2.waiters.length + (if p.2.holder.isSome then 1 else 0)
  if place = 0 then ((st.bridge.rsvQueues.filter (fun p => sameSlice st p.1 line)).map size).sum
  else ((st.cluster (place - 1)).rsvQueues.map size).sum

/-- Room for an entry (R238). -/
def rsvRoom (st : State) (place line : Nat) : Bool :=
  decide (rsvEntries st place line < (if place = 0 then 1024 else 256))

/-- The grant of a line to a waiter, with the end of its hold (R238). Holders and waiters are references to threads. -/
def grantTo (st : State) (place line r : Nat) : State :=
  let q := rsvQueue st place line
  let hold := (st.byRef r).rsvhold.toNat
  setRsvQueue st place line { holder := some (r, if hold = 0 then none else some (st.pitch + hold)),
                              waiters := q.waiters.filter (· != r) }

/-- A line that nobody holds goes to the first waiter that is not pre-empted (R239). -/
def grantNext (st : State) (place line : Nat) : State :=
  let q := rsvQueue st place line
  if q.holder.isSome then st
  else match q.waiters.find? (fun r => st.live r && running st (r % 4096)) with
    | some t => grantTo st place line t
    | none => st

/-- A thread leaves a queue, as its holder or as a waiter; a line it held goes on. -/
def leaveQueue (st : State) (place line r : Nat) : State :=
  let q := rsvQueue st place line
  let held := q.holder.any (fun h => h.1 == r)
  let st := setRsvQueue st place line { holder := if held then none else q.holder, waiters := q.waiters.filter (· != r) }
  grantNext (st.updRef r (fun th => { th with rsv := .free })) place line

/-- A release of a reservation leaves its time at the queue's place, and the next holder learns of it (R237, R331). -/
def rsvTime (st : State) (place : Nat) : Nat := if place = 0 then st.bridge.rsvClock else (st.cluster (place - 1)).clock
def rsvTold (st : State) (place c : Nat) : State :=
  if place = 0 then { st with bridge := { st.bridge with rsvClock := max st.bridge.rsvClock c } } else raiseCluster st (place - 1) c

/-- A holder passes its line on, with its time. -/
def passOn (st : State) (place line : Nat) : State :=
  leaveQueue (rsvTold st place (st.core st.myCore).clock) place line (st.refOf st.cur)

/-- Whether a thread holds a line in a queue. -/
def heldBy (st : State) (place line r : Nat) : Bool := (rsvQueue st place line).holder.any (fun h => h.1 == r)

/-- A holder's release outside an instruction of its own: of scope `.D` for a queue at the home and `.L` for one at a cluster; the
line goes on with its core's time (R237). -/
def handOn (st : State) (place line r : Nat) : State :=
  let core := coreOf (r % 4096)
  let st := releasePush st core (if place = 0 then 3 else 2)
  leaveQueue (rsvTold st place (st.core core).clock) place line r

/-- RSVX's effect on whatever reservation a thread has (R237): a waiter leaves the queue; a holder makes a release and
passes the line on. -/
def leaveReservation (st : State) (r : Nat) : State :=
  match (st.byRef r).rsv with
  | .free | .lost _ => st
  | .awaits p l | .holds p l => if heldBy st p l r then handOn st p l r else leaveQueue st p l r

/-- Whether work of an ended thread that a release waits for is still to come (R221, R391): a buffered store of its slot, a copy
request that has not been dispatched. -/
def endedWork (st : State) (r : Nat) : Bool :=
  let c := st.core (coreOf (r % 4096))
  c.buffer.any (fun e => e.thread == r % 4096 && e.ended) || c.copies.any (fun q => q.thread == r && q.ended)

/-- The reservation of a thread that ends with its block: a line it holds goes on at once where its stores have drained and its copy
requests have been dispatched, else when they have (R237, R391). -/
def cutReserved (st : State) (r : Nat) : State :=
  match (st.byRef r).rsv with
  | .awaits p l | .holds p l =>
    if heldBy st p l r && endedWork st r then
      let st := st.updRef r (fun th => { th with rsv := .free })
      let c := st.core (coreOf (r % 4096))
      st.setCore (coreOf (r % 4096)) { c with handing := c.handing ++ [(r, p, l)] }
    else leaveReservation st r
  | _ => st

/-- The lines of a core's ended threads whose stores have drained and whose copies have been dispatched go on (R391); one that
has gone on at its hold's end does no more (R238). -/
def handLines (st : State) (core : Nat) : State :=
  let due := (st.core core).handing.filter (fun h => !endedWork st h.1)
  if due.isEmpty then st
  else
    let st := st.setCore core { st.core core with handing := (st.core core).handing.filter (fun h => endedWork st h.1) }
    due.foldl (fun st h => if heldBy st h.2.1 h.2.2 h.1 then handOn st h.2.1 h.2.2 h.1 else st) st

end Sys2Proof.Machine
end

