-- ==== Sys2Proof/Machine/Drain.lean ====
section
/-!
DEFINITION. Sys2Proof/Machine/Drain.lean: the drain of the store buffer (R223, R235, R383), the arrival of a producer (R104)
and the spiller in bubbles (R98, R101).
-/

namespace Sys2Proof.Machine

/-- An event that cannot happen in this state. -/
def disabled (event : String) : Host.Outcome State Fault Refusal := .fault (.notEnabled event)

/-- The module is up: the host and the executive act (R431). -/
def booted (s : State) : Bool := s.module.phase == .host

/-- The new value of a reduction (R232, R234). -/
def reductionValue (op : BitVec 4) (w m x : Nat) : Nat :=
  match op.toNat with
  | 0 => (m + x) % 2 ^ w
  | 1 => m &&& x
  | 2 => m ||| x
  | 3 => m ^^^ x
  | 4 => minSignedN w m x
  | 5 => maxSignedN w m x
  | _ => (floatSum m x).1

/-- The commutative update a reduction may match (R74). -/
def reductionCr (op : BitVec 4) (wide : Bool) (x : Nat) : Option (Nat × List Nat × Nat) :=
  match op.toNat with
  | 0 => some (0, crFormats 0 wide, x)
  | 4 => some (1, crFormats 1 wide, x)
  | 5 => some (2, crFormats 2 wide, x)
  | 10 => some (0, [1], x)
  | _ => none

/-- A reduction performed at its place (R69, R74, R235): at `.T` and `.C` on the core's copy, its result going on to the
cluster cache. On a line with an uncorrectable error it acts on the bytes found there, and the line stays so marked (R428). -/
def performReduction (s : State) (who : Who) (e : StoreEntry) (op : BitVec 4) (wide : Bool) : Mem State := do
  let x := e.data.toNat % 2 ^ (8 * e.n)
  let (s, p) ← resolve s who .modify e.va
  let new (l : Line) : Line := BitVec.ofNat 512 (reductionValue op (8 * e.n) ((l &&& byteMask e.n).toNat) x)
  let there (s : State) (l : Line) : Mem State := .ok (writeOut s who p e.n (new l) (byteMask e.n))
  let here (s : State) (l : Line) : Mem State :=
    lineWrite s who e.va p (toByte (new l) p.byte) (toByte (byteMask e.n) p.byte) 0 0 e.scope.toNat
  match p with
  | .window _ => .error (.fault s .permissionFault e.va false)
  | .localStore .. | .scratch .. => there s (memRead s.mem p.key e.n)
  | .peer _ =>
    if s.bridge.poisoned.contains p.line then there s (memRead s.mem p.key e.n)
    else do
      let (s, l) ← readThere s who e.va p
      there s l
  | .own _ | .host _ =>
    match rangeAt s p with
    | some rng => do
      let (s, _) ← updatePartial s who e.va p rng { f := fun m => some m, cr := reductionCr op wide x, reads := false }
      return s
    | none =>
      let far : Bool := decide (3 ≤ e.scope.toNat) && (stashBank s who e.va).isNone
      let old : Mem (State × Line) :=
        if far then (ofCause s e.va (homePeek s who p.line)).map (fun x => (x.1, fromByte x.2.1 p.byte))
        else if e.scope.toNat ≤ 1 ∨ (stashBank s who e.va).isSome then readNear s who e.va p e.n
        else (ofCause s e.va (clusterAtomic s who p.line (needOf p.byte e.n))).map (fun x => (x.1, fromByte x.2.data p.byte))
      match old with
      | .error (.fault s .memUncorrectable _ _) => here (poison s p.line) (memRead s.mem p.key e.n)
      | .error b => .error b
      | .ok (s, l) =>
        if far then do
          let s ← here (atomicTakes s p e.scope.toNat) l
          return atomicLeaves s p e.scope.toNat
        else here s l

/-- A store performed at the place it leads to; a change of a full/empty bit goes with it (R228). One to a queue window with a
release releases at scope `.S` (R432). -/
def performAt (s : State) (who : Who) (e : StoreEntry) (p : Place) : Mem State :=
  match p, e.feBit with
  | .own _, some b =>
    if (rangeAt s p).isSome then .error (.fault s .crangeConflict e.va false)
    else
      let bits : BitVec 16 := BitVec.ofNat 16 (2 ^ (p.byte / 4))
      lineWrite s who e.va p (toByte e.data p.byte) (toByte e.mask p.byte) (if b then bits else 0) bits 2
  | .window _, _ =>
    writeBytes (if e.rel then releasePush s who.core 4 else s) who e.va p e.n e.data e.mask e.scope.toNat false
  | _, _ => writeBytes s who e.va p e.n e.data e.mask e.scope.toNat false

/-- What a place itself refuses, when a store that was translated before arrives there (R27, R36). -/
def placeBar (s : State) (who : Who) : Place → Option Cause
  | .localStore c off => if localReach s who c off then none else some .lsWindowFault
  | .scratch k off => if scratchReach s who k off then none else some .lsWindowFault
  | .own pa => if inCar s.module pa then some .permissionFault else none
  | _ => none

/-- A store performed: one that is on its way where its translation led (R20, R24), another once it is translated. DESIGN
CHOICE (log entry 10): all bytes of an entry are performed in one step, those of a VST or VSTB too, which R254 and R322 bind
only element by element. -/
def performStore (s : State) (who : Who) (e : StoreEntry) : Mem State :=
  match e.away, e.fixedAt with
  | some x, _ =>
    match placeBar s who x.place with
    | some c => .error (.fault s c e.va false)
    | none => performAt s who e x.place
  | none, some key =>
    let c := (key - 2 ^ 64) / 2 ^ 18
    let off := (key - 2 ^ 64) % 2 ^ 18
    if localReach s who c off then .ok (writeThere s (clusterOf c + 1) key e.n e.data (e.mask &&& byteMask e.n) (who.clock s))
    else .error (.fault s .lsWindowFault e.va false)
  | none, none => do
    let (s, p) ← resolve s who .write e.va
    performAt s who e p

/-- ⌈log2 n⌉ of an entry's size (R383). -/
def sizeCode (n : Nat) : BitVec 8 := BitVec.ofNat 8 (if n ≤ 1 then 0 else (n - 1).log2 + 1)

/-- The record of a store that failed (R383). -/
def recordOf (e : StoreEntry) (c : Cause) (va : DWord) : StoreRecord :=
  { va := va, data := (e.data &&& byteMask (min e.n 8)).setWidth 64, pc := e.pc, size := sizeCode e.n,
    slot := BitVec.ofNat 3 (slotOf e.thread), cause := c,
    kind := match e.kind with
      | .plain => 0
      | .stl => 1
      | .reduction op _ => op.setWidth 8 <<< 4 ||| 2
      | .czero => 3
      | .vec => 4
      | .elem _ => 5,
    mask := match e.kind with
      | .vec => e.active.setWidth 32
      | .elem n => n.setWidth 32
      | _ => 0 }

/-- The records of an entry that failed. DESIGN CHOICE (log entry 72): a CSWAP's 16 bytes are of KIND 0, whose DATA is
complete (R393), and no SIZE of R383 is theirs; each half has its record. -/
def recordsFor (e : StoreEntry) (c : Cause) (va : DWord) : List StoreRecord :=
  if e.kind = .plain ∧ 8 < e.n then
    [recordOf { e with n := 8 } c va, recordOf { e with n := e.n - 8, data := e.data >>> 64 } c (va + 8)]
  else [recordOf e c va]

/-- Entry i leaves a core's buffer; copy requests and arrivals that wait for it wait for one entry fewer (R82, R309). Loads issued
before it have been performed (R326). -/
def popEntry (s : State) (core i : Nat) : State :=
  let y := s.core core
  let less (n : Nat) : Nat := if i < n then n - 1 else n
  let s := s.setCore core { y with buffer := removeAt y.buffer i, copies := y.copies.map (fun r => { r with after := less r.after }) }
  let load (p : Producer) : Producer :=
    { p with late := p.late.bind (fun l => if i < l.after then some { l with after := l.after - 1 } else none) }
  (List.range 8).foldl (fun s j =>
    let th := s.thread (core * 8 + j)
    if th.arrivals.isEmpty && !th.producers.any (·.late.isSome) then s
    else s.setThread (core * 8 + j) { th with arrivals := th.arrivals.map (fun a => { a with after := less a.after }),
                                              producers := th.producers.map load }) s

/-- An entry performed. One that was on its way to the other module when the ports failed fails (R423). -/
def performEntry (s : State) (core : Nat) (e : StoreEntry) : Mem State :=
  if e.cut then .error (.fault s .linkFault e.va false)
  else
    match e.kind with
    | .reduction op wide => performReduction s (entryWho core e) e op wide
    | _ => performStore s (entryWho core e) e

/-- Room for n records (R383). -/
def recordRoom (y : Core) (n : Nat := 1) : Bool := decide (y.records.length + n ≤ 8)

/-- The physical address of a store's line. -/
def entryPa (s : State) (core : Nat) (e : StoreEntry) (va : DWord) : DWord :=
  match e.away with
  | some x => BitVec.ofNat 64 (64 * x.place.line)
  | none => linePa s (entryWho core e) va

/-- What a store that failed leaves (R383): a record where the queue has room; a refused seal goes to the monitor (R375). None
where it stays in the buffer. -/
def failEntry (s : State) (core : Nat) (e : StoreEntry) (c : Cause) (va : DWord) : Option State :=
  let y := s.core core
  if e.ended then some s
  else if c = .sealFail then
    let th := s.thread e.thread
    some (s.setThread e.thread
      { th with posted := th.posted ++ [{ cause := c, tval := entryPa s core e va, restart := some e.pc }] })
  else
    let rs := recordsFor e c va
    if recordRoom y rs.length then some (s.setCore core { y with records := y.records ++ rs.map (fun r => (e.thread, r)) }) else none

/-- Entry i of a core's buffer performed, or recorded where it fails. None where it stays and nothing has changed: it has to
wait, or finds the record queue full. -/
def drainEntry (s : State) (core i : Nat) (e : StoreEntry) : Option State :=
  match performEntry s core e with
  | .ok s' => some (handLines (popEntry s' core i) core)
  | .error (.wait s') => if sameMisses s s' core then none else some s'
  | .error (.fault s' c va _) => (failEntry s' core e c va).map (fun s => handLines (popEntry s core i) core)

/-- Whether an entry may write a byte that an earlier one of the buffer writes: stores to one address are performed in drain
order (R352). One whose translation waits or is refused writes none yet. -/
def StoreEntry.follows (s : State) (core : Nat) (e f : StoreEntry) : Bool :=
  let who := entryWho core e
  let lies (p : Place) : Bool := f.lie s who e.va p e.n != .apart
  match e.away, e.fixedAt with
  | some x, _ => lies x.place
  | none, some key => lies (.localStore ((key - 2 ^ 64) / 2 ^ 18) ((key - 2 ^ 64) % 2 ^ 18))
  | none, none =>
    match resolve s who .write e.va with
    | .ok (_, p) => lies p
    | .error _ => false

/-- The next entry to drain: the oldest that is not on its way, with its index. -/
def nextEntry (s : State) (core : Nat) : Option (Nat × StoreEntry) := findIdxFrom (fun e => e.away.isNone) (s.core core).buffer 0

/-- Whether entry i may be performed: no earlier one is for the same bytes, and for a release none is of its thread. -/
def mayPerform (s : State) (core i : Nat) (e : StoreEntry) : Bool :=
  ((s.core core).buffer.take i).all (fun f => !e.follows s core f && !(e.rel && f.thread == e.thread))

/-- Whether a store that arrives has failed and found the record queue full: the drain stops until a record frees (R383). -/
def drainHeld (s : State) (core : Nat) : Bool :=
  (s.core core).buffer.zipIdx.any (fun x =>
    x.1.away.isSome && !x.1.ended && mayPerform s core x.2 x.1 &&
      match performEntry s core x.1 with
      | .error (.fault _ c va _) => c != .sealFail && !recordRoom (s.core core) (recordsFor x.1 c va).length
      | _ => false)

/-- The drain of the next entry of a core's store buffer (R223). None where it stays and nothing has changed. -/
def drainHead (s : State) (core : Nat) : Option State :=
  match nextEntry s core with
  | some (i, e) => if mayPerform s core i e && !drainHeld s core then drainEntry s core i e else none
  | none => none

/-- Where a store's translation leads now, with the entry that says so; none where it waits or fails, or meets a range (R76). -/
def sendPlace (s : State) (core : Nat) (e : StoreEntry) : Option (State × Sent) :=
  match e.fixedAt with
  | some key =>
    let p : Place := .localStore ((key - 2 ^ 64) / 2 ^ 18) ((key - 2 ^ 64) % 2 ^ 18)
    if (placeBar s (entryWho core e) p).isNone then some (s, { place := p }) else none
  | none => match resolve s (entryWho core e) .write e.va with
    | .ok (s, p) =>
      let entry := if p.windowed then none else (tlbFind (s.core core).tlb (s.viOf e.vi.toNat).pasid e.va.toNat).map (·.1)
      if (rangeAt s p).isSome then none else some (s, { place := p, entry := entry })
    | .error _ => none

/-- Whether an entry may set out for its place before it is performed: a release and a reduction do not (R224, R235). -/
def StoreEntry.sends (e : StoreEntry) : Bool :=
  match e.kind with
  | .reduction .. => false
  | _ => !e.rel

/-- The next entry sets out for its place, translated and checked; those behind it may be performed before it (R352). -/
def sendStore (s : State) (core : Nat) : Option State :=
  match nextEntry s core with
  | some (i, e) =>
    if e.sends && !drainHeld s core then
      (sendPlace s core e).map (fun x => x.1.setCore core
        { x.1.core core with buffer := replaceAt (x.1.core core).buffer i { e with away := some x.2 } })
    else none
  | none => none

/-- A store on its way is performed at its place. -/
def landStore (s : State) (core i : Nat) : Option State :=
  match (s.core core).buffer[i]? with
  | some e => if e.away.isSome && mayPerform s core i e then drainEntry s core i e else none
  | none => none

/-- STORE_DRAIN (R223). The next entry of a core's store buffer is translated, checked and performed. -/
def execStoreDrain (core : BitVec 9) (st : State) : Host.Outcome State Fault Refusal :=
  match drainHead st core.toNat with
  | some st' => .next st'
  | none => disabled "STORE_DRAIN"

/-- PRODUCER_ARRIVAL (R104). Producer k of a thread arrives: its destinations take their values and become full. -/
def execProducerArrival (t : BitVec 12) (k : Nat) (st : State) : Host.Outcome State Fault Refusal :=
  match arrive st t.toNat k with
  | some st' => .next st'
  | none => disabled "PRODUCER_ARRIVAL"

/-- Whether a core has bubbles for the window spiller: it is not stopped, and some slot is neither clock-gated nor being pre-empted
(R349). -/
def hasBubbles (s : State) (core : Nat) : Bool :=
  let c := s.core core
  c.sw && c.ready && c.eff != 6 && !s.module.trip.getLsbD (core / 256) &&
    (List.range 8).any (fun i => !c.rmv.getLsbD i && !c.preempts.any (fun p => p.slot == i && p.started))

/-- WINDOW_SPILL (R98). In a bubble the oldest of four resident frames is spilled. -/
def execWindowSpill (t : BitVec 12) (st : State) : Host.Outcome State Fault Refusal :=
  let th := st.thread t.toNat
  if th.present && th.resident == 4 && spillFits th && !frameBusy th (oldestPos th) && hasBubbles st (coreOf t.toNat) then
    .next (spillFrame st t.toNat)
  else disabled "WINDOW_SPILL"

/-- WINDOW_FILL (R98). In a bubble the most recent spilled frame is filled. DESIGN CHOICE (log entry 59): one that has an
uncorrectable error is left to the return that needs it. -/
def execWindowFill (t : BitVec 12) (st : State) : Host.Outcome State Fault Refusal :=
  let th := st.thread t.toNat
  if th.present && decide (th.resident < 2) && spilledExist th && !windowBad th && !frameBad st t.toNat && hasBubbles st (coreOf t.toNat) then
    .next (fillFrame st t.toNat)
  else disabled "WINDOW_FILL"

end Sys2Proof.Machine
end

