-- ==== Sys2Proof/Machine/FullEmpty.lean ====
section
/-!
DEFINITION. Sys2Proof/Machine/FullEmpty.lean: full/empty instructions and their events (R228 to R231).
-/

namespace Sys2Proof.Machine

/-! ## Attempts, gaps and parking (R229 to R231) -/

/-- The failed attempts counted so far. -/
def feTries (st : State) : Nat :=
  match st.th.wait with
  | .feGap n | .feGo n | .feParked n | .feWoken n => n
  | _ => 0

/-- Registrations a pool of parked instructions, or of WAITAs, holds at most, for the home's slices and for a cluster
cache (R229, R241). A registration counts against its word's slice. -/
def poolRoom (l : List Sleeper) (place key : Nat) : Bool :=
  if place = 0 then decide ((l.filter (fun x => sliceOf (x.key / 64) == sliceOf (key / 64))).length < 4096)
  else decide (l.length < 512)

/-- After a failed attempt: another try after the gap, or parking at the place. -/
def feFailed (st : State) (ea : DWord) (scope : Nat) (k : Right) (kind : BitVec 2) : Eff State := do
  let tries := feTries st + 1
  if tries ≤ (st.th.feretry.setWidth 16).toNat then
    .error (.stall (st.setTh { st.th with wait := .feGap tries }))
  else
    let (st, p) ← atIssue true (resolve st (me st) k ea)
    let banked := (stashBank st (me st) ea).isSome
    let place := if banked then st.myCluster + 1 else registry p st.myCluster scope
    if poolRoom (parkedAt st place) place p.key then
      let w : Sleeper := { thread := st.cur, key := p.key, kind := kind, bank := if banked then some st.myCore else none }
      let st := setParked st place (parkedAt st place ++ [w])
      .error (.stall (st.setTh { st.th with wait := .feParked tries }))
    else .error (.stall (st.setTh { st.th with wait := .feGap tries }))

/-- A full/empty instruction that may wait: `act` is its test and change, `fin` what it does with the old word. -/
def feWait (ea : DWord) (scope : Nat) (k : Right) (kind : BitVec 2) (act : FeAct)
    (fin : State → Word → Eff State) (st : State) : Eff State :=
  match st.th.wait with
  | .feGap _ | .feParked _ => .error (.stall st)
  | _ => do
    let (st, r) ← atIssue true (feAttempt st (me st) ea k scope act)
    match r with
    | some (old, _) => fin st old
    | none => feFailed st ea scope k kind

/-- LDFE and LDFF: the word, once it is full. -/
def feLoad (k : Right) (kind : BitVec 2) (empties : Bool) (d x : BitVec 5) (g : BitVec 3) (s : BitVec 1) (c : BitVec 3)
    (r : BitVec 2) (f : BitVec 4) (st : State) : Host.Outcome State Fault Refusal :=
  finishKeeping [x] do
    let ea ← address st x g s (f.toNat * 4)
    aligned st ea 4
    destFree st (destRefs st d false)
    feWait ea c.toNat k kind (fun full => if full then some (none, !empties) else none) (fun st old => do
      let st ← launch (acquireIf r st) { landings := toDest st d false old.toNat }
      .ok (completeReading st [x])) st

/-- STFE and STFF: the word is written and set full. -/
def feStore (waits : Bool) (d x : BitVec 5) (g : BitVec 3) (s : BitVec 1) (c : BitVec 3) (r : BitVec 2)
    (f : BitVec 4) (st : State) : Host.Outcome State Fault Refusal :=
  finishKeeping [x, d] do
    let ea ← address st x g s (f.toNat * 4)
    let v ← readP st d (earlierReads [x] d)
    aligned st ea 4
    let st ← releaseIf r c.toNat st
    feWait ea c.toNat .modify 1 (fun full => if full && waits then none else some (some v, true))
      (fun st _ => .ok (completeReading st [x, d])) st

/-- LDFE (R228). Waits for full, reads the word and sets it empty. -/
def execLdfe (d : BitVec 5) (x : BitVec 5) (g : BitVec 3) (s : BitVec 1) (c : BitVec 3) (r : BitVec 2) (f : BitVec 4) (st : State) : Host.Outcome State Fault Refusal :=
  feLoad .modify 0 true d x g s c r f st

/-- STFE (R228). Waits for empty, writes the word and sets it full. -/
def execStfe (d : BitVec 5) (x : BitVec 5) (g : BitVec 3) (s : BitVec 1) (c : BitVec 3) (r : BitVec 2) (f : BitVec 4) (st : State) : Host.Outcome State Fault Refusal :=
  feStore true d x g s c r f st

/-- LDFF (R228). Waits for full and reads, leaving it full. -/
def execLdff (d : BitVec 5) (x : BitVec 5) (g : BitVec 3) (s : BitVec 1) (c : BitVec 3) (r : BitVec 2) (f : BitVec 4) (st : State) : Host.Outcome State Fault Refusal :=
  feLoad .read 2 false d x g s c r f st

/-- STFF (R228). Writes the word and sets it full. -/
def execStff (d : BitVec 5) (x : BitVec 5) (g : BitVec 3) (s : BitVec 1) (c : BitVec 3) (r : BitVec 2) (f : BitVec 4) (st : State) : Host.Outcome State Fault Refusal :=
  feStore false d x g s c r f st

/-- FEGET (R228). Reads a word's full/empty bit. -/
def execFeget (d : BitVec 5) (x : BitVec 5) (g : BitVec 3) (s : BitVec 1) (c : BitVec 3) (r : BitVec 2) (f : BitVec 4) (st : State) : Host.Outcome State Fault Refusal :=
  finishKeeping [x] do
    let ea ← address st x g s (f.toNat * 4)
    aligned st ea 4
    destFree st (destRefs st d false)
    let (st, a) ← atIssue true (feAttempt st (me st) ea .read c.toNat (fun full => some (none, full)))
    let full := match a with
      | some (_, b) => b
      | none => false
    let st ← launch (acquireIf r st) { landings := toDest st d false (boolWord full).toNat }
    .ok (completeReading st [x])

/-- FE_RETRY (R229). A failed full/empty attempt is retried after GAP issue periods, then parks. -/
def execFeRetry (t : BitVec 12) (st : State) : Host.Outcome State Fault Refusal :=
  match (st.thread t.toNat).wait with
  | .feGap n => .next (st.setThread t.toNat { st.thread t.toNat with wait := .feGo n })
  | _ => disabled "FE_RETRY"

/-- Parked instructions that a change of their word wakes, of those at its place (R231); `bank` is the core in whose stash bank
it happened. -/
def feWakes (l : List Sleeper) (bank : Option Nat) (key : Nat) (full : Bool) : List Sleeper :=
  let here := l.filter (fun x => x.key == key && x.bank == bank)
  let oldest (k : BitVec 2) := (here.find? (fun x => x.kind == k)).toList
  if full then oldest 0 ++ here.filter (fun x => x.kind == 2) else oldest 1

/-- Where the registrations of a place of changes are kept, and the core whose stash bank it is (R220). -/
def changePool (place : Nat) : Nat := if place < bankPlace 0 then place else clusterOf (place - bankPlace 0) + 1
def changeBank (place : Nat) : Option Nat := if place < bankPlace 0 then none else some (place - bankPlace 0)

/-- A woken instruction attempts again, without counting (R229). -/
def feWake (st : State) (t : Nat) : State :=
  match (st.thread t).wait with
  | .feParked n => st.setThread t { st.thread t with wait := .feWoken n }
  | _ => st

/-- FE_WAKE (R231). A word changing full/empty state wakes parked LDFE, LDFF or STFE waiters. -/
def execFeWake (place : Nat) (key : Nat) (st : State) : Host.Outcome State Fault Refusal :=
  match findIdxFrom (fun c => c.1 == place && c.2.1 == key) st.changes 0 with
  | some (i, c) =>
    let l := parkedAt st (changePool place)
    let woken := feWakes l (changeBank place) key c.2.2
    let st := setParked { st with changes := removeAt st.changes i } (changePool place) (l.filter (fun x => !woken.contains x))
    .next (woken.foldl (fun st x => feWake st x.thread) st)
  | none => disabled "FE_WAKE"


end Sys2Proof.Machine
end

