-- ==== Sys2Proof/Machine/Reserve.lean ====
section
/-!
DEFINITION. Sys2Proof/Machine/Reserve.lean: queued reservations and waits on an address (R236 to R242).
-/

namespace Sys2Proof.Machine

/-! ## Reservations (R236 to R239) -/

/-- The place and the line of a reservation or wait instruction; what it may not address stops it (R220, R432). -/
def rsvPlace (st : State) (ea : DWord) (k : Right) (scope : Nat) : Eff (State × Place × Nat) := do
  require ((stashBank st (me st) ea).isNone) (illegalOperand st)
  let (st, p) ← atIssue true (resolve st (me st) k ea)
  match p with
  | .window _ => .error (.trap st { cause := .permissionFault, tval := ea })
  | _ => .ok (st, p, registry p st.myCluster scope)

/-- RESERVATION_STATE, with the effective address (R375). -/
def reservationState (st : State) (ea : DWord) : Stop := .trap st { cause := .reservationState, tval := ea }

/-- The queue of a line in which a thread awaits or holds it. -/
def Rsv.queueOf (r : Rsv) (line : Nat) : Option Nat :=
  match r with
  | .free | .lost _ => none
  | .awaits q l | .holds q l => if l = line then some q else none

/-- Whether a thread neither awaits nor holds a line. -/
def Rsv.vacant : Rsv → Bool
  | .free | .lost _ => true
  | _ => false

/-- An LRW that traps with LINK_FAULT has answered for the queue that was lost with the link (R423). -/
def forgetLost (st : State) : State := if st.th.rsv.vacant then st.setTh { st.th with rsv := .free } else st
def linkAnswer (x : Eff (State × Place × Nat)) : Eff (State × Place × Nat) :=
  match x with
  | .error (.trap st r) => .error (.trap (if r.cause = .linkFault then forgetLost st else st) r)
  | x => x

/-- A thread's place in the queue of a line, taken where it has none. -/
def joinQueue (st : State) (place line : Nat) : Eff State := do
  if st.th.rsv = .awaits place line then .ok st
  else
    waitFor (rsvRoom st place line) st
    let q := rsvQueue st place line
    let st := setRsvQueue st place line { q with waiters := q.waiters ++ [st.refOf st.cur] }
    .ok (st.setTh { st.th with rsv := .awaits place line })

/-- Whether a thread has been granted a line. -/
def granted (st : State) (place line t : Nat) : Bool :=
  heldBy st place line (st.refOf t)

/-- Whether a thread holds a line beyond its limit (R238). -/
def pastLimit (st : State) (place line r : Nat) : Bool :=
  match (rsvQueue st place line).holder with
  | some (h, some limit) => h == r && decide (limit ≤ st.pitch)
  | _ => false

/-- Whether a thread's hold has reached its limit (R238). -/
def holdOver (st : State) (r : Nat) : Bool :=
  match (st.byRef r).rsv with
  | .free | .lost _ => false
  | .awaits p l | .holds p l => pastLimit st p l r

/-! ## Waiting on an address (R240, R241) -/

/-- The word at a place, as WAITA reads it there. -/
def placeWord (st : State) (ea : DWord) (p : Place) (scope : Nat) : Eff (State × Word) := do
  waitFor (!bufferTouches st (me st) ea p 4) st
  let st := settleLoads st st.myCore p.line
  let (st, l) ← atIssue true
    (if scope ≤ 2 then
      match p, rangeAt st p with
      | .own _, none | .host _, none => do
        let (st, l) ← ofCause st ea (clusterAsk st (me st) p.line (needOf p.byte 4))
        pure (st, fromByte l.data p.byte)
      | _, _ => readNear st (me st) ea p 4
    else readFar st (me st) ea p)
  .ok (st, l.setWidth 32)

/-- The pitch counter at a place, with which a deadline is compared there (R242): the other module's for a place across the link. -/
def placeCounter (st : State) (p : Place) : DWord :=
  match p with
  | .peer _ => peerCounter st
  | _ => pitchCounter st

/-- Whether a thread's WAITA is registered across the link. -/
def sleepsAtPeer (st : State) (t : Nat) : Bool :=
  st.bridge.watchers.any (fun w => w.thread == t && peerRange st.module w.key)

/-- The result of a WAITA that need not sleep: 1 on a mismatch, 2 past the deadline at the place (R240, R242). -/
def waitaNow (st : State) (p : Place) (v want : Word) : Option Word :=
  if v ≠ want then some 1 else if st.th.waitdl ≠ 0 ∧ st.th.waitdl ≤ placeCounter st p then some 2 else none

/-- LRW (R237). Enqueues for a line reservation and reads with acquire when granted. -/
def execLrw (d : BitVec 5) (x : BitVec 5) (g : BitVec 3) (s : BitVec 1) (c : BitVec 3) (r : BitVec 2) (f : BitVec 4) (st : State) : Host.Outcome State Fault Refusal :=
  finishKeeping [x] do
    let ea ← address st x g s (f.toNat * 4)
    aligned st ea 4
    destFree st (destRefs st d false)
    let (st, p, place) ← linkAnswer (rsvPlace st ea .read c.toNat)
    require (st.th.rsv ≠ .lost p.line) (.trap (forgetLost st) { cause := .linkFault, tval := ea })
    require (st.th.rsv.vacant ∨ st.th.rsv = .awaits place p.line) (reservationState st ea)
    let st ← joinQueue st place p.line
    let st := if granted st place p.line st.cur then st else grantNext st place p.line
    waitFor (granted st place p.line st.cur) st
    let st := raiseClock st st.myCore (rsvTime st place)
    let (st, l) ← atIssue true (loadBytes st (me st) ea 4 c.toNat)
    let st := acquire st
    let st := st.setTh { st.th with rsv := .holds place p.line }
    let st ← launch st { landings := toDest st d false l.toNat }
    .ok (completeReading st [x])

/-- SCH (R237). A thread to which the line has been granted holds it (log entry 16). Stores with release, releases the
reservation and grants the next waiter. -/
def execSch (d : BitVec 5) (x : BitVec 5) (g : BitVec 3) (s : BitVec 1) (c : BitVec 3) (r : BitVec 2) (f : BitVec 4) (st : State) : Host.Outcome State Fault Refusal :=
  finishKeeping [x, d] do
    let ea ← address st x g s (f.toNat * 4)
    let v ← readP st d (earlierReads [x] d)
    aligned st ea 4
    let (st, p, place) ← rsvPlace st ea .modify c.toNat
    require (granted st place p.line st.cur) (reservationState st ea)
    let st ← release st c.toNat
    waitFor (!bufferTouches st (me st) ea p 4) st
    let st := settleCore st st.myCore
    let st ← atIssue false (writeBytes st (me st) ea p 4 (v.setWidth 512) (byteMask 4) c.toNat false)
    .ok (completeReading (passOn st place p.line) [x, d])

/-- RSVX (R237). Leaves the reservation queue or releases a held reservation: that of the line, in whatever queue it stands; the
scope is that of the release. -/
def execRsvx (x : BitVec 5) (g : BitVec 3) (s : BitVec 1) (c : BitVec 3) (r : BitVec 2) (f : BitVec 4) (st : State) : Host.Outcome State Fault Refusal :=
  finishKeeping [x] do
    let ea ← address st x g s (f.toNat * 4)
    let (st, p, _) ← rsvPlace st ea .read c.toNat
    match st.th.rsv.queueOf p.line with
    | some place =>
      if granted st place p.line st.cur then
        let st ← release st c.toNat
        .ok (completeReading (passOn st place p.line) [x])
      else .ok (completeReading (leaveQueue st place p.line (st.refOf st.cur)) [x])
    | none => .ok (completeReading st [x])

/-- RESERVATION_EXPIRY (R238). The hold timer expires; the line passes to the next waiter. -/
def execReservationExpiry (t : BitVec 12) (st : State) : Host.Outcome State Fault Refusal :=
  match (st.refsOf t.toNat).find? (holdOver st) with
  | some r =>
    match (st.byRef r).rsv with
    | .awaits p l | .holds p l => .next (leaveQueue st p l r)
    | .free | .lost _ => disabled "RESERVATION_EXPIRY"
  | none =>
    match (st.core (coreOf t.toNat)).handing.find? (fun h => h.1 % 4096 == t.toNat && pastLimit st h.2.1 h.2.2 h.1) with
    | some h => .next (leaveQueue st h.2.1 h.2.2 h.1)
    | none => disabled "RESERVATION_EXPIRY"

/-- WAITA (R240). Registers a wait on a word unless it differs or the deadline passed. -/
def execWaita (d : BitVec 5) (x : BitVec 5) (g : BitVec 3) (s : BitVec 1) (c : BitVec 3) (r : BitVec 2) (f : BitVec 4) (st : State) : Host.Outcome State Fault Refusal :=
  finishKeeping [x, d] do
    match st.th.wait with
    | .waitaAsleep | .waitaPolling => .error (.stall st)
    | .waitaDone code =>
      let _ ← address st x g s (f.toNat * 4)
      let st ← writeX (acquireIf r st) d code
      .ok (completeReading st [x, d])
    | _ =>
      let ea ← address st x g s (f.toNat * 4)
      let want ← readP st d (earlierReads [x] d)
      aligned st ea 4
      destFree st (destRefs st d false)
      let (st, p, place) ← rsvPlace st ea .read c.toNat
      let (st, v) ← placeWord st ea p c.toNat
      match waitaNow st p v want with
      | some code =>
        let st ← writeX (acquireIf r st) d code
        .ok (completeReading st [x, d])
      | none =>
        if poolRoom (watchersAt st place) place p.key then
          let w : Sleeper := { thread := st.cur, key := p.key, kind := 3, sys := c == 4 }
          .error (.stall ((setWatchers st place (watchersAt st place ++ [w])).setTh { st.th with wait := .waitaAsleep }))
        else .error (.stall (st.setTh { st.th with wait := .waitaPolling }))

/-- WAKEA (R240). Wakes up to n registered waiters on a word. -/
def execWakea (d : BitVec 5) (x : BitVec 5) (g : BitVec 3) (s : BitVec 1) (c : BitVec 3) (r : BitVec 2) (f : BitVec 4) (st : State) : Host.Outcome State Fault Refusal :=
  finishKeeping [x] do
    let ea ← address st x g s (f.toNat * 4)
    let n ← readP st d (earlierReads [x] d)
    aligned st ea 4
    destFree st (destRefs st d false)
    let (st, p, place) ← rsvPlace st ea .read c.toNat
    let st ← releaseIf r c.toNat st
    let l := watchersAt st place
    let here := l.filter (fun w => w.key == p.key)
    let woken := if n = 0 then here else here.take n.toNat
    let st := setWatchers st place (l.filter (fun w => !woken.contains w))
    let st := woken.foldl (fun st w => endWaita st w.thread 0 (st.core st.myCore).clock) st
    let st := if c = 4 then { st with bridge := { st.bridge with notices := st.bridge.notices ++ [p.key] } } else st
    let st ← writeX st d (BitVec.ofNat 32 woken.length)
    .ok (completeReading st [x])

/-- WAITA_DEADLINE (R242). The pitch counter at the place reaches TH_WAITDL; the waiter returns code 2. -/
def execWaitaDeadline (t : BitVec 12) (st : State) : Host.Outcome State Fault Refusal :=
  let th := st.thread t.toNat
  let now := if sleepsAtPeer st t.toNat then peerCounter st else pitchCounter st
  if th.wait = .waitaAsleep ∧ th.waitdl ≠ 0 ∧ th.waitdl ≤ now then
    .next (endWaita (unregister st t.toNat) t.toNat 2 0)
  else disabled "WAITA_DEADLINE"

/-- WAITA_POLL (R241). An unregistered WAITA polls its word every 1,024 pitch ticks. -/
def execWaitaPoll (t : BitVec 12) (st : State) : Host.Outcome State Fault Refusal :=
  let th := st.thread t.toNat
  if th.wait = .waitaPolling then .next (st.setThread t.toNat { th with wait := .idle }) else disabled "WAITA_POLL"

/-- HOST_WAKE (R242). A host wake operation wakes .S waiters on a word. -/
def execHostWake (pa : BitVec 64) (n : BitVec 32) (st : State) : Host.Outcome State Fault Refusal :=
  let l := st.bridge.watchers
  let here := l.filter (fun w => w.key == pa.toNat && w.sys)
  let woken := if n = 0 then here else here.take n.toNat
  let st := setWatchers st 0 (l.filter (fun w => !woken.contains w))
  .next (woken.foldl (fun st w => endWaita st w.thread 0 st.bridge.hostClock) st)


end Sys2Proof.Machine
end

