-- ==== Sys2Proof/Machine/MemEvents.lean ====
section
/-!
DEFINITION. Sys2Proof/Machine/MemEvents.lean: what the translation service, the caches and the host do (R14 to R20, R60, R63,
R70, R71, R75, R428).
-/

namespace Sys2Proof.Machine

/-! ## Fills and page responses (R14, R16, R19) -/

/-- The core whose access a waiter stands for. -/
def Waiter.home : Waiter → Nat
  | .thread t | .lineOp t | .prefetch t _ => coreOf t
  | .drain c | .copy c _ | .engine c _ => c
  | .sched _ => 0

/-- The level at which an access begins its translation (R12, R91): 0 a core, 1 a cluster, 2 the bridge. -/
def Waiter.level : Waiter → Nat
  | .thread _ | .lineOp _ | .prefetch .. | .drain _ => 0
  | .copy .. | .engine .. => 1
  | .sched _ => 2

/-- Who stands for a waiting miss on its way outward from a cluster. -/
def missWho (k : Nat) (w : MissWait) : Who :=
  { thread := 0, cls := w.cls, vi := 0, mode := .u, core := 0, cluster := k, own := false, waiter := w.waiter, ctx := 0 }

/-- A prefetch whose translation has come goes on (R227). -/
def prefetchOn (s : State) (w : Waiter) : State :=
  match w with
  | .prefetch t va => prefetch s t va false
  | _ => s

/-- Whether a miss waits for no entry at a level further out: its request has passed that level (R17). -/
def passed (waits : List MissWait) (m : Miss) : Bool := !waits.any (fun w => w.pasid == m.pasid && w.page == m.page)

/-- A core's misses that a test names and whose request has passed the cluster and the bridge. -/
def coreMisses (s : State) (c : Nat) (test : Miss → Bool) : List Miss :=
  (s.core c).misses.filter (fun m => test m && passed (s.cluster (clusterOf c)).missWaits m && passed s.bridge.missWaits m)

/-- Those of a cluster. -/
def clusterMisses (s : State) (k : Nat) (test : Miss → Bool) : List Miss :=
  (s.cluster k).misses.filter (fun m => test m && passed s.bridge.missWaits m)

/-- Misses of a core, of a cluster and of the bridge taken away. -/
def dropCoreMisses (s : State) (c : Nat) (l : List Miss) : State :=
  s.setCore c { s.core c with misses := (s.core c).misses.filter (fun m => !l.contains m) }
def dropClusterMisses (s : State) (k : Nat) (l : List Miss) : State :=
  s.setCluster k { s.cluster k with misses := (s.cluster k).misses.filter (fun m => !l.contains m) }
def dropBridgeMisses (s : State) (l : List Miss) : State :=
  { s with bridge := { s.bridge with misses := s.bridge.misses.filter (fun m => !l.contains m) } }

/-- Whether an entry translates the page of a miss. -/
def TlbEntry.answers (e : TlbEntry) (m : Miss) : Bool := e.covers m.pasid m.page

/-- The misses that wait at a level for an entry and need none any more, as their translation has come there. -/
def served (e : TlbEntry) (l : List MissWait) : List MissWait := l.filter (fun w => !e.covers w.pasid w.page)

/-- A core's misses answered by an entry that has come from its cluster. -/
def answerCore (s : State) (c : Nat) (e : TlbEntry) : State :=
  let l := coreMisses s c e.answers
  if l.isEmpty then s
  else
    let s := installCore (dropCoreMisses s c l) c e
    let waits := (s.core c).missWaits
    let s := s.setCore c { s.core c with missWaits := served e waits }
    (l.flatMap (·.waiters) ++ (waits.filter (fun w => e.covers w.pasid w.page)).map (·.waiter)).foldl prefetchOn s

/-- The misses of a cluster and of its cores answered by an entry that has come from the bridge: it is installed at each level it
passes through (R14). -/
def answerCluster (s : State) (k : Nat) (e : TlbEntry) : State :=
  let l := clusterMisses s k e.answers
  if l.isEmpty then s
  else
    let s := installCluster (dropClusterMisses s k l) k e
    let s := s.setCluster k { s.cluster k with missWaits := served e (s.cluster k).missWaits }
    (List.range 16).foldl (fun s i => answerCore s (coreAt k i) e) s

/-- The misses of all levels answered by an entry of the bridge. -/
def answerBridge (s : State) (e : TlbEntry) : State :=
  let s := dropBridgeMisses s (s.bridge.misses.filter e.answers)
  let s := { s with bridge := { s.bridge with missWaits := served e s.bridge.missWaits } }
  (s.clusters.map (·.1)).foldl (fun s k => answerCluster s k e) s

/-- The waiters of the misses of all levels whose request, for a page, has passed the bridge and is answered with no page; the
misses end. -/
def absentWaiters (s : State) (page : Miss → Bool) : State × List Waiter :=
  let take (level : Nat) (l : List Miss) : List Waiter := (l.flatMap (·.waiters)).filter (fun w => w.level == level)
  let cores := s.cores.map (·.1)
  let clusters := s.clusters.map (·.1)
  let atBridge := s.bridge.misses.filter page
  let l := (take 2 atBridge ++ clusters.flatMap (fun k => take 1 (clusterMisses s k page)) ++
    cores.flatMap (fun c => take 0 (coreMisses s c page))).eraseDups
  let s' := cores.foldl (fun r c => dropCoreMisses r c (coreMisses s c page)) s
  let s' := clusters.foldl (fun r k => dropClusterMisses r k (clusterMisses s k page)) s'
  (dropBridgeMisses s' atBridge, l)

/-- Misses that wait at a level take the entries that are free, in the order of R17, and then look in the next level out; where
that has no entry for the page they go outward. -/
def promoteBridge : Nat → State → State
  | 0, s => s
  | n + 1, s => match MissLevel.next bridgeMissCap (s.bridge.misses, s.bridge.missWaits) with
    | some (l, w) =>
      let s := setMissBridge s l
      promoteBridge n (match tlbFind s.bridge.tlb w.pasid w.page with
        | some (e, t) => answerBridge { s with bridge := { s.bridge with tlb := t } } e
        | none => s)
    | none => s
def promoteCluster (k : Nat) : Nat → State → State
  | 0, s => s
  | n + 1, s => match MissLevel.next clusterMissCap ((s.cluster k).misses, (s.cluster k).missWaits) with
    | some (l, w) =>
      let s := setMissCluster s k l
      promoteCluster k n (match tlbFind (s.cluster k).tlb w.pasid w.page with
        | some (e, t) => answerCluster (s.setCluster k { s.cluster k with tlb := t }) k e
        | none => match tlbFind s.bridge.tlb w.pasid w.page with
          | some (e, t) => answerCluster { s with bridge := { s.bridge with tlb := t } } k e
          | none => missBridge s w.pasid w.page (missWho k w))
    | none => s
def promoteCore (c : Nat) : Nat → State → State
  | 0, s => s
  | n + 1, s => match MissLevel.next missCap ((s.core c).misses, (s.core c).missWaits) with
    | some (l, w) =>
      let s := setMissCore s c l
      promoteCore c n (match tlbFind (s.core c).tlb w.pasid w.page with
        | some (e, t) => answerCore (s.setCore c { s.core c with tlb := t }) c e
        | none => match outerFind s (clusterOf c) w.pasid (BitVec.ofNat 64 w.page) with
          | (s, some e) => answerCore s c e
          | (s, none) => missCluster s w.pasid w.page (missWho (clusterOf c) w))
    | none => s
def promoteMisses (s : State) : State :=
  let s := promoteBridge s.bridge.missWaits.length s
  let s := s.clusters.foldl (fun s p => promoteCluster p.1 p.2.missWaits.length s) s
  s.cores.foldl (fun s p => promoteCore p.1 p.2.missWaits.length s) s

/-- That a page is absent is noted for an access that waits (R18). -/
def noteAbsent (s : State) (pasid : BitVec 20) (page : Nat) (w : Waiter) : State :=
  match w with
  | .prefetch .. => s
  | _ => s.setCore w.home { s.core w.home with absent := (s.core w.home).absent ++ [(w, pasid, page)] }

/-- The answer to a translation request, for a PASID and the 4 KiB page of an address: an entry installed at the bridge and
wherever a miss has passed, or the absence noted for each access that waits. Misses that wait for an entry at a level where the
translation has not come keep their turn there (R17), and move up as entries come free. -/
def fill (st : State) (pasid : BitVec 20) (va : DWord) (r : FillResponse) : State :=
  let size := pageBytes r.size
  let e : TlbEntry := { pasid := pasid, page := va.toNat / size * size, pa := r.pa.toNat / size * size, size := r.size,
                        r := r.r, w := r.w, x := r.x, u := r.u }
  if r.present then promoteMisses (answerBridge (installBridge st e) e)
  else
    let (s, waiters) := absentWaiters st (fun m => m.pasid == pasid && m.page == pageOf va)
    waiters.foldl (fun s w => noteAbsent s pasid (pageOf va) w) (promoteMisses s)

/-- The completion notices of a page response (R382): one to each thread whose upcall waited on the page, with the token of
its first such upcall. -/
def pageNotices (st : State) (pasid : BitVec 20) (page : Nat) (ok : Bool) : State :=
  let word (a : BitVec 8 × Nat) : BitVec 16 := a.1.setWidth 16 ||| (if ok then 0 else 0x8000)
  let tell (th : Thread) : Thread :=
    if (st.viOf th.vi.toNat).pasid == pasid then
      let mine := th.awaited.filter (fun a => a.2 == page / 4096)
      { th with awaited := th.awaited.filter (fun a => a.2 != page / 4096),
                noteFault := (th.noteFault ++ (mine.take 1).map word).take 8 }
    else th
  { st with threads := st.threads.map (fun p => (p.1, tell p.2)), saved := st.saved.map (fun p => (p.1, tell p.2)) }

/-- Copies and records held for a page go on, or fail where it was refused (R91, R358, R359). -/
def pageRelease (st : State) (pasid : BitVec 20) (page : Nat) (ok : Bool) : State :=
  let copy (r : CopyReq) : CopyReq :=
    if r.held = some page ∧ (st.viOf r.vi.toNat).pasid = pasid then { r with held := none, refused := !ok } else r
  let launch (l : Launch) : Launch :=
    if l.held = some page ∧ (st.viOf l.vi.toNat).pasid = pasid then { l with held := none, refused := !ok } else l
  { st with clusters := st.clusters.map (fun p => (p.1, { p.2 with copies := p.2.copies.map copy })),
            launches := st.launches.map (fun p => (p.1, launch p.2)) }

/-! ## Invalidations (R20, R320) -/

/-- Entries of all levels that satisfy a test are dropped. -/
def dropEntries (st : State) (p : TlbEntry → Bool) : State :=
  let keep (l : List TlbEntry) := l.filter (fun e => !p e)
  { st with cores := st.cores.map (fun q => (q.1, { q.2 with tlb := keep q.2.tlb })),
            clusters := st.clusters.map (fun q => (q.1, { q.2 with tlb := keep q.2.tlb })),
            bridge := { st.bridge with tlb := keep st.bridge.tlb } }

/-- The entries of all levels that satisfy a test. -/
def entriesOf (st : State) (p : TlbEntry → Bool) : List TlbEntry :=
  (st.bridge.tlb ++ st.clusters.flatMap (fun q => q.2.tlb) ++ st.cores.flatMap (fun q => q.2.tlb)).filter p

/-- Whether a line lies in a page that one of some entries gives. -/
def translatedBy (l : List TlbEntry) (line : Nat) : Bool :=
  l.any (fun e => decide (e.pa ≤ 64 * line) && decide (64 * line < e.pa + pageBytes e.size))

/-- What was written through some entries goes home: dirty lines and partials of the clusters, and dirty lines of stash banks. -/
def pushTranslated (st : State) (l : List TlbEntry) : State :=
  let mine {α : Type} (m : AMap α) : List Nat := (m.map (·.1)).filter (translatedBy l)
  let st := st.cores.foldl (fun st p =>
    ((p.2.stash.map (·.1)).filter (fun key => translatedBy l (key / 16))).foldl (fun st key => stashPush st p.1 key) st) st
  st.clusters.foldl (fun st p =>
    (mine p.2.partials).foldl (fun st line => dropPartial st p.1 line)
      ((mine p.2.lines).foldl (fun st line => pushLine st p.1 line) st)) st

/-- Whether an access that an entry of some kind translated is still on its way: a store (R352), the name write of a HINGEST
(R282). -/
def storesAway (st : State) (p : TlbEntry → Bool) : Bool :=
  st.cores.any (fun c => c.2.buffer.any (fun e => (e.away.bind (·.entry)).any p)) ||
    (st.threads ++ st.saved).any (fun t => t.2.leases.any (fun l => l.2.ops.any (fun o => o.nameEntry.any p)))

/-- Every load in flight has been performed. -/
def settleAll (st : State) : State :=
  let done (th : Thread) : Thread := { th with producers := th.producers.map (fun p => { p with late := none }) }
  { st with threads := st.threads.map (fun p => (p.1, done p.2)), saved := st.saved.map (fun p => (p.1, done p.2)) }

/-- An invalidation of the entries that satisfy a test, once every access they translated has been performed at its home: loads in
flight are, and none where a store is still on its way. -/
def invalidate (st : State) (p : TlbEntry → Bool) : Option State :=
  let l := entriesOf st p
  if storesAway st p then none else some (dropEntries (pushTranslated (settleAll st) l) p)

/-! ## Host accesses (R37, R78, R354, R403) -/

/-- Whether a host access to a byte of this module is refused: it lies in an enabled CAR store, or, for a write, in a range. -/
def hostBarred (m : Module) (write : Bool) (pa : Nat) : Bool :=
  ownRange m pa && (inCar m pa || (write && (inCrange m pa).isSome))

/-- The lines that n bytes touch. -/
def linesOf (pa n : Nat) : List Nat := ((List.range n).map (fun i => (pa + i) / 64)).eraseDups

/-- The host fabric's copy of a line after a host write (R70): a host cache that held a module line holds it in M, and the
bridge no longer holds a host line. -/
def hostOwns (st : State) (line : Nat) : State :=
  let b := st.bridge
  if ownLine st line then
    if (look b.hostHeld line).isSome then { st with bridge := { b with hostHeld := put b.hostHeld line .modified } } else st
  else { st with bridge := { b with held := del b.held line } }

/-- A host write of some bytes: dropped in the lines that a CAR store or a range refuses, else performed at the bridge, stamped
and noticed (R241). -/
def hostWrite (st : State) (pa : Nat) (data : List Byte) : State :=
  let m := st.module
  let n := data.length
  if bar2Range m pa then
    queueWrite st (pa - m.bar2.toNat) n (BitVec.ofNat 512 (ofLanes 8 (data.map (·.toNat)))) true st.bridge.hostClock
  else
    let (bad, good) := (linesOf pa n).partition (fun l => hostBarred m true (64 * l))
    let mem := data.zipIdx.foldl (fun mem p => if bad.contains ((pa + p.2) / 64) then mem else memSet mem (pa + p.2) p.1) st.mem
    let st := { st with mem := mem, bridge := { st.bridge with refusedHost := !bad.isEmpty } }
    good.foldl (fun st line =>
      let (st, wts) := stampHome (hostOwns st line) line st.bridge.hostClock
      let st := { st with bridge := { st.bridge with hostClock := max st.bridge.hostClock wts } }
      wakeWords st 0 ((wordKeys pa n).filter (fun w => w / 16 == line)) wts) st

/-- A host read: its bytes become the answer, and the host learns of their write times. A range's line is combined first; a
CAR store's line answers poisoned, and so does a read of a line with an uncorrectable error, one that the combine has met too. -/
def hostRead (st : State) (pa n : Nat) : State :=
  let m := st.module
  if bar2Range m pa then
    let l := queueRead st (pa - m.bar2.toNat) n
    { st with bridge := { st.bridge with refusedHost := false, answer := (List.range n).map (byteAt l) } }
  else if (linesOf pa n).any (fun l => hostBarred m false (64 * l)) then
    { st with bridge := { st.bridge with refusedHost := true } }
  else
    let st := (linesOf pa n).foldl (fun st line =>
      let st := match (if ownRange m (64 * line) then inCrange m (64 * line) else none) with
        | some r => combineLine st r 0 line st.bridge.hostClock allClusters
        | none => st
      { st with bridge := { st.bridge with hostClock := max st.bridge.hostClock (homeTimes st line).wts } }) st
    if (linesOf pa n).any (fun l => st.bridge.poisoned.contains l) then { st with bridge := { st.bridge with refusedHost := true } }
    else { st with bridge := { st.bridge with refusedHost := false, answer := (List.range n).map (fun i => memByte st.mem (pa + i)) } }

/-- TRANSLATION_FILL (R14). A returned translation is installed and wakes its waiters. -/
def execTranslationFill (pasid : BitVec 20) (va : BitVec 64) (resp : FillResponse) (st : State) : Host.Outcome State Fault Refusal :=
  if st.bridge.misses.any (fun m => m.pasid == pasid && m.page == pageOf va) then .next (fill st pasid va resp)
  else disabled "TRANSLATION_FILL"

/-- PRG_RESPONSE (R19). A host Page Request Group response posts fault-completion notices. -/
def execPrgResponse (pasid : BitVec 20) (page : BitVec 64) (ok : Bool) (st : State) : Host.Outcome State Fault Refusal :=
  let l := st.bridge.pageRequests
  let mine (r : BitVec 20 × Nat × Bool) : Bool := r.1 == pasid && r.2.1 == pageOf page
  if l.any mine then
    let st := { st with bridge := { st.bridge with pageRequests := l.filter (fun r => !mine r) } }
    .next (nextPageRequest (pageRelease (pageNotices st pasid (pageOf page) ok) pasid (pageOf page) ok))
  else disabled "PRG_RESPONSE"

/-- ATS_INVALIDATION (R20). The host invalidates translations; completion waits for affected accesses. -/
def execAtsInvalidation (pasid : BitVec 20) (base : BitVec 64) (bytes : Nat) (st : State) : Host.Outcome State Fault Refusal :=
  match invalidate st (fun e => e.pasid == pasid && decide (e.page < base.toNat + bytes) &&
      decide (base.toNat < e.page + pageBytes e.size)) with
  | some st' =>
    let mine (x : Waiter × BitVec 20 × Nat) : Bool := x.2.1 == pasid && decide (base.toNat ≤ x.2.2 + 4095) && decide (x.2.2 < base.toNat + bytes)
    .next { st' with cores := st'.cores.map (fun p => (p.1, { p.2 with absent := p.2.absent.filter (fun x => !mine x) })) }
  | none => disabled "ATS_INVALIDATION"

/-- CLOCK_AGEING (R60). Every core logical clock advances one tick per 4,096 cycles. -/
def execClockAgeing (st : State) : Host.Outcome State Fault Refusal :=
  .next ((List.range Config.cores).foldl (fun st c => st.setCore c { st.core c with clock := (st.core c).clock + 1 }) st)

/-- CLUSTER_LINE_EVICTION (R67). A cluster cache evicts a line, pushing its dirty bytes. -/
def execClusterLineEviction (cl : BitVec 5) (line : Nat) (st : State) : Host.Outcome State Fault Refusal :=
  if (look (st.cluster cl.toNat).lines line).isSome then .next (dropLine st cl.toNat line)
  else disabled "CLUSTER_LINE_EVICTION"

/-- PARTIAL_EVICTION (R75). An evicted commutative partial is combined with memory. -/
def execPartialEviction (cl : BitVec 5) (line : Nat) (st : State) : Host.Outcome State Fault Refusal :=
  match look (st.cluster cl.toNat).partials line, inCrange st.module (64 * line) with
  | some _, some _ => .next (dropPartial st cl.toNat line)
  | _, _ => disabled "PARTIAL_EVICTION"

/-- BRIDGE_EVICTION (R63). The bridge cache evicts a line to LPDDR6, raising memory time; a host line goes back to the host. -/
def execBridgeEviction (line : Nat) (st : State) : Host.Outcome State Fault Refusal :=
  if (look st.bridge.homes line).isSome then .next (evictHome st line) else disabled "BRIDGE_EVICTION"

/-- What a host cache holds of a line after a snoop asked for it, and what its holder keeps (R70). -/
def Moesi.shared? : Option Moesi → Moesi
  | some .modified | some .owned => .owned
  | some .exclusive | some .shared => .shared
  | none => .exclusive

/-- HOST_SNOOP (R71). A host snoop takes a line from the bridge without waiting for leases. -/
def execHostSnoop (line : Nat) (kind : SnoopKind) (st : State) : Host.Outcome State Fault Refusal :=
  let pa := 64 * line
  let m := st.module
  let b := st.bridge
  if ownRange m pa then
    if inCar m pa then .next { st with bridge := { b with refusedHost := true } }
    else match inCrange m pa with
      | some n => .next (combineLine st n 0 line b.hostClock allClusters)
      | none => match kind with
        | .share => .next { st with bridge := { b with hostHeld := put b.hostHeld line (Moesi.shared? (look b.hostHeld line)) } }
        | .take => .next { st with bridge := { b with hostHeld := put b.hostHeld line .modified } }
  else match kind with
    | .share => match look b.held line with
      | some x => .next { st with bridge := { b with held := put b.held line (Moesi.shared? (some x)) } }
      | none => .next st
    | .take =>
      let (st, wts) := stampHome { st with bridge := { b with held := del b.held line } } line b.hostClock
      .next (wakeWords st 0 ((List.range 16).map (fun w => 16 * line + w)) wts)

/-- UNCORRECTABLE_ERROR (R428). An uncorrectable memory error poisons the line or faults the reader. -/
def execUncorrectableError (line : Nat) (st : State) : Host.Outcome State Fault Refusal :=
  .next { st with bridge := { st.bridge with poisoned := if st.bridge.poisoned.contains line then st.bridge.poisoned
                                                        else st.bridge.poisoned ++ [line] } }


/-! ## Errors in copies (R428) -/

/-- The entries of a level that translate an address come to have an uncorrectable error. -/
def spoilEntries (l : List TlbEntry) (pasid : BitVec 20) (va : Nat) : List TlbEntry :=
  l.map (fun e => if e.covers pasid va then { e with bad := true } else e)

/-- An uncorrectable error in a copy of a core's L1, in a copy, a partial or a named line of a cluster cache, in a stash bank. -/
def spoilL1 (s : State) (core line : Nat) : State :=
  let c := s.core core
  match look c.l1 line with
  | some l => s.setCore core { c with l1 := put c.l1 line { l with bad := true } }
  | none => s
def spoilCluster (s : State) (k line : Nat) : State :=
  let x := s.cluster k
  let x : Cluster := match look x.lines line with
    | some l => { x with lines := put x.lines line { l with bad := true } }
    | none => x
  s.setCluster k (match look x.partials line with
    | some l => { x with partials := put x.partials line { l with bad := true } }
    | none => x)
def spoilName (s : State) (k key : Nat) : State :=
  let x := s.cluster k
  match look x.names key with
  | some l => s.setCluster k { x with names := put x.names key { l with bad := true } }
  | none => s
def spoilStash (s : State) (core key : Nat) : State :=
  let c := s.core core
  match look c.stash key with
  | some l => s.setCore core { c with stash := put c.stash key { l with bad := true } }
  | none => s

/-- One in the translation of an address for a virtual interface, in the innermost level of a core's path that holds it. -/
def spoilTlb (s : State) (core : Nat) (vi : BitVec 10) (va : DWord) : State :=
  let pasid := (s.viOf vi.toNat).pasid
  let c := s.core core
  let x := s.cluster (clusterOf core)
  if c.tlb.any (fun e => e.covers pasid va.toNat) then s.setCore core { c with tlb := spoilEntries c.tlb pasid va.toNat }
  else if x.tlb.any (fun e => e.covers pasid va.toNat) then
    s.setCluster (clusterOf core) { x with tlb := spoilEntries x.tlb pasid va.toNat }
  else { s with bridge := { s.bridge with tlb := spoilEntries s.bridge.tlb pasid va.toNat } }

end Sys2Proof.Machine
end

