-- ==== Sys2Proof/Machine/Exceptions.lean ====
section
/-!
DEFINITION. Sys2Proof/Machine/Exceptions.lean: illegal instructions, traps, returns, plucks and halts (R183, R313, R314, R375 to R390).
-/

namespace Sys2Proof.Machine

/-! ## Events at one boundary (R390) -/

/-- The store-fault records of a thread, oldest first. -/
def recordsOf (st : State) (t : Nat) : List StoreRecord :=
  ((st.core (coreOf t)).records.filter (fun r => r.1 == t)).map (·.2)

/-- A record's 32 bytes (R383). -/
def recordImage (r : StoreRecord) : Nat :=
  r.va.toNat + r.data.toNat * 2 ^ 64 + r.pc.toNat * 2 ^ 128 + r.size.toNat * 2 ^ 192 + r.slot.toNat * 2 ^ 200 +
    r.cause.code.toNat * 2 ^ 208 + r.kind.toNat * 2 ^ 216 + r.mask.toNat * 2 ^ 224

/-- The key of a byte of a core's bank 15 (R94). -/
def bank15Key (core off : Nat) : Nat := localKey core (15 * 0x4000 + off)

/-- What is taken at a thread's issue boundary before its next instruction. -/
inductive Boundary where
  | storeFault
  | posted (p : Posted)
  | pluck
  /-- A pluck that applies and waits for producers in flight to w8 to w11 (R389): nothing else is taken meanwhile (R390). -/
  | pluckWaits
  /-- The thread's block has been ended: it stops here (R391). -/
  | over
  | nothing
deriving DecidableEq, Repr

/-- Whether a source has an enabled notice pending (R388, R389). -/
def pluckReady (th : Thread) : Bool :=
  (th.plens.getLsbD 0 && th.noteBatch.isSome) || (th.plens.getLsbD 1 && th.noteLease.isSome) ||
    (th.plens.getLsbD 2 && !th.noteFault.isEmpty) || (th.plens.getLsbD 3 && th.noteBarrier.isSome)

/-- The registers w8 to w11 of the newest frame, by place. -/
def w8Places (th : Thread) : List Nat := (List.range 4).map (fun i => 16 * th.cwp.toNat + 12 + i)

/-- Whether a producer in flight awaits one of some places. -/
def anyBusy (th : Thread) (ps : List Nat) : Bool := ps.any (fun p => (lookD th.scal p {}).busy)

/-- Whether a thread waits in an SDRAIN that can complete: it does so before anything is taken (R226, R385). -/
def drainOver (st : State) (t : Nat) : Bool := (st.thread t).stalled && (st.thread t).ir == 0xF4000001 && drained st t

/-- Whether an instruction has begun an effect that it completes before anything is taken (R44, R257, R297, R371). -/
def Wait.underway : Wait → Bool
  | .sendAccepted | .placed _ | .carPending .. | .carWaits _ => true
  | _ => false

/-- Items 2 to 4 of R390, and before them a trap to the monitor for a store that drained (R375). -/
def boundary (st : State) (t : Nat) : Boundary :=
  let th := st.thread t
  if !th.present || th.wait.underway || drainOver st t then .nothing
  else if th.stops then .over
  else match (if th.mode == .m then none else th.posted.find? (·.restart.isSome)) with
  | some p => .posted p
  | none =>
  if th.mode != .u then .nothing
  else if !(recordsOf st t).isEmpty then .storeFault
  else match th.posted with
    | p :: _ => .posted p
    | [] =>
      if th.plen && !th.inpl && !th.inup && pluckReady th then
        if anyBusy th (w8Places th) then .pluckWaits else .pluck
      else .nothing

/-- Whether a slot has issue cycles: it holds a thread that is not pre-empted or being saved or restored, its core is powered and
its clock runs (R64, R395), its number is in the rotation (R398) and its die has not tripped (R402). -/
def slotRuns (s : State) (t : Nat) : Bool :=
  let c := s.core (coreOf t)
  running s t && c.sw && c.ready && c.eff != 6 && !c.rmv.getLsbD (slotOf t) && !s.module.trip.getLsbD (coreOf t / 256) &&
    !c.preempts.any (fun p => p.slot == slotOf t && p.started)

/-- What the executive is not to see of a protected thread (R412): the scalar registers, the window, the base, vector and predicate
registers and the shadows of w8 to w11. -/
def Thread.veiled (th : Thread) : Thread :=
  if th.veil.isSome then th
  else { th with
    veil := some { scal := th.scal, cwp := th.cwp, resident := th.resident, frames := th.frames, wsptr := th.wsptr,
                   base := th.base, vec := th.vec, pred := th.pred, shadow := th.shadow },
    scal := [], base := [], vec := [], pred := [], shadow := th.shadow.map (fun _ => {}) }

/-- The monitor passes a protected thread's trap to the executive (R412): cause and restart point unchanged, TH_TVAL bits [11:0] and
CODE cleared, the registers zero until the executive's XRET. A trap of the executive's own in the meantime is passed on as well; the
thread's registers stay hidden. DESIGN CHOICE (log entry 79): the monitor does so at its entry, in one step, once no producer is in
flight, in a slot that has issue cycles. -/
def monitorPass (s : State) (t : Nat) : State :=
  let th := s.thread t
  let c := s.core (coreOf t)
  let cause : Word := lookD c.mncause (slotOf t) 0
  let path : Bool := [0x05, 0x38, 0x39, 0x3A].contains (cause.toNat % 64)
  if slotRuns s t && th.mode == .m && protectedThread s t && th.pc == c.mnvec && !th.stalled && th.producers.isEmpty && !path &&
      cause >>> 30 != 2 then
    s.setThread t { th.veiled with
      epc := lookD c.mnepc (slotOf t) 0, cause := cause &&& 0xFF00003F, tval := lookD c.mntval (slotOf t) 0 &&& ~~~0xFFF,
      mode := .s, plen := false, pc := (s.viOf th.vi.toNat).tvec }
  else s

/-- Whether a slot issues: it has issue cycles, and it is not halted (R314, R349). -/
def canIssue (s : State) (t : Nat) : Bool := slotRuns s t && !(s.thread t).halted

/-- STORE_FAULT (R384). -/
def deliverStoreFault (st : State) (t : Nat) : State :=
  let rs := recordsOf st t
  let c := coreOf t
  let mem := rs.zipIdx.foldl (fun m r =>
    memPutNat m (bank15Key c (0x1000 + slotOf t * 0x400 + 32 * r.2)) 32 (recordImage r.1)) st.mem
  let st := { st with mem := mem }
  let st := st.setCore c { st.core c with records := (st.core c).records.filter (fun r => r.1 != t) }
  trapThread st t (st.thread t).pc
    { cause := .storeFault, tval := (rs.head?.map (·.va)).getD 0, code := BitVec.ofNat 12 rs.length, posted := true } false

/-- Another posted cause (R390), or the trap for a store that drained. -/
def deliverPosted (st : State) (t : Nat) (p : Posted) : State :=
  let st := st.setThread t { st.thread t with posted := (st.thread t).posted.erase p }
  trapThread st t (p.restart.getD (st.thread t).pc) { cause := p.cause, tval := p.tval, posted := p.restart.isNone } false

/-- The notice a pluck delivers, in the order fault, lease, batch, barrier, and the thread without it (R389). -/
def takeNotice (th : Thread) : Thread × BitVec 3 × BitVec 16 :=
  if th.plens.getLsbD 2 && !th.noteFault.isEmpty then ({ th with noteFault := th.noteFault.drop 1 }, 3, th.noteFault.head?.getD 0)
  else if th.plens.getLsbD 1 && th.noteLease.isSome then ({ th with noteLease := none }, 2, th.noteLease.getD 0)
  else if th.plens.getLsbD 0 && th.noteBatch.isSome then ({ th with noteBatch := none }, 1, th.noteBatch.getD 0)
  else ({ th with noteBarrier := none }, 4, th.noteBarrier.getD 0)

/-- A pluck (R389). -/
def deliverPluck (st : State) (t : Nat) : State :=
  let st := abandon st t
  let (th, src, data) := takeNotice (st.thread t)
  let ps := w8Places th
  let vals : List (Cell 32) := [{ val := src.setWidth 32 }, { val := data.setWidth 32 }, { val := 0 }, { val := 0 }]
  st.setThread t { th with
    shadow := ps.map (fun p => lookD th.scal p {}), plpc := th.pc, plsrc := src, pldata := data,
    scal := (ps.zip vals).foldl (fun m x => put m x.1 x.2) th.scal, inpl := true, pc := th.plvec }

/-- The slot of a thread that ends is empty (R302, R350). A request to save it is dropped (R374); so
are the store-fault records that it has not taken, which are no other thread's (R384). -/
def emptySlot (st : State) (t : Nat) : State :=
  let st := unholdPorts (forgetNotes st t) t
  let c := st.core (coreOf t)
  let stays (p : Preempt) : Bool := p.slot != slotOf t || p.restore || p.started || p.block.isSome
  let st := if c.preempts.all stays then st else st.setCore (coreOf t) { c with preempts := c.preempts.filter stays }
  let c := st.core (coreOf t)
  let st := if c.records.all (fun r => r.1 != t) then st else st.setCore (coreOf t) { c with records := c.records.filter (fun r => r.1 != t) }
  { st.setThread t { Thread.reset (slotOf t) with freedAt := st.serial + 1 } with serial := st.serial + 1 }

/-- A service trap: SVC, MCALL (R313). -/
def serviceTrap (c : Cause) (n : BitVec 12) (next : Bool) (st : State) : Host.Outcome State Fault Refusal :=
  .next (takeTrap st { cause := c, tval := st.th.ir.setWidth 64, code := n, next := next })

/-- ILLEGAL_INSTR (R183). A word that names no instruction, or fails privilege or field checks, traps precisely. -/
def execIllegalInstr (w : BitVec 32) (st : State) : Host.Outcome State Fault Refusal :=
  let low : Mode := match lowestMode w with
    | 0 => .u
    | 1 => .s
    | _ => .m
  let cause : Cause :=
    if !names w.toNat then .illegalInstr else if !st.th.mode.covers low then .privInstr else .illegalOperand
  .next (takeTrap st { cause := cause, tval := w.setWidth 64 })

/-- SVC (R313). Traps to S mode with SVC_CALL. -/
def execSvc (n : BitVec 12) (st : State) : Host.Outcome State Fault Refusal :=
  serviceTrap .svcCall n true st

/-- MCALL (R313). Traps to M mode with MONITOR_CALL. -/
def execMcall (n : BitVec 12) (st : State) : Host.Outcome State Fault Refusal :=
  finish do
    needMode st .s
    .error (.trap st { cause := .monitorCall, tval := st.th.ir.setWidth 64, code := n, next := true })

/-- BRK (R313). Traps to S mode with BREAKPOINT. -/
def execBrk (n : BitVec 12) (st : State) : Host.Outcome State Fault Refusal :=
  serviceTrap .breakpoint n false st

/-- XRET (R377). Returns from the trap handled in the current mode. A task that has been ended (R391) ends here; the
monitor's entry for a refused restore leaves the slot empty (R419). -/
def execXret (st : State) : Host.Outcome State Fault Refusal :=
  finish do
    needMode st .s
    .ok (if st.th.ends || st.th.refusal then emptySlot st st.cur else returnFromTrap st)

/-- UPRET (R313). Leaves an upcall frame, restoring k0-k3 and PC. -/
def execUpret (st : State) : Host.Outcome State Fault Refusal :=
  finish do
    let th := st.th
    require (!th.inpl && (topFrame th).kind == 3) (illegalOperand st)
    let lo ← readP st 9
    let hi ← readP st 10
    let pc : DWord := hi ++ lo
    require (pc.toNat % 4 == 0) (misaligned st pc)
    require (decide (1 < th.resident) || spilledExist th)
      (.trap st { cause := .windowUnderflow, tval := th.wsptr.setWidth 64 })
    require (decide (1 < th.resident) || !windowBad th) (.trap st { cause := .windowOverflow, tval := th.wsptr.setWidth 64 })
    waitFor (!frameBusy th th.cwp && !anyBusy th ((List.range 4).map (fun i => 16 * (th.cwp + 1).toNat + i))) st
    if 1 < th.resident then pure () else frameReadable st
    let base := 16 * th.cwp.toNat
    let scal := (List.range 4).foldl (fun m i => put m (base + i) (lookD th.scal (base + 12 + i) {})) th.scal
    let st := st.setTh { th with scal := scal, inup := false }
    let st := if 1 < th.resident then st else fillFrame st st.cur
    .ok (completeAt (st.setTh (rotateOut st.th)) pc)

/-- PLRET (R313). Returns from a pluck handler, restoring w8-w11. -/
def execPlret (st : State) : Host.Outcome State Fault Refusal :=
  finish do
    let th := st.th
    require th.inpl (illegalOperand st)
    waitFor (!anyBusy th (w8Places th)) st
    let scal := ((w8Places th).zip th.shadow).foldl (fun m x => put m x.1 x.2) th.scal
    .ok (completeAt (st.setTh { th with scal := scal, inpl := false, plsrc := 0 }) th.plpc)

/-- HALT (R314). Stops the issuing slot in place. -/
def execHalt (st : State) : Host.Outcome State Fault Refusal :=
  finish do
    needMode st .s
    let st := complete st
    .ok (st.setTh { st.th with halted := true })

/-- A write of CO_SLOTCTL (R314): the halted slots whose bits are 1 resume. -/
def resumeSlots (st : State) (core : Nat) (mask : BitVec 8) : State :=
  (List.range 8).foldl (fun st i =>
    let t := core * 8 + i
    if mask.getLsbD i && (st.thread t).halted then st.setThread t { st.thread t with halted := false } else st) st

/-- SLOT_RESUME (R314). Writing 1 to CO_SLOTCTL.HALTED resumes a halted slot. -/
def execSlotResume (core : BitVec 9) (mask : BitVec 8) (st : State) : Host.Outcome State Fault Refusal :=
  .next (resumeSlots st core.toNat mask)

/-- STORE_FAULT_DELIVERY (R384). Pending store-fault records are copied to bank 15 and STORE_FAULT taken. -/
def execStoreFaultDelivery (t : BitVec 12) (st : State) : Host.Outcome State Fault Refusal :=
  match slotRuns st t.toNat, boundary st t.toNat with
  | true, .storeFault => .next (deliverStoreFault st t.toNat)
  | _, _ => disabled "STORE_FAULT_DELIVERY"

/-- POSTED_CAUSE_DELIVERY (R390). A posted cause is taken at a U-mode issue boundary. -/
def execPostedCauseDelivery (t : BitVec 12) (st : State) : Host.Outcome State Fault Refusal :=
  match slotRuns st t.toNat, boundary st t.toNat with
  | true, .posted p => .next (deliverPosted st t.toNat p)
  | _, _ => disabled "POSTED_CAUSE_DELIVERY"

/-- PLUCK_DELIVERY (R389). A pending enabled notice is delivered to the pluck handler. -/
def execPluckDelivery (t : BitVec 12) (st : State) : Host.Outcome State Fault Refusal :=
  match slotRuns st t.toNat, boundary st t.toNat with
  | true, .pluck => .next (deliverPluck st t.toNat)
  | _, _ => disabled "PLUCK_DELIVERY"

/-- MACHINE_CHECK (R375). A parity error in core state raises MACHINE_CHECK to the monitor at an issue boundary of the slot
(R390), once an instruction that has begun its effect has completed. -/
def execMachineCheck (t : BitVec 12) (structureNo : BitVec 8) (entry : BitVec 8) (st : State) : Host.Outcome State Fault Refusal :=
  if slotRuns st t.toNat && !(st.thread t.toNat).wait.underway && !(st.thread t.toNat).stops && !drainOver st t.toNat then
    .next (trapThread st t.toNat (st.thread t.toNat).pc { cause := .machineCheck, tval := (structureNo ++ entry).setWidth 64 } false)
  else disabled "MACHINE_CHECK"


end Sys2Proof.Machine
end

