-- ==== Sys2Proof/Machine/Fetch.lean ====
section
/-!
DEFINITION. Sys2Proof/Machine/Fetch.lean: which slots issue, and the fetch of an instruction's word (R165, R195, R217).
-/

namespace Sys2Proof.Machine

/-- What a fetch comes to: a word, a wait for a translation, or a precise fault of the fetch. -/
inductive Fetched where
  | next (s : State) (w : Word)
  | waits (s : State)
  | trap (s : State) (r : TrapReq)

/-- The fetch of the issuing thread's next word: translated with execute permission, read where the place is. Its caches
are not touched (log entry 56). DESIGN CHOICE (log entry 66): a fetch from a queue window, of which R432 says nothing, is taken
as a load is, and the word read there is executed. -/
def fetch (s : State) : Fetched :=
  let pc := s.th.pc
  match resolve s (me s) .exec pc with
  | .error (.wait s') => .waits s'
  | .error (.fault s' c va soft) => .trap s' { cause := c, tval := va, upcall := soft, fetch := true }
  | .ok (s', p) =>
    match readNear s' (me s') pc p 4 with
    | .ok (_, l) => .next s' (l.setWidth 32)
    | .error (.wait _) => .waits s'
    | .error (.fault _ c va _) => .trap s' { cause := c, tval := if c = .sealFail then linePa s' (me s') va else va, fetch := true }

/-- Storing a word's four bytes at a key, the lowest first (R6). -/
def putWord (m : List Host.Cell) (key : Nat) (w : Word) : List Host.Cell := memPutNat m key 4 w.toNat

end Sys2Proof.Machine
end

