-- ==== Sys2Proof/Machine/Copy.lean ====
section
/-!
DEFINITION. Sys2Proof/Machine/Copy.lean: copies, their conversion, batches and the copy engine (R80 to R91, R287 to R290).
-/

namespace Sys2Proof.Machine

/-! ## Accesses over several lines -/

/-- The bytes of a span up to the end of its first line. -/
def headLen (va : DWord) (n : Nat) : Nat := min n (64 - va.toNat % 64)

/-- A read of n bytes for a copy or an engine, line by line, as a number; the first argument bounds the lines. -/
def readSpan (who : Who) (scope : Nat) : Nat → State → DWord → Nat → Mem (State × Nat)
  | 0, s, _, _ => .ok (s, 0)
  | fuel + 1, s, va, n =>
    if n = 0 then .ok (s, 0)
    else do
      let k := headLen va n
      let (s, l) ← agentRead s who va k scope
      let (s, v) ← readSpan who scope fuel s (va + BitVec.ofNat 64 k) (n - k)
      return (s, l.toNat + v * 2 ^ (8 * k))

/-- Whether a write of n bytes of a line meets a tag that does not check: one that needs the rest of a protected context's line from
its home (R92). -/
def sealBar (s : State) (who : Who) (p : Place) (n scope : Nat) : Bool :=
  let held := (look (s.cluster who.cluster).lines p.line).any (fun l => l.ctx == who.ctx)
  let home : Bool := match p with
    | .own _ | .host _ => true
    | _ => false
  who.ctx != 0 && home && decide (n < 64) && !(decide (scope ≤ 2) && held) && !s.bridge.poisoned.contains p.line &&
    (homeBytes s who.ctx p.line).isNone

/-- The place of each line of a write at a scope, checked before any is written. -/
def checkSpan (who : Who) (scope : Nat) : Nat → State → DWord → Nat → Mem State
  | 0, s, _, _ => .ok s
  | fuel + 1, s, va, n =>
    if n = 0 then .ok s
    else do
      let k := headLen va n
      let (s, p) ← resolve s who .write va
      if (rangeAt s p).isSome then .error (.fault s .crangeConflict va false)
      else if sealBar s who p k scope then .error (.fault s .sealFail va false)
      else checkSpan who scope fuel s (va + BitVec.ofNat 64 k) (n - k)

/-- The lines of a write, after their check. `row` marks a copy's row, whose whole lines a queue window takes as enqueues
(R355). -/
def writeLines (who : Who) (scope : Nat) (row : Bool) : Nat → State → DWord → Nat → Nat → Nat → Mem State
  | 0, s, _, _, _, _ => .ok s
  | fuel + 1, s, va, n, data, mask =>
    if n = 0 then .ok s
    else do
      let k := headLen va n
      let s ← agentWrite s who va k (BitVec.ofNat 512 data) (BitVec.ofNat 512 mask) scope (row && k == 64)
      writeLines who scope row fuel s (va + BitVec.ofNat 64 k) (n - k) (data / 2 ^ (8 * k)) (mask / 2 ^ (8 * k))

/-- Lines a span may touch at most. -/
def spanLines (n : Nat) : Nat := n / 64 + 2

def readAll (s : State) (who : Who) (va : DWord) (n scope : Nat) : Mem (State × Nat) := readSpan who scope (spanLines n) s va n

/-- Writes that have begun in a state, of which nothing stays where one of them fails. -/
def wholly (s : State) : Mem State → Mem State
  | .error (.fault _ c va soft) => .error (.fault s c va soft)
  | r => r

/-- A write of the masked bits of n bytes: nothing is written where a line of it fails. -/
def writeAll (s : State) (who : Who) (va : DWord) (n data mask scope : Nat) (row : Bool) : Mem State := do
  let s ← checkSpan who scope (spanLines n) s va n
  wholly s (writeLines who scope row (spanLines n) s va n data mask)

/-! ## Requests (R80, R85, R86) -/

/-- Whether a control word is valid (R80). -/
def controlOk (c : Word) : Bool :=
  c.toNat / 2 ^ 29 == 0 && decide (c.toNat / 2 ^ 25 % 8 < 5) && c.toNat / 2 ^ 22 % 4 != 3 && c.toNat % 2 ^ 22 == 0

/-- The scope of a request (R80), coded as for accesses. -/
def CopyReq.place (r : CopyReq) : Nat := r.scope.toNat + 2

/-- The number of the thread a request is made for, and who makes its accesses (R91). -/
def CopyReq.who (r : CopyReq) : Who :=
  let t := r.thread % 4096
  { thread := t, cls := r.cls, vi := r.vi, mode := r.mode, core := coreOf t, cluster := clusterOf (coreOf t), own := false,
    waiter := .copy (coreOf t) r.id, ctx := r.ctx }

/-- The rows of a request, and the source and destination of row n (R86). -/
def CopyReq.rows (r : CopyReq) : Nat :=
  if r.tensor then (r.ext.getD 0 1) * (r.ext.getD 1 1) * (r.ext.getD 2 1) else if r.len = 0 then 0 else 1
def CopyReq.row_ (r : CopyReq) (n : Nat) : DWord × DWord :=
  let e1 := r.ext.getD 0 1
  let e2 := r.ext.getD 1 1
  let i1 : Int := n % e1
  let i2 : Int := n / e1 % e2
  let i3 : Int := n / (e1 * e2)
  let at_ (l : List Int) : DWord := BitVec.ofInt 64 (i1 * l.getD 0 0 + i2 * l.getD 1 0 + i3 * l.getD 2 0)
  (r.src + at_ r.sstr, r.dst + at_ r.dstr)

/-- Whether a row is copied downward (R84). DESIGN CHOICE (log entry 26): one whose source is its destination is copied upward. -/
def downward (a d : DWord) (n : Nat) : Bool := decide ((d - a).toNat < n) && a != d

/-! ## Conversion (R87) -/

/-- The bank an address of the local window names, as core × 16 + bank. -/
def bankOf (s : State) (vi : BitVec 10) (va : DWord) : Option Nat :=
  match windowOff (s.viOf vi.toNat).lswin va with
  | some off => if off < 2 ^ 27 then some (off / 0x4000) else none
  | none => none

/-- The storage formats of every bank that converts: not in stash mode, not the byte format. -/
def bankFormats (s : State) : AMap Nat :=
  s.cores.flatMap (fun c => (List.range 14).filterMap (fun b =>
    let f := (lookD c.2.bfmt b 0).toNat % 64
    if f ≠ 0 ∧ (lookD c.2.bstash b 0).getLsbD 0 = false then some (c.1 * 16 + b, f) else none))

/-- The source and destination formats of a row, where it converts. DESIGN CHOICE (log entry 67): the banks of its first bytes
decide, also where the row goes on into banks of another format. -/
def CopyReq.formats (s : State) (r : CopyReq) (a d : DWord) : Option (Nat × Nat) :=
  match bankOf s r.vi a, bankOf s r.vi d with
  | some x, some y =>
    match look r.fmts x, look r.fmts y with
    | some f, some g => if f = g then none else some (f, g)
    | _, _ => none
  | _, _ => none

/-- Elements and bytes of the least whole group of a format. -/
def groupElems (f : Nat) : Nat :=
  if isScaled f then 32
  else match fmtBits f with
    | 1 => 8 | 2 => 4 | 4 => 2 | 6 => 4
    | _ => 1
def groupBytes (f : Nat) : Nat := if isScaled f then blockBytes f else groupElems f * fmtBits f / 8

/-- The bytes of m elements. -/
def elemBytes (f m : Nat) : Nat := m / groupElems f * groupBytes f

/-- Whether n bytes from an address lie in banks of one format. -/
def oneFormat (s : State) (r : CopyReq) (va : DWord) (n f : Nat) : Bool :=
  match bankOf s r.vi va, bankOf s r.vi (va + BitVec.ofNat 64 (n - 1)) with
  | some x, some y => (List.range (y + 1 - x)).all (fun i => look r.fmts (x + i) == some f)
  | _, _ => false

/-- Whether a row breaks the conditions of R87. -/
def CopyReq.breaks (s : State) (r : CopyReq) (n : Nat) : Bool :=
  let (a, d) := r.row_ n
  match r.formats s a d with
  | none => false
  | some (f, g) =>
    let m := r.len / groupBytes f * groupElems f
    !(r.len % groupBytes f == 0 && m % groupElems g == 0 && oneFormat s r a r.len f && oneFormat s r d (elemBytes g m) g)

/-- Element k of the elements at the low end of a number, with the flags of reading it. -/
def elemAt (f bits k : Nat) : Num × Raised :=
  if isScaled f then decodeBlockElem f (bits / 2 ^ (8 * blockBytes f * (k / 32))) (k % 32)
  else decodeElem f (bits / 2 ^ (fmtBits f * k) % 2 ^ fmtBits f)

/-- Values encoded one after another (R112): those of a scaled format in blocks of 32, each with its scale (R126). -/
def encodeRun (g mode : Nat) (sat : Bool) (xs : List Num) : Nat × Raised :=
  let (w, rs) :=
    if isScaled g then
      (8 * blockBytes g, (List.range ((xs.length + 31) / 32)).map (fun i => encodeBlock g mode sat ((xs.drop (32 * i)).take 32)))
    else (fmtBits g, xs.map (encodeElem g mode sat))
  (ofLanes w (rs.map (·.1)), rs.foldl (fun a r => a.or r.2) {})

/-- Elements of the least run that holds whole groups of both formats. -/
def unitElems (f g : Nat) : Nat := max (groupElems f) (groupElems g)

/-- The bytes of a row's destination. -/
def CopyReq.span (s : State) (r : CopyReq) : Nat :=
  let (a, d) := r.row_ r.row
  match r.formats s a d with
  | some (f, g) => elemBytes g (r.len / groupBytes f * groupElems f)
  | none => r.len

/-! ## One line of a request (R83, R84) -/

/-- The bytes of a row's next piece: those in one destination line, and the offset in the destination where they begin. -/
def CopyReq.piece (s : State) (r : CopyReq) : Nat × Nat :=
  let (a, d) := r.row_ r.row
  let left := r.span s - r.off
  if (r.formats s a d).isNone && downward a d r.len then
    let n := min left ((d + BitVec.ofNat 64 (left - 1)).toNat % 64 + 1)
    (left - n, n)
  else (r.off, headLen (d + BitVec.ofNat 64 r.off) left)

/-- The position after a piece of n bytes. DESIGN CHOICE (log entry 26): the rows of a TCOPY go one after another in their
order (R86 lets them overlap and finish in any order). -/
def CopyReq.after_ (s : State) (r : CopyReq) (n : Nat) : CopyReq :=
  if r.off + n < r.span s then { r with off := r.off + n } else { r with row := r.row + 1, off := 0 }

/-- Destination bytes o to o + n of a converting row from their source (R87), with the flags: the whole units that cover them
are read and converted. -/
def convertPiece (s : State) (r : CopyReq) (f g : Nat) (a : DWord) (o n : Nat) : Mem (State × Nat × Raised) := do
  let u := unitElems f g
  let first := o / elemBytes g u
  let last := (o + n - 1) / elemBytes g u
  let from_ := first * elemBytes f u
  let m := (min ((last + 1) * elemBytes f u) r.len - from_) / groupBytes f * groupElems f
  let (s, v) ← readAll s r.who (a + BitVec.ofNat 64 from_) (elemBytes f m) r.place
  let xs := (List.range m).map (elemAt f v)
  let (w, fl) := encodeRun g r.rnd.toNat r.sat (xs.map (·.1))
  return (s, w / 2 ^ (8 * (o - first * elemBytes g u)) % 2 ^ (8 * n), xs.foldl (fun u x => u.or x.2) fl)

/-- The next piece of a request moved: one push of the bytes of one destination line (R83). -/
def copyPiece (s : State) (r : CopyReq) : Mem (State × CopyReq) := do
  let (a, d) := r.row_ r.row
  let (o, n) := r.piece s
  match r.formats s a d with
  | none =>
    let (s', v) ← readAll s r.who (a + BitVec.ofNat 64 o) n r.place
    let s' ← writeAll s' r.who (d + BitVec.ofNat 64 o) n v (2 ^ (8 * n) - 1) r.place true
    return (s', r.after_ s n)
  | some (f, g) =>
    let (s', w, fl) ← convertPiece s r f g a o n
    let s' ← writeAll s' r.who (d + BitVec.ofNat 64 o) n w (2 ^ (8 * n) - 1) r.place true
    return (s', { r.after_ s n with flags := r.flags ||| fl.word })

/-! ## Ends of requests and batches (R88, R90, R91) -/

/-- The batch of a number with one more request ended. The open batch of a block that has been ended was discarded (R391). -/
def endInBatch (th : Thread) (r : CopyReq) : Thread :=
  if r.loose then th else
  let upd (b : Batch) : Batch :=
    if b.number = r.batch then { b with ended := b.ended + 1, flags := b.flags ||| r.flags } else b
  { th with openBatch := upd th.openBatch, sealed := th.sealed.map upd }

/-- The record of a failed request (R91). -/
def recordCopy (th : Thread) (r : CopyReq) (c : Cause) (va : DWord) (done : Nat) : Thread :=
  if r.loose then th
  else if th.cfault.v then { th with cfault := { th.cfault with ovf := true } }
  else { th with cfaddr := va,
                 cfault := { done := BitVec.ofNat 32 done, batch := r.batch, cause := c.code, req := BitVec.ofNat 8 r.ordinal,
                             ovf := th.cfault.ovf, v := true } }

/-- The pieces beyond the failing one that may have been written (R91), with the flags of the request: of a COPY those within 512
bytes of DONE, of a TCOPY any. The free value says which. -/
def copyTail : Nat → State → CopyReq → Nat → State × CopyReq
  | 0, s, r, _ => (s, r)
  | fuel + 1, s, r, limit =>
    if r.rows ≤ r.row ∨ (!r.tensor ∧ limit < r.off + (r.piece s).2) then (s, r)
    else
      let next := r.after_ s (r.piece s).2
      let s := { s with drawn := s.drawn + 1 }
      match (if Config.tailWritten s.drawn then (copyPiece s r).toOption else none) with
      | some (t, r') => copyTail fuel t r' limit
      | none => copyTail fuel s next limit

/-- Pieces of a request at most. -/
def CopyReq.pieces (r : CopyReq) : Nat := r.rows * (r.len + 3)

/-- A request leaves the list of its cluster. -/
def dropRequest (s : State) (k id : Nat) : State :=
  s.setCluster k { s.cluster k with copies := (s.cluster k).copies.filter (fun r => r.id != id) }

/-- A request completes. -/
def endRequest (s : State) (k : Nat) (r : CopyReq) : State := (dropRequest s k r.id).updRef r.thread (fun th => endInBatch th r)

/-- A request fails at its next piece. -/
def failRequest (s : State) (k : Nat) (r : CopyReq) (c : Cause) (va : DWord) : State :=
  let done := if r.tensor then r.row else r.off
  let (s, r) := if r.rows ≤ r.row then (s, r) else copyTail r.pieces s (r.after_ s (r.piece s).2) (r.off + 512)
  (dropRequest s k r.id).updRef r.thread (fun th => recordCopy (endInBatch th r) r c va done)

/-- What has come of a request. -/
inductive CopyEnd where
  | ended (s : State)
  | waits (s : State)

/-- A request runs on (R83, R91), piece by piece, until it ends, waits or is held. -/
def runRequest (k : Nat) : Nat → State → CopyReq → CopyEnd
  | 0, s, _ => .waits s
  | fuel + 1, s, r =>
    let keep (s : State) (r : CopyReq) : State :=
      s.setCluster k { s.cluster k with copies := (s.cluster k).copies.map (fun x => if x.id = r.id then r else x) }
    match r.bad with
    | some va => .ended ((dropRequest s k r.id).updRef r.thread (fun th => recordCopy (endInBatch th r) r .illegalOperand va 0))
    | none =>
      if r.held.isSome then .waits s
      else if r.refused then .ended (failRequest s k r .translationFault r.heldVa)
      else if r.rows ≤ r.row then .ended (endRequest s k r)
      else
        match copyPiece s r with
        | .ok (s', r') => runRequest k fuel (keep s' r') r'
        | .error (.wait s') => .waits s'
        | .error (.fault s' c va soft) =>
          if soft then .waits (keep s' { r with held := some (pageOf va), heldVa := va })
          else .ended (failRequest s' k r c va)

/-- One piece of a request moved, at a turn of the agenda; a request that fails there does so at its end. -/
def copyTurn (s : State) (k idx : Nat) : State :=
  match (s.cluster k).copies[idx]? with
  | none => s
  | some r =>
    if r.bad.isSome || r.held.isSome || r.refused || decide (r.rows ≤ r.row) then s
    else match copyPiece s r with
      | .ok (s', r') =>
        s'.setCluster k { s'.cluster k with copies := (s'.cluster k).copies.map (fun x => if x.id = r.id then r' else x) }
      | .error (.wait s') => s'
      | .error (.fault ..) => s

/-! ## The FIFO (R81, R82) -/

/-- Entries of a core's copy FIFO, and requests a cluster's engine has in progress at most. -/
def fifoRoom (s : State) : Bool := decide ((s.core s.myCore).copies.length < 16)

/-- The number of entries of the core's store buffer up to the thread's last one. -/
def storesBefore (s : State) (t : Nat) : Nat :=
  ((s.core (coreOf t)).buffer.zipIdx.filter (fun e => e.1.thread == t)).foldl (fun m e => max m (e.2 + 1)) 0

/-- A request of the issuing thread with its control word. Every store in its core's buffer goes before it: the thread sees
those of its siblings too (R82, R223, R330). -/
def newRequest (s : State) (c : Word) : CopyReq :=
  let th := s.th
  { thread := s.refOf s.cur, vi := th.vi, mode := th.mode, cls := th.cls, batch := th.openBatch.number,
    ordinal := th.openBatch.issued, id := s.serial, tensor := false, src := 0, dst := 0, len := 0, ext := [], sstr := [],
    dstr := [], pluck := c.getLsbD 28, rnd := BitVec.ofNat 3 (c.toNat / 2 ^ 25), sat := c.getLsbD 24,
    scope := BitVec.ofNat 2 (c.toNat / 2 ^ 22), ctx := sealOf s s.cur,
    after := (s.core s.myCore).buffer.length }

/-- A request enters the FIFO and joins the open batch (R81, R88). -/
def pushRequest (s : State) (r : CopyReq) : State :=
  let c := s.core s.myCore
  let s := { s.setCore s.myCore { c with copies := c.copies ++ [r] } with serial := s.serial + 1 }
  let b := s.th.openBatch
  s.setTh { s.th with openBatch := { b with issued := b.issued + 1, pluck := b.pluck || r.pluck } }

/-- The four words of a group under a t bit (R80). -/
def readQuad (s : State) (r : BitVec 5) (t : BitVec 1) : Eff (List Word) := do
  let a ← readT s r t
  let b ← readT s (r + 1) t
  let c ← readT s (r + 2) t
  let d ← readT s (r + 3) t
  .ok [a, b, c, d]

/-- The request of a COPY (R80, R288). -/
def copyRequest (s : State) (q : BitVec 5) (t : BitVec 1) (bd bs : BitVec 3) : Eff CopyReq := do
  let w ← readQuad s q t
  let src ← readB s bs s.th.ptrap
  let dst ← readB s bd s.th.ptrap
  let c := w.getD 3 0
  require (controlOk c) (illegalOperand s)
  .ok { newRequest s c with src := src + (w.getD 0 0).setWidth 64, dst := dst + (w.getD 1 0).setWidth 64,
                            len := (w.getD 2 0).toNat }

/-- The request of a layout record (R85). -/
def tensorRequest (s : State) (l : Line) : Eff CopyReq :=
  let num (i n : Nat) : Nat := (l >>> (8 * i)).toNat % 2 ^ (8 * n)
  let c : Word := BitVec.ofNat 32 (num 48 4)
  let e := [num 16 2, num 18 2, num 20 2, num 22 2]
  let str (i : Nat) : Int := signed 32 (num i 4)
  if controlOk c && !e.contains 0 && num 52 12 == 0 then
    .ok { newRequest s c with tensor := true, src := BitVec.ofNat 64 (num 0 8), dst := BitVec.ofNat 64 (num 8 8),
                              len := num 16 2, ext := e.drop 1, sstr := [str 24, str 28, str 32],
                              dstr := [str 36, str 40, str 44] }
  else .error (illegalOperand s)

/-! ## Batches (R88 to R90) -/

/-- The open batch sealed, and the next one opened (R88). -/
def sealBatch (th : Thread) : Thread :=
  { th with sealed := th.sealed ++ [th.openBatch], openBatch := { number := th.openBatch.number + 1 } }

/-- Whether a batch has finished. -/
def batchFinished (th : Thread) (b : BitVec 16) : Bool :=
  b != th.openBatch.number && decide (th.sealed.length ≤ (th.openBatch.number - 1 - b).toNat)

/-- COPY_FAULT where a finished batch held a failed request (R89). -/
def copyFaultCheck (s : State) : Eff Unit :=
  require (!(s.th.cfault.v && batchFinished s.th s.th.cfault.batch)) (.trap s { cause := .copyFault, tval := s.th.cfaddr })

/-- A join with work of the cluster: the core learns of the cluster's clock (R60, R89). -/
def joinCluster (s : State) : State := raiseClock s s.myCore (s.cluster s.myCluster).clock

/-- The oldest sealed batch of a thread finishes: its flags are ORed and its pluck is posted. -/
def finishBatch (th : Thread) : Option Thread :=
  match th.sealed with
  | b :: rest =>
    if b.ended = b.issued then
      some { th with sealed := rest, fflags := th.fflags ||| b.flags,
                     noteBatch := if b.pluck then some b.number else th.noteBatch }
    else none
  | [] => none

/-- COPY (R288). Queues a copy request into the copy FIFO. -/
def execCopy (a : BitVec 5) (s : BitVec 1) (bd : BitVec 3) (bs : BitVec 3) (st : State) : Host.Outcome State Fault Refusal :=
  finish do
    let r ← copyRequest st a s bd bs
    waitFor (fifoRoom st) st
    .ok (complete (pushRequest st r))

/-- COPY_NB (R288). Queues a copy request if the FIFO has room. -/
def execCopyNb (r : BitVec 5) (a : BitVec 5) (s : BitVec 1) (bd : BitVec 3) (bs : BitVec 3) (st : State) : Host.Outcome State Fault Refusal :=
  finish do
    let q ← copyRequest st a s bd bs
    if fifoRoom st then
      let st ← writeX st r 0
      .ok (complete (pushRequest st q))
    else
      let st ← writeX st r 1
      .ok (complete st)

/-- TCOPY (R289). Queues a tensor copy from a layout record, which is read as any byte of the core's local store: a bank of a
protected context is refused to others (R411), a line with an uncorrectable error to all (R428). DESIGN CHOICE (log entry 26):
in a bank in stash mode it is the bank's own bytes that are read, not the stash lines. -/
def execTcopy (a : BitVec 5) (s : BitVec 1) (st : State) : Host.Outcome State Fault Refusal :=
  finishKeeping [a] do
    let o ← readT st a s
    require (o.toNat % 64 == 0 && decide (o.toNat + 64 ≤ 0x38000)) (illegalOperand st)
    let va := windowAddr st st.th.vi st.myCore o.toNat
    require (bankOpen st (me st) st.myCore (o.toNat / 0x4000)) (.trap st { cause := .lsWindowFault, tval := va })
    require (!st.bridge.poisoned.contains (localKey st.myCore o.toNat / 64)) (.trap st { cause := .memUncorrectable, tval := va })
    let r ← tensorRequest st (memRead st.mem (localKey st.myCore o.toNat) 64)
    waitFor (fifoRoom st) st
    .ok (completeReading (pushRequest st r) [a])

/-- CSEAL (R290). Seals the open batch and returns its number. -/
def execCseal (d : BitVec 5) (st : State) : Host.Outcome State Fault Refusal :=
  finish do
    waitFor (decide (st.th.sealed.length < 16)) st
    let st' ← writeX st d (st.th.openBatch.number.setWidth 32)
    .ok (complete (st'.setTh (sealBatch st'.th)))

/-- CWAIT (R290). Waits until at most n sealed batches are unfinished. DEDUCED (log entry 24): it is a join of every engine
operation of the thread that has completed by then, whose flags R149 has it OR. -/
def execCwait (n : BitVec 5) (st : State) : Host.Outcome State Fault Refusal :=
  finish do
    waitFor (decide (st.th.sealed.length ≤ n.toNat)) st
    copyFaultCheck st
    .ok (complete (joinCluster (st.setTh (joinLeases st.th))))

/-- CPOLL (R290). Reports whether a batch has finished. -/
def execCpoll (d : BitVec 5) (a : BitVec 5) (s : BitVec 1) (st : State) : Host.Outcome State Fault Refusal :=
  finishKeeping [a] do
    let b ← readT st a s
    if batchFinished st.th (b.setWidth 16) then
      copyFaultCheck st
      let st ← writeX st d 1
      .ok (completeReading (joinCluster st) [a])
    else
      let st ← writeX st d 0
      .ok (completeReading st [a])

/-- The core whose head entry the engine of a cluster takes next (R81), by its index there: of the heads whose stores have
drained, the least class, and round robin within it. -/
def nextCopyCore (st : State) (k : Nat) : Option (Nat × CopyReq) :=
  let heads := (List.range 16).filterMap (fun i =>
    ((st.core (coreAt k i)).copies.head?.filter (fun r => r.after == 0)).map (fun r => (i, r)))
  (firstInClass (fun h => h.2.cls.toNat) heads).bind (fun h =>
    let cls := h.2.cls
    let next := lookD (st.cluster k).copyNext cls.toNat 0
    let mine := heads.filter (fun x => x.2.cls == cls)
    (mine.find? (fun x => decide (next ≤ x.1))).orElse (fun _ => mine.head?))

/-- COPY_DISPATCH (R82). A FIFO entry is dispatched to the CCE once earlier stores drain. What the thread could see at issue the
engine sees too (R330): the cluster's clock learns of the core's. DESIGN CHOICE (log entry 67): a request that breaks the
conditions of R87 records in TH_CFADDR the source address of its first row that does. A line that an ended thread held goes on where
this was the last the release waited for (R391). -/
def execCopyDispatch (core : BitVec 9) (st : State) : Host.Outcome State Fault Refusal :=
  let c := core.toNat
  let k := clusterOf c
  match nextCopyCore st k with
  | some (i, r) =>
    if coreAt k i = c ∧ (st.cluster k).copies.length < 64 then
      let st := askCluster (releasePush st c r.place) c
      let r := { r with fmts := bankFormats st }
      let bad := ((List.range r.rows).find? (r.breaks st)).map (fun n => (r.row_ n).1)
      let st := st.setCore c { st.core c with copies := (st.core c).copies.drop 1 }
      let r := { r with bad := if r.fmts.isEmpty then none else bad }
      let x := st.cluster k
      .next (handLines (st.setCluster k { x with copies := x.copies ++ [r], copyNext := put x.copyNext r.cls.toNat ((i + 1) % 16) }) c)
    else disabled "COPY_DISPATCH"
  | none => disabled "COPY_DISPATCH"

/-- COPY_REQUEST_END (R91). A copy request completes or fails and its failure is recorded. -/
def execCopyRequestEnd (cl : BitVec 5) (idx : Nat) (st : State) : Host.Outcome State Fault Refusal :=
  match (st.cluster cl.toNat).copies[idx]? with
  | some r =>
    match runRequest cl.toNat (r.pieces + 2) st r with
    | .ended st' => .next st'
    | .waits st' => if r.held.isSome then disabled "COPY_REQUEST_END" else .next st'
  | none => disabled "COPY_REQUEST_END"

/-- BATCH_FINISH (R88). A sealed batch finishes; flags are ORed and any pluck posted. -/
def execBatchFinish (t : BitVec 12) (st : State) : Host.Outcome State Fault Refusal :=
  match (st.refsOf t.toNat).find? (fun r => (finishBatch (st.byRef r)).isSome) with
  | some r => .next (st.updRef r (fun th => (finishBatch th).getD th))
  | none => disabled "BATCH_FINISH"


end Sys2Proof.Machine
end

