-- ==== Sys2Proof/Machine/Array.lean ====
section
/-!
DEFINITION. Sys2Proof/Machine/Array.lean: the arithmetic of the matrix and residue engines: the WAC-192 accumulator, its
drain, the residue outputs (R116, R124, R141 to R148).
-/

namespace Sys2Proof.Machine

/-! ## Operands (R112, R146, R274) -/

/-- The bytes of the first n elements of a row. -/
def rowBytes (f n : Nat) : Nat := if isScaled f then (n + 31) / 32 * blockBytes f else (n * fmtBits f + 7) / 8

/-- A value rounded to 24 significant bits, to nearest even (R146), with whether that was inexact. -/
def round24 : Num → Num × Bool
  | .fin neg m e st =>
    let (q, inexact) := roundAt 0 neg m e st (e + bitLen m - 24)
    if inexact then (.fin neg q (max e (e + bitLen m - 24)) false, true) else (.fin neg m e false, false)
  | x => (x, false)

/-- An element as it enters the array. -/
def enterArray (f : Nat) (x : Num × Raised) : Num × Raised :=
  if f = 19 then
    let (y, inexact) := round24 x.1
    (y, if inexact then { x.2 with nx := true } else x.2)
  else x

/-- The first n elements of a row's bytes, as they enter the array, with their flags. -/
def rowElems (f n bits : Nat) : List Num × Raised :=
  let xs := (List.range n).map (fun k => enterArray f (elemAt f bits k))
  (xs.map (·.1), xs.foldl (fun a x => a.or x.2) {})

/-- The core and the k index that a NaN of a drained partial carries (R116, R145): those of a NaN of FP32 or FP64 laid out as
a drain lays it out. DEDUCED (log entry 24): one whose payload is zero is an ordinary NaN operand. -/
def Num.payload : Num → Option Nat
  | .nan false false frac src => if (src = 10 ∨ src = 11) ∧ frac ≠ 0 ∧ frac < 2 ^ 21 then some frac else none
  | _ => none

/-- An exact product in the array: none where it is NaN (R142), but for one with the NaN of a partial, which keeps that NaN
(R145). -/
def arrayProduct (a b : Num) : Option Num :=
  match a.payload, b.payload with
  | some x, some y => some (if x ≤ y then a else b)
  | some _, none => some a
  | none, some _ => some b
  | none, none => if a.isNaN || b.isNaN then none else mulNum a b

/-! ## Accumulation (R141, R142) -/

/-- The greatest of some integers. -/
def greatest : List Int → Option Int
  | [] => none
  | x :: rest => match greatest rest with
    | none => some x
    | some y => some (max x y)

/-- The finite nonzero terms among some products, as a signed significand and an exponent. -/
def finiteTerms (ps : List (Option Num)) : List (Int × Int) :=
  ps.filterMap (fun p => match p with
    | some (.fin neg m e _) => if m = 0 then none else some (if neg then -(m : Int) else m, e)
    | _ => none)

/-- A term at an exponent, rounded down, with whether anything was dropped. -/
def atExponent (en : Int) (t : Int × Int) : Int × Bool :=
  if en ≤ t.2 then (t.1 * twoTo (t.2 - en), false)
  else
    let unit : Int := twoTo (en - t.2)
    (t.1 / unit, t.1 % unit != 0)

/-- The products of one k-block added to an output (R142), with whether S became 1. Products of padding are left out: they
change nothing. Of the NaNs that arise here the first is noted; where partials carry theirs, the one of the lowest core, then of the
lowest k index, is kept (R145). -/
def Acc.addBlock (a : Acc) (core : Nat) (ps : List (Option Num)) : Acc × Bool :=
  let index (i : Nat) : Nat := core * 4096 + (a.terms + i) % 4096
  let first (p : Option Num → Bool) : Option Nat := (findIdxFrom p ps 0).map (·.1)
  let isInf (neg : Bool) (p : Option Num) : Bool := p == some (.inf neg)
  let up := first (isInf false)
  let down := first (isInf true)
  let pinf := a.pinf || up.isSome
  let ninf := a.ninf || down.isSome
  let pair := max (if a.pinf then 0 else up.getD 0) (if a.ninf then 0 else down.getD 0)
  let carried := ps.filterMap (fun p => p.bind Num.payload)
  let noted := match a.nan, first (fun p => p.isNone) with
    | some n, _ => some n
    | none, some i => some (index i)
    | none, none => if pinf && ninf && carried.isEmpty then some (index pair) else none
  let nan := carried.foldl (fun (n : Option Nat) x => some (min (n.getD x) x)) noted
  let z := a.z && ps.all (fun p => match p with
    | some (.fin neg m _ _) => neg && m == 0
    | _ => false)
  let a := { a with pinf := pinf, ninf := ninf, nan := nan, z := z, terms := (a.terms + 64) % 4096 }
  let ts := finiteTerms ps
  let msb (m : Int) (e : Int) : Int := (m.natAbs.log2 : Int) + e
  match greatest (ts.map (fun t => msb t.1 t.2) ++ (if a.w = 0 then [] else [msb a.w a.e])) with
  | none => (a, false)
  | some h =>
    let en := if a.isEmpty then h - 183 else max (h - 183) a.e
    let unit : Int := if a.isEmpty then 1 else twoTo (en - a.e)
    let terms := ts.map (atExponent en)
    let s := a.s || a.w % unit != 0 || terms.any (·.2)
    ({ a with w := a.w / unit + (terms.map (·.1)).sum, e := en, s := s, isEmpty := false }, s && !a.s)

/-! ## The drain (R144) -/

/-- The NaN of a payload in a format. -/
def drainNaN (f payload : Nat) : Nat × Raised :=
  if f = 11 then (0x7FC00000 + payload, {})
  else if f = 10 then (0x7FF8000000000000 + payload, {})
  else if 10 ≤ f ∧ f ≤ 19 then encodeNaN f false false payload 11
  else (0, { nmap := true })

/-- The value of a finite output: where S is set, the free amount below one unit is added. -/
def Acc.value (a : Acc) (mode : Nat) : Num :=
  if a.s then
    let (n, k) := Config.stickyPart a.w a.e a.terms
    let unit := 2 ^ (k + 1)
    let v : Int := a.w * unit + (n % (unit - 1) + 1 : Nat)
    .fin (decide (v < 0)) v.natAbs (a.e - (k + 1 : Nat)) false
  else if a.w = 0 then .zero (a.z || mode == 4)
  else .fin (decide (a.w < 0)) a.w.natAbs a.e false

/-- An output rounded once into a format. -/
def Acc.drain (a : Acc) (f mode : Nat) (sat : Bool) : Nat × Raised :=
  match a.nan with
  | some p => drainNaN f p
  | none =>
    if a.pinf then encodeElem f mode sat (.inf false)
    else if a.ninf then encodeElem f mode sat (.inf true)
    else encodeElem f mode sat (a.value mode)

/-! ## Residues (R147, R148) -/

/-- The integer an RXE operand stands for. -/
def intOf : Num → Int
  | .fin neg m e _ => if neg then -((m * twoTo e : Nat) : Int) else ((m * twoTo e : Nat) : Int)
  | _ => 0

/-- One term of an RXE output. -/
def Residue.addTerm (o : Residue) (x y : Int) : Residue :=
  { r := (o.r.zip rxeModuli).map (fun p =>
      let m : Int := p.2
      (((p.1 : Int) + x % m * (y % m)) % m).toNat),
    bnd := min (o.bnd + x.natAbs * y.natAbs) (2 ^ 64 - 1) }

/-- The product of the moduli, and the positive limit of the centred range. -/
def rxeProduct : Nat := 2910552947808
def rxeLimit : Nat := 1455276473903

/-- An RXE output converted (R148). -/
def Residue.convert (o : Residue) (f mode : Nat) (sat : Bool) : Nat × Raised :=
  let (c, fl) := encodeElem f mode sat (.ofInt (centre rxeProduct (crt rxeModuli o.r)))
  (c, { fl with range := rxeLimit < o.bnd })

end Sys2Proof.Machine
end

