-- ==== Sys2Proof/Machine/Hash.lean ====
section
/-!
DEFINITION. Sys2Proof/Machine/Hash.lean: SHA3-256, which R38, R281 and R409 name (FIPS 202: Keccak with 1,088 absorbed bits). The
state is one number: lane (x, y) stands at bits 64·(x + 5y).
-/

namespace Sys2Proof.Machine

/-- A lane turned to the left by n places. -/
def turnLane (lane n : Nat) : Nat := (lane * 2 ^ n + lane / 2 ^ (64 - n)) % 2 ^ 64

/-- The lane of a state at a place x + 5y. -/
def laneAt (s place : Nat) : Nat := s / 2 ^ (64 * place) % 2 ^ 64

/-- A state built of the lanes that a function gives for the places below n. -/
def gather (f : Nat → Nat) : Nat → Nat
  | 0 => 0
  | n + 1 => gather f n + f n * 2 ^ (64 * n)

/-- θ: each lane takes the parities of the column before it and, turned by one, of the column after it. -/
def mixColumns (s : Nat) : Nat :=
  let parity (x : Nat) := [0, 5, 10, 15, 20].foldl (fun p y => p ^^^ laneAt s (x % 5 + y)) 0
  let sheets := gather (fun x => parity (x + 4) ^^^ turnLane (parity (x + 1)) 1) 5
  s ^^^ gather (fun p => laneAt sheets (p % 5)) 25

/-- ρ and π: a walk from (1, 0), each place (x, y) followed by (y, 2x + 3y), moves each lane to the next place of the walk and
turns it there by the sum of the steps so far; lane (0, 0) stays. -/
def walkLanes (s : Nat) : Nat → Nat → Nat → Nat
  | 0, _, _ => laneAt s 0
  | n + 1, x, y =>
    let z := (2 * x + 3 * y) % 5
    let step := 24 - n
    turnLane (laneAt s (x + 5 * y)) (step * (step + 1) / 2 % 64) * 2 ^ (64 * (y + 5 * z)) + walkLanes s n y z

/-- χ: each lane takes the lane two places on in its row where the one next to it has a 0. -/
def mixRows (s : Nat) : Nat :=
  s ^^^ gather (fun p =>
    let next := laneAt s (p / 5 * 5 + (p + 1) % 5)
    let far := laneAt s (p / 5 * 5 + (p + 2) % 5)
    far - (far &&& next)) 25

/-- ι: the bits 2^j − 1 of a round's constant, from the shift register with feedback x^8 + x^6 + x^5 + x^4 + 1, whose state after
the round comes beside it. -/
def roundBits (r : Nat) : Nat → Nat × Nat
  | 0 => (0, r)
  | n + 1 =>
    let (c, r') := roundBits (if r < 128 then 2 * r else 2 * r ^^^ 0x171) n
    (c + r % 2 * 2 ^ (2 ^ (6 - n) - 1), r')

/-- The rounds of the permutation still to come, from a state and a state of the shift register. -/
def permuteRounds (s r : Nat) : Nat → Nat
  | 0 => s
  | n + 1 =>
    let (c, r') := roundBits r 7
    permuteRounds (mixRows (walkLanes (mixColumns s) 24 1 0) ^^^ c) r' n

/-- The permutation, of 24 rounds. -/
def keccakF (s : Nat) : Nat := permuteRounds s 1 24

/-- A block of 136 bytes absorbed. -/
def absorb (s block : Nat) : Nat := keccakF (s ^^^ block % 2 ^ 1088)

/-- The last block of a message: its n remaining bytes with the padding of SHA3. -/
def lastBlock (bytes n : Nat) : Nat := (bytes % 2 ^ (8 * n) + 6 * 2 ^ (8 * n)) ^^^ 2 ^ 1087

/-- The 32 bytes of the digest, the first lowest. -/
def digestOf (s : Nat) : Nat := s % 2 ^ 256

/-- The whole blocks of a message absorbed, first to last. -/
def absorbBlocks (s bytes : Nat) : Nat → Nat
  | 0 => s
  | n + 1 => absorbBlocks (absorb s bytes) (bytes / 2 ^ 1088) n

/-- The digest of a message of n bytes, the first lowest. -/
def messageDigest (bytes n : Nat) : Nat :=
  let whole := n / 136
  digestOf (absorb (absorbBlocks 0 bytes whole) (lastBlock (bytes / 2 ^ (1088 * whole)) (n % 136)))

/-- The digest of a line (R38): of its kind's byte and its 64 bytes. -/
def lineDigest (node : Bool) (l : Line) : Nat :=
  digestOf (absorb 0 (lastBlock ((if node then 1 else 0) + 256 * l.toNat) 65))

end Sys2Proof.Machine
end

