-- ==== Sys2Proof/Machine/Car.lean ====
section
/-!
DEFINITION. Sys2Proof/Machine/Car.lean: content-addressed stores: directories, names, counts, lookups, the CAR instructions and the reclaim walker (R30 to R56, R291 to R293).
-/

namespace Sys2Proof.Machine

/-! ## The directory (R31, R38 to R40) -/

/-- The sets of a store. -/
def CarStore.sets (c : CarStore) : Nat := 2 ^ (19 + c.log2.toNat)

/-- The key of a slot's directory entry, and of its data line. -/
def CarStore.entry (c : CarStore) (set w : Nat) : Nat := c.pbase.toNat * 2 ^ 30 + set * 2048 + w * 64
def CarStore.dataAt (c : CarStore) (set w : Nat) : Nat := c.entry set w + 1024

/-- A slot of a directory. STATE: 0 FREE, 1 LIVE, 2 DYING, 3 PENDING. -/
structure CarSlot where
  dig : Nat
  count : Nat
  state : Nat
  node : Bool
  data : Line
deriving DecidableEq, Repr

def carStore (st : State) (n : Nat) : CarStore := lookD st.module.car n {}
/-- A store as its home goes by it, while a disable lets requests complete there (R33). -/
def homeStore (st : State) (n : Nat) : CarStore :=
  let c := carStore st n
  if c.dbusy then { c with pbase := c.homeBase, gen := c.homeGen, log2 := c.homeLog } else c
def setCarStore (st : State) (n : Nat) (c : CarStore) : State := { st with module := { st.module with car := put st.module.car n c } }

/-- A slot as memory holds it. -/
def carSlot (st : State) (c : CarStore) (set w : Nat) : CarSlot :=
  let e := c.entry set w
  { dig := memGetNat st.mem e 32, count := memGetNat st.mem (e + 32) 4, state := memGetNat st.mem (e + 36) 1,
    node := memGetNat st.mem (e + 37) 1 == 1, data := memRead st.mem (c.dataAt set w) 64 }

/-- COUNT and STATE of a slot written. -/
def setCount (st : State) (c : CarStore) (set w count state : Nat) : State :=
  let e := c.entry set w
  { st with mem := memPutNat (memPutNat st.mem (e + 32) 4 count) (e + 36) 1 state }

/-- The digest index (R38). -/
def digestIndex (d : Nat) : Nat := d % 2 ^ 52

/-- A name (R39). -/
def carName (gen : BitVec 8) (w index : Nat) : DWord := BitVec.ofNat 64 (gen.toNat * 2 ^ 56 + w * 2 ^ 52 + index)

/-- The set and the ordinal of a name in a store. -/
def nameSlot (c : CarStore) (n : DWord) : Nat × Nat := (n.toNat % 2 ^ 52 % c.sets, n.toNat / 2 ^ 52 % 16)

/-- Whether a name's generation and index are those of its slot (R40). -/
def nameMatches (st : State) (c : CarStore) (n : DWord) : Bool :=
  let (set, w) := nameSlot c n
  n.toNat / 2 ^ 56 == c.gen.toNat && digestIndex (carSlot st c set w).dig == n.toNat % 2 ^ 52

/-- The slot of a name that is not stale (R40). -/
def liveSlot (st : State) (c : CarStore) (n : DWord) : Option (Nat × Nat × CarSlot) :=
  let (set, w) := nameSlot c n
  let x := carSlot st c set w
  if nameMatches st c n && x.state == 1 then some (set, w, x) else none

/-- Whether the directory line or the data line of a slot holds an uncorrectable error (R428). -/
def slotPoisoned (st : State) (c : CarStore) (set w : Nat) : Bool :=
  st.bridge.poisoned.contains (c.entry set w / 64) || st.bridge.poisoned.contains (c.dataAt set w / 64)

/-! ## Counts (R47 to R49) -/

/-- A count that has reached 0xFFFFFFFF stays there (R48). -/
def countMax : Nat := 0xFFFFFFFF
def countUp (n : Nat) : Nat := if n = countMax then n else n + 1

/-- The slot of a name, or why there is none: an uncorrectable error in its directory entry (R428), or a stale name (R40). -/
def namedSlot (st : State) (c : CarStore) (n : DWord) : Except Cause (Nat × Nat × CarSlot) :=
  let (set, w) := nameSlot c n
  if st.bridge.poisoned.contains (c.entry set w / 64) then .error .memUncorrectable
  else match liveSlot st c n with
    | some x => .ok x
    | none => .error .carStaleName

/-- CREF of a non-null name. -/
def carRef (st : State) (c : CarStore) (n : DWord) : Except Cause State :=
  (namedSlot st c n).map (fun (set, w, x) => setCount st c set w (countUp x.count) 1)

/-- CREL of a non-null name in store k: at zero the slot becomes DYING and joins the reclaim queue. -/
def carRel (st : State) (k : Nat) (c : CarStore) (n : DWord) : Except Cause State :=
  (namedSlot st c n).map (fun (set, w, x) =>
    if x.count = countMax then st
    else if 1 < x.count then setCount st c set w (x.count - 1) 1
    else
      let st := setCount st c set w 0 2
      { st with mem := memPutNat st.mem (c.entry set w + 40) 8 (Config.linkField st.drawn).toNat, drawn := st.drawn + 1,
                bridge := { st.bridge with reclaim := st.bridge.reclaim ++ [(k, set, w)] } })

/-- A reference released where the name has one; nothing otherwise. -/
def dropRef (st : State) (k : Nat) (c : CarStore) (n : DWord) : State := (carRel st k c n).toOption.getD st

/-- Child j of a node. -/
def childName (l : Line) (j : Nat) : DWord := (l >>> (64 * j)).setWidth 64

/-- The non-null children of a node, in ascending order. -/
def children (l : Line) : List DWord := ((List.range 8).map (childName l)).filter (· != 0)

/-- References to some children; where one cannot be referenced, the cause and its name. -/
def refChildren (st : State) (c : CarStore) : List DWord → Except (Cause × DWord) State
  | [] => .ok st
  | n :: rest =>
    match carRef st c n with
    | .ok st' => refChildren st' c rest
    | .error e => .error (e, n)

/-! ## Lookup or allocate (R44, R45) -/

/-- What the search of R44 finds: a slot that holds the line; a refusal; a PENDING slot to wait for; or the lowest FREE ordinal,
with whether a slot has an equal digest and unequal bytes. -/
inductive Found where
  | hit (w : Nat) (count : Nat)
  | refused (st : State) (c : Cause) (v : DWord)
  | pending
  | free (w : Nat) (col : Bool)

/-- The digest, the index and the set of a line in a store. -/
structure Spot where
  dig : Nat
  index : Nat
  set : Nat

def CarStore.spot (c : CarStore) (node : Bool) (l : Line) : Spot :=
  let d := lineDigest node l
  { dig := d, index := digestIndex d, set := digestIndex d % c.sets }

/-- The search of R44 in store k. -/
def carFind (st : State) (k : Nat) (node : Bool) (l : Line) : Found :=
  let c := homeStore st k
  let p := c.spot node l
  let slots := (List.range 16).map (fun w => (w, carSlot st c p.set w))
  let same := slots.filter (fun x => x.2.state == 1 && x.2.dig == p.dig)
  if (List.range 16).any (fun w => st.bridge.poisoned.contains (c.entry p.set w / 64)) || same.any (fun x => slotPoisoned st c p.set x.1) then
    .refused { st with drawn := st.drawn + 1 } .memUncorrectable (Config.openTval st.drawn)
  else if slots.any (fun x => x.2.state == 3 && x.2.dig == p.dig) then .pending
  else
    match same.find? (fun x => x.2.node == node && x.2.data == l) with
    | some (w, x) => .hit w x.count
    | none =>
      match slots.find? (fun x => x.2.state == 0) with
      | none =>
        let x := carStore st k
        .refused (setCarStore st k { x with sfull := if x.sfull = 0xFFFF then x.sfull else x.sfull + 1 }) .carSetFull
          (BitVec.ofNat 64 p.index)
      | some (w, _) => .free w (!same.isEmpty)

/-- STATE of a slot written. -/
def setSlotState (st : State) (c : CarStore) (set w state : Nat) : State :=
  { st with mem := memPutNat st.mem (c.entry set w + 36) 1 state }

/-- A slot becomes PENDING for a line. -/
def pendSlot (st : State) (c : CarStore) (w : Nat) (node : Bool) (l : Line) : State :=
  let p := c.spot node l
  let e := c.entry p.set w
  let mem := memPutNat (memPutNat (memPutNat st.mem e 32 p.dig) (e + 36) 1 3) (e + 37) 1 (if node then 1 else 0)
  { st with mem := memWrite mem (c.dataAt p.set w) 64 l (BitVec.allOnes 512) }

/-- A PENDING slot becomes LIVE with one reference; a collision is counted. -/
def liveNow (st : State) (k set w : Nat) (col : Bool) : State :=
  let c := carStore st k
  let st := setCount st (homeStore st k) set w 1 1
  if col then setCarStore st k { c with coll := if c.coll = 0xFFFF then c.coll else c.coll + 1 } else st

/-- A PENDING slot is given up: the references to its first children are released in descending order, and it is FREE again.
DESIGN CHOICE (log entry 22): a count that one of those references has saturated stays so (R48); in a line of HINGEST, which is one
operation (R46), it stays as it was before. -/
def undoSlot (st : State) (k set w : Nat) (taken : List DWord) : State :=
  let st := taken.reverse.foldl (fun st n => dropRef st k (homeStore st k) n) st
  setSlotState st (homeStore st k) set w 0

/-- What a lookup comes to: a name, with whether CAR_COLLISION is posted; a cause and its value of TH_TVAL; or a wait for a
PENDING slot. -/
inductive Lookup where
  | named (st : State) (n : DWord) (collision : Bool)
  | failed (st : State) (c : Cause) (v : DWord)
  | waits

/-- R44 for store k as one indivisible operation: of a leaf, and of a line of HINGEST (R46). -/
def lookupOrAllocate (st : State) (k : Nat) (node : Bool) (l : Line) : Lookup :=
  let c := homeStore st k
  let p := c.spot node l
  match carFind st k node l with
  | .pending => .waits
  | .refused st e v => .failed st e v
  | .hit w count => .named (setCount st c p.set w (countUp count) 1) (carName c.gen w p.index) false
  | .free w col =>
    let st := pendSlot st c w node l
    match (if node then refChildren st c (children l) else .ok st) with
    | .error (e, n) => .failed (setSlotState st c p.set w 0) e n
    | .ok st => .named (liveNow st k p.set w col) (carName c.gen w p.index) col

/-! ## Reading by name (R54) -/

/-- The key of a line held by name. -/
def nameKey (k : Nat) (n : DWord) : Nat := k * 2 ^ 64 + n.toNat

/-- The bytes of a non-null name for cluster cl: of a LIVE line, or of a DYING one that the cluster still holds. -/
def carRead (st : State) (cl k : Nat) (n : DWord) : Except Cause (State × Line) :=
  let c := carStore st k
  let held := look (st.cluster cl).names (nameKey k n)
  if held.any (·.bad) then .error .memUncorrectable
  else match namedSlot st c n with
    | .ok (set, w, x) =>
      if slotPoisoned st c set w then .error .memUncorrectable
      else
        let st := if held.isNone then makeRoom st cl else st
        .ok (st.setCluster cl { st.cluster cl with names := put (st.cluster cl).names (nameKey k n) { data := x.data } }, x.data)
    | .error .carStaleName =>
      match held with
      | some l => if Config.nameServed st.drawn then .ok ({ st with drawn := st.drawn + 1 }, l.data) else .error .carStaleName
      | none => .error .carStaleName
    | .error e => .error e

/-- Every cluster cache drops a name. -/
def dropName (st : State) (p : Nat → Bool) : State :=
  { st with clusters := st.clusters.map (fun x => (x.1, { x.2 with names := x.2.names.filter (fun y => !p y.1) })) }

/-! ## The instructions (R292, R293) -/

/-- The name pair of an instruction, under TH_STAT.PTRAP. -/
def readName (st : State) (a : BitVec 5) : Eff DWord := do
  let lo ← readP st a
  let hi ← readP st (a + 1)
  .ok (hi ++ lo)

/-- The line pair of an instruction. -/
def readLinePair (st : State) (v : BitVec 6) : Eff Line := do
  let lo ← readV st v.toNat
  let hi ← readV st (v.toNat + 1)
  .ok (hi ++ lo)

/-- A PERMISSION_FAULT that names no address. -/
def permissionOpen (st : State) : Stop :=
  .trap { st with drawn := st.drawn + 1 } { cause := .permissionFault, tval := Config.openTval st.drawn }

/-- The store of the issuing thread, with the checks of R35. -/
def carRight (st : State) (wr : Bool) : Eff Nat := do
  let p := (st.viOf st.th.vi.toNat).carperm
  let k := p.toNat / 4
  require ((if wr then p.getLsbD 1 else p.getLsbD 0) && (carStore st k).en && ctxOf st st.cur == 0) (permissionOpen st)
  .ok k

/-- The cause that stops an access by name: a stale name with the name; an uncorrectable error, which has no virtual address
there, with a free TH_TVAL (R375, R428; log entry 59). -/
def nameStop (st : State) (c : Cause) (n : DWord) : Stop :=
  if c = .memUncorrectable then .trap { st with drawn := st.drawn + 1 } { cause := c, tval := Config.openTval st.drawn }
  else .trap st { cause := c, tval := n }

/-- The end of CLKL and CLKN: the name goes to its pair, and a collision is posted. -/
def nameResult (st : State) (a : BitVec 5) (n : DWord) (col : Bool) : Eff State := do
  let st ← writeX st a (n.setWidth 32)
  let st ← writeX st (a + 1) ((n >>> 32).setWidth 32)
  let st := if col then st.setTh { st.th with posted := st.th.posted ++ [{ cause := .carCollision, tval := n }] } else st
  .ok (complete st)

/-- A CLKN whose slot is PENDING references its next child, each at its own home, or completes (R44). -/
def pendingStep (st : State) (a : BitVec 5) (k set w j : Nat) (col : Bool) : Eff State :=
  let c := homeStore st k
  let x := carSlot st c set w
  let kids := children x.data
  match kids[j]? with
  | none => nameResult (liveNow st k set w col) a (carName c.gen w (digestIndex x.dig)) col
  | some n =>
    match carRef st c n with
    | .ok st => .error (.stall (st.setTh { st.th with wait := .carPending k set w (j + 1) col }))
    | .error e => .error (nameStop (undoSlot st k set w (kids.take j)) e n)

/-- CLKL and CLKN. CLKL is one operation at its home; a CLKN that allocates leaves its slot PENDING while it references the
children. One that waits at its home for another's PENDING slot completes there even if the store is disabled meanwhile (R33). -/
def carLookup (node : Bool) (v : BitVec 6) (a : BitVec 5) (st : State) : Host.Outcome State Fault Refusal :=
  finish do
    match st.th.wait with
    | .carPending k set w j col => pendingStep st a k set w j col
    | _ =>
      let l ← readLinePair st v
      let k ← match st.th.wait with
        | .carWaits k => .ok k
        | _ => carRight st true
      destFree st (destRefs st a true)
      match node, carFind st k node l with
      | true, .free w col =>
        let c := homeStore st k
        let st := pendSlot st c w true l
        .error (.stall (st.setTh { st.th with wait := .carPending k (c.spot true l).set w 0 col }))
      | _, _ =>
        match lookupOrAllocate st k node l with
        | .waits => .error (.stall (st.setTh { st.th with wait := .carWaits k }))
        | .failed st c x => .error (.trap st { cause := c, tval := x })
        | .named st n col => nameResult st a n col

/-- CLKL (R293). Looks up or allocates a leaf line and returns its name. -/
def execClkl (a : BitVec 6) (r : BitVec 5) (st : State) : Host.Outcome State Fault Refusal :=
    carLookup false a r st

/-- CLKN (R293). Looks up or allocates a node line. -/
def execClkn (a : BitVec 6) (r : BitVec 5) (st : State) : Host.Outcome State Fault Refusal :=
    carLookup true a r st

/-- CNLD (R293). Reads a named line's 64 bytes. -/
def execCnld (v : BitVec 6) (r : BitVec 5) (st : State) : Host.Outcome State Fault Refusal :=
    finish do
    let n ← readName st r
    let k ← carRight st false
    waitFor (!(st.th.vecReg v.toNat).busy && !(st.th.vecReg (v.toNat + 1)).busy) st
    let (st, l) ← if n = 0 then pure (st, 0) else match carRead st st.myCluster k n with
      | .ok x => .ok x
      | .error c => .error (nameStop st c n)
    let st ← writeV st v.toNat (l.setWidth 256)
    let st ← writeV st (v.toNat + 1) ((l >>> 256).setWidth 256)
    .ok (complete st)

/-- CREF (R293). Increments a live line's reference count. -/
def execCref (r : BitVec 5) (st : State) : Host.Outcome State Fault Refusal :=
    finish do
    let n ← readName st r
    let k ← carRight st true
    if n = 0 then .ok (complete st)
    else match carRef st (carStore st k) n with
      | .ok st => .ok (complete st)
      | .error e => .error (nameStop st e n)

/-- CREL (R293). Decrements a count; at zero the line becomes DYING. -/
def execCrel (r : BitVec 5) (st : State) : Host.Outcome State Fault Refusal :=
    finish do
    let n ← readName st r
    let k ← carRight st true
    if n = 0 then .ok (complete st)
    else match carRel st k (carStore st k) n with
      | .ok st => .ok (complete st)
      | .error e => .error (nameStop st e n)

/-- CSTAT (R293). Returns a live line's count and kind. -/
def execCstat (r : BitVec 5) (st : State) : Host.Outcome State Fault Refusal :=
    finish do
    let n ← readName st r
    let k ← carRight st false
    destFree st (destRefs st r true)
    let (lo, hi) : Word × Word ← if n = 0 then pure (0, 0) else match namedSlot st (carStore st k) n with
      | .ok (_, _, x) => .ok (BitVec.ofNat 32 x.count, BitVec.ofNat 32 ((if x.node then 1 else 0) + (if x.count = countMax then 2 else 0)))
      | .error e => .error (nameStop st e n)
    let st ← writeX st r lo
    let st ← writeX st (r + 1) hi
    .ok (complete st)

/-- RECLAIM_STEP (R49). The reclaim walker takes one DYING line and frees it; a line of a store that has been disabled only
leaves the queue (R33). DESIGN CHOICE (log entry 59): a slot whose entry or node has an uncorrectable error (R428) leaves the
queue and stays DYING, since its children cannot be told. -/
def execReclaimStep (st : State) : Host.Outcome State Fault Refusal :=
    match st.bridge.reclaim with
  | (k, set, w) :: rest =>
    let c := carStore st k
    let x := carSlot st c set w
    let st := { st with bridge := { st.bridge with reclaim := rest } }
    if !c.en || st.bridge.poisoned.contains (c.entry set w / 64) || (x.node && slotPoisoned st c set w) then .next st
    else
      let st := if x.node then (children x.data).foldl (fun st n => dropRef st k c n) st else st
      let st := dropName st (· == nameKey k (carName c.gen w (digestIndex x.dig)))
      .next (setCount st c set w 0 0)
  | [] => disabled "RECLAIM_STEP"


end Sys2Proof.Machine
end

