-- ==== Sys2Proof/Machine/Geometry.lean ====
section
/-!
DEFINITION. Sys2Proof/Machine/Geometry.lean: what an engine operation's snapshot asks for (R153, R274, R278, R280, R283, R286), the
steps it takes and what they leave in KBLK, RGRP and POS, and the transfer step of MROT (R157, R276).
-/

namespace Sys2Proof.Machine

/-! ## The snapshot -/

/-- A register of an operation's snapshot, a field of it, and an address in two of them. -/
def ecAt (ec : List Word) (k : Nat) : Word := ec.getD k 0
def ecField (ec : List Word) (k hi lo : Nat) : Nat := (ecAt ec k).toNat / 2 ^ lo % 2 ^ (hi - lo + 1)
def ecAddr (ec : List Word) (k : Nat) : DWord := ecAt ec (k + 1) ++ ecAt ec k

/-! ## Geometry (R153, R274, R278, R280, R283, R286) -/

def aFmt (ec : List Word) : Nat := ecField ec 0 5 0
def bFmt (ec : List Word) : Nat := ecField ec 0 13 8
def oFmt (ec : List Word) : Nat := ecField ec 0 21 16
def ecRnd (ec : List Word) : Nat := ecField ec 0 26 24
def ecSat (ec : List Word) : Bool := (ecAt ec 0).getLsbD 27
def ecFresh (ec : List Word) : Bool := (ecAt ec 0).getLsbD 29
def aBank (ec : List Word) : Nat := ecField ec 0 28 28
def ecK (ec : List Word) : Nat := ecField ec 1 27 15
def ecN (ec : List Word) : Nat := ecField ec 1 14 8
def ecM (ec : List Word) : Nat := ecField ec 1 7 0

/-- The checks of R274, each on the fields it names. -/
def stdFmt (hi f : Nat) : Bool := 1 ≤ f && f ≤ hi
def rndOk (ec : List Word) : Bool := ecRnd ec != 5 && ecRnd ec != 6
def mxeReserved (ec : List Word) : Bool := (ecAt ec 0 &&& 0xC0C0C0C0) == 0 && (ecAt ec 1) >>> 28 == 0
def mxeKN (ec : List Word) : Bool := 1 ≤ ecK ec && ecK ec ≤ 4096 && 1 ≤ ecN ec && ecN ec ≤ 64
def mxeM (ec : List Word) : Bool := 1 ≤ ecM ec && ecM ec ≤ 128
def mxeScaledK (ec : List Word) : Bool := !isScaled (aFmt ec) || ecK ec % 32 == 0
def mxeTile (ec : List Word) : Bool :=
  mxeReserved ec && stdFmt 28 (aFmt ec) && stdFmt 28 (bFmt ec) && stdFmt 22 (oFmt ec) && rndOk ec && mxeKN ec && mxeM ec &&
    mxeScaledK ec

/-- The checks of R278. -/
def rxeOk (ec : List Word) : Bool :=
  let res (f : Nat) : Bool := 20 ≤ f && f ≤ 22
  (ecAt ec 0 &&& 0xD0C0C0C0) == 0 && (ecAt ec 1) >>> 28 == 0 && res (aFmt ec) && res (bFmt ec) && stdFmt 19 (oFmt ec) &&
    rndOk ec && 1 ≤ ecK ec && ecK ec ≤ 2048 && 1 ≤ ecN ec && ecN ec ≤ 32 && 1 ≤ ecM ec && ecM ec ≤ 64

/-- The checks of R283 and R284 for GCONV. -/
def gconvOk (ec : List Word) : Bool :=
  (ecAt ec 0 &&& 0xF0C0FFC0) == 0 && stdFmt 28 (aFmt ec) && stdFmt 28 (oFmt ec) && rndOk ec &&
    (!(isScaled (aFmt ec) || isScaled (oFmt ec)) || (ecAt ec 4).toNat % 32 == 0)

/-- The checks of R286. -/
def lxeOk (ec : List Word) : Bool :=
  let f := aFmt ec
  (ecAt ec 0 &&& 0xF8FFFFC0) == 0 && (f == 1 || (11 ≤ f && f ≤ 13)) && rndOk ec && (ecAddr ec 2).toNat % 64 == 0 &&
    (ecAddr ec 5).toNat % 64 == 0 && ecAt ec 4 != 0 && (ecAt ec 4).toNat % 4096 == 0 && (ecAt ec 7) >>> 16 == 0

/-- K-blocks of a depth, and row groups of 8. -/
def kBlocks (ec : List Word) (deep : Nat) : Nat := (ecK ec + deep - 1) / deep
def rowGroups (m : Nat) : Nat := (m + 7) / 8

/-- The rows of a bank that MDRAIN writes: the first, and how many (R277). -/
def drainRows (o : EngineOp) : Nat × Nat :=
  if o.y.toNat = aBank o.ec then (0, min (ecM o.ec) 64) else (64, ecM o.ec - 64)

/-- The parity and the banks of an MROT (R276). -/
def rotBanks (o : EngineOp) : Nat × Nat × Nat × Nat :=
  let w := ecAt o.ec 11
  let n (i : Nat) := w.toNat / 2 ^ (4 * i) % 16
  if w.getLsbD 16 then (n 0, n 1, n 2, n 3) else (n 1, n 0, n 3, n 2)

/-- The bytes GCONV writes, and the bytes it reads. -/
def gconvBytes (o : EngineOp) : Nat := rowBytes (oFmt o.ec) (ecAt o.ec 4).toNat
def gconvSource (o : EngineOp) : Nat := rowBytes (aFmt o.ec) (ecAt o.ec 4).toNat

/-- The memory lines a span touches. -/
def outLines (va : DWord) (n : Nat) : Nat := if n = 0 then 0 else (va.toNat % 64 + n + 63) / 64

/-- The steps of an operation (R150, R275 to R286). -/
def EngineOp.total (o : EngineOp) : Nat :=
  match o.kind with
  | .mlds | .mswap | .mzero | .rlds => 1
  | .mstream => rowGroups (ecM o.ec)
  | .mtile => kBlocks o.ec 64 * rowGroups (ecM o.ec)
  | .mrot => kBlocks o.ec 64 * rowGroups (ecM o.ec) + 1
  | .mdrain => rowGroups (drainRows o).2
  | .rtile => (kBlocks o.ec 32 - o.x.toNat) * rowGroups (ecM o.ec)
  | .rconv => rowGroups (ecM o.ec)
  | .gconv => outLines (ecAddr o.ec 5) (gconvBytes o)
  | .ggath => outLines (ecAddr o.ec 5) ((ecAt o.ec 4).toNat * (ecAt o.ec 7).toNat)
  | .gcopy => o.leaves
  | .hdigest => (ecAt o.ec 4).toNat / 136 + 1
  | .hingest => (ecAt o.ec 4).toNat
  | .allReduce => (ecAt o.ec 4).toNat / 4096

/-- The k-block and the row group of step n, for the classes that have them. DESIGN CHOICE (log entry 71): the transfer step of an
MROT counts as row group 0 of the k-block after its last, of which KBLK and POS hold the low six bits (`posWord`); a step g of an
MDRAIN as row group g of k-block 0. -/
def EngineOp.place (o : EngineOp) (n : Nat) : Option (Nat × Nat) :=
  let g := rowGroups (ecM o.ec)
  match o.kind with
  | .mlds | .rlds => some (o.x.toNat, 0)
  | .mstream => some (o.x.toNat, n)
  | .mtile | .mrot => some (n / g, n % g)
  | .rtile => some (o.x.toNat + n / g, n % g)
  | .mdrain | .rconv => some (0, n)
  | _ => none

/-- Whether POS counts the steps completed (R153). -/
def EngineOp.counts (o : EngineOp) : Bool :=
  match o.kind with
  | .gconv | .ggath | .gcopy | .hdigest | .hingest | .allReduce => true
  | _ => false

/-- POS of a k-block and a row group (R153): six bits and four. -/
def posWord (j g : Nat) : Word := BitVec.ofNat 32 (j % 64 * 64 + g % 16 * 4)

/-- POS for step n, kept where the operation has none. -/
def EngineOp.posAt (o : EngineOp) (n : Nat) (old : Word) : Word :=
  match o.place n with
  | some (j, g) => posWord j g
  | none => if o.counts then BitVec.ofNat 32 n else old

/-- The record of the last completed step (R158, R153). DESIGN CHOICE (log entry 71): KBLK and RGRP keep their former values
after steps that have no k-block and row group. -/
def recordStep (l : Lease) (o : EngineOp) : Lease :=
  match o.place (o.steps - 1) with
  | some (j, g) =>
    if 0 < o.steps then { l with kblk := BitVec.ofNat 6 j, rgrp := BitVec.ofNat 4 g, pos := posWord j g } else l
  | none => if o.counts then { l with pos := BitVec.ofNat 32 o.steps } else l

/-! ## The transfer step of MROT (R157, R276) -/

/-- The lines of an MROT's transfer step: 256 of A go west, then 256 of B go north (R157, R276). -/
def rotateLines : Nat := 512

/-- The move of line i of a transfer step: the core and the bank it comes from, the core and the bank it goes to. -/
structure Move where
  src : Nat
  srcBank : Nat
  dst : Nat
  dstBank : Nat
  line : Nat

/-- The keys of the line and of the place it goes to. -/
def Move.from_ (m : Move) : Nat := localKey m.src (m.srcBank * 0x4000 + 64 * m.line)
def Move.to_ (m : Move) : Nat := localKey m.dst (m.dstBank * 0x4000 + 64 * m.line)

def rotateMove (st : State) (o : EngineOp) (i : Nat) : Option Move :=
  let core := coreOf (o.thread % 4096)
  let seg := (st.core core).rseg
  let (a1, a, b1, b) := rotBanks o
  if i < 256 then (neighbour core seg 27).map (fun west => { src := core, srcBank := a1, dst := west, dstBank := a, line := i })
  else (neighbour core seg 24).map (fun north => { src := core, srcBank := b1, dst := north, dstBank := b, line := i - 256 })

/-- Line i of the transfer step goes, poisoned where it has come to have an uncorrectable error (R428); the neighbour's buffer
is whole with the last of its lines. -/
def rotateLine (st : State) (o : EngineOp) (i : Nat) : State :=
  match rotateMove st o i with
  | none => st
  | some m =>
    let st := if st.bridge.poisoned.contains (m.from_ / 64) then poison st (m.to_ / 64) else st
    let st := writeThere st (clusterOf m.dst + 1) m.to_ 64 (memRead st.mem m.from_ 64) (BitVec.allOnes 512)
      (st.cluster (clusterOf m.src)).clock
    let c := st.core m.dst
    if i = 255 then st.setCore m.dst { c with arrivedA := c.arrivedA ++ [m.dstBank] }
    else if i = 511 then st.setCore m.dst { c with arrivedB := c.arrivedB ++ [m.dstBank] }
    else st

/-- The lines of a transfer step that have not gone. -/
def rotateRest (st : State) (o : EngineOp) : State :=
  ((List.range rotateLines).drop o.moved).foldl (fun st i => rotateLine st o i) st

end Sys2Proof.Machine
end

