-- ==== Sys2Proof/Machine/Leases.lean ====
section
/-!
DEFINITION. Sys2Proof/Machine/Leases.lean: engine leases: slots, queues, the budget, grants, eviction (R150, R152, R158 to R164, R267 to R273, R386, R387, R399).
-/

namespace Sys2Proof.Machine

/-! ## Classes, engines and queues (R150, R160) -/

/-- Units of an engine of a class, and engines of a class in one pool. -/
def classUnits (k : Nat) : Nat :=
  match k with
  | 1 => 4
  | 2 | 5 => 2
  | _ => 1
def classCount (k : Nat) : Nat :=
  match k with
  | 1 => 6
  | 2 | 4 => 2
  | 5 => 4
  | _ => 1

/-- An engine's key is class × 256 + number; a queue's key is class × 32 + cluster, with cluster 0 for the LXE. -/
def queueOf (engine : Nat) : Nat :=
  let k := engine / 256
  k * 32 + (if k = 5 then 0 else engine % 256 / classCount k)
def enginesOf (queue : Nat) : List Nat :=
  let k := queue / 32
  (List.range (classCount k)).map (fun i => k * 256 + queue % 32 * classCount k + i)

def engineAt (st : State) (e : Nat) : Engine := lookD st.module.engines e {}
def setEngine (st : State) (e : Nat) (x : Engine) : State := { st with module := { st.module with engines := put st.module.engines e x } }
def queueAt (st : State) (q : Nat) : List LeaseReq := lookD st.module.leaseQueues q []
def setQueue (st : State) (q : Nat) (l : List LeaseReq) : State :=
  { st with module := { st.module with leaseQueues := put st.module.leaseQueues q l } }

/-- The lease in a slot of a thread, by the thread's reference. -/
def leaseOf (st : State) (r e : Nat) : Lease := lookD (st.byRef r).leases e {}
def updLease (st : State) (r e : Nat) (f : Lease → Lease) : State :=
  st.updRef r (fun th => { th with leases := put th.leases e (f (lookD th.leases e {})) })

/-- The key of the engine a lease names. -/
def Lease.engineKey (l : Lease) : Nat := l.kind.toNat * 256 + l.eng.toNat

/-! ## The result word and the notices (R158, R271, R388) -/

/-- TH_LSTAT_n (R158). -/
def LeaseState.code : LeaseState → BitVec 3
  | .released => 0 | .requested => 1 | .waking => 2 | .held => 3 | .parked => 4 | .evicted => 5
def lstatWord (l : Lease) : Word :=
  l.state.code ++ l.kind ++ l.prio ++ bit l.ovd ++ bit l.ev ++ bit l.flt ++ bit l.drn ++ l.eng ++ l.kblk ++ l.rgrp ++ (0 : BitVec 2)

/-- A lease-event notice, where the lease posts them: 0 entered HELD, 1 evicted, 2 stopped by a fault. -/
def postLease (st : State) (r e ev : Nat) : State :=
  if (leaseOf st r e).plk then st.updRef r (fun th => { th with noteLease := some (BitVec.ofNat 16 (e + 4 * ev)) }) else st

/-- LEASE_EVICTED (R387). -/
def leaseEvicted (st : State) (e : Nat) : Stop :=
  let l := lookD st.th.leases e {}
  .trap st { cause := .leaseEvicted, code := BitVec.ofNat 12 e, tval := l.pos ++ lstatWord l }

/-! ## What operations and their ends share -/

/-- Who makes an operation's accesses. -/
def EngineOp.who (o : EngineOp) : Who :=
  let t := o.thread % 4096
  { thread := t, cls := o.cls, vi := o.vi, mode := o.mode, core := coreOf t, cluster := clusterOf (coreOf t), own := false,
    waiter := .engine (coreOf t) o.id, ctx := o.ctx }

/-- What a step comes to: the state, the operation, and a stop after the step (R282). -/
abbrev StepEnd := State × EngineOp × Option (Cause × DWord)

/-- A place by its key, for an access whose translation has been made; with the refusals that are tested at the place (R27, R36,
R423). -/
def placeOf (st : State) (who : Who) (va : DWord) (key : Nat) : Mem (State × Place) :=
  if key < 2 ^ 64 then classify st va key
  else if key < 2 ^ 65 then
    let c := (key - 2 ^ 64) / 2 ^ 18
    let off := (key - 2 ^ 64) % 2 ^ 18
    if localReach st who c off then .ok (st, .localStore c off) else .error (.fault st .lsWindowFault va false)
  else
    let k := (key - 2 ^ 65) / 2 ^ 22
    let off := (key - 2 ^ 65) % 2 ^ 22
    if scratchReach st who k off then .ok (st, .scratch k off) else .error (.fault st .lsWindowFault va false)

/-- The stop of a lease's first operation (R265). -/
def stopOp (st : State) (r e : Nat) (o : EngineOp) (c : Cause) (va : DWord) : State :=
  postLease (updLease st r e (fun l => { l with flt := true, pos := o.posAt o.steps l.pos, fva := va, fcause := c.code })) r e 2

/-- The write of line i's name, with the translation already made (R282). It waits while the port it goes by takes no access (R422),
unless the engine is to stop: then it goes at once (R426). -/
def nameStep (st : State) (o : EngineOp) (i : Nat) (stopping : Bool) : Mem StepEnd :=
  let va := ecAddr o.ec 5 + BitVec.ofNat 64 (8 * i)
  let place : Mem (State × Place) := match placeOf st o.who va o.nameKey with
    | .error (.wait st) => if stopping then .ok (st, .peer o.nameKey) else .error (.wait st)
    | r => r
  let o' := { o with steps := i + 1, name := 0, nameEntry := none }
  match place.bind (fun x => writeBytes x.1 o.who va x.2 8 (o.name.setWidth 512) (byteMask 8) 2 false) with
  | .ok st => .ok (st, o', none)
  | .error (.wait st) => .error (.wait st)
  | .error (.fault _ c va _) => .ok (st, o', some (c, va))

/-- A line of HINGEST whose directory operation has been performed is completed before its engine stops (R426): its name
is written, and POS counts it. Where the write is refused, an operation that `goesOn` stands stopped by it (R282). -/
def settleIngest (st : State) (r e : Nat) (goesOn : Bool) : State :=
  match (leaseOf st r e).ops.head? with
  | some o =>
    if o.kind = .hingest ∧ o.name ≠ 0 then
      match nameStep st o o.steps true with
      | .ok (st, o', stop) =>
        let st := updLease st r e (fun l => { l with ops := o' :: l.ops.drop 1, pos := BitVec.ofNat 32 o'.steps })
        match goesOn, stop with
        | true, some (c, va) => stopOp st r e o' c va
        | _, _ => st
      | .error _ => st
    else st
  | none => st

/-! ## Winding down (R159, R163, R270, R285) -/

/-- A transfer step of an MROT whose lines have begun to go is completed before its engine stops, which it does at a step boundary
(R159). -/
def settleRotate (st : State) (r e : Nat) : State :=
  match (leaseOf st r e).ops.head? with
  | some o =>
    if o.kind = .mrot ∧ 0 < o.moved ∧ o.steps < o.total then
      let o' := { o with steps := o.steps + 1, moved := rotateLines }
      updLease (rotateRest st o) r e (fun l => recordStep { l with ops := o' :: l.ops.drop 1 } o')
    else st
  | none => st

/-- The compute die an engine belongs to; an LXE belongs to none. -/
def engineDie (engine : Nat) : Option Nat :=
  if engine / 256 = 5 then none else some (engine % 256 / classCount (engine / 256) / 16)

/-- The engine of a lease stops at a step boundary; its operation `goesOn` later, or is abandoned. -/
def settleStep (st : State) (r e : Nat) (goesOn : Bool) : State := settleRotate (settleIngest st r e goesOn) r e

/-- The root reference of a GCOPY that ends, released as CREL does unless its store has been disabled (R33, R285). -/
def dropRoot (st : State) (o : EngineOp) : State :=
  let c := carStore st o.store
  if o.kind = .gcopy ∧ o.name ≠ 0 ∧ !o.lost ∧ c.en then dropRef st o.store c o.name else st

/-- What ends with an operation that will not complete: its root reference (R285); its translations; and the arrivals its MROT
waited for. DESIGN CHOICE (log entry 71): a block that came for an MROT of the lease and was not consumed counts for no later
one. -/
def dropOp (st : State) (o : EngineOp) : State :=
  let core := coreOf (o.thread % 4096)
  let st := forgetAgent (dropRoot st o) core (.engine core o.id)
  if o.kind = .mrot then
    let (_, a, _, b) := rotBanks o
    let c := st.core core
    st.setCore core { c with arrivedA := c.arrivedA.filter (· != a), arrivedB := c.arrivedB.filter (· != b) }
  else st

/-- A request leaves its queue. -/
def leaveQueues (st : State) (r e : Nat) : State :=
  { st with module := { st.module with
      leaseQueues := st.module.leaseQueues.map (fun q => (q.1, q.2.filter (fun x => !(x.thread == r && x.slot == e)))) } }

/-- LFREE of a slot (R159, R270). DESIGN CHOICE (log entry 70): TH_LSTAT of a lease freed while it holds an engine shows OVD,
FLT and FCAUSE 0, and keeps KIND, PRIO, ENG, DRN, KBLK and RGRP. -/
def freeLease (st : State) (r e : Nat) : State :=
  let l := leaseOf st r e
  let en := engineAt st l.engineKey
  match l.state with
  | .released => st
  | .evicted => updLease st r e (fun l => { l with state := .released })
  | .requested => updLease (leaveQueues st r e) r e (fun l => { l with state := .released })
  | .waking | .held | .parked =>
    let st := settleStep st r e false
    let st := (leaseOf st r e).ops.foldl dropOp st
    let st := setEngine st l.engineKey { en with holder := none, power := if l.state = .waking then en.power else .stopping }
    updLease st r e (fun l => { l with state := .released, ops := [], ovd := false, flt := false, fcause := 0, wakePark := false })

/-- What pre-emption does to a thread's leases: those HELD are parked, those WAKING will be (R159). -/
def parkLeases (st : State) (r : Nat) : State :=
  (List.range 4).foldl (fun st e =>
    let l := leaseOf st r e
    match l.state with
    | .held => updLease (settleStep st r e true) r e (fun l => { l with state := .parked, used := l.used + (st.pitch - l.since) })
    | .waking => updLease st r e (fun l => { l with wakePark := true })
    | .parked =>
      setEngine st l.engineKey { engineAt st l.engineKey with power := .ready }
    | _ => st) st

/-- The parked leases of a resumed thread begin their return to HELD (R159, R371). -/
def unparkLeases (st : State) (r : Nat) : State :=
  (List.range 4).foldl (fun st e =>
    let l := leaseOf st r e
    match l.state with
    | .parked => setEngine st l.engineKey { engineAt st l.engineKey with power := .unparking }
    | .waking => updLease st r e (fun l => { l with wakePark := false })
    | _ => st) st

/-! ## The budget and the order of grants (R160, R161, R368) -/

/-- Units counted now: of every engine that is not off. -/
def unitsUsed (st : State) : Nat :=
  (st.module.engines.map (fun e => if e.2.power = .off then 0 else classUnits (e.1 / 256))).sum

/-- The units counted for the leases of a virtual interface. -/
def viUnits (st : State) (vi : BitVec 10) : Nat :=
  (st.module.engines.map (fun e => match e.2.holder with
    | some (r, _) => if (st.byRef r).vi = vi then classUnits (e.1 / 256) else 0
    | none => 0)).sum

/-- Whether a request is passed over: its thread is pre-empted, or SHARE stands in its way. -/
def passedOver (st : State) (q : Nat) (x : LeaseReq) : Bool :=
  let th := st.byRef x.thread
  let share := th.profile.toNat / 2 ^ 20 % 2 ^ 10
  !(st.live x.thread && running st (x.thread % 4096)) || (share != 0 && decide (share < viUnits st th.vi + classUnits (q / 32)))

/-- The request a queue grants next. -/
def queueHead (st : State) (q : Nat) : Option LeaseReq := (queueAt st q).find? (fun x => !passedOver st q x)

/-- An engine of a queue's pool in some state of power. -/
def engineIn (st : State) (q : Nat) (p : EnginePower) : Option Nat := (enginesOf q).find? (fun e => (engineAt st e).power == p)

/-- The order of heads: priority, arrival, cluster. -/
def before (a b : LeaseReq × Nat) : Bool :=
  let x := a.1
  let y := b.1
  x.prio < y.prio || (x.prio == y.prio && (x.seq < y.seq || (x.seq == y.seq && a.2 % 32 < b.2 % 32)))

/-- Room for a wake of a class in the budget. -/
def roomFor (st : State) (q : Nat) : Bool := decide (unitsUsed st + classUnits (q / 32) ≤ st.module.limit)

/-- The heads that could wake an engine, with their queues. -/
def wakeHeads (st : State) : List (LeaseReq × Nat) :=
  st.module.leaseQueues.filterMap (fun p =>
    if (engineIn st p.1 .stopping).isNone && (engineIn st p.1 .off).isSome then (queueHead st p.1).map (fun x => (x, p.1)) else none)

/-- The group of wakes that the in-rush arbiter counts together: the die, and whether they are of MXEs. -/
def rushGroup (q : Nat) : Nat × Bool := (if q / 32 = 5 then 0 else q % 32 / 16, q / 32 == 1)
def rushing (st : State) (g : Nat × Bool) : Nat :=
  (st.module.engines.filter (fun e => e.2.power == .waking && rushGroup (queueOf e.1) == g)).length

/-- Whether the head of a queue may wake an engine now. -/
def mayWake (st : State) (h : LeaseReq × Nat) : Bool :=
  let g := rushGroup h.2
  let heads := (wakeHeads st).filter (fun x => before x h)
  roomFor st h.2 && heads.all (fun x => roomFor st x.2) && decide (rushing st g < (if g.2 then 2 else 8)) &&
    heads.all (fun x => rushGroup x.2 != g)

/-! ## Forced eviction (R162, R163) -/

/-- Units that will be counted once the engines that are going off are off: an engine that stops for a hand-off stays. -/
def settledUnits (st : State) : Nat :=
  (st.module.engines.map (fun e =>
    let gone := e.2.power == .off || e.2.power == .evicting || (e.2.power == .stopping && (queueHead st (queueOf e.1)).isNone)
    if gone then 0 else classUnits (e.1 / 256))).sum

/-- A lease that holds an engine, as a victim: its engine and the keys of R162, the least taken first. -/
structure Victim where
  engine : Nat
  rank : Nat
  prio : Nat
  granted : Nat
deriving DecidableEq, Repr

def victims (st : State) : List Victim :=
  st.module.engines.filterMap (fun e =>
    match e.2.holder with
    | some (r, slot) =>
      let l := leaseOf st r slot
      let rank := match l.state with
        | .parked => 0
        | .held => if l.ovd then 1 else if l.ops.isEmpty then 2 else 3
        | _ => 4
      some { engine := e.1, rank := rank, prio := l.prio.toNat, granted := e.2.granted }
    | none => none)

/-- The victim among some, by the keys in order. -/
def chooseVictim : List Victim → Option Victim
  | [] => none
  | v :: rest =>
    match chooseVictim rest with
    | none => some v
    | some w =>
      let first := v.rank < w.rank || (v.rank == w.rank && (w.prio < v.prio || (v.prio == w.prio && w.granted < v.granted)))
      some (if first then v else w)

/-- The victim that the clamp asks for. -/
def clampVictim (st : State) : Option Victim :=
  if st.module.limit < settledUnits st then chooseVictim (victims st) else none

/-- The victim that the head of a queue asks for, with whether its engine is to be handed off. -/
def pressureVictim (st : State) (q : Nat) : Option (Victim × Bool) :=
  match queueHead st q with
  | none => none
  | some x =>
    let less := (victims st).filter (fun v => decide (x.prio.toNat < v.prio))
    if (engineIn st q .stopping).isSome || (engineIn st q .evicting).isSome then none
    else if (engineIn st q .off).isNone then
      (chooseVictim (less.filter (fun v => (enginesOf q).contains v.engine))).map (fun v => (v, true))
    else if st.module.limit < settledUnits st + classUnits (q / 32) then (chooseVictim less).map (fun v => (v, false))
    else none

/-- Whether an engine is to be evicted, and whether it is then handed off. -/
def evictionOf (st : State) (engine : Nat) : Option Bool :=
  if (clampVictim st).any (fun v => v.engine == engine) then some false
  else (st.module.leaseQueues.filterMap (fun p => pressureVictim st p.1)).findSome?
    (fun v => if v.1.engine = engine then some v.2 else none)

/-- An LWAIT on a slot whose limit has run out by now times out, whatever its lease does next (R271). -/
def overdue (st : State) (r e : Nat) : State :=
  st.updRef r (fun th => match th.wait with
    | .lwaitUntil n limit => if n = e ∧ limit ≤ st.pitch then { th with wait := .lwaitOver } else th
    | _ => th)

/-- The eviction of the lease that holds an engine (R163, R164). DESIGN CHOICE (log entry 71): of an operation that had stopped on a
fault, `ec12` keeps the failing step (R163), not the last completed one. -/
def evict (st : State) (engine : Nat) (handoff : Bool) : State :=
  match (engineAt st engine).holder with
  | none => st
  | some (r, e) =>
    let st := settleIngest (overdue st r e) r e false
    let st := (leaseOf st r e).ops.foldl dropOp st
    let st := updLease st r e (fun l => { l with state := .evicted, ev := true, done := [], ops := [], wakePark := false })
    let st := setEngine st engine { power := if handoff then .stopping else .evicting }
    postLease st r e 1

/-! ## The instructions -/

/-- The lease in a slot of the issuing thread. -/
def myLease (st : State) (e : BitVec 2) : Lease := lookD st.th.leases e.toNat {}
def setMyLease (st : State) (e : BitVec 2) (l : Lease) : State := st.setTh { st.th with leases := put st.th.leases e.toNat l }

/-- A request takes its place: behind every request of its class and of earlier classes. -/
def insertReq (x : LeaseReq) : List LeaseReq → List LeaseReq
  | [] => [x]
  | y :: rest => if x.prio < y.prio then x :: y :: rest else y :: insertReq x rest

/-- The result word of LSTAT and LWAIT (R271). -/
def leaseResult (l : Lease) (timeout : Bool) : Word :=
  lstatWord l ||| (bit (!l.ops.isEmpty) ++ bit timeout).setWidth 32

/-- Whether a slot waits for its engine. -/
def Lease.pending (l : Lease) : Bool := l.state == .requested || l.state == .waking

/-- LEASE (R268). Requests an engine lease and joins the class queue. -/
def execLease (e : BitVec 2) (a : BitVec 5) (b : BitVec 5) (st : State) : Host.Outcome State Fault Refusal :=
    finishKeeping [a, b] do
    let l := myLease st e
    require (l.state == .released || l.state == .evicted) (illegalOperand st)
    let w ← readP st a
    let term ← readP st b (earlierReads [a] b)
    let k := w.toNat % 8
    require (1 ≤ k && k ≤ 5 && w.toNat / 16 == 0) (illegalOperand st)
    require (k != 5 || st.module.membase.getLsbD 2) (illegalOperand st)
    let q := k * 32 + (if k = 5 then 0 else st.myCluster)
    waitFor (decide ((queueAt st q).length < 512)) st
    let prio : BitVec 2 := st.th.profile.extractLsb' 30 2
    let l := { l with state := .requested, kind := BitVec.ofNat 3 k, prio := prio, ovd := false, flt := false, drn := false,
                      fcause := 0, term := term, plk := w.getLsbD 3, used := 0, wakePark := false, ops := [] }
    let st := setMyLease st e l
    let x : LeaseReq := { thread := st.refOf st.cur, slot := e.toNat, prio := prio, seq := st.serial }
    let st := setQueue { st with serial := st.serial + 1 } q (insertReq x (queueAt st q))
    .ok (completeReading st [a, b])

/-- LRENEW (R269). Restarts the lease term and clears OVD. -/
def execLrenew (e : BitVec 2) (a : BitVec 5) (st : State) : Host.Outcome State Fault Refusal :=
    finishKeeping [a] do
    let l := myLease st e
    require (l.state != .released) (illegalOperand st)
    require (l.state != .evicted) (leaseEvicted st e.toNat)
    let term ← readP st a
    let l := { l with term := term, ovd := false }
    let l := if l.state = .held then { l with used := 0, since := st.pitch } else l
    .ok (completeReading (setMyLease st e l) [a])

/-- LFREE (R270). Releases the lease slot and winds down its engine. -/
def execLfree (e : BitVec 2) (st : State) : Host.Outcome State Fault Refusal :=
    finish do
    .ok (complete (freeLease st (st.refOf st.cur) e.toNat))

/-- LSTAT (R271). Returns lease state; the acquire form joins completed operations. -/
def execLstat (e : BitVec 2) (d : BitVec 5) (c : BitVec 5) (st : State) : Host.Outcome State Fault Refusal :=
    finish do
    let l := myLease st e
    let st' ← writeX st d (leaseResult l false)
    let joins := c == 1 && l.ops.isEmpty && l.state == .held
    let st' := if joins then joinCluster (st'.setTh (joinLease st'.th e.toNat)) else st'
    .ok (complete st')

/-- LWAIT (R271). Waits until the lease leaves REQUESTED and WAKING, or a limit passes. -/
def execLwait (e : BitVec 2) (d : BitVec 5) (a : BitVec 5) (st : State) : Host.Outcome State Fault Refusal :=
    finishKeeping [a] do
    let l := myLease st e
    match st.th.wait with
    | .lwaitOver =>
      let st' ← writeX st d (leaseResult l true)
      .ok (completeReading st' [a])
    | .lwaitUntil _ _ =>
      waitFor (!l.pending) st
      let st' ← writeX st d (leaseResult l false)
      .ok (completeReading st' [a])
    | _ =>
      let limit ← readP st a
      if l.pending then
        .error (.stall (if limit = 0 then st
          else st.setTh { st.th with wait := .lwaitUntil e.toNat (st.pitch + limit.toNat) }))
      else
        let st' ← writeX st d (leaseResult l false)
        .ok (completeReading st' [a])

/-- LWAIT_TIMEOUT (R271). The LWAIT limit in pitch ticks runs out; TIMEOUT is returned. -/
def execLwaitTimeout (t : BitVec 12) (e : BitVec 2) (st : State) : Host.Outcome State Fault Refusal :=
    let th := st.thread t.toNat
  match th.wait with
  | .lwaitUntil n limit =>
    if n = e.toNat ∧ limit ≤ st.pitch ∧ (lookD th.leases n {}).pending then .next (st.setThread t.toNat { th with wait := .lwaitOver }) else disabled "LWAIT_TIMEOUT"
  | _ => disabled "LWAIT_TIMEOUT"

/-- EGET (R272). Reads a geometry register into rd; those of a protected thread read zero in S mode while its trap is with the
executive (R412). -/
def execEget (e : BitVec 2) (d : BitVec 5) (k : BitVec 5) (st : State) : Host.Outcome State Fault Refusal :=
    finish do
    let hidden := st.th.veil.isSome && st.th.mode == .s
    let p : Producer := { landings := toDest st d false 0, geom := if hidden then none else some (e.toNat, k.toNat) }
    let st' ← if p.landings.isEmpty then .ok st else launch st p
    .ok (complete st')

/-- EWAIT (R273). Waits for the lease's operations and joins the completed ones. -/
def execEwait (e : BitVec 2) (d : BitVec 5) (st : State) : Host.Outcome State Fault Refusal :=
    finish do
    let l := myLease st e
    require (l.state != .evicted) (leaseEvicted st e.toNat)
    waitFor (l.ops.isEmpty || l.flt) st
    let st' ← writeX st d (if l.state != .released && l.flt then 1 else 0)
    .ok (complete (joinCluster (st'.setTh (joinLease st'.th e.toNat))))

/-- LEASE_GRANT (R160). A queue head is granted an engine when one is free and budget allows. -/
def execLeaseGrant (queue : Nat) (st : State) : Host.Outcome State Fault Refusal :=
    match queueHead st queue with
  | none => disabled "LEASE_GRANT"
  | some x =>
    let grant (engine : Nat) (p : EnginePower) : State :=
      let st := setQueue st queue ((queueAt st queue).filter (· != x))
      let st := setEngine st engine { power := p, holder := some (x.thread, x.slot), granted := st.serial }
      updLease { st with serial := st.serial + 1 } x.thread x.slot
        (fun l => { l with state := .waking, eng := BitVec.ofNat 8 (engine % 256) })
    match engineIn st queue .stopping, engineIn st queue .off with
    | some engine, _ => .next (grant engine .handoff)
    | none, some engine => if mayWake st (x, queue) then .next (grant engine .waking) else disabled "LEASE_GRANT"
    | none, none => disabled "LEASE_GRANT"

/-- ENGINE_WAKE_DONE (R159). An engine finishes its wake or handoff; the lease becomes HELD. -/
def execEngineWakeDone (engine : Nat) (st : State) : Host.Outcome State Fault Refusal :=
    let x := engineAt st engine
  match x.power, x.holder with
  | .waking, none | .handoff, none => .next (setEngine st engine { power := .stopping })
  | .waking, some (r, e) | .handoff, some (r, e) =>
    let st := overdue (setEngine st engine { power := .ready, holder := x.holder, granted := x.granted }) r e
    if (leaseOf st r e).wakePark then .next (updLease st r e (fun l => { l with state := .parked, used := 0, wakePark := false }))
    else .next (postLease (updLease st r e (fun l => { l with state := .held, used := 0, since := st.pitch })) r e 0)
  | .unparking, some (r, e) =>
    let st := setEngine st engine { x with power := .ready }
    .next (postLease (updLease st r e (fun l => { l with state := .held, since := st.pitch })) r e 0)
  | _, _ => disabled "ENGINE_WAKE_DONE"

/-- LEASE_TERM_EXPIRY (R269). A held lease's term expires; OVD becomes 1. -/
def execLeaseTermExpiry (t : BitVec 12) (e : BitVec 2) (st : State) : Host.Outcome State Fault Refusal :=
    let r := st.refOf t.toNat
  let l := leaseOf st r e.toNat
  if l.state = .held ∧ !l.ovd ∧ l.term ≠ 0 ∧ l.term.toNat ≤ l.used + (st.pitch - l.since) then
    .next (updLease st r e.toNat (fun l => { l with ovd := true }))
  else disabled "LEASE_TERM_EXPIRY"

/-- FORCED_EVICTION (R162). Lease pressure or the clamp evicts a victim lease. -/
def execForcedEviction (engine : Nat) (st : State) : Host.Outcome State Fault Refusal :=
    match evictionOf st engine with
  | some handoff => .next (evict st engine handoff)
  | none => disabled "FORCED_EVICTION"

/-- ENGINE_POWER_OFF (R399). A stopped engine opens its switches and its units stop counting. DESIGN CHOICE (log entry 71):
one that was released may also go off while every request of its queue is passed over (R160). -/
def execEnginePowerOff (engine : Nat) (st : State) : Host.Outcome State Fault Refusal :=
    let x := engineAt st engine
  if x.power = .evicting ∨ (x.power = .stopping ∧ (queueHead st (queueOf engine)).isNone) then .next (setEngine st engine {})
  else disabled "ENGINE_POWER_OFF"


end Sys2Proof.Machine
end

