-- ==== Sys2Proof/Machine/Engines.lean ====
section
/-!
DEFINITION. Sys2Proof/Machine/Engines.lean: the operations of the engines (R153 to R157, R263 to R266, R272, R274 to R286, R424 to R426).
-/

namespace Sys2Proof.Machine

/-! ## Accesses (R264) -/

/-- A stop that names no address. -/
def stopOpen {α : Type} (st : State) (c : Cause) : Mem α :=
  .error (.fault { st with drawn := st.drawn + 1 } c (Config.openTval st.drawn) false)

/-- The operation with the flags of a step. -/
def EngineOp.raise (o : EngineOp) (r : Raised) : EngineOp := { o with flags := o.flags ||| ecFlags r.word }

/-- Rows read one after another: their elements and flags. -/
def fetchRows (who : Who) (f n : Nat) : State → List DWord → Mem (State × List (List Num) × Raised)
  | st, [] => .ok (st, [], {})
  | st, va :: rest => do
    let (st, v) ← readAll st who va (rowBytes f n) 2
    let (xs, fl) := rowElems f n v
    let (st, more, fl') ← fetchRows who f n st rest
    return (st, xs :: more, fl.or fl')

/-- Writes of (address, bytes, data, mask), checked before any is made. One that fails all the same leaves none of them (R155; log
entry 24). -/
def writeRows (st : State) (who : Who) (rows : List (DWord × Nat × Nat × Nat)) : Mem State := do
  let st ← rows.foldlM (fun st r => checkSpan who 2 (spanLines r.2.1) st r.1 r.2.1) st
  wholly st (rows.foldlM (fun st r => writeLines who 2 false (spanLines r.2.1) st r.1 r.2.1 r.2.2.1 r.2.2.2) st)

/-- The address of row r from a base, with a signed stride. -/
def rowAt (base : DWord) (stride : Word) (r : Nat) : DWord := base + BitVec.ofInt 64 (r * stride.toInt)

/-! ## The matrix engine (R154, R274, R275) -/

/-- An element of a plane. -/
def Plane.get (p : Plane) (k c : Nat) : Num :=
  match look p.elems (k * 64 + c) with
  | some x => x
  | none => match p.unspec with
    | some d => (decodeElem 10 (Config.shadowElem (d + k * 64 + c)).toNat).1
    | none => .zero false

/-- A plane of fetched rows. -/
def planeOf (rows : List (List Num)) : Plane :=
  { elems := (rows.zipIdx.map (fun r => r.1.zipIdx.map (fun x => (r.2 * 64 + x.2, x.1)))).flatten }

/-- K-block j of B, fetched whole. -/
def fetchPlane (st : State) (o : EngineOp) (base : DWord) (j : Nat) : Mem (State × Plane × Raised) := do
  let n := min (ecK o.ec) (64 * j + 64) - 64 * j
  let (st, rows, fl) ← fetchRows o.who (bFmt o.ec) (ecN o.ec) st
    ((List.range n).map (fun k => rowAt base (ecAt o.ec 7) (64 * j + k)))
  return (st, planeOf rows, fl)

/-- Row group g of A at k-block j: its row numbers, the depth, its elements. -/
def fetchGroup (st : State) (o : EngineOp) (base : DWord) (j g : Nat) : Mem (State × List (Nat × List Num) × Raised) := do
  let rows := (List.range (min (ecM o.ec) (8 * g + 8) - 8 * g)).map (8 * g + ·)
  let n := min (ecK o.ec) (64 * j + 64) - 64 * j
  let off := elemBytes (aFmt o.ec) (64 * j)
  let (st, xs, fl) ← fetchRows o.who (aFmt o.ec) n st
    (rows.map (fun r => rowAt base (ecAt o.ec 4) r + BitVec.ofNat 64 off))
  return (st, rows.zip xs, fl)

/-- The accumulator's number of an output row and column (R274). -/
def outputAt (ec : List Word) (r c : Nat) : Nat := (if r < 64 then aBank ec else 1 - aBank ec) * 4096 + r % 64 * 64 + c

/-- A row group streamed through a plane into the banks, with whether a bit was spilled. -/
def streamGroup (o : EngineOp) (p : Plane) (banks : AMap Acc) (group : List (Nat × List Num)) : AMap Acc × Bool :=
  group.foldl (fun acc row =>
    (List.range (ecN o.ec)).foldl (fun acc c =>
      let i := outputAt o.ec row.1 c
      let ps := row.2.zipIdx.map (fun x => arrayProduct x.1 (p.get x.2 c))
      let (a, sp) := (lookD acc.1 i {}).addBlock (coreOf (o.thread % 4096)) ps
      (put acc.1 i a, acc.2 || sp)) acc) (banks, false)

/-- The banks that rows 0 to M − 1 use, at the start of a new accumulation. -/
def freshBanks (ec : List Word) (banks : AMap Acc) : AMap Acc :=
  banks.filter (fun p => p.1 / 4096 != aBank ec && !(64 < ecM ec && p.1 / 4096 == 1 - aBank ec))

/-- DRN of the operation's lease. -/
def setDrn (st : State) (engine : Nat) (b : Bool) : State :=
  match (engineAt st engine).holder with
  | some (r, e) => updLease st r e (fun l => { l with drn := b })
  | none => st

/-- K-block j of B fetched into the shadow plane, where the operation has not fetched it yet (R154, R275). -/
def loadPlane (st : State) (engine : Nat) (o : EngineOp) (base : DWord) (j : Nat) : Mem (State × EngineOp) :=
  if j < o.loaded ∨ kBlocks o.ec 64 ≤ j then .ok (st, o)
  else do
    let (st, p, fl) ← fetchPlane st o base j
    return (setEngine st engine { engineAt st engine with shadow := p }, { o.raise fl with loaded := j + 1 })

/-- What the load of a plane beside a step comes to: one that waits or fails is made again at the step that needs the plane. -/
def loadBeside (before : State × EngineOp) : Mem (State × EngineOp) → State × EngineOp
  | .ok x => x
  | .error _ => before

/-- Step n of a whole product, of operands at two addresses (R154, R275). A k-block's first step exchanges the planes; by its last
step the next plane has been loaded. The shadow plane is left unspecified. -/
def productStep (st : State) (engine : Nat) (o : EngineOp) (abase bbase : DWord) (n : Nat) : Mem (State × EngineOp) := do
  let groups := rowGroups (ecM o.ec)
  let j := n / groups
  let g := n % groups
  let (st, o) ← loadPlane st engine o bbase j
  let (st, rows, fa) ← fetchGroup st o abase j g
  let x := engineAt st engine
  let fresh : Bool := n == 0 && ecFresh o.ec
  let st := if fresh then setDrn st engine false else st
  let x := if g = 0 then { x with plane := x.shadow, shadow := x.plane } else x
  let (banks, sp) := streamGroup o x.plane (if fresh then freshBanks o.ec x.banks else x.banks) rows
  let done : Bool := n + 1 == kBlocks o.ec 64 * groups
  let x := { x with banks := banks, shadow := if done then { unspec := some st.drawn } else x.shadow }
  let st := setEngine { st with drawn := if done then st.drawn + 4096 else st.drawn } engine x
  let o := o.raise (fa.or { spill := sp })
  return if g + 1 = groups then loadBeside (st, o) (loadPlane st engine o bbase (j + 1)) else (st, o)

/-! ## Local stores as targets (R156, R276, R277) -/

/-- A write of n bytes by an engine of cluster cl at an offset of a core's local store, taken modulo 2^18, a byte at a time. -/
def putLocal (st : State) (cl core off n data mask : Nat) : State :=
  (List.range n).foldl (fun st i =>
    writeThere st (clusterOf core + 1) (localKey core ((off + i) % 2 ^ 18)) 1 (BitVec.ofNat 512 (data / 2 ^ (8 * i)))
      (BitVec.ofNat 512 (mask / 2 ^ (8 * i) % 256)) (st.cluster cl).clock) st

/-- The first byte among some at which the test of R27 fails. -/
def localBad (st : State) (who : Who) (core off n : Nat) : Option Nat :=
  (List.range n).findSome? (fun i =>
    let a := (off + i) % 2 ^ 18
    if localReach st who core a then none else some a)

/-- Step g of MDRAIN. -/
def drainStep (st : State) (engine : Nat) (o : EngineOp) (g : Nat) : Mem (State × EngineOp) :=
  let x := engineAt st engine
  let t := o.thread % 4096
  let core := coreOf t / 256 * 256 + o.x.toNat
  let (first, count) := drainRows o
  let rows := (List.range (min count (8 * g + 8) - 8 * g)).map (fun i => first + 8 * g + i)
  let n := rowBytes (oFmt o.ec) (ecN o.ec)
  let at_ (r : Nat) : Nat := (ecField o.ec 8 17 0 + r * (ecAt o.ec 9).toNat) % 2 ^ 18
  match rows.findSome? (fun r => localBad st o.who core (at_ r) n) with
  | some a => .error (.fault st .lsWindowFault (windowAddr st o.vi core a) false)
  | none =>
    let w := fmtBits (oFmt o.ec)
    let (st, fl) := rows.foldl (fun acc r =>
      let outs := (List.range (ecN o.ec)).map (fun c =>
        (lookD x.banks (o.y.toNat * 4096 + r % 64 * 64 + c) {}).drain (oFmt o.ec) (ecRnd o.ec) (ecSat o.ec))
      let st := putLocal acc.1 (clusterOf (coreOf t)) core (at_ r) n (ofLanes w (outs.map (·.1))) (2 ^ (w * ecN o.ec) - 1)
      (st, outs.foldl (fun a x => a.or x.2) acc.2)) (st, ({} : Raised))
    .ok (setDrn st engine true, o.raise fl)

/-- The launch and the block a thread runs in: a child those of its caller (R347). -/
def blockOf (th : Thread) : Option (Nat × Nat) :=
  match th.task, th.child with
  | some k, _ => some (k.launch, k.block)
  | none, some c => c.launch.bind (fun n => c.block.map (fun b => (n, b)))
  | none, none => none

/-- The wake-up of an MDRAIN that completes, to the stage's tile on the target core (R156, R277, R344). -/
def drainWake (st : State) (o : EngineOp) : State :=
  let th := st.byRef o.thread
  match blockOf th with
  | some (n, b) =>
    if (ecAt o.ec 10).getLsbD 3 then
      let t := o.thread % 4096
      { st with mdWakes := st.mdWakes ++ [{ launch := n, block := b, tile := (th.task.map (·.tile)).getD 0, stage := ecField o.ec 10 2 0,
                                            core := coreOf t / 256 * 256 + o.x.toNat,
                                            poster := th.task.map (fun k => k.launch * 65536 + k.block),
                                            clock := (st.cluster (clusterOf (coreOf t))).clock }] }
    else st
  | none => st

/-- The test of a transfer step, made before its first line goes (R265, R276): both neighbours exist, their banks can be
written, and the lines to go have no uncorrectable error (R428). Its lines then go whatever becomes of the neighbours. DESIGN
CHOICE (log entry 71): a core that has lost a link since the MROT was issued stops it with ILLEGAL_OPERAND. -/
def rotateTest (st : State) (o : EngineOp) : Mem Unit :=
  let bar (m : Option Move) : Mem Unit :=
    match m with
    | none => stopOpen st .illegalOperand
    | some m => match localBad st o.who m.dst (m.dstBank * 0x4000) 64 with
      | some a => .error (.fault st .lsWindowFault (windowAddr st o.vi m.dst a) false)
      | none => match (List.range 256).find? (fun i => st.bridge.poisoned.contains ({ m with line := i }.from_ / 64)) with
        | some i => .error (.fault st .memUncorrectable (windowAddr st o.vi m.src (m.srcBank * 0x4000 + 64 * i)) false)
        | none => .ok ()
  do
    bar (rotateMove st o 0)
    bar (rotateMove st o 256)

/-- The transfer step of MROT (R276). -/
def rotateStep (st : State) (o : EngineOp) : Mem State := do
  if o.moved = 0 then rotateTest st o
  return rotateRest st o

/-- The product step of MROT, of the resident banks. -/
def rotateProduct (st : State) (engine : Nat) (o : EngineOp) (n : Nat) : Mem (State × EngineOp) :=
  let core := coreOf (o.thread % 4096)
  let (a1, _, b1, _) := rotBanks o
  productStep st engine o (windowAddr st o.vi core (a1 * 0x4000)) (windowAddr st o.vi core (b1 * 0x4000)) n

/-! ## The residue engine (R278, R279) -/

/-- K-block j of B for the RXE. -/
def fetchResidues (st : State) (o : EngineOp) (j : Nat) : Mem (State × AMap Int × Raised) := do
  let n := min (ecK o.ec) (32 * j + 32) - 32 * j
  let (st, rows, fl) ← fetchRows o.who (bFmt o.ec) (ecN o.ec) st
    ((List.range n).map (fun k => rowAt (ecAddr o.ec 5) (ecAt o.ec 7) (32 * j + k)))
  return (st, (planeOf rows).elems.map (fun x => (x.1, intOf x.2)), fl)

/-- K-block j of B fetched into the RXE's shadow plane, where RTILE has not fetched it yet; block j0 is there already (R279). -/
def loadResidues (st : State) (engine : Nat) (o : EngineOp) (i : Nat) : Mem (State × EngineOp) :=
  if i ≤ o.loaded ∨ kBlocks o.ec 32 ≤ o.x.toNat + i then .ok (st, o)
  else do
    let (st, p, fl) ← fetchResidues st o (o.x.toNat + i)
    return (setEngine st engine { engineAt st engine with rshadow := p }, { o.raise fl with loaded := i })

/-- Step n of RTILE. -/
def residueStep (st : State) (engine : Nat) (o : EngineOp) (n : Nat) : Mem (State × EngineOp) := do
  let groups := rowGroups (ecM o.ec)
  let i := n / groups
  let j := o.x.toNat + i
  let g := n % groups
  let (st, o) ← loadResidues st engine o i
  let rows := (List.range (min (ecM o.ec) (8 * g + 8) - 8 * g)).map (8 * g + ·)
  let depth := min (ecK o.ec) (32 * j + 32) - 32 * j
  let off := elemBytes (aFmt o.ec) (32 * j)
  let (st, xs, fa) ← fetchRows o.who (aFmt o.ec) depth st
    (rows.map (fun r => rowAt (ecAddr o.ec 2) (ecAt o.ec 4) r + BitVec.ofNat 64 off))
  let x := engineAt st engine
  let x := if g = 0 ∧ 0 < i then { x with rplane := x.rshadow, rshadow := x.rplane } else x
  let bank := if n = 0 ∧ ecFresh o.ec then [] else x.rbank
  let st := if n = 0 ∧ ecFresh o.ec then setDrn st engine false else st
  let bank := (rows.zip xs).foldl (fun bank row =>
    (List.range (ecN o.ec)).foldl (fun bank c =>
      let k := row.1 * 64 + c
      put bank k (row.2.zipIdx.foldl (fun (q : Residue) y => q.addTerm (intOf y.1) (lookD x.rplane (y.2 * 64 + c) 0)) (lookD bank k {})))
      bank) bank
  let st := setEngine st engine { x with rbank := bank }
  let o := o.raise fa
  return if g + 1 = groups then loadBeside (st, o) (loadResidues st engine o (i + 1)) else (st, o)

/-- Step g of RCONV. -/
def convertStep (st : State) (engine : Nat) (o : EngineOp) (g : Nat) : Mem (State × EngineOp) := do
  let x := engineAt st engine
  let rows := (List.range (min (ecM o.ec) (8 * g + 8) - 8 * g)).map (8 * g + ·)
  let w := fmtBits (oFmt o.ec)
  let outs := rows.map (fun r => (r, (List.range (ecN o.ec)).map (fun c =>
    (lookD x.rbank (r * 64 + c) {}).convert (oFmt o.ec) (ecRnd o.ec) (ecSat o.ec))))
  let st ← writeRows st o.who (outs.map (fun r =>
    (ecAddr o.ec 8 + BitVec.ofNat 64 (r.1 * (ecAt o.ec 10).toNat), rowBytes (oFmt o.ec) (ecN o.ec),
      ofLanes w (r.2.map (·.1)), 2 ^ (w * ecN o.ec) - 1)))
  return (setDrn st engine true, o.raise (outs.foldl (fun a r => r.2.foldl (fun a y => a.or y.2) a) {}))

/-! ## The convert-and-gather engine (R283 to R285) -/

/-- The bytes of output line n: from the first to before the last, counted from the destination. -/
def lineSpan (dst : DWord) (bytes n : Nat) : Nat × Nat :=
  let o := dst.toNat % 64
  (64 * n - o, min bytes (64 * (n + 1) - o))

/-- A span with some of its bytes as they were before the operation overwrote them. -/
def withOld (old : AMap Nat) (va : DWord) (n v : Nat) : Nat :=
  (List.range n).foldl (fun v i =>
    match look old (va + BitVec.ofNat 64 i).toNat with
    | some b => v - v / 2 ^ (8 * i) % 256 * 2 ^ (8 * i) + b * 2 ^ (8 * i)
    | none => v) v

/-- The source bytes that a destination span overwrites, added to those already known. -/
def keepOld (st : State) (o : EngineOp) (va : DWord) (n : Nat) : AMap Nat :=
  let src := ecAddr o.ec 2
  (List.range n).foldl (fun old i =>
    let a := va + BitVec.ofNat 64 i
    if (a - src).toNat < gconvSource o ∧ (look old a.toNat).isNone then
      match agentRead st o.who a 1 2 with
      | .ok (_, l) => put old a.toNat l.toNat
      | .error _ => old
    else old) o.old

/-- A span with the bytes of an earlier span as they were read then. -/
def withSeen (seen : Option (DWord × Nat × Nat)) (va : DWord) (n v : Nat) : Nat :=
  match seen with
  | some (a, m, w) => withOld ((List.range m).map (fun i => ((a + BitVec.ofNat 64 i).toNat, w / 2 ^ (8 * i) % 256))) va n v
  | none => v

/-- Output line n of GCONV. Whether an overlapped element is read old or new is settled once for the operation, and the source
bytes read for a line serve for what lies in the next one too, so that an element or a block in two lines is one conversion.
LOG8 codes into LOG8 are exact and pass as they are (R135). -/
def gconvStep (st : State) (o : EngineOp) (n : Nat) : Mem (State × EngineOp) := do
  let f := aFmt o.ec
  let g := oFmt o.ec
  let count := (ecAt o.ec 4).toNat
  let dst := ecAddr o.ec 5
  let (lo, hi) := lineSpan dst (gconvBytes o) n
  let wg := fmtBits g
  let first := if isScaled g then lo / blockBytes g * 32 else 8 * lo / wg
  let last := min count (if isScaled g then (hi + blockBytes g - 1) / blockBytes g * 32 else (8 * hi + wg - 1) / wg)
  let start := if isScaled f then first / 32 * blockBytes f else first * fmtBits f / 8
  let stop := if isScaled f then (last + 31) / 32 * blockBytes f else (last * fmtBits f + 7) / 8
  let va := ecAddr o.ec 2 + BitVec.ofNat 64 start
  let (st, new) ← readAll st o.who va (stop - start) 2
  let old := withOld o.old va (stop - start) new
  let seen := withSeen o.seen va (stop - start) new
  let begun (k : Nat) : Bool := decide (if isScaled g then k / 32 * blockBytes g < lo else k * wg < 8 * lo)
  let shift := if isScaled f then 0 else first * fmtBits f % 8
  let base := if isScaled f then first % 32 else 0
  let bits (k : Nat) : Nat := (if Config.overlapOld o.id (first + k) then old else if begun (first + k) then seen else new) / 2 ^ shift
  let xs := (List.range (last - first)).map (fun k => elemAt f (bits k) (base + k))
  let (w, fl) := if f = 19 ∧ g = 19 then (ofLanes 8 ((List.range (last - first)).map (fun k => bits k / 2 ^ (8 * k))), {})
    else encodeRun g (ecRnd o.ec) (ecSat o.ec) (xs.map (·.1))
  let from_ := if isScaled g then first / 32 * blockBytes g * 8 else first * wg
  let total := if isScaled g then gconvBytes o * 8 else count * wg
  let kept := keepOld st o (dst + BitVec.ofNat 64 lo) (hi - lo)
  let st ← writeRows st o.who
    [(dst + BitVec.ofNat 64 lo, hi - lo, w / 2 ^ (8 * lo - from_), 2 ^ (min (8 * hi) total - 8 * lo) - 1)]
  return (st, { (o.raise (xs.foldl (fun a x => a.or x.2) fl)) with old := kept, seen := some (va, stop - start, new) })

/-- Elements read one after another for GGATH, as one number. -/
def gatherRun (o : EngineOp) : Nat → State → Nat → Mem (State × Nat)
  | 0, st, _ => .ok (st, 0)
  | m + 1, st, i => do
    let size := (ecAt o.ec 7).toNat
    let (st, k) ← readAll st o.who (ecAddr o.ec 8 + BitVec.ofNat 64 (4 * i)) 4 2
    let (st, v) ← readAll st o.who (ecAddr o.ec 2 + BitVec.ofNat 64 (k * size)) size 2
    let (st, rest) ← gatherRun o m st (i + 1)
    return (st, v + rest * 2 ^ (8 * size))

/-- Output line n of GGATH. -/
def ggathStep (st : State) (o : EngineOp) (n : Nat) : Mem State := do
  let size := (ecAt o.ec 7).toNat
  let dst := ecAddr o.ec 5
  let (lo, hi) := lineSpan dst ((ecAt o.ec 4).toNat * size) n
  let (st, v) ← gatherRun o ((hi - lo) / size) st (lo / size)
  writeRows st o.who [(dst + BitVec.ofNat 64 lo, hi - lo, v, 2 ^ (8 * (hi - lo)) - 1)]

/-- Leaf i of a tree under a name, d levels down (R41, R55). -/
def walkLeaf (st : State) (cl k i : Nat) : Nat → DWord → Except Cause (State × Line)
  | 0, n => if n = 0 then .ok (st, 0) else carRead st cl k n
  | d + 1, n =>
    if n = 0 then .ok (st, 0)
    else do
      let (st, l) ← carRead st cl k n
      walkLeaf st cl k i d (childName l (i / 8 ^ d % 8))

/-- Leaf i of GCOPY. -/
def gcopyStep (st : State) (o : EngineOp) (i : Nat) : Mem State :=
  if o.lost || !(carStore st o.store).en then stopOpen st .permissionFault
  else match walkLeaf st o.who.cluster o.store i o.depth o.name with
    | .error c => stopOpen st c
    | .ok (st, l) => writeRows st o.who [(ecAddr o.ec 5 + BitVec.ofNat 64 (64 * i), 64, l.toNat, 2 ^ 512 - 1)]

/-! ## The hash engine (R280 to R282) -/

/-- Block n of HDIGEST. -/
def digestStep (st : State) (o : EngineOp) (n : Nat) : Mem (State × EngineOp) := do
  let len := (ecAt o.ec 4).toNat
  let left := len - 136 * n
  let (st, v) ← readAll st o.who (ecAddr o.ec 2 + BitVec.ofNat 64 (136 * n)) (min left 136) 2
  if 136 ≤ left then return (st, { o with sponge := absorb o.sponge v })
  else
    let s := absorb o.sponge (lastBlock v left)
    let st ← writeRows st o.who [(ecAddr o.ec 5, 32, digestOf s, 2 ^ 256 - 1)]
    return (st, { o with sponge := s })

/-- Line i of HINGEST as far as its directory operation; its name write, to the place that its translation has given, is the rest
of the step. -/
def ingestStep (st : State) (o : EngineOp) (i : Nat) : Mem (State × EngineOp) := do
  if o.lost || !(carStore st o.store).en then stopOpen st .permissionFault
  else
    let va := ecAddr o.ec 5 + BitVec.ofNat 64 (8 * i)
    let (st, p) ← resolve st o.who .write va
    if (rangeAt st p).isSome then throw (.fault st .crangeConflict va false)
    let (st, l) ← agentRead st o.who (ecAddr o.ec 2 + BitVec.ofNat 64 (64 * i)) 64 2
    match lookupOrAllocate st o.store ((ecAt o.ec 0).getLsbD 0) l with
    | .waits => .error (.wait st)
    | .failed st c _ => stopOpen st c
    | .named st n col =>
      let st := if col then st.updRef o.thread (fun th => { th with posted := th.posted ++ [{ cause := .carCollision, tval := n }] }) else st
      let entry := if p.windowed then none
        else (tlbFind (st.cluster o.who.cluster).tlb (st.viOf o.vi.toNat).pasid va.toNat).map (·.1)
      return (st, { o with name := n, nameKey := p.key, nameEntry := entry })

/-! ## The all-reduce (R286, R424, R425) -/

/-- This module's number (R29). -/
def moduleNumber (st : State) : Nat := if st.module.membase.getLsbD 1 then 1 else 0

/-- The exact sum of two terms rounded once (R138): an exact zero is −0 where both terms are, or toward −∞. -/
def exactSum (f mode x y : Nat) : Nat × Raised :=
  (nanOperand f [x, y]).getD
    (match addNum mode (decodeElem f x).1 (decodeElem f y).1 with
    | some (.fin n 0 e false) => roundResult f mode false (some (.fin (n || mode == 4) 0 e false))
    | r => roundResult f mode false r)

/-- Element sums of two chunks, module 0's terms first. -/
def reduceElems (f mode : Nat) (a b : Nat) : Nat × Raised :=
  let w := fmtBits f
  let rs := (List.range (4096 * 8 / w)).map (fun i =>
    let x := a / 2 ^ (w * i) % 2 ^ w
    let y := b / 2 ^ (w * i) % 2 ^ w
    if f = 1 then ((x + y) % 2 ^ w, {}) else exactSum f mode x y)
  (ofLanes w (rs.map (·.1)), rs.foldl (fun a r => a.or r.2) {})

/-- Chunk c of an all-reduce (R425): its own source is read first; then it waits for the ports, while one's width is in transition
(R422; log entry 52), and for the peer's chunk. -/
def reduceStep (st : State) (o : EngineOp) (c : Nat) : Mem (State × EngineOp) := do
  let tag := (ecAt o.ec 7).toNat
  let mine (x : Chunk) : Bool := x.tag == tag && x.ordinal == o.ordinal
  if linkDown st.module then stopOpen st .linkFault
  else if st.bridge.chunks.any (fun x => mine x && (x.fmt != aFmt o.ec || x.len != (ecAt o.ec 4).toNat)) then
    stopOpen st .illegalOperand
  else
    let at_ (k : Nat) : DWord := ecAddr o.ec k + BitVec.ofNat 64 (4096 * c)
    let (st, v) ← readAll st o.who (at_ 2) 4096 3
    if portPaused st.module 0 || portPaused st.module 1 then throw (.wait st)
    match st.bridge.chunks.find? (fun x => mine x && x.index == c) with
    | none => .error (.wait st)
    | some x =>
      let (w, fl) := if moduleNumber st = 0 then reduceElems (aFmt o.ec) (ecRnd o.ec) v x.data
        else reduceElems (aFmt o.ec) (ecRnd o.ec) x.data v
      let st ← writeAll st o.who (at_ 5) 4096 w (2 ^ 32768 - 1) 3 false
      return ({ st with bridge := { st.bridge with chunks := st.bridge.chunks.filter (· != x) } }, o.raise fl)

/-! ## Steps, stops and ends (R264 to R266) -/

/-- The next step of an operation of an engine. -/
def opStep (st : State) (engine : Nat) (o : EngineOp) : Mem StepEnd :=
  let n := o.steps
  let x := engineAt st engine
  let done (r : Mem (State × EngineOp)) : Mem StepEnd := r.map (fun p => (p.1, { p.2 with steps := n + 1 }, none))
  let plain (r : Mem State) : Mem StepEnd := done (r.map (fun st => (st, o)))
  match o.kind with
  | .mlds => done do
    let (st, p, fl) ← fetchPlane st o (ecAddr o.ec 5) o.x.toNat
    return (setEngine st engine { engineAt st engine with shadow := p }, o.raise fl)
  | .mswap => plain (.ok (setEngine st engine { x with plane := x.shadow, shadow := x.plane }))
  | .mzero =>
    plain (.ok (setEngine (setDrn st engine false) engine { x with banks := x.banks.filter (fun p => p.1 / 4096 != o.x.toNat) }))
  | .mstream => done do
    let (st, rows, fl) ← fetchGroup st o (ecAddr o.ec 2) o.x.toNat n
    let x := engineAt st engine
    let (banks, sp) := streamGroup o x.plane x.banks rows
    return (setEngine st engine { x with banks := banks }, o.raise (fl.or { spill := sp }))
  | .mtile => done (productStep st engine o (ecAddr o.ec 2) (ecAddr o.ec 5) n)
  | .mrot => if n + 1 = o.total then plain (rotateStep st o) else done (rotateProduct st engine o n)
  | .mdrain => done (drainStep st engine o n)
  | .rlds => done do
    let (st, p, fl) ← fetchResidues st o o.x.toNat
    let x := engineAt st engine
    return (setEngine st engine { x with rplane := p, rshadow := x.rplane }, o.raise fl)
  | .rtile => done (residueStep st engine o n)
  | .rconv => done (convertStep st engine o n)
  | .gconv => done (gconvStep st o n)
  | .ggath => plain (ggathStep st o n)
  | .gcopy => plain (gcopyStep st o n)
  | .hdigest => done (digestStep st o n)
  | .hingest => if o.name ≠ 0 then nameStep st o n false else (ingestStep st o n).map (fun p => (p.1, p.2, none))
  | .allReduce => done (reduceStep st o n)

/-- The operation at the head of a lease's queue replaced. -/
def setHeadOp (st : State) (r e : Nat) (o : EngineOp) : State :=
  updLease st r e (fun l => { l with ops := o :: l.ops.drop 1 })

/-- What an operation that becomes the first of its lease does to POS. -/
def startOp (l : Lease) : Lease :=
  match l.ops.head? with
  | some o => if o.counts then { l with pos := 0 } else l
  | none => l

/-- Whether what MROT waits for has come. -/
def opReady (st : State) (o : EngineOp) : Bool :=
  if o.kind = .mrot then
    let c := st.core (coreOf (o.thread % 4096))
    let (_, a, _, b) := rotBanks o
    c.arrivedA.contains a && c.arrivedB.contains b
  else true

/-- A lease's first operation completes (R266). -/
def completeOp (st : State) (r e : Nat) (o : EngineOp) : State :=
  let st := updLease st r e (fun l => startOp { l with ops := l.ops.drop 1, done := l.done ++ [(o.id, o.flags)] })
  match o.kind with
  | .mrot =>
    let c := coreOf (o.thread % 4096)
    let (_, a, _, b) := rotBanks o
    st.setCore c { st.core c with arrivedA := (st.core c).arrivedA.erase a, arrivedB := (st.core c).arrivedB.erase b }
  | .mdrain => drainWake st o
  | .gcopy => dropRoot st o
  | _ => st

/-- One step of the first operation of a lease: none where it can do nothing yet. -/
def engineTurn (st : State) (engine r e : Nat) (o : EngineOp) : Option State :=
  if o.total ≤ o.steps then (if opReady st o then some (completeOp st r e o) else none)
  else
    match opStep st engine o with
    | .error (.wait st') => if sameMisses st st' o.who.core then none else some st'
    | .error (.fault st' c va _) => some (stopOp st' r e o c va)
    | .ok (st', o', stop) =>
      let st' := updLease (setHeadOp st' r e o') r e (fun l => recordStep l o')
      match stop with
      | some (c, va) => some (stopOp st' r e o' c va)
      | none => some (if o'.total ≤ o'.steps ∧ opReady st' o' then completeOp st' r e o' else st')

/-! ## Issue (R263) -/

/-- Step 1 and step 2 of R263. -/
def openSlot (st : State) (e : BitVec 2) (kind : Option Nat) : Eff Unit := do
  let l := myLease st e
  waitFor (!l.pending) st
  require (l.state != .released) (illegalOperand st)
  require (l.state != .evicted) (leaseEvicted st e.toNat)
  match kind with
  | some k => require (l.kind.toNat == k) (illegalOperand st)
  | none => .ok ()

/-- The snapshot of step 3, with rounding code 7 resolved except for the HXE. -/
def snapshot (st : State) (e : BitVec 2) : List Word :=
  let l := myLease st e
  let ec := (List.range 12).map (fun k => lookD l.ec k 0)
  if l.kind ≠ 3 ∧ ecRnd ec = 7 then
    ec.set 0 ((ecAt ec 0 &&& 0xF8FFFFFF) ||| ((st.th.fpcr.setWidth 32 &&& 7) <<< 24))
  else ec

/-- Steps 4 and 5: room in the queue, and the thread's earlier stores drained. -/
def opRoom (st : State) (e : BitVec 2) : Eff Unit := do
  waitFor (decide ((myLease st e).ops.length < 4)) st
  waitFor (st.core st.myCore).buffer.isEmpty st

/-- An operation of the issuing thread. -/
def newOp (st : State) (kind : EngineKind) (ec : List Word) (x y : Word) : EngineOp :=
  { kind := kind, id := st.serial, thread := st.refOf st.cur, vi := st.th.vi, mode := st.th.mode, cls := st.th.cls,
    ctx := sealOf st st.cur, ec := ec, x := x, y := y }

/-- Step 6: what the thread could see goes before the operation, which joins the queue (R330). -/
def enqueueOp (st : State) (e : BitVec 2) (scope : Nat) (o : EngineOp) : State :=
  let st := askCluster (releasePush st st.myCore scope) st.myCore
  let st := { st with serial := st.serial + 1 }
  let l := myLease st e
  let l' := { l with ops := l.ops ++ [o] }
  setMyLease st e (if l.ops.isEmpty then startOp l' else l')

/-- An engine operation: `prep` reads its register operands and checks them with the snapshot. -/
def engineOp (e : BitVec 2) (k : Nat) (kind : EngineKind) (prep : State → List Word → Eff (Word × Word)) (rs : List (BitVec 5))
    (st : State) : Host.Outcome State Fault Refusal :=
  finishKeeping rs do
    openSlot st e (some k)
    let ec := snapshot st e
    let (x, y) ← prep st ec
    opRoom st e
    .ok (completeReading (enqueueOp st e 2 (newOp st kind ec x y)) rs)

/-- No register operand, and a check of the snapshot. -/
def geometry (ok : List Word → Bool) (st : State) (ec : List Word) : Eff (Word × Word) := do
  require (ok ec) (illegalOperand st)
  .ok (0, 0)

/-- One register operand, checked with the snapshot. -/
def geometryX (a : BitVec 5) (ok : List Word → Nat → Bool) (st : State) (ec : List Word) : Eff (Word × Word) := do
  let x ← readP st a
  require (ok ec x.toNat) (illegalOperand st)
  .ok (x, 0)

/-- The all-reduce of R286: an ECFG of `ec11` with bit 0 set. -/
def allReduce (e : BitVec 2) (a : BitVec 5) (st : State) : Host.Outcome State Fault Refusal :=
  finishKeeping [a] do
    openSlot st e (some 5)
    let v ← readP st a
    require (v.getLsbD 0) (illegalOperand st)
    let ec := snapshot st e
    require (lxeOk ec) (illegalOperand st)
    opRoom st e
    let tag := (ecAt ec 7).toNat
    let n := lookD st.bridge.tags tag 0
    let st := enqueueOp st e 3 { newOp st .allReduce ec 0 0 with ordinal := n }
    .ok (completeReading { st with bridge := { st.bridge with tags := put st.bridge.tags tag (n + 1) } } [a])

/-- Whether the core of the issuing thread has the links MROT needs (R108). -/
def rotLinks (st : State) : Bool :=
  (neighbour st.myCore (st.core st.myCore).rseg 27).isSome && (neighbour st.myCore (st.core st.myCore).rseg 24).isSome

/-- ECFG (R272). Writes a geometry register of a lease slot. -/
def execEcfg (e : BitVec 2) (a : BitVec 5) (k : BitVec 5) (st : State) : Host.Outcome State Fault Refusal :=
    let l := myLease st e
  if l.kind = 5 ∧ l.state ≠ .released ∧ k = 11 then
    match readP st a with
    | .ok v => if v.getLsbD 0 then allReduce e a st else .next (completeReading st [a])
    | .error x => finish (.error x)
  else
    finish do
      let v ← readP st a
      .ok (completeReading (if k.toNat < 12 then setMyLease st e { l with ec := put l.ec k.toNat v } else st) [a])

/-- ALL_REDUCE (R286). An ECFG of ec11 bit 0 on an LXE lease issues an all-reduce operation. -/
def execAllReduce (e : BitVec 2) (a : BitVec 5) (st : State) : Host.Outcome State Fault Refusal :=
    allReduce e a st

/-- MLDS (R275). Fetches a k-block of B into the shadow plane. -/
def execMlds (e : BitVec 2) (a : BitVec 5) (st : State) : Host.Outcome State Fault Refusal :=
    engineOp e 1 .mlds (geometryX a (fun ec j => mxeReserved ec && stdFmt 28 (bFmt ec) && mxeKN ec && decide (j < kBlocks ec 64))) [a] st

/-- MSWAP (R275). Exchanges stationary and shadow planes. -/
def execMswap (e : BitVec 2) (st : State) : Host.Outcome State Fault Refusal :=
    engineOp e 1 .mswap (geometry (fun _ => true)) [] st

/-- MSTREAM (R275). Streams A rows of one k-block through the stationary plane. -/
def execMstream (e : BitVec 2) (a : BitVec 5) (st : State) : Host.Outcome State Fault Refusal :=
    engineOp e 1 .mstream (geometryX a (fun ec j => mxeReserved ec && stdFmt 28 (aFmt ec) && stdFmt 28 (bFmt ec) && mxeKN ec &&
    mxeM ec && mxeScaledK ec && decide (j < kBlocks ec 64))) [a] st

/-- MTILE (R275). Runs a whole tile product over all k-blocks. -/
def execMtile (e : BitVec 2) (st : State) : Host.Outcome State Fault Refusal :=
    engineOp e 1 .mtile (geometry mxeTile) [] st

/-- MROT (R276). Multiplies resident blocks and rotates A west and B north. -/
def execMrot (e : BitVec 2) (st : State) : Host.Outcome State Fault Refusal :=
    finish do
    openSlot st e (some 1)
    let ec := snapshot st e
    let w := ecAt ec 11
    require (mxeTile ec && w >>> 17 == 0 && (List.range 4).all (fun i => decide (w.toNat / 2 ^ (4 * i) % 16 ≤ 13)) && rotLinks st)
      (illegalOperand st)
    opRoom st e
    let st := enqueueOp st e 2 (newOp st .mrot ec 0 0)
    let l := myLease st e
    .ok (complete (setMyLease st e { l with ec := put l.ec 11 (lookD l.ec 11 0 ^^^ 0x10000) }))

/-- MDRAIN (R277). Rounds an accumulator bank and writes it to a core's local store. -/
def execMdrain (e : BitVec 2) (a : BitVec 5) (b : BitVec 5) (st : State) : Host.Outcome State Fault Refusal :=
    engineOp e 1 .mdrain (fun st ec => do
    let x ← readP st a
    let y ← readP st b (earlierReads [a] b)
    require (mxeReserved ec && stdFmt 22 (oFmt ec) && rndOk ec && mxeM ec && 1 ≤ ecN ec && ecN ec ≤ 64 && (ecAt ec 8) >>> 18 == 0 &&
      (ecAt ec 10) >>> 4 == 0 && x >>> 8 == 0 && y.toNat ≤ 1) (illegalOperand st)
    .ok (x, y)) [a, b] st

/-- MZERO (R275). Starts a new accumulation in a bank. -/
def execMzero (e : BitVec 2) (a : BitVec 5) (st : State) : Host.Outcome State Fault Refusal :=
    engineOp e 1 .mzero (geometryX a (fun _ x => decide (x ≤ 1))) [a] st

/-- MRESUME (R275). Continues a fault-stopped operation from POS. -/
def execMresume (e : BitVec 2) (st : State) : Host.Outcome State Fault Refusal :=
    finish do
    openSlot st e none
    let l := myLease st e
    require (l.flt && l.state == .held) (illegalOperand st)
    waitFor (drained st st.cur) st
    let st := askCluster (releasePush st st.myCore (if l.kind = 5 then 3 else 2)) st.myCore
    .ok (complete (setMyLease st e { l with flt := false, fcause := 0 }))

/-- RLDS (R279). Fetches a B k-block into the RXE and swaps planes. -/
def execRlds (e : BitVec 2) (a : BitVec 5) (st : State) : Host.Outcome State Fault Refusal :=
    engineOp e 2 .rlds (geometryX a (fun ec j => rxeOk ec && decide (j < kBlocks ec 32))) [a] st

/-- RTILE (R279). Runs the residue product from a first k-block. -/
def execRtile (e : BitVec 2) (a : BitVec 5) (st : State) : Host.Outcome State Fault Refusal :=
    engineOp e 2 .rtile (geometryX a (fun ec j => rxeOk ec && decide (j < kBlocks ec 32))) [a] st

/-- RCONV (R279). Converts residue outputs and writes them. -/
def execRconv (e : BitVec 2) (st : State) : Host.Outcome State Fault Refusal :=
    engineOp e 2 .rconv (geometry rxeOk) [] st

/-- GCONV (R284). Converts COUNT elements between formats. -/
def execGconv (e : BitVec 2) (st : State) : Host.Outcome State Fault Refusal :=
    engineOp e 4 .gconv (geometry gconvOk) [] st

/-- GGATH (R285). Gathers elements by an index array. -/
def execGgath (e : BitVec 2) (st : State) : Host.Outcome State Fault Refusal :=
    engineOp e 4 .ggath (fun st ec => do
    let size := (ecAt ec 7).toNat
    require ([1, 2, 4, 8, 16, 32, 64].contains size) (illegalOperand st)
    let src := ecAddr ec 2
    let dst := ecAddr ec 5
    let idx := ecAddr ec 8
    require (src.toNat % size == 0) (misaligned st src)
    require (dst.toNat % size == 0) (misaligned st dst)
    require (idx.toNat % 4 == 0) (misaligned st idx)
    .ok (0, 0)) [] st

/-- GCOPY (R285). Copies a CAR tensor out to ordinary memory. -/
def execGcopy (e : BitVec 2) (st : State) : Host.Outcome State Fault Refusal :=
    finish do
    openSlot st e (some 4)
    let ec := snapshot st e
    let k ← carRight st false
    let src := ecAddr ec 2
    require (src.toNat % 16 == 0) (misaligned st src)
    opRoom st e
    let (st, l) ← atIssue true (loadBytes st (me st) src 16 3)
    let st := acquire st
    let n : DWord := l.setWidth 64
    let leaves := l.toNat / 2 ^ 64 % 2 ^ 32
    let depth := l.toNat / 2 ^ 96 % 256
    require (decide (depth ≤ 10) && decide (leaves ≤ 8 ^ depth)) (illegalOperand st)
    let st ← if n = 0 then .ok st else match carRef st (carStore st k) n with
      | .ok st => .ok st
      | .error c => .error (nameStop st c n)
    .ok (complete (enqueueOp st e 2 { newOp st .gcopy ec 0 0 with store := k, name := n, leaves := leaves, depth := depth }))

/-- HDIGEST (R281). Computes SHA3-256 of LEN bytes. -/
def execHdigest (e : BitVec 2) (st : State) : Host.Outcome State Fault Refusal :=
    engineOp e 3 .hdigest (geometry (fun ec => ecAt ec 0 >>> 1 == 0)) [] st

/-- HINGEST (R282). Looks up or allocates LEN lines in the CAR store. -/
def execHingest (e : BitVec 2) (st : State) : Host.Outcome State Fault Refusal :=
    finish do
    openSlot st e (some 3)
    let ec := snapshot st e
    require (ecAt ec 0 >>> 1 == 0) (illegalOperand st)
    let k ← carRight st true
    require ((ecAddr ec 2).toNat % 64 == 0) (misaligned st (ecAddr ec 2))
    require ((ecAddr ec 5).toNat % 8 == 0) (misaligned st (ecAddr ec 5))
    opRoom st e
    .ok (complete (enqueueOp st e 2 { newOp st .hingest ec 0 0 with store := k }))

/-- Whether the die an engine belongs to has tripped (R402); an LXE belongs to no compute die. -/
def engineTripped (st : State) (engine : Nat) : Bool := (engineDie engine).any (fun d => st.module.trip.getLsbD d)

/-- What an engine's running operation does beside or within its step, at a turn of the agenda: a product loads the next plane of B
while the current one streams; an MROT's transfer step sends its next line. One that waits or fails is made again at its step. -/
def engineWork (st : State) (engine : Nat) : State :=
  let x := engineAt st engine
  match x.power, x.holder with
  | .ready, some (r, e) =>
    let l := leaseOf st r e
    match l.ops with
    | o :: _ =>
      if l.state != .held || l.flt || engineTripped st engine || o.steps == 0 then st
      else
        let beside (next : Mem (State × EngineOp)) : State :=
          let (st', o') := loadBeside (st, o) next
          updLease st' r e (fun l => { l with ops := o' :: l.ops.drop 1 })
        let core := coreOf (o.thread % 4096)
        let streaming := (o.steps - 1) / rowGroups (ecM o.ec)
        match o.kind with
        | .mtile => if o.loaded = streaming + 1 then beside (loadPlane st engine o (ecAddr o.ec 5) o.loaded) else st
        | .rtile => if o.loaded = streaming then beside (loadResidues st engine o (o.loaded + 1)) else st
        | .mrot =>
          if o.steps + 1 = o.total then
            if o.moved < rotateLines then
              beside (do
                if o.moved = 0 then rotateTest st o
                return (rotateLine st o o.moved, { o with moved := o.moved + 1 }))
            else st
          else if o.loaded = streaming + 1 then
            let (_, _, b1, _) := rotBanks o
            beside (loadPlane st engine o (windowAddr st o.vi core (b1 * 0x4000)) o.loaded)
          else st
        | _ => st
    | [] => st
  | _, _ => st

/-- ENGINE_STEP (R264). An engine fetches a step's operands and applies the step. -/
def execEngineStep (engine : Nat) (st : State) : Host.Outcome State Fault Refusal :=
    let x := engineAt st engine
  match x.power, x.holder with
  | .ready, some (r, e) =>
    let l := leaseOf st r e
    match l.ops with
    | o :: _ =>
      if l.state = .held ∧ !l.flt ∧ !engineTripped st engine then
        match engineTurn st engine r e o with
        | some st' => .next st'
        | none => disabled "ENGINE_STEP"
      else disabled "ENGINE_STEP"
    | [] => disabled "ENGINE_STEP"
  | _, _ => disabled "ENGINE_STEP"


end Sys2Proof.Machine
end

