-- ==== Sys2Proof/Machine/Tasks.lean ====
section
/-!
DEFINITION. Sys2Proof/Machine/Tasks.lean: messages, calls to other cores, and the starts and ends of tasks (R110, R210 to R212, R295 to R304, R339, R346, R347, R350).
-/

namespace Sys2Proof.Machine

/-! ## Answers that fill a register (R104, R211, R297) -/

/-- The answer to a request of a thread: the producer with its tag becomes ready to arrive. -/
def answerIn (th : Thread) (tag : Nat) (v : Word) (clock : Nat) : Thread :=
  { th with producers := th.producers.map (fun p =>
      if !p.ready && p.tag == tag then
        { p with ready := true, clock := clock, landings := p.landings.map (fun l => { l with value := v.setWidth 256 }) }
      else p) }

/-- The answer wherever the thread is, in its slot or saved. -/
def answer (st : State) (tag : Nat) (v : Word) (clock : Nat) : State :=
  { st with threads := st.threads.map (fun p => (p.1, answerIn p.2 tag v clock)),
            saved := st.saved.map (fun p => (p.1, answerIn p.2 tag v clock)) }

/-- A producer whose answer is outstanding. -/
def askFor (st : State) (d : BitVec 5) : Eff State := launch st { landings := toDest st d false 0, ready := false, tag := st.serial }

/-- The release of a message or a call (R212, R298): `.L` inside the cluster, `.D` beyond it. -/
def releaseTo (st : State) (core : Nat) : Eff State := release st (if clusterOf core = st.myCluster then 2 else 3)

/-- A target word (R210, R296): a core of this module. -/
def targetOk (t : Word) : Bool := t >>> 9 == 0

/-- Whether a core's power switch is open or every slot of it is removed from the rotation. -/
def coreClosed (st : State) (core : Nat) : Bool :=
  !(st.core core).sw || (st.core core).rmv == 0xFF || st.module.trip.getLsbD (core / 256)

/-! ## Receive queues (R295) -/

/-- The messages in a core's overflow area, oldest first, with the payloads that bank 15 holds; one in a line with an uncorrectable
error bears that mark (R428). -/
def overflowMessages (st : State) (core : Nat) : List Message :=
  let c := st.core core
  c.overflow.zipIdx.map (fun x =>
    { sender := x.1.1, vi := x.1.2.1, clock := x.1.2.2,
      payload := (memRead st.mem (bank15Key core ((c.head + x.2) % 128 * 32)) 32).setWidth 256,
      bad := st.bridge.poisoned.contains (bank15Key core ((c.head + x.2) % 128 * 32) / 64) })

/-- A core's queue and overflow area: what does not fit in the queue of 16 stands in the area from `head` on. DESIGN CHOICE
(log entry 28): the 128 places are a ring, and where a message leaves from the middle the later ones move up; the spec gives
the area no layout. -/
def setMessages (st : State) (core head : Nat) (ms : List Message) : State :=
  let c := st.core core
  let rest := ms.drop 16
  let mem := rest.zipIdx.foldl (fun m x => memPutNat m (bank15Key core ((head + x.2) % 128 * 32)) 32 x.1.payload.toNat) st.mem
  let st := rest.zipIdx.foldl (fun st x => if x.1.bad then poison st (bank15Key core ((head + x.2) % 128 * 32) / 64) else st) st
  { st.setCore core { c with queue := ms.take 16, head := head, overflow := rest.map (fun m => (m.sender, m.vi, m.clock)) } with
    mem := mem }

/-- All messages at a core, oldest first. -/
def messagesAt (st : State) (core : Nat) : List Message := (st.core core).queue ++ overflowMessages st core

/-- The refusal code of a message at its target, 0 where it is accepted. -/
def messageCode (st : State) (core : Nat) (vi : BitVec 10) : Word :=
  let c := st.core core
  if !viOnCore st core vi || coreClosed st core then 2
  else if 16 ≤ c.queue.length ∧ 128 ≤ c.overflow.length then 1
  else 0

/-- A message joins the queue, or the tail of the overflow area. -/
def acceptMessage (st : State) (core : Nat) (m : Message) : State :=
  let c := st.core core
  if c.overflow.isEmpty && decide (c.queue.length < 16) then st.setCore core { c with queue := c.queue ++ [m] }
  else
    let at_ := (c.head + c.overflow.length) % 128
    { st.setCore core { c with overflow := c.overflow ++ [(m.sender, m.vi, m.clock)] } with
      mem := memPutNat st.mem (bank15Key core (at_ * 32)) 32 m.payload.toNat }

/-- A message leaves; the oldest of the overflow area moves into the queue where it has room. A message taken from the
middle of the area lets the later ones move up. -/
def removeMessage (st : State) (core i : Nat) : State :=
  let c := st.core core
  let ms := removeAt (messagesAt st core) i
  setMessages st core (if i < c.queue.length ∧ !c.overflow.isEmpty then (c.head + 1) % 128 else c.head) ms

/-- RECV and RECVP (R299). DESIGN CHOICE (log entry 59): a message out of a line with an uncorrectable error raises
MEM_UNCORRECTABLE as a load of the line does (R428), with a free TH_TVAL. -/
def receive (waits : Bool) (v a : BitVec 5) (st : State) : Host.Outcome State Fault Refusal :=
  finish do
    let core := st.myCore
    match findIdxFrom (fun m => m.vi == st.th.vi) (messagesAt st core) 0 with
    | none =>
      waitFor (!waits) st
      let st ← writeX st a 0xFFFFFFFF
      .ok (complete st)
    | some (i, m) =>
      require (!m.bad) (.trap { st with drawn := st.drawn + 1 } { cause := .memUncorrectable, tval := Config.openTval st.drawn })
      let st' ← writeV st v.toNat m.payload
      let st' ← writeX st' a (BitVec.ofNat 32 m.sender)
      .ok (complete (raiseClock (removeMessage st' core i) core m.clock))

/-- A message of the issuing thread on its way, after its release (R297). -/
def postMessage (st : State) (t : Word) (m : VWord) (tag : Option Nat) : State :=
  let msg : Message := { sender := st.cur, vi := st.th.vi, payload := m, clock := (st.core st.myCore).clock }
  { st with mails := st.mails ++ [{ target := t.toNat, tag := tag, msg := msg }] }

/-! ## Starting a task (R339, R350) -/

/-- A thread that starts: its number `uid`, its four arguments, and its profile word (R368). DESIGN CHOICE (log entry 29): the
registers whose own rules give them a reset value (TH_FERETRY, TH_RSVHOLD, TH_SENDLIM: R230, R238, R300) start with it, the
others R339 leaves unlisted with zero. -/
def startThread (t uid : Nat) (vi : BitVec 10) (pc : DWord) (cls : BitVec 2) (profile : Word) (args : List Word) : Thread :=
  { Thread.reset (slotOf t) with
    present := true, uid := uid, vi := vi, pc := pc, cls := cls, profile := profile,
    scal := (List.range 4).map (fun i => (i, { val := args.getD i 0 })), frames := [(0, { kind := 2 })] }

/-- The launch of a thread, with its number. -/
def launchOf (st : State) (th : Thread) : Option (Nat × Launch) :=
  let n := match th.task, th.child with
    | some k, _ => some k.launch
    | none, some c => c.launch
    | none, none => none
  n.bind (fun n => (look st.launches n).map (fun l => (n, l)))

/-- Whether a core is open to CALLAT arrivals of a virtual interface (R346). -/
def openTo (st : State) (core : Nat) (vi : BitVec 10) : Bool :=
  st.blocks.any (fun b => !b.2.displaced && blockVi st b.2 == some vi && b.2.seats.any (fun t => coreOf t == core))

/-- The seat a slot is: its block, and the tile. -/
def seatOf (st : State) (t : Nat) : Option (Nat × Nat) :=
  st.blocks.findSome? (fun b => if b.2.displaced then none else (findIdxFrom (· == t) b.2.seats 0).map (fun x => (b.1, x.1)))

/-- A tile task's block, by its number in State.blocks. -/
def blockKey (k : Task) : Nat := k.launch * 65536 + k.block

/-- The tasks of a block that are pre-empted (R342, R345). -/
def savedOf (st : State) (key : Nat) : List Nat :=
  (st.saved.filter (fun p => (p.2.task.map blockKey) == some key)).map (·.1)

/-- A slot in the rotation (R398, R402). -/
def inRotation (st : State) (t : Nat) : Bool :=
  !(st.core (coreOf t)).rmv.getLsbD (slotOf t) && !st.module.trip.getLsbD (coreOf t / 256)

/-- Whether a restore into a slot is in progress. -/
def restoring (st : State) (t : Nat) : Bool :=
  (st.core (coreOf t)).preempts.any (fun p => p.slot == slotOf t && p.started && p.restore)

/-- Whether a slot is free for a queued child (R346): empty, and no stage of its tile pending. -/
def freeForChild (st : State) (t : Nat) : Bool :=
  !(st.thread t).present && !restoring st t &&
    (match seatOf st t with
    | some (b, tile) => ((look st.blocks b).map (fun x => x.pending.all (fun p => p.1 != tile))).getD true
    | none => true)

/-- Slots that a change makes free for a child without ending a thread there have become so now (R346). -/
def markFree (before after : State) (ts : List Nat) : State :=
  ts.foldl (fun st t =>
    if freeForChild before t || !freeForChild st t || (before.thread t).present then st
    else { st.setThread t { st.thread t with freedAt := st.serial + 1 } with serial := st.serial + 1 }) after

/-- The slot of a core that was the first to become free for a child (R346), the lowest among equals. -/
def firstFree (st : State) (core : Nat) : Option Nat :=
  ((List.range 8).filter (fun i => freeForChild st (core * 8 + i))).foldl (fun best i => match best with
    | some j => if (st.thread (core * 8 + i)).freedAt < (st.thread (core * 8 + j)).freedAt then some i else best
    | none => some i) none

/-! ## Ending a task (R302) -/

/-- The steps of R302 up to and including the release. The batch is sealed once for an issue. -/
def endSteps (st : State) : Eff State := do
  let st ← if st.th.wait = .ending 1 then .ok st
    else do
      waitFor (decide (st.th.sealed.length < 16)) st
      let st := st.setTh (sealBatch st.th)
      .ok (st.setTh { st.th with wait := .ending 1 })
  waitFor st.th.sealed.isEmpty st
  require (!st.th.cfault.v) (.trap st { cause := .copyFault, tval := st.th.cfaddr })
  waitFor st.th.producers.isEmpty st
  waitFor st.th.arrivals.isEmpty st
  waitFor (drained st st.cur) st
  let st := (List.range 4).foldl (fun st e => freeLease st (st.refOf st.cur) e) st
  let st := releasePush (leaveReservation st (st.refOf st.cur)) st.myCore 3
  .ok { st with bridge := { st.bridge with exitClock := max st.bridge.exitClock (st.core st.myCore).clock } }

/-- CALLAT (R210). Sends a remote task request to a core; the reply fills rd. -/
def execCallat (d : BitVec 5) (a : BitVec 5) (b : BitVec 3) (s : BitVec 1) (t : BitVec 1) (st : State) : Host.Outcome State Fault Refusal :=
    finishKeeping [a] do
    let x ← readT st a s
    let pc ← readB st b (t == 1)
    require (!st.th.inpl) (illegalOperand st)
    require (d != 0 && !isPort d) (illegalOperand st)
    require (targetOk x) (illegalOperand st)
    require (pc.toNat % 4 == 0) (misaligned st pc)
    let k0 ← readP st 28
    let k1 ← readP st 29
    let k2 ← readP st 30
    let k3 ← readP st 31
    let st ← releaseTo st x.toNat
    let tag := st.serial
    let st ← askFor st d
    let th := st.th
    let call : Call :=
      { target := x.toNat, caller := st.cur, tag := tag, vi := th.vi, cls := th.cls, launch := (launchOf st th).map (·.1),
        block := (blockOf th).map (·.2), pc := pc,
        args := [k0, k1, k2, k3], cwbase := th.cwbase, cwsize := th.cwsize, clock := (st.core st.myCore).clock }
    .ok (completeReading { st with flights := st.flights ++ [call], serial := st.serial + 1 } [a])

/-- SEND (R297). Sends a 32-byte message, retrying until accepted. -/
def execSend (a : BitVec 5) (v : BitVec 5) (s : BitVec 1) (st : State) : Host.Outcome State Fault Refusal :=
    finishKeeping [a] do
    match st.th.wait with
    | .sendAccepted => .ok (completeReading st [a])
    | .sendFlight _ | .sendRefused _ => .error (.stall st)
    | w =>
      let t ← readT st a s
      require (targetOk t) (illegalOperand st)
      require (w != .sendTimedOut) (.trap st { cause := .sendStall, tval := t.setWidth 64 })
      let m ← readV st v.toNat
      let st ← releaseTo st t.toNat
      let st := postMessage st t m none
      .error (.stall (st.setTh { st.th with wait := .sendFlight st.pitch }))

/-- SEND_RETRY (R297). A refused SEND retries every 64 cycles until TH_SENDLIM gives SEND_STALL. -/
def execSendRetry (t : BitVec 12) (st : State) : Host.Outcome State Fault Refusal :=
    let waiting (m : Mail) : Bool := m.tag.isNone && m.msg.sender == t.toNat && m.refused
  match (st.thread t.toNat).wait with
  | .sendRefused start =>
    let st := { st with mails := st.mails.map (fun m => if waiting m then { m with refused := false } else m) }
    .next (st.setThread t.toNat { st.thread t.toNat with wait := .sendFlight start })
  | _ => disabled "SEND_RETRY"

/-- SENDNB (R297). Makes one delivery attempt and returns a status. -/
def execSendnb (d : BitVec 5) (a : BitVec 5) (v : BitVec 5) (s : BitVec 1) (st : State) : Host.Outcome State Fault Refusal :=
    finishKeeping [a] do
    let t ← readT st a s
    require (targetOk t) (illegalOperand st)
    let m ← readV st v.toNat
    let st ← releaseTo st t.toNat
    let tag := st.serial
    let st ← askFor st d
    .ok (completeReading { postMessage st t m (some tag) with serial := st.serial + 1 } [a])

/-- RECV (R299). Waits for and removes the oldest message of the interface. -/
def execRecv (v : BitVec 5) (a : BitVec 5) (st : State) : Host.Outcome State Fault Refusal :=
    receive true v a st

/-- RECVP (R299). Removes the oldest message if one is present. -/
def execRecvp (v : BitVec 5) (a : BitVec 5) (st : State) : Host.Outcome State Fault Refusal :=
    receive false v a st

/-- MESSAGE_ARRIVAL (R295). A message arrives at a core and is queued, overflowed or refused. -/
def execMessageArrival (idx : Nat) (st : State) : Host.Outcome State Fault Refusal :=
    match st.mails[idx]? with
  | none => disabled "MESSAGE_ARRIVAL"
  | some m =>
    let earlier := (st.mails.take idx).any (fun x => x.target == m.target && x.msg.sender == m.msg.sender)
    if m.refused ∨ earlier then disabled "MESSAGE_ARRIVAL"
    else
      let code := messageCode st m.target m.msg.vi
      let gone : State := { st with mails := removeAt st.mails idx }
      let st' := if code = 0 then acceptMessage gone m.target m.msg else gone
      match m.tag with
      | some tag => .next (answer st' tag code 0)
      | none =>
        let t := m.msg.sender
        let th := st'.thread t
        if code = 0 then .next (st'.setThread t { th with wait := .sendAccepted })
        else match th.wait with
          | .sendFlight start =>
            if th.sendlim ≠ 0 ∧ start + th.sendlim.toNat ≤ st.pitch then .next (st'.setThread t { th with wait := .sendTimedOut })
            else
              .next ({ st with mails := replaceAt st.mails idx { m with refused := true } }.setThread t
                { th with wait := .sendRefused start })
          | _ => .next st'

/-- REPLY (R303). Ends a CALLAT child and fills its caller's rd. -/
def execReply (a : BitVec 5) (s : BitVec 1) (st : State) : Host.Outcome State Fault Refusal :=
    finishKeeping [a] do
    match st.th.child with
    | none => .error (illegalOperand st)
    | some c =>
      let v ← readT st a s
      let st ← endSteps st
      let st := popPort st a
      .ok (emptySlot (answer st c.tag v (st.core st.myCore).clock) st.cur)

/-- WAKEST (R304). Releases and posts a wake-up of a later stage. -/
def execWakest (a : BitVec 5) (b : BitVec 5) (s : BitVec 1) (t : BitVec 1) (st : State) : Host.Outcome State Fault Refusal :=
    finishKeeping [a, b] do
    let x ← readT st a s
    let y ← readT st b t (earlierReads [a] b)
    match launchOf st st.th with
    | none => .error (illegalOperand st)
    | some (n, l) =>
      let block := x.toNat % 2 ^ 16
      let tile := x.toNat / 2 ^ 16 % 2 ^ 7
      require (x >>> 23 == 0 && y >>> 3 == 0 && y != 0 && decide (y.toNat < l.stages) && decide (block < l.gx * l.gy) &&
        decide (tile < l.x * l.y)) (illegalOperand st)
      let st ← release st 3
      let w : WakeUp := { launch := n, block := block, tile := tile, stage := y.toNat,
                          poster := st.th.task.map (fun k => k.launch * 65536 + k.block), clock := (st.core st.myCore).clock }
      .ok (completeReading { st with stWakes := st.stWakes ++ [w] } [a, b])

/-- TEXIT (R302). Seals and waits for copies, drains, frees leases, releases and ends the thread. -/
def execTexit (st : State) : Host.Outcome State Fault Refusal :=
    finish do
    let st ← endSteps st
    .ok (emptySlot st st.cur)

/-- CALLAT_ARRIVAL (R211). A CALLAT request arrives and is accepted into the task queue or refused. -/
def execCallatArrival (idx : Nat) (st : State) : Host.Outcome State Fault Refusal :=
    match st.flights[idx]? with
  | none => disabled "CALLAT_ARRIVAL"
  | some f =>
    let st := { st with flights := removeAt st.flights idx }
    let c := st.core f.target
    if coreClosed st f.target then .next (answer st f.tag 0xFFFFFFF3 0)
    else if !openTo st f.target f.vi then .next (answer st f.tag 0xFFFFFFF2 0)
    else if 8 ≤ c.calls.length then .next (answer st f.tag 0xFFFFFFF1 0)
    else .next (st.setCore f.target { c with calls := c.calls ++ [f] })

/-- TASK_QUEUE_START (R346). A queued CALLAT child starts on the first slot to become free, once that is in the rotation (R350). -/
def execTaskQueueStart (core : BitVec 9) (st : State) : Host.Outcome State Fault Refusal :=
    let c := core.toNat
  match (st.core c).calls, (firstFree st c).filter (fun i => inRotation st (c * 8 + i)) with
  | f :: rest, some i =>
    let t := c * 8 + i
    let th := startThread t st.serial f.vi f.pc f.cls (st.viOf f.vi.toNat).profile f.args
    let st := st.setCore c { st.core c with calls := rest }
    let st := { raiseClock st c f.clock with serial := st.serial + 1 }
    .next (st.setThread t { th with cwbase := f.cwbase, cwsize := f.cwsize,
                                    child := some { launch := f.launch, block := f.block, caller := f.caller, tag := f.tag } })
  | _, _ => disabled "TASK_QUEUE_START"

/-- RPUT (R321). Writes a scalar register of another core's slot. -/
def execRput (i : BitVec 5) (a : BitVec 5) (v : BitVec 5) (st : State) : Host.Outcome State Fault Refusal :=
    finishKeeping [a, v] do
    needMode st .m
    let x ← readP st a
    let y ← readP st v (earlierReads [a] v)
    require (x >>> 12 == 0 && !isPort i) (illegalOperand st)
    let t := x.toNat % 512 * 8 + x.toNat / 512
    let th := st.thread t
    waitFor (i == 0 || !(th.scalar i).busy) st
    let st := if i = 0 then st else st.setThread t (th.setScalar i { val := y })
    .ok (completeReading st [a, v])


end Sys2Proof.Machine
end

