-- ==== Sys2Proof/Machine/Barriers.lean ====
section
/-!
DEFINITION. Sys2Proof/Machine/Barriers.lean: barriers (R305 to R311).
-/

namespace Sys2Proof.Machine

/-- The barrier of a cluster. -/
def barrierAt (st : State) (cl n : Nat) : Barrier := lookD (st.cluster cl).barriers n {}
def setBarrier (st : State) (cl n : Nat) (b : Barrier) : State :=
  st.setCluster cl { st.cluster cl with barriers := put (st.cluster cl).barriers n b }

/-- The cluster and the barrier a barrier word names, for an issuer in a cluster (R308). -/
def barrierOf (w : Word) (own : Nat) : Nat × Nat := (if w.getLsbD 9 then own else w.toNat / 16 % 32, w.toNat % 16)

/-- Whether a barrier is assigned to a block of a virtual interface. -/
def barrierFor (st : State) (b : Barrier) (vi : BitVec 10) : Bool :=
  match b.owner.bind (look st.blocks) with
  | some x => blockVi st x == some vi
  | none => false

/-- The barrier word, checked (R308). -/
def barrierWord (st : State) (w : Word) (ownOnly : Bool) : Eff (Nat × Nat) := do
  let (cl, n) := barrierOf w st.myCluster
  require (w >>> 10 == 0 && (!ownOnly || cl == st.myCluster)) (illegalOperand st)
  .ok (cl, n)

/-- BARRIER_FAULT, with the barrier word. -/
def barrierFault (st : State) (w : Word) : Stop := .trap st { cause := .barrierFault, tval := w.setWidth 64 }

/-- The copy requests and the engine operations of a thread that have not ended (R309), by number. -/
def openCopies (st : State) (r : Nat) : List Nat :=
  let c := coreOf (r % 4096)
  (((st.core c).copies ++ (st.cluster (clusterOf c)).copies).filter (fun q => q.thread == r)).map (·.id)
def openOps (th : Thread) : List Nat := (th.leases.map (fun l => l.2.ops.map (·.id))).flatten

/-- The join of an arrival with the engine operations it waited for (R149, R309). -/
def joinOps (th : Thread) (ids : List Nat) : Thread :=
  { th with
    fflags := th.leases.foldl (fun f l => l.2.done.foldl (fun f o => if ids.contains o.1 then f ||| ffOf o.2 else f) f) th.fflags,
    leases := th.leases.map (fun l => (l.1, { l.2 with done := l.2.done.filter (fun o => !ids.contains o.1) })) }

/-- Whether a thread's oldest arrival can be sent (R309). -/
def arrivalReady (st : State) (r : Nat) (a : Arrival) : Bool :=
  (a.rel.isNone || (a.after == 0 && a.sent.all (fun i => (st.core (coreOf (r % 4096))).copies.all (fun q => q.id != i)))) && a.copies.all (fun i => !(openCopies st r).contains i) &&
    a.ops.all (fun i => !(openOps (st.byRef r)).contains i)

/-- An arrival is sent: its release is made where it is one, its operations are joined, and it reaches its barrier. -/
def sendArrival (st : State) (r : Nat) (a : Arrival) : State :=
  let core := coreOf (r % 4096)
  let k := clusterOf core
  let st := match a.rel with
    | some scope => releasePush st core scope
    | none => st
  let st := if a.credit = 0 then st else st.updRef r (fun th => joinOps th a.ops)
  let covers := match a.rel with
    | some scope => k == a.cl || decide (3 ≤ scope)
    | none => false
  let c := max (if covers then (st.core core).clock else 0) (if a.credit = 0 then 0 else (st.cluster k).clock)
  let x := st.cluster a.cl
  let st := st.setCluster a.cl { x with clock := max x.clock c }
  let b := barrierAt st a.cl a.n
  setBarrier st a.cl a.n { b with arrivals := b.arrivals ++ [{ sender := r, vi := (st.byRef r).vi, word := a.word, credit := a.credit }] }

/-- The oldest arrival of a thread sent, where it can be. -/
def sendNext (st : State) (r : Nat) : Option State :=
  match (st.byRef r).arrivals with
  | a :: rest =>
    if arrivalReady st r a then some (sendArrival (st.updRef r (fun th => { th with arrivals := rest })) r a) else none
  | [] => none

/-- A question to a barrier of the own cluster, which waits for its answer. -/
def askBarrier (st : State) (w : Word) (n : Nat) (put : Barrier → Barrier) : Eff State := do
  require (barrierFor st (barrierAt st st.myCluster n) st.th.vi) (barrierFault st w)
  let st := setBarrier st st.myCluster n (put (barrierAt st st.myCluster n))
  .error (.stall (st.setTh { st.th with wait := .barAsked }))

/-! ## The cycle of a barrier (R307) -/

/-- BAL as 32 signed bits. DESIGN CHOICE (log entry 30): it wraps modulo 2^32; the spec gives its range alone. -/
def wrapBal (x : Int) : Int := (BitVec.ofInt 32 x).toInt

/-- Steps 2 to 4 on arrivals and expectations that belong there, with whether the phase completed. -/
def barrierStep (b : Barrier) (credits bytes : List Nat) : Barrier × Bool :=
  let arr := min (b.arr.toNat + credits.length) 65535
  let bal := wrapBal (b.bal - (credits.sum : Nat))
  let full := b.count.toNat ≤ arr && bal == 0
  let b := if full then { b with phase := b.phase + 1, arr := BitVec.ofNat 16 (arr - b.count.toNat), bal := 0 }
    else { b with arr := BitVec.ofNat 16 arr, bal := bal }
  ({ b with bal := wrapBal (b.bal + (bytes.sum : Nat)) }, full)

/-- What BTEST writes (R310). -/
def barrierState (b : Barrier) : Word :=
  bit (b.bal != 0) ++ (0 : BitVec 5) ++ BitVec.ofNat 10 (min b.arr.toNat 1023) ++ b.phase

/-- An EXPECT whose bytes the barrier has taken completes. -/
def endExpect (st : State) (t : Nat) : State :=
  let cur := st.cur
  let ir := (st.thread t).ir
  { completeReading { st with cur := t } [ir.extractLsb' 16 5, ir.extractLsb' 11 5] with cur := cur }

/-- The notice of a phase completion to the threads of a cluster that have subscribed (R388). -/
def phaseNotice (st : State) (cl n : Nat) (phase : BitVec 16) : State :=
  let tell (t : Nat) (th : Thread) : Thread :=
    if clusterOf (coreOf (t % 4096)) = cl ∧ th.plbsub ∧ th.plbnum.toNat = n then { th with noteBarrier := some phase } else th
  { st with threads := st.threads.map (fun p => (p.1, tell p.1 p.2)), saved := st.saved.map (fun p => (p.1, tell p.1 p.2)) }

/-- A cycle. -/
def barrierCycle (st : State) (cl n : Nat) : State :=
  let b := barrierAt st cl n
  let mine (a : Arrived) : Bool := barrierFor st b a.vi
  let here (t : Nat) : Bool := barrierFor st b (st.thread t).vi
  let (b', full) := barrierStep b ((b.arrivals.filter mine).map (fun a => a.credit.toNat))
    ((b.expects.filter (fun e => here e.1)).map (fun e => e.2.toNat))
  let refused := (b.expects.map (·.1) ++ b.waits.map (·.1) ++ b.tests).filter (fun t => !here t)
  let passed := b.waits.filter (fun w => here w.1 && w.2 != b'.phase)
  let st := setBarrier st cl n { b' with arrivals := [], expects := [], tests := [],
                                         waits := b.waits.filter (fun w => here w.1 && w.2 == b'.phase) }
  let set (st : State) (t : Nat) (w : Wait) : State := st.setThread t { st.thread t with wait := w }
  let st := refused.foldl (fun st t => set st t .barRefused) st
  let st := (b.arrivals.filter (fun a => !mine a)).foldl (fun st a =>
    st.updRef a.sender (fun th => { th with posted := th.posted ++ [{ cause := .barrierFault, tval := a.word.setWidth 64 }] })) st
  let st := (b.expects.filter (fun e => here e.1)).foldl (fun st e => endExpect st e.1) st
  let st := passed.foldl (fun st w => set st w.1 (.barAnswered (b'.phase.setWidth 32))) st
  let st := (b.tests.filter here).foldl (fun st t => set st t (.barAnswered (barrierState b'))) st
  if full then phaseNotice st cl n b'.phase else st

/-- ARRIVE (R309). Posts a barrier arrival, deferred if it carries a credit. -/
def execArrive (a : BitVec 5) (b : BitVec 5) (s : BitVec 1) (t : BitVec 1) (c : BitVec 3) (o : BitVec 2) (st : State) : Host.Outcome State Fault Refusal :=
    finishKeeping [a, b] do
    let w ← readT st a s
    let credit ← readT st b t (earlierReads [a] b)
    let (cl, n) ← barrierWord st w false
    require (!credit.getLsbD 31) (illegalOperand st)
    let r := st.refOf st.cur
    let deferred := credit != 0
    let x : Arrival :=
      { cl := cl, n := n, word := w, credit := credit, rel := if releases o then some c.toNat else none, after := storesBefore st st.cur,
        sent := ((st.core st.myCore).copies.filter (fun q => q.thread == r)).map (·.id),
        copies := if deferred then openCopies st r else [], ops := if deferred then openOps st.th else [] }
    let x := { x with ops := x.ops ++ (if deferred then (st.th.leases.map (fun l => l.2.done.map (·.1))).flatten else []) }
    let st := completeReading (if releases o then performLoads st else st) [a, b]
    let st := st.setTh { st.th with arrivals := st.th.arrivals ++ [x] }
    .ok (if st.th.arrivals.length = 1 then (sendNext st r).getD st else st)

/-- EXPECT (R310). Adds expected bytes to a barrier's balance. -/
def execExpect (a : BitVec 5) (b : BitVec 5) (s : BitVec 1) (t : BitVec 1) (st : State) : Host.Outcome State Fault Refusal :=
    finishKeeping [a, b] do
    match st.th.wait with
    | .barAsked => .error (.stall st)
    | w' =>
      let w ← readT st a s
      let bytes ← readT st b t (earlierReads [a] b)
      let (_, n) ← barrierWord st w true
      require (!bytes.getLsbD 31) (illegalOperand st)
      require (w' != .barRefused) (barrierFault st w)
      askBarrier st w n (fun x => { x with expects := x.expects ++ [(st.cur, bytes)] })

/-- BWAIT (R310). Waits until the barrier phase moves on, then acquires. -/
def execBwait (d : BitVec 5) (a : BitVec 5) (b : BitVec 5) (s : BitVec 1) (t : BitVec 1) (c : BitVec 3) (st : State) : Host.Outcome State Fault Refusal :=
    finishKeeping [a, b] do
    match st.th.wait with
    | .barAsked => .error (.stall st)
    | w' =>
      let w ← readT st a s
      let phase ← readT st b t (earlierReads [a] b)
      let (_, n) ← barrierWord st w true
      require (w' != .barRefused) (barrierFault st w)
      match w' with
      | .barAnswered v =>
        let st' ← writeX st d v
        .ok (joinCluster (completeReading st' [a, b]))
      | _ =>
        waitFor (!(!isPort d && d != 0 && (st.th.scalar d).busy)) st
        askBarrier st w n (fun x => { x with waits := x.waits ++ [(st.cur, phase.setWidth 16)] })

/-- BTEST (R310). Reads a barrier's phase, arrivals and balance flag. -/
def execBtest (d : BitVec 5) (a : BitVec 5) (s : BitVec 1) (st : State) : Host.Outcome State Fault Refusal :=
    finishKeeping [a] do
    match st.th.wait with
    | .barAsked => .error (.stall st)
    | w' =>
      let w ← readT st a s
      let (_, n) ← barrierWord st w true
      require (w' != .barRefused) (barrierFault st w)
      match w' with
      | .barAnswered v =>
        let st' ← writeX st d v
        .ok (completeReading st' [a])
      | _ => askBarrier st w n (fun x => { x with tests := x.tests ++ [st.cur] })

/-- DEFERRED_ARRIVAL (R309). A deferred arrival is sent once earlier copies and engine operations end. -/
def execDeferredArrival (t : BitVec 12) (st : State) : Host.Outcome State Fault Refusal :=
    match (st.refsOf t.toNat).findSome? (sendNext st) with
  | some st' => .next st'
  | none => disabled "DEFERRED_ARRIVAL"

/-- BARRIER_CYCLE (R307). A barrier resolves its cycle's arrivals, completion and expectations. -/
def execBarrierCycle (cl : BitVec 5) (n : BitVec 4) (st : State) : Host.Outcome State Fault Refusal :=
    let b := barrierAt st cl.toNat n.toNat
  if b.arrivals.isEmpty && b.expects.isEmpty && b.waits.isEmpty && b.tests.isEmpty && !(barrierStep b [] []).2 then
    disabled "BARRIER_CYCLE"
  else .next (barrierCycle st cl.toNat n.toNat)


end Sys2Proof.Machine
end

