-- ==== Sys2Proof/Machine/ScalarInt.lean ====
section
/-!
DEFINITION. Sys2Proof/Machine/ScalarInt.lean: the integer register and immediate forms (R198 to R202).
-/

namespace Sys2Proof.Machine

/-- A form with two register sources and one result (R196, R198): sources under their t bits, then the result. -/
def alu2 (f : Word → Word → Word) (d a b : BitVec 5) (s t : BitVec 1) (st : State) : Host.Outcome State Fault Refusal :=
  finishKeeping [a, b] do
    let x ← readT st a s
    let y ← readT st b t (earlierReads [a] b)
    let st' ← writeX st d (f x y)
    .ok (completeReading st' [a, b])

/-- A form with one register source and one result. -/
def alu1 (f : Word → Word) (d a : BitVec 5) (s : BitVec 1) (st : State) : Host.Outcome State Fault Refusal :=
  finishKeeping [a] do
    let x ← readT st a s
    let st' ← writeX st d (f x)
    .ok (completeReading st' [a])

/-- A form with no source. -/
def alu0 (x : Word) (d : BitVec 5) (st : State) : Host.Outcome State Fault Refusal :=
  finish do
    let st' ← writeX st d x
    .ok (complete st')

/-- ADD (R198). rd gets rs1 plus rs2, modulo 2^32. -/
def execAdd (d : BitVec 5) (a : BitVec 5) (b : BitVec 5) (s : BitVec 1) (t : BitVec 1) (st : State) : Host.Outcome State Fault Refusal :=
  alu2 (fun x y => x + y) d a b s t st

/-- SUB (R198). rd gets rs1 minus rs2. -/
def execSub (d : BitVec 5) (a : BitVec 5) (b : BitVec 5) (s : BitVec 1) (t : BitVec 1) (st : State) : Host.Outcome State Fault Refusal :=
  alu2 (fun x y => x - y) d a b s t st

/-- AND (R198). Bitwise AND of two registers. -/
def execAnd (d : BitVec 5) (a : BitVec 5) (b : BitVec 5) (s : BitVec 1) (t : BitVec 1) (st : State) : Host.Outcome State Fault Refusal :=
  alu2 (fun x y => x &&& y) d a b s t st

/-- OR (R198). Bitwise OR of two registers. -/
def execOr (d : BitVec 5) (a : BitVec 5) (b : BitVec 5) (s : BitVec 1) (t : BitVec 1) (st : State) : Host.Outcome State Fault Refusal :=
  alu2 (fun x y => x ||| y) d a b s t st

/-- XOR (R198). Bitwise XOR of two registers. -/
def execXor (d : BitVec 5) (a : BitVec 5) (b : BitVec 5) (s : BitVec 1) (t : BitVec 1) (st : State) : Host.Outcome State Fault Refusal :=
  alu2 (fun x y => x ^^^ y) d a b s t st

/-- ANDN (R198). rs1 AND NOT rs2. -/
def execAndn (d : BitVec 5) (a : BitVec 5) (b : BitVec 5) (s : BitVec 1) (t : BitVec 1) (st : State) : Host.Outcome State Fault Refusal :=
  alu2 (fun x y => x &&& ~~~y) d a b s t st

/-- SLL (R198). Logical left shift by rs2[4:0]. -/
def execSll (d : BitVec 5) (a : BitVec 5) (b : BitVec 5) (s : BitVec 1) (t : BitVec 1) (st : State) : Host.Outcome State Fault Refusal :=
  alu2 (fun x y => x <<< (y.toNat % 32)) d a b s t st

/-- SRL (R198). Logical right shift by rs2[4:0]. -/
def execSrl (d : BitVec 5) (a : BitVec 5) (b : BitVec 5) (s : BitVec 1) (t : BitVec 1) (st : State) : Host.Outcome State Fault Refusal :=
  alu2 (fun x y => x >>> (y.toNat % 32)) d a b s t st

/-- SRA (R198). Arithmetic right shift by rs2[4:0]. -/
def execSra (d : BitVec 5) (a : BitVec 5) (b : BitVec 5) (s : BitVec 1) (t : BitVec 1) (st : State) : Host.Outcome State Fault Refusal :=
  alu2 (fun x y => x.sshiftRight (y.toNat % 32)) d a b s t st

/-- ROR (R198). Rotate right by rs2[4:0]. -/
def execRor (d : BitVec 5) (a : BitVec 5) (b : BitVec 5) (s : BitVec 1) (t : BitVec 1) (st : State) : Host.Outcome State Fault Refusal :=
  alu2 (fun x y => x.rotateRight (y.toNat % 32)) d a b s t st

/-- MUL (R198). Low 32 bits of the product. -/
def execMul (d : BitVec 5) (a : BitVec 5) (b : BitVec 5) (s : BitVec 1) (t : BitVec 1) (st : State) : Host.Outcome State Fault Refusal :=
  alu2 (fun x y => x * y) d a b s t st

/-- MULH (R198). High 32 bits of the signed product. -/
def execMulh (d : BitVec 5) (a : BitVec 5) (b : BitVec 5) (s : BitVec 1) (t : BitVec 1) (st : State) : Host.Outcome State Fault Refusal :=
  alu2 mulHighSigned d a b s t st

/-- MULHU (R198). High 32 bits of the unsigned product. -/
def execMulhu (d : BitVec 5) (a : BitVec 5) (b : BitVec 5) (s : BitVec 1) (t : BitVec 1) (st : State) : Host.Outcome State Fault Refusal :=
  alu2 mulHighUnsigned d a b s t st

/-- DIV (R199). Signed quotient toward zero; division by zero gives all ones. -/
def execDiv (d : BitVec 5) (a : BitVec 5) (b : BitVec 5) (s : BitVec 1) (t : BitVec 1) (st : State) : Host.Outcome State Fault Refusal :=
  alu2 divSigned d a b s t st

/-- DIVU (R199). Unsigned quotient. -/
def execDivu (d : BitVec 5) (a : BitVec 5) (b : BitVec 5) (s : BitVec 1) (t : BitVec 1) (st : State) : Host.Outcome State Fault Refusal :=
  alu2 divUnsigned d a b s t st

/-- REM (R199). Signed remainder with the dividend's sign. -/
def execRem (d : BitVec 5) (a : BitVec 5) (b : BitVec 5) (s : BitVec 1) (t : BitVec 1) (st : State) : Host.Outcome State Fault Refusal :=
  alu2 remSigned d a b s t st

/-- REMU (R199). Unsigned remainder. -/
def execRemu (d : BitVec 5) (a : BitVec 5) (b : BitVec 5) (s : BitVec 1) (t : BitVec 1) (st : State) : Host.Outcome State Fault Refusal :=
  alu2 remUnsigned d a b s t st

/-- MIN (R198). Signed minimum. -/
def execMin (d : BitVec 5) (a : BitVec 5) (b : BitVec 5) (s : BitVec 1) (t : BitVec 1) (st : State) : Host.Outcome State Fault Refusal :=
  alu2 minSigned d a b s t st

/-- MAX (R198). Signed maximum. -/
def execMax (d : BitVec 5) (a : BitVec 5) (b : BitVec 5) (s : BitVec 1) (t : BitVec 1) (st : State) : Host.Outcome State Fault Refusal :=
  alu2 maxSigned d a b s t st

/-- MINU (R198). Unsigned minimum. -/
def execMinu (d : BitVec 5) (a : BitVec 5) (b : BitVec 5) (s : BitVec 1) (t : BitVec 1) (st : State) : Host.Outcome State Fault Refusal :=
  alu2 minUnsigned d a b s t st

/-- MAXU (R198). Unsigned maximum. -/
def execMaxu (d : BitVec 5) (a : BitVec 5) (b : BitVec 5) (s : BitVec 1) (t : BitVec 1) (st : State) : Host.Outcome State Fault Refusal :=
  alu2 maxUnsigned d a b s t st

/-- SLT (R198). 1 if rs1 is less than rs2, signed. -/
def execSlt (d : BitVec 5) (a : BitVec 5) (b : BitVec 5) (s : BitVec 1) (t : BitVec 1) (st : State) : Host.Outcome State Fault Refusal :=
  alu2 (fun x y => boolWord (x.slt y)) d a b s t st

/-- SLTU (R198). 1 if rs1 is less than rs2, unsigned. -/
def execSltu (d : BitVec 5) (a : BitVec 5) (b : BitVec 5) (s : BitVec 1) (t : BitVec 1) (st : State) : Host.Outcome State Fault Refusal :=
  alu2 (fun x y => boolWord (x.ult y)) d a b s t st

/-- SEQ (R198). 1 if rs1 equals rs2. -/
def execSeq (d : BitVec 5) (a : BitVec 5) (b : BitVec 5) (s : BitVec 1) (t : BitVec 1) (st : State) : Host.Outcome State Fault Refusal :=
  alu2 (fun x y => boolWord (x == y)) d a b s t st

/-- EXTU (R200). Extracts a zero-extended bit field. -/
def execExtu (d : BitVec 5) (a : BitVec 5) (b : BitVec 5) (s : BitVec 1) (t : BitVec 1) (st : State) : Host.Outcome State Fault Refusal :=
  alu2 extractU d a b s t st

/-- EXTS (R200). Extracts a sign-extended bit field. -/
def execExts (d : BitVec 5) (a : BitVec 5) (b : BitVec 5) (s : BitVec 1) (t : BitVec 1) (st : State) : Host.Outcome State Fault Refusal :=
  alu2 extractS d a b s t st

/-- CMOV (R198). Writes rs1 to rd when rs2 is nonzero. -/
def execCmov (d : BitVec 5) (a : BitVec 5) (b : BitVec 5) (s : BitVec 1) (t : BitVec 1) (st : State) : Host.Outcome State Fault Refusal :=
  finishKeeping [a, b] do
    let x ← readT st a s
    let y ← readT st b t (earlierReads [a] b)
    let st' ← if y = 0 then .ok st else writeX st d x
    .ok (completeReading st' [a, b])

/-- INS (R200). Inserts a bit field into rd. -/
def execIns (d : BitVec 5) (a : BitVec 5) (b : BitVec 5) (s : BitVec 1) (t : BitVec 1) (st : State) : Host.Outcome State Fault Refusal :=
  finishKeeping [a, b, d] do
    let x ← readT st a s
    let y ← readT st b t (earlierReads [a] b)
    let old ← readP st d (earlierReads [a, b] d)
    let st' ← writeX st d (insertField old x y)
    .ok (completeReading st' [a, b, d])

/-- CLZ (R198). Counts leading zero bits. -/
def execClz (d : BitVec 5) (a : BitVec 5) (s : BitVec 1) (st : State) : Host.Outcome State Fault Refusal :=
  alu1 clz32 d a s st

/-- CTZ (R198). Counts trailing zero bits. -/
def execCtz (d : BitVec 5) (a : BitVec 5) (s : BitVec 1) (st : State) : Host.Outcome State Fault Refusal :=
  alu1 ctz32 d a s st

/-- POPC (R198). Counts one bits. -/
def execPopc (d : BitVec 5) (a : BitVec 5) (s : BitVec 1) (st : State) : Host.Outcome State Fault Refusal :=
  alu1 (fun x => BitVec.ofNat 32 (popCount x)) d a s st

/-- BREV (R198). Reverses the bit order. -/
def execBrev (d : BitVec 5) (a : BitVec 5) (s : BitVec 1) (st : State) : Host.Outcome State Fault Refusal :=
  alu1 bitReverse d a s st

/-- BSWAP (R198). Reverses the byte order. -/
def execBswap (d : BitVec 5) (a : BitVec 5) (s : BitVec 1) (st : State) : Host.Outcome State Fault Refusal :=
  alu1 byteSwap d a s st

/-- SLLI (R198). Logical left shift by an immediate amount. -/
def execSlli (d : BitVec 5) (a : BitVec 5) (n : BitVec 5) (s : BitVec 1) (st : State) : Host.Outcome State Fault Refusal :=
  alu1 (fun x => x <<< n.toNat) d a s st

/-- SRLI (R198). Logical right shift by an immediate amount. -/
def execSrli (d : BitVec 5) (a : BitVec 5) (n : BitVec 5) (s : BitVec 1) (st : State) : Host.Outcome State Fault Refusal :=
  alu1 (fun x => x >>> n.toNat) d a s st

/-- SRAI (R198). Arithmetic right shift by an immediate amount. -/
def execSrai (d : BitVec 5) (a : BitVec 5) (n : BitVec 5) (s : BitVec 1) (st : State) : Host.Outcome State Fault Refusal :=
  alu1 (fun x => x.sshiftRight n.toNat) d a s st

/-- ADDI (R201). Adds a sign-extended 15-bit immediate. -/
def execAddi (d : BitVec 5) (a : BitVec 5) (s : BitVec 1) (i : BitVec 15) (st : State) : Host.Outcome State Fault Refusal :=
  alu1 (fun x => x + i.signExtend 32) d a s st

/-- ANDI (R201). ANDs with a sign-extended immediate. -/
def execAndi (d : BitVec 5) (a : BitVec 5) (s : BitVec 1) (i : BitVec 15) (st : State) : Host.Outcome State Fault Refusal :=
  alu1 (fun x => x &&& i.signExtend 32) d a s st

/-- ORI (R201). ORs with a sign-extended immediate. -/
def execOri (d : BitVec 5) (a : BitVec 5) (s : BitVec 1) (i : BitVec 15) (st : State) : Host.Outcome State Fault Refusal :=
  alu1 (fun x => x ||| i.signExtend 32) d a s st

/-- XORI (R201). XORs with a sign-extended immediate. -/
def execXori (d : BitVec 5) (a : BitVec 5) (s : BitVec 1) (i : BitVec 15) (st : State) : Host.Outcome State Fault Refusal :=
  alu1 (fun x => x ^^^ i.signExtend 32) d a s st

/-- SLTI (R201). Signed compare against an immediate. -/
def execSlti (d : BitVec 5) (a : BitVec 5) (s : BitVec 1) (i : BitVec 15) (st : State) : Host.Outcome State Fault Refusal :=
  alu1 (fun x => boolWord (x.slt (i.signExtend 32))) d a s st

/-- SLTIU (R201). Unsigned compare against a sign-extended immediate. -/
def execSltiu (d : BitVec 5) (a : BitVec 5) (s : BitVec 1) (i : BitVec 15) (st : State) : Host.Outcome State Fault Refusal :=
  alu1 (fun x => boolWord (x.ult (i.signExtend 32))) d a s st

/-- LIH (R202). Loads imm21 into rd bits [31:11]. -/
def execLih (d : BitVec 5) (i : BitVec 21) (st : State) : Host.Outcome State Fault Refusal :=
  alu0 (i ++ (0 : BitVec 11)) d st

/-- ADDPC (R202). rd gets the low word of a PC-relative address. -/
def execAddpc (d : BitVec 5) (i : BitVec 21) (st : State) : Host.Outcome State Fault Refusal :=
  alu0 ((pcRelative st.th.pc i).setWidth 32) d st

/-- NOP (R184). A hint word executes as a no-op in one issue cycle. -/
def execNop (h : BitVec 26) (st : State) : Host.Outcome State Fault Refusal :=
  .next (complete st)

end Sys2Proof.Machine
end

