-- ==== Sys2Proof/Machine/BaseRegs.lean ====
section
/-!
DEFINITION. Sys2Proof/Machine/BaseRegs.lean: the base-register forms that touch no memory (R204, R205).
-/

namespace Sys2Proof.Machine

/-- BSET (R204). Builds a base register from two scalar words. -/
def execBset (d : BitVec 3) (a : BitVec 5) (b : BitVec 5) (s : BitVec 1) (t : BitVec 1) (st : State) : Host.Outcome State Fault Refusal :=
  finishKeeping [a, b] do
    let lo ← readT st a s
    let hi ← readT st b t (earlierReads [a] b)
    let st' ← writeB st d (hi ++ lo)
    .ok (completeReading st' [a, b])

/-- BGET_LO (R204). Reads the low word of a base register. -/
def execBgetLo (d : BitVec 5) (a : BitVec 3) (s : BitVec 1) (st : State) : Host.Outcome State Fault Refusal :=
  finish do
    let x ← readB st a (s == 1)
    let st' ← writeX st d (x.extractLsb' 0 32)
    .ok (complete st')

/-- BGET_HI (R204). Reads the high word of a base register. -/
def execBgetHi (d : BitVec 5) (a : BitVec 3) (s : BitVec 1) (st : State) : Host.Outcome State Fault Refusal :=
  finish do
    let x ← readB st a (s == 1)
    let st' ← writeX st d (x.extractLsb' 32 32)
    .ok (complete st')

/-- BADD (R204). Adds a sign-extended scalar to a base. -/
def execBadd (d : BitVec 3) (a : BitVec 3) (b : BitVec 5) (s : BitVec 1) (t : BitVec 1) (st : State) : Host.Outcome State Fault Refusal :=
  finishKeeping [b] do
    let x ← readB st a (s == 1)
    let y ← readT st b t
    let st' ← writeB st d (x + y.signExtend 64)
    .ok (completeReading st' [b])

/-- BMOV (R204). Copies a base register. -/
def execBmov (d : BitVec 3) (a : BitVec 3) (s : BitVec 1) (st : State) : Host.Outcome State Fault Refusal :=
  finish do
    let x ← readB st a (s == 1)
    let st' ← writeB st d x
    .ok (complete st')

/-- BADDI (R205). Adds a sign-extended immediate to a base. -/
def execBaddi (d : BitVec 3) (a : BitVec 3) (s : BitVec 1) (i : BitVec 15) (st : State) : Host.Outcome State Fault Refusal :=
  finish do
    let x ← readB st a (s == 1)
    let st' ← writeB st d (x + i.signExtend 64)
    .ok (complete st')

/-- BLEA (R205). Sets a base to a PC-relative address. -/
def execBlea (d : BitVec 3) (i : BitVec 21) (st : State) : Host.Outcome State Fault Refusal :=
  finish do
    let st' ← writeB st d (pcRelative st.th.pc i)
    .ok (complete st')

end Sys2Proof.Machine
end

