-- ==== Sys2Proof/Machine/Branch.lean ====
section
/-!
DEFINITION. Sys2Proof/Machine/Branch.lean: branches, jumps, calls and returns (R206 to R209).
-/

namespace Sys2Proof.Machine

/-- Where a branch goes on (R206). -/
def branchPc {w : Nat} (st : State) (taken : Bool) (off : BitVec w) : DWord :=
  if taken then pcRelative st.th.pc off else nextPc st.th.pc

/-- A branch on two sources, both under TH_STAT.PTRAP. -/
def branch2 (taken : Word → Word → Bool) (a b : BitVec 5) (i : BitVec 13) (st : State) :
    Host.Outcome State Fault Refusal :=
  finish do
    let x ← readP st a
    let y ← readP st b (earlierReads [a] b)
    .ok (completeAt ([a, b].foldl popPort st) (branchPc st (taken x y) i))

/-- A branch on one bit of a source. -/
def branchBit (want : Bool) (a : BitVec 5) (n : BitVec 5) (i : BitVec 13) (st : State) :
    Host.Outcome State Fault Refusal :=
  finish do
    let x ← readP st a
    .ok (completeAt ([a].foldl popPort st) (branchPc st (x.getLsbD n.toNat == want) i))

/-- The rotation of a call, after the spill it may need (R209). -/
def callTo (st : State) (target : DWord) (kind : BitVec 2) : Eff State := do
  let st' ← spillIfNeeded st
  .ok (completeAt (rotateIn st' { retPc := nextPc st.th.pc, kind := kind }) target)

/-- BEQ (R206). Branches when the registers are equal. -/
def execBeq (a : BitVec 5) (b : BitVec 5) (i : BitVec 13) (st : State) : Host.Outcome State Fault Refusal :=
  branch2 (fun x y => x == y) a b i st

/-- BNE (R206). Branches when the registers differ. -/
def execBne (a : BitVec 5) (b : BitVec 5) (i : BitVec 13) (st : State) : Host.Outcome State Fault Refusal :=
  branch2 (fun x y => x != y) a b i st

/-- BLT (R206). Branches when less, signed. -/
def execBlt (a : BitVec 5) (b : BitVec 5) (i : BitVec 13) (st : State) : Host.Outcome State Fault Refusal :=
  branch2 (fun x y => x.slt y) a b i st

/-- BGE (R206). Branches when greater or equal, signed. -/
def execBge (a : BitVec 5) (b : BitVec 5) (i : BitVec 13) (st : State) : Host.Outcome State Fault Refusal :=
  branch2 (fun x y => !x.slt y) a b i st

/-- BLTU (R206). Branches when less, unsigned. -/
def execBltu (a : BitVec 5) (b : BitVec 5) (i : BitVec 13) (st : State) : Host.Outcome State Fault Refusal :=
  branch2 (fun x y => x.ult y) a b i st

/-- BGEU (R206). Branches when greater or equal, unsigned. -/
def execBgeu (a : BitVec 5) (b : BitVec 5) (i : BitVec 13) (st : State) : Host.Outcome State Fault Refusal :=
  branch2 (fun x y => !x.ult y) a b i st

/-- BBS (R206). Branches when a named bit is set. -/
def execBbs (a : BitVec 5) (n : BitVec 5) (i : BitVec 13) (st : State) : Host.Outcome State Fault Refusal :=
  branchBit true a n i st

/-- BBC (R206). Branches when a named bit is clear. -/
def execBbc (a : BitVec 5) (n : BitVec 5) (i : BitVec 13) (st : State) : Host.Outcome State Fault Refusal :=
  branchBit false a n i st

/-- LOOP (R207). Decrements rs1 and branches while the result is nonzero. -/
def execLoop (a : BitVec 5) (i : BitVec 13) (st : State) : Host.Outcome State Fault Refusal :=
  finish do
    let x ← readP st a
    let st' ← writeX st a (x - 1)
    .ok (completeAt st' (branchPc st (x - 1 != 0) i))

/-- J (R208). Jumps PC-relative. -/
def execJ (i : BitVec 26) (st : State) : Host.Outcome State Fault Refusal :=
  .next (completeAt st (pcRelative st.th.pc i))

/-- JB (R208). Jumps to the address in a base register. -/
def execJb (b : BitVec 3) (t : BitVec 1) (st : State) : Host.Outcome State Fault Refusal :=
  finish do
    let x ← readB st b (t == 1)
    require (x.toNat % 4 == 0) (misaligned st x)
    .ok (completeAt st x)

/-- CALL (R209). Rotates the window and calls PC-relative. -/
def execCall (i : BitVec 26) (st : State) : Host.Outcome State Fault Refusal :=
  finish do
    require (!st.th.inpl) (illegalOperand st)
    callTo st (pcRelative st.th.pc i) 0

/-- CALLB (R209). Rotates the window and calls the address in a base. -/
def execCallb (b : BitVec 3) (t : BitVec 1) (st : State) : Host.Outcome State Fault Refusal :=
  finish do
    require (!st.th.inpl) (illegalOperand st)
    let x ← readB st b (t == 1)
    require (x.toNat % 4 == 0) (misaligned st x)
    callTo st x 1

/-- RET (R209). Returns from a call frame and rotates the window back. DESIGN CHOICE (log entry 77): it waits for producers in
flight to the `k0` to `k3` of the frame it leaves, too. -/
def execRet (st : State) : Host.Outcome State Fault Refusal :=
  finish do
    let th := st.th
    require ((topFrame th).kind != 3) (illegalOperand st)
    require (decide (1 < th.resident) || spilledExist th)
      (.trap st { cause := .windowUnderflow, tval := th.wsptr.setWidth 64 })
    waitFor (!frameBusy th th.cwp && !(List.range 4).any (fun i => (lookD th.scal (16 * (th.cwp + 1).toNat + i) {}).busy)) st
    if 1 < th.resident then
      .ok (completeAt (st.setTh (rotateOut th)) (topFrame th).retPc)
    else
      require (!windowBad th) (.trap st { cause := .windowOverflow, tval := th.wsptr.setWidth 64 })
      frameReadable st
      let st' := fillFrame st st.cur
      .ok (completeAt (st'.setTh (rotateOut st'.th)) (topFrame th).retPc)

end Sys2Proof.Machine
end

