-- ==== Sys2Proof/Machine/Float.lean ====
section
/-!
DEFINITION. Sys2Proof/Machine/Float.lean: scalar FP32 (R213 to R215).
-/

namespace Sys2Proof.Machine

/-- The rounding mode of TH_FPCR (R131). -/
def fpMode (st : State) : Nat := st.th.fpcr.toNat % 8

/-- TH_FPCR.SATN (R131). -/
def fpSat (st : State) : Bool := st.th.fpcr.getLsbD 3

/-- The mode of a rounding code: code 7 selects TH_FPCR.RM (R130). -/
def roundMode (st : State) (r : BitVec 3) : Nat := if r = 7 then fpMode st else r.toNat

/-- A float form with two sources: the result in rd, the flags in TH_FFLAGS. -/
def fp2 (f : Nat → Nat → Nat × Raised) (d a b : BitVec 5) (s t : BitVec 1) (st : State) :
    Host.Outcome State Fault Refusal :=
  finishKeeping [a, b] do
    let x ← readT st a s
    let y ← readT st b t (earlierReads [a] b)
    let r := f x.toNat y.toNat
    let st' ← writeX st d (BitVec.ofNat 32 r.1)
    .ok (completeReading (raise st' r.2) [a, b])

/-- A float form with one source. -/
def fp1 (f : Word → Word × Raised) (d a : BitVec 5) (s : BitVec 1) (st : State) : Host.Outcome State Fault Refusal :=
  finishKeeping [a] do
    let x ← readT st a s
    let r := f x
    let st' ← writeX st d r.1
    .ok (completeReading (raise st' r.2) [a])

/-- A comparison's result as a word. -/
def compareWord (r : Bool × Raised) : Nat × Raised := (if r.1 then 1 else 0, r.2)

/-- FADD (R213). FP32 add, rounded once. -/
def execFadd (d : BitVec 5) (a : BitVec 5) (b : BitVec 5) (s : BitVec 1) (t : BitVec 1) (st : State) : Host.Outcome State Fault Refusal :=
  fp2 (fpAdd 11 (fpMode st) (fpSat st)) d a b s t st

/-- FSUB (R213). FP32 subtract. -/
def execFsub (d : BitVec 5) (a : BitVec 5) (b : BitVec 5) (s : BitVec 1) (t : BitVec 1) (st : State) : Host.Outcome State Fault Refusal :=
  fp2 (fpSub 11 (fpMode st) (fpSat st)) d a b s t st

/-- FMUL (R213). FP32 multiply. -/
def execFmul (d : BitVec 5) (a : BitVec 5) (b : BitVec 5) (s : BitVec 1) (t : BitVec 1) (st : State) : Host.Outcome State Fault Refusal :=
  fp2 (fpMul 11 (fpMode st) (fpSat st)) d a b s t st

/-- FDIV (R213). FP32 divide. -/
def execFdiv (d : BitVec 5) (a : BitVec 5) (b : BitVec 5) (s : BitVec 1) (t : BitVec 1) (st : State) : Host.Outcome State Fault Refusal :=
  fp2 (fpDiv 11 (fpMode st) (fpSat st)) d a b s t st

/-- FMIN (R139). FP32 minimum. -/
def execFmin (d : BitVec 5) (a : BitVec 5) (b : BitVec 5) (s : BitVec 1) (t : BitVec 1) (st : State) : Host.Outcome State Fault Refusal :=
  fp2 (fpMinMax 11 false) d a b s t st

/-- FMAX (R139). FP32 maximum. -/
def execFmax (d : BitVec 5) (a : BitVec 5) (b : BitVec 5) (s : BitVec 1) (t : BitVec 1) (st : State) : Host.Outcome State Fault Refusal :=
  fp2 (fpMinMax 11 true) d a b s t st

/-- FEQ (R213). Quiet FP32 equality compare. -/
def execFeq (d : BitVec 5) (a : BitVec 5) (b : BitVec 5) (s : BitVec 1) (t : BitVec 1) (st : State) : Host.Outcome State Fault Refusal :=
  fp2 (fun x y => compareWord (fpCompare 11 true eqNum x y)) d a b s t st

/-- FLT (R213). Ordered FP32 less-than compare. -/
def execFlt (d : BitVec 5) (a : BitVec 5) (b : BitVec 5) (s : BitVec 1) (t : BitVec 1) (st : State) : Host.Outcome State Fault Refusal :=
  fp2 (fun x y => compareWord (fpCompare 11 false ltNum x y)) d a b s t st

/-- FLE (R213). Ordered FP32 less-or-equal compare. -/
def execFle (d : BitVec 5) (a : BitVec 5) (b : BitVec 5) (s : BitVec 1) (t : BitVec 1) (st : State) : Host.Outcome State Fault Refusal :=
  fp2 (fun x y => compareWord (fpCompare 11 false leNum x y)) d a b s t st

/-- FMA (R213). Fused FP32 multiply-add with rd as addend. -/
def execFma (d : BitVec 5) (a : BitVec 5) (b : BitVec 5) (s : BitVec 1) (t : BitVec 1) (st : State) : Host.Outcome State Fault Refusal :=
  finishKeeping [a, b, d] do
    let x ← readT st a s
    let y ← readT st b t (earlierReads [a] b)
    let z ← readP st d (earlierReads [a, b] d)
    let r := fpFma 11 (fpMode st) (fpSat st) x.toNat y.toNat z.toNat
    let st' ← writeX st d (BitVec.ofNat 32 r.1)
    .ok (completeReading (raise st' r.2) [a, b, d])

/-- FSQRT (R213). FP32 square root. -/
def execFsqrt (d : BitVec 5) (a : BitVec 5) (s : BitVec 1) (st : State) : Host.Outcome State Fault Refusal :=
  fp1 (fun x =>
    let r := fpSqrt 11 (fpMode st) (fpSat st) x.toNat
    (BitVec.ofNat 32 r.1, r.2)) d a s st

/-- FCLASS (R214). Sets one bit naming the FP32 class. -/
def execFclass (d : BitVec 5) (a : BitVec 5) (s : BitVec 1) (st : State) : Host.Outcome State Fault Refusal :=
  fp1 (fun x => (BitVec.ofNat 32 (fpClass x.toNat), {})) d a s st

/-- FCVTI (R215). Converts FP32 to INT32. -/
def execFcvti (d : BitVec 5) (a : BitVec 5) (s : BitVec 1) (q : BitVec 1) (r : BitVec 3) (st : State) : Host.Outcome State Fault Refusal :=
  fp1 (fun x =>
    let r := encodeElem 1 (roundMode st r) (q == 1) (decodeElem 11 x.toNat).1
    (BitVec.ofNat 32 r.1, r.2)) d a s st

/-- FCVTF (R215). Converts INT32 to FP32. -/
def execFcvtf (d : BitVec 5) (a : BitVec 5) (s : BitVec 1) (r : BitVec 3) (st : State) : Host.Outcome State Fault Refusal :=
  fp1 (fun x =>
    let r := encodeElem 11 (roundMode st r) (fpSat st) (decodeElem 1 x.toNat).1
    (BitVec.ofNat 32 r.1, r.2)) d a s st

end Sys2Proof.Machine
end

