-- ==== Sys2Proof/Machine/ThreadRegs.lean ====
section
/-!
DEFINITION. Sys2Proof/Machine/ThreadRegs.lean: the registers of the group TH_ as words (R317), and their writes under the field
access of R315. A register of 64 bits is numbered by its even number.
-/

namespace Sys2Proof.Machine

/-! ## Reads -/

/-- The half of a 64-bit value that an odd or an even number names (R316). -/
def halfOf (x : DWord) (odd : Bool) : Word := if odd then (x >>> 32).setWidth 32 else x.setWidth 32

/-- Bits hi to lo of a value, in place. -/
def keepBits (x : DWord) (hi lo : Nat) : DWord := x &&& (BitVec.ofNat 64 (2 ^ (hi + 1) - 2 ^ lo))

/-- TH_FFLAGS as it reads (R132). -/
def fflagsWord (th : Thread) : Word := th.fflags.setWidth 32

/-- TH_CBATCH (R88). -/
def cbatchWord (th : Thread) : Word := th.openBatch.number ++ (0 : BitVec 11) ++ BitVec.ofNat 5 th.sealed.length

/-- TH_CFAULT (R91). -/
def cfaultWord (c : CopyFault) : DWord := c.done ++ c.batch ++ c.cause ++ c.req ++ bit c.ovf ++ bit c.v

/-- TH_PLSRC (R388). -/
def plsrcWord (th : Thread) : Word :=
  th.plens ++ bit th.noteBarrier.isSome ++ bit (!th.noteFault.isEmpty) ++ bit th.noteLease.isSome ++ bit th.noteBatch.isSome ++
    bit th.plbsub ++ th.plbnum ++ th.plsrc ++ th.pldata

/-- A thread register by its number, a 64-bit one by its even number (R317); none where the number names none. -/
def thValue (th : Thread) (t n : Nat) : Option DWord :=
  if n = 0x001 then some ((statWord th t).setWidth 64)
  else if n = 0x002 then some ((fflagsWord th).setWidth 64)
  else if n = 0x003 then some (th.fpcr.setWidth 64)
  else if n = 0x008 then some th.epc
  else if n = 0x00A then some (th.cause.setWidth 64)
  else if n = 0x00C then some th.tval
  else if n = 0x00E then some th.upvec
  else if n = 0x010 then some th.plvec
  else if n = 0x012 then some th.plpc
  else if n = 0x014 then some ((plsrcWord th).setWidth 64)
  else if n = 0x020 then some (th.wsbase.setWidth 64)
  else if n = 0x021 then some (th.wslim.setWidth 64)
  else if n = 0x022 then some (th.wsptr.setWidth 64)
  else if 0x028 ≤ n ∧ n ≤ 0x02E ∧ n % 2 = 0 then some (lookD th.cwbase ((n - 0x028) / 2) 0)
  else if 0x030 ≤ n ∧ n ≤ 0x033 then some ((lookD th.cwsize (n - 0x030) 0).setWidth 64)
  else if n = 0x040 then some ((cbatchWord th).setWidth 64)
  else if n = 0x042 then some (cfaultWord th.cfault)
  else if n = 0x044 then some th.cfaddr
  else if 0x050 ≤ n ∧ n ≤ 0x053 then some ((lstatWord (lookD th.leases (n - 0x050) {})).setWidth 64)
  else if n = 0x060 then some (th.feretry.setWidth 64)
  else if n = 0x061 then some (th.rsvhold.setWidth 64)
  else if n = 0x062 then some th.waitdl
  else if n = 0x064 then some (th.sendlim.setWidth 64)
  else none

/-- Whether a number is the even number of a 64-bit register of the group TH_. -/
def thWide (n : Nat) : Bool :=
  n == 0x008 || n == 0x00C || n == 0x00E || n == 0x010 || n == 0x012 || (decide (0x028 ≤ n) && decide (n ≤ 0x02E) && n % 2 == 0) ||
    n == 0x042 || n == 0x044 || n == 0x062

/-- The word at a number of the group TH_, 0 where it names no register: what an image holds (R371). -/
def thWordAt (th : Thread) (t n : Nat) : Word :=
  if n % 2 = 1 ∧ thWide (n - 1) then halfOf ((thValue th t (n - 1)).getD 0) true
  else halfOf ((thValue th t n).getD 0) false

/-! ## Writes -/

/-- The RW fields of the registers of the group TH_ (R100, R103, R106, R131, R230, R238, R242, R300, R319, R376, R379, R388). -/
def thFields (n : Nat) : DWord :=
  if n = 0x001 then 0x20000001
  else if n = 0x003 then 0xF
  else if n = 0x008 ∨ n = 0x010 ∨ n = 0x012 then 0xFFFFFFFFFFFFFFFC
  else if n = 0x00A then 0xF8FFF03F
  else if n = 0x00C ∨ n = 0x062 then 0xFFFFFFFFFFFFFFFF
  else if n = 0x00E then 0xFFFFFFFFFFFFFFFD
  else if n = 0x014 then 0xF0F80000
  else if 0x020 ≤ n ∧ n ≤ 0x022 then 0x7FFF
  else if 0x028 ≤ n ∧ n ≤ 0x02E then 0xFFFFFFFFFFFFFFFC
  else if 0x030 ≤ n ∧ n ≤ 0x033 then 0x8001FFFF
  else if n = 0x060 then 0xFFFFFF
  else if n = 0x061 ∨ n = 0x064 then 0xFFFFF
  else 0

/-- A size of R103. -/
def cwSizeOk (v : Nat) : Bool := decide (v % 2 ^ 17 ≤ 65536) && v % 4 == 0

/-- A write of a whole register of the group TH_, with its field access: a value of reserved bits is not kept. -/
def thWrite (th : Thread) (n : Nat) (v : DWord) : Thread :=
  let w := v &&& thFields n
  if n = 0x001 then { th with plen := w.getLsbD 29, ptrap := w.getLsbD 0, cwoob := th.cwoob && !v.getLsbD 1 }
  else if n = 0x002 then { th with fflags := th.fflags &&& ~~~(v.setWidth 11) }
  else if n = 0x003 then if 4 < w.toNat % 8 then th else { th with fpcr := w.setWidth 4 }
  else if n = 0x008 then { th with epc := w }
  else if n = 0x00A then { th with cause := w.setWidth 32 }
  else if n = 0x00C then { th with tval := w }
  else if n = 0x00E then { th with upvec := w }
  else if n = 0x010 then { th with plvec := w }
  else if n = 0x012 then { th with plpc := w }
  else if n = 0x014 then { th with plens := w.extractLsb' 28 4, plbsub := w.getLsbD 23, plbnum := w.extractLsb' 19 4 }
  else if n = 0x020 then { th with wsbase := w.setWidth 15 }
  else if n = 0x021 then { th with wslim := w.setWidth 15 }
  else if n = 0x022 then { th with wsptr := w.setWidth 15 }
  else if 0x028 ≤ n ∧ n ≤ 0x02E then { th with cwbase := put th.cwbase ((n - 0x028) / 2) w }
  else if 0x030 ≤ n ∧ n ≤ 0x033 then
    if cwSizeOk w.toNat then { th with cwsize := put th.cwsize (n - 0x030) (w.setWidth 32) } else th
  else if n = 0x042 then { th with cfault := { th.cfault with ovf := th.cfault.ovf && !v.getLsbD 1, v := th.cfault.v && !v.getLsbD 0 } }
  else if 0x050 ≤ n ∧ n ≤ 0x053 then
    if v.getLsbD 22 then
      { th with leases := put th.leases (n - 0x050) { lookD th.leases (n - 0x050) {} with ev := false } }
    else th
  else if n = 0x060 then { th with feretry := w.setWidth 24 }
  else if n = 0x061 then { th with rsvhold := w.setWidth 20 }
  else if n = 0x062 then { th with waitdl := w }
  else if n = 0x064 then { th with sendlim := w.setWidth 20 }
  else th

end Sys2Proof.Machine
end

