-- ==== Sys2Proof/Machine/Preempt.lean ====
section
/-!
DEFINITION. Sys2Proof/Machine/Preempt.lean: thread images, pre-emption and restore, displacement and re-placement of blocks,
protected images, and the ending of a block (R369 to R373, R378, R391, R413 to R419).
-/

namespace Sys2Proof.Machine

/-! ## Save areas (R369, R373, R416, R417) -/

def saveBase (st : State) (vi : Nat) : Nat := (st.viOf vi).savebase.toNat / 2 ^ 28 * 2 ^ 28
def saveEnabled (st : State) (vi : Nat) : Bool := (st.viOf vi).savebase.getLsbD 0

/-- The image of a thread, and the block area of a cluster. -/
def imageOf (base t : Nat) : Nat := base + t * 0x1000
def areaOf (base cl : Nat) : Nat := base + 0x1000000 + cl * 0x400000

/-- A line written at its home by a cluster (R92: as it is). -/
def putLine (st : State) (cl addr : Nat) (x : Line) : State :=
  let (st, wts) := homeMerge st 0 (addr / 64) x (BitVec.allOnes 512) (st.cluster cl).clock
  raiseCluster st cl wts

/-- n lines of a number, lowest first. -/
def putLines (st : State) (cl addr : Nat) : Nat → Nat → State
  | 0, _ => st
  | n + 1, v => putLines (putLine st cl addr (BitVec.ofNat 512 v)) cl (addr + 64) n (v / 2 ^ 512)

/-! ## Protected images (R413 to R417) -/

/-- The save key of a context is a key of its own (R414). -/
def saveKey (ctx : Nat) : Nat := ctx + 65536

/-- The nonce of line i of an image. -/
def saveNonce (counter i owner : Nat) : Nat := counter + i * 2 ^ 64 + owner * 2 ^ 80

/-- A sealed line with its tag. -/
def putSealed (st : State) (cl addr ctx nonce : Nat) (x : Line) : State :=
  let y := x ^^^ Config.keystream (saveKey ctx) st.module.era nonce
  let st := putLine st cl addr y
  { st with bridge := { st.bridge with seals := put st.bridge.seals (addr / 64) (Config.sealTag (saveKey ctx) st.module.era nonce y) } }

/-- n body lines from line i on. -/
def putBody (st : State) (cl addr ctx counter owner : Nat) : Nat → Nat → Nat → State
  | 0, _, _ => st
  | n + 1, i, v =>
    putBody (putSealed st cl addr ctx (saveNonce counter i owner) (BitVec.ofNat 512 v)) cl (addr + 64) ctx counter owner n (i + 1)
      (v / 2 ^ 512)

/-- The header of an image (R414). It stands in the clear, with a tag: its COUNTER is needed to open anything. -/
def headerOf (ctx owner counter lines : Nat) : Line :=
  BitVec.ofNat 512 (0x47535631 + ctx * 2 ^ 32 + owner * 2 ^ 48 + counter * 2 ^ 64 + lines * 2 ^ 128)

/-- The next save counter of a core, recorded for a slot, a bank or a region (R413). -/
def takeCounter (st : State) (core kind : Nat) : State × Nat :=
  let c := st.core core
  (st.setCore core { c with saveCount := c.saveCount + 1, latest := put c.latest kind c.saveCount }, c.saveCount)

/-- A protected image written: header and body. -/
def putImage (st : State) (core ctx kind owner header body lines v : Nat) : State :=
  let cl := clusterOf core
  let (st, n) := takeCounter st core kind
  let h := headerOf ctx owner n lines
  let st := putLine st cl header h
  let tag := Config.sealTag (saveKey ctx) st.module.era (saveNonce n 0 owner) h
  let st := { st with bridge := { st.bridge with seals := put st.bridge.seals (header / 64) tag } }
  putBody st cl body ctx n owner lines 1 v

/-- The body of a protected image opened, with every tag checked (step 4 of R415). DESIGN CHOICE (log entry 59): the tag of a
line with an uncorrectable error does not check. -/
def openBody (st : State) (ctx counter owner : Nat) : Nat → Nat → Nat → Except (Cause × DWord) Nat
  | 0, _, _ => .ok 0
  | n + 1, addr, i => do
    let y := lineBytes st (addr / 64)
    let nonce := saveNonce counter i owner
    if st.bridge.poisoned.contains (addr / 64) ∨
        lookD st.bridge.seals (addr / 64) 0 ≠ Config.sealTag (saveKey ctx) st.module.era nonce y then
      .error (.sealFail, BitVec.ofNat 64 addr)
    else
      let rest ← openBody st ctx counter owner n (addr + 64) (i + 1)
      .ok ((y ^^^ Config.keystream (saveKey ctx) st.module.era nonce).toNat + 2 ^ 512 * rest)

/-- The checks of R415 on an image that was sealed in an era, for the context of its target. -/
def openImage (st : State) (core ctx era kind owner header body lines : Nat) : Except (Cause × DWord) Nat :=
  let h := lineBytes st (header / 64)
  let counter := h.toNat / 2 ^ 64 % 2 ^ 64
  let sealedFor := h.toNat / 2 ^ 32 % 2 ^ 16
  let tag := Config.sealTag (saveKey sealedFor) st.module.era (saveNonce counter 0 owner) h
  if era ≠ st.module.era ∨ st.bridge.poisoned.contains (header / 64) ∨ lookD st.bridge.seals (header / 64) 0 ≠ tag then .error (.sealFail, BitVec.ofNat 64 header)
  else if sealedFor ≠ ctx ∨ ctx = 0 then .error (.sealFail, BitVec.ofNat 64 header)
  else if counter < lookD (st.core core).latest kind 0 then .error (.saveStale, BitVec.ofNat 64 counter)
  else openBody st ctx counter owner lines body 1

/-! ## The image of a thread (R371) -/

/-- A number from the parts that stand in it: offset, bytes, value. -/
def imageFrom (parts : List (Nat × Nat × Nat)) : Nat := (parts.map (fun p => p.2.2 % 2 ^ (8 * p.2.1) * 2 ^ (8 * p.1))).sum

/-- n bytes of an image from an offset. -/
def partOf (image off n : Nat) : Nat := image / 2 ^ (8 * off) % 2 ^ (8 * n)

/-- Bits by number, lowest first. -/
def bitsFrom (l : List Bool) : Nat := (l.zipIdx.map (fun b => if b.1 then 2 ^ b.2 else 0)).sum

/-- The places of `k0` to `k3` of the newest frame, and of `g1` to `g7`. -/
def kPlaces (th : Thread) : List Nat := (List.range 4).map (fun i => 16 * (th.cwp + 1).toNat + i)
def gPlaces : List Nat := (List.range 7).map (fun i => 129 + i)

/-- The ring positions of the resident frames, oldest first. -/
def residentPos (cwp : BitVec 3) (n : Nat) : List (BitVec 3) := (List.range n).map (fun i => cwp - BitVec.ofNat 3 (n - 1 - i))

/-- A thread's image. -/
def threadImage (st : State) (t : Nat) : Nat :=
  let th := st.thread t
  let rs := recordsOf st t
  let cell (p : Nat) : Cell 32 := lookD th.scal p {}
  let words (off : Nat) (l : List Nat) : List (Nat × Nat × Nat) := l.zipIdx.map (fun x => (off + 4 * x.2, 4, x.1))
  imageFrom ([(0x000, 8, th.pc.toNat), (0x008, 4, (statWord th t).toNat), (0x00C, 4, th.profile.toNat),
      (0x010, 8, bitsFrom ((List.range 64).map (fun i => (th.vecReg i).full))),
      (0x018, 4, bitsFrom (gPlaces.map (fun p => (cell p).full)) +
        2 ^ 9 * bitsFrom ((List.range 7).map (fun i => (lookD th.base (i + 1) {}).full)) + 2 ^ 16 * th.resident +
        2 ^ 19 * bitsFrom ((kPlaces th).map (fun p => (cell p).full))),
      (0x01C, 4, rs.length),
      (0x030, 4, ((th.staged.map (fun x => x.2.toNat)).getD 0)),
      (0x034, 4, ((th.staged.map (fun x => x.1.toNat + 2 ^ 12)).getD 0)),
      (0x038, 4, th.tok.toNat + 2 ^ 8 * th.noteFault.length + 2 ^ 12 * th.cls.toNat)] ++
    words 0x020 ((kPlaces th).map (fun p => (cell p).val.toNat)) ++
    (residentPos th.cwp th.resident).zipIdx.map (fun x => (0x040 + 80 * x.2, 80, frameImage th x.1)) ++
    words 0x180 (gPlaces.map (fun p => (cell p).val.toNat)) ++
    (List.range 8).map (fun i => (0x1A0 + 8 * i, 8, if i = 0 then 0 else (lookD th.base i {}).val.toNat)) ++
    words 0x1E0 ((List.range 8).map (fun i => (th.predReg (BitVec.ofNat 3 i)).toNat)) ++
    (List.range 64).map (fun i => (0x200 + 32 * i, 32, (th.vecReg i).val.toNat)) ++
    (List.range 4).flatMap (fun e => words (0xA00 + 128 * e) ((List.range 16).map (fun k => (ecRead (lookD th.leases e {}) k).toNat))) ++
    words 0xC00 ((List.range 101).map (fun n => (thWordAt th t n).toNat)) ++
    th.noteFault.zipIdx.map (fun x => (0xDA0 + 2 * x.2, 2, x.1.toNat)) ++
    rs.zipIdx.map (fun x => (0xE00 + 32 * x.2, 32, recordImage x.1)))

/-- The causes by code. -/
def allCauses : List Cause :=
  [.illegalInstr, .privInstr, .illegalOperand, .breakpoint, .svcCall, .monitorCall, .windowOverflow, .windowUnderflow, .paramUnbound,
   .translationFault, .permissionFault, .subpageFault, .misaligned, .lsWindowFault, .storeFault, .feHost, .crangeConflict, .linkFault,
   .memUncorrectable, .presenceEmpty, .sendStall, .barrierFault, .reservationState, .leaseEvicted, .copyFault, .carStaleName,
   .carSetFull, .carCollision, .sealFail, .saveStale, .machineCheck]

/-- A store-fault record read back (R383). -/
def recordFrom (v : Nat) : Option StoreRecord :=
  (allCauses.find? (fun c => c.code.toNat == partOf v 26 1 % 64)).map (fun c =>
    { va := BitVec.ofNat 64 v, data := BitVec.ofNat 64 (partOf v 8 8), pc := BitVec.ofNat 64 (partOf v 16 8),
      size := BitVec.ofNat 8 (partOf v 24 1), slot := BitVec.ofNat 3 (partOf v 25 1), cause := c,
      kind := BitVec.ofNat 8 (partOf v 27 1), mask := BitVec.ofNat 32 (partOf v 28 4) })

/-- The store-fault records an image holds. -/
def imageRecords (image : Nat) : List StoreRecord :=
  (List.range (min 8 (partOf image 0x01C 4))).filterMap (fun i => recordFrom (partOf image (0xE00 + 32 * i) 32))

/-- The thread registers that an image gives back: those the hardware does not go on writing while the thread is saved. -/
def restoredRegs : List Nat :=
  [0x003, 0x008, 0x00A, 0x00C, 0x00E, 0x010, 0x012, 0x014, 0x020, 0x021, 0x022, 0x028, 0x02A, 0x02C, 0x02E, 0x030, 0x031, 0x032, 0x033,
   0x060, 0x061, 0x062, 0x064]

/-- Registers with the values and the presence that an image holds. -/
def putCells (m : AMap (Cell 32)) (places : List Nat) (image off presence : Nat) : AMap (Cell 32) :=
  places.zipIdx.foldl (fun m x =>
    put m x.1 { val := BitVec.ofNat 32 (partOf image (off + 4 * x.2) 4), full := presence.testBit x.2 }) m

/-- The thread that an image holds, with what the hardware has kept of it (`th`), in U mode. Answers still outstanding keep
their registers empty. -/
def threadFrom (th : Thread) (image : Nat) : Thread :=
  let stat := partOf image 0x008 4
  let flags := partOf image 0x018 4
  let resident := min 4 (flags / 2 ^ 16 % 8)
  let reg (n : Nat) : DWord :=
    BitVec.ofNat 64 (if thWide n then partOf image (0xC00 + 4 * n) 8 else partOf image (0xC00 + 4 * n) 4)
  let scal := (residentPos th.cwp resident).zipIdx.foldl (fun m x => loadFrame m x.1 (partOf image (0x040 + 80 * x.2) 80) 16) th.scal
  let scal := putCells scal (kPlaces th) image 0x020 (flags / 2 ^ 19)
  let scal := putCells scal gPlaces image 0x180 flags
  let frames := (residentPos th.cwp resident).zipIdx.foldl (fun m x =>
    let f := partOf image (0x040 + 80 * x.2) 80
    put m x.1.toNat { retPc := BitVec.ofNat 64 (f / 2 ^ 512) &&& ~~~3, kind := BitVec.ofNat 2 (f / 2 ^ 592) }) th.frames
  let base := (List.range 7).foldl (fun m i =>
    put m (i + 1) { val := BitVec.ofNat 64 (partOf image (0x1A8 + 8 * i) 8), full := flags.testBit (9 + i) }) th.base
  let vec := (List.range 64).foldl (fun m i =>
    put m i { val := BitVec.ofNat 256 (partOf image (0x200 + 32 * i) 32), full := (partOf image 0x010 8).testBit i }) th.vec
  let pred := (List.range 7).foldl (fun m i => put m (i + 1) (BitVec.ofNat 32 (partOf image (0x1E4 + 4 * i) 4))) th.pred
  let leases := (List.range 4).foldl (fun m e =>
    let l : Lease := lookD m e {}
    put m e { l with ec := (List.range 12).foldl (fun x k => put x k (BitVec.ofNat 32 (partOf image (0xA00 + 128 * e + 4 * k) 4))) l.ec })
    th.leases
  let th := { th with
    pc := BitVec.ofNat 64 (partOf image 0x000 8 / 4 * 4), mode := .u, plen := stat.testBit 29, inpl := false, inup := stat.testBit 27,
    cwoob := stat.testBit 1, ptrap := stat.testBit 0, veil := none, profile := BitVec.ofNat 32 (partOf image 0x00C 4),
    scal := scal, resident := resident, frames := frames, base := base, vec := vec, pred := pred, leases := leases,
    staged := if (partOf image 0x034 4).testBit 12 then
        some (BitVec.ofNat 12 (partOf image 0x034 4), BitVec.ofNat 32 (partOf image 0x030 4)) else none,
    tok := BitVec.ofNat 8 (partOf image 0x038 4), cls := BitVec.ofNat 2 (partOf image 0x038 4 / 2 ^ 12),
    noteFault := ((List.range (min 8 (partOf image 0x038 4 / 2 ^ 8 % 16))).map (fun i => BitVec.ofNat 16 (partOf image (0xDA0 + 2 * i) 2)) ++
      th.noteFault).take 8,
    fflags := th.fflags ||| BitVec.ofNat 11 (reg 0x002).toNat &&& 0x7DF,
    plsrc := BitVec.ofNat 3 ((reg 0x014).toNat / 2 ^ 16), pldata := BitVec.ofNat 16 (reg 0x014).toNat, ctx := 0, era := 0 }
  let th := restoredRegs.foldl (fun th n => thWrite th n (reg n)) th
  th.producers.foldl (fun th p => p.landings.foldl (fun th l => claim th l.reg) th) th

/-! ## Staging (R94, R416) -/

/-- A slot's staging kilobyte after a save or a restore: zero for a protected thread, else unspecified. -/
def setStaging (st : State) (t : Nat) (isProtected : Bool) : State :=
  let at_ := bank15Key (coreOf t) (0x1000 + slotOf t * 0x400)
  let mem := (List.range 1024).foldl (fun m i =>
    memSet m (at_ + i) (if isProtected then 0 else Config.stagingByte (st.drawn + i))) st.mem
  { st with mem := mem, drawn := if isProtected then st.drawn else st.drawn + 1024 }

/-! ## Blocks and their tasks -/

/-- The number of a slot's running tile task's block. -/
def taskKey (st : State) (t : Nat) : Option Nat :=
  if (st.thread t).present then (st.thread t).task.map blockKey else none

/-- The seats of a block in which a task of it runs. -/
def runningSeats (st : State) (key : Nat) (b : Block) : List Nat := b.seats.filter (fun t => taskKey st t == some key)

/-- The virtual interface of a block. -/
def blockVi' (st : State) (b : Block) : Nat := ((blockVi st b).map (·.toNat)).getD 0

/-- The launch of a block. -/
def setBlock (st : State) (key : Nat) (b : Block) : State := { st with blocks := put st.blocks key b }

/-- Requests made for a block are withdrawn, where they have not begun. -/
def dropRequests (st : State) (key : Nat) : State :=
  { st with cores := st.cores.map (fun c => (c.1, { c.2 with preempts := c.2.preempts.filter (fun p => p.block != some key || p.started) })) }

/-- The cores that hold a seat of a block. -/
def seatCores (b : Block) : List Nat := (b.seats.map coreOf).eraseDups

/-- The barriers a launch asks for. -/
def barList (l : Launch) : List Nat := (List.range 16).filter (fun n => l.barmask.getLsbD n)

/-! ## Displacement (R373, R417, R418) -/

/-- Bytes moved from a local store to the save area, and back. -/
def bankOut (st : State) (core off addr lines : Nat) : State :=
  carryErrors (putLines st (clusterOf core) addr lines (memGetNat st.mem (localKey core off) (64 * lines)))
    (localKey core off / 64) (addr / 64) lines
def bankIn (st : State) (core off lines v : Nat) : State := { st with mem := memPutNat st.mem (localKey core off) (64 * lines) v }

/-- One part of a block's local stores: a bank, or the region of bank 14 of a slot (32 + slot): offset, lines, place of the
body, place of the header, and OWNER. -/
structure Part where
  off : Nat
  lines : Nat
  body : Nat
  header : Nat
  owner : Nat

/-- The parts of a block area at a base. -/
def partAt (base core k : Nat) : Part :=
  let a := areaOf base (clusterOf core)
  let l := coreIndex core
  if 32 ≤ k then
    let s := k - 32
    { off := 14 * 0x4000 + s * 0x800, lines := 32, body := a + (15 * l + 14) * 0x4000 + s * 0x800,
      header := a + 0x3D4000 + (8 * l + s) * 64, owner := 0x8000 + core * 16 + 14 }
  else
    { off := k * 0x4000, lines := 256, body := a + (15 * l + k) * 0x4000, header := a + 0x3D0000 + (15 * l + k) * 64,
      owner := 0x8000 + core * 16 + k }

/-- The counter record of a part (R413, R417). -/
def partKind (k : Nat) : Nat := if 32 ≤ k then k else 8 + k

/-- The protection entry of a core that covers a slot. -/
def entryOf (st : State) (core slot : Nat) : Option (Nat × DWord) :=
  (st.core core).pent.find? (fun p => p.2.getLsbD 0 && p.2.getLsbD (40 + slot))

/-- The bit of a part in an entry, and the context of the valid entry that covers it (R415), 0 for none. -/
def partBit (k : Nat) : DWord := if 32 ≤ k then BitVec.ofNat 64 (2 ^ (40 + (k - 32))) else BitVec.ofNat 64 (2 ^ (26 + k))
def partCtx (st : State) (core k : Nat) : Nat :=
  (((st.core core).pent.find? (fun p => p.2.getLsbD 0 && p.2 &&& partBit k != 0)).map (fun p => p.2.toNat / 2 ^ 48)).getD 0

/-- A write of MN_PENT_n: dropped where R410 refuses a valid entry. -/
def writePent (st : State) (core n : Nat) (v : DWord) : State :=
  let c := st.core core
  let e := v &&& 0xFFFFFFFFFC000001
  let clash := c.pent.any (fun p => p.1 != n && p.2.getLsbD 0 && (p.2 &&& e &&& 0x0000FFFFFC000000) != 0)
  if e.getLsbD 0 && (e.toNat / 2 ^ 48 == 0 || st.module.tdisp != .run || clash) then st
  else st.setCore core { c with pent := put c.pent n e }

/-- An entry without some bits, and invalid where no slot and no bank remains (R418). -/
def clearEntry (e bits : DWord) : DWord :=
  let e := e &&& ~~~bits
  if keepBits e 47 26 = 0 then e &&& ~~~1 else e

/-- The parts a displacement saves on one core: the regions of its seats, then the banks named (R373, R417). -/
def coreParts (b : Block) (banks : BitVec 14) (core : Nat) : List Nat :=
  (b.seats.filter (fun t => coreOf t == core)).map (fun t => 32 + slotOf t) ++ (List.range 14).filter (fun n => banks.getLsbD n)

/-- The context of a block: that of a seat of it whose slot is in a valid entry, or of a task of it that has been saved; for a
displaced block, the context it was sealed for. -/
def blockCtx (st : State) (key : Nat) (b : Block) : Nat :=
  let now := if b.displaced then b.ctx else (b.seats.map (fun t => ctxOf st t)).foldl max 0
  ((savedOf st key).map (fun r => (st.byRef r).ctx)).foldl max now

/-- Whether a part of a core is another context's, which the copies of a displacement do not reach (R411). -/
def partShut (st : State) (core k ctx : Nat) : Bool := partCtx st core k != 0 && partCtx st core k != ctx

/-- The bank and region copies of one core. What is another context's is not copied (R411; log entry 79). -/
def saveCore (st : State) (b : Block) (vi ctx : Nat) (banks : BitVec 14) (core : Nat) : State :=
  (coreParts b banks core).foldl (fun st k =>
    let p := partAt (saveBase st vi) core k
    if partShut st core k ctx then st
    else if ctx = 0 then bankOut st core p.off p.body p.lines
    else
      let v := memGetNat st.mem (localKey core p.off) (64 * p.lines)
      let st := carryErrors (putImage st core ctx (partKind k) p.owner p.header p.body p.lines v)
        (localKey core p.off / 64) (p.body / 64) p.lines
      bankIn st core p.off p.lines 0) st

/-- The entries of a core without a block's slots and banks, with what was taken out. -/
def clearCore (st : State) (b : Block) (ctx : Nat) (banks : BitVec 14) (core : Nat) : State × List (Nat × Nat × DWord) :=
  let bits := ((coreParts b banks core).map partBit).foldl (fun a x => a ||| x) 0
  (st.core core).pent.foldl (fun (acc : State × List (Nat × Nat × DWord)) e =>
    let hit := e.2 &&& bits
    if e.2.getLsbD 0 ∧ e.2.toNat / 2 ^ 48 = ctx ∧ hit ≠ 0 then
      let c := acc.1.core core
      (acc.1.setCore core { c with pent := put c.pent e.1 (clearEntry e.2 hit) }, acc.2 ++ [(core, e.1, hit)])
    else acc) (st, [])

/-- A released barrier is free for placement. -/
def releaseBarrier (b : Barrier) : Barrier := { b with owner := none, arrivals := [], expects := [], waits := [], tests := [] }

/-- The saved thread whose seat is a slot: for a block that is placed again, its task; else the task of the block seated there,
or the thread saved last. -/
def savedFor (st : State) (t : Nat) (block : Option Nat) : Option Nat :=
  let here := (st.saved.filter (fun p => p.1 % 4096 == t)).map (fun p => (p.1, p.2.task.map blockKey))
  let key := match block with
    | some k => some k
    | none => (seatOf st t).map (·.1)
  match here.find? (fun p => key.isSome && p.2 == key) with
  | some p => some p.1
  | none => if block.isSome then none else (here.filter (fun p => p.2.isNone)).foldl (fun _ p => some p.1) none

/-- Whether the restore of a task of a block has begun: the task comes back before it can be saved. -/
def comingBack (st : State) (key : Nat) (b : Block) : Bool :=
  b.seats.any (fun t => (st.core (coreOf t)).preempts.any (fun p => p.started && p.restore && p.slot == slotOf t &&
    (savedFor st t p.block).any (fun r => (savedOf st key).contains r)))

/-- A request for a slot's task of a block that is being displaced. -/
def askSave (st : State) (key t : Nat) : State :=
  let c := st.core (coreOf t)
  st.setCore (coreOf t) { c with preempts := c.preempts ++ [{ slot := slotOf t, restore := false, block := some key }] }

/-- The end of a displacement, once every task of the block is saved: steps 2 to 5 of R373. -/
def finishDisplace (st : State) (key : Nat) : State :=
  match look st.blocks key with
  | none => st
  | some b =>
    if !b.leaving || !(runningSeats st key b).isEmpty || comingBack st key b then st
    else match look st.launches b.launch with
      | none => st
      | some l =>
        let vi := l.vi.toNat
        let before := st
        let ctx := blockCtx st key b
        let st := dropRequests st key
        let cores := seatCores b
        let st := cores.foldl (fun st c => saveCore st b vi ctx l.banks c) st
        let (st, taken) := if ctx = 0 then (st, []) else
          cores.foldl (fun (acc : State × List (Nat × Nat × DWord)) c =>
            let (s, x) := clearCore acc.1 b ctx l.banks c
            (s, acc.2 ++ x)) (st, [])
        let bars := (barList l).map (fun n => (n, barrierAt st b.cluster n))
        let area := areaOf (saveBase st vi) b.cluster + 0x3C0000
        let st := bars.foldl (fun st x =>
          let st := setBarrier st b.cluster x.1 (releaseBarrier x.2)
          let mem := (List.range 16).foldl (fun m i => memSet m (area + 16 * x.1 + i) (Config.barrierByte (st.drawn + i))) st.mem
          { st with mem := mem, drawn := st.drawn + 16 }) st
        let seals := if ctx = 0 then [] else cores.flatMap (fun c => (coreParts b l.banks c).map (fun k => (c, k)))
        let st := setBlock st key { b with leaving := false, displaced := true, bars := bars, pents := taken, sealed := seals,
                                           ctx := ctx, era := st.module.era }
        let st := markFree before st b.seats
        let x := st.cluster b.cluster
        let st := st.setCluster b.cluster { x with reserved := x.reserved ++ [.block key] }
        { st with module := { st.module with passDue := true } }

/-- A displacement begins: a request for each of the block's tasks. Restores of a re-placement that have not begun are
withdrawn: their tasks are saved as they are; one that has begun ends first, and its task is saved when it is back. -/
def startDisplace (st : State) (key : Nat) : State :=
  match look st.blocks key with
  | none => st
  | some b =>
    let st := setBlock (dropRequests st key) key { b with leaving := true }
    finishDisplace ((runningSeats st key b).foldl (fun st t => askSave st key t) st) key

/-! ## Re-placement (R373, R415, R418, R419) -/

/-- The monitor is entered on a slot for a refused restore (R419). -/
def enterRefused (st : State) (t : Nat) (vi : BitVec 10) (cause : Cause) (tval : DWord) : State :=
  let c := st.core (coreOf t)
  let word : Word := (2 : BitVec 2) ++ (0 : BitVec 24) ++ cause.code
  let st := st.setCore (coreOf t) (setMonitorRegs c (slotOf t) 0 word tval)
  let st := { st with serial := st.serial + 1 }
  st.setThread t { Thread.reset (slotOf t) with present := true, uid := st.serial - 1, vi := vi, mode := .m, pc := c.mnvec, refusal := true }

/-- The entries of a block as its re-placement rewrites them, under the rules of such a write (R410, R418), or takes them back. What
another block of the context has in an entry stays. -/
def giveEntries (st : State) (b : Block) (give : Bool) : State :=
  b.pents.foldl (fun st p =>
    let c := st.core p.1
    let e := lookD c.pent p.2.1 0
    if give then
      let kept := if e.getLsbD 0 ∧ e.toNat / 2 ^ 48 = b.ctx then e else 0
      writePent st p.1 p.2.1 (kept ||| p.2.2 ||| BitVec.ofNat 64 (b.ctx * 2 ^ 48 + 1))
    else if e.getLsbD 0 ∧ e.toNat / 2 ^ 48 = b.ctx then st.setCore p.1 { c with pent := put c.pent p.2.1 (clearEntry e p.2.2) }
    else st) st

/-- What a re-placement has restored is zeroed, its tasks are saved threads again, its entries are cleared, and it waits for a write
of VI_SAVEBASE (R419). An ended block loses its tasks instead (R408). -/
def refuseReplace (st : State) (key : Nat) (restored : List (Nat × Nat)) : State :=
  match look st.blocks key with
  | none => st
  | some b =>
    let before := st
    let st := { dropRequests st key with cores := (dropRequests st key).cores.map (fun c =>
      (c.1, { c.2 with preempts := c.2.preempts.filter (fun p => p.block != some key) })) }
    let st := restored.foldl (fun st x =>
      let p := partAt 0 x.1 x.2
      bankIn st x.1 p.off p.lines 0) st
    let st := (runningSeats st key b).foldl (fun st t =>
      let r := st.refOf t
      let st := parkLeases (abandon st t) r
      let c := st.core (coreOf t)
      let st := st.setCore (coreOf t) { c with buffer := c.buffer.map (fun e => if e.thread = t then { e with ended := true } else e) }
      let th := { st.thread t with ctx := b.ctx, era := b.era, fflags := 0, noteFault := [], posted := [], ir := 0,
                                   producers := (st.thread t).producers.filter (fun p => !p.ready) }
      emptySlot { st with saved := put st.saved r th } t) st
    let st := giveEntries st b false
    let st := b.bars.foldl (fun st x => setBarrier st b.cluster x.1 (releaseBarrier (barrierAt st b.cluster x.1))) st
    let x := st.cluster b.cluster
    let st := st.setCluster b.cluster { x with reserved := x.reserved ++ [.block key] }
    let st := if b.ended then { st with saved := st.saved.filter (fun p => !(savedOf st key).contains p.1) } else st
    let st := markFree before (setBlock st key { b with displaced := true, leaving := false, barred := true }) b.seats
    { st with module := { st.module with passDue := true } }

/-- The restore of one part: none where it is refused. -/
def restorePart (st : State) (b : Block) (base : Nat) (x : Nat × Nat) : Except (Cause × DWord) State :=
  let p := partAt base x.1 x.2
  if b.ctx = 0 then
    .ok (if partShut st x.1 x.2 0 then st
      else carryErrors (bankIn st x.1 p.off p.lines (memGetNat st.mem p.body (64 * p.lines))) (p.body / 64) (localKey x.1 p.off / 64) p.lines)
  else match openImage st x.1 (partCtx st x.1 x.2) b.era (partKind x.2) p.owner p.header p.body p.lines with
    | .ok v => .ok (bankIn st x.1 p.off p.lines v)
    | .error e => .error e

/-- The parts in the reverse order of their saves, until one is refused: what has been restored, and the refusal. -/
def restoreParts (b : Block) (base : Nat) : List (Nat × Nat) → List (Nat × Nat) → State →
    State × List (Nat × Nat) × Option ((Nat × Nat) × Cause × DWord)
  | [], done, st => (st, done, none)
  | x :: rest, done, st =>
    match restorePart st b base x with
    | .ok st => restoreParts b base rest (x :: done) st
    | .error e => (st, done, some (x, e.1, e.2))

/-- A displaced block placed again on its cluster, with its seats and its barriers. -/
def replaceBlock (st : State) (key : Nat) : State :=
  match look st.blocks key with
  | none => st
  | some b =>
    match look st.launches b.launch with
    | none => st
    | some l =>
      let base := saveBase st l.vi.toNat
      let st := b.bars.foldl (fun st x => setBarrier st b.cluster x.1 x.2) st
      let x := st.cluster b.cluster
      let st := st.setCluster b.cluster { x with reserved := x.reserved.filter (· != .block key) }
      let st := giveEntries st b true
      let st := setBlock st key { b with displaced := false }
      let parts := (seatCores b).flatMap (fun c => (coreParts b l.banks c).map (fun k => (c, k)))
      let (st, done, bad) := restoreParts b base parts.reverse [] st
      match bad with
      | some ((core, k), cause, tval) =>
        let slot := if 32 ≤ k then core * 8 + (k - 32) else (b.seats.filter (fun t => coreOf t == core)).foldl min (core * 8 + 7)
        enterRefused (refuseReplace st key done) slot l.vi cause tval
      | none =>
        (b.seats.reverse.filter (fun t => (savedOf st key).any (fun r => r % 4096 == t))).foldl (fun st t =>
          let c := st.core (coreOf t)
          st.setCore (coreOf t) { c with preempts := c.preempts ++ [{ slot := slotOf t, restore := true, block := some key, base := some base }] }) st

/-! ## Saving a thread (R370, R371, R378) -/

/-- The request of a core that is served next. -/
def firstRequest (st : State) (c : Nat) : Option Preempt := (st.core c).preempts.head?
def dropRequest1 (st : State) (c : Nat) : State := st.setCore c { st.core c with preempts := (st.core c).preempts.drop 1 }
def startRequest (st : State) (c : Nat) : State :=
  st.setCore c { st.core c with preempts := match (st.core c).preempts with
    | p :: rest => { p with started := true } :: rest
    | [] => [] }

/-- The Waits of an instruction that has had its effect, or has begun it: it completes before its thread is pre-empted. -/
def finishing (w : Wait) : Bool :=
  w.underway || match w with
  | .waitaDone _ | .barAnswered _ | .barRefused | .sendTimedOut | .ending _ => true
  | _ => false

/-- Issue stops (steps 1 and 3 of R371). The time of an LWAIT goes on (R271); a WAITA that sleeps returns code 0 at resumption
(R241). -/
def stopIssue (st : State) (t : Nat) : State :=
  let w := (st.thread t).wait
  let st := abandon st t
  let st := match w with
    | .lwaitUntil _ _ | .lwaitOver => st.setThread t { st.thread t with wait := w }
    | .waitaAsleep | .waitaPolling => st.setThread t { st.thread t with wait := .waitaDone 0 }
    | _ => st
  parkLeases st (st.refOf t)

/-- The displacement of a block whose interface no longer lets it be saved is given up (R369). DESIGN CHOICE (log entry 82):
the tasks that have been saved are restored; one whose save is still under way on another core is saved, and comes back when
it is asked for. -/
def cancelLeaving (st : State) (key : Nat) : State :=
  match look st.blocks key with
  | none => st
  | some b =>
    let st := setBlock (dropRequests st key) key { b with leaving := false }
    (b.seats.filter (fun t => (savedOf st key).any (fun r => r % 4096 == t))).foldl (fun st t =>
      let c := st.core (coreOf t)
      st.setCore (coreOf t) { c with preempts := c.preempts ++ [{ slot := slotOf t, restore := true, block := some key }] }) st

/-- The image of a thread is written, and its slot becomes empty (step 5 of R371, R414, R416). -/
def saveThread (st : State) (t : Nat) : State :=
  let th := st.thread t
  let r := st.refOf t
  let c := coreOf t
  let ctx := ctxOf st t
  let v := threadImage st t
  let at_ := imageOf (saveBase st th.vi.toNat) t
  let st := if ctx = 0 then putLines st (clusterOf c) at_ 60 v else putImage st c ctx (slotOf t) t at_ (at_ + 64) 60 v
  let st := setStaging st t (ctx != 0)
  let kept : Thread := { th with fflags := 0, noteFault := [], ctx := ctx, era := st.module.era, stalled := false }
  let st := st.setCore c { st.core c with records := (st.core c).records.filter (fun x => x.1 != t) }
  emptySlot { st with saved := put st.saved r kept } t

/-- PREEMPT_SAVE (R370). CO_PREEMPT SAVE pre-empts a slot's thread into its image. -/
def execPreemptSave (core : BitVec 9) (st : State) : Host.Outcome State Fault Refusal :=
  let c := core.toNat
  match firstRequest st c with
  | some p =>
    let t := c * 8 + p.slot
    let th := st.thread t
    if p.restore || p.started then disabled "PREEMPT_SAVE"
    else if !th.present || (p.block.isSome && taskKey st t != p.block) then
      let st := dropRequest1 st c
      .next (match p.block with
        | some key => finishDisplace st key
        | none => st)
    else if !inRotation st t || finishing th.wait || th.stops || th.mode != .u || th.inpl then disabled "PREEMPT_SAVE"
    else if !saveEnabled st th.vi.toNat then
      let st := dropRequest1 st c
      .next (match p.block with
        | some key => cancelLeaving st key
        | none => st)
    else .next (startRequest (stopIssue st t) c)
  | none => disabled "PREEMPT_SAVE"

/-- PREEMPT_SAVE_DONE (R371). The image is written once producers and stores are done; the slot becomes empty. -/
def execPreemptSaveDone (core : BitVec 9) (st : State) : Host.Outcome State Fault Refusal :=
  let c := core.toNat
  match firstRequest st c with
  | some p =>
    let t := c * 8 + p.slot
    let th := st.thread t
    if p.restore || !p.started then disabled "PREEMPT_SAVE_DONE"
    else if th.present && (th.producers.any (fun q => q.ready) || !drained st t) then disabled "PREEMPT_SAVE_DONE"
    else
      let key := taskKey st t
      let st := dropRequest1 (if th.present then saveThread st t else st) c
      .next (match key with
        | some key => finishDisplace st key
        | none => st)
  | none => disabled "PREEMPT_SAVE_DONE"

/-! ## Restoring a thread (R370, R371, R415) -/

/-- The image a restore reads, with the checks of a protected one. For a block that is placed again the save area is that of the
re-placement (R418). -/
def readImage (st : State) (r : Nat) (base : Option Nat) : Except (Cause × DWord) Nat :=
  let t := r % 4096
  let th := lookD st.saved r {}
  let ctx := ctxOf st t
  let at_ := imageOf (base.getD (saveBase st th.vi.toNat)) t
  if th.ctx = 0 ∧ ctx = 0 then .ok (memGetNat st.mem at_ 3840)
  else openImage st (coreOf t) ctx th.era (slotOf t) t at_ (at_ + 64) 60

/-- A refused restore (R415, R419). -/
def refuseRestore (st : State) (c : Nat) (p : Preempt) (r : Nat) (e : Cause × DWord) : State :=
  let t := c * 8 + p.slot
  let vi := (lookD st.saved r {}).vi
  let st := dropRequest1 st c
  let st := match p.block with
    | some key =>
      match look st.blocks key with
      | some b => refuseReplace st key b.sealed
      | none => st
    | none => st
  enterRefused st t vi e.1 e.2

/-- PREEMPT_RESTORE (R370). CO_PREEMPT REST restores a saved thread. -/
def execPreemptRestore (core : BitVec 9) (st : State) : Host.Outcome State Fault Refusal :=
  let c := core.toNat
  match firstRequest st c with
  | some p =>
    let t := c * 8 + p.slot
    if !p.restore || p.started then disabled "PREEMPT_RESTORE"
    else match savedFor st t p.block with
      | none => .next (dropRequest1 st c)
      | some r =>
        if (st.thread t).present || !inRotation st t then disabled "PREEMPT_RESTORE"
        else match readImage st r p.base with
          | .error e => .next (refuseRestore st c p r e)
          | .ok _ => .next (startRequest st c)
  | none => disabled "PREEMPT_RESTORE"

/-- Whether an unprotected image has a line with an uncorrectable error. -/
def imageBad (st : State) (r : Nat) (base : Option Nat) : Bool :=
  let th := lookD st.saved r {}
  let at_ := imageOf (base.getD (saveBase st th.vi.toNat)) (r % 4096)
  th.ctx == 0 && (List.range 60).any (fun i => st.bridge.poisoned.contains (at_ / 64 + i))

/-- PREEMPT_RESTORE_DONE (R371). The image has been read; leases return, and the thread is ready to issue. DESIGN CHOICE (log entry
59): where a line of an unprotected image has an uncorrectable error (R428), the thread takes MEM_UNCORRECTABLE before it issues. -/
def execPreemptRestoreDone (core : BitVec 9) (st : State) : Host.Outcome State Fault Refusal :=
  let c := core.toNat
  match firstRequest st c with
  | some p =>
    let t := c * 8 + p.slot
    if !p.restore || !p.started || (st.thread t).present || !inRotation st t then disabled "PREEMPT_RESTORE_DONE"
    else match savedFor st t p.block with
      | none =>
        let st := markFree st (dropRequest1 st c) [t]
        .next (match p.block with
          | some key => finishDisplace st key
          | none => st)
      | some r =>
        match readImage st r p.base with
        | .error e => .next (refuseRestore st c p r e)
        | .ok image =>
          let rs := imageRecords image
          if 8 < (st.core c).records.length + rs.length then disabled "PREEMPT_RESTORE_DONE"
          else
            let th0 := lookD st.saved r {}
            let st := setStaging (dropRequest1 st c) t (ctxOf st t != 0)
            let st := st.setCore c { st.core c with records := (st.core c).records ++ rs.map (fun x => (t, x)) }
            let broken := imageBad st r p.base
            let st := { st with saved := del st.saved r }
            let st := unparkLeases (st.setThread t (threadFrom th0 image)) r
            let st := if broken then
                trapThread { st with drawn := st.drawn + 1 } t (st.thread t).pc
                  { cause := .memUncorrectable, tval := Config.openTval st.drawn } false
              else st
            .next (match th0.task.map blockKey with
              | some key => if (look st.blocks key).any (·.leaving) then askSave st key t else st
              | none => st)
  | none => disabled "PREEMPT_RESTORE_DONE"

/-! ## The end of a block (R391, R408) -/

/-- Leases, reservations, the open batch and unsent arrivals of a thread end with its block: its stores and its copies go on. -/
def cutThread (st : State) (r : Nat) : State :=
  let t := r % 4096
  let here := st.live r
  let st := if here then abandon st t else st
  let st := (List.range 4).foldl (fun st e => freeLease st r e) st
  let open_ := (st.byRef r).openBatch.number
  let mark (l : List CopyReq) : List CopyReq := l.map (fun q =>
    if q.thread = r then { q with ended := true, loose := q.loose || q.batch == open_ } else q)
  let k := clusterOf (coreOf t)
  let st := st.setCluster k { st.cluster k with copies := mark (st.cluster k).copies }
  let c := st.core (coreOf t)
  let buffer := if here then c.buffer.map (fun e => if e.thread = t then { e with ended := true } else e) else c.buffer
  let records := if here then c.records.filter (fun x => x.1 != t) else c.records
  let st := st.setCore (coreOf t) { c with buffer := buffer, records := records, copies := mark c.copies }
  (cutReserved st r).updRef r (fun th => { th with openBatch := { number := th.openBatch.number }, arrivals := [] })

/-- A task of an ended block stops at a boundary, and its slot becomes empty (R391). -/
def stopTask (st : State) (t : Nat) : State := emptySlot (cutThread st (st.refOf t)) t

/-- The end of a block with a failure code. `issuer` ends at its next XRET; a task whose instruction has begun its effect stops when
that has completed. -/
def endBlock (st : State) (key : Nat) (code : Word) (issuer : Option Nat) : State :=
  match look st.blocks key with
  | none => st
  | some b =>
    let before := st
    let st := (savedOf st key).foldl (fun st r =>
      let st := cutThread st r
      { st with saved := del st.saved r }) st
    let st := (runningSeats st key b).foldl (fun st t =>
      if issuer = some t then
        let st := cutThread st (st.refOf t)
        st.setThread t { st.thread t with ends := true }
      else if (st.thread t).wait.underway then st.setThread t { st.thread t with stops := true }
      else stopTask st t) st
    let st := dropRequests st key
    let st := markFree before (setBlock st key { b with pending := [], ended := true, leaving := false }) b.seats
    match look st.launches b.launch with
    | some l => { st with launches := put st.launches b.launch { l with code := if l.code = 0 then code else l.code } }
    | none => st

/-- Whether a CALLAT child is that of a task of a block that has been ended, or has since completed. -/
def orphan (st : State) (launch block : Option Nat) : Bool :=
  match launch, block with
  | some n, some k => (look st.blocks (n * 65536 + k)).all (·.ended)
  | _, _ => false

/-- Children of ended blocks of a virtual interface, on their way, queued, running or saved. -/
def orphans (st : State) (vi : BitVec 10) : Bool :=
  let call (f : Call) : Bool := f.vi == vi && orphan st f.launch f.block
  let runs (th : Thread) : Bool := th.vi == vi && th.child.any (fun k => orphan st k.launch k.block)
  st.flights.any call || st.cores.any (fun c => c.2.calls.any call) || st.threads.any (fun p => p.2.present && runs p.2) ||
    st.saved.any (fun p => runs p.2)

/-- VI_BLKEND.BUSY (R391): a task of an ended block has not stopped, stores or copies of it are still to come, or children of it
run. -/
def blockBusy (st : State) (vi : BitVec 10) : Bool :=
  orphans st vi || st.threads.any (fun p => p.2.present && p.2.stops && p.2.vi == vi) ||
  st.cores.any (fun c => c.2.buffer.any (fun e => e.ended && e.vi == vi) || c.2.copies.any (fun q => q.ended && q.vi == vi)) ||
    st.clusters.any (fun k => k.2.copies.any (fun q => q.ended && q.vi == vi))

/-- BLOCK_END (R391). VI_BLKEND END ends the issuing task's block. -/
def execBlockEnd (t : BitVec 12) (st : State) : Host.Outcome State Fault Refusal :=
  match taskKey st t.toNat with
  | some key =>
    if slotRuns st t.toNat && (st.thread t.toNat).mode.covers .s then .next (endBlock st key 3 (some t.toNat)) else disabled "BLOCK_END"
  | none => disabled "BLOCK_END"

end Sys2Proof.Machine
end

