-- ==== Sys2Proof/Machine/Launch.lean ====
section
/-!
DEFINITION. Sys2Proof/Machine/Launch.lean: queues, dependencies, placement, stages and completion (R338 to R345, R354 to R366,
R374).
-/

namespace Sys2Proof.Machine

/-! ## The scheduler's accesses (R358 to R360) -/

/-- Who reads and writes for a launch: the scheduler, with the PASID of its virtual interface and the class of its record. -/
def Launch.who (l : Launch) : Who :=
  { thread := 0, cls := 3, vi := l.vi, mode := .s, core := 0, cluster := 0, own := false, waiter := .sched l.vi.toNat, ctx := 0 }

/-- Translation at the bridge: no window, no sub-page map. -/
def schedResolve (st : State) (who : Who) (k : Right) (va : DWord) : Mem (State × Place) :=
  let pasid := (st.viOf who.vi.toNat).pasid
  let key := (who.waiter, pasid, pageOf va)
  if !canonical st va then .error (.fault st .translationFault va false)
  else match tlbFind st.bridge.tlb pasid va.toNat with
    | some (e, l) =>
      let st := clearNote { st with bridge := { st.bridge with tlb := l } } 0 key
      if e.bad then badEntry st who k va e
      else if pageGrants e k then classify st va (e.pa + (va.toNat - e.page)) else .error (.fault st .permissionFault va false)
    | none =>
      if (st.core 0).absent.contains key then
        match pageRequest st pasid (pageOf va) k.writes who.cls with
        | (s, true) => .error (.fault (clearNote s 0 key) .translationFault va true)
        | (s, false) => .error (.wait s)
      else .error (.wait (missBridge st pasid (pageOf va) who))

/-- A read of n bytes in one line at the home, as an LDA of scope `.S`, with the time the read learns of. -/
def schedRead (st : State) (who : Who) (va : DWord) (n : Nat) : Mem (State × Line × Nat) := do
  let (st, p) ← schedResolve st who .read va
  let st := match rangeAt st p with
    | some r => combineLine st r 0 p.line 0 allClusters
    | none => st
  if st.bridge.poisoned.contains p.line then .error (.fault st .memUncorrectable va false)
  else match p with
    | .window pa => return (st, queueRead st (pa - st.module.bar2.toNat) n, 0)
    | .own _ | .host _ =>
      let st := fetchLine st p.line
      return (st, memRead st.mem p.key n, (homeTimes st p.line).wts)
    | _ => return (st, memRead st.mem p.key n, clockAt st p.seat)

/-- The completion write, an STL.W.S.REL at the home with a clock: the word's key, and the write's time. -/
def schedWrite (st : State) (who : Who) (va : DWord) (v : Word) (clock : Nat) : Mem (State × Nat × Nat) := do
  let (st, p) ← schedResolve st who .write va
  match p with
  | .window pa => return (queueWrite st (pa - st.module.bar2.toNat) 4 (v.setWidth 512) false clock, p.key, clock)
  | .own _ | .host _ =>
    if (rangeAt st p).isSome then .error (.fault st .crangeConflict va false)
    else
      let (st, wts) := homeMerge st 0 p.line (toByte (v.setWidth 512) p.byte) (toByte (byteMask 4) p.byte) clock
      return (st, p.key, wts)
  | _ => return (writeThere st p.seat p.key 4 (v.setWidth 512) (byteMask 4) clock, p.key, clock)

/-! ## Launches -/

def setLaunch (st : State) (n : Nat) (l : Launch) : State := { st with launches := put st.launches n l }

/-- Blocks of a grid. -/
def Launch.blocks (l : Launch) : Nat := if l.signal then 0 else l.gx * l.gy

/-- A record that failed before placing. -/
def Launch.failed (l : Launch) : Bool := l.code != 0 && l.placed == 0

/-- Whether a record has completed (R345, R360, R361). -/
def Launch.complete (l : Launch) : Bool := l.failed || (l.ready && l.finished == l.blocks)

/-- Whether every earlier record of the same queue has completed. -/
def earlierComplete (st : State) (n : Nat) (vi : BitVec 10) : Bool :=
  st.launches.all (fun p => !(decide (p.1 < n) && p.2.vi == vi) || p.2.complete)

/-- The head of a queue (R359). -/
def queueHeadOf (st : State) (vi : Nat) : Option (Nat × Launch) :=
  match (st.viOf vi).queue with
  | n :: _ =>
    match look st.launches n with
    | some l => if l.ser && !earlierComplete st n l.vi then none else some (n, l)
    | none => none
  | [] => none

/-- A record leaves its queue (R355). -/
def leaveVi (st : State) (vi n : Nat) : State := st.setVi vi { st.viOf vi with queue := (st.viOf vi).queue.filter (· != n) }

def passDue (st : State) : State := { st with module := { st.module with passDue := true } }

/-- The number under which the scheduler registers a wait for a virtual interface (R359). -/
def schedWaiter (vi : Nat) : Nat := Config.threads + vi

/-- A record fails before placing (R358, R359, R361). -/
def failLaunch (st : State) (n : Nat) (l : Launch) (code : Word) : State :=
  let vi := l.vi.toNat
  leaveVi (setLaunch (unregister st (schedWaiter vi)) n { l with code := code, held := none, refused := false }) vi n

/-! ## Queue entry (R355, R356) -/

/-- ENQUEUE (R355). A full-line write to ENQ is checked and the record queued or refused. -/
def execEnqueue (vi : BitVec 10) (record : List (BitVec 8)) (st : State) : Host.Outcome State Fault Refusal :=
  if !booted st then disabled "ENQUEUE"
  else if record.length = 64 then
    .next (enqueueLine st vi (BitVec.ofNat 512 (ofLanes 8 (record.map (·.toNat)))) st.bridge.hostClock)
  else .next (refuseRecord st vi.toNat 0x01)

/-! ## Dependency, stage table and arguments (R358, R359) -/

/-- Whether the dependency word passes (R359). -/
def depPasses (l : Launch) (w : Word) : Bool := if l.depeq then w == l.depval else decide ((w - l.depval).toNat < 2 ^ 31)

/-- What a read of a record comes to, where it is not done: it waits, it is held for a page, or it fails with a code. -/
def readStop (n : Nat) (l : Launch) (code : Word) : Bad → State
  | .wait s => s
  | .fault s _ va soft => if soft then setLaunch s n { l with held := some (pageOf va), heldCode := code } else failLaunch s n l code

/-- The stage table's entries (R192, R358). -/
def tableEntries (l : Line) : List DWord := (List.range 8).map (fun i => BitVec.ofNat 64 (numAt l (8 * i) 8))
def tableOk (es : List DWord) (stages : Nat) : Bool := (es.take stages).all (fun e => e != 0 && e.toNat % 4 == 0)

/-- The argument block's entries (R103, R358). -/
def argsOk (l : Line) : Bool :=
  (List.range 4).all (fun i =>
    numAt l (16 * i) 8 % 4 == 0 && numAt l (16 * i + 8) 4 / 2 ^ 17 % 2 ^ 14 == 0 && cwSizeOk (numAt l (16 * i + 8) 4) &&
      numAt l (16 * i + 12) 4 == 0)

/-- A head whose dependency holds: a SIGNAL completes; a LAUNCH reads its table and its block. DESIGN CHOICE (log entry 17):
where both are bad, the table gives the code. -/
def readTables (st : State) (n : Nat) (l : Launch) : State :=
  let vi := l.vi.toNat
  if l.signal then leaveVi (setLaunch st n { l with ready := true }) vi n
  else match schedRead st l.who l.stageTab 64 with
    | .error b => readStop n l 1 b
    | .ok (st, tab, c1) =>
      if !tableOk (tableEntries tab) l.stages then failLaunch st n l 1
      else match schedRead st l.who l.argBlock 64 with
        | .error b => readStop n l 2 b
        | .ok (st, args, c2) =>
          if !argsOk args then failLaunch st n l 2
          else
            let base := (List.range 4).map (fun i => (i, BitVec.ofNat 64 (numAt args (16 * i) 8)))
            let size := (List.range 4).map (fun i => (i, BitVec.ofNat 32 (numAt args (16 * i + 8) 4)))
            passDue (setLaunch st n { l with ready := true, entries := tableEntries tab, cwbase := base, cwsize := size,
                                             clock := max l.clock (max c1 c2) })

/-- DEPENDENCY_CHECK (R359). The queue head reads its dependency word on readiness or wake. A test that has passed is not made
again; a read whose page request was refused fails the record. -/
def execDependencyCheck (vi : BitVec 10) (st : State) : Host.Outcome State Fault Refusal :=
  match queueHeadOf st vi.toNat with
  | some (n, l) =>
    if l.ready || l.held.isSome || !(st.viOf vi.toNat).qcfg.getLsbD 31 ||
        st.bridge.watchers.any (fun w => w.thread == schedWaiter vi.toNat) then disabled "DEPENDENCY_CHECK"
    else if l.refused then .next (failLaunch st n l l.heldCode)
    else if !l.dep || l.passed then .next (readTables st n l)
    else match schedRead st l.who l.depaddr 4 with
      | .error b => .next (readStop n l 6 b)
      | .ok (st, w, c) =>
        let l := { l with clock := max l.clock c, passed := depPasses l (w.setWidth 32) }
        if l.passed then .next (readTables (setLaunch st n l) n l)
        else
          match schedResolve st l.who .read l.depaddr with
          | .error _ => .next st
          | .ok (st, p) =>
            if poolRoom st.bridge.watchers 0 p.key then
              .next (setWatchers st 0 (st.bridge.watchers ++ [{ thread := schedWaiter vi.toNat, key := p.key, kind := 3, sys := true }]))
            else .next st
  | none => disabled "DEPENDENCY_CHECK"

/-! ## Which block is placed next (R364) -/

/-- The displaced blocks of a virtual interface that may be placed again (R364, R419), by number. -/
def displacedOf (st : State) (vi : Nat) : List (Nat × Block) :=
  st.blocks.filter (fun b => b.2.displaced && !b.2.barred && blockVi' st b.2 == vi && (look st.launches b.2.launch).isSome)

/-- What a queue has to place: its launch, and the displaced block, if it has one. -/
def nextBlock (st : State) (vi : Nat) : Option (Nat × Launch × Option (Nat × Block)) :=
  match displacedOf st vi with
  | b :: _ => (look st.launches b.2.launch).map (fun l => (b.2.launch, l, some b))
  | [] =>
    match queueHeadOf st vi with
    | some (n, l) => if l.ready && !l.signal && decide (l.placed < l.blocks) then some (n, l, none) else none
    | none => none

/-- EN is 1, the queue has budget, and it has a block to place. -/
def eligible (st : State) (vi : Nat) : Bool :=
  let v := st.viOf vi
  v.qcfg.getLsbD 31 && !v.exh && v.qcfg.toNat % 2 ^ 19 != 0 && (nextBlock st vi).isSome

def quant (st : State) (vi : Nat) : Nat := (st.viOf vi).qcfg.toNat / 2 ^ 19 % 2 ^ 8

/-- The class of the ring a queue is in: that of what it has to place (R364). -/
def ringOf (st : State) (vi : Nat) : Option (BitVec 2) := if eligible st vi then (nextBlock st vi).map (fun x => x.2.1.cls) else none

/-- A queue that has left its ring loses its deficit; one that is not eligible loses its reservation, whose
cluster is then released: a pass is due (R364, R366). -/
def settleQueues (st : State) : State :=
  let out (vi : Nat) : Bool := !eligible st vi
  let settle (v : Nat × Vi) : Nat × Vi :=
    let r := ringOf st v.1
    (v.1, { v.2 with ring := r, deficit := if r = v.2.ring then v.2.deficit else 0 })
  let freed : Bool := st.clusters.any (fun k => k.2.reserved.any (fun r => match r with
    | .head vi => out vi
    | .block _ => false))
  { st with vis := st.vis.map settle, module := { st.module with passDue := st.module.passDue || freed },
            clusters := st.clusters.map (fun k => (k.1, { k.2 with reserved := k.2.reserved.filter (fun r => match r with
              | .head vi => !out vi
              | .block _ => true) })) }

/-! ## Where a block is placed (R341, R365) -/

/-- A slot that is neither seated nor running a thread. -/
def slotFree (st : State) (t : Nat) : Bool := !(st.thread t).present && (seatOf st t).isNone && !restoring st t

/-- The seats of the tiles from tile i on: the lowest free slot of local core i mod 16. -/
def findSeats (st : State) (cl : Nat) : Nat → Nat → List Nat → Option (List Nat)
  | 0, _, got => some got
  | n + 1, i, got =>
    let core := coreAt cl (i % 16)
    match (List.range 8).find? (fun s => slotFree st (core * 8 + s) && !got.contains (core * 8 + s)) with
    | some s => findSeats st cl n (i + 1) (got ++ [core * 8 + s])
    | none => none

/-- Slots of a core that a virtual interface holds: its seats, and other slots in which a thread of it runs. -/
def slotsHeld (st : State) (core vi : Nat) : Nat :=
  ((List.range 8).filter (fun s =>
    let t := core * 8 + s
    let seated := match seatOf st t with
      | some (b, _) => ((look st.blocks b).map (fun b => blockVi' st b == vi)).getD false
      | none => false
    seated || ((st.thread t).present && (st.thread t).vi.toNat == vi))).length

/-- Free slots of a cluster. -/
def freeSlots (st : State) (cl : Nat) : Nat :=
  ((List.range 16).map (fun i => ((List.range 8).filter (fun s => slotFree st (coreAt cl i * 8 + s))).length)).sum

/-- Resident blocks of a cluster. -/
def residentBlocks (st : State) (cl : Nat) : List (Nat × Block) := st.blocks.filter (fun b => b.2.cluster == cl && !b.2.displaced)

/-- The conditions of R365 on a cluster, beside its seats. -/
def clusterOk (st : State) (cl vi : Nat) (l : Launch) (seats : List Nat) (mine : Reserved) : Bool :=
  let x := st.cluster cl
  (List.range 16).all (fun i => decide (slotsHeld st (coreAt cl i) vi + (seats.filter (fun u => coreOf u == coreAt cl i)).length ≤
    (st.viOf vi).profile.toNat % 16)) &&
  (barList l).all (fun n => (barrierAt st cl n).owner.isNone) &&
  decide (l.scr ≤ x.scratch.toNat) &&
  (l.scr == 0 || (residentBlocks st cl).all (fun b =>
    blockVi' st b.2 == vi || ((look st.launches b.2.launch).map (·.scr)).getD 0 == 0)) &&
  (match x.reserved with
  | r :: _ => r == mine
  | [] => true)

/-- The cluster of a pinned block (R365). -/
def pinned (l : Launch) (b : Nat) : Nat := l.pcl + b / l.gx * 4 + b % l.gx

/-- The seats a new block would have on a cluster that qualifies. -/
def qualifies (st : State) (vi : Nat) (l : Launch) (cl : Nat) : Option (List Nat) :=
  if l.pin && cl != pinned l l.placed then none
  else match findSeats st cl (l.x * l.y) 0 [] with
    | some seats => if clusterOk st cl vi l seats (.head vi) then some seats else none
    | none => none

/-- Choose: the qualifying cluster with the fewest free slots, lowest number first among equals. -/
def choose (st : State) (vi : Nat) (l : Launch) : Option (Nat × List Nat) :=
  ((List.range Config.clusters).foldl (fun (best : Option (Nat × List Nat × Nat)) k =>
    match qualifies st vi l k with
    | none => best
    | some seats =>
      let f := freeSlots st k
      match best with
      | some (_, _, g) => if f < g then some (k, seats, f) else best
      | none => some (k, seats, f)) none).map (fun x => (x.1, x.2.1))

/-- Whether a displaced block can be placed again: its own seats are free. -/
def canReplace (st : State) (vi : Nat) (l : Launch) (b : Nat × Block) : Bool :=
  b.2.seats.all (slotFree st) && clusterOk st b.2.cluster vi l b.2.seats (.block b.1)

/-- Place: a new block is seated, its barriers are set, stage 0 of every tile is to start (R306, R343, R365). A head's reservation
lapses where it is placed, and with its last block wherever it is (R366). -/
def placeBlock (st : State) (vi n : Nat) (l : Launch) (cl : Nat) (seats : List Nat) : State :=
  let key := n * 65536 + l.placed
  let pending := (List.range (l.x * l.y)).map (fun t => (t, 0))
  let st := setBlock st key { launch := n, number := l.placed, cluster := cl, seats := seats, pending := pending, seq := st.serial }
  let st := { st with serial := st.serial + 1 }
  let st := (barList l).foldl (fun st i =>
    setBarrier st cl i { barrierAt st cl i with count := BitVec.ofNat 10 (l.x * l.y), phase := 0, arr := 0, bal := 0, owner := some key }) st
  let st := setLaunch st n { l with placed := l.placed + 1 }
  let free (x : Cluster) : Cluster := { x with reserved := x.reserved.filter (· != .head vi) }
  if l.placed + 1 = l.blocks then
    let st := leaveVi st vi n
    { st with clusters := st.clusters.map (fun k => (k.1, free k.2)) }
  else st.setCluster cl (free (st.cluster cl))

/-! ## Reservation and displacement (R366) -/

/-- The class of the queue a block belongs to: that of what the queue has to place, or of its head (R364); an empty queue goes
by the block's launch (DESIGN CHOICE, log entry 17). -/
def blockClass (st : State) (b : Block) : Nat :=
  let vi := blockVi' st b
  let here := (nextBlock st vi).map (fun x => x.2.1)
  let head := (queueHeadOf st vi).map (fun x => x.2)
  (((here.orElse fun _ => head).orElse fun _ => look st.launches b.launch).map (·.cls.toNat)).getD 0

/-- Displaceable blocks, for a head of a class. -/
def displaceable (st : State) (cls : Nat) (b : Block) : Bool :=
  ((look st.launches b.launch).map (·.disp)).getD false && !b.displaced && !b.ended &&
    ((st.viOf (blockVi' st b)).exh || decide (cls < blockClass st b))

/-- Slots of a cluster that are free or held by displaceable blocks. -/
def reachSlots (st : State) (cls cl : Nat) : Nat :=
  freeSlots st cl + (((residentBlocks st cl).filter (fun b => displaceable st cls b.2)).map (·.2.seats.length)).sum

/-- Reserve: a head without a reservation takes the cluster with the most such slots. DESIGN CHOICE (log entry 17): a pinned
head takes the cluster of its PIN alone. -/
def reserve (st : State) (vi : Nat) (l : Launch) : State :=
  if (List.range Config.clusters).any (fun k => (st.cluster k).reserved.contains (.head vi)) then st
  else
    let open_ := (List.range Config.clusters).filter (fun k => (st.cluster k).reserved.isEmpty && (!l.pin || k == pinned l l.placed))
    match open_.foldl (fun (best : Option (Nat × Nat)) k =>
        let f := reachSlots st l.cls.toNat k
        match best with
        | some (_, g) => if g < f then some (k, f) else best
        | none => some (k, f)) none with
    | some (k, _) => st.setCluster k { st.cluster k with reserved := [.head vi] }
    | none => st

/-- The block displaced next for a class-0 head on the cluster reserved for it (`mine`): the newest displaceable one whose
interface lets it be saved and has no displaced block there (R366, R369, R373). One block is displaced at a time. DESIGN
CHOICE (log entry 17): the newest is the one whose first placement is the latest. -/
def displaceNext (st : State) (l : Launch) (mine : Reserved) : State :=
  if l.cls ≠ 0 then st
  else match (List.range Config.clusters).find? (fun k => (st.cluster k).reserved.head? == some mine) with
    | none => st
    | some k =>
      if (residentBlocks st k).any (fun b => b.2.leaving) then st
      else
        let ok (b : Nat × Block) : Bool :=
          let v := blockVi' st b.2
          displaceable st 0 b.2 && saveEnabled st v &&
            !(st.blocks.any (fun x => x.2.displaced && x.2.cluster == k && blockVi' st x.2 == v))
        match ((residentBlocks st k).filter ok).foldl (fun (best : Option (Nat × Block)) b =>
            match best with
            | some x => if x.2.seq < b.2.seq then some b else best
            | none => some b) none with
        | some b => startDisplace st b.1
        | none => st

/-! ## The pass (R364) -/

/-- One queue's turn in the ring of a class: blocks are placed while the deficit lasts. A displaced block that cannot be
placed again has its own cluster reserved already (R366). -/
def serveQueue (cls : Nat) : Nat → State → Nat → Nat → State × Nat × Bool
  | 0, st, _, d => (st, d, false)
  | fuel + 1, st, vi, d =>
    if ringOf st vi != some (BitVec.ofNat 2 cls) then (st, 0, false)
    else match nextBlock st vi with
      | none => (st, d, false)
      | some (n, l, shown) =>
        let t := l.x * l.y
        if d < t then (st, d, false)
        else match shown with
          | some b =>
            if canReplace st vi l b then
              let (s, d', _) := serveQueue cls fuel (replaceBlock st b.1) vi (d - t)
              (s, d', true)
            else (displaceNext st l (.block b.1), d, false)
          | none =>
            match choose st vi l with
            | some (k, seats) =>
              let (s, d', _) := serveQueue cls fuel (placeBlock st vi n l k seats) vi (d - t)
              (s, d', true)
            | none => (displaceNext (reserve st vi l) l (.head vi), d, false)

/-- The queues of a class that are eligible, from a number on. -/
def ring (st : State) (cls from_ : Nat) : List Nat :=
  let l := (st.vis.map (·.1)).filter (fun vi => ringOf st vi == some (BitVec.ofNat 2 cls))
  l.filter (fun v => decide (from_ ≤ v)) ++ l.filter (fun v => decide (v < from_))

/-- The turn of a queue in its ring, with whether it placed a block. -/
def ringTurn (st : State) (cls vi : Nat) : State × Bool :=
  if ringOf st vi != some (BitVec.ofNat 2 cls) then (st, false)
  else
    let q := quant st vi
    let d := min ((st.viOf vi).deficit + q) (q + 128)
    let (st, d, placed) := serveQueue cls 512 st vi d
    let st := st.setVi vi { st.viOf vi with deficit := d }
    ({ st with module := { st.module with nextVi := put st.module.nextVi cls ((vi + 1) % 1024) } }, placed)

/-- A pass over the four classes. -/
def placementPass (st : State) : State :=
  let began := settleQueues st
  let began := { began with module := { began.module with passDue := false } }
  let (st, placed) := (List.range 4).foldl (fun (acc : State × Bool) c =>
    (ring acc.1 c (lookD acc.1.module.nextVi c 0)).foldl (fun (acc : State × Bool) vi =>
      let (s, p) := ringTurn acc.1 c vi
      (s, acc.2 || p)) acc) (began, false)
  let st := settleQueues st
  if placed then passDue st else st

/-- PLACEMENT_PASS (R364). The scheduler places blocks by class and deficit round robin. -/
def execPlacementPass (st : State) : Host.Outcome State Fault Refusal :=
  if st.module.passDue then .next (placementPass st) else disabled "PLACEMENT_PASS"

/-! ## Budgets (R363) -/

/-- The slots a queue holds, but for those removed from the rotation. -/
def heldSlots (st : State) (vi : Nat) : Nat :=
  let seats := (st.blocks.filter (fun b => !b.2.displaced && blockVi' st b.2 == vi)).flatMap (·.2.seats)
  let kids := (st.threads.filter (fun t => t.2.present && t.2.child.isSome && t.2.vi.toNat == vi && !seats.contains t.1)).map (·.1)
  ((seats ++ kids).filter (fun t => inRotation st t)).length

/-- BUDGET_SAMPLE (R363). Every 1,000 ticks the held slots are charged to each queue. -/
def execBudgetSample (st : State) : Host.Outcome State Fault Refusal :=
  let m := st.module
  if m.samples * 1000 ≤ st.pitch ∧ m.samples < m.periods * 100 then
    let charge (v : Nat × Vi) : Nat × Vi :=
      let used := min (v.2.used.toNat + heldSlots st v.1) 0x7FFFF
      (v.1, { v.2 with used := BitVec.ofNat 19 used, exh := v.2.exh || decide (v.2.qcfg.toNat % 2 ^ 19 ≤ used) })
    let vis := st.vis.map charge
    let changed := (st.vis.zip vis).any (fun x => x.1.2.exh != x.2.2.exh)
    let st := settleQueues { st with vis := vis, module := { m with samples := m.samples + 1 } }
    .next (if changed then passDue st else st)
  else disabled "BUDGET_SAMPLE"

/-- PERIOD_START (R363). Every 100,000 ticks USED and EXH reset. -/
def execPeriodStart (st : State) : Host.Outcome State Fault Refusal :=
  let m := st.module
  if m.periods * 100000 ≤ st.pitch ∧ m.samples = m.periods * 100 then
    .next (passDue { st with vis := st.vis.map (fun v => (v.1, { v.2 with used := 0, exh := false })),
                             module := { m with periods := m.periods + 1 } })
  else disabled "PERIOD_START"

/-! ## Stages (R339, R343, R344, R350) -/

/-- The arguments of a tile task. -/
def taskArgs (l : Launch) (b t s : Nat) : List Word :=
  [BitVec.ofNat 32 (b + t * 2 ^ 16 + s * 2 ^ 23),
   BitVec.ofNat 32 (t % l.x + t / l.x * 2 ^ 4 + (l.x - 1) * 2 ^ 8 + (l.y - 1) * 2 ^ 12),
   BitVec.ofNat 32 (b % l.gx + b / l.gx * 2 ^ 16), BitVec.ofNat 32 (l.gx + l.gy * 2 ^ 16)]

/-- The pending stage of a tile that starts first. -/
def nextStage (b : Block) (tile : Nat) : Option Nat :=
  (List.range 8).find? (fun s => b.pending.contains (tile, s))

/-- Whether a block is still being placed again: some restore of its tasks has not ended (R373). -/
def comingIn (st : State) (key : Nat) (b : Block) : Bool :=
  (seatCores b).any (fun c => (st.core c).preempts.any (fun p => p.restore && p.block == some key))

/-- STAGE_START (R343). A pending stage starts when its seat is free and in rotation. DEDUCED (log entry 37): none starts before the
block's re-placement is complete, which may still be refused (R419). -/
def execStageStart (launch : Nat) (block : Nat) (tile : Nat) (st : State) : Host.Outcome State Fault Refusal :=
  let key := launch * 65536 + block
  match look st.launches launch, look st.blocks key with
  | some l, some b =>
    match b.seats[tile]?, nextStage b tile with
    | some t, some s =>
      if b.displaced || b.leaving || b.ended || comingIn st key b || (st.thread t).present || restoring st t || !inRotation st t then
        disabled "STAGE_START"
      else
        let th := startThread t st.serial l.vi (l.entries.getD s 0) l.cls (st.viOf l.vi.toNat).profile (taskArgs l block tile s)
        let th := { th with cwbase := l.cwbase, cwsize := l.cwsize,
                            task := some { launch := launch, block := block, tile := tile, stage := s } }
        let st := setBlock { st with serial := st.serial + 1 } key
          { b with pending := b.pending.filter (· != (tile, s)), started := b.started ++ [(tile, s)] }
        .next ((raiseClock st (coreOf t) (max l.clock b.clock)).setThread t th)
    | _, _ => disabled "STAGE_START"
  | _, _ => disabled "STAGE_START"

/-- A wake-up sets the pending bit of a tile and a stage, where the block is resident and the stage is not known (R343). -/
def wakeStage (st : State) (key tile stage clock : Nat) : State :=
  match look st.blocks key with
  | some b =>
    if b.displaced || b.ended || b.pending.contains (tile, stage) || b.started.contains (tile, stage) then st
    else setBlock st key { b with pending := b.pending ++ [(tile, stage)], clock := max b.clock clock }
  | none => st

/-- WAKEST_WAKEUP_ARRIVAL (R343). A wake-up sets the pending bit of the named tile and stage, or is dropped. -/
def execWakestWakeupArrival (idx : Nat) (st : State) : Host.Outcome State Fault Refusal :=
  match st.stWakes[idx]? with
  | some w => .next (wakeStage { st with stWakes := removeAt st.stWakes idx } (w.launch * 65536 + w.block) w.tile w.stage w.clock)
  | none => disabled "WAKEST_WAKEUP_ARRIVAL"

/-- MDRAIN_WAKEUP (R344). An MDRAIN wake-up arrives at a core and sets a stage pending. -/
def execMdrainWakeup (idx : Nat) (st : State) : Host.Outcome State Fault Refusal :=
  match st.mdWakes[idx]? with
  | some w =>
    let st := { st with mdWakes := removeAt st.mdWakes idx }
    let key := w.launch * 65536 + w.block
    match look st.launches w.launch, look st.blocks key with
    | some l, some b =>
      let known (t : Nat) : Bool := b.pending.contains (t, w.stage) || b.started.contains (t, w.stage)
      let here := (b.seats.zipIdx.filter (fun x => coreOf x.1 == w.core && !known x.2)).map (·.2)
      if w.stage = 0 ∨ l.stages ≤ w.stage then .next st
      else match here with
        | t :: _ => .next (wakeStage st key t w.stage w.clock)
        | [] => .next st
    | _, _ => .next st
  | none => disabled "MDRAIN_WAKEUP"

/-! ## Completion (R345, R360, R361) -/

/-- BLOCK_COMPLETION (R345). A block with nothing running, pending or in flight completes. -/
def execBlockCompletion (launch : Nat) (block : Nat) (st : State) : Host.Outcome State Fault Refusal :=
  let key := launch * 65536 + block
  match look st.launches launch, look st.blocks key with
  | some l, some b =>
    let inFlight := (st.stWakes ++ st.mdWakes).any (fun w => w.poster == some key)
    if !(runningSeats st key b).isEmpty || !(savedOf st key).isEmpty || !b.pending.isEmpty || inFlight then disabled "BLOCK_COMPLETION"
    else
      let clock := (seatCores b).foldl (fun c k => max c (st.core k).clock) (max l.clock (st.cluster b.cluster).clock)
      let st := dropRequests st key
      let st := if b.displaced then st else (barList l).foldl (fun st n => setBarrier st b.cluster n (releaseBarrier (barrierAt st b.cluster n))) st
      let x := st.cluster b.cluster
      let st := st.setCluster b.cluster { x with reserved := x.reserved.filter (· != .block key) }
      let st := setLaunch st launch { l with finished := l.finished + 1, clock := clock }
      .next (passDue { st with blocks := del st.blocks key })
  | _, _ => disabled "BLOCK_COMPLETION"

/-- The value of the completion word (R361). -/
def completionValue (l : Launch) : Word := if l.code = 0 then l.cmpval else 0x80000000 + l.code

/-- The record is over: QDONE counts it. -/
def closeLaunch (st : State) (n : Nat) (l : Launch) : State :=
  let v := st.viOf l.vi.toNat
  (setLaunch st n { l with done := true, held := none }).setVi l.vi.toNat { v with qdone := v.qdone + 1 }

/-- WAKEA.S, at time c, of all waiters on a word at the home (R240, R360). -/
def wakeAll (st : State) (key c : Nat) : State :=
  let woken := st.bridge.watchers.filter (fun w => w.key == key)
  let st := setWatchers st 0 (st.bridge.watchers.filter (fun w => w.key != key))
  let st := { st with bridge := { st.bridge with notices := st.bridge.notices ++ [key] } }
  woken.foldl (fun st w => endWaita st w.thread 0 c) st

/-- Whether a CALLAT child runs, waits or is on its way in a launch (R347): its accesses are the launch's. -/
def childrenOf (st : State) (n : Nat) : Bool :=
  let mine (th : Thread) : Bool := (th.child.map (·.launch)) == some (some n)
  st.threads.any (fun p => p.2.present && mine p.2) || st.saved.any (fun p => mine p.2) || st.flights.any (fun f => f.launch == some n) ||
    st.cores.any (fun c => c.2.calls.any (fun f => f.launch == some n))

/-- LAUNCH_COMPLETION (R360). A launch completes and its completion word is written, once every access of its tasks has been
performed. A write whose page request was refused is lost. -/
def execLaunchCompletion (launch : Nat) (st : State) : Host.Outcome State Fault Refusal :=
  match look st.launches launch with
  | some l =>
    if l.done || !l.complete || l.held.isSome || childrenOf st launch || (l.code != 0 && blockBusy st l.vi) then disabled "LAUNCH_COMPLETION"
    else if !l.cmp || l.refused then .next (closeLaunch st launch l)
    else match schedWrite st l.who l.cmpaddr (completionValue l) l.clock with
      | .ok (st, key, c) => .next (closeLaunch (if l.wake then wakeAll st key c else st) launch l)
      | .error (.wait st) => .next st
      | .error (.fault st _ va soft) =>
        .next (if soft then setLaunch st launch { l with held := some (pageOf va) } else closeLaunch st launch l)
  | none => disabled "LAUNCH_COMPLETION"

/-! ## Queue registers (R362, R369) -/

/-- A write of VI_QCFG (R362). Clearing EN cancels every queued record that has not started placing, in queue order (R361). -/
def writeQcfg (st : State) (vi : Nat) (value : Word) : State :=
  let w := value &&& 0x9FFFFFFF
  if w.toNat / 2 ^ 19 % 2 ^ 8 = 0 ∨ 409600 < w.toNat % 2 ^ 19 then st
  else
    let st := st.setVi vi { st.viOf vi with qcfg := w }
    let st := if w.getLsbD 31 then st else (st.viOf vi).queue.foldl (fun st n =>
      match look st.launches n with
      | some l => if l.placed = 0 then failLaunch st n l 4 else st
      | none => st) st
    settleQueues st

/-- VI_QCFG_WRITE (R362). Writes queue configuration; clearing EN cancels queued records. -/
def execViQcfgWrite (vi : BitVec 10) (value : BitVec 32) (st : State) : Host.Outcome State Fault Refusal :=
  if booted st then .next (writeQcfg st vi.toNat value) else disabled "VI_QCFG_WRITE"

/-- A write of VI_SAVEBASE (R369): refused re-placements may be attempted again, in a pass that is due then (R419). -/
def writeSavebase (st : State) (vi : Nat) (value : DWord) : State :=
  let st := st.setVi vi { st.viOf vi with savebase := value &&& 0xFFFFFFFFF0000001 }
  let freed := st.blocks.any (fun b => b.2.barred && blockVi' st b.2 == vi)
  let st := { st with blocks := st.blocks.map (fun b => (b.1, if blockVi' st b.2 = vi then { b.2 with barred := false } else b.2)) }
  if freed then passDue st else st

/-- SAVEBASE_WRITE (R419). Writing VI_SAVEBASE releases refused re-placements. -/
def execSavebaseWrite (vi : BitVec 10) (value : BitVec 64) (st : State) : Host.Outcome State Fault Refusal :=
  .next (writeSavebase st vi.toNat value)

end Sys2Proof.Machine
end

