-- ==== Sys2Proof/Machine/Power.lean ====
section
/-!
DEFINITION. Sys2Proof/Machine/Power.lean: dividers, switches, rails, slot removal, the capo, the thermal trip, and the ports of
the Course link (R395 to R402, R420, R422, R423).
-/

namespace Sys2Proof.Machine

/-! ## Dividers and switches (R395 to R397) -/

/-- CO_PWR as it reads. On a die that has tripped every slot is removed (R402). -/
def pwrWord (st : State) (core : Nat) : Word :=
  let c := st.core core
  let rmv : BitVec 8 := if st.module.trip.getLsbD (core / 256) then 0xFF else c.rmv
  (0 : BitVec 8) ++ rmv ++ (0 : BitVec 4) ++ bit c.lim ++ c.eff ++ (0 : BitVec 4) ++ bit c.sw ++ c.div

/-- The divider a core is to have, with DIV given: the slowest of three (R396). -/
def targetEff (st : State) (core : Nat) (div : BitVec 3) : Nat :=
  let floors := ((List.range 8).filter (fun s => running st (core * 8 + s))).map (fun s => (st.thread (core * 8 + s)).profile.toNat / 2 ^ 8 % 8)
  (floors ++ [(st.core core).ctlDiv.toNat]).foldl max div.toNat

/-- The voltage step of a divider: 0 for ÷1, 1 for ÷2, 2 for ÷3, 3 for the slower ones (R397). -/
def railClass (div : Nat) : Nat := min div 3

/-- The cores of a voltage row. -/
def rowCores (row : Nat) : List Nat := (List.range 16).map (fun i => row * 16 + i)

def railOf (st : State) (row : Nat) : Nat := lookD st.module.rails row 0
def setRail (st : State) (row k : Nat) : State := { st with module := { st.module with rails := put st.module.rails row k } }

/-- The voltage step that the fastest divider of a row needs, in force or asked for. -/
def neededRail (st : State) (row : Nat) (asked : Bool) : Nat :=
  ((rowCores row).map (fun c =>
    let e := railClass (st.core c).eff.toNat
    if asked then min e (railClass (targetEff st c (st.core c).div)) else e)).foldl min 3

/-- A row's rail is lowered where no core of it needs the voltage any more (R397). -/
def lowerRail (st : State) (row : Nat) : State := setRail st row (max (railOf st row) (neededRail st row true))

/-- The controller's own divider of a core (R396); 7 is reserved. -/
def setController (st : State) (core : Nat) (div : BitVec 3) : State :=
  if div = 7 then st else st.setCore core { st.core core with ctlDiv := div }

/-- Whether any slot of a core runs, seats or holds a pre-empted thread (R395). -/
def coreInUse (st : State) (core : Nat) : Bool :=
  (List.range 8).any (fun s => (st.thread (core * 8 + s)).present || (seatOf st (core * 8 + s)).isSome) ||
    st.saved.any (fun p => coreOf (p.1 % 4096) == core)

/-- A write of CO_PWR (R395, R396). -/
def writePwr (st : State) (core : Nat) (value : Word) : State :=
  let c := st.core core
  let div : BitVec 3 := value.setWidth 3
  let sw := value.getLsbD 3
  if div = 7 ∨ ((div = 6 ∨ !sw) ∧ coreInUse st core) ∨ (st.module.capo ∧ targetEff st core div < c.eff.toNat) then st
  else
    let c := { c with div := div, sw := sw }
    if sw = (st.core core).sw then lowerRail (st.setCore core c) (rowOf core)
    else if sw then st.setCore core { c with ready := false, clock := (st.cluster (clusterOf core)).clock }
    else st.setCore core { c with ready := false, l1 := [] }

/-- CO_PWR_WRITE (R395). Sets a core's requested divider and power switch. -/
def execCoPwrWrite (core : BitVec 9) (value : BitVec 32) (st : State) : Host.Outcome State Fault Refusal :=
  .next (writePwr st core.toNat value)

/-- EFF_CHANGE (R396). A new effective divider takes effect; a faster one waits for its voltage row and for the capo. -/
def execEffChange (core : BitVec 9) (st : State) : Host.Outcome State Fault Refusal :=
  let k := core.toNat
  let c := st.core k
  let new := targetEff st k c.div
  if new = c.eff.toNat ∨ (new < c.eff.toNat ∧ (st.module.capo ∨ railClass new < railOf st (rowOf k))) then disabled "EFF_CHANGE"
  else
    let st := st.setCore k { c with eff := BitVec.ofNat 3 new }
    .next (lowerRail st (rowOf k))

/-- RAIL_RISE (R397). A voltage row rail finishes rising. -/
def execRailRise (row : BitVec 5) (st : State) : Host.Outcome State Fault Refusal :=
  let r := row.toNat
  if !st.module.capo && decide (neededRail st r true < railOf st r) then .next (setRail st r (neededRail st r true))
  else disabled "RAIL_RISE"

/-- CORE_SWITCH_READY (R396). A core is ready 1.0 µs after its power switch closes. -/
def execCoreSwitchReady (core : BitVec 9) (st : State) : Host.Outcome State Fault Refusal :=
  let c := st.core core.toNat
  if c.sw && !c.ready then .next (st.setCore core.toNat { c with ready := true }) else disabled "CORE_SWITCH_READY"

/-! ## Slot removal (R398) -/

/-- The limit of the profile, or of the capo (R161, R400, R401). -/
def profileLimit (m : Module) : Nat := if m.capo then 128 else if m.profNow = 1 then 320 else 256

/-- The removed slots of all cores of a row. -/
def setRemoved (st : State) (row : Nat) (rmv : BitVec 8) : State :=
  (rowCores row).foldl (fun st c => st.setCore c { st.core c with rmv := rmv, lim := rmv != 0 }) st

/-- SLOT_REMOVAL (R398). A row at its current limit has one more slot number removed, from 7 down to 1; then the budget falls. -/
def execSlotRemoval (row : BitVec 5) (st : State) : Host.Outcome State Fault Refusal :=
  let rmv := (st.core (row.toNat * 16)).rmv
  match [7, 6, 5, 4, 3, 2, 1].find? (fun i => !rmv.getLsbD i) with
  | some i => .next (setRemoved st row.toNat (rmv ||| BitVec.ofNat 8 (2 ^ i)))
  | none =>
    let m := st.module
    .next { st with module := { m with limit := Config.loweredLimit st.drawn % max 1 m.limit }, drawn := st.drawn + 1 }

/-- SLOT_RETURN (R398). After 10 µs below 90 % of the limit, the lowest removed slot number returns. -/
def execSlotReturn (row : BitVec 5) (st : State) : Host.Outcome State Fault Refusal :=
  let rmv := (st.core (row.toNat * 16)).rmv
  match (List.range 8).find? (fun i => rmv.getLsbD i) with
  | some i =>
    let st := setRemoved st row.toNat (rmv &&& ~~~(BitVec.ofNat 8 (2 ^ i)))
    .next { st with module := { st.module with limit := profileLimit st.module } }
  | none => disabled "SLOT_RETURN"

/-! ## The capo and the profile (R400, R401) -/

/-- The capo engages for a reason. -/
def engageCapo (st : State) (why : BitVec 2) : State :=
  { st with module := { st.module with capo := true, why := why, limit := 128, beats := 0 } }

/-- Whether the heartbeat is late: none for 250,000 ticks. -/
def beatLate (st : State) : Bool := decide (st.module.lastBeat + 250000 < st.pitch)

/-- FIRMWARE_HEARTBEAT (R401). A firmware heartbeat: a late one engages the capo, the second on-time one releases it. -/
def execFirmwareHeartbeat (onTime : Bool) (st : State) : Host.Outcome State Fault Refusal :=
  if onTime = beatLate st ∨ st.module.phase = .firmware then disabled "FIRMWARE_HEARTBEAT"
  else if !onTime then .next (engageCapo { st with module := { st.module with lastBeat := st.pitch } } 1)
  else
    let m := { st.module with lastBeat := st.pitch, beats := st.module.beats + 1 }
    if m.capo ∧ 2 ≤ m.beats then
      let m := { m with capo := false, why := 0 }
      .next { st with module := { m with limit := profileLimit m } }
    else .next { st with module := m }

/-- HEARTBEAT_MISSED (R401). The watchdog expires and the capo engages. -/
def execHeartbeatMissed (st : State) : Host.Outcome State Fault Refusal :=
  if beatLate st && st.module.phase != .firmware then .next (engageCapo st 1) else disabled "HEARTBEAT_MISSED"

/-- FIRMWARE_IMAGE_SWITCH (R401). Firmware begins switching images; the capo engages. -/
def execFirmwareImageSwitch (st : State) : Host.Outcome State Fault Refusal :=
  .next (engageCapo { st with module := { st.module with img := ~~~st.module.img } } 2)

/-! ## The thermal trip (R402) -/

def setJunction (m : Module) (die : BitVec 1) (t : BitVec 8) : Module := if die = 0 then { m with tj0 := t } else { m with tj1 := t }
def dieBit (die : BitVec 1) : BitVec 2 := if die = 0 then 1 else 2

def junctionOf (m : Module) (die : BitVec 1) : BitVec 8 := if die = 0 then m.tj0 else m.tj1

/-- The junction of a die has come to t °C (R400). Below the trip point, unless the die is tripped already. Below 95 °C the time of
R402 runs. -/
def newTemperature (st : State) (die : BitVec 1) (t : BitVec 8) : State :=
  let m := st.module
  if t < 105 || m.trip.getLsbD die.toNat then
    let cooled := if 95 ≤ t then del m.cooled die.toNat else if junctionOf m die < 95 then m.cooled else put m.cooled die.toNat st.pitch
    { st with module := { setJunction m die t with cooled := cooled } }
  else st

/-- The engines of a die stop at a step boundary: a step that has partly been performed is completed first. -/
def settleDie (st : State) (die : BitVec 1) : State :=
  st.module.engines.foldl (fun st p => match p.2.holder with
    | some (r, e) => if engineDie p.1 = some die.toNat then settleStep st r e true else st
    | none => st) st

/-- THERMAL_TRIP (R402). A die reaches 105 °C; its slots and engines stop. -/
def execThermalTrip (die : BitVec 1) (st : State) : Host.Outcome State Fault Refusal :=
  let st := settleDie st die
  .next { st with module := { setJunction st.module die 105 with trip := st.module.trip ||| dieBit die,
                                                                  cooled := del st.module.cooled die.toNat } }

/-- THERMAL_RECOVERY (R402). After 1 ms below 95 °C, issue returns. -/
def execThermalRecovery (die : BitVec 1) (st : State) : Host.Outcome State Fault Refusal :=
  let m := st.module
  if m.trip.getLsbD die.toNat ∧ junctionOf m die < 95 ∧ (look m.cooled die.toNat).any (fun p => p + 1000000 ≤ st.pitch) then
    .next { st with module := { m with trip := m.trip &&& ~~~(dieBit die) } }
  else disabled "THERMAL_RECOVERY"

/-! ## The Course link (R420, R422, R423) -/

def portWidth (m : Module) (p : Nat) : BitVec 2 := lookD m.width p 3
def setWidthOf (st : State) (p : Nat) (w : BitVec 2) : State := { st with module := { st.module with width := put st.module.width p w } }

/-- MD_LINKSTAT_p. -/
def linkstatWord (m : Module) (p : Nat) : Word :=
  portWidth m p ++ bit (lookD m.shed p false) ++ (0 : BitVec 13) ++ lookD m.sheds p 0

def setShed (st : State) (p : Nat) (b : Bool) : State := { st with module := { st.module with shed := put st.module.shed p b } }

/-- A width transition of a port begins (R422), where the port is up: SHED reads 1 until LANE_SHED completes it. -/
def beginRetrain (st : State) (p : Nat) : State := if portWidth st.module p = 3 then st else setShed st p true

/-- LANE_SHED (R422). A Course link port changes width, replaying buffered flits. While the capo holds none becomes wider. -/
def execLaneShed (port : BitVec 1) (width : BitVec 2) (st : State) : Host.Outcome State Fault Refusal :=
  let p := port.toNat
  let w := portWidth st.module p
  if w = 3 ∨ width = 3 ∨ width = w ∨ (st.module.capo ∧ width < w) then disabled "LANE_SHED"
  else
    let n := lookD st.module.sheds p 0
    let st := setShed (setWidthOf st p width) p false
    .next { st with module := { st.module with sheds := put st.module.sheds p (if n = 0xFFFF then n else n + 1) } }

/-- Whether a key lies in the peer module's memory. -/
def peerKey (st : State) (key : Nat) : Bool := peerRange st.module key

/-- A store on its way to the other module as the ports fail: it is performed there or not, as the free value says, and will be
recorded as LINK_FAULT (R423). -/
def cutStore (s : State) (core i : Nat) : State :=
  match (s.core core).buffer[i]? with
  | some e =>
    match (e.away.map Sent.place : Option Place) with
    | some (.peer _) =>
      let t := { s with drawn := s.drawn + 1 }
      let t := if Config.sentPerformed s.drawn then (match performEntry t core e with | .ok u => u | .error _ => t) else t
      t.setCore core { t.core core with buffer := replaceAt (t.core core).buffer i { e with cut := true } }
    | _ => s
  | none => s

/-- Every store on its way to the other module. -/
def cutStores (st : State) : State :=
  st.cores.foldl (fun st c => (List.range c.2.buffer.length).foldl (fun st i => cutStore st c.1 i) st) st

/-- A thread whose LRW is queued at the other module, or has been granted its line there and has not read it, leaves the queue; the
LRW traps when it is tried again, at once or after what has interrupted it (R423). -/
def cutReservation (st : State) (r : Nat) : State :=
  match (st.byRef r).rsv with
  | .awaits q line => if peerKey st (64 * line) then (leaveQueue st q line r).updRef r (fun th => { th with rsv := .lost line }) else st
  | _ => st

/-- What ends when both ports are down: WAITAs registered at the peer return code 0, and LRWs queued there trap (R423). -/
def cutPeer (st : State) : State :=
  let gone := st.bridge.watchers.filter (fun w => peerKey st w.key)
  let st := setWatchers st 0 (st.bridge.watchers.filter (fun w => !peerKey st w.key))
  let st := gone.foldl (fun st w => endWaita st w.thread 0 0) st
  let refs := (st.threads.map (fun p => st.refOf p.1)) ++ st.saved.map (·.1)
  refs.foldl cutReservation st

/-- PORT_DOWN (R423). A Course link port fails; traffic moves or faults. -/
def execPortDown (port : BitVec 1) (st : State) : Host.Outcome State Fault Refusal :=
  if portWidth st.module port.toNat = 3 then disabled "PORT_DOWN"
  else
    let down (st : State) : State := setShed (setWidthOf st port.toNat 3) port.toNat false
    .next (if linkDown (down st).module then cutPeer (down (cutStores st)) else down st)

/-- The ports are trained in the bring-up's third step, and may come up later (R431). -/
def trainable (st : State) : Bool := st.module.phase == .link || st.module.phase == .host

/-- PORT_UP (R431). A Course link port comes up at a trained width; the pitch counters start to meet again where it is the
first (R423). -/
def execPortUp (port : BitVec 1) (width : BitVec 2) (st : State) : Host.Outcome State Fault Refusal :=
  if portWidth st.module port.toNat ≠ 3 ∨ width = 3 ∨ !trainable st then disabled "PORT_UP" else 
    let st := if linkDown st.module then { st with module := { st.module with linkSince := st.pitch } } else st
    .next (setWidthOf st port.toNat width)

end Sys2Proof.Machine
end

