-- ==== Sys2Proof/Machine/ModuleRegs.lean ====
section
/-!
DEFINITION. Sys2Proof/Machine/ModuleRegs.lean: the registers that declare CAR stores, commutative ranges and stash banks, the
split of cluster memory and the barriers' counts (R30 to R34, R58, R73, R96, R306), with the work their writes start.
-/

namespace Sys2Proof.Machine

/-! ## Ranges of module memory -/

/-- A range of physical addresses: its first byte and its length. -/
abbrev Span := Nat × Nat

def Span.has (x : Span) (pa : Nat) : Bool := decide (x.1 ≤ pa) && decide (pa < x.1 + x.2)
def Span.meets (x y : Span) : Bool := decide (x.1 < y.1 + y.2) && decide (y.1 < x.1 + x.2)

/-- Whether a range lies wholly in this module's memory (R29). -/
def Span.ownIn (x : Span) (m : Module) : Bool := ownRange m x.1 && ownRange m (x.1 + x.2 - 1)

def CarStore.span (c : CarStore) : Span := (c.pbase.toNat * 2 ^ 30, 2 ^ (30 + c.log2.toNat))

/-- The range of MD_CRBASE and MD_CRCFG values (R73). -/
def crSpan (base : DWord) (cfg : Word) : Span := (base.toNat / 4096 * 4096, (cfg.toNat / 2 ^ 8 % 2 ^ 20 + 1) * 4096)

/-- Whether a range meets an enabled CAR store other than `n`, or an enabled commutative range other than `k`. -/
def meetsStore (m : Module) (x : Span) (n : Option Nat) : Bool := m.car.any (fun p => some p.1 != n && p.2.en && x.meets p.2.span)
def meetsRange (m : Module) (x : Span) (k : Option Nat) : Bool :=
  m.crcfg.any (fun p => some p.1 != k && p.2.getLsbD 0 && x.meets (crSpan (lookD m.crbase p.1 0) p.2))

/-- The bridge recalls every host copy of a range's lines (R37, R78). -/
def recallHost (st : State) (x : Span) : State :=
  { st with bridge := { st.bridge with hostHeld := st.bridge.hostHeld.filter (fun l => !x.has (64 * l.1)) } }

/-! ## CAR stores (R30 to R34) -/

/-- MD_CARCFG_n as it reads. -/
def carcfgValue (c : CarStore) : DWord :=
  c.pbase ++ (0 : BitVec 14) ++ c.gen ++ c.log2 ++ (0 : BitVec 1) ++ bit c.ibusy ++ bit c.dbusy ++ bit c.en

/-- The conditions of R30 under which a write sets EN. -/
def carMayEnable (m : Module) (n : Nat) (c : CarStore) : Bool :=
  c.gen != 0 && decide (c.log2.toNat ≤ 6) && !c.ibusy && !c.dbusy && c.span.ownIn m && !meetsStore m c.span (some n) &&
    !meetsRange m c.span none

/-- A write of MD_CARCFG_n (R30, R32, R33, R37). -/
def writeCarcfg (st : State) (n : Nat) (v : DWord) : State :=
  let c := carStore st n
  let en := v.getLsbD 0
  let init := v.getLsbD 3
  if c.en then
    if en then st else setCarStore st n { c with en := false, dbusy := true }
  else if c.dbusy && (init || en) then st
  else
    let c := { c with pbase := v.extractLsb' 30 34, gen := v.extractLsb' 8 8, log2 := v.extractLsb' 4 4 }
    if en then
      if carMayEnable st.module n c then setCarStore (recallHost st c.span) n { c with en := true, homeBase := c.pbase, homeGen := c.gen, homeLog := c.log2 } else st
    else if init && !c.ibusy then setCarStore st n { c with ibusy := true, clearBase := c.pbase, clearLog := c.log2 }
    else setCarStore st n c

/-- CAR_INIT (R32). MD_CARCFG INIT starts clearing a store's directory. -/
def execCarInit (store : BitVec 2) (value : BitVec 64) (st : State) : Host.Outcome State Fault Refusal :=
  if value.getLsbD 3 && !value.getLsbD 0 then .next (writeCarcfg st store.toNat value) else disabled "CAR_INIT"

/-- CAR_STORE_ENABLE (R30). Setting EN recalls host copies and activates a store. -/
def execCarStoreEnable (store : BitVec 2) (value : BitVec 64) (st : State) : Host.Outcome State Fault Refusal :=
  if value.getLsbD 0 then .next (writeCarcfg st store.toNat value) else disabled "CAR_STORE_ENABLE"

/-- CAR_STORE_DISABLE (R33). Clearing EN refuses new requests and sets DBUSY. -/
def execCarStoreDisable (store : BitVec 2) (value : BitVec 64) (st : State) : Host.Outcome State Fault Refusal :=
  if (carStore st store.toNat).en && !value.getLsbD 0 then .next (writeCarcfg st store.toNat value) else disabled "CAR_STORE_DISABLE"

/-- CAR_DIRECTORY_CLEAR_DONE (R32). The last directory entry is cleared and IBUSY clears. DESIGN CHOICE (log entry 80): INIT
clears the range that was written with it, whatever LOG2SIZE and wherever it lies: R30 tests both only for EN. -/
def execCarDirectoryClearDone (store : BitVec 2) (st : State) : Host.Outcome State Fault Refusal :=
  let n := store.toNat
  let c := carStore st n
  if c.ibusy then
    let x := CarStore.span { c with pbase := c.clearBase, log2 := c.clearLog }
    let st := { st with mem := st.mem.filter (fun p => !(x.has p.1 && decide ((p.1 - x.1) % 2048 < 1024))) }
    .next (setCarStore st n { c with ibusy := false })
  else disabled "CAR_DIRECTORY_CLEAR_DONE"

/-- What a disable does to a lease of a thread: an operation on the store is cut off from it, and one that runs, or
has stopped for another cause, stops with PERMISSION_FAULT (R33). -/
def cutLease (st : State) (n r e : Nat) : State :=
  let mine (o : EngineOp) : Bool := (o.kind == .hingest || o.kind == .gcopy) && o.store == n
  if !(leaseOf st r e).ops.any mine then st
  else
    let st := settleIngest st r e true
    let st := updLease st r e (fun l => { l with ops := l.ops.map (fun o => if mine o then { o with lost := true } else o) })
    let l := leaseOf st r e
    match l.ops with
    | o :: _ =>
      if mine o && (l.state == .held || l.flt) then
        stopOp { st with drawn := st.drawn + 1 } r e o .permissionFault (Config.openTval st.drawn)
      else st
    | [] => st

/-- The references to every thread, resident or saved. -/
def allRefs (st : State) : List Nat :=
  ((st.threads.filter (fun p => p.2.present)).map (fun p => st.refOf p.1)) ++ st.saved.map (·.1)

/-- Whether a request that reached the home of a store before its disable has yet to complete there. -/
def carUnderway (st : State) (n : Nat) : Bool :=
  st.threads.any (fun p => match p.2.wait with
    | .carPending k .. | .carWaits k => k == n
    | _ => false)

/-- CAR_DISABLE_DONE (R33). Disable work ends and DBUSY clears. -/
def execCarDisableDone (store : BitVec 2) (st : State) : Host.Outcome State Fault Refusal :=
  let n := store.toNat
  if (carStore st n).dbusy && !carUnderway st n then
    let st := (allRefs st).foldl (fun st r => (List.range 4).foldl (fun st e => cutLease st n r e) st) st
    let st := { st with bridge := { st.bridge with reclaim := st.bridge.reclaim.filter (fun x => x.1 != n) } }
    let st := dropName st (fun k => k / 2 ^ 64 == n)
    .next (setCarStore st n { carStore st n with dbusy := false })
  else disabled "CAR_DISABLE_DONE"

/-- Slots of a store in LIVE state: bytes of STATE that hold 1. A store that is not declared has none. -/
def liveSlots (st : State) (c : CarStore) : Nat :=
  if !c.en && !c.dbusy then 0 else (st.mem.filter (fun p =>
    let o := p.1 - c.span.1
    c.span.has p.1 && decide (o % 2048 < 1024) && o % 64 == 36 && p.2 == 1)).length

/-- MD_CARSTAT_n (R34). -/
def carstatValue (st : State) (n : Nat) : DWord :=
  let c := carStore st n
  BitVec.ofNat 32 (liveSlots st (homeStore st n)) ++ c.coll ++ c.sfull

/-- A write of MD_CARSTAT_n: the top bit of a field clears it. -/
def writeCarstat (st : State) (n : Nat) (v : DWord) : State :=
  let c := carStore st n
  setCarStore st n { c with coll := if v.getLsbD 31 then 0 else c.coll, sfull := if v.getLsbD 15 then 0 else c.sfull }

/-! ## Commutative ranges (R73, R75, R78) -/

def crcfgOf (st : State) (n : Nat) : Word := lookD st.module.crcfg n 0
def setCrcfg (st : State) (n : Nat) (w : Word) : State := { st with module := { st.module with crcfg := put st.module.crcfg n w } }

/-- A write of MD_CRBASE_n. -/
def writeCrbase (st : State) (n : Nat) (v : DWord) : State :=
  if (crcfgOf st n) &&& 3 = 0 then
    { st with module := { st.module with crbase := put st.module.crbase n (v &&& 0xFFFFFFFFFFFFF000) } }
  else st

/-- The conditions of R73 under which a write sets EN. -/
def crMayEnable (m : Module) (n : Nat) (w : Word) : Bool :=
  let x := crSpan (lookD m.crbase n 0) w
  w.toNat / 2 ^ 6 % 4 != 3 && w.toNat / 2 ^ 4 % 4 != 3 && x.ownIn m && !meetsStore m x none && !meetsRange m x (some n)

/-- A write of MD_CRCFG_n. Clearing EN sets BUSY and changes nothing else; while BUSY is 1 the fields keep their values. -/
def writeCrcfg (st : State) (n : Nat) (v : Word) : State :=
  let old := crcfgOf st n
  let w := v &&& 0x0FFFFFF1
  if old.getLsbD 0 then (if w.getLsbD 0 then st else setCrcfg st n ((old &&& ~~~1) ||| 2))
  else if old.getLsbD 1 then st
  else if w.getLsbD 0 && crMayEnable st.module n w then
    setCrcfg (recallHost st (crSpan (lookD st.module.crbase n 0) w)) n w
  else setCrcfg st n (w &&& ~~~1)

/-- CRANGE_ENABLE (R73). Setting EN recalls host copies and activates a commutative range. -/
def execCrangeEnable (n : BitVec 4) (value : BitVec 32) (st : State) : Host.Outcome State Fault Refusal :=
  if value.getLsbD 0 then .next (writeCrcfg st n.toNat value) else disabled "CRANGE_ENABLE"

/-- CRANGE_DISABLE (R73). Clearing EN sets BUSY and starts combining partials. -/
def execCrangeDisable (n : BitVec 4) (value : BitVec 32) (st : State) : Host.Outcome State Fault Refusal :=
  if (crcfgOf st n.toNat).getLsbD 0 && !value.getLsbD 0 then .next (writeCrcfg st n.toNat value) else disabled "CRANGE_DISABLE"

/-- The latest cluster clock. -/
def latestClock (st : State) : Nat := (st.clusters.map (·.2.clock)).foldl max 0

/-- CRANGE_DISABLE_DONE (R73). Every partial is combined and BUSY clears. -/
def execCrangeDisableDone (n : BitVec 4) (st : State) : Host.Outcome State Fault Refusal :=
  let k := n.toNat
  let w := crcfgOf st k
  if w.getLsbD 1 then
    let lines := (st.clusters.flatMap (fun c => c.2.partials.map (·.1))).eraseDups.filter (fun l => crCovers st.module k (64 * l))
    let c := latestClock st
    .next (setCrcfg (lines.foldl (fun st l => combineLine st k 0 l c allClusters) st) k (w &&& ~~~2))
  else disabled "CRANGE_DISABLE_DONE"

/-! ## Stash banks (R96) -/

def bstashOf (st : State) (core n : Nat) : DWord := lookD (st.core core).bstash n 0
def setBstash (st : State) (core n : Nat) (v : DWord) : State :=
  st.setCore core { st.core core with bstash := put (st.core core).bstash n v }

/-- A write of CO_BSTASH_n. While BUSY is 1 the mapping that is being undone keeps its fields. DESIGN CHOICE (log entry
45): where another bank maps the same addresses EN stays 0, and VBASE and VINUM take the written value. -/
def writeBstash (st : State) (core n : Nat) (v : DWord) : State :=
  let old := bstashOf st core n
  let w := v &&& 0xFFFFFFFFFFFFFFF1
  if old.getLsbD 0 then (if w.getLsbD 0 then st else setBstash st core n ((old &&& ~~~1) ||| 2))
  else if old.getLsbD 1 then st
  else if w.getLsbD 0 && (st.core core).bstash.any (fun p => p.1 != n && p.2 == w) then setBstash st core n (w &&& ~~~1)
  else setBstash st core n w

/-- STASH_MAP (R96). Setting CO_BSTASH EN maps a bank as a stash. -/
def execStashMap (core : BitVec 9) (bank : BitVec 4) (value : BitVec 64) (st : State) : Host.Outcome State Fault Refusal :=
  if value.getLsbD 0 && decide (bank.toNat < 14) then .next (writeBstash st core.toNat bank.toNat value) else disabled "STASH_MAP"

/-- STASH_UNMAP (R96). Clearing EN sets BUSY and writes back dirty stash lines. -/
def execStashUnmap (core : BitVec 9) (bank : BitVec 4) (value : BitVec 64) (st : State) : Host.Outcome State Fault Refusal :=
  if (bstashOf st core.toNat bank.toNat).getLsbD 0 && !value.getLsbD 0 then .next (writeBstash st core.toNat bank.toNat value)
  else disabled "STASH_UNMAP"

/-- A bank's bytes once it has been a stash, which the manual does not state. -/
def freeBank (st : State) (core bank : Nat) : State :=
  let v := (List.range 0x4000).map (fun i => Config.stashByte (st.drawn + i))
  { st with mem := memPutNat st.mem (localKey core (bank * 0x4000)) 0x4000 (ofLanes 8 (v.map (·.toNat))), drawn := st.drawn + 0x4000 }

/-- The full/empty instructions parked on words of a bank that is unmapped attempt again (R220). -/
def wakeBank (st : State) (core n : Nat) : State :=
  let place := clusterOf core + 1
  let gone := (parkedAt st place).filter (fun x => x.bank == some core && (look (st.core core).stash (stashKey n (x.key / 64))).isSome)
  gone.foldl (fun st x => feWake st x.thread) (setParked st place ((parkedAt st place).filter (fun x => !gone.contains x)))

/-- STASH_UNMAP_DONE (R96). Write-back ends, every line is discarded and BUSY clears. -/
def execStashUnmapDone (core : BitVec 9) (bank : BitVec 4) (st : State) : Host.Outcome State Fault Refusal :=
  let c := core.toNat
  let n := bank.toNat
  let w := bstashOf st c n
  if w.getLsbD 1 then
    let st := wakeBank (stashPushAll st c (some n)) c n
    let st := st.setCore c { st.core c with stash := (st.core c).stash.filter (fun p => p.1 % 16 != n) }
    .next (freeBank (setBstash st c n (w &&& ~~~2)) c n)
  else disabled "STASH_UNMAP_DONE"

/-! ## Cluster memory (R58) and the counts of barriers (R306) -/

/-- CL_CCFG as it reads. -/
def ccfgWord (c : Cluster) : Word := (0 : BitVec 16) ++ c.lease ++ (0 : BitVec 4) ++ c.scratch

/-- A new split of cluster memory: the cache pushes what is dirty and drops all copies, and the scratch reads zero, all full. -/
def splitCluster (st : State) (k : Nat) (scratch : BitVec 4) : State :=
  let st := pushAll st k
  let st := (st.cluster k).partials.foldl (fun st p => dropPartial st k p.1) st
  let floor := ((st.cluster k).lines.map (·.2.granted)).foldl max (st.cluster k).leaseFloor
  let st := st.setCluster k { st.cluster k with scratch := scratch, lines := [], partials := [], names := [], leaseFloor := floor }
  let x : Span := (scratchKey k 0, 2 ^ 22)
  { st with mem := st.mem.filter (fun p => !x.has p.1), empty := st.empty.filter (fun w => !x.has (4 * w)) }

/-- A write of CL_CCFG. -/
def writeCcfg (st : State) (k : Nat) (w : Word) : State :=
  let lease : BitVec 8 := w.extractLsb' 8 8
  let scratch : BitVec 4 := w.extractLsb' 0 4
  let change := scratch != (st.cluster k).scratch
  if lease = 0 ∨ 64 < lease.toNat ∨ 8 < scratch.toNat ∨ (change ∧ !(residentBlocks st k).isEmpty) then st
  else
    let st := if change then splitCluster st k scratch else st
    st.setCluster k { st.cluster k with lease := lease }

/-- CCFG_WRITE (R58). A CL_CCFG write changes lease length or scratch split. -/
def execCcfgWrite (cl : BitVec 5) (value : BitVec 32) (st : State) : Host.Outcome State Fault Refusal :=
  .next (writeCcfg st cl.toNat value)

/-- A write of CL_BARCFG_n. -/
def writeBarcfg (st : State) (k n : Nat) (w : Word) : State :=
  let b := barrierAt st k n
  let count : BitVec 10 := w.extractLsb' 0 10
  if count = 0 then st
  else setBarrier st k n (if w.getLsbD 31 then { b with count := count, phase := 0, arr := 0, bal := 0 } else { b with count := count })

/-- BARRIER_INIT (R306). CL_BARCFG INIT zeroes PHASE, ARR and BAL. -/
def execBarrierInit (cl : BitVec 5) (n : BitVec 4) (value : BitVec 32) (st : State) : Host.Outcome State Fault Refusal :=
  .next (writeBarcfg st cl.toNat n.toNat value)

end Sys2Proof.Machine
end

