-- ==== Sys2Proof/Machine/Protect.lean ====
section
/-!
DEFINITION. Sys2Proof/Machine/Protect.lean: the TDISP interface, the locked set, measurement (R404 to R409), the patrol scrubber and
its receipt (R429, R430).
-/

namespace Sys2Proof.Machine

/-- n bytes of a number, the lowest first. -/
def bytesFrom (n v : Nat) : List Byte := (List.range n).map (fun i => BitVec.ofNat 8 (v / 2 ^ (8 * i)))

/-- What the host gets in return, and that its request was refused. -/
def answerHost (st : State) (l : List Byte) : State := { st with bridge := { st.bridge with answer := l, refusedHost := false } }
def refuseHost (st : State) : State := { st with bridge := { st.bridge with refusedHost := true } }

/-! ## The interface's states (R406 to R408) -/

/-- The security processor erases every context key: the blocks of protected contexts end with code 0x05, and every
protection entry becomes invalid (R408). -/
def eraseContexts (st : State) : State :=
  let st := st.blocks.foldl (fun st b => if blockCtx st b.1 b.2 = 0 then st else endBlock st b.1 5 none) st
  { st with cores := st.cores.map (fun c => (c.1, { c.2 with pent := c.2.pent.map (fun e => (e.1, e.2 &&& ~~~1)) })),
            module := { st.module with era := st.module.era + 1 } }

def setTdisp (st : State) (t : Tdisp) : State := { st with module := { st.module with tdisp := t } }

/-- LOCK_INTERFACE_REQUEST (R406). Freezes the locked set and returns a new nonce. -/
def execLockInterfaceRequest (st : State) : Host.Outcome State Fault Refusal :=
  if !booted st then disabled "LOCK_INTERFACE_REQUEST"
  else if st.module.tdisp = .unlocked then
    let l := (List.range 32).map (fun i => Config.nonceByte (st.drawn + i))
    let st := { setTdisp st .locked with drawn := st.drawn + 32 }
    .next (answerHost { st with module := { st.module with nonce := BitVec.ofNat 256 (ofLanes 8 (l.map (·.toNat))) } } l)
  else .next (refuseHost st)

/-- START_INTERFACE_REQUEST (R406). Moves the interface to RUN if the nonce matches. -/
def execStartInterfaceRequest (nonce : BitVec 256) (st : State) : Host.Outcome State Fault Refusal :=
  if st.module.tdisp = .locked ∧ nonce = st.module.nonce then .next (answerHost (setTdisp st .run) [])
  else .next (refuseHost st)

/-- STOP_INTERFACE_REQUEST (R406). Returns the interface to CONFIG_UNLOCKED, ending protection. -/
def execStopInterfaceRequest (st : State) : Host.Outcome State Fault Refusal :=
  let st := setTdisp (if st.module.tdisp = .run then eraseContexts st else st) .unlocked
  .next (answerHost { st with module := { st.module with nonce := 0 } } [])

/-- The power profile that MD_HOSTCFG.PROF asks for (R404, R400, R161). -/
def setProfile (st : State) (p : BitVec 2) : State :=
  if 1 < p.toNat then st
  else
    let m := { st.module with prof := p, profNow := p }
    { st with module := { m with limit := profileLimit m } }

/-- A write to the locked set as it takes effect: 0 BAR 0, 1 BAR 2, 2 MD_MEMBASE, 3 MD_HOSTCFG, n + 4 the configuration
register n, one of the header where n < 16. -/
def setLocked (st : State) (item : Nat) (v : DWord) : State :=
  match item with
  | 0 => { st with module := { st.module with bar0 := v } }
  | 1 => { st with module := { st.module with bar2 := v } }
  | 2 => { st with module := { st.module with membase := v &&& 0xFFFFFFE000000007 } }
  | 3 => setProfile st (v.setWidth 2)
  | n + 4 => { st with module := { st.module with config := put st.module.config n v } }

/-- A host write to the locked set: performed in CONFIG_UNLOCKED, never performed in the other states (R406, R407). -/
def writeLocked (st : State) (item : Nat) (v : DWord) : State :=
  match st.module.tdisp with
  | .unlocked => setLocked st item v
  | .locked | .run => refuseHost (setTdisp (eraseContexts st) .error)
  | .error => refuseHost st

/-- LOCKED_SET_WRITE (R407). A host write to the locked set moves the interface to ERROR. -/
def execLockedSetWrite (item : Nat) (value : BitVec 64) (st : State) : Host.Outcome State Fault Refusal :=
  if booted st then .next (writeLocked st item value) else disabled "LOCKED_SET_WRITE"

/-- PROFILE_SELECT (R404). A host write of MD_HOSTCFG selects the power profile. -/
def execProfileSelect (value : BitVec 32) (st : State) : Host.Outcome State Fault Refusal :=
  if booted st then .next (writeLocked st 3 (value.setWidth 64)) else disabled "PROFILE_SELECT"

/-! ## Measurement (R409) -/

/-- The values of the locked set with their items' numbers (as in `setLocked`), in the order of R405: the header, the BARs, the
capability registers, MD_MEMBASE and MD_HOSTCFG. A configuration register that holds 0 is not listed. -/
def lockedValues (m : Module) : List (Nat × DWord) :=
  let regs (p : Nat → Bool) : List (Nat × DWord) := (m.config.filter (fun x => p x.1 && x.2 != 0)).map (fun x => (x.1 + 4, x.2))
  regs (fun n => decide (n < 16)) ++ [(0, m.bar0), (1, m.bar2)] ++ regs (fun n => decide (16 ≤ n)) ++
    [(2, m.membase), (3, m.prof.setWidth 64)]

/-- The SHA3-256 of the monitor image that every core is loaded with (R409, R431). -/
def monitorDigest : Nat :=
  messageDigest ((List.range 0x1000).foldr (fun i n => (Config.monitorByte i).toNat + 256 * n) 0) 0x1000

/-- The measured part of a report. -/
def reportBody (m : Module) : List Byte :=
  let h (f : Nat → Byte) : List Byte := (List.range 32).map f
  h Config.firmwareHash ++ h (Config.controllerHash m.img.toNat) ++ bytesFrom 32 monitorDigest ++ h (Config.lockedHash (lockedValues m)) ++
    bytesFrom 32 m.nonce.toNat

/-- Some bytes with their signature. -/
def signed2420 (l : List Byte) : List Byte := l ++ (List.range 2420).map (Config.signature l)

/-- GET_DEVICE_INTERFACE_REPORT (R409). Returns the signed measurement report. -/
def execGetDeviceInterfaceReport (st : State) : Host.Outcome State Fault Refusal :=
  if st.module.tdisp = .locked ∨ st.module.tdisp = .run then .next (answerHost st (signed2420 (reportBody st.module)))
  else .next (refuseHost st)

/-- GET_CERTIFICATE (R409). Returns the certified device public key. -/
def execGetCertificate (_slot : Nat) (st : State) : Host.Outcome State Fault Refusal :=
  .next (answerHost st ((List.range 1312).map Config.publicKey))

/-! ## The patrol scrubber (R429, R430) -/

/-- MD_SCRUB as it reads. -/
def scrubWord (m : Module) : Word := (0 : BitVec 1) ++ bit m.sign ++ (0 : BitVec 1) ++ bit m.scrubbing ++ (0 : BitVec 28)

/-- The page of MD_SCRADDR retired, where there is room and it is not retired yet. -/
def retirePage (m : Module) : Module :=
  let page := m.scraddr.toNat / 4096 * 4096
  if m.retired.length < 256 ∧ !m.retired.contains page then { m with retired := m.retired ++ [page] } else m

/-- A write of MD_SCRUB: SIGN, then RETIRE, then GO. A write of GO during a sweep is dropped. -/
def writeScrub (st : State) (v : Word) : State :=
  let go := v.getLsbD 31
  if go && st.module.scrubbing then st
  else
    let m := { st.module with sign := v.getLsbD 30 }
    let m := if v.getLsbD 29 then retirePage m else m
    { st with module := if go then { m with scrubbing := true, receipt := m.scraddr, swept := 0, sweepBad := [], sweepSkipped := [] } else m }

def writeScraddr (st : State) (v : DWord) : State :=
  { st with module := { st.module with scraddr := v &&& 0xFFFFFFFFFFFFFFC0 } }

/-- SCRUB_GO (R430). MD_SCRUB GO starts a patrol sweep. -/
def execScrubGo (value : BitVec 32) (st : State) : Host.Outcome State Fault Refusal :=
  if booted st && value.getLsbD 31 then .next (writeScrub st value) else disabled "SCRUB_GO"

/-- PAGE_RETIRE (R429). MD_SCRUB RETIRE marks a 4 KiB page retired. -/
def execPageRetire (value : BitVec 32) (st : State) : Host.Outcome State Fault Refusal :=
  if booted st && value.getLsbD 29 then .next (writeScrub st value) else disabled "PAGE_RETIRE"

/-- Numbers in rising order, each once. -/
def risingOf (l : List Nat) : List Nat := (l.foldl (fun (m : AMap Unit) x => put m x ()) []).map (·.1)

/-- The first physical address of this module's memory. -/
def ownBase (m : Module) : Nat := (m.membase.toNat / 2 ^ 37 + (if m.membase.getLsbD 1 then 1 else 0)) * 2 ^ 37

/-- A sweep in progress visits the lines of this module's memory in ascending order, up to an address (R430): it skips the
pages that are retired when it comes to them, and notes the lines it finds uncorrectable. -/
def sweepTo (st : State) (pa : Nat) : State :=
  let m := st.module
  let upTo := min (pa - ownBase m) (2 ^ 37)
  if !m.scrubbing || decide (upTo ≤ m.swept) then st
  else
    let met (x : Nat) : Bool := ownRange m x && decide (m.swept ≤ x - ownBase m) && decide (x - ownBase m < upTo)
    let skipped := m.sweepSkipped ++ risingOf (m.retired.filter met)
    let bad := risingOf ((st.bridge.poisoned.map (64 * ·)).filter (fun x => met x && !skipped.contains (x / 4096 * 4096)))
    { st with module := { m with swept := upTo, sweepSkipped := skipped, sweepBad := m.sweepBad ++ bad } }

/-- Bytes 0 to 2,239 of a receipt, once the sweep has visited everything. -/
def receiptBody (st : State) : List Byte :=
  let m := st.module
  let pages := m.sweepSkipped
  let bad := m.sweepBad
  let status := if !bad.isEmpty then 2 else if !pages.isEmpty then 1 else 0
  let flags := (if 16 < bad.length then 1 else 0) + (if m.sign then 2 else 0)
  bytesFrom 8 (2 ^ 31 - 64 * pages.length) ++ bytesFrom 8 (Config.linesCorrected st.drawn).toNat ++ bytesFrom 2 pages.length ++
    bytesFrom 1 status ++ bytesFrom 1 flags ++ bytesFrom 44 0 ++
    bytesFrom 128 (ofLanes 64 (bad.take 16)) ++ bytesFrom 2048 (ofLanes 64 pages)

/-- Bytes written by the bridge at a physical address, line by line. -/
def bridgeWrite (st : State) (pa : Nat) (l : List Byte) : State :=
  ((List.range ((pa % 64 + l.length + 63) / 64)).map (fun i => pa / 64 + i)).foldl (fun st line =>
    let put1 (f : Nat → Byte → Nat) : Nat :=
      ofLanes 8 ((List.range 64).map (fun j => if 64 * line + j < pa then 0 else match l[64 * line + j - pa]? with
        | some b => f j b
        | none => 0))
    (homeMerge st 0 line (BitVec.ofNat 512 (put1 (fun _ b => b.toNat))) (BitVec.ofNat 512 (put1 (fun _ _ => 255))) 0).1) st

/-- SCRUB_SWEEP_END (R430). The sweep visits what is left and ends; the receipt is written and BUSY clears. -/
def execScrubSweepEnd (st : State) : Host.Outcome State Fault Refusal :=
  if st.module.scrubbing then
    let st := sweepTo st (ownBase st.module + 2 ^ 37)
    let body := receiptBody st
    let l := if st.module.sign then signed2420 body else body ++ bytesFrom 2420 0
    let st := bridgeWrite st st.module.receipt.toNat l
    .next { st with module := { st.module with scrubbing := false }, drawn := st.drawn + 512 }
  else disabled "SCRUB_SWEEP_END"

end Sys2Proof.Machine
end

