-- ==== Sys2Proof/Machine/SysRegs.lean ====
section
/-!
DEFINITION. Sys2Proof/Machine/SysRegs.lean: the system registers: their numbers and rights (R317, R318), their values and writes,
and the instructions that reach them (R315, R316, R320).
-/

namespace Sys2Proof.Machine

/-! ## Numbers and rights (R315, R317, R318) -/

/-- A register: its first number, whether it has 64 bits and two numbers, the lowest modes that read and write it (none: no
mode writes it), and its RW fields. -/
structure SysReg where
  base : Nat
  wide : Bool
  read : Mode
  write : Option Mode
  rw : DWord
deriving DecidableEq, Repr

/-- A row of the tables: the first number, how many registers, and what they share. -/
structure RegRow where
  first : Nat
  count : Nat
  wide : Bool
  read : Mode
  write : Option Mode
  rw : DWord
deriving DecidableEq, Repr

/-- The thread and core registers (R317). -/
def threadRows : List RegRow := [
  ⟨0x001, 3, false, .u, some .u, 0⟩, ⟨0x008, 1, true, .s, some .s, 0⟩, ⟨0x00A, 1, false, .s, some .s, 0⟩,
  ⟨0x00C, 1, true, .u, some .s, 0⟩, ⟨0x00E, 3, true, .u, some .u, 0⟩, ⟨0x014, 1, false, .u, some .u, 0⟩,
  ⟨0x020, 3, false, .u, some .s, 0⟩, ⟨0x028, 4, true, .u, some .s, 0⟩, ⟨0x030, 4, false, .u, some .s, 0⟩,
  ⟨0x040, 1, false, .u, none, 0⟩, ⟨0x042, 2, true, .u, some .u, 0⟩, ⟨0x050, 4, false, .u, some .u, 0⟩,
  ⟨0x060, 2, false, .u, some .u, 0⟩, ⟨0x062, 1, true, .u, some .u, 0⟩, ⟨0x064, 1, false, .u, some .u, 0⟩]

def coreRows : List RegRow := [
  ⟨0x100, 1, true, .u, none, 0⟩, ⟨0x140, 4, true, .s, some .s, 0xFFFFFFFFFFFFF801⟩, ⟨0x148, 1, false, .s, some .s, 0x800001FF⟩,
  ⟨0x149, 1, false, .s, some .s, 0xFFFFFFFF⟩, ⟨0x150, 1, false, .u, some .s, 0xF⟩, ⟨0x151, 2, false, .s, some .s, 0⟩,
  ⟨0x153, 1, false, .u, some .s, 0xF⟩, ⟨0x160, 16, false, .u, some .s, 0x73F⟩, ⟨0x180, 14, true, .s, some .s, 0xFFFFFFFFFFFFFFF1⟩]

/-- The registers of clusters, the module, virtual interfaces and the monitor (R318). -/
def otherRows : List RegRow := [
  ⟨0x300, 1, false, .u, some .s, 0xFF0F⟩, ⟨0x310, 16, false, .u, some .s, 0x3FF⟩,
  ⟨0x520, 1, true, .u, none, 0⟩, ⟨0x540, 4, true, .s, some .s, 0xFFFFFFFFC000FFF1⟩, ⟨0x548, 4, true, .s, some .s, 0⟩,
  ⟨0x560, 16, true, .s, some .s, 0xFFFFFFFFFFFFF000⟩, ⟨0x580, 16, false, .s, some .s, 0x0FFFFFF1⟩,
  ⟨0x5A0, 3, false, .u, none, 0⟩, ⟨0x5B0, 2, false, .u, some .s, 0⟩, ⟨0x5C0, 1, false, .s, some .s, 0x40000000⟩,
  ⟨0x5C2, 1, true, .s, some .s, 0xFFFFFFFFFFFFFFC0⟩,
  ⟨0x810, 1, false, .s, some .s, 0xFFFFF⟩, ⟨0x812, 2, true, .u, some .s, 0xFFFFFFFFF0000001⟩, ⟨0x816, 1, false, .u, some .s, 0xF⟩,
  ⟨0x820, 1, false, .u, some .s, 0x9FFFFFFF⟩, ⟨0x821, 1, false, .u, some .s, 0xFFF0070F⟩,
  ⟨0x822, 1, true, .s, some .s, 0xFFFFFFFFF0000001⟩, ⟨0x824, 1, false, .u, none, 0⟩, ⟨0x825, 1, false, .s, some .s, 0⟩,
  ⟨0x826, 1, true, .s, some .s, 0xFFFFFFFFFFFFFFFC⟩,
  ⟨0xC00, 2, true, .m, some .m, 0xFFFFFFFFFFFFFFFC⟩, ⟨0xC04, 1, false, .m, some .m, 0xF8FFF03F⟩,
  ⟨0xC06, 1, true, .m, some .m, 0xFFFFFFFFFFFFFFFF⟩, ⟨0xC20, 16, true, .m, some .m, 0xFFFFFFFFFC000001⟩,
  ⟨0xC40, 16, false, .m, some .m, 0xFFFFFFFF⟩]

/-- The register of a number in a row. -/
def RegRow.at (r : RegRow) (n : Nat) : Option SysReg :=
  let w := if r.wide then 2 else 1
  if r.first ≤ n ∧ n < r.first + r.count * w then
    let base := r.first + (n - r.first) / w * w
    some { base := base, wide := r.wide, read := r.read, write := r.write, rw := if base < 0x100 then thFields base else r.rw }
  else none

/-- The register a number names. -/
def sysReg (n : Nat) : Option SysReg := (threadRows ++ coreRows ++ otherRows).findSome? (fun r => r.at n)

/-! ## Core and cluster registers -/

/-- The map word that CO_SPMAP_SEL selects (R23), and the selection after an access of CO_SPMAP_DATA. -/
def spSelected (c : Core) : Nat := c.spsel.toNat % 512
def spAdvance (st : State) (core : Nat) : State :=
  let c := st.core core
  if c.spsel.getLsbD 31 then
    st.setCore core { c with spsel := BitVec.ofNat 32 (c.spsel.toNat / 128 * 128 + (c.spsel.toNat % 128 + 1) % 128) }
  else st

/-- CO_SLOTCTL (R314) and CO_PREEMPT (R370) as they read. -/
def slotctlWord (st : State) (core : Nat) : Word :=
  BitVec.ofNat 32 (((List.range 8).map (fun i => if (st.thread (core * 8 + i)).halted then 2 ^ i else 0)).sum)
def preemptWord (c : Core) : Word :=
  BitVec.ofNat 32 (((List.range 8).map (fun i => if c.preempts.any (fun p => p.started && p.slot == i) then 2 ^ (8 + i) else 0)).sum)

/-- CO_BFMT_n as it reads (R95). -/
def bfmtWord (c : Core) (n : Nat) : Word :=
  bit (decide (n < 14) && (lookD c.bstash n 0).getLsbD 0) ++ (lookD c.bfmt n 0).setWidth 31

/-- A core register's value; for MN_EPC, MN_CAUSE and MN_TVAL, of a slot. -/
def coreValue (st : State) (core slot b : Nat) : DWord :=
  let c := st.core core
  if b = 0x100 then BitVec.ofNat 64 c.clock
  else if b < 0x148 then lookD c.subpg ((b - 0x140) / 2) 0
  else if b = 0x148 then c.spsel.setWidth 64
  else if b = 0x149 then (lookD c.spmap (spSelected c) (BitVec.allOnes 32)).setWidth 64
  else if b = 0x150 then c.rseg.setWidth 64
  else if b = 0x151 then (slotctlWord st core).setWidth 64
  else if b = 0x152 then (preemptWord c).setWidth 64
  else if b = 0x153 then (pwrWord st core).setWidth 64
  else if b < 0x180 then (bfmtWord c (b - 0x160)).setWidth 64
  else if b < 0x200 then lookD c.bstash ((b - 0x180) / 2) 0
  else if b = 0xC00 then c.mnvec
  else if b = 0xC02 then lookD c.mnepc slot 0
  else if b = 0xC04 then (lookD c.mncause slot 0).setWidth 64
  else if b = 0xC06 then lookD c.mntval slot 0
  else if b < 0xC40 then lookD c.pent ((b - 0xC20) / 2) 0
  else (lookD c.pver (b - 0xC40) 0).setWidth 64

/-- The register views besides the raw one that are legal for a storage format (R128). -/
def legalViews (sf : Nat) : List Nat :=
  match sf with
  | 1 | 3 | 22 => [4]
  | 2 | 5 | 21 => [4, 5]
  | 4 | 6 | 7 | 8 | 9 | 20 => [4, 5, 6]
  | 11 => [1]
  | 12 => [1, 2]
  | 13 => [1, 3]
  | 14 | 15 | 16 | 17 | 18 | 19 => [1, 2, 3]
  | 23 | 24 | 25 | 26 | 27 | 28 => [1]
  | _ => []

/-- A write of CO_BFMT_n. -/
def writeBfmt (c : Core) (n : Nat) (w : Word) : Core :=
  let sf := w.toNat % 64
  let view := w.toNat / 2 ^ 8 % 8
  if 28 < sf ∨ (view ≠ 0 ∧ !(legalViews sf).contains view) ∨ (14 ≤ n ∧ (sf ≠ 0 ∨ view ≠ 0)) then c
  else { c with bfmt := put c.bfmt n (w &&& 0x73F) }

/-- A write of CO_RSEG, dropped while a word waits in a port (R108). -/
def writeRseg (c : Core) (w : Word) : Core :=
  if c.ports.any (fun p => !p.2.isEmpty) then c else { c with rseg := w.setWidth 4 }

/-- A write of CO_PREEMPT (R370): a request that can be served joins the core's requests. -/
def writePreempt (st : State) (core : Nat) (w : Word) : State :=
  let slot := w.toNat % 8
  let save := w.getLsbD 31
  let c := st.core core
  let ok := if save then (st.thread (core * 8 + slot)).present else (savedFor st (core * 8 + slot) none).isSome
  if save == w.getLsbD 30 || !ok then st
  else st.setCore core { c with preempts := c.preempts ++ [{ slot := slot, restore := !save }] }

/-- A write of a whole core register, or of a register of the monitor. -/
def coreWrite (st : State) (core slot b : Nat) (v : DWord) : State :=
  let c := st.core core
  let w : Word := v.setWidth 32
  if b < 0x140 then st
  else if b < 0x148 then st.setCore core { c with subpg := put c.subpg ((b - 0x140) / 2) (v &&& 0xFFFFFFFFFFFFF801) }
  else if b = 0x148 then st.setCore core { c with spsel := w &&& 0x800001FF }
  else if b = 0x149 then st.setCore core { c with spmap := put c.spmap (spSelected c) w }
  else if b = 0x150 then st.setCore core (writeRseg c w)
  else if b = 0x151 then resumeSlots st core (w.setWidth 8)
  else if b = 0x152 then writePreempt st core w
  else if b = 0x153 then writePwr st core w
  else if b < 0x180 then st.setCore core (writeBfmt c (b - 0x160) w)
  else if b < 0x200 then writeBstash st core ((b - 0x180) / 2) v
  else if b = 0xC00 then st.setCore core { c with mnvec := v &&& ~~~3 }
  else if b = 0xC02 then st.setCore core { c with mnepc := put c.mnepc slot (v &&& ~~~3) }
  else if b = 0xC04 then st.setCore core { c with mncause := put c.mncause slot (w &&& 0xF8FFF03F) }
  else if b = 0xC06 then st.setCore core { c with mntval := put c.mntval slot v }
  else if b < 0xC40 then writePent st core ((b - 0xC20) / 2) v
  else st.setCore core { c with pver := put c.pver (b - 0xC40) w }

/-! ## Module registers -/

/-- MD_EBUDGET (R161) and MD_PWRSTAT (R400). -/
def ebudgetWord (st : State) : Word :=
  bit st.module.capo ++ (0 : BitVec 5) ++ BitVec.ofNat 10 (unitsUsed st) ++ (0 : BitVec 6) ++ BitVec.ofNat 10 st.module.limit
def pwrstatWord (m : Module) : Word :=
  bit m.capo ++ m.why ++ m.img ++ m.profNow ++ m.trip ++ (0 : BitVec 8) ++ m.tj1 ++ m.tj0

/-- A module register's value. -/
def moduleValue (st : State) (b : Nat) : DWord :=
  let m := st.module
  if b = 0x520 then m.membase
  else if b < 0x548 then carcfgValue (carStore st ((b - 0x540) / 2))
  else if b < 0x560 then carstatValue st ((b - 0x548) / 2)
  else if b < 0x580 then lookD m.crbase ((b - 0x560) / 2) 0
  else if b < 0x5A0 then (crcfgOf st (b - 0x580)).setWidth 64
  else if b = 0x5A0 then (ebudgetWord st).setWidth 64
  else if b = 0x5A1 then (pwrstatWord m).setWidth 64
  else if b = 0x5A2 then m.prof.setWidth 64
  else if b < 0x5C0 then (linkstatWord m (b - 0x5B0)).setWidth 64
  else if b = 0x5C0 then (scrubWord m).setWidth 64
  else m.scraddr

/-- A device write of a whole module register. -/
def moduleWrite (st : State) (b : Nat) (v : DWord) : State :=
  if b < 0x540 then st
  else if b < 0x548 then writeCarcfg st ((b - 0x540) / 2) v
  else if b < 0x560 then writeCarstat st ((b - 0x548) / 2) v
  else if b < 0x580 then writeCrbase st ((b - 0x560) / 2) v
  else if b < 0x5A0 then writeCrcfg st (b - 0x580) (v.setWidth 32)
  else if b < 0x5B0 then st
  else if b < 0x5C0 then
    if v.getLsbD 15 then { st with module := { st.module with sheds := put st.module.sheds (b - 0x5B0) 0 } } else st
  else if b = 0x5C0 then writeScrub st (v.setWidth 32)
  else writeScraddr st v

/-! ## Registers of a virtual interface -/

/-- A register of a virtual interface. -/
def viValue (st : State) (vi : BitVec 10) (b : Nat) : DWord :=
  let x := st.viOf vi.toNat
  if b = 0x810 then x.pasid.setWidth 64
  else if b = 0x812 then x.lswin
  else if b = 0x814 then x.clwin
  else if b = 0x816 then x.carperm.setWidth 64
  else if b = 0x820 then x.qcfg.setWidth 64
  else if b = 0x821 then x.profile.setWidth 64
  else if b = 0x822 then x.savebase
  else if b = 0x824 then (bit x.exh ++ (0 : BitVec 12) ++ x.used).setWidth 64
  else if b = 0x825 then (bit (blockBusy st vi)).setWidth 64
  else x.tvec

/-- A write of VI_PROFILE (R368). -/
def writeProfile (x : Vi) (w : Word) : Vi :=
  let v := w &&& 0xFFF0070F
  if v.toNat % 16 = 0 ∨ 8 < v.toNat % 16 ∨ 5 < v.toNat / 2 ^ 8 % 8 then x else { x with profile := v }

/-- A write of VI_BLKEND by a thread (R391). -/
def writeBlkend (st : State) (t : Nat) (w : Word) : State :=
  match taskKey st t with
  | some key => if w.getLsbD 31 then endBlock st key 3 (some t) else st
  | none => st

/-- A write of a whole register of a thread's virtual interface. -/
def viWrite (st : State) (t b : Nat) (v : DWord) : State :=
  let n := (st.thread t).vi.toNat
  let x := st.viOf n
  if b = 0x810 then st.setVi n { x with pasid := v.setWidth 20 }
  else if b = 0x812 then st.setVi n { x with lswin := v &&& 0xFFFFFFFFF0000001 }
  else if b = 0x814 then st.setVi n { x with clwin := v &&& 0xFFFFFFFFF0000001 }
  else if b = 0x816 then st.setVi n { x with carperm := v.setWidth 4 }
  else if b = 0x820 then writeQcfg st n (v.setWidth 32)
  else if b = 0x821 then st.setVi n (writeProfile x (v.setWidth 32))
  else if b = 0x822 then writeSavebase st n v
  else if b = 0x825 then writeBlkend st t (v.setWidth 32)
  else if b = 0x826 then st.setVi n { x with tvec := v &&& ~~~3 }
  else st

/-! ## Every register, for a thread -/

/-- A register's value for a thread: the registers of its core, its cluster, its virtual interface (R315). -/
def sysValue (st : State) (t b : Nat) : DWord :=
  if b < 0x100 then (thValue (st.thread t) t b).getD 0
  else if b < 0x300 ∨ 0xC00 ≤ b then coreValue st (coreOf t) (slotOf t) b
  else if b = 0x300 then (ccfgWord (st.cluster (clusterOf (coreOf t)))).setWidth 64
  else if b < 0x500 then (barrierAt st (clusterOf (coreOf t)) (b - 0x310)).count.setWidth 64
  else if b < 0x800 then moduleValue st b
  else viValue st (st.thread t).vi b

/-- A write of a whole register, under its field access and its own rules. -/
def sysWrite (st : State) (t b : Nat) (v : DWord) : State :=
  if b < 0x100 then st.setThread t (thWrite (st.thread t) b v)
  else if b < 0x300 ∨ 0xC00 ≤ b then coreWrite st (coreOf t) (slotOf t) b v
  else if b = 0x300 then writeCcfg st (clusterOf (coreOf t)) (v.setWidth 32)
  else if b < 0x500 then writeBarcfg st (clusterOf (coreOf t)) (b - 0x310) (v.setWidth 32)
  else if b < 0x800 then moduleWrite st b v
  else viWrite st t b v

/-- What an access of CO_SPMAP_DATA does besides (R23). -/
def afterAccess (st : State) (t b : Nat) : State := if b = 0x149 then spAdvance st (coreOf t) else st

/-! ## The instructions (R315, R316) -/

/-- The register an instruction names, where the mode may access it. -/
def openReg (st : State) (n : BitVec 12) (reads writes : Bool) : Eff SysReg :=
  match sysReg n.toNat with
  | none => .error (illegalOperand st)
  | some r => do
    require (!writes || r.write.isSome) (illegalOperand st)
    needMode st (if reads then r.read else .u)
    needMode st (if writes then r.write.getD .u else .u)
    .ok r

/-- Whether a number is the odd one of a 64-bit register. -/
def SysReg.odd (r : SysReg) (n : BitVec 12) : Bool := r.wide && n.toNat != r.base

/-- SYSRD (R315). Reads a system register. -/
def execSysrd (d : BitVec 5) (n : BitVec 12) (st : State) : Host.Outcome State Fault Refusal :=
  finish do
    let r ← openReg st n true false
    let st ← writeX st d (halfOf (sysValue st st.cur r.base) (r.odd n))
    .ok (complete (afterAccess st st.cur r.base))

/-- The write of a SYSWR, with the staging of R316. -/
def stagedWrite (st : State) (r : SysReg) (n : BitVec 12) (x : Word) : State :=
  let t := st.cur
  if !r.wide then sysWrite st t r.base (x.setWidth 64)
  else if n.toNat = r.base then st.setTh { st.th with staged := some (n, x) }
  else match st.th.staged with
    | some (m, lo) =>
      if m.toNat = r.base then sysWrite (st.setTh { st.th with staged := none }) t r.base (x ++ lo)
      else sysWrite st t r.base (x ++ halfOf (sysValue st t r.base &&& r.rw) false)
    | none => sysWrite st t r.base (x ++ halfOf (sysValue st t r.base &&& r.rw) false)

/-- SYSWR (R315). Writes a system register under its field access. -/
def execSyswr (a : BitVec 5) (n : BitVec 12) (st : State) : Host.Outcome State Fault Refusal :=
  finishKeeping [a] do
    let r ← openReg st n false true
    let x ← readP st a
    .ok (completeReading (afterAccess (stagedWrite st r n x) st.cur r.base) [a])

/-- SYSSET and SYSCLR: the RW fields of the half named take a new value, at once; W1C and WO fields are left alone. -/
def setFields (f : Word → Word → Word) (d a : BitVec 5) (n : BitVec 12) (st : State) : Host.Outcome State Fault Refusal :=
  finishKeeping [a] do
    let r ← openReg st n true true
    let m ← readP st a
    let x := sysValue st st.cur r.base
    let odd := r.odd n
    let old := halfOf x odd
    let st ← writeX st d old
    let keep := x &&& r.rw
    let new := if odd then f old m ++ halfOf keep false else halfOf keep true ++ f old m
    .ok (completeReading (afterAccess (sysWrite st st.cur r.base (new &&& r.rw)) st.cur r.base) [a])

/-- SYSSET (R315). Sets masked RW bits and returns the old value. -/
def execSysset (d : BitVec 5) (a : BitVec 5) (n : BitVec 12) (st : State) : Host.Outcome State Fault Refusal :=
  setFields (fun x m => x ||| m) d a n st

/-- SYSCLR (R315). Clears masked RW bits and returns the old value. -/
def execSysclr (d : BitVec 5) (a : BitVec 5) (n : BitVec 12) (st : State) : Host.Outcome State Fault Refusal :=
  setFields (fun x m => x &&& ~~~m) d a n st

/-- The PASID of a TLBINV (R320). -/
def pasidOperand (st : State) (a : BitVec 5) : Eff (BitVec 20) := do
  needMode st .s
  let x ← readP st a
  require (x >>> 20 == 0) (illegalOperand st)
  .ok (x.setWidth 20)

/-- The entries that satisfy a test are invalidated, once what they translated has been performed (R320). -/
def invalidateOr (st : State) (p : TlbEntry → Bool) : Eff State :=
  match invalidate st p with
  | some st' => .ok st'
  | none => .error (.stall st)

/-- TLBINV_PG (R320). Drops a PASID's translations of one page module-wide. -/
def execTlbinvPg (a : BitVec 5) (g : BitVec 3) (st : State) : Host.Outcome State Fault Refusal :=
  finishKeeping [a] do
    let p ← pasidOperand st a
    let va ← readB st g st.th.ptrap
    let st' ← invalidateOr st (fun e => e.covers p (pageOf va))
    .ok (completeReading st' [a])

/-- TLBINV_AS (R320). Drops every translation of a PASID. -/
def execTlbinvAs (a : BitVec 5) (st : State) : Host.Outcome State Fault Refusal :=
  finishKeeping [a] do
    let p ← pasidOperand st a
    let st' ← invalidateOr st (fun e => e.pasid == p)
    .ok (completeReading st' [a])

/-- TLBINV_ALL (R320). Drops every translation. -/
def execTlbinvAll (st : State) : Host.Outcome State Fault Refusal :=
  finish do
    needMode st .s
    let st' ← invalidateOr st (fun _ => true)
    .ok (complete st')

/-! ## Writes that are no instruction's (R315, R404) -/

/-- A host write of a module register through BAR 0; a register that the host may not write drops it. -/
def hostRegWrite (st : State) (b : Nat) (v : DWord) : State :=
  if b = 0x520 then writeLocked st 2 v
  else if b = 0x5A2 then writeLocked st 3 v
  else if b = 0x5C0 then writeScrub st (v.setWidth 32)
  else if b = 0x5C2 then writeScraddr st v
  else st

/-- REGISTER_WRITE (R315). A write to a register with no row of its own, under its field rules: of the host, or of the device
in a mode that may write it. -/
def execRegisterWrite (agent : Writer) (num : BitVec 12) (value : BitVec 64) (st : State) : Host.Outcome State Fault Refusal :=
  match sysReg num.toNat with
  | none => disabled "REGISTER_WRITE"
  | some r =>
    if r.base ≠ num.toNat || !booted st then disabled "REGISTER_WRITE"
    else match agent with
      | .host => .next (hostRegWrite st r.base value)
      | .device =>
        match r.write with
        | none => .next st
        | some low => if slotRuns st st.cur && st.th.mode.covers low then .next (sysWrite st st.cur r.base value) else disabled "REGISTER_WRITE"

end Sys2Proof.Machine
end

