-- ==== Sys2Proof/Machine/HostAccess.lean ====
section
/-!
DEFINITION. Sys2Proof/Machine/HostAccess.lean: accesses of the host, with BAR 0 (R37, R78, R403, R404), accesses of the other module
(R29, R77, R333), and the power-on reset (R431).
-/

namespace Sys2Proof.Machine

/-! ## BAR 0 (R404) -/

/-- The word of a module register at byte `off` of BAR 0; a place that holds no register reads zero. -/
def bar0Word (st : State) (off : Nat) : Word :=
  let n := off / 4
  if 0x500 ≤ n ∧ n < 0x800 then
    match sysReg n with
    | some r => halfOf (moduleValue st r.base) (r.wide && n != r.base)
    | none => 0
  else 0

/-- A host write of one word of BAR 0: of a 64-bit register it changes one half. -/
def bar0WriteWord (st : State) (off : Nat) (w : Word) : State :=
  let n := off / 4
  if 0x500 ≤ n ∧ n < 0x800 then
    match sysReg n with
    | some r =>
      let x := moduleValue st r.base
      hostRegWrite st r.base (if !r.wide then w.setWidth 64 else if n = r.base then halfOf x true ++ w else w ++ halfOf x false)
    | none => st
  else st

/-- A host write to BAR 0: of a word, or of two at once, which may be a whole 64-bit register. Others are dropped. -/
def bar0Write (st : State) (off : Nat) (data : List Byte) : State :=
  let v := ofLanes 8 (data.map (·.toNat))
  if off % 4 ≠ 0 then st
  else if data.length = 4 then bar0WriteWord st off (BitVec.ofNat 32 v)
  else if data.length = 8 then
    match sysReg (off / 4) with
    | some r =>
      if r.wide ∧ off / 4 = r.base ∧ 0x500 ≤ r.base ∧ r.base < 0x800 then hostRegWrite st r.base (BitVec.ofNat 64 v)
      else bar0WriteWord (bar0WriteWord st off (BitVec.ofNat 32 v)) (off + 4) (BitVec.ofNat 32 (v / 2 ^ 32))
    | none => bar0WriteWord st (off + 4) (BitVec.ofNat 32 (v / 2 ^ 32))
  else st

/-- HOST_READ (R78). A host read of a module line; CAR lines poison, range lines combine. -/
def execHostRead (pa : BitVec 64) (n : Nat) (st : State) : Host.Outcome State Fault Refusal :=
  if !booted st then disabled "HOST_READ"
  else if bar0Range st.module pa.toNat then
    let off := pa.toNat - st.module.bar0.toNat
    .next (answerHost st ((List.range n).map (fun i => (bar0Word st (off + i) >>> (8 * ((off + i) % 4))).setWidth 8)))
  else .next (hostRead st pa.toNat n)

/-- HOST_WRITE (R37). A host write to a module line; CAR and range lines drop it. -/
def execHostWrite (pa : BitVec 64) (data : List (BitVec 8)) (st : State) : Host.Outcome State Fault Refusal :=
  if !booted st then disabled "HOST_WRITE"
  else if bar0Range st.module pa.toNat then .next (bar0Write st (pa.toNat - st.module.bar0.toNat) data)
  else .next (hostWrite st pa.toNat data)

/-! ## The other module (R29, R77, R333) -/

/-- The atomic operations by their codes (R232): what is written for the old value, and the commutative update it may match. -/
def peerUpdate (op : BitVec 4) (wide : Bool) (x swap : Nat) : Update :=
  let w := if wide then 64 else 32
  match op.toNat with
  | 0 => { f := fun m => some ((m + x) % 2 ^ w), cr := some (0, crFormats 0 wide, x) }
  | 1 => { f := fun m => some (m &&& x) }
  | 2 => { f := fun m => some (m ||| x) }
  | 3 => { f := fun m => some (m ^^^ x) }
  | 4 => { f := fun m => some (minSignedN w m x), cr := some (1, crFormats 1 wide, x) }
  | 5 => { f := fun m => some (maxSignedN w m x), cr := some (2, crFormats 2 wide, x) }
  | 6 => { f := fun m => some (min m x) }
  | 7 => { f := fun m => some (max m x) }
  | 8 => { f := fun _ => some x }
  | 9 => { f := fun m => if m = x then some swap else none }
  | _ => { f := fun m => some (floatSum m x).1, cr := some (0, [1], x) }

/-- The value of an update in a range: on the combined memory value, as R74 has it. -/
def rangeUpdate (m : Module) (n : Nat) (u : Update) : Option (Nat → Option Nat) :=
  (u.fits m n).map (fun x v => some (crUpdate (crOp m n) (crFmt m n) v x))

/-- The answer to an access of the other module, and its failure with a cause (R77). -/
def answerPeer (st : State) (l : List Byte) : State := { st with bridge := { st.bridge with answer := l, refusedPeer := none } }
def refusePeer (st : State) (c : Cause) : State := { st with bridge := { st.bridge with refusedPeer := some c } }

/-- The other module learns of a line's write time (R333). -/
def peerLearns (st : State) (line : Nat) : State :=
  { st with bridge := { st.bridge with peerClock := max st.bridge.peerClock (homeTimes st line).wts } }

/-- An access performed at this module's home for the other module: its answer, or its failure. -/
def peerPerform (st : State) (pa n : Nat) (f : Nat → Option Nat) (reads : Bool) : State :=
  let line := pa / 64
  if st.bridge.poisoned.contains line && reads then refusePeer st .memUncorrectable
  else
    let st := if reads then fetchLine st line else st
    let old := memRead st.mem pa n
    let st := match f ((old &&& byteMask n).toNat) with
      | some x =>
        (homeMerge st 0 line (toByte (BitVec.ofNat 512 x) (pa % 64)) (toByte (byteMask n) (pa % 64)) st.bridge.peerClock).1
      | none => st
    answerPeer (peerLearns st line) (if reads then (List.range n).map (byteAt old) else [])

/-- One attempt of a full/empty instruction of the other module (R228): what it writes, if anything, and the new bit; none
where it has to wait. -/
def peerAct (op : BitVec 3) (x : BitVec 32) : FeAct := fun full =>
  match op.toNat with
  | 0 => if full then some (none, false) else none
  | 1 => if full then none else some (some x, true)
  | 2 => if full then some (none, true) else none
  | 3 => some (some x, true)
  | _ => some (none, full)

/-- That attempt at this module's home: the answer is a byte for its success, one for the old bit, and the old word. -/
def peerFullEmpty (st : State) (pa : Nat) (op : BitVec 3) (x : BitVec 32) : State :=
  let line := pa / 64
  if st.bridge.poisoned.contains line then refusePeer st .memUncorrectable
  else
    let st := fetchLine st line
    let old := memRead st.mem pa 4
    let full := feFull st.empty (pa / 4)
    let reply (ok : Bool) : List Byte := BitVec.ofNat 8 ok.toNat :: BitVec.ofNat 8 full.toNat :: (List.range 4).map (byteAt old)
    match peerAct op x full with
    | none => answerPeer (peerLearns st line) (reply false)
    | some (w, b) =>
      let st :=
        if w.isNone ∧ b = full then st
        else
          let m : Line := if w.isSome then toByte (byteMask 4) (pa % 64) else 0
          setFe (homeMerge st 0 line (toByte ((w.getD 0).setWidth 512) (pa % 64)) m st.bridge.peerClock).1 0 (pa / 4) b
      answerPeer (peerLearns st line) (reply true)

/-- Why an access of the other module fails (R36, R77): in an enabled CAR store; in a range, where it is none that R77 lets
act on the combined value. -/
def peerBar (m : Module) (pa : Nat) (inRange : Bool) : Option Cause :=
  if inCar m pa then some .permissionFault else if (inCrange m pa).isSome && !inRange then some .crangeConflict else none

/-- PEER_ACCESS_ARRIVAL (R77). A load, store, atomic, copy or engine access from the other module arrives over the Course link
and is performed at this module's bridge home. -/
def execPeerAccessArrival (access : PeerAccess) (st : State) : Host.Outcome State Fault Refusal :=
  let m := st.module
  let reach (pa n : Nat) : Bool := ownRange m pa && m.membase.getLsbD 2 && decide (pa % 64 + n ≤ 64) && !linkDown m
  let combined (pa : Nat) : State := match inCrange m pa with
    | some r => combineLine st r 0 (pa / 64) st.bridge.peerClock allClusters
    | none => st
  match access with
  | .load pa n =>
    if !reach pa.toNat n then disabled "PEER_ACCESS_ARRIVAL"
    else match peerBar m pa.toNat true with
      | some c => .next (refusePeer st c)
      | none => .next (peerPerform (combined pa.toNat) pa.toNat n (fun _ => none) true)
  | .store pa data =>
    if !reach pa.toNat data.length then disabled "PEER_ACCESS_ARRIVAL"
    else match peerBar m pa.toNat false with
      | some c => .next (refusePeer st c)
      | none => .next (peerPerform st pa.toNat data.length (fun _ => some (ofLanes 8 (data.map (·.toNat)))) false)
  | .atomic pa op wide x swap =>
    let n := if wide then 8 else 4
    let u := peerUpdate op wide (x.toNat % 2 ^ (8 * n)) (swap.toNat % 2 ^ (8 * n))
    if !reach pa.toNat n || pa.toNat % n != 0 || decide (10 < op.toNat) || (op == 10 && wide) then disabled "PEER_ACCESS_ARRIVAL"
    else
      let f := match inCrange m pa.toNat with
        | some r => rangeUpdate m r u
        | none => some u.f
      match peerBar m pa.toNat f.isSome, f with
      | none, some f => .next (peerPerform (combined pa.toNat) pa.toNat n f true)
      | some c, _ => .next (refusePeer st c)
      | none, none => .next (refusePeer st .crangeConflict)
  | .cswap pa want new =>
    if !reach pa.toNat 16 || pa.toNat % 16 != 0 then disabled "PEER_ACCESS_ARRIVAL"
    else match peerBar m pa.toNat false with
      | some c => .next (refusePeer st c)
      | none => .next (peerPerform st pa.toNat 16 (cswapValue want.toNat new.toNat) true)
  | .fullEmpty pa op x =>
    if !reach pa.toNat 4 || pa.toNat % 4 != 0 || decide (4 < op.toNat) then disabled "PEER_ACCESS_ARRIVAL"
    else match peerBar m pa.toNat false with
      | some c => .next (refusePeer st c)
      | none => .next (peerFullEmpty st pa.toNat op x)
  | .chunk c =>
    if m.membase.getLsbD 2 && !linkDown m then .next { st with bridge := { st.bridge with chunks := st.bridge.chunks ++ [c] } }
    else disabled "PEER_ACCESS_ARRIVAL"

/-! ## Power-on reset and bring-up (R431) -/

/-- POWER_ON_RESET (R431). Power-on reset starts the bring-up sequence: everything of this module takes its reset value; what
lies in other memory, and the width of the host's addresses, stay. -/
def execPowerOnReset (st : State) : Host.Outcome State Fault Refusal :=
  .next { State.reset with
    cur := st.cur, agenda := st.agenda, vaBits := st.vaBits, drawn := st.drawn,
    mem := st.mem.filter (fun p => decide (p.1 < 2 ^ 64) && !ownRange st.module p.1) }

/-- The monitor image in bank 15 of a core (R94). -/
def loadMonitor (m : List Host.Cell) (core : Nat) : List Host.Cell :=
  (List.range 0x1000).foldl (fun m i => memSet m (bank15Key core (0x3000 + i)) (Config.monitorByte i)) m

/-- The bring-up's next step ends (R431): the firmware runs, its heartbeats begin; the memory channels are trained, full/empty
bits are full and seal tags zero; the ports have been trained; the monitor is loaded, and all cores are reset, the rails of
their rows with their dividers (R397). -/
def bringUp (st : State) : State :=
  let go (st : State) (p : Bringup) : State := { st with module := { st.module with phase := p } }
  match st.module.phase with
  | .firmware => go { st with module := { st.module with lastBeat := st.pitch } } .memory
  | .memory => go { st with empty := [], bridge := { st.bridge with seals := [] } } .link
  | .link => go st .monitor
  | .monitor => go { st with mem := (List.range Config.cores).foldl loadMonitor st.mem, cores := [], threads := [],
                                 module := { st.module with rails := [] } } .host
  | .host => st

end Sys2Proof.Machine
end

