-- ==== Sys2Proof/Machine/Vector.lean ====
section
/-!
DEFINITION. Sys2Proof/Machine/Vector.lean: vector lanes, compares, reductions, predicates and conversions (R244 to R253).
-/

namespace Sys2Proof.Machine

/-! ## Lanes under a predicate (R244, R245) -/

/-- Bits of a lane of a type code. -/
def laneBits (t : Nat) : Nat := fmtBits (laneFmt t)

/-- The union of the flags of several lanes. -/
def allFlags (l : List Raised) : Raised := l.foldl Raised.or {}

/-- Lanewise results with flags: an inactive lane keeps its value and raises nothing. -/
def mapLanes (w : Nat) (q : Word) (old : VWord) (f : Nat → Nat × Raised) : VWord × Raised :=
  let rs := (List.range (256 / w)).map (fun i => if q.getLsbD i then f i else (lane old w i, {}))
  (BitVec.ofNat 256 (ofLanes w (rs.map (·.1))), allFlags (rs.map (·.2)))

/-- A form with two vector sources; the function is given both registers and the lane's number. -/
def vec2 (t : Nat) (f : VWord → VWord → Nat → Nat × Raised) (v a b : BitVec 6) (q : BitVec 3) (st : State) :
    Host.Outcome State Fault Refusal :=
  finish do
    let x ← readV st a.toNat
    let y ← readV st b.toNat
    let r := mapLanes (laneBits t) (st.th.predReg q) (st.th.vecReg v.toNat).val (f x y)
    let st' ← writeV st v.toNat r.1
    .ok (complete (raise st' r.2))

/-- A form with one vector source. -/
def vec1 (t : Nat) (f : Nat → Nat × Raised) (v a : BitVec 6) (q : BitVec 3) (st : State) : Host.Outcome State Fault Refusal :=
  finish do
    let x ← readV st a.toNat
    let w := laneBits t
    let r := mapLanes w (st.th.predReg q) (st.th.vecReg v.toNat).val (fun i => f (lane x w i))
    let st' ← writeV st v.toNat r.1
    .ok (complete (raise st' r.2))

/-- The same operation on each pair of lanes. -/
def pairwise (t : Nat) (f : Nat → Nat → Nat × Raised) (x y : VWord) (i : Nat) : Nat × Raised :=
  f (lane x (laneBits t) i) (lane y (laneBits t) i)

/-- An integer operation on lanes of a type: modulo 2^w, no flag (R246). -/
def intLane (t : Nat) (f : Nat → Nat → Nat) : VWord → VWord → Nat → Nat × Raised :=
  pairwise t (fun a b => (f a b % 2 ^ laneBits t, {}))

/-- A signed lane of a type, and back. -/
def sLane (t a : Nat) : Int := signed (laneBits t) a
def uLane (t : Nat) (a : Int) : Nat := unsigned (laneBits t) a

/-- VSAT: a clamp to n bits (R246). -/
def clampLane (t n a : Nat) : Nat × Raised :=
  let x := sLane t a
  let lo : Int := -(2 ^ (n - 1) : Nat)
  let hi : Int := (2 ^ (n - 1) : Nat) - 1
  if x < lo then (uLane t lo, { satd := true }) else if hi < x then (uLane t hi, { satd := true }) else (a, {})

/-- VPERM's lane i. -/
def permLane (t : Nat) (x y : VWord) (i : Nat) : Nat × Raised :=
  let w := laneBits t
  let j := lane y w i
  (if j < 256 / w then lane x w j else 0, {})

/-- VCMP: the predicate of the active lanes for which a condition holds (R248). -/
def vecCompare (t : Nat) (f : Nat → Nat → Bool × Raised) (p : BitVec 3) (a b : BitVec 6) (q : BitVec 3) (st : State) :
    Host.Outcome State Fault Refusal :=
  finish do
    let x ← readV st a.toNat
    let y ← readV st b.toNat
    let w := laneBits t
    let m := st.th.predReg q
    let rs := (List.range (256 / w)).map (fun i => if m.getLsbD i then f (lane x w i) (lane y w i) else (false, {}))
    let r : Word := BitVec.ofNat 32 (ofLanes 1 (rs.map (fun r => if r.1 then 1 else 0)))
    let st := raise st (allFlags (rs.map (·.2)))
    .ok (complete (st.setTh (st.th.setPred p r)))

/-- A condition on integer lanes. -/
def intCond (c : Bool) : Bool × Raised := (c, {})

/-- Whether two values are unordered. -/
def unordered (t a b : Nat) : Bool := (decodeElem (laneFmt t) a).1.isNaN || (decodeElem (laneFmt t) b).1.isNaN

/-! ## Reductions across lanes (R249, R250) -/

/-- A reduction of the active lanes into lane 0; the other lanes are 0. -/
def vecReduce (t : Nat) (f : List Nat → Nat) (v a : BitVec 6) (q : BitVec 3) (st : State) : Host.Outcome State Fault Refusal :=
  finish do
    let x ← readV st a.toNat
    let w := laneBits t
    let active := (List.range (256 / w)).filter (fun i => (st.th.predReg q).getLsbD i)
    let st' ← writeV st v.toNat (BitVec.ofNat 256 (f (active.map (lane x w)) % 2 ^ w))
    .ok (complete st')

/-- One level of the pairwise tree. -/
def treeLevel (f : Nat → Nat → Nat × Raised) : List Nat → List (Nat × Raised)
  | a :: b :: rest => f a b :: treeLevel f rest
  | [a] => [(a, {})]
  | [] => []

/-- The pairwise tree of n levels. -/
def treeSum (f : Nat → Nat → Nat × Raised) : Nat → List Nat → Raised → List Nat × Raised
  | 0, l, fl => (l, fl)
  | n + 1, l, fl =>
    let rs := treeLevel f l
    treeSum f n (rs.map (·.1)) (fl.or (allFlags (rs.map (·.2))))

/-- VRFADD (R250). -/
def vecSum (t : Nat) (v a : BitVec 6) (q : BitVec 3) (st : State) : Host.Outcome State Fault Refusal :=
  finish do
    let x ← readV st a.toNat
    let w := laneBits t
    let l := (List.range (256 / w)).map (fun i => if (st.th.predReg q).getLsbD i then lane x w i else 2 ^ (w - 1))
    let (r, fl) := treeSum (fpAdd (laneFmt t) (fpMode st) (fpSat st)) 4 l {}
    let st' ← writeV st v.toNat (BitVec.ofNat 256 (r.headD 0))
    .ok (complete (raise st' fl))

/-! ## Lane movement and predicates (R251, R252) -/

/-- VBCAST. -/
def vecBroadcast (t : Nat) (v : BitVec 6) (r : BitVec 5) (q : BitVec 3) (st : State) : Host.Outcome State Fault Refusal :=
  finishKeeping [r] do
    let x ← readP st r
    let w := laneBits t
    let st' ← writeV st v.toNat (mergeLanes w (st.th.predReg q) (st.th.vecReg v.toNat).val (fun _ => x.toNat % 2 ^ w))
    .ok (completeReading st' [r])

/-- VEXT. -/
def vecExtract (t : Nat) (n : BitVec 5) (a : BitVec 6) (r : BitVec 5) (st : State) : Host.Outcome State Fault Refusal :=
  finish do
    let x ← readV st a.toNat
    let st' ← writeX st r (BitVec.ofInt 32 (sLane t (lane x (laneBits t) n.toNat)))
    .ok (complete st')

/-- VINS: it writes one lane and does not read the others' presence. -/
def vecInsert (t : Nat) (v : BitVec 6) (n r : BitVec 5) (st : State) : Host.Outcome State Fault Refusal :=
  finishKeeping [r] do
    let x ← readP st r
    let w := laneBits t
    let st' ← writeV st v.toNat
      (mergeLanes w (BitVec.ofNat 32 (2 ^ n.toNat)) (st.th.vecReg v.toNat).val (fun _ => x.toNat % 2 ^ w))
    .ok (completeReading st' [r])

/-- A predicate's new value. -/
def setPredicate (d : BitVec 3) (x : Word) (st : State) : Host.Outcome State Fault Refusal :=
  .next (complete (st.setTh (st.th.setPred d x)))

/-! ## Conversions (R253) -/

/-- The value of a lane converted from one type to another. -/
def convertLane (st : State) (r : BitVec 3) (dt ty x : Nat) : Nat × Raised :=
  encodeElem (laneFmt dt) (roundMode st r) (fpSat st) (decodeElem (laneFmt ty) x).1

/-- The sources of a register group, all read before any write. -/
def readGroup (st : State) (v : Nat) : Nat → Eff (List VWord)
  | 0 => .ok []
  | n + 1 => do
    let x ← readV st v
    let xs ← readGroup st (v + 1) n
    .ok (x :: xs)

/-- The results of a register group. -/
def writeGroup (st : State) (v : Nat) : List VWord → Eff State
  | [] => .ok st
  | x :: xs => do
    let st ← writeV st v x
    writeGroup st (v + 1) xs

/-- Conversion of the flat sequence of elements: `ns` source and `nd` destination registers. -/
def vecConvert (ns nd : Nat) (v a : BitVec 6) (r q dt ty : BitVec 3) (st : State) : Host.Outcome State Fault Refusal :=
  finish do
    let ws := laneBits ty.toNat
    let wd := laneBits dt.toNat
    let xs ← readGroup st a.toNat ns
    waitFor (!(List.range nd).any (fun i => (st.th.vecReg (v.toNat + i)).busy)) st
    let q := st.th.predReg q
    let one (k : Nat) : Nat × Raised :=
      if q.getLsbD k then
        convertLane st r dt.toNat ty.toNat (lane (xs.getD (k / (256 / ws)) 0) ws (k % (256 / ws)))
      else (lane (st.th.vecReg (v.toNat + k / (256 / wd))).val wd (k % (256 / wd)), {})
    let regs := (List.range nd).map (fun i => (List.range (256 / wd)).map (fun j => one (i * (256 / wd) + j)))
    let st ← writeGroup st v.toNat (regs.map (fun l => BitVec.ofNat 256 (ofLanes wd (l.map (·.1)))))
    .ok (complete (raise st (allFlags (regs.flatMap (fun l => l.map (·.2))))))

/-- VADD_I8 (R246). Adds I8 lanes under predicate. -/
def execVaddI8 (v : BitVec 6) (a : BitVec 6) (b : BitVec 6) (q : BitVec 3) (st : State) : Host.Outcome State Fault Refusal :=
  vec2 0 (intLane 0 (fun a b => a + b)) v a b q st

/-- VSUB_I8 (R246). Subtracts I8 lanes. -/
def execVsubI8 (v : BitVec 6) (a : BitVec 6) (b : BitVec 6) (q : BitVec 3) (st : State) : Host.Outcome State Fault Refusal :=
  vec2 0 (intLane 0 (fun a b => a + 2 ^ laneBits 0 - b)) v a b q st

/-- VMUL_I8 (R246). Multiplies I8 lanes, low bits. -/
def execVmulI8 (v : BitVec 6) (a : BitVec 6) (b : BitVec 6) (q : BitVec 3) (st : State) : Host.Outcome State Fault Refusal :=
  vec2 0 (intLane 0 (fun a b => a * b)) v a b q st

/-- VMIN_I8 (R246). Signed minimum of I8 lanes. -/
def execVminI8 (v : BitVec 6) (a : BitVec 6) (b : BitVec 6) (q : BitVec 3) (st : State) : Host.Outcome State Fault Refusal :=
  vec2 0 (intLane 0 (fun a b => if sLane 0 b < sLane 0 a then b else a)) v a b q st

/-- VMAX_I8 (R246). Signed maximum of I8 lanes. -/
def execVmaxI8 (v : BitVec 6) (a : BitVec 6) (b : BitVec 6) (q : BitVec 3) (st : State) : Host.Outcome State Fault Refusal :=
  vec2 0 (intLane 0 (fun a b => if sLane 0 a < sLane 0 b then b else a)) v a b q st

/-- VAND_I8 (R246). Bitwise AND of I8 lanes. -/
def execVandI8 (v : BitVec 6) (a : BitVec 6) (b : BitVec 6) (q : BitVec 3) (st : State) : Host.Outcome State Fault Refusal :=
  vec2 0 (intLane 0 (fun a b => a &&& b)) v a b q st

/-- VOR_I8 (R246). Bitwise OR of I8 lanes. -/
def execVorI8 (v : BitVec 6) (a : BitVec 6) (b : BitVec 6) (q : BitVec 3) (st : State) : Host.Outcome State Fault Refusal :=
  vec2 0 (intLane 0 (fun a b => a ||| b)) v a b q st

/-- VXOR_I8 (R246). Bitwise XOR of I8 lanes. -/
def execVxorI8 (v : BitVec 6) (a : BitVec 6) (b : BitVec 6) (q : BitVec 3) (st : State) : Host.Outcome State Fault Refusal :=
  vec2 0 (intLane 0 (fun a b => a ^^^ b)) v a b q st

/-- VSLL_I8 (R246). Left shift of I8 lanes. -/
def execVsllI8 (v : BitVec 6) (a : BitVec 6) (b : BitVec 6) (q : BitVec 3) (st : State) : Host.Outcome State Fault Refusal :=
  vec2 0 (intLane 0 (fun a b => a * 2 ^ (b % laneBits 0))) v a b q st

/-- VSRL_I8 (R246). Logical right shift of I8 lanes. -/
def execVsrlI8 (v : BitVec 6) (a : BitVec 6) (b : BitVec 6) (q : BitVec 3) (st : State) : Host.Outcome State Fault Refusal :=
  vec2 0 (intLane 0 (fun a b => a / 2 ^ (b % laneBits 0))) v a b q st

/-- VSRA_I8 (R246). Arithmetic right shift of I8 lanes. -/
def execVsraI8 (v : BitVec 6) (a : BitVec 6) (b : BitVec 6) (q : BitVec 3) (st : State) : Host.Outcome State Fault Refusal :=
  vec2 0 (intLane 0 (fun a b => uLane 0 (sLane 0 a / 2 ^ (b % laneBits 0)))) v a b q st

/-- VPERM_I8 (R246). Permutes 8-bit lanes by index. -/
def execVpermI8 (v : BitVec 6) (a : BitVec 6) (b : BitVec 6) (q : BitVec 3) (st : State) : Host.Outcome State Fault Refusal :=
  vec2 0 (permLane 0) v a b q st

/-- VABS_I8 (R246). Absolute value of I8 lanes. -/
def execVabsI8 (v : BitVec 6) (a : BitVec 6) (q : BitVec 3) (st : State) : Host.Outcome State Fault Refusal :=
  vec1 0 (fun a => (uLane 0 (sLane 0 a).natAbs, {})) v a q st

/-- VNEG_I8 (R246). Negates I8 lanes. -/
def execVnegI8 (v : BitVec 6) (a : BitVec 6) (q : BitVec 3) (st : State) : Host.Outcome State Fault Refusal :=
  vec1 0 (fun a => (uLane 0 (-sLane 0 a), {})) v a q st

/-- VSAT_I8 (R246). Clamps I8 lanes to n bits, setting SATD. -/
def execVsatI8 (v : BitVec 6) (a : BitVec 6) (n : BitVec 6) (q : BitVec 3) (st : State) : Host.Outcome State Fault Refusal :=
  vec1 0 (clampLane 0 n.toNat) v a q st

/-- VMOV_I8 (R246). Copies 8-bit lanes. -/
def execVmovI8 (v : BitVec 6) (a : BitVec 6) (q : BitVec 3) (st : State) : Host.Outcome State Fault Refusal :=
  vec1 0 (fun a => (a, {})) v a q st

/-- VCMP_EQ_I8 (R248). Compares I8 lanes for equality into a predicate. -/
def execVcmpEqI8 (p : BitVec 3) (a : BitVec 6) (b : BitVec 6) (q : BitVec 3) (st : State) : Host.Outcome State Fault Refusal :=
  vecCompare 0 (fun a b => intCond (a == b)) p a b q st

/-- VCMP_NE_I8 (R248). Compares I8 lanes for inequality. -/
def execVcmpNeI8 (p : BitVec 3) (a : BitVec 6) (b : BitVec 6) (q : BitVec 3) (st : State) : Host.Outcome State Fault Refusal :=
  vecCompare 0 (fun a b => intCond (a != b)) p a b q st

/-- VCMP_LT_I8 (R248). Signed less-than of I8 lanes. -/
def execVcmpLtI8 (p : BitVec 3) (a : BitVec 6) (b : BitVec 6) (q : BitVec 3) (st : State) : Host.Outcome State Fault Refusal :=
  vecCompare 0 (fun a b => intCond (decide (sLane 0 a < sLane 0 b))) p a b q st

/-- VCMP_LE_I8 (R248). Signed less-or-equal of I8 lanes. -/
def execVcmpLeI8 (p : BitVec 3) (a : BitVec 6) (b : BitVec 6) (q : BitVec 3) (st : State) : Host.Outcome State Fault Refusal :=
  vecCompare 0 (fun a b => intCond (decide (sLane 0 a ≤ sLane 0 b))) p a b q st

/-- VCMP_LTU_I8 (R248). Unsigned less-than of I8 lanes. -/
def execVcmpLtuI8 (p : BitVec 3) (a : BitVec 6) (b : BitVec 6) (q : BitVec 3) (st : State) : Host.Outcome State Fault Refusal :=
  vecCompare 0 (fun a b => intCond (decide (a < b))) p a b q st

/-- VCMP_LEU_I8 (R248). Unsigned less-or-equal of I8 lanes. -/
def execVcmpLeuI8 (p : BitVec 3) (a : BitVec 6) (b : BitVec 6) (q : BitVec 3) (st : State) : Host.Outcome State Fault Refusal :=
  vecCompare 0 (fun a b => intCond (decide (a ≤ b))) p a b q st

/-- VRADD_I8 (R249). Sums active I8 lanes into lane 0. -/
def execVraddI8 (v : BitVec 6) (a : BitVec 6) (q : BitVec 3) (st : State) : Host.Outcome State Fault Refusal :=
  vecReduce 0 (fun l => l.sum) v a q st

/-- VRMAX_I8 (R249). Greatest active I8 lane into lane 0. -/
def execVrmaxI8 (v : BitVec 6) (a : BitVec 6) (q : BitVec 3) (st : State) : Host.Outcome State Fault Refusal :=
  vecReduce 0 (fun l => uLane 0 (l.foldl (fun m x => max m (sLane 0 x)) (-(2 ^ 7)))) v a q st

/-- VRMIN_I8 (R249). Least active I8 lane into lane 0. -/
def execVrminI8 (v : BitVec 6) (a : BitVec 6) (q : BitVec 3) (st : State) : Host.Outcome State Fault Refusal :=
  vecReduce 0 (fun l => uLane 0 (l.foldl (fun m x => min m (sLane 0 x)) (2 ^ 7 - 1))) v a q st

/-- VBCAST_I8 (R251). Broadcasts a scalar into active 8-bit lanes. -/
def execVbcastI8 (v : BitVec 6) (r : BitVec 5) (q : BitVec 3) (st : State) : Host.Outcome State Fault Refusal :=
  vecBroadcast 0 v r q st

/-- VEXT_I8 (R251). Extracts an 8-bit lane into a scalar, sign-extended. -/
def execVextI8 (n : BitVec 5) (a : BitVec 6) (r : BitVec 5) (st : State) : Host.Outcome State Fault Refusal :=
  vecExtract 0 n a r st

/-- VINS_I8 (R251). Inserts a scalar into one 8-bit lane. -/
def execVinsI8 (v : BitVec 6) (n : BitVec 5) (r : BitVec 5) (st : State) : Host.Outcome State Fault Refusal :=
  vecInsert 0 v n r st

/-- VADD_I16 (R246). Adds I16 lanes. -/
def execVaddI16 (v : BitVec 6) (a : BitVec 6) (b : BitVec 6) (q : BitVec 3) (st : State) : Host.Outcome State Fault Refusal :=
  vec2 1 (intLane 1 (fun a b => a + b)) v a b q st

/-- VSUB_I16 (R246). Subtracts I16 lanes. -/
def execVsubI16 (v : BitVec 6) (a : BitVec 6) (b : BitVec 6) (q : BitVec 3) (st : State) : Host.Outcome State Fault Refusal :=
  vec2 1 (intLane 1 (fun a b => a + 2 ^ laneBits 1 - b)) v a b q st

/-- VMUL_I16 (R246). Multiplies I16 lanes. -/
def execVmulI16 (v : BitVec 6) (a : BitVec 6) (b : BitVec 6) (q : BitVec 3) (st : State) : Host.Outcome State Fault Refusal :=
  vec2 1 (intLane 1 (fun a b => a * b)) v a b q st

/-- VMIN_I16 (R246). Signed minimum of I16 lanes. -/
def execVminI16 (v : BitVec 6) (a : BitVec 6) (b : BitVec 6) (q : BitVec 3) (st : State) : Host.Outcome State Fault Refusal :=
  vec2 1 (intLane 1 (fun a b => if sLane 1 b < sLane 1 a then b else a)) v a b q st

/-- VMAX_I16 (R246). Signed maximum of I16 lanes. -/
def execVmaxI16 (v : BitVec 6) (a : BitVec 6) (b : BitVec 6) (q : BitVec 3) (st : State) : Host.Outcome State Fault Refusal :=
  vec2 1 (intLane 1 (fun a b => if sLane 1 a < sLane 1 b then b else a)) v a b q st

/-- VAND_I16 (R246). Bitwise AND of I16 lanes. -/
def execVandI16 (v : BitVec 6) (a : BitVec 6) (b : BitVec 6) (q : BitVec 3) (st : State) : Host.Outcome State Fault Refusal :=
  vec2 1 (intLane 1 (fun a b => a &&& b)) v a b q st

/-- VOR_I16 (R246). Bitwise OR of I16 lanes. -/
def execVorI16 (v : BitVec 6) (a : BitVec 6) (b : BitVec 6) (q : BitVec 3) (st : State) : Host.Outcome State Fault Refusal :=
  vec2 1 (intLane 1 (fun a b => a ||| b)) v a b q st

/-- VXOR_I16 (R246). Bitwise XOR of I16 lanes. -/
def execVxorI16 (v : BitVec 6) (a : BitVec 6) (b : BitVec 6) (q : BitVec 3) (st : State) : Host.Outcome State Fault Refusal :=
  vec2 1 (intLane 1 (fun a b => a ^^^ b)) v a b q st

/-- VSLL_I16 (R246). Left shift of I16 lanes. -/
def execVsllI16 (v : BitVec 6) (a : BitVec 6) (b : BitVec 6) (q : BitVec 3) (st : State) : Host.Outcome State Fault Refusal :=
  vec2 1 (intLane 1 (fun a b => a * 2 ^ (b % laneBits 1))) v a b q st

/-- VSRL_I16 (R246). Logical right shift of I16 lanes. -/
def execVsrlI16 (v : BitVec 6) (a : BitVec 6) (b : BitVec 6) (q : BitVec 3) (st : State) : Host.Outcome State Fault Refusal :=
  vec2 1 (intLane 1 (fun a b => a / 2 ^ (b % laneBits 1))) v a b q st

/-- VSRA_I16 (R246). Arithmetic right shift of I16 lanes. -/
def execVsraI16 (v : BitVec 6) (a : BitVec 6) (b : BitVec 6) (q : BitVec 3) (st : State) : Host.Outcome State Fault Refusal :=
  vec2 1 (intLane 1 (fun a b => uLane 1 (sLane 1 a / 2 ^ (b % laneBits 1)))) v a b q st

/-- VPERM_I16 (R246). Permutes 16-bit lanes by index. -/
def execVpermI16 (v : BitVec 6) (a : BitVec 6) (b : BitVec 6) (q : BitVec 3) (st : State) : Host.Outcome State Fault Refusal :=
  vec2 1 (permLane 1) v a b q st

/-- VABS_I16 (R246). Absolute value of I16 lanes. -/
def execVabsI16 (v : BitVec 6) (a : BitVec 6) (q : BitVec 3) (st : State) : Host.Outcome State Fault Refusal :=
  vec1 1 (fun a => (uLane 1 (sLane 1 a).natAbs, {})) v a q st

/-- VNEG_I16 (R246). Negates I16 lanes. -/
def execVnegI16 (v : BitVec 6) (a : BitVec 6) (q : BitVec 3) (st : State) : Host.Outcome State Fault Refusal :=
  vec1 1 (fun a => (uLane 1 (-sLane 1 a), {})) v a q st

/-- VSAT_I16 (R246). Clamps I16 lanes to n bits. -/
def execVsatI16 (v : BitVec 6) (a : BitVec 6) (n : BitVec 6) (q : BitVec 3) (st : State) : Host.Outcome State Fault Refusal :=
  vec1 1 (clampLane 1 n.toNat) v a q st

/-- VMOV_I16 (R246). Copies 16-bit lanes. -/
def execVmovI16 (v : BitVec 6) (a : BitVec 6) (q : BitVec 3) (st : State) : Host.Outcome State Fault Refusal :=
  vec1 1 (fun a => (a, {})) v a q st

/-- VCMP_EQ_I16 (R248). Compares I16 lanes for equality. -/
def execVcmpEqI16 (p : BitVec 3) (a : BitVec 6) (b : BitVec 6) (q : BitVec 3) (st : State) : Host.Outcome State Fault Refusal :=
  vecCompare 1 (fun a b => intCond (a == b)) p a b q st

/-- VCMP_NE_I16 (R248). Compares I16 lanes for inequality. -/
def execVcmpNeI16 (p : BitVec 3) (a : BitVec 6) (b : BitVec 6) (q : BitVec 3) (st : State) : Host.Outcome State Fault Refusal :=
  vecCompare 1 (fun a b => intCond (a != b)) p a b q st

/-- VCMP_LT_I16 (R248). Signed less-than of I16 lanes. -/
def execVcmpLtI16 (p : BitVec 3) (a : BitVec 6) (b : BitVec 6) (q : BitVec 3) (st : State) : Host.Outcome State Fault Refusal :=
  vecCompare 1 (fun a b => intCond (decide (sLane 1 a < sLane 1 b))) p a b q st

/-- VCMP_LE_I16 (R248). Signed less-or-equal of I16 lanes. -/
def execVcmpLeI16 (p : BitVec 3) (a : BitVec 6) (b : BitVec 6) (q : BitVec 3) (st : State) : Host.Outcome State Fault Refusal :=
  vecCompare 1 (fun a b => intCond (decide (sLane 1 a ≤ sLane 1 b))) p a b q st

/-- VCMP_LTU_I16 (R248). Unsigned less-than of I16 lanes. -/
def execVcmpLtuI16 (p : BitVec 3) (a : BitVec 6) (b : BitVec 6) (q : BitVec 3) (st : State) : Host.Outcome State Fault Refusal :=
  vecCompare 1 (fun a b => intCond (decide (a < b))) p a b q st

/-- VCMP_LEU_I16 (R248). Unsigned less-or-equal of I16 lanes. -/
def execVcmpLeuI16 (p : BitVec 3) (a : BitVec 6) (b : BitVec 6) (q : BitVec 3) (st : State) : Host.Outcome State Fault Refusal :=
  vecCompare 1 (fun a b => intCond (decide (a ≤ b))) p a b q st

/-- VRADD_I16 (R249). Sums active I16 lanes into lane 0. -/
def execVraddI16 (v : BitVec 6) (a : BitVec 6) (q : BitVec 3) (st : State) : Host.Outcome State Fault Refusal :=
  vecReduce 1 (fun l => l.sum) v a q st

/-- VRMAX_I16 (R249). Greatest active I16 lane into lane 0. -/
def execVrmaxI16 (v : BitVec 6) (a : BitVec 6) (q : BitVec 3) (st : State) : Host.Outcome State Fault Refusal :=
  vecReduce 1 (fun l => uLane 1 (l.foldl (fun m x => max m (sLane 1 x)) (-(2 ^ 15)))) v a q st

/-- VRMIN_I16 (R249). Least active I16 lane into lane 0. -/
def execVrminI16 (v : BitVec 6) (a : BitVec 6) (q : BitVec 3) (st : State) : Host.Outcome State Fault Refusal :=
  vecReduce 1 (fun l => uLane 1 (l.foldl (fun m x => min m (sLane 1 x)) (2 ^ 15 - 1))) v a q st

/-- VBCAST_I16 (R251). Broadcasts a scalar into active 16-bit lanes. -/
def execVbcastI16 (v : BitVec 6) (r : BitVec 5) (q : BitVec 3) (st : State) : Host.Outcome State Fault Refusal :=
  vecBroadcast 1 v r q st

/-- VEXT_I16 (R251). Extracts a 16-bit lane into a scalar. -/
def execVextI16 (n : BitVec 5) (a : BitVec 6) (r : BitVec 5) (st : State) : Host.Outcome State Fault Refusal :=
  vecExtract 1 n a r st

/-- VINS_I16 (R251). Inserts a scalar into one 16-bit lane. -/
def execVinsI16 (v : BitVec 6) (n : BitVec 5) (r : BitVec 5) (st : State) : Host.Outcome State Fault Refusal :=
  vecInsert 1 v n r st

/-- VADD_I32 (R246). Adds I32 lanes. -/
def execVaddI32 (v : BitVec 6) (a : BitVec 6) (b : BitVec 6) (q : BitVec 3) (st : State) : Host.Outcome State Fault Refusal :=
  vec2 2 (intLane 2 (fun a b => a + b)) v a b q st

/-- VSUB_I32 (R246). Subtracts I32 lanes. -/
def execVsubI32 (v : BitVec 6) (a : BitVec 6) (b : BitVec 6) (q : BitVec 3) (st : State) : Host.Outcome State Fault Refusal :=
  vec2 2 (intLane 2 (fun a b => a + 2 ^ laneBits 2 - b)) v a b q st

/-- VMUL_I32 (R246). Multiplies I32 lanes. -/
def execVmulI32 (v : BitVec 6) (a : BitVec 6) (b : BitVec 6) (q : BitVec 3) (st : State) : Host.Outcome State Fault Refusal :=
  vec2 2 (intLane 2 (fun a b => a * b)) v a b q st

/-- VMIN_I32 (R246). Signed minimum of I32 lanes. -/
def execVminI32 (v : BitVec 6) (a : BitVec 6) (b : BitVec 6) (q : BitVec 3) (st : State) : Host.Outcome State Fault Refusal :=
  vec2 2 (intLane 2 (fun a b => if sLane 2 b < sLane 2 a then b else a)) v a b q st

/-- VMAX_I32 (R246). Signed maximum of I32 lanes. -/
def execVmaxI32 (v : BitVec 6) (a : BitVec 6) (b : BitVec 6) (q : BitVec 3) (st : State) : Host.Outcome State Fault Refusal :=
  vec2 2 (intLane 2 (fun a b => if sLane 2 a < sLane 2 b then b else a)) v a b q st

/-- VAND_I32 (R246). Bitwise AND of I32 lanes. -/
def execVandI32 (v : BitVec 6) (a : BitVec 6) (b : BitVec 6) (q : BitVec 3) (st : State) : Host.Outcome State Fault Refusal :=
  vec2 2 (intLane 2 (fun a b => a &&& b)) v a b q st

/-- VOR_I32 (R246). Bitwise OR of I32 lanes. -/
def execVorI32 (v : BitVec 6) (a : BitVec 6) (b : BitVec 6) (q : BitVec 3) (st : State) : Host.Outcome State Fault Refusal :=
  vec2 2 (intLane 2 (fun a b => a ||| b)) v a b q st

/-- VXOR_I32 (R246). Bitwise XOR of I32 lanes. -/
def execVxorI32 (v : BitVec 6) (a : BitVec 6) (b : BitVec 6) (q : BitVec 3) (st : State) : Host.Outcome State Fault Refusal :=
  vec2 2 (intLane 2 (fun a b => a ^^^ b)) v a b q st

/-- VSLL_I32 (R246). Left shift of I32 lanes. -/
def execVsllI32 (v : BitVec 6) (a : BitVec 6) (b : BitVec 6) (q : BitVec 3) (st : State) : Host.Outcome State Fault Refusal :=
  vec2 2 (intLane 2 (fun a b => a * 2 ^ (b % laneBits 2))) v a b q st

/-- VSRL_I32 (R246). Logical right shift of I32 lanes. -/
def execVsrlI32 (v : BitVec 6) (a : BitVec 6) (b : BitVec 6) (q : BitVec 3) (st : State) : Host.Outcome State Fault Refusal :=
  vec2 2 (intLane 2 (fun a b => a / 2 ^ (b % laneBits 2))) v a b q st

/-- VSRA_I32 (R246). Arithmetic right shift of I32 lanes. -/
def execVsraI32 (v : BitVec 6) (a : BitVec 6) (b : BitVec 6) (q : BitVec 3) (st : State) : Host.Outcome State Fault Refusal :=
  vec2 2 (intLane 2 (fun a b => uLane 2 (sLane 2 a / 2 ^ (b % laneBits 2)))) v a b q st

/-- VPERM_I32 (R246). Permutes 32-bit lanes by index. -/
def execVpermI32 (v : BitVec 6) (a : BitVec 6) (b : BitVec 6) (q : BitVec 3) (st : State) : Host.Outcome State Fault Refusal :=
  vec2 2 (permLane 2) v a b q st

/-- VABS_I32 (R246). Absolute value of I32 lanes. -/
def execVabsI32 (v : BitVec 6) (a : BitVec 6) (q : BitVec 3) (st : State) : Host.Outcome State Fault Refusal :=
  vec1 2 (fun a => (uLane 2 (sLane 2 a).natAbs, {})) v a q st

/-- VNEG_I32 (R246). Negates I32 lanes. -/
def execVnegI32 (v : BitVec 6) (a : BitVec 6) (q : BitVec 3) (st : State) : Host.Outcome State Fault Refusal :=
  vec1 2 (fun a => (uLane 2 (-sLane 2 a), {})) v a q st

/-- VSAT_I32 (R246). Clamps I32 lanes to n bits. -/
def execVsatI32 (v : BitVec 6) (a : BitVec 6) (n : BitVec 6) (q : BitVec 3) (st : State) : Host.Outcome State Fault Refusal :=
  vec1 2 (clampLane 2 n.toNat) v a q st

/-- VMOV_I32 (R246). Copies 32-bit lanes. -/
def execVmovI32 (v : BitVec 6) (a : BitVec 6) (q : BitVec 3) (st : State) : Host.Outcome State Fault Refusal :=
  vec1 2 (fun a => (a, {})) v a q st

/-- VCMP_EQ_I32 (R248). Compares I32 lanes for equality. -/
def execVcmpEqI32 (p : BitVec 3) (a : BitVec 6) (b : BitVec 6) (q : BitVec 3) (st : State) : Host.Outcome State Fault Refusal :=
  vecCompare 2 (fun a b => intCond (a == b)) p a b q st

/-- VCMP_NE_I32 (R248). Compares I32 lanes for inequality. -/
def execVcmpNeI32 (p : BitVec 3) (a : BitVec 6) (b : BitVec 6) (q : BitVec 3) (st : State) : Host.Outcome State Fault Refusal :=
  vecCompare 2 (fun a b => intCond (a != b)) p a b q st

/-- VCMP_LT_I32 (R248). Signed less-than of I32 lanes. -/
def execVcmpLtI32 (p : BitVec 3) (a : BitVec 6) (b : BitVec 6) (q : BitVec 3) (st : State) : Host.Outcome State Fault Refusal :=
  vecCompare 2 (fun a b => intCond (decide (sLane 2 a < sLane 2 b))) p a b q st

/-- VCMP_LE_I32 (R248). Signed less-or-equal of I32 lanes. -/
def execVcmpLeI32 (p : BitVec 3) (a : BitVec 6) (b : BitVec 6) (q : BitVec 3) (st : State) : Host.Outcome State Fault Refusal :=
  vecCompare 2 (fun a b => intCond (decide (sLane 2 a ≤ sLane 2 b))) p a b q st

/-- VCMP_LTU_I32 (R248). Unsigned less-than of I32 lanes. -/
def execVcmpLtuI32 (p : BitVec 3) (a : BitVec 6) (b : BitVec 6) (q : BitVec 3) (st : State) : Host.Outcome State Fault Refusal :=
  vecCompare 2 (fun a b => intCond (decide (a < b))) p a b q st

/-- VCMP_LEU_I32 (R248). Unsigned less-or-equal of I32 lanes. -/
def execVcmpLeuI32 (p : BitVec 3) (a : BitVec 6) (b : BitVec 6) (q : BitVec 3) (st : State) : Host.Outcome State Fault Refusal :=
  vecCompare 2 (fun a b => intCond (decide (a ≤ b))) p a b q st

/-- VRADD_I32 (R249). Sums active I32 lanes into lane 0. -/
def execVraddI32 (v : BitVec 6) (a : BitVec 6) (q : BitVec 3) (st : State) : Host.Outcome State Fault Refusal :=
  vecReduce 2 (fun l => l.sum) v a q st

/-- VRMAX_I32 (R249). Greatest active I32 lane into lane 0. -/
def execVrmaxI32 (v : BitVec 6) (a : BitVec 6) (q : BitVec 3) (st : State) : Host.Outcome State Fault Refusal :=
  vecReduce 2 (fun l => uLane 2 (l.foldl (fun m x => max m (sLane 2 x)) (-(2 ^ 31)))) v a q st

/-- VRMIN_I32 (R249). Least active I32 lane into lane 0. -/
def execVrminI32 (v : BitVec 6) (a : BitVec 6) (q : BitVec 3) (st : State) : Host.Outcome State Fault Refusal :=
  vecReduce 2 (fun l => uLane 2 (l.foldl (fun m x => min m (sLane 2 x)) (2 ^ 31 - 1))) v a q st

/-- VBCAST_I32 (R251). Broadcasts a scalar into active 32-bit lanes. -/
def execVbcastI32 (v : BitVec 6) (r : BitVec 5) (q : BitVec 3) (st : State) : Host.Outcome State Fault Refusal :=
  vecBroadcast 2 v r q st

/-- VEXT_I32 (R251). Extracts a 32-bit lane into a scalar. -/
def execVextI32 (n : BitVec 5) (a : BitVec 6) (r : BitVec 5) (st : State) : Host.Outcome State Fault Refusal :=
  vecExtract 2 n a r st

/-- VINS_I32 (R251). Inserts a scalar into one 32-bit lane. -/
def execVinsI32 (v : BitVec 6) (n : BitVec 5) (r : BitVec 5) (st : State) : Host.Outcome State Fault Refusal :=
  vecInsert 2 v n r st

/-- VFADD_F16 (R247). Adds F16 lanes, rounded once. -/
def execVfaddF16 (v : BitVec 6) (a : BitVec 6) (b : BitVec 6) (q : BitVec 3) (st : State) : Host.Outcome State Fault Refusal :=
  vec2 3 (pairwise 3 (fpAdd 12 (fpMode st) (fpSat st))) v a b q st

/-- VFSUB_F16 (R247). Subtracts F16 lanes. -/
def execVfsubF16 (v : BitVec 6) (a : BitVec 6) (b : BitVec 6) (q : BitVec 3) (st : State) : Host.Outcome State Fault Refusal :=
  vec2 3 (pairwise 3 (fpSub 12 (fpMode st) (fpSat st))) v a b q st

/-- VFMUL_F16 (R247). Multiplies F16 lanes. -/
def execVfmulF16 (v : BitVec 6) (a : BitVec 6) (b : BitVec 6) (q : BitVec 3) (st : State) : Host.Outcome State Fault Refusal :=
  vec2 3 (pairwise 3 (fpMul 12 (fpMode st) (fpSat st))) v a b q st

/-- VFDIV_F16 (R247). Divides F16 lanes. -/
def execVfdivF16 (v : BitVec 6) (a : BitVec 6) (b : BitVec 6) (q : BitVec 3) (st : State) : Host.Outcome State Fault Refusal :=
  vec2 3 (pairwise 3 (fpDiv 12 (fpMode st) (fpSat st))) v a b q st

/-- VFMIN_F16 (R247). Minimum of F16 lanes. -/
def execVfminF16 (v : BitVec 6) (a : BitVec 6) (b : BitVec 6) (q : BitVec 3) (st : State) : Host.Outcome State Fault Refusal :=
  vec2 3 (pairwise 3 (fpMinMax 12 false)) v a b q st

/-- VFMAX_F16 (R247). Maximum of F16 lanes. -/
def execVfmaxF16 (v : BitVec 6) (a : BitVec 6) (b : BitVec 6) (q : BitVec 3) (st : State) : Host.Outcome State Fault Refusal :=
  vec2 3 (pairwise 3 (fpMinMax 12 true)) v a b q st

/-- VFMA_F16 (R247). Fused multiply-add of F16 lanes into vd. -/
def execVfmaF16 (v : BitVec 6) (a : BitVec 6) (b : BitVec 6) (q : BitVec 3) (st : State) : Host.Outcome State Fault Refusal :=
  finish do
    let x ← readV st a.toNat
    let y ← readV st b.toNat
    let z ← readV st v.toNat
    let w := laneBits 3
    let r := mapLanes w (st.th.predReg q) z
      (fun i => fpFma 12 (fpMode st) (fpSat st) (lane x w i) (lane y w i) (lane z w i))
    let st' ← writeV st v.toNat r.1
    .ok (complete (raise st' r.2))

/-- VFSQRT_F16 (R247). Square root of F16 lanes. -/
def execVfsqrtF16 (v : BitVec 6) (a : BitVec 6) (q : BitVec 3) (st : State) : Host.Outcome State Fault Refusal :=
  vec1 3 (fpSqrt 12 (fpMode st) (fpSat st)) v a q st

/-- VCMP_EQ_F16 (R248). Quiet equality compare of F16 lanes. -/
def execVcmpEqF16 (p : BitVec 3) (a : BitVec 6) (b : BitVec 6) (q : BitVec 3) (st : State) : Host.Outcome State Fault Refusal :=
  vecCompare 3 (fpCompare 12 true eqNum) p a b q st

/-- VCMP_NE_F16 (R248). Ordered inequality of F16 lanes. -/
def execVcmpNeF16 (p : BitVec 3) (a : BitVec 6) (b : BitVec 6) (q : BitVec 3) (st : State) : Host.Outcome State Fault Refusal :=
  vecCompare 3 (fpCompare 12 true (fun x y => !eqNum x y)) p a b q st

/-- VCMP_LT_F16 (R248). Less-than of F16 lanes. -/
def execVcmpLtF16 (p : BitVec 3) (a : BitVec 6) (b : BitVec 6) (q : BitVec 3) (st : State) : Host.Outcome State Fault Refusal :=
  vecCompare 3 (fpCompare 12 false ltNum) p a b q st

/-- VCMP_LE_F16 (R248). Less-or-equal of F16 lanes. -/
def execVcmpLeF16 (p : BitVec 3) (a : BitVec 6) (b : BitVec 6) (q : BitVec 3) (st : State) : Host.Outcome State Fault Refusal :=
  vecCompare 3 (fpCompare 12 false leNum) p a b q st

/-- VCMP_UN_F16 (R248). Unordered test of F16 lanes. -/
def execVcmpUnF16 (p : BitVec 3) (a : BitVec 6) (b : BitVec 6) (q : BitVec 3) (st : State) : Host.Outcome State Fault Refusal :=
  vecCompare 3 (fun a b => (unordered 3 a b, (fpCompare 12 true eqNum a b).2)) p a b q st

/-- VRFADD_F16 (R250). Pairwise-tree sum of active F16 lanes. -/
def execVrfaddF16 (v : BitVec 6) (a : BitVec 6) (q : BitVec 3) (st : State) : Host.Outcome State Fault Refusal :=
  vecSum 3 v a q st

/-- VFADD_BF16 (R247). Adds BF16 lanes. -/
def execVfaddBf16 (v : BitVec 6) (a : BitVec 6) (b : BitVec 6) (q : BitVec 3) (st : State) : Host.Outcome State Fault Refusal :=
  vec2 4 (pairwise 4 (fpAdd 13 (fpMode st) (fpSat st))) v a b q st

/-- VFSUB_BF16 (R247). Subtracts BF16 lanes. -/
def execVfsubBf16 (v : BitVec 6) (a : BitVec 6) (b : BitVec 6) (q : BitVec 3) (st : State) : Host.Outcome State Fault Refusal :=
  vec2 4 (pairwise 4 (fpSub 13 (fpMode st) (fpSat st))) v a b q st

/-- VFMUL_BF16 (R247). Multiplies BF16 lanes. -/
def execVfmulBf16 (v : BitVec 6) (a : BitVec 6) (b : BitVec 6) (q : BitVec 3) (st : State) : Host.Outcome State Fault Refusal :=
  vec2 4 (pairwise 4 (fpMul 13 (fpMode st) (fpSat st))) v a b q st

/-- VFDIV_BF16 (R247). Divides BF16 lanes. -/
def execVfdivBf16 (v : BitVec 6) (a : BitVec 6) (b : BitVec 6) (q : BitVec 3) (st : State) : Host.Outcome State Fault Refusal :=
  vec2 4 (pairwise 4 (fpDiv 13 (fpMode st) (fpSat st))) v a b q st

/-- VFMIN_BF16 (R247). Minimum of BF16 lanes. -/
def execVfminBf16 (v : BitVec 6) (a : BitVec 6) (b : BitVec 6) (q : BitVec 3) (st : State) : Host.Outcome State Fault Refusal :=
  vec2 4 (pairwise 4 (fpMinMax 13 false)) v a b q st

/-- VFMAX_BF16 (R247). Maximum of BF16 lanes. -/
def execVfmaxBf16 (v : BitVec 6) (a : BitVec 6) (b : BitVec 6) (q : BitVec 3) (st : State) : Host.Outcome State Fault Refusal :=
  vec2 4 (pairwise 4 (fpMinMax 13 true)) v a b q st

/-- VFMA_BF16 (R247). Fused multiply-add of BF16 lanes. -/
def execVfmaBf16 (v : BitVec 6) (a : BitVec 6) (b : BitVec 6) (q : BitVec 3) (st : State) : Host.Outcome State Fault Refusal :=
  finish do
    let x ← readV st a.toNat
    let y ← readV st b.toNat
    let z ← readV st v.toNat
    let w := laneBits 4
    let r := mapLanes w (st.th.predReg q) z
      (fun i => fpFma 13 (fpMode st) (fpSat st) (lane x w i) (lane y w i) (lane z w i))
    let st' ← writeV st v.toNat r.1
    .ok (complete (raise st' r.2))

/-- VFSQRT_BF16 (R247). Square root of BF16 lanes. -/
def execVfsqrtBf16 (v : BitVec 6) (a : BitVec 6) (q : BitVec 3) (st : State) : Host.Outcome State Fault Refusal :=
  vec1 4 (fpSqrt 13 (fpMode st) (fpSat st)) v a q st

/-- VCMP_EQ_BF16 (R248). Quiet equality compare of BF16 lanes. -/
def execVcmpEqBf16 (p : BitVec 3) (a : BitVec 6) (b : BitVec 6) (q : BitVec 3) (st : State) : Host.Outcome State Fault Refusal :=
  vecCompare 4 (fpCompare 13 true eqNum) p a b q st

/-- VCMP_NE_BF16 (R248). Ordered inequality of BF16 lanes. -/
def execVcmpNeBf16 (p : BitVec 3) (a : BitVec 6) (b : BitVec 6) (q : BitVec 3) (st : State) : Host.Outcome State Fault Refusal :=
  vecCompare 4 (fpCompare 13 true (fun x y => !eqNum x y)) p a b q st

/-- VCMP_LT_BF16 (R248). Less-than of BF16 lanes. -/
def execVcmpLtBf16 (p : BitVec 3) (a : BitVec 6) (b : BitVec 6) (q : BitVec 3) (st : State) : Host.Outcome State Fault Refusal :=
  vecCompare 4 (fpCompare 13 false ltNum) p a b q st

/-- VCMP_LE_BF16 (R248). Less-or-equal of BF16 lanes. -/
def execVcmpLeBf16 (p : BitVec 3) (a : BitVec 6) (b : BitVec 6) (q : BitVec 3) (st : State) : Host.Outcome State Fault Refusal :=
  vecCompare 4 (fpCompare 13 false leNum) p a b q st

/-- VCMP_UN_BF16 (R248). Unordered test of BF16 lanes. -/
def execVcmpUnBf16 (p : BitVec 3) (a : BitVec 6) (b : BitVec 6) (q : BitVec 3) (st : State) : Host.Outcome State Fault Refusal :=
  vecCompare 4 (fun a b => (unordered 4 a b, (fpCompare 13 true eqNum a b).2)) p a b q st

/-- VRFADD_BF16 (R250). Pairwise-tree sum of active BF16 lanes. -/
def execVrfaddBf16 (v : BitVec 6) (a : BitVec 6) (q : BitVec 3) (st : State) : Host.Outcome State Fault Refusal :=
  vecSum 4 v a q st

/-- VFADD_F32 (R247). Adds F32 lanes. -/
def execVfaddF32 (v : BitVec 6) (a : BitVec 6) (b : BitVec 6) (q : BitVec 3) (st : State) : Host.Outcome State Fault Refusal :=
  vec2 5 (pairwise 5 (fpAdd 11 (fpMode st) (fpSat st))) v a b q st

/-- VFSUB_F32 (R247). Subtracts F32 lanes. -/
def execVfsubF32 (v : BitVec 6) (a : BitVec 6) (b : BitVec 6) (q : BitVec 3) (st : State) : Host.Outcome State Fault Refusal :=
  vec2 5 (pairwise 5 (fpSub 11 (fpMode st) (fpSat st))) v a b q st

/-- VFMUL_F32 (R247). Multiplies F32 lanes. -/
def execVfmulF32 (v : BitVec 6) (a : BitVec 6) (b : BitVec 6) (q : BitVec 3) (st : State) : Host.Outcome State Fault Refusal :=
  vec2 5 (pairwise 5 (fpMul 11 (fpMode st) (fpSat st))) v a b q st

/-- VFDIV_F32 (R247). Divides F32 lanes. -/
def execVfdivF32 (v : BitVec 6) (a : BitVec 6) (b : BitVec 6) (q : BitVec 3) (st : State) : Host.Outcome State Fault Refusal :=
  vec2 5 (pairwise 5 (fpDiv 11 (fpMode st) (fpSat st))) v a b q st

/-- VFMIN_F32 (R247). Minimum of F32 lanes. -/
def execVfminF32 (v : BitVec 6) (a : BitVec 6) (b : BitVec 6) (q : BitVec 3) (st : State) : Host.Outcome State Fault Refusal :=
  vec2 5 (pairwise 5 (fpMinMax 11 false)) v a b q st

/-- VFMAX_F32 (R247). Maximum of F32 lanes. -/
def execVfmaxF32 (v : BitVec 6) (a : BitVec 6) (b : BitVec 6) (q : BitVec 3) (st : State) : Host.Outcome State Fault Refusal :=
  vec2 5 (pairwise 5 (fpMinMax 11 true)) v a b q st

/-- VFMA_F32 (R247). Fused multiply-add of F32 lanes. -/
def execVfmaF32 (v : BitVec 6) (a : BitVec 6) (b : BitVec 6) (q : BitVec 3) (st : State) : Host.Outcome State Fault Refusal :=
  finish do
    let x ← readV st a.toNat
    let y ← readV st b.toNat
    let z ← readV st v.toNat
    let w := laneBits 5
    let r := mapLanes w (st.th.predReg q) z
      (fun i => fpFma 11 (fpMode st) (fpSat st) (lane x w i) (lane y w i) (lane z w i))
    let st' ← writeV st v.toNat r.1
    .ok (complete (raise st' r.2))

/-- VFSQRT_F32 (R247). Square root of F32 lanes. -/
def execVfsqrtF32 (v : BitVec 6) (a : BitVec 6) (q : BitVec 3) (st : State) : Host.Outcome State Fault Refusal :=
  vec1 5 (fpSqrt 11 (fpMode st) (fpSat st)) v a q st

/-- VCMP_EQ_F32 (R248). Quiet equality compare of F32 lanes. -/
def execVcmpEqF32 (p : BitVec 3) (a : BitVec 6) (b : BitVec 6) (q : BitVec 3) (st : State) : Host.Outcome State Fault Refusal :=
  vecCompare 5 (fpCompare 11 true eqNum) p a b q st

/-- VCMP_NE_F32 (R248). Ordered inequality of F32 lanes. -/
def execVcmpNeF32 (p : BitVec 3) (a : BitVec 6) (b : BitVec 6) (q : BitVec 3) (st : State) : Host.Outcome State Fault Refusal :=
  vecCompare 5 (fpCompare 11 true (fun x y => !eqNum x y)) p a b q st

/-- VCMP_LT_F32 (R248). Less-than of F32 lanes. -/
def execVcmpLtF32 (p : BitVec 3) (a : BitVec 6) (b : BitVec 6) (q : BitVec 3) (st : State) : Host.Outcome State Fault Refusal :=
  vecCompare 5 (fpCompare 11 false ltNum) p a b q st

/-- VCMP_LE_F32 (R248). Less-or-equal of F32 lanes. -/
def execVcmpLeF32 (p : BitVec 3) (a : BitVec 6) (b : BitVec 6) (q : BitVec 3) (st : State) : Host.Outcome State Fault Refusal :=
  vecCompare 5 (fpCompare 11 false leNum) p a b q st

/-- VCMP_UN_F32 (R248). Unordered test of F32 lanes. -/
def execVcmpUnF32 (p : BitVec 3) (a : BitVec 6) (b : BitVec 6) (q : BitVec 3) (st : State) : Host.Outcome State Fault Refusal :=
  vecCompare 5 (fun a b => (unordered 5 a b, (fpCompare 11 true eqNum a b).2)) p a b q st

/-- VRFADD_F32 (R250). Pairwise-tree sum of active F32 lanes. -/
def execVrfaddF32 (v : BitVec 6) (a : BitVec 6) (q : BitVec 3) (st : State) : Host.Outcome State Fault Refusal :=
  vecSum 5 v a q st

/-- QAND (R252). ANDs two predicates. -/
def execQand (d : BitVec 3) (a : BitVec 3) (b : BitVec 3) (st : State) : Host.Outcome State Fault Refusal :=
  setPredicate d (st.th.predReg a &&& st.th.predReg b) st

/-- QOR (R252). ORs two predicates. -/
def execQor (d : BitVec 3) (a : BitVec 3) (b : BitVec 3) (st : State) : Host.Outcome State Fault Refusal :=
  setPredicate d (st.th.predReg a ||| st.th.predReg b) st

/-- QXOR (R252). XORs two predicates. -/
def execQxor (d : BitVec 3) (a : BitVec 3) (b : BitVec 3) (st : State) : Host.Outcome State Fault Refusal :=
  setPredicate d (st.th.predReg a ^^^ st.th.predReg b) st

/-- QNOT (R252). Complements a predicate. -/
def execQnot (d : BitVec 3) (a : BitVec 3) (st : State) : Host.Outcome State Fault Refusal :=
  setPredicate d (~~~st.th.predReg a) st

/-- QPOP (R252). Counts one bits of a predicate into a scalar. -/
def execQpop (a : BitVec 3) (r : BitVec 5) (st : State) : Host.Outcome State Fault Refusal :=
  alu0 (BitVec.ofNat 32 (popCount (st.th.predReg a))) r st

/-- QFIRST (R252). Writes the index of a predicate's lowest one bit. -/
def execQfirst (a : BitVec 3) (r : BitVec 5) (st : State) : Host.Outcome State Fault Refusal :=
  alu0 (ctz32 (st.th.predReg a)) r st

/-- VCVT (R253). Converts lanes between equal-width types. -/
def execVcvt (v : BitVec 6) (a : BitVec 6) (r : BitVec 3) (q : BitVec 3) (dt : BitVec 3) (ty : BitVec 3) (st : State) : Host.Outcome State Fault Refusal :=
  vecConvert 1 1 v a r q dt ty st

/-- VPACK (R253). Narrows a register group into one register. -/
def execVpack (v : BitVec 6) (a : BitVec 6) (r : BitVec 3) (q : BitVec 3) (dt : BitVec 3) (ty : BitVec 3) (st : State) : Host.Outcome State Fault Refusal :=
  vecConvert (laneBits ty.toNat / laneBits dt.toNat) 1 v a r q dt ty st

/-- VUNPK (R253). Widens one register into a register group. -/
def execVunpk (v : BitVec 6) (a : BitVec 6) (r : BitVec 3) (q : BitVec 3) (dt : BitVec 3) (ty : BitVec 3) (st : State) : Host.Outcome State Fault Refusal :=
  vecConvert 1 (laneBits dt.toNat / laneBits ty.toNat) v a r q dt ty st


end Sys2Proof.Machine
end

