-- ==== Sys2Proof/Machine/VecMem.lean ====
section
/-!
DEFINITION. Sys2Proof/Machine/VecMem.lean: vector memory instructions and bank views (R254 to R260).
-/

namespace Sys2Proof.Machine

/-! ## Vector memory (R254 to R260) -/

/-- The byte offset of imm6. -/
def vmOffset (i : BitVec 6) : Int := i.toInt * 32

/-- The effective address of a block form (R11). -/
def blockAddress (st : State) (g : BitVec 3) (x : BitVec 5) (i : BitVec 6) : Eff DWord := do
  let idx ← readP st x
  let b ← readB st g st.th.ptrap
  .ok (effAddr b idx (vmOffset i))

/-- The active ones of the eight elements. -/
def activeOf (st : State) (q : BitVec 3) : List Nat := (List.range 8).filter (fun j => (st.th.predReg q).getLsbD j)

/-- The bits of some elements of w bits. -/
def elementBits (w : Nat) (l : List Nat) : Nat := (l.map (fun k => (2 ^ w - 1) * 2 ^ (w * k))).sum

/-- VLD (R255). -/
def blockLoad (v : BitVec 6) (ea : DWord) (x : BitVec 5) (q : BitVec 3) (st : State) : Eff State := do
  let act := activeOf st q
  destFree st [.vec v.toNat]
  if act.isEmpty then .ok (completeReading st [x])
  else
    aligned st ea 32
    let need : Line := BitVec.ofNat 512 (elementBits 32 act)
    let (st', l) ← atIssue true do
      let who := me st
      let (s, p) ← resolve st who .read ea
      let s := settleLoads s who.core p.line
      let near : Bool := match p with
        | .window _ => false
        | _ => true
      match forward s who ea p 32 need with
      | .bytes l true => if near then return (s, l) else .error (.wait s)
      | .nothing => readNear s who ea p 32
      | _ => .error (.wait s)
    let st' ← launch st' { landings := [{ reg := .vec v.toNat, value := l.setWidth 256, mask := need.setWidth 256 }] }
    .ok (completeReading st' [x])

/-- The eight active elements' mask as a record holds it (R383). -/
def maskOf (act : List Nat) : BitVec 8 := BitVec.ofNat 8 ((act.map (fun j => 2 ^ j)).sum)

/-- VST (R255). -/
def blockStore (v : BitVec 6) (ea : DWord) (x : BitVec 5) (q : BitVec 3) (st : State) : Eff State := do
  let act := activeOf st q
  let d ← readV st v.toNat
  if act.isEmpty then .ok (completeReading st [x])
  else
    aligned st ea 32
    let e := storeEntry st ea 32 d.toNat
    let st' ← buffer st { e with kind := .vec, mask := BitVec.ofNat 512 (elementBits 32 act), active := maskOf act }
    .ok (completeReading st' [x])

/-- The addresses of the eight elements of a strided form and of an indexed one (R254). -/
def strideAddress (b : DWord) (off : Int) (stride : Word) (j : Nat) : DWord :=
  b + BitVec.ofInt 64 off + BitVec.ofNat 64 j * stride.signExtend 64
def indexAddress (b : DWord) (off : Int) (index : VWord) (j : Nat) : DWord :=
  b + BitVec.ofNat 64 (lane index 32 j) + BitVec.ofInt 64 off

/-- The alignment of every active element. -/
def elementsAligned (st : State) (addr : Nat → DWord) : List Nat → Eff Unit
  | [] => .ok ()
  | j :: rest => do
    aligned st (addr j) 4
    elementsAligned st addr rest

/-- The loads of the active elements, lowest first (R256). -/
def elementLoads (addr : Nat → DWord) : List Nat → State → Mem (State × Nat)
  | [], s => .ok (s, 0)
  | j :: rest, s => do
    let (s, l) ← loadBytes s (me s) (addr j) 4 2
    let (s, v) ← elementLoads addr rest s
    return (s, v + l.toNat * 2 ^ (32 * j))

/-- VLDS and VGATH (R256). -/
def elementsLoad (v : BitVec 6) (addr : Nat → DWord) (q : BitVec 3) (read : List (BitVec 5)) (st : State) : Eff State := do
  let act := activeOf st q
  elementsAligned st addr act
  destFree st [.vec v.toNat]
  let (st', value) ← atIssue true (elementLoads addr act st)
  let landing : Landing := { reg := .vec v.toNat, value := BitVec.ofNat 256 value, mask := BitVec.ofNat 256 (elementBits 32 act) }
  let st' ← launch st' { landings := if act.isEmpty then [] else [landing] }
  .ok (completeReading st' read)

/-- The entries of the active elements from a given one on, in ascending order; where the buffer is full the slot waits
and goes on with the same element (R257). -/
def elementStores (d : VWord) (addr : Nat → DWord) : List Nat → State → Eff State
  | [], st => .ok st
  | j :: rest, st => do
    let st := st.setTh { st.th with wait := .placed j }
    let st ← buffer st { storeEntry st (addr j) 4 (lane d 32 j) with kind := .elem (BitVec.ofNat 8 j) }
    elementStores d addr rest st

/-- VSTS and VSCAT (R257). -/
def elementsStore (v : BitVec 6) (addr : Nat → DWord) (q : BitVec 3) (read : List (BitVec 5)) (st : State) : Eff State := do
  let act := activeOf st q
  let d ← readV st v.toNat
  elementsAligned st addr act
  let first := match st.th.wait with
    | .placed n => n
    | _ => 0
  let st ← elementStores d addr (act.filter (fun j => decide (first ≤ j))) st
  .ok (completeReading st read)

/-! ## Bank views (R258 to R260) -/

/-- What a decoded access moves: the storage format, the format of the view's lanes, the key, the group's bytes. -/
structure View where
  sf : Nat
  lf : Nat
  key : Nat
  off : Nat
  group : Nat
deriving DecidableEq, Repr

/-- Whether an address is decoded through a bank's view, by the conditions of R258. -/
def viewOf (st : State) (ea : DWord) : Option View :=
  match windowOff (st.viOf st.th.vi.toNat).lswin ea with
  | some off =>
    let c := st.core st.myCore
    let bank := off % 2 ^ 18 / 0x4000
    let fm := lookD c.bfmt bank 0
    let sf := fm.toNat % 64
    let vw := fm.toNat / 256 % 8
    if off < 2 ^ 27 ∧ off / 2 ^ 18 = st.myCore ∧ bank < 14 ∧ (lookD c.bstash bank 0).getLsbD 0 = false ∧ sf ≠ 0 ∧ vw ≠ 0 then
      let lf := viewFmt vw
      some { sf := sf, lf := lf, key := localKey st.myCore (off % 2 ^ 18), off := off % 0x4000,
             group := if isScaled sf then blockBytes sf else 256 / fmtBits lf * fmtBits sf / 8 }
    else none
  | none => none

/-- The registers and the elements of a group. -/
def View.regs (w : View) : Nat := if isScaled w.sf then 4 else 1
def View.elems (w : View) : Nat := if isScaled w.sf then 32 else 256 / fmtBits w.lf

/-- The checks of R258 on a group. -/
def viewChecks (st : State) (w : View) (v : BitVec 6) (ea : DWord) : Eff Unit := do
  require (w.off % w.group == 0) (misaligned st ea)
  require (decide (w.off + w.group ≤ 0x4000)) (illegalOperand st)
  require (w.regs == 1 || v.toNat % 4 == 0) (illegalOperand st)

/-- Element k of a group's bits in the lane format, with the flags of R259: a view equal to the format passes the code. -/
def View.decode (w : View) (bits k : Nat) : Nat × Raised :=
  let n := fmtBits w.sf
  let code := bits / 2 ^ (n * k) % 2 ^ n
  if w.sf = w.lf then (code, {})
  else
    let (x, fl) := if isScaled w.sf then decodeBlockElem w.sf bits k else decodeElem w.sf code
    let (y, fe) := encodeElem w.lf 0 false x
    (y, { rcode := fl.rcode, nv := x.isSig, nx := fe.nx })

/-- The bits of a group that some elements need: of a scaled block, the scale byte too. -/
def View.need (w : View) (act : List Nat) : Line :=
  BitVec.ofNat 512 (elementBits (fmtBits w.sf) act + (if isScaled w.sf then 255 * 2 ^ (32 * fmtBits w.sf) else 0))

/-- VLDB through a view (R259). -/
def viewLoad (w : View) (v : BitVec 6) (ea : DWord) (x : BitVec 5) (q : BitVec 3) (st : State) : Eff State := do
  viewChecks st w v ea
  destFree st ((List.range w.regs).map (fun i => .vec (v.toNat + i)))
  let act := (List.range w.elems).filter (fun k => (st.th.predReg q).getLsbD k)
  if act.isEmpty then .ok (completeReading st [x])
  else
    let (st', l) ← atIssue true do
      let who := me st
      let (s, p) ← resolve st who .read ea
      let s := settleLoads s who.core p.line
      match forward s who ea p w.group (w.need act) with
      | .bytes l true => return (s, l)
      | .nothing => do
        let (s, _) ← readThere s who ea p
        if s.bridge.poisoned.contains ((p.key + w.group - 1) / 64) then throw (.fault s .memUncorrectable ea false)
        return (s, memRead s.mem p.key w.group)
      | _ => .error (.wait s)
    let n := fmtBits w.lf
    let per := 256 / n
    let lanes := act.map (fun k => (k, w.decode l.toNat k))
    let landing (i : Nat) : Landing :=
      let mine := lanes.filter (fun a => a.1 / per == i)
      { reg := .vec (v.toNat + i), value := BitVec.ofNat 256 ((mine.map (fun a => a.2.1 * 2 ^ (n * (a.1 % per)))).sum),
        mask := BitVec.ofNat 256 (elementBits n (mine.map (fun a => a.1 % per))) }
    let p : Producer := { landings := (List.range w.regs).map landing, flags := (allFlags (lanes.map (·.2.2))).word }
    let st' ← launch st' p
    .ok (completeReading st' [x])

/-- VSTB through a view (R260). -/
def viewStore (w : View) (v : BitVec 6) (ea : DWord) (x : BitVec 5) (q : BitVec 3) (st : State) : Eff State := do
  viewChecks st w v ea
  let ds ← readGroup st v.toNat w.regs
  require (!isScaled w.sf || q == 0) (illegalOperand st)
  let act := (List.range w.elems).filter (fun k => (st.th.predReg q).getLsbD k)
  let n := fmtBits w.lf
  let per := 256 / n
  let value (k : Nat) : Num := (decodeElem w.lf (lane (ds.getD (k / per) 0) n (k % per))).1
  let (bits, fl, mask) :=
    if isScaled w.sf then
      let r := encodeBlock w.sf (fpMode st) (fpSat st) ((List.range 32).map value)
      (r.1, r.2, byteMask w.group)
    else
      let rs := act.map (fun k => (k, encodeElem w.sf (fpMode st) (fpSat st) (value k)))
      ((rs.map (fun r => r.2.1 * 2 ^ (fmtBits w.sf * r.1))).sum, allFlags (rs.map (·.2.2)),
        BitVec.ofNat 512 (elementBits (fmtBits w.sf) act))
  if act.isEmpty then .ok (completeReading st [x])
  else
    let e := storeEntry st ea w.group bits
    let st' ← buffer st { e with kind := .vec, mask := mask, active := maskOf (act.filter (· < 8)), fixedAt := some w.key }
    .ok (completeReading (raise st' fl) [x])

/-- VLD (R255). Loads an aligned 32-byte block. -/
def execVld (v : BitVec 6) (g : BitVec 3) (x : BitVec 5) (q : BitVec 3) (i : BitVec 6) (st : State) : Host.Outcome State Fault Refusal :=
  finishKeeping [x] do
    let ea ← blockAddress st g x i
    blockLoad v ea x q st

/-- VST (R255). Stores an aligned 32-byte block as one entry. -/
def execVst (v : BitVec 6) (g : BitVec 3) (x : BitVec 5) (q : BitVec 3) (i : BitVec 6) (st : State) : Host.Outcome State Fault Refusal :=
  finishKeeping [x] do
    let ea ← blockAddress st g x i
    blockStore v ea x q st

/-- VLDS (R256). Strided load of 8 words. -/
def execVlds (v : BitVec 6) (g : BitVec 3) (x : BitVec 5) (q : BitVec 3) (i : BitVec 6) (st : State) : Host.Outcome State Fault Refusal :=
  finishKeeping [x] do
    let stride ← readP st x
    let b ← readB st g st.th.ptrap
    elementsLoad v (strideAddress b (vmOffset i) stride) q [x] st

/-- VSTS (R257). Strided store of 8 words, one entry each. -/
def execVsts (v : BitVec 6) (g : BitVec 3) (x : BitVec 5) (q : BitVec 3) (i : BitVec 6) (st : State) : Host.Outcome State Fault Refusal :=
  finishKeeping [x] do
    let stride ← readP st x
    let b ← readB st g st.th.ptrap
    elementsStore v (strideAddress b (vmOffset i) stride) q [x] st

/-- VGATH (R256). Gathers 8 words by vector index. -/
def execVgath (v : BitVec 6) (g : BitVec 3) (x : BitVec 5) (q : BitVec 3) (i : BitVec 6) (st : State) : Host.Outcome State Fault Refusal :=
  finish do
    let index ← readV st x.toNat
    let b ← readB st g st.th.ptrap
    elementsLoad v (indexAddress b (vmOffset i) index) q [] st

/-- VSCAT (R257). Scatters 8 words by vector index. -/
def execVscat (v : BitVec 6) (g : BitVec 3) (x : BitVec 5) (q : BitVec 3) (i : BitVec 6) (st : State) : Host.Outcome State Fault Refusal :=
  finish do
    let index ← readV st x.toNat
    let b ← readB st g st.th.ptrap
    elementsStore v (indexAddress b (vmOffset i) index) q [] st

/-- VLDB (R259). Loads a group decoded through the bank's register view. -/
def execVldb (v : BitVec 6) (g : BitVec 3) (x : BitVec 5) (q : BitVec 3) (i : BitVec 6) (st : State) : Host.Outcome State Fault Refusal :=
  finishKeeping [x] do
    let ea ← blockAddress st g x i
    match viewOf st ea with
    | some w => viewLoad w v ea x q st
    | none => blockLoad v ea x q st

/-- VSTB (R260). Stores lanes encoded into the bank's storage format. -/
def execVstb (v : BitVec 6) (g : BitVec 3) (x : BitVec 5) (q : BitVec 3) (i : BitVec 6) (st : State) : Host.Outcome State Fault Refusal :=
  finishKeeping [x] do
    let ea ← blockAddress st g x i
    match viewOf st ea with
    | some w => viewStore w v ea x q st
    | none => blockStore v ea x q st


end Sys2Proof.Machine
end

