-- ==== Sys2Proof/Machine/Dispatch.lean ====
section
/-!
DEFINITION. Sys2Proof/Machine/Dispatch.lean: one arm per instruction and event, each a call of its meaning.
-/

namespace Sys2Proof.Machine

/-- The meaning of an instruction, for the thread `cur`, or of an event. -/
def exec (i : Instr) (s : State) : Host.Outcome State Fault Refusal :=
  match i with
  | .illegalInstr w => Sys2Proof.Machine.execIllegalInstr w s
  | .nop h => Sys2Proof.Machine.execNop h s
  | .add d a b z t => Sys2Proof.Machine.execAdd d a b z t s
  | .sub d a b z t => Sys2Proof.Machine.execSub d a b z t s
  | .and d a b z t => Sys2Proof.Machine.execAnd d a b z t s
  | .or d a b z t => Sys2Proof.Machine.execOr d a b z t s
  | .xor d a b z t => Sys2Proof.Machine.execXor d a b z t s
  | .andn d a b z t => Sys2Proof.Machine.execAndn d a b z t s
  | .sll d a b z t => Sys2Proof.Machine.execSll d a b z t s
  | .srl d a b z t => Sys2Proof.Machine.execSrl d a b z t s
  | .sra d a b z t => Sys2Proof.Machine.execSra d a b z t s
  | .ror d a b z t => Sys2Proof.Machine.execRor d a b z t s
  | .slli d a n z => Sys2Proof.Machine.execSlli d a n z s
  | .srli d a n z => Sys2Proof.Machine.execSrli d a n z s
  | .srai d a n z => Sys2Proof.Machine.execSrai d a n z s
  | .mul d a b z t => Sys2Proof.Machine.execMul d a b z t s
  | .mulh d a b z t => Sys2Proof.Machine.execMulh d a b z t s
  | .mulhu d a b z t => Sys2Proof.Machine.execMulhu d a b z t s
  | .div d a b z t => Sys2Proof.Machine.execDiv d a b z t s
  | .divu d a b z t => Sys2Proof.Machine.execDivu d a b z t s
  | .rem d a b z t => Sys2Proof.Machine.execRem d a b z t s
  | .remu d a b z t => Sys2Proof.Machine.execRemu d a b z t s
  | .min d a b z t => Sys2Proof.Machine.execMin d a b z t s
  | .max d a b z t => Sys2Proof.Machine.execMax d a b z t s
  | .minu d a b z t => Sys2Proof.Machine.execMinu d a b z t s
  | .maxu d a b z t => Sys2Proof.Machine.execMaxu d a b z t s
  | .slt d a b z t => Sys2Proof.Machine.execSlt d a b z t s
  | .sltu d a b z t => Sys2Proof.Machine.execSltu d a b z t s
  | .seq d a b z t => Sys2Proof.Machine.execSeq d a b z t s
  | .cmov d a b z t => Sys2Proof.Machine.execCmov d a b z t s
  | .clz d a z => Sys2Proof.Machine.execClz d a z s
  | .ctz d a z => Sys2Proof.Machine.execCtz d a z s
  | .popc d a z => Sys2Proof.Machine.execPopc d a z s
  | .brev d a z => Sys2Proof.Machine.execBrev d a z s
  | .bswap d a z => Sys2Proof.Machine.execBswap d a z s
  | .extu d a b z t => Sys2Proof.Machine.execExtu d a b z t s
  | .exts d a b z t => Sys2Proof.Machine.execExts d a b z t s
  | .ins d a b z t => Sys2Proof.Machine.execIns d a b z t s
  | .addi d a z j => Sys2Proof.Machine.execAddi d a z j s
  | .andi d a z j => Sys2Proof.Machine.execAndi d a z j s
  | .ori d a z j => Sys2Proof.Machine.execOri d a z j s
  | .xori d a z j => Sys2Proof.Machine.execXori d a z j s
  | .slti d a z j => Sys2Proof.Machine.execSlti d a z j s
  | .sltiu d a z j => Sys2Proof.Machine.execSltiu d a z j s
  | .lih d j => Sys2Proof.Machine.execLih d j s
  | .addpc d j => Sys2Proof.Machine.execAddpc d j s
  | .addc d a c w => Sys2Proof.Machine.execAddc d a c w s
  | .subc d a c w => Sys2Proof.Machine.execSubc d a c w s
  | .andc d a c w => Sys2Proof.Machine.execAndc d a c w s
  | .orc d a c w => Sys2Proof.Machine.execOrc d a c w s
  | .xorc d a c w => Sys2Proof.Machine.execXorc d a c w s
  | .mulc d a c w => Sys2Proof.Machine.execMulc d a c w s
  | .minc d a c w => Sys2Proof.Machine.execMinc d a c w s
  | .maxc d a c w => Sys2Proof.Machine.execMaxc d a c w s
  | .sltc d a c w => Sys2Proof.Machine.execSltc d a c w s
  | .bset d a b z t => Sys2Proof.Machine.execBset d a b z t s
  | .bgetLo d a z => Sys2Proof.Machine.execBgetLo d a z s
  | .bgetHi d a z => Sys2Proof.Machine.execBgetHi d a z s
  | .badd d a b z t => Sys2Proof.Machine.execBadd d a b z t s
  | .bmov d a z => Sys2Proof.Machine.execBmov d a z s
  | .baddi d a z j => Sys2Proof.Machine.execBaddi d a z j s
  | .blea d j => Sys2Proof.Machine.execBlea d j s
  | .ldb d x g z j => Sys2Proof.Machine.execLdb d x g z j s
  | .stb d x g z j => Sys2Proof.Machine.execStb d x g z j s
  | .beq a b j => Sys2Proof.Machine.execBeq a b j s
  | .bne a b j => Sys2Proof.Machine.execBne a b j s
  | .blt a b j => Sys2Proof.Machine.execBlt a b j s
  | .bge a b j => Sys2Proof.Machine.execBge a b j s
  | .bltu a b j => Sys2Proof.Machine.execBltu a b j s
  | .bgeu a b j => Sys2Proof.Machine.execBgeu a b j s
  | .bbs a n j => Sys2Proof.Machine.execBbs a n j s
  | .bbc a n j => Sys2Proof.Machine.execBbc a n j s
  | .loop a j => Sys2Proof.Machine.execLoop a j s
  | .j j => Sys2Proof.Machine.execJ j s
  | .call j => Sys2Proof.Machine.execCall j s
  | .callb b t => Sys2Proof.Machine.execCallb b t s
  | .jb b t => Sys2Proof.Machine.execJb b t s
  | .ret => Sys2Proof.Machine.execRet s
  | .callat d a b z t => Sys2Proof.Machine.execCallat d a b z t s
  | .windowSpill t => Sys2Proof.Machine.execWindowSpill t s
  | .windowFill t => Sys2Proof.Machine.execWindowFill t s
  | .fadd d a b z t => Sys2Proof.Machine.execFadd d a b z t s
  | .fsub d a b z t => Sys2Proof.Machine.execFsub d a b z t s
  | .fmul d a b z t => Sys2Proof.Machine.execFmul d a b z t s
  | .fma d a b z t => Sys2Proof.Machine.execFma d a b z t s
  | .fdiv d a b z t => Sys2Proof.Machine.execFdiv d a b z t s
  | .fsqrt d a z => Sys2Proof.Machine.execFsqrt d a z s
  | .fmin d a b z t => Sys2Proof.Machine.execFmin d a b z t s
  | .fmax d a b z t => Sys2Proof.Machine.execFmax d a b z t s
  | .feq d a b z t => Sys2Proof.Machine.execFeq d a b z t s
  | .flt d a b z t => Sys2Proof.Machine.execFlt d a b z t s
  | .fle d a b z t => Sys2Proof.Machine.execFle d a b z t s
  | .fclass d a z => Sys2Proof.Machine.execFclass d a z s
  | .fcvti d a z q r => Sys2Proof.Machine.execFcvti d a z q r s
  | .fcvtf d a z r => Sys2Proof.Machine.execFcvtf d a z r s
  | .lb d x g z j => Sys2Proof.Machine.execLb d x g z j s
  | .lbu d x g z j => Sys2Proof.Machine.execLbu d x g z j s
  | .lh d x g z j => Sys2Proof.Machine.execLh d x g z j s
  | .lhu d x g z j => Sys2Proof.Machine.execLhu d x g z j s
  | .lw d x g z j => Sys2Proof.Machine.execLw d x g z j s
  | .ldp d x g z j => Sys2Proof.Machine.execLdp d x g z j s
  | .sb d x g z j => Sys2Proof.Machine.execSb d x g z j s
  | .sh d x g z j => Sys2Proof.Machine.execSh d x g z j s
  | .sw d x g z j => Sys2Proof.Machine.execSw d x g z j s
  | .stp d x g z j => Sys2Proof.Machine.execStp d x g z j s
  | .lda d x g z c r y f => Sys2Proof.Machine.execLda d x g z c r y f s
  | .stl d x g z c r y f => Sys2Proof.Machine.execStl d x g z c r y f s
  | .amoadd d x g z c r p => Sys2Proof.Machine.execAmoadd d x g z c r p s
  | .amoand d x g z c r p => Sys2Proof.Machine.execAmoand d x g z c r p s
  | .amoor d x g z c r p => Sys2Proof.Machine.execAmoor d x g z c r p s
  | .amoxor d x g z c r p => Sys2Proof.Machine.execAmoxor d x g z c r p s
  | .amomin d x g z c r p => Sys2Proof.Machine.execAmomin d x g z c r p s
  | .amomax d x g z c r p => Sys2Proof.Machine.execAmomax d x g z c r p s
  | .amominu d x g z c r p => Sys2Proof.Machine.execAmominu d x g z c r p s
  | .amomaxu d x g z c r p => Sys2Proof.Machine.execAmomaxu d x g z c r p s
  | .amoswap d x g z c r p => Sys2Proof.Machine.execAmoswap d x g z c r p s
  | .amocas d x g z c r p => Sys2Proof.Machine.execAmocas d x g z c r p s
  | .amofadd d x g z c r => Sys2Proof.Machine.execAmofadd d x g z c r s
  | .cswap d x g z c r => Sys2Proof.Machine.execCswap d x g z c r s
  | .redadd d x g z c r p => Sys2Proof.Machine.execRedadd d x g z c r p s
  | .redand d x g z c r p => Sys2Proof.Machine.execRedand d x g z c r p s
  | .redor d x g z c r p => Sys2Proof.Machine.execRedor d x g z c r p s
  | .redxor d x g z c r p => Sys2Proof.Machine.execRedxor d x g z c r p s
  | .redmin d x g z c r p => Sys2Proof.Machine.execRedmin d x g z c r p s
  | .redmax d x g z c r p => Sys2Proof.Machine.execRedmax d x g z c r p s
  | .redfadd d x g z c r => Sys2Proof.Machine.execRedfadd d x g z c r s
  | .ldfe d x g z c r f => Sys2Proof.Machine.execLdfe d x g z c r f s
  | .stfe d x g z c r f => Sys2Proof.Machine.execStfe d x g z c r f s
  | .ldff d x g z c r f => Sys2Proof.Machine.execLdff d x g z c r f s
  | .stff d x g z c r f => Sys2Proof.Machine.execStff d x g z c r f s
  | .feget d x g z c r f => Sys2Proof.Machine.execFeget d x g z c r f s
  | .feRetry t => Sys2Proof.Machine.execFeRetry t s
  | .feWake place key => Sys2Proof.Machine.execFeWake place key s
  | .lrw d x g z c r f => Sys2Proof.Machine.execLrw d x g z c r f s
  | .sch d x g z c r f => Sys2Proof.Machine.execSch d x g z c r f s
  | .rsvx x g z c r f => Sys2Proof.Machine.execRsvx x g z c r f s
  | .reservationExpiry t => Sys2Proof.Machine.execReservationExpiry t s
  | .waita d x g z c r f => Sys2Proof.Machine.execWaita d x g z c r f s
  | .wakea d x g z c r f => Sys2Proof.Machine.execWakea d x g z c r f s
  | .waitaDeadline t => Sys2Proof.Machine.execWaitaDeadline t s
  | .waitaPoll t => Sys2Proof.Machine.execWaitaPoll t s
  | .cflush x g z j => Sys2Proof.Machine.execCflush x g z j s
  | .cinvl x g z j => Sys2Proof.Machine.execCinvl x g z j s
  | .cpref x g z j => Sys2Proof.Machine.execCpref x g z j s
  | .czero x g z j => Sys2Proof.Machine.execCzero x g z j s
  | .fence k c => Sys2Proof.Machine.execFence k c s
  | .sdrain => Sys2Proof.Machine.execSdrain s
  | .pclr c j => Sys2Proof.Machine.execPclr c j s
  | .pset c j => Sys2Proof.Machine.execPset c j s
  | .ptest d c j => Sys2Proof.Machine.execPtest d c j s
  | .pwait c j => Sys2Proof.Machine.execPwait c j s
  | .producerArrival t k => Sys2Proof.Machine.execProducerArrival t k s
  | .storeDrain core => Sys2Proof.Machine.execStoreDrain core s
  | .vaddI8 v a b q => Sys2Proof.Machine.execVaddI8 v a b q s
  | .vaddI16 v a b q => Sys2Proof.Machine.execVaddI16 v a b q s
  | .vaddI32 v a b q => Sys2Proof.Machine.execVaddI32 v a b q s
  | .vsubI8 v a b q => Sys2Proof.Machine.execVsubI8 v a b q s
  | .vsubI16 v a b q => Sys2Proof.Machine.execVsubI16 v a b q s
  | .vsubI32 v a b q => Sys2Proof.Machine.execVsubI32 v a b q s
  | .vmulI8 v a b q => Sys2Proof.Machine.execVmulI8 v a b q s
  | .vmulI16 v a b q => Sys2Proof.Machine.execVmulI16 v a b q s
  | .vmulI32 v a b q => Sys2Proof.Machine.execVmulI32 v a b q s
  | .vminI8 v a b q => Sys2Proof.Machine.execVminI8 v a b q s
  | .vminI16 v a b q => Sys2Proof.Machine.execVminI16 v a b q s
  | .vminI32 v a b q => Sys2Proof.Machine.execVminI32 v a b q s
  | .vmaxI8 v a b q => Sys2Proof.Machine.execVmaxI8 v a b q s
  | .vmaxI16 v a b q => Sys2Proof.Machine.execVmaxI16 v a b q s
  | .vmaxI32 v a b q => Sys2Proof.Machine.execVmaxI32 v a b q s
  | .vandI8 v a b q => Sys2Proof.Machine.execVandI8 v a b q s
  | .vandI16 v a b q => Sys2Proof.Machine.execVandI16 v a b q s
  | .vandI32 v a b q => Sys2Proof.Machine.execVandI32 v a b q s
  | .vorI8 v a b q => Sys2Proof.Machine.execVorI8 v a b q s
  | .vorI16 v a b q => Sys2Proof.Machine.execVorI16 v a b q s
  | .vorI32 v a b q => Sys2Proof.Machine.execVorI32 v a b q s
  | .vxorI8 v a b q => Sys2Proof.Machine.execVxorI8 v a b q s
  | .vxorI16 v a b q => Sys2Proof.Machine.execVxorI16 v a b q s
  | .vxorI32 v a b q => Sys2Proof.Machine.execVxorI32 v a b q s
  | .vsllI8 v a b q => Sys2Proof.Machine.execVsllI8 v a b q s
  | .vsllI16 v a b q => Sys2Proof.Machine.execVsllI16 v a b q s
  | .vsllI32 v a b q => Sys2Proof.Machine.execVsllI32 v a b q s
  | .vsrlI8 v a b q => Sys2Proof.Machine.execVsrlI8 v a b q s
  | .vsrlI16 v a b q => Sys2Proof.Machine.execVsrlI16 v a b q s
  | .vsrlI32 v a b q => Sys2Proof.Machine.execVsrlI32 v a b q s
  | .vsraI8 v a b q => Sys2Proof.Machine.execVsraI8 v a b q s
  | .vsraI16 v a b q => Sys2Proof.Machine.execVsraI16 v a b q s
  | .vsraI32 v a b q => Sys2Proof.Machine.execVsraI32 v a b q s
  | .vabsI8 v a q => Sys2Proof.Machine.execVabsI8 v a q s
  | .vabsI16 v a q => Sys2Proof.Machine.execVabsI16 v a q s
  | .vabsI32 v a q => Sys2Proof.Machine.execVabsI32 v a q s
  | .vnegI8 v a q => Sys2Proof.Machine.execVnegI8 v a q s
  | .vnegI16 v a q => Sys2Proof.Machine.execVnegI16 v a q s
  | .vnegI32 v a q => Sys2Proof.Machine.execVnegI32 v a q s
  | .vsatI8 v a n q => Sys2Proof.Machine.execVsatI8 v a n q s
  | .vsatI16 v a n q => Sys2Proof.Machine.execVsatI16 v a n q s
  | .vsatI32 v a n q => Sys2Proof.Machine.execVsatI32 v a n q s
  | .vmovI8 v a q => Sys2Proof.Machine.execVmovI8 v a q s
  | .vmovI16 v a q => Sys2Proof.Machine.execVmovI16 v a q s
  | .vmovI32 v a q => Sys2Proof.Machine.execVmovI32 v a q s
  | .vpermI8 v a b q => Sys2Proof.Machine.execVpermI8 v a b q s
  | .vpermI16 v a b q => Sys2Proof.Machine.execVpermI16 v a b q s
  | .vpermI32 v a b q => Sys2Proof.Machine.execVpermI32 v a b q s
  | .vcmpEqI8 p a b q => Sys2Proof.Machine.execVcmpEqI8 p a b q s
  | .vcmpEqI16 p a b q => Sys2Proof.Machine.execVcmpEqI16 p a b q s
  | .vcmpEqI32 p a b q => Sys2Proof.Machine.execVcmpEqI32 p a b q s
  | .vcmpNeI8 p a b q => Sys2Proof.Machine.execVcmpNeI8 p a b q s
  | .vcmpNeI16 p a b q => Sys2Proof.Machine.execVcmpNeI16 p a b q s
  | .vcmpNeI32 p a b q => Sys2Proof.Machine.execVcmpNeI32 p a b q s
  | .vcmpLtI8 p a b q => Sys2Proof.Machine.execVcmpLtI8 p a b q s
  | .vcmpLtI16 p a b q => Sys2Proof.Machine.execVcmpLtI16 p a b q s
  | .vcmpLtI32 p a b q => Sys2Proof.Machine.execVcmpLtI32 p a b q s
  | .vcmpLeI8 p a b q => Sys2Proof.Machine.execVcmpLeI8 p a b q s
  | .vcmpLeI16 p a b q => Sys2Proof.Machine.execVcmpLeI16 p a b q s
  | .vcmpLeI32 p a b q => Sys2Proof.Machine.execVcmpLeI32 p a b q s
  | .vcmpLtuI8 p a b q => Sys2Proof.Machine.execVcmpLtuI8 p a b q s
  | .vcmpLtuI16 p a b q => Sys2Proof.Machine.execVcmpLtuI16 p a b q s
  | .vcmpLtuI32 p a b q => Sys2Proof.Machine.execVcmpLtuI32 p a b q s
  | .vcmpLeuI8 p a b q => Sys2Proof.Machine.execVcmpLeuI8 p a b q s
  | .vcmpLeuI16 p a b q => Sys2Proof.Machine.execVcmpLeuI16 p a b q s
  | .vcmpLeuI32 p a b q => Sys2Proof.Machine.execVcmpLeuI32 p a b q s
  | .vraddI8 v a q => Sys2Proof.Machine.execVraddI8 v a q s
  | .vraddI16 v a q => Sys2Proof.Machine.execVraddI16 v a q s
  | .vraddI32 v a q => Sys2Proof.Machine.execVraddI32 v a q s
  | .vrmaxI8 v a q => Sys2Proof.Machine.execVrmaxI8 v a q s
  | .vrmaxI16 v a q => Sys2Proof.Machine.execVrmaxI16 v a q s
  | .vrmaxI32 v a q => Sys2Proof.Machine.execVrmaxI32 v a q s
  | .vrminI8 v a q => Sys2Proof.Machine.execVrminI8 v a q s
  | .vrminI16 v a q => Sys2Proof.Machine.execVrminI16 v a q s
  | .vrminI32 v a q => Sys2Proof.Machine.execVrminI32 v a q s
  | .vfaddF16 v a b q => Sys2Proof.Machine.execVfaddF16 v a b q s
  | .vfaddBf16 v a b q => Sys2Proof.Machine.execVfaddBf16 v a b q s
  | .vfaddF32 v a b q => Sys2Proof.Machine.execVfaddF32 v a b q s
  | .vfsubF16 v a b q => Sys2Proof.Machine.execVfsubF16 v a b q s
  | .vfsubBf16 v a b q => Sys2Proof.Machine.execVfsubBf16 v a b q s
  | .vfsubF32 v a b q => Sys2Proof.Machine.execVfsubF32 v a b q s
  | .vfmulF16 v a b q => Sys2Proof.Machine.execVfmulF16 v a b q s
  | .vfmulBf16 v a b q => Sys2Proof.Machine.execVfmulBf16 v a b q s
  | .vfmulF32 v a b q => Sys2Proof.Machine.execVfmulF32 v a b q s
  | .vfmaF16 v a b q => Sys2Proof.Machine.execVfmaF16 v a b q s
  | .vfmaBf16 v a b q => Sys2Proof.Machine.execVfmaBf16 v a b q s
  | .vfmaF32 v a b q => Sys2Proof.Machine.execVfmaF32 v a b q s
  | .vfminF16 v a b q => Sys2Proof.Machine.execVfminF16 v a b q s
  | .vfminBf16 v a b q => Sys2Proof.Machine.execVfminBf16 v a b q s
  | .vfminF32 v a b q => Sys2Proof.Machine.execVfminF32 v a b q s
  | .vfmaxF16 v a b q => Sys2Proof.Machine.execVfmaxF16 v a b q s
  | .vfmaxBf16 v a b q => Sys2Proof.Machine.execVfmaxBf16 v a b q s
  | .vfmaxF32 v a b q => Sys2Proof.Machine.execVfmaxF32 v a b q s
  | .vfdivF16 v a b q => Sys2Proof.Machine.execVfdivF16 v a b q s
  | .vfdivBf16 v a b q => Sys2Proof.Machine.execVfdivBf16 v a b q s
  | .vfdivF32 v a b q => Sys2Proof.Machine.execVfdivF32 v a b q s
  | .vfsqrtF16 v a q => Sys2Proof.Machine.execVfsqrtF16 v a q s
  | .vfsqrtBf16 v a q => Sys2Proof.Machine.execVfsqrtBf16 v a q s
  | .vfsqrtF32 v a q => Sys2Proof.Machine.execVfsqrtF32 v a q s
  | .vcmpEqF16 p a b q => Sys2Proof.Machine.execVcmpEqF16 p a b q s
  | .vcmpEqBf16 p a b q => Sys2Proof.Machine.execVcmpEqBf16 p a b q s
  | .vcmpEqF32 p a b q => Sys2Proof.Machine.execVcmpEqF32 p a b q s
  | .vcmpNeF16 p a b q => Sys2Proof.Machine.execVcmpNeF16 p a b q s
  | .vcmpNeBf16 p a b q => Sys2Proof.Machine.execVcmpNeBf16 p a b q s
  | .vcmpNeF32 p a b q => Sys2Proof.Machine.execVcmpNeF32 p a b q s
  | .vcmpLtF16 p a b q => Sys2Proof.Machine.execVcmpLtF16 p a b q s
  | .vcmpLtBf16 p a b q => Sys2Proof.Machine.execVcmpLtBf16 p a b q s
  | .vcmpLtF32 p a b q => Sys2Proof.Machine.execVcmpLtF32 p a b q s
  | .vcmpLeF16 p a b q => Sys2Proof.Machine.execVcmpLeF16 p a b q s
  | .vcmpLeBf16 p a b q => Sys2Proof.Machine.execVcmpLeBf16 p a b q s
  | .vcmpLeF32 p a b q => Sys2Proof.Machine.execVcmpLeF32 p a b q s
  | .vcmpUnF16 p a b q => Sys2Proof.Machine.execVcmpUnF16 p a b q s
  | .vcmpUnBf16 p a b q => Sys2Proof.Machine.execVcmpUnBf16 p a b q s
  | .vcmpUnF32 p a b q => Sys2Proof.Machine.execVcmpUnF32 p a b q s
  | .vrfaddF16 v a q => Sys2Proof.Machine.execVrfaddF16 v a q s
  | .vrfaddBf16 v a q => Sys2Proof.Machine.execVrfaddBf16 v a q s
  | .vrfaddF32 v a q => Sys2Proof.Machine.execVrfaddF32 v a q s
  | .vbcastI8 v r q => Sys2Proof.Machine.execVbcastI8 v r q s
  | .vbcastI16 v r q => Sys2Proof.Machine.execVbcastI16 v r q s
  | .vbcastI32 v r q => Sys2Proof.Machine.execVbcastI32 v r q s
  | .vextI8 n a r => Sys2Proof.Machine.execVextI8 n a r s
  | .vextI16 n a r => Sys2Proof.Machine.execVextI16 n a r s
  | .vextI32 n a r => Sys2Proof.Machine.execVextI32 n a r s
  | .vinsI8 v n r => Sys2Proof.Machine.execVinsI8 v n r s
  | .vinsI16 v n r => Sys2Proof.Machine.execVinsI16 v n r s
  | .vinsI32 v n r => Sys2Proof.Machine.execVinsI32 v n r s
  | .qand d a b => Sys2Proof.Machine.execQand d a b s
  | .qor d a b => Sys2Proof.Machine.execQor d a b s
  | .qxor d a b => Sys2Proof.Machine.execQxor d a b s
  | .qnot d a => Sys2Proof.Machine.execQnot d a s
  | .qpop a r => Sys2Proof.Machine.execQpop a r s
  | .qfirst a r => Sys2Proof.Machine.execQfirst a r s
  | .vcvt v a r q dt ty => Sys2Proof.Machine.execVcvt v a r q dt ty s
  | .vpack v a r q dt ty => Sys2Proof.Machine.execVpack v a r q dt ty s
  | .vunpk v a r q dt ty => Sys2Proof.Machine.execVunpk v a r q dt ty s
  | .vld v g x q j => Sys2Proof.Machine.execVld v g x q j s
  | .vst v g x q j => Sys2Proof.Machine.execVst v g x q j s
  | .vlds v g x q j => Sys2Proof.Machine.execVlds v g x q j s
  | .vsts v g x q j => Sys2Proof.Machine.execVsts v g x q j s
  | .vgath v g x q j => Sys2Proof.Machine.execVgath v g x q j s
  | .vscat v g x q j => Sys2Proof.Machine.execVscat v g x q j s
  | .vldb v g x q j => Sys2Proof.Machine.execVldb v g x q j s
  | .vstb v g x q j => Sys2Proof.Machine.execVstb v g x q j s
  | .lease e a b => Sys2Proof.Machine.execLease e a b s
  | .lrenew e a => Sys2Proof.Machine.execLrenew e a s
  | .lfree e => Sys2Proof.Machine.execLfree e s
  | .lstat e d c => Sys2Proof.Machine.execLstat e d c s
  | .lwait e d a => Sys2Proof.Machine.execLwait e d a s
  | .lwaitTimeout t e => Sys2Proof.Machine.execLwaitTimeout t e s
  | .ecfg e a k => Sys2Proof.Machine.execEcfg e a k s
  | .allReduce e a => Sys2Proof.Machine.execAllReduce e a s
  | .eget e d k => Sys2Proof.Machine.execEget e d k s
  | .ewait e d => Sys2Proof.Machine.execEwait e d s
  | .mlds e a => Sys2Proof.Machine.execMlds e a s
  | .mswap e => Sys2Proof.Machine.execMswap e s
  | .mstream e a => Sys2Proof.Machine.execMstream e a s
  | .mtile e => Sys2Proof.Machine.execMtile e s
  | .mrot e => Sys2Proof.Machine.execMrot e s
  | .mdrain e a b => Sys2Proof.Machine.execMdrain e a b s
  | .mzero e a => Sys2Proof.Machine.execMzero e a s
  | .mresume e => Sys2Proof.Machine.execMresume e s
  | .rlds e a => Sys2Proof.Machine.execRlds e a s
  | .rtile e a => Sys2Proof.Machine.execRtile e a s
  | .rconv e => Sys2Proof.Machine.execRconv e s
  | .gconv e => Sys2Proof.Machine.execGconv e s
  | .ggath e => Sys2Proof.Machine.execGgath e s
  | .gcopy e => Sys2Proof.Machine.execGcopy e s
  | .hdigest e => Sys2Proof.Machine.execHdigest e s
  | .hingest e => Sys2Proof.Machine.execHingest e s
  | .leaseGrant queue => Sys2Proof.Machine.execLeaseGrant queue s
  | .engineWakeDone engine => Sys2Proof.Machine.execEngineWakeDone engine s
  | .leaseTermExpiry t e => Sys2Proof.Machine.execLeaseTermExpiry t e s
  | .forcedEviction engine => Sys2Proof.Machine.execForcedEviction engine s
  | .engineStep engine => Sys2Proof.Machine.execEngineStep engine s
  | .enginePowerOff engine => Sys2Proof.Machine.execEnginePowerOff engine s
  | .copy a z bd bs => Sys2Proof.Machine.execCopy a z bd bs s
  | .copyNb r a z bd bs => Sys2Proof.Machine.execCopyNb r a z bd bs s
  | .tcopy a z => Sys2Proof.Machine.execTcopy a z s
  | .cseal d => Sys2Proof.Machine.execCseal d s
  | .cwait n => Sys2Proof.Machine.execCwait n s
  | .cpoll d a z => Sys2Proof.Machine.execCpoll d a z s
  | .copyDispatch core => Sys2Proof.Machine.execCopyDispatch core s
  | .copyRequestEnd cl idx => Sys2Proof.Machine.execCopyRequestEnd cl idx s
  | .batchFinish t => Sys2Proof.Machine.execBatchFinish t s
  | .clkl a r => Sys2Proof.Machine.execClkl a r s
  | .clkn a r => Sys2Proof.Machine.execClkn a r s
  | .cnld v r => Sys2Proof.Machine.execCnld v r s
  | .cref r => Sys2Proof.Machine.execCref r s
  | .crel r => Sys2Proof.Machine.execCrel r s
  | .cstat r => Sys2Proof.Machine.execCstat r s
  | .reclaimStep => Sys2Proof.Machine.execReclaimStep s
  | .send a v z => Sys2Proof.Machine.execSend a v z s
  | .sendRetry t => Sys2Proof.Machine.execSendRetry t s
  | .sendnb d a v z => Sys2Proof.Machine.execSendnb d a v z s
  | .recv v a => Sys2Proof.Machine.execRecv v a s
  | .recvp v a => Sys2Proof.Machine.execRecvp v a s
  | .messageArrival idx => Sys2Proof.Machine.execMessageArrival idx s
  | .reply a z => Sys2Proof.Machine.execReply a z s
  | .wakest a b z t => Sys2Proof.Machine.execWakest a b z t s
  | .texit => Sys2Proof.Machine.execTexit s
  | .callatArrival idx => Sys2Proof.Machine.execCallatArrival idx s
  | .taskQueueStart core => Sys2Proof.Machine.execTaskQueueStart core s
  | .arrive a b z t c o => Sys2Proof.Machine.execArrive a b z t c o s
  | .expect a b z t => Sys2Proof.Machine.execExpect a b z t s
  | .bwait d a b z t c => Sys2Proof.Machine.execBwait d a b z t c s
  | .btest d a z => Sys2Proof.Machine.execBtest d a z s
  | .deferredArrival t => Sys2Proof.Machine.execDeferredArrival t s
  | .barrierCycle cl n => Sys2Proof.Machine.execBarrierCycle cl n s
  | .svc n => Sys2Proof.Machine.execSvc n s
  | .mcall n => Sys2Proof.Machine.execMcall n s
  | .xret => Sys2Proof.Machine.execXret s
  | .upret => Sys2Proof.Machine.execUpret s
  | .plret => Sys2Proof.Machine.execPlret s
  | .sysrd d n => Sys2Proof.Machine.execSysrd d n s
  | .syswr a n => Sys2Proof.Machine.execSyswr a n s
  | .sysset d a n => Sys2Proof.Machine.execSysset d a n s
  | .sysclr d a n => Sys2Proof.Machine.execSysclr d a n s
  | .halt => Sys2Proof.Machine.execHalt s
  | .tlbinvPg a g => Sys2Proof.Machine.execTlbinvPg a g s
  | .tlbinvAs a => Sys2Proof.Machine.execTlbinvAs a s
  | .tlbinvAll => Sys2Proof.Machine.execTlbinvAll s
  | .rput j a v => Sys2Proof.Machine.execRput j a v s
  | .brk n => Sys2Proof.Machine.execBrk n s
  | .storeFaultDelivery t => Sys2Proof.Machine.execStoreFaultDelivery t s
  | .postedCauseDelivery t => Sys2Proof.Machine.execPostedCauseDelivery t s
  | .pluckDelivery t => Sys2Proof.Machine.execPluckDelivery t s
  | .machineCheck t structureNo entry => Sys2Proof.Machine.execMachineCheck t structureNo entry s
  | .uncorrectableError line => Sys2Proof.Machine.execUncorrectableError line s
  | .translationFill pasid va resp => Sys2Proof.Machine.execTranslationFill pasid va resp s
  | .prgResponse pasid page ok => Sys2Proof.Machine.execPrgResponse pasid page ok s
  | .atsInvalidation pasid base bytes => Sys2Proof.Machine.execAtsInvalidation pasid base bytes s
  | .clockAgeing => Sys2Proof.Machine.execClockAgeing s
  | .clusterLineEviction cl line => Sys2Proof.Machine.execClusterLineEviction cl line s
  | .partialEviction cl line => Sys2Proof.Machine.execPartialEviction cl line s
  | .bridgeEviction line => Sys2Proof.Machine.execBridgeEviction line s
  | .hostSnoop line kind => Sys2Proof.Machine.execHostSnoop line kind s
  | .hostRead pa n => Sys2Proof.Machine.execHostRead pa n s
  | .hostWrite pa data => Sys2Proof.Machine.execHostWrite pa data s
  | .hostWake pa n => Sys2Proof.Machine.execHostWake pa n s
  | .enqueue vi record => Sys2Proof.Machine.execEnqueue vi record s
  | .dependencyCheck vi => Sys2Proof.Machine.execDependencyCheck vi s
  | .placementPass => Sys2Proof.Machine.execPlacementPass s
  | .budgetSample => Sys2Proof.Machine.execBudgetSample s
  | .periodStart => Sys2Proof.Machine.execPeriodStart s
  | .stageStart launch block tile => Sys2Proof.Machine.execStageStart launch block tile s
  | .mdrainWakeup idx => Sys2Proof.Machine.execMdrainWakeup idx s
  | .blockCompletion launch block => Sys2Proof.Machine.execBlockCompletion launch block s
  | .launchCompletion launch => Sys2Proof.Machine.execLaunchCompletion launch s
  | .preemptSave core => Sys2Proof.Machine.execPreemptSave core s
  | .preemptRestore core => Sys2Proof.Machine.execPreemptRestore core s
  | .blockEnd t => Sys2Proof.Machine.execBlockEnd t s
  | .slotResume core mask => Sys2Proof.Machine.execSlotResume core mask s
  | .viQcfgWrite vi value => Sys2Proof.Machine.execViQcfgWrite vi value s
  | .savebaseWrite vi value => Sys2Proof.Machine.execSavebaseWrite vi value s
  | .carInit store value => Sys2Proof.Machine.execCarInit store value s
  | .carDirectoryClearDone store => Sys2Proof.Machine.execCarDirectoryClearDone store s
  | .carStoreEnable store value => Sys2Proof.Machine.execCarStoreEnable store value s
  | .carStoreDisable store value => Sys2Proof.Machine.execCarStoreDisable store value s
  | .carDisableDone store => Sys2Proof.Machine.execCarDisableDone store s
  | .crangeEnable n value => Sys2Proof.Machine.execCrangeEnable n value s
  | .crangeDisable n value => Sys2Proof.Machine.execCrangeDisable n value s
  | .crangeDisableDone n => Sys2Proof.Machine.execCrangeDisableDone n s
  | .stashMap core bank value => Sys2Proof.Machine.execStashMap core bank value s
  | .stashUnmap core bank value => Sys2Proof.Machine.execStashUnmap core bank value s
  | .stashUnmapDone core bank => Sys2Proof.Machine.execStashUnmapDone core bank s
  | .ccfgWrite cl value => Sys2Proof.Machine.execCcfgWrite cl value s
  | .barrierInit cl n value => Sys2Proof.Machine.execBarrierInit cl n value s
  | .coPwrWrite core value => Sys2Proof.Machine.execCoPwrWrite core value s
  | .effChange core => Sys2Proof.Machine.execEffChange core s
  | .railRise row => Sys2Proof.Machine.execRailRise row s
  | .coreSwitchReady core => Sys2Proof.Machine.execCoreSwitchReady core s
  | .slotRemoval row => Sys2Proof.Machine.execSlotRemoval row s
  | .slotReturn row => Sys2Proof.Machine.execSlotReturn row s
  | .firmwareHeartbeat onTime => Sys2Proof.Machine.execFirmwareHeartbeat onTime s
  | .heartbeatMissed => Sys2Proof.Machine.execHeartbeatMissed s
  | .firmwareImageSwitch => Sys2Proof.Machine.execFirmwareImageSwitch s
  | .thermalTrip die => Sys2Proof.Machine.execThermalTrip die s
  | .thermalRecovery die => Sys2Proof.Machine.execThermalRecovery die s
  | .profileSelect value => Sys2Proof.Machine.execProfileSelect value s
  | .laneShed port width => Sys2Proof.Machine.execLaneShed port width s
  | .portDown port => Sys2Proof.Machine.execPortDown port s
  | .portUp port width => Sys2Proof.Machine.execPortUp port width s
  | .lockInterfaceRequest => Sys2Proof.Machine.execLockInterfaceRequest s
  | .startInterfaceRequest nonce => Sys2Proof.Machine.execStartInterfaceRequest nonce s
  | .stopInterfaceRequest => Sys2Proof.Machine.execStopInterfaceRequest s
  | .lockedSetWrite item value => Sys2Proof.Machine.execLockedSetWrite item value s
  | .getDeviceInterfaceReport => Sys2Proof.Machine.execGetDeviceInterfaceReport s
  | .getCertificate slot => Sys2Proof.Machine.execGetCertificate slot s
  | .scrubGo value => Sys2Proof.Machine.execScrubGo value s
  | .pageRetire value => Sys2Proof.Machine.execPageRetire value s
  | .scrubSweepEnd => Sys2Proof.Machine.execScrubSweepEnd s
  | .powerOnReset => Sys2Proof.Machine.execPowerOnReset s
  | .registerWrite agent num value => Sys2Proof.Machine.execRegisterWrite agent num value s
  | .peerAccessArrival access => Sys2Proof.Machine.execPeerAccessArrival access s
  | .wakestWakeupArrival idx => Sys2Proof.Machine.execWakestWakeupArrival idx s
  | .preemptSaveDone core => Sys2Proof.Machine.execPreemptSaveDone core s
  | .preemptRestoreDone core => Sys2Proof.Machine.execPreemptRestoreDone core s

end Sys2Proof.Machine
end

