-- ==== Sys2Proof/Machine/Step.lean ====
section
/-!
DEFINITION. Sys2Proof/Machine/Step.lean: one step of the module: the next turn of the agenda, or, where no turn is to
come, the issue of the slot of thread `cur`.
-/

namespace Sys2Proof.Machine

/-- The meaning of the word in a slot: an instruction, or the illegal-instruction event (R183). -/
noncomputable def execWord (w : Word) (s : State) : Host.Outcome State Fault Refusal :=
  match decode w with
  | some i => exec i s
  | none => exec (.illegalInstr w) s

/-- The issue of the slot of a thread (R195, R390): what is taken at the boundary, then the instruction in the slot, or
the next one fetched. A slot that does not issue makes a bubble. -/
noncomputable def issue (s : State) (t : Nat) : Host.Outcome State Fault Refusal :=
  let s := { s with cur := t }
  if !canIssue s t then .next s
  else if s.th.stalled && boundary s t == .nothing then execWord s.th.ir s
  else
    match boundary s t with
    | .storeFault => .next (deliverStoreFault s t)
    | .posted p => .next (deliverPosted s t p)
    | .pluck => .next (deliverPluck s t)
    | .pluckWaits => .next s
    | .over => .next (stopTask s t)
    | .nothing =>
      match fetch s with
      | .next s w => execWord w (s.setTh { s.th with ir := w })
      | .waits s => .next s
      | .trap s r => .next (takeTrap s r)

/-- A turn of the agenda. -/
noncomputable def runTurn (s : State) (u : Turn) : Host.Outcome State Fault Refusal :=
  match u with
  | .issue t => issue s t
  | .event e => exec e s
  | .elapse n => .next { s with pitch := s.pitch + n }
  | .dropL1 c line => .next (s.setCore c { s.core c with l1 := del (s.core c).l1 line })
  | .copyLine k i => .next (copyTurn s k i)
  | .sendStore c => .next ((sendStore s c).getD s)
  | .landStore c i => .next ((landStore s c i).getD s)
  | .engineWork e => .next (engineWork s e)
  | .performLoad t k => .next (performLoad s t k)
  | .badL1 c line => .next (spoilL1 s c line)
  | .badCluster k line => .next (spoilCluster s k line)
  | .badName k key => .next (spoilName s k key)
  | .badStash c key => .next (spoilStash s c key)
  | .badTlb c vi va => .next (spoilTlb s c vi va)
  | .retrain p => .next (beginRetrain s p.toNat)
  | .controller c div => .next (setController s c.toNat div)
  | .lowerRail r => .next (lowerRail s r.toNat)
  | .monitorPass t => .next (monitorPass s t)
  | .sweepTo pa => .next (sweepTo s pa)
  | .bringUp => .next (bringUp s)
  | .temperature d t => .next (newTemperature s d t)

/-- The first of some events that can happen. -/
noncomputable def firstEvent (s : State) : List Instr → Option State
  | [] => none
  | e :: rest =>
    match exec e s with
    | .next s' => some s'
    | _ => firstEvent s rest

/-- What a stalled slot may wait for on its own core, in the order in which it is tried: the model's choice where the
agenda names no turn. -/
noncomputable def backgroundEvents (s : State) (t : Nat) : List Instr :=
  let n := BitVec.ofNat 12 t
  ((List.range (s.thread t).producers.length).map (fun k => Instr.producerArrival n k)) ++
    [.storeDrain (BitVec.ofNat 9 (coreOf t)), .windowFill n, .feRetry n, .waitaPoll n, .sendRetry n, .deferredArrival n] ++
    ((List.range s.mails.length).map (fun k => Instr.messageArrival k)) ++
    ((List.range 16).map (fun k => Instr.barrierCycle (BitVec.ofNat 5 (clusterOf (coreOf t))) (BitVec.ofNat 4 k)))

/-- What happens beside a slot that waits: the first of its background events, else a store of its core on its way that is
performed. -/
noncomputable def background (s : State) (t : Nat) : Option State :=
  (firstEvent s (backgroundEvents s t)).orElse fun _ =>
    (List.range (s.core (coreOf t)).buffer.length).findSome? (landStore s (coreOf t))

/-- Whether a slot waits: its instruction does, or a pluck for the producers of its registers. -/
def waiting (s : State) (t : Nat) : Bool := (s.thread t).stalled || boundary s t == .pluckWaits

/-- One step. -/
noncomputable def step (s : State) : Host.Outcome State Fault Refusal :=
  match s.agenda with
  | u :: rest => runTurn { s with agenda := rest } u
  | [] =>
    if waiting s s.cur then
      match background s s.cur with
      | some s' => .next s'
      | none => issue s s.cur
    else issue s s.cur

/-- The state in which the next step fetches and runs the instruction whose bits are w: the slot of `cur` holds a
running U-mode thread of a virtual interface whose local window lies at 0, and its PC is the first byte of its core's
local store, where the word stands. -/
noncomputable def State.withFetchWord (s : State) (nbits w : Nat) : State :=
  let th := s.th
  let v := s.viOf th.vi.toNat
  let s := { s with agenda := [], module := { s.module with trip := 0 },
                    mem := putWord s.mem (localKey s.myCore 0) (BitVec.ofNat 32 (w % 2 ^ nbits)) }
  let s := s.setVi th.vi.toNat { v with lswin := 1 }
  let c := s.core s.myCore
  let s := s.setCore s.myCore { c with bstash := del c.bstash 0, preempts := [], records := [], rmv := 0, sw := true, ready := true, eff := 0 }
  s.setTh { th with present := true, stalled := false, halted := false, wait := .idle, posted := [], plen := false,
                    pc := BitVec.ofNat 64 (s.myCore * 2 ^ 18) }

end Sys2Proof.Machine
end

