-- ==== Sys2Proof/Safety.lean ====
section
/-!
DEFINITION. Sys2Proof/Safety.lean: what counts as a safe run, and the terms in which the statements about the machine are
made: what an operand gives, what a result leaves, what completing does, and what an instruction may change.
-/

namespace Sys2Proof

open Machine

/-! ## Safe runs -/

/-- The word addresses of empty words rise strictly (the model's form of R79's full/empty bits). -/
def ascending : List Nat → Bool
  | [] => true
  | [_] => true
  | a :: b :: rest => decide (a < b) && ascending (b :: rest)

/-- The canonical form of a state's plain data: memory in order without zeros (the model's form of R6's bytes), the
empty words in order, and threads numbered below 4,096 (R4). -/
def Machine.State.wf (s : State) : Bool :=
  Memory.wf s.mem && ascending s.empty && decide (s.cur < 4096) && s.agenda.all (fun u => match u with
    | .issue t => decide (t < 4096)
    | _ => true)

/-- k steps from a state stop neither by a refusal nor by a fault. -/
def safeRun (k : Nat) (s : State) : Prop := ∃ t, core.run k s = .next t

end Sys2Proof

namespace Sys2Proof.Spec

open Machine

/-! ## Operands (R102, R104, R105, R107) -/

/-- A scalar source gives v: `z` gives 0; a port gives the word behind the k words of it read before, of those that no other slot has read; another register gives
its value and is full. -/
def Source (s : State) (r : BitVec 5) (k : Nat) (v : Word) : Prop :=
  if r = 0 then v = 0
  else if isPort r then
    (neighbour s.myCore (s.core s.myCore).rseg r.toNat).isSome = true ∧ (s.core s.myCore).portWord s.cur r.toNat k = some v
  else (s.th.scalar r).full = true ∧ (s.th.scalar r).val = v

/-- A base source gives v: `b0` gives 0. -/
def BaseSource (s : State) (b : BitVec 3) (v : DWord) : Prop :=
  if b = 0 then v = 0 else (s.th.baseReg b).full = true ∧ (s.th.baseReg b).val = v

/-- A vector source gives v. -/
def VecSource (s : State) (n : Nat) (v : VWord) : Prop :=
  (s.th.vecReg n).full = true ∧ (s.th.vecReg n).val = v

/-- How many words of port b an instruction has read before b, where it reads a first. -/
def sameBefore (a b : BitVec 5) : Nat := if a = b then 1 else 0

/-- A scalar destination takes a result at once: `z` always, a port whose neighbour's FIFO has room, another register that
awaits no producer. -/
def Accepts (s : State) (d : BitVec 5) : Prop :=
  if d = 0 then True
  else if isPort d then
    ∃ n, neighbour s.myCore (s.core s.myCore).rseg d.toNat = some n ∧ (lookD (s.core n).ports (arrivesAt d.toNat) []).length < 8
  else (s.th.scalar d).busy = false

/-- A base destination takes a result at once. -/
def BaseAccepts (s : State) (b : BitVec 3) : Prop := b = 0 ∨ (s.th.baseReg b).busy = false

/-- The state with a scalar result delivered: discarded for `z`, at the end of the neighbour's FIFO for a port, in the register
otherwise, whose presence bit stays as it is (R243). -/
def delivered (s : State) (d : BitVec 5) (v : Word) : State :=
  if d = 0 then s
  else if isPort d then
    match neighbour s.myCore (s.core s.myCore).rseg d.toNat with
    | some n =>
      s.setCore n { s.core n with ports := put (s.core n).ports (arrivesAt d.toNat) (lookD (s.core n).ports (arrivesAt d.toNat) [] ++ [v]) }
    | none => s
  else s.setTh (s.th.setScalar d { s.th.scalar d with val := v })

/-- The state with a base result delivered; `b0` discards it. -/
def baseDelivered (s : State) (b : BitVec 3) (v : DWord) : State :=
  if b = 0 then s else s.setTh (s.th.setBase b { s.th.baseReg b with val := v })

/-- The state with a vector result delivered. -/
def vecDelivered (s : State) (n : Nat) (v : VWord) : State := s.setTh (s.th.setVec n { s.th.vecReg n with val := v })

/-- The instruction has completed: the ports it read have lost one word for each read, and the slot goes on at pc. -/
def retired (s : State) (rs : List (BitVec 5)) (pc : DWord) : State :=
  let s := rs.foldl popPort s
  s.setTh { s.th with pc := pc, stalled := false, wait := .idle }

/-! ## What an instruction may change -/

/-- All of memory reads as before: every byte, and the full/empty bit of every word. -/
def SameMemory (s t : State) : Prop := (∀ k, memByte t.mem k = memByte s.mem k) ∧ (∀ w, feFull t.empty w = feFull s.empty w)

/-- Every byte outside the n bytes from k reads as before. -/
def SameMemoryBut (s t : State) (k n : Nat) : Prop := ∀ j, ¬ (k ≤ j ∧ j < k + n) → memByte t.mem j = memByte s.mem j

/-! ## Results (R198 to R202) -/

/-- The integer forms of two registers, with the effect the table of R198 gives on rd. -/
noncomputable def integerForms : List ((BitVec 5 → BitVec 5 → BitVec 5 → BitVec 1 → BitVec 1 → Instr) × (Word → Word → Word)) :=
  [(.add, fun a b => a + b), (.sub, fun a b => a - b),
   (.and, fun a b => a &&& b), (.or, fun a b => a ||| b), (.xor, fun a b => a ^^^ b), (.andn, fun a b => a &&& ~~~b),
   (.sll, fun a b => a <<< (b &&& 31).toNat), (.srl, fun a b => a >>> (b &&& 31).toNat),
   (.sra, fun a b => a.sshiftRight (b &&& 31).toNat),
   (.ror, fun a b => a >>> (b &&& 31).toNat ||| a <<< (32 - (b &&& 31).toNat)),
   (.mul, fun a b => a * b),
   (.mulh, fun a b => BitVec.ofInt 32 (a.toInt * b.toInt / 2 ^ 32)),
   (.mulhu, fun a b => BitVec.ofNat 32 (a.toNat * b.toNat / 2 ^ 32)),
   (.min, fun a b => if a.toInt ≤ b.toInt then a else b), (.max, fun a b => if a.toInt ≤ b.toInt then b else a),
   (.minu, fun a b => if a.toNat ≤ b.toNat then a else b), (.maxu, fun a b => if a.toNat ≤ b.toNat then b else a),
   (.slt, fun a b => if a.toInt < b.toInt then 1 else 0), (.sltu, fun a b => if a.toNat < b.toNat then 1 else 0),
   (.seq, fun a b => if a = b then 1 else 0)]

/-- The quotients and remainders of R199. −2^31 / −1 is −2^31 with remainder 0. -/
noncomputable def divisionForms : List ((BitVec 5 → BitVec 5 → BitVec 5 → BitVec 1 → BitVec 1 → Instr) × (Word → Word → Word)) :=
  [(.div, fun a b => if b = 0 then 0xFFFFFFFF else BitVec.ofInt 32 (a.toInt.tdiv b.toInt)),
   (.divu, fun a b => if b = 0 then 0xFFFFFFFF else BitVec.ofNat 32 (a.toNat / b.toNat)),
   (.rem, fun a b => if b = 0 then a else BitVec.ofInt 32 (a.toInt.tmod b.toInt)),
   (.remu, fun a b => if b = 0 then a else BitVec.ofNat 32 (a.toNat % b.toNat))]

/-- The width of R200's field, cut at bit 31. -/
def fieldSpan (b : Word) : Nat := min (b.toNat / 256 % 64) (32 - b.toNat % 32)

/-- EXTU and EXTS of R200. -/
noncomputable def fieldForms : List ((BitVec 5 → BitVec 5 → BitVec 5 → BitVec 1 → BitVec 1 → Instr) × (Word → Word → Word)) :=
  [(.extu, fun a b => BitVec.ofNat 32 (a.toNat / 2 ^ (b.toNat % 32) % 2 ^ fieldSpan b)),
   (.exts, fun a b =>
      let f := a.toNat / 2 ^ (b.toNat % 32) % 2 ^ fieldSpan b
      if fieldSpan b = 0 then 0
      else BitVec.ofInt 32 (if f < 2 ^ (fieldSpan b - 1) then f else (f : Int) - 2 ^ fieldSpan b))]

/-- The forms of one register (R198). -/
noncomputable def unaryForms : List ((BitVec 5 → BitVec 5 → BitVec 1 → Instr) × (Word → Word)) :=
  [(.clz, fun a => if a = 0 then 32 else BitVec.ofNat 32 (31 - a.toNat.log2)),
   (.ctz, fun a => if a = 0 then 32 else BitVec.ofNat 32 (((List.range 32).takeWhile (fun i => !a.getLsbD i)).length)),
   (.popc, fun a => BitVec.ofNat 32 (((List.range 32).map (fun i => if a.getLsbD i then 1 else 0)).sum)),
   (.brev, fun a => BitVec.ofNat 32 (((List.range 32).map (fun i => if a.getLsbD (31 - i) then 2 ^ i else 0)).sum)),
   (.bswap, fun a => a.extractLsb' 0 8 ++ a.extractLsb' 8 8 ++ a.extractLsb' 16 8 ++ a.extractLsb' 24 8)]

/-- The shifts by an immediate amount (R198). -/
noncomputable def shiftForms : List ((BitVec 5 → BitVec 5 → BitVec 5 → BitVec 1 → Instr) × (Word → Nat → Word)) :=
  [(.slli, fun a n => a <<< n), (.srli, fun a n => a >>> n), (.srai, fun a n => a.sshiftRight n)]

/-- The forms of one register and a sign-extended 15-bit immediate (R201). -/
noncomputable def immediateForms : List ((BitVec 5 → BitVec 5 → BitVec 1 → BitVec 15 → Instr) × (Word → Word → Word)) :=
  [(.addi, fun a i => a + i), (.andi, fun a i => a &&& i), (.ori, fun a i => a ||| i), (.xori, fun a i => a ^^^ i),
   (.slti, fun a i => if a.toInt < i.toInt then 1 else 0), (.sltiu, fun a i => if a.toNat < i.toNat then 1 else 0)]

/-! ## Branches (R206) -/

/-- The branches on two registers with their conditions. -/
noncomputable def branchForms : List ((BitVec 5 → BitVec 5 → BitVec 13 → Instr) × (Word → Word → Bool)) :=
  [(.beq, fun a b => decide (a = b)), (.bne, fun a b => decide (a ≠ b)),
   (.blt, fun a b => decide (a.toInt < b.toInt)), (.bge, fun a b => decide (b.toInt ≤ a.toInt)),
   (.bltu, fun a b => decide (a.toNat < b.toNat)), (.bgeu, fun a b => decide (b.toNat ≤ a.toNat))]

/-- The PC of a branch that is taken, or not. -/
def branchTo {w : Nat} (s : State) (taken : Bool) (off : BitVec w) : DWord :=
  if taken then s.th.pc + 4 * off.signExtend 64 else s.th.pc + 4

/-! ## Scalar floating point (R138, R139, R213) -/

/-- The FP32 forms of two registers: the result's code and the flags, by rounding mode and SATN. -/
noncomputable def floatForms : List ((BitVec 5 → BitVec 5 → BitVec 5 → BitVec 1 → BitVec 1 → Instr) × (Nat → Bool → Nat → Nat → Nat × Raised)) :=
  [(.fadd, fpAdd 11), (.fsub, fpSub 11), (.fmul, fpMul 11), (.fdiv, fpDiv 11),
   (.fmin, fun _ _ => fpMinMax 11 false), (.fmax, fun _ _ => fpMinMax 11 true),
   (.feq, fun _ _ a b => ((fpCompare 11 true eqNum a b).1.toNat, (fpCompare 11 true eqNum a b).2)),
   (.flt, fun _ _ a b => ((fpCompare 11 false ltNum a b).1.toNat, (fpCompare 11 false ltNum a b).2)),
   (.fle, fun _ _ a b => ((fpCompare 11 false leNum a b).1.toNat, (fpCompare 11 false leNum a b).2))]

/-! ## Memory operands (R11, R217) -/

/-- The effective address of a memory operand is ea: base plus zero-extended index plus immediate. -/
def Addressed (s : State) (x : BitVec 5) (g : BitVec 3) (imm : Int) (ea : DWord) : Prop :=
  ∃ i b, Source s x 0 i ∧ BaseSource s g b ∧ ea = b + i.setWidth 64 + BitVec.ofInt 64 imm

/-- A scalar source of 4 bytes, or a register pair of 8, gives the number v. -/
def PairSource (s : State) (d : BitVec 5) (k : Nat) (pair : Bool) (v : Nat) : Prop :=
  ∃ lo, Source s d k lo ∧ if pair then ∃ hi, Source s (d + 1) 0 hi ∧ v = lo.toNat + 2 ^ 32 * hi.toNat else v = lo.toNat

/-- No producer in flight awaits the registers (R104). -/
def Unawaited (s : State) (rs : List RegRef) : Prop := ∀ r ∈ rs, refBusy s.th r = false

/-- A long-latency producer is on its way: its destinations are empty until it arrives (R104). Without a destination or a
flag to bring there is none. -/
def launched (s : State) (p : Producer) : State :=
  if p.landings.isEmpty && p.flags == 0 && p.ready then s
  else
    let th := p.landings.foldl (fun th l => claim th l.reg) s.th
    s.setTh { th with producers := th.producers ++ [p] }

/-- The loads of R222: the bytes, whether into a pair, the register's value, and the width it is sign-extended from (0: none). -/
noncomputable def loadForms : List ((BitVec 5 → BitVec 5 → BitVec 3 → BitVec 1 → BitVec 12 → Instr) × Nat × Bool × (Nat → Nat) × Nat) :=
  [(.lb, 1, false, fun v => (((BitVec.ofNat 8 v).signExtend 32 : Word)).toNat, 8), (.lbu, 1, false, id, 0),
   (.lh, 2, false, fun v => (((BitVec.ofNat 16 v).signExtend 32 : Word)).toNat, 16), (.lhu, 2, false, id, 0),
   (.lw, 4, false, id, 0), (.ldp, 8, true, id, 0)]

/-- What LDA writes for the bytes it has read, by its size code: narrow values are sign-extended (R224). -/
def orderedValue (w : BitVec 2) (v : Nat) : Nat :=
  match w with
  | 0 => ((BitVec.ofNat 8 v).signExtend 32).toNat
  | 1 => ((BitVec.ofNat 16 v).signExtend 32).toNat
  | _ => v

/-- The stores of R222: the bytes, and whether from a pair. -/
noncomputable def storeForms : List ((BitVec 5 → BitVec 5 → BitVec 3 → BitVec 1 → BitVec 12 → Instr) × Nat × Bool) :=
  [(.sb, 1, false), (.sh, 2, false), (.sw, 4, false), (.stp, 8, true)]

/-- The state with a store of the issuing thread at the end of its core's store buffer (R223). -/
def buffered (s : State) (e : StoreEntry) : State :=
  s.setCore s.myCore { s.core s.myCore with buffer := (s.core s.myCore).buffer ++ [e] }

/-- A plain store of the issuing thread: n bytes of the number v at an address. -/
def plainEntry (s : State) (ea : DWord) (n v : Nat) : StoreEntry :=
  { thread := s.cur, vi := s.th.vi, va := ea, n := n, data := BitVec.ofNat 512 (v % 2 ^ (8 * n)), mask := byteMask n,
    pc := s.th.pc, mode := s.th.mode, cls := s.th.cls, ctx := sealOf s s.cur, ended := s.th.ends || s.th.stops }

/-- Room for a store: fewer than 32 entries wait to set out (R223, R352). -/
def StoreRoom (s : State) : Prop := ((s.core s.myCore).buffer.filter (fun e => e.away.isNone)).length < 32

/-- What a release at issue waits for: every earlier store of the thread has drained (R221, R226). -/
def StoresDrained (s : State) : Prop := ∀ e ∈ (s.core s.myCore).buffer, e.thread ≠ s.cur

/-- What an order code that releases waits for at issue: the thread's stores have drained and its copy requests have been
dispatched (R221). -/
def MayRelease (s : State) (r : BitVec 2) : Prop := r.getLsbD 1 = true → StoresDrained s ∧ dispatched s s.cur = true

/-- A release of the issuing thread: its loads have been performed, and what its scope asks for is pushed (R221). -/
def released (s : State) (scope : Nat) : State := releasePush (performLoads s) s.myCore scope

/-- The state in which an access with an order code is made: a release has been made first. -/
def ordered (s : State) (r : BitVec 2) (scope : Nat) : State := if r.getLsbD 1 then released s scope else s

/-- The thread holds a line's reservation and has read it with acquire (R237). -/
def holding (s : State) (place line : Nat) : State := (acquire s).setTh { s.th with rsv := .holds place line }

/-- The thread has heard of the clock behind core c's local store (R331), in an access to its byte off; earlier loads of the core
from that line have been performed (R326). -/
def told (s : State) (c off : Nat) : State :=
  hear (settleLoads s s.myCore (localKey c off / 64)) (me s) (s.cluster (clusterOf c)).clock

/-- The AMOs of one operand (R232): the new value from the old one and the operand, of w bits, and the commutative
operation it may match (R74). -/
noncomputable def amoForms : List ((BitVec 5 → BitVec 5 → BitVec 3 → BitVec 1 → BitVec 3 → BitVec 2 → BitVec 1 → Instr) ×
    (Nat → Nat → Nat → Nat) × Option Nat) :=
  [(.amoadd, fun _ m x => m + x, some 0), (.amoand, fun _ m x => m &&& x, none), (.amoor, fun _ m x => m ||| x, none),
   (.amoxor, fun _ m x => m ^^^ x, none),
   (.amomin, fun w m x => if signed w x < signed w m then x else m, some 1),
   (.amomax, fun w m x => if signed w m < signed w x then x else m, some 2),
   (.amominu, fun _ m x => min m x, none), (.amomaxu, fun _ m x => max m x, none), (.amoswap, fun _ _ x => x, none)]

/-- The reductions with a size (R235) and their codes. -/
noncomputable def reductionForms : List ((BitVec 5 → BitVec 5 → BitVec 3 → BitVec 1 → BitVec 3 → BitVec 2 → BitVec 1 → Instr) × BitVec 4) :=
  [(.redadd, 0), (.redand, 1), (.redor, 2), (.redxor, 3), (.redmin, 4), (.redmax, 5)]

/-! ## A core's local store (R25, R93) -/

/-- The n bytes at ea are the n bytes from byte off of core c's local store, in one line, which the issuing thread reaches,
and no store of its core is pending. -/
def LocalAccess (s : State) (ea : DWord) (c off n : Nat) : Prop :=
  windowOff (s.viOf s.th.vi.toNat).lswin ea = some (c * 2 ^ 18 + off) ∧ c < 512 ∧ off < 2 ^ 18 ∧ off % 64 + n ≤ 64 ∧
    localReach s (me s) c off = true ∧ (s.core s.myCore).buffer = [] ∧ s.bridge.poisoned.contains (localKey c off / 64) = false

/-- The thread in the queue of a line, behind those that are in it (R237). -/
def joined (s : State) (place line : Nat) : State :=
  let t := setRsvQueue s place line { rsvQueue s place line with waiters := (rsvQueue s place line).waiters ++ [s.refOf s.cur] }
  t.setTh { t.th with rsv := .awaits place line }

/-- The waiters of a WAKEA with count n on a word, oldest first (R240). -/
def wokenBy (s : State) (place key : Nat) (n : Word) : List Sleeper :=
  let here := (watchersAt s place).filter (fun w => w.key == key)
  if n = 0 then here else here.take n.toNat

/-- The register a presence instruction names by class and index (R182, R243): a scalar register but `z` and the ports, a vector
register, a base register but `b0`. -/
def PresenceNames (s : State) (c : BitVec 2) (i : BitVec 6) (r : RegRef) : Prop :=
  (c = 0 ∧ 0 < i.toNat ∧ i.toNat < 32 ∧ ¬ (24 ≤ i.toNat ∧ i.toNat ≤ 27) ∧ r = .scalar (scalarPlace s.th.cwp i.toNat)) ∨
  (c = 1 ∧ r = .vec i.toNat) ∨ (c = 2 ∧ 0 < i.toNat ∧ i.toNat < 8 ∧ r = .base i.toNat)

/-- The instruction traps with MISALIGNED and an address, at once (R218). -/
def TrapsMisaligned (s : State) (i : Instr) (ea : DWord) : Prop := exec i s = .next (takeTrap s { cause := .misaligned, tval := ea })

/-- No miss waits for an entry at any level (R17). -/
def NoMissWaits (s : State) : Prop :=
  s.bridge.missWaits = [] ∧ (∀ p ∈ s.clusters, p.2.missWaits = []) ∧ ∀ p ∈ s.cores, p.2.missWaits = []

/-- What a returned translation installs for an address (R14). -/
def filledEntry (pasid : BitVec 20) (va : DWord) (r : FillResponse) : TlbEntry :=
  { pasid := pasid, page := va.toNat / pageBytes r.size * pageBytes r.size, pa := r.pa.toNat / pageBytes r.size * pageBytes r.size,
    size := r.size, r := r.r, w := r.w, x := r.x, u := r.u }

/-- The number that n bytes from a key hold, the byte at the key least significant (R6). -/
def memNat (m : List Host.Cell) (k : Nat) : Nat → Nat
  | 0 => 0
  | n + 1 => (memByte m k).toNat + 256 * memNat m (k + 1) n

/-- The full/empty instruction is not waiting for another try (R229). -/
def Attempts (s : State) : Prop := (∀ n, s.th.wait ≠ .feGap n) ∧ ∀ n, s.th.wait ≠ .feParked n

/-- A call has rotated the window (R97, R209): the frame is new, its `a0` to `a3` are the caller's `k0` to `k3`, and it keeps
the return PC and its kind. Memory reads as before. -/
def Called (s t : State) (kind : BitVec 2) : Prop :=
  t.th.cwp = s.th.cwp + 1 ∧ t.th.resident = s.th.resident + 1 ∧ topFrame t.th = { retPc := s.th.pc + 4, kind := kind } ∧
    (∀ i : BitVec 5, i.toNat < 4 → t.th.scalar (8 + i) = s.th.scalar (28 + i)) ∧ t.mem = s.mem

/-- The constant-window forms with their operations (R203). -/
noncomputable def constantForms : List ((BitVec 5 → BitVec 5 → BitVec 2 → BitVec 14 → Instr) × (Word → Word → Word)) :=
  [(.addc, fun a c => a + c), (.subc, fun a c => a - c), (.andc, fun a c => a &&& c), (.orc, fun a c => a ||| c),
   (.xorc, fun a c => a ^^^ c), (.mulc, fun a c => a * c), (.minc, fun a c => if a.toInt ≤ c.toInt then a else c),
   (.maxc, fun a c => if a.toInt ≤ c.toInt then c else a), (.sltc, fun a c => if a.toInt < c.toInt then 1 else 0)]

/-! ## Vector instructions (R244 to R253) -/

/-- The three integer types of an operation, with their lane widths. -/
def widths {α β : Type} (i8 i16 i32 : α) (f : β) : List (α × Nat × β) := [(i8, 8, f), (i16, 16, f), (i32, 32, f)]

/-- The three float types of an operation, with their format codes (R115) and lane widths. -/
def floatTypes {α β : Type} (f16 bf16 f32 : α) (f : β) : List (α × Nat × Nat × β) :=
  [(f16, 12, 16, f), (bf16, 13, 16, f), (f32, 11, 32, f)]

/-- The integer lane operations of two registers, before they are taken modulo 2^w (R246). -/
noncomputable def intLaneForms : List ((BitVec 6 → BitVec 6 → BitVec 6 → BitVec 3 → Instr) × Nat × (Nat → Nat → Nat → Nat)) :=
  widths Instr.vaddI8 Instr.vaddI16 Instr.vaddI32 (fun _ a b => a + b) ++ widths Instr.vsubI8 Instr.vsubI16 Instr.vsubI32 (fun w a b => a + 2 ^ w - b) ++
  widths Instr.vmulI8 Instr.vmulI16 Instr.vmulI32 (fun _ a b => a * b) ++
  widths Instr.vminI8 Instr.vminI16 Instr.vminI32 (fun w a b => if signed w a ≤ signed w b then a else b) ++
  widths Instr.vmaxI8 Instr.vmaxI16 Instr.vmaxI32 (fun w a b => if signed w a ≤ signed w b then b else a) ++
  widths Instr.vandI8 Instr.vandI16 Instr.vandI32 (fun _ a b => a &&& b) ++ widths Instr.vorI8 Instr.vorI16 Instr.vorI32 (fun _ a b => a ||| b) ++
  widths Instr.vxorI8 Instr.vxorI16 Instr.vxorI32 (fun _ a b => a ^^^ b) ++
  widths Instr.vsllI8 Instr.vsllI16 Instr.vsllI32 (fun w a b => a * 2 ^ (b % w)) ++ widths Instr.vsrlI8 Instr.vsrlI16 Instr.vsrlI32 (fun w a b => a / 2 ^ (b % w)) ++
  widths Instr.vsraI8 Instr.vsraI16 Instr.vsraI32 (fun w a b => unsigned w (signed w a / 2 ^ (b % w)))

/-- VPERM (R246). -/
noncomputable def permForms : List ((BitVec 6 → BitVec 6 → BitVec 6 → BitVec 3 → Instr) × Nat) :=
  [(.vpermI8, 8), (.vpermI16, 16), (.vpermI32, 32)]

/-- The integer lane operations of one register (R246). -/
noncomputable def intUnaryForms : List ((BitVec 6 → BitVec 6 → BitVec 3 → Instr) × Nat × (Nat → Nat → Nat)) :=
  widths Instr.vabsI8 Instr.vabsI16 Instr.vabsI32 (fun w a => unsigned w (if signed w a < 0 then -signed w a else signed w a)) ++
  widths Instr.vnegI8 Instr.vnegI16 Instr.vnegI32 (fun w a => unsigned w (-signed w a)) ++ widths Instr.vmovI8 Instr.vmovI16 Instr.vmovI32 (fun _ a => a)

/-- VSAT (R246). -/
noncomputable def clampForms : List ((BitVec 6 → BitVec 6 → BitVec 6 → BitVec 3 → Instr) × Nat) :=
  [(.vsatI8, 8), (.vsatI16, 16), (.vsatI32, 32)]

/-- The float lane operations of two registers (R247), by format, rounding mode and SATN. -/
noncomputable def floatLaneForms : List ((BitVec 6 → BitVec 6 → BitVec 6 → BitVec 3 → Instr) × Nat × Nat ×
    (Nat → Nat → Bool → Nat → Nat → Nat × Raised)) :=
  floatTypes Instr.vfaddF16 Instr.vfaddBf16 Instr.vfaddF32 fpAdd ++ floatTypes Instr.vfsubF16 Instr.vfsubBf16 Instr.vfsubF32 fpSub ++
  floatTypes Instr.vfmulF16 Instr.vfmulBf16 Instr.vfmulF32 fpMul ++ floatTypes Instr.vfdivF16 Instr.vfdivBf16 Instr.vfdivF32 fpDiv ++
  floatTypes Instr.vfminF16 Instr.vfminBf16 Instr.vfminF32 (fun f _ _ => fpMinMax f false) ++
  floatTypes Instr.vfmaxF16 Instr.vfmaxBf16 Instr.vfmaxF32 (fun f _ _ => fpMinMax f true)

/-- VFMA and VFSQRT (R247). -/
noncomputable def fmaLaneForms : List ((BitVec 6 → BitVec 6 → BitVec 6 → BitVec 3 → Instr) × Nat × Nat) :=
  [(.vfmaF16, 12, 16), (.vfmaBf16, 13, 16), (.vfmaF32, 11, 32)]
noncomputable def sqrtLaneForms : List ((BitVec 6 → BitVec 6 → BitVec 3 → Instr) × Nat × Nat) :=
  [(.vfsqrtF16, 12, 16), (.vfsqrtBf16, 13, 16), (.vfsqrtF32, 11, 32)]

/-- The integer compares (R248). -/
noncomputable def intCompareForms : List ((BitVec 3 → BitVec 6 → BitVec 6 → BitVec 3 → Instr) × Nat × (Nat → Nat → Nat → Bool)) :=
  widths Instr.vcmpEqI8 Instr.vcmpEqI16 Instr.vcmpEqI32 (fun _ a b => decide (a = b)) ++
  widths Instr.vcmpNeI8 Instr.vcmpNeI16 Instr.vcmpNeI32 (fun _ a b => decide (a ≠ b)) ++
  widths Instr.vcmpLtI8 Instr.vcmpLtI16 Instr.vcmpLtI32 (fun w a b => decide (signed w a < signed w b)) ++
  widths Instr.vcmpLeI8 Instr.vcmpLeI16 Instr.vcmpLeI32 (fun w a b => decide (signed w a ≤ signed w b)) ++
  widths Instr.vcmpLtuI8 Instr.vcmpLtuI16 Instr.vcmpLtuI32 (fun _ a b => decide (a < b)) ++
  widths Instr.vcmpLeuI8 Instr.vcmpLeuI16 Instr.vcmpLeuI32 (fun _ a b => decide (a ≤ b))

/-- Whether a code of a float format is a NaN. -/
def isNaNCode (f a : Nat) : Bool := (decodeElem f a).1.isNaN

/-- The float compares (R248), by format: the truth and the flags. -/
noncomputable def floatCompareForms : List ((BitVec 3 → BitVec 6 → BitVec 6 → BitVec 3 → Instr) × Nat × Nat × (Nat → Nat → Nat → Bool × Raised)) :=
  floatTypes Instr.vcmpEqF16 Instr.vcmpEqBf16 Instr.vcmpEqF32 (fun f => fpCompare f true eqNum) ++
  floatTypes Instr.vcmpNeF16 Instr.vcmpNeBf16 Instr.vcmpNeF32 (fun f => fpCompare f true (fun a b => !eqNum a b)) ++
  floatTypes Instr.vcmpLtF16 Instr.vcmpLtBf16 Instr.vcmpLtF32 (fun f => fpCompare f false ltNum) ++
  floatTypes Instr.vcmpLeF16 Instr.vcmpLeBf16 Instr.vcmpLeF32 (fun f => fpCompare f false leNum) ++
  floatTypes Instr.vcmpUnF16 Instr.vcmpUnBf16 Instr.vcmpUnF32 (fun f a b => (isNaNCode f a || isNaNCode f b, (fpCompare f true eqNum a b).2))

/-- The integer reductions (R249): the result of the active lanes, in order. -/
noncomputable def reduceForms : List ((BitVec 6 → BitVec 6 → BitVec 3 → Instr) × Nat × (Nat → List Nat → Nat)) :=
  widths Instr.vraddI8 Instr.vraddI16 Instr.vraddI32 (fun _ l => l.sum) ++
  widths Instr.vrmaxI8 Instr.vrmaxI16 Instr.vrmaxI32 (fun w l => unsigned w ((l.map (signed w)).foldl max (-(2 ^ (w - 1) : Nat)))) ++
  widths Instr.vrminI8 Instr.vrminI16 Instr.vrminI32 (fun w l => unsigned w ((l.map (signed w)).foldl min ((2 ^ (w - 1) : Nat) - 1)))

/-- VRFADD (R250). -/
noncomputable def sumForms : List ((BitVec 6 → BitVec 6 → BitVec 3 → Instr) × Nat × Nat) :=
  [(.vrfaddF16, 12, 16), (.vrfaddBf16, 13, 16), (.vrfaddF32, 11, 32)]

/-- One level of R250's tree: neighbours are added. -/
def addNeighbours (f : Nat → Nat → Nat × Raised) : List Nat → List (Nat × Raised)
  | a :: b :: rest => f a b :: addNeighbours f rest
  | [a] => [(a, {})]
  | [] => []

/-- The issuing thread has completed and nothing but its vector registers and TH_FFLAGS has changed: lane i of register v,
of L lanes of width w, has the value of f where q is 1 and keeps its value elsewhere, and the flags of the active lanes are
ORed into TH_FFLAGS. Its presence bit stays as it is (R243). -/
def VectorOutcome (s t : State) (v w : Nat) (q : Word) (f : Nat → Nat × Raised) : Prop :=
  t.th = { s.th with
    vec := t.th.vec, pc := s.th.pc + 4, stalled := false, wait := .idle,
    fflags := s.th.fflags ||| (allFlags ((List.range (256 / w)).map (fun i => if q.getLsbD i then (f i).2 else {}))).word } ∧
  (t.th.vecReg v).full = (s.th.vecReg v).full ∧ (t.th.vecReg v).busy = false ∧
  (∀ i < 256 / w, lane (t.th.vecReg v).val w i = if q.getLsbD i then (f i).1 % 2 ^ w else lane (s.th.vecReg v).val w i) ∧
  (∀ u, u ≠ v → t.th.vecReg u = s.th.vecReg u) ∧ (∀ n, n ≠ s.cur → t.thread n = s.thread n) ∧ SameMemory s t

/-- The issuing thread has completed and nothing but a predicate and TH_FFLAGS has changed: bit i of predicate p is 1 for the
active lanes for which the condition holds, of L lanes, and `q0` discards the write. -/
def PredicateOutcome (s t : State) (p : BitVec 3) (w : Nat) (q : Word) (f : Nat → Bool × Raised) : Prop :=
  t.th = { s.th with
    pred := t.th.pred, pc := s.th.pc + 4, stalled := false, wait := .idle,
    fflags := s.th.fflags ||| (allFlags ((List.range (256 / w)).map (fun i => if q.getLsbD i then (f i).2 else {}))).word } ∧
  (p ≠ 0 → ∀ i < 32, (t.th.predReg p).getLsbD i = (decide (i < 256 / w) && q.getLsbD i && (f i).1)) ∧
  (∀ u, u ≠ p ∨ u = 0 → t.th.predReg u = s.th.predReg u) ∧ (∀ n, n ≠ s.cur → t.thread n = s.thread n) ∧ SameMemory s t

/-- The eight elements of vector memory that a predicate makes active (R254). -/
def activeElements (q : Word) : List Nat := (List.range 8).filter (fun j => q.getLsbD j)

/-- What an element load brings (R256): the active words of register v. -/
def elementLandings (v : BitVec 6) (q : Word) (value : Nat) : List Landing :=
  if activeElements q = [] then []
  else [{ reg := .vec v.toNat, value := BitVec.ofNat 256 value, mask := BitVec.ofNat 256 (elementBits 32 (activeElements q)) }]

/-- What a block load brings (R255): the active words of register v. -/
def blockLanding (v : BitVec 6) (q : Word) (l : Line) : Landing :=
  { reg := .vec v.toNat, value := l.setWidth 256, mask := (BitVec.ofNat 512 (elementBits 32 (activeElements q))).setWidth 256 }

/-- A code at element k's lane of its register (R258). -/
def viewLane (w : View) (k code : Nat) : VWord := BitVec.ofNat 256 (code * 2 ^ (fmtBits w.lf * (k % (256 / fmtBits w.lf))))

/-! ## Leases and engines (R158, R263) -/

/-- A lease slot takes an operation of class k now: its lease is HELD or PARKED, of the class, and its queue has room. -/
def OpenFor (s : State) (e : BitVec 2) (k : Nat) : Prop :=
  ((myLease s e).state = .held ∨ (myLease s e).state = .parked) ∧ (myLease s e).kind.toNat = k ∧ (myLease s e).ops.length < 4

/-- The core's store buffer is empty: no store that the thread could see is still to come before an operation (R223, R263, R330). -/
def NoStores (s : State) : Prop := (s.core s.myCore).buffer = []

/-- The issuing thread's next state after an operation has joined a slot's queue. -/
def issued (s : State) (e : BitVec 2) (scope : Nat) (o : EngineOp) (rs : List (BitVec 5)) : State :=
  retired (enqueueOp s e scope o) rs ((enqueueOp s e scope o).th.pc + 4)

/-- The operations without a register operand (R275, R279, R281, R284): the class, the kind, the check of the geometry. -/
noncomputable def geometryForms : List ((BitVec 2 → Instr) × Nat × EngineKind × (List Word → Bool)) :=
  [(.mswap, 1, .mswap, fun _ => true), (.mtile, 1, .mtile, mxeTile), (.rconv, 2, .rconv, rxeOk), (.gconv, 4, .gconv, gconvOk),
   (.hdigest, 3, .hdigest, fun ec => decide ((ecAt ec 0).toNat < 2))]

/-- The operations of one register operand (R275, R279). -/
noncomputable def blockForms : List ((BitVec 2 → BitVec 5 → Instr) × Nat × EngineKind × (List Word → Nat → Bool)) :=
  [(.mlds, 1, .mlds, fun ec j => mxeReserved ec && stdFmt 28 (bFmt ec) && mxeKN ec && decide (j < kBlocks ec 64)),
   (.mstream, 1, .mstream, fun ec j => mxeReserved ec && stdFmt 28 (aFmt ec) && stdFmt 28 (bFmt ec) && mxeKN ec && mxeM ec &&
      mxeScaledK ec && decide (j < kBlocks ec 64)),
   (.mzero, 1, .mzero, fun _ j => decide (j < 2)),
   (.rlds, 2, .rlds, fun ec j => rxeOk ec && decide (j < kBlocks ec 32)),
   (.rtile, 2, .rtile, fun ec j => rxeOk ec && decide (j < kBlocks ec 32))]

/-- The issuing thread has access to a CAR store, to write where w (R34). -/
def CarRight (s : State) (w : Bool) (k : Nat) : Prop :=
  (s.viOf s.th.vi.toNat).carperm.toNat / 4 = k ∧ (s.viOf s.th.vi.toNat).carperm.getLsbD (if w then 1 else 0) = true ∧
    (carStore s k).en = true ∧ ctxOf s s.cur = 0

/-- An engine at work: ready, held by slot e of thread r, with operation o first in its queue. -/
def AtWork (s : State) (engine r e : Nat) (o : EngineOp) (rest : List EngineOp) : Prop :=
  (engineAt s engine).power = .ready ∧ (engineAt s engine).holder = some (r, e) ∧ s.live r = true ∧
    (leaseOf s r e).state = .held ∧ (leaseOf s r e).flt = false ∧ (leaseOf s r e).ops = o :: rest ∧ engineTripped s engine = false

/-- A step of a lease's first operation, which it leaves as o: it stands first still, or, with no step to come, it has completed with
its flags (R266); s is the state before the lease changed. -/
def StepLeft (s t : State) (r e : Nat) (o : EngineOp) (rest : List EngineOp) : Prop :=
  if o.total ≤ o.steps then (leaseOf t r e).ops = rest ∧ (leaseOf t r e).done = (leaseOf s r e).done ++ [(o.id, o.flags)]
  else (leaseOf t r e).ops = o :: rest

/-- A message of the issuing thread on its way to a core (R295, R297). -/
def mailTo (s : State) (core : Nat) (m : VWord) (tag : Option Nat) : Mail :=
  { target := core, tag := tag, msg := { sender := s.cur, vi := s.th.vi, payload := m, clock := (s.core s.myCore).clock } }

/-- An entry of the PASID whose page meets the range of an invalidation (R20). -/
def meetsRange (pasid : BitVec 20) (base : DWord) (bytes : Nat) (e : TlbEntry) : Bool :=
  e.pasid == pasid && decide (e.page < base.toNat + bytes) && decide (base.toNat < e.page + pageBytes e.size)

/-! ## Encodings, steps, frames -/

/-- An instruction that has a word (R166 to R182): no event, and not the event of a word that is no instruction. -/
def HasWord (i : Instr) : Prop := encodeNat i ≠ 0 ∧ ∀ w, i ≠ .illegalInstr w

/-- Beside threads and memory nothing has changed but the port FIFOs and the words of them that are being read: the bridge, the
clusters, every core, the messages on their way. -/
def Elsewhere (s t : State) : Prop :=
  t.bridge = s.bridge ∧ t.clusters = s.clusters ∧ t.mails = s.mails ∧
    ∀ c, { t.core c with ports := (s.core c).ports, portHolds := (s.core c).portHolds } = s.core c

/-- The instruction has left the exception registers, the mode and all that lies elsewhere as they were, or it has entered a handler
at this instruction, in S or in M mode (R376, R377), which also takes back what the slot was waiting for. -/
def EntersOrKeeps (s t : State) : Prop :=
  (t.th.epc = s.th.epc ∧ t.th.cause = s.th.cause ∧ t.th.tval = s.th.tval ∧ t.th.mode = s.th.mode ∧ t.th.plen = s.th.plen ∧ Elsewhere s t) ∨
  (t.th.mode = .s ∧ t.th.epc = s.th.pc ∧ t.th.pc = (s.viOf s.th.vi.toNat).tvec) ∨
  (t.th.mode = .m ∧ t.th.pc = (s.core s.myCore).mnvec)

/-- Everything an instruction that works in registers alone leaves as it was: memory, other threads, the module registers,
virtual interfaces, launches and blocks, saved threads, calls and wake-ups on their way, the turns to come, and of its own thread all
but its scalar, base, vector and predicate registers, TH_FFLAGS, the PC and the slot's progress; and what lies elsewhere. -/
def KeepsAllButRegisters (s t : State) : Prop :=
  SameMemory s t ∧ (∀ u, u ≠ s.cur → t.thread u = s.thread u) ∧ t.module = s.module ∧ t.vis = s.vis ∧ t.launches = s.launches ∧
    t.blocks = s.blocks ∧ t.saved = s.saved ∧ t.flights = s.flights ∧ t.stWakes = s.stWakes ∧ t.mdWakes = s.mdWakes ∧
    t.changes = s.changes ∧ t.agenda = s.agenda ∧ t.serial = s.serial ∧ t.drawn = s.drawn ∧ t.pitch = s.pitch ∧ t.cur = s.cur ∧ t.th.fpcr = s.th.fpcr ∧ t.th.wsptr = s.th.wsptr ∧ t.th.cwp = s.th.cwp ∧ t.th.frames = s.th.frames ∧
    t.th.cwbase = s.th.cwbase ∧ t.th.cwsize = s.th.cwsize ∧ t.th.leases = s.th.leases ∧ t.th.producers = s.th.producers ∧
    t.th.rsv = s.th.rsv ∧ EntersOrKeeps s t

/-- Scalar registers other than d are unchanged. -/
def ScalarsBut (s t : State) (d : BitVec 5) : Prop :=
  ∀ p, (d ≠ 0 → isPort d = false → p ≠ scalarPlace s.th.cwp d.toNat) → lookD t.th.scal p {} = lookD s.th.scal p {}

/-- Base, vector and predicate registers are unchanged. -/
def OtherFilesSame (s t : State) : Prop := t.th.base = s.th.base ∧ t.th.vec = s.th.vec ∧ t.th.pred = s.th.pred

/-- Of the vector registers only some n from v on may have changed, and TH_FFLAGS may have gained flags. -/
def VectorsBut (s t : State) (v n : Nat) : Prop :=
  t.th.base = s.th.base ∧ t.th.pred = s.th.pred ∧ t.th.fflags ||| s.th.fflags = t.th.fflags ∧
    ∀ u, ¬ (v ≤ u ∧ u < v + n) → lookD t.th.vec u {} = lookD s.th.vec u {}

/-! ## Rounding (R115, R130, R133, R134, R138) -/

/-- The IEEE formats of arithmetic: the format code, the exponent and the fraction bits (R115). -/
def ieeeFormats : List (Nat × Nat × Nat) := [(11, 8, 23), (12, 5, 10), (13, 8, 7)]

/-- The sign, the exponent and the fraction of a code. -/
def signOf (ew fw c : Nat) : Nat := c / 2 ^ (ew + fw) % 2
def expOf (ew fw c : Nat) : Nat := c / 2 ^ fw % 2 ^ ew
def fracOf (fw c : Nat) : Nat := c % 2 ^ fw

/-- The bias of an IEEE format. -/
def biasOf (ew : Nat) : Int := 2 ^ (ew - 1) - 1

/-- The real number of a finite code (R115). -/
noncomputable def codeValue (ew fw c : Nat) : ℝ :=
  (-1) ^ signOf ew fw c * ((fracOf fw c : ℝ) + if expOf ew fw c = 0 then 0 else 2 ^ fw) *
    (2 : ℝ) ^ ((max (expOf ew fw c) 1 : Nat) - biasOf ew - fw : Int)

/-- A code of the format that is finite; one that is a NaN, and whether it signals. -/
def FiniteCode (ew fw c : Nat) : Prop := c < 2 ^ (1 + ew + fw) ∧ expOf ew fw c ≠ 2 ^ ew - 1
def isNaNOf (ew fw c : Nat) : Bool := expOf ew fw c == 2 ^ ew - 1 && fracOf fw c != 0
def isSignalOf (ew fw c : Nat) : Bool := isNaNOf ew fw c && !c.testBit (fw - 1)

/-- The code of ∞, and the one of the greatest finite value, below the sign; the default NaN. -/
def infCode (ew fw : Nat) : Nat := (2 ^ ew - 1) * 2 ^ fw
def maxCode (ew fw : Nat) : Nat := infCode ew fw - 1
def defaultCode (ew fw : Nat) : Nat := infCode ew fw + 2 ^ (fw - 1)

/-- The finite code r holds what a rounding mode selects from v among the format's finite values (R130): the nearest, on a tie the even
code or the one of greater magnitude; or the nearest on one side. -/
def Selects (ew fw mode : Nat) (v : ℝ) (r : Nat) : Prop :=
  FiniteCode ew fw r ∧ ∀ z, FiniteCode ew fw z →
    match mode with
    | 0 => |codeValue ew fw r - v| ≤ |codeValue ew fw z - v| ∧
        (|codeValue ew fw r - v| = |codeValue ew fw z - v| → codeValue ew fw z = codeValue ew fw r ∨ r % 2 = 0)
    | 1 => |codeValue ew fw r - v| ≤ |codeValue ew fw z - v| ∧
        (|codeValue ew fw r - v| = |codeValue ew fw z - v| → |codeValue ew fw z| ≤ |codeValue ew fw r|)
    | 2 => |codeValue ew fw r| ≤ |v| ∧ 0 ≤ codeValue ew fw r * v ∧
        (|codeValue ew fw z| ≤ |v| → |codeValue ew fw z| ≤ |codeValue ew fw r|)
    | 3 => v ≤ codeValue ew fw r ∧ (v ≤ codeValue ew fw z → codeValue ew fw r ≤ codeValue ew fw z)
    | _ => codeValue ew fw r ≤ v ∧ (codeValue ew fw z ≤ v → codeValue ew fw z ≤ codeValue ew fw r)

/-- A result is the exact value v, not zero, rounded once (R133), with its flags: to a value of the format where v does not pass the
greatest one; to the overflow of R134 from the first power of two beyond it. -/
def RoundsOnce (ew fw mode : Nat) (sat : Bool) (v : ℝ) (r : Nat × Raised) : Prop :=
  signOf ew fw r.1 = (if v < 0 then 1 else 0) ∧ r.2.nv = false ∧ r.2.dz = false ∧
  (|v| ≤ codeValue ew fw (maxCode ew fw) → Selects ew fw mode v r.1 ∧ (r.2.nx = true ↔ codeValue ew fw r.1 ≠ v) ∧
    (r.2.uf = true ↔ |v| < (2 : ℝ) ^ (1 - biasOf ew) ∧ codeValue ew fw r.1 ≠ v) ∧ r.2.of = false ∧ r.2.satd = false) ∧
  ((2 : ℝ) ^ (biasOf ew + 1) ≤ |v| → r.2.of = true ∧ r.2.nx = true ∧ r.2.satd = sat ∧ r.2.uf = false ∧
    r.1 % 2 ^ (ew + fw) =
      if sat = true ∨ mode = 2 ∨ (mode = 3 ∧ v < 0) ∨ (mode = 4 ∧ 0 < v) then maxCode ew fw else infCode ew fw)

/-- A result of an operation on finite operands: its exact value rounded once, or, where that is 0, a zero of the sign given. -/
def Rounded (ew fw mode : Nat) (sat : Bool) (v : ℝ) (zero : Nat) (r : Nat × Raised) : Prop :=
  (v ≠ 0 → RoundsOnce ew fw mode sat v r) ∧ (v = 0 → r = (zero * 2 ^ (ew + fw), {}))

/-- The sign of an exact zero sum of terms of two signs: theirs where they agree, else plus, or minus toward −∞ (R138). -/
def zeroSum (mode s t : Nat) : Nat := if s = t then s else if mode = 4 then 1 else 0

/-- An integer is what a rounding mode selects from v among the integers (R130, R135). -/
def SelectsInt (mode : Nat) (v : ℝ) (k : Int) : Prop :=
  match mode with
  | 0 => |k - v| ≤ 1 / 2 ∧ (|k - v| = 1 / 2 → k % 2 = 0)
  | 1 => |k - v| ≤ 1 / 2 ∧ (|k - v| = 1 / 2 → |v| ≤ |(k : ℝ)|)
  | 2 => |(k : ℝ)| ≤ |v| ∧ |v| < |(k : ℝ)| + 1 ∧ 0 ≤ k * v
  | 3 => v ≤ k ∧ (k : ℝ) < v + 1
  | _ => k ≤ v ∧ v < (k : ℝ) + 1

/-! ## Loads of what a store wrote -/

/-- A thread that loads n bytes of a place, outside the protected contexts and with no stash bank or buffered store for the address. -/
def LoadsThere (t : State) (w : Who) (va : DWord) (p : Place) (n : Nat) : Prop :=
  w.own = true ∧ w.ctx = 0 ∧ w.core < Config.cores ∧ w.cluster = clusterOf w.core ∧ stashBank t w va = none ∧
  ∃ t1, resolve t w .read va = .ok (t1, p) ∧ forward (settleLoads t1 w.core p.line) w va p n (byteMask n) = .nothing

/-- No copy in a core's L1 serves a load of some bytes of a line: the clock has passed its lease there (R61). -/
def L1Past (t : State) (core line : Nat) (need : BitVec 64) : Prop :=
  ∀ m, look (t.core core).l1 line = some m → leaseEnd m.rts m.part need < (t.core core).clock

end Sys2Proof.Spec
end

