-- ==== Sys2Proof/Certificates/Slice0/Obligations.lean ====
section
/-!
DEFINITION. Sys2Proof/Certificates/Slice0/Obligations.lean: the statements about the machine that are to be proved.
-/

open Sys2Proof Sys2Proof.Machine Sys2Proof.Spec

/-! ## Scalar instructions -/

/-- The integer forms of two registers of R198, but for the quotients and remainders: each completes with its effect in rd. The
forms of one register, the shifts by an immediate amount and the immediate forms (R198, R201). -/
def Obligations.IntegerResults : Prop :=
  (∀ s d a b z t x y, Source s a 0 x → Source s b (sameBefore a b) y → Accepts s d →
     ∀ e ∈ integerForms, exec (e.1 d a b z t) s = .next (retired (delivered s d (e.2 x y)) [a, b] (s.th.pc + 4))) ∧
  (∀ s d a z x, Source s a 0 x → Accepts s d →
     (∀ e ∈ unaryForms, exec (e.1 d a z) s = .next (retired (delivered s d (e.2 x)) [a] (s.th.pc + 4))) ∧
     (∀ e ∈ shiftForms, ∀ n : BitVec 5, exec (e.1 d a n z) s = .next (retired (delivered s d (e.2 x n.toNat)) [a] (s.th.pc + 4))) ∧
     (∀ e ∈ immediateForms, ∀ i : BitVec 15,
       exec (e.1 d a z i) s = .next (retired (delivered s d (e.2 x (i.signExtend 32))) [a] (s.th.pc + 4))))

/-- R199: the quotient and the remainder. -/
def Obligations.DivisionResults : Prop :=
  ∀ s d a b z t x y, Source s a 0 x → Source s b (sameBefore a b) y → Accepts s d →
    ∀ e ∈ divisionForms, exec (e.1 d a b z t) s = .next (retired (delivered s d (e.2 x y)) [a, b] (s.th.pc + 4))

/-- R200: the bit fields. INS reads rd as well. -/
def Obligations.FieldResults : Prop :=
  (∀ s d a b z t x y, Source s a 0 x → Source s b (sameBefore a b) y → Accepts s d →
    ∀ e ∈ fieldForms, exec (e.1 d a b z t) s = .next (retired (delivered s d (e.2 x y)) [a, b] (s.th.pc + 4))) ∧
  (∀ s d a b z t x y old, Source s a 0 x → Source s b (sameBefore a b) y → Source s d (sameBefore a d + sameBefore b d) old → Accepts s d →
    ∃ v : Word, exec (.ins d a b z t) s = .next (retired (delivered s d v) [a, b, d] (s.th.pc + 4)) ∧
      ∀ i < 32, v.getLsbD i =
        if y.toNat % 32 ≤ i ∧ i < y.toNat % 32 + fieldSpan y then x.getLsbD (i - y.toNat % 32) else old.getLsbD i) ∧
  (∀ s d a b z t x y, Source s a 0 x → Source s b (sameBefore a b) y → d ≠ 0 → isPort d = false → (s.th.scalar d).full = false →
    (s.th.ptrap = false → exec (.ins d a b z t) s = .next (holdSlot s)) ∧
    (s.th.ptrap = true → exec (.ins d a b z t) s = .next (takeTrap s { cause := .presenceEmpty, tval := BitVec.ofNat 64 (16 * d.toNat) })))

/-- CMOV writes rd only where b is not 0, and waits for rd only then (R198). The base-register forms (R204, R205). -/
def Obligations.MovesAndBases : Prop :=
  (∀ s d a b z t x y, Source s a 0 x → Source s b (sameBefore a b) y →
     (y = 0 → exec (.cmov d a b z t) s = .next (retired s [a, b] (s.th.pc + 4))) ∧
     (y ≠ 0 → Accepts s d → exec (.cmov d a b z t) s = .next (retired (delivered s d x) [a, b] (s.th.pc + 4)))) ∧
  ((∀ s (d : BitVec 3) a b z t lo hi, Source s a 0 lo → Source s b (sameBefore a b) hi → BaseAccepts s d →
     exec (.bset d a b z t) s = .next (retired (baseDelivered s d (hi ++ lo)) [a, b] (s.th.pc + 4))) ∧
   (∀ s d g z x, BaseSource s g x → Accepts s d →
     exec (.bgetLo d g z) s = .next (retired (delivered s d (BitVec.ofNat 32 (x.toNat % 2 ^ 32))) [] (s.th.pc + 4)) ∧
     exec (.bgetHi d g z) s = .next (retired (delivered s d (BitVec.ofNat 32 (x.toNat / 2 ^ 32))) [] (s.th.pc + 4))) ∧
   (∀ s d g b z t x y, BaseSource s g x → Source s b 0 y → BaseAccepts s d →
     exec (.badd d g b z t) s = .next (retired (baseDelivered s d (x + y.signExtend 64)) [b] (s.th.pc + 4))) ∧
   (∀ s d g z x, BaseSource s g x → BaseAccepts s d →
     exec (.bmov d g z) s = .next (retired (baseDelivered s d x) [] (s.th.pc + 4)) ∧
     ∀ i : BitVec 15, exec (.baddi d g z i) s = .next (retired (baseDelivered s d (x + i.signExtend 64)) [] (s.th.pc + 4))) ∧
   (∀ s d i, BaseAccepts s d →
     exec (.blea d i) s = .next (retired (baseDelivered s d (s.th.pc + 4 * i.signExtend 64)) [] (s.th.pc + 4))))

/-- R202: the layout and the results of LIH and ADDPC. A value's upper 21 bits by LIH and its lower 11 added give the value,
ADDPC reaches ±4 MiB, and BLEA forms the full address. -/
def Obligations.UpperImmediates : Prop :=
  (∀ (d : BitVec 5) (i : BitVec 21), decode ((8 : BitVec 6) ++ d ++ i) = some (.lih d i) ∧ decode ((9 : BitVec 6) ++ d ++ i) = some (.addpc d i)) ∧
  (∀ s d i, Accepts s d → exec (.lih d i) s = .next (retired (delivered s d (BitVec.ofNat 32 (i.toNat * 2 ^ 11))) [] (s.th.pc + 4))) ∧
  (∀ i : BitVec 21, ∀ k < 11, (BitVec.ofNat 32 (i.toNat * 2 ^ 11)).getLsbD k = false) ∧
  (∀ v : Word, BitVec.ofNat 32 ((v.extractLsb' 11 21).toNat * 2 ^ 11) + (v.extractLsb' 0 11).setWidth 32 = v) ∧
  (∀ s d i, Accepts s d → exec (.addpc d i) s =
    .next (retired (delivered s d (BitVec.ofInt 32 (s.th.pc.toNat + 4 * i.toInt))) [] (s.th.pc + 4))) ∧
  (∀ i : BitVec 21, -2 ^ 22 ≤ 4 * i.toInt ∧ 4 * i.toInt < 2 ^ 22) ∧
  (∀ s d i, BaseAccepts s d →
    exec (.blea d i) s = .next (retired (baseDelivered s d (s.th.pc + 4 * i.signExtend 64)) [] (s.th.pc + 4)))

/-- R184: every word of major 0x3E is a no-op. The PC advances, and nothing else of the thread, of memory or of the module
changes: the slot's own progress (an instruction it held) ends with it. The words of the rule's table decode, and trap, as it
says. -/
def Obligations.HintWords : Prop :=
  (∀ h : BitVec 26, decode ((0x3E : BitVec 6) ++ h) = some (.nop h) ∧ ∀ s, exec (.nop h) s = .next (retired s [] (s.th.pc + 4))) ∧
  decode 0xF8000000 = some (.nop 0) ∧
  (∀ w ∈ [(0x00000000 : Word), 0xFFFFFFFF, 0x04000006, 0xA24E2672], decode w = none ∧
    ∀ s, exec (.illegalInstr w) s = .next (takeTrap s { cause := .illegalInstr, tval := w.setWidth 64 })) ∧
  (∀ w ∈ [(0x06300220 : Word), 0x89A00000], decode w = none ∧
    ∀ s, exec (.illegalInstr w) s = .next (takeTrap s { cause := .illegalOperand, tval := w.setWidth 64 })) ∧
  decode 0x06300C00 = some (.add 17 16 1 1 0) ∧ decode 0x86034002 = some (.lw 16 3 2 0 2) ∧
  decode 0xA24E2070 = some (.amoadd 18 14 1 0 3 2 0) ∧ decode 0xA24E2072 = some (.redadd 18 14 1 0 3 2 0) ∧
  decode 0xF0000009 = some .halt ∧
  (∀ s, s.th.mode = .u → exec .halt s = .next (takeTrap s { cause := .privInstr, tval := s.th.ir.setWidth 64 }))

/-! ## Control flow -/

/-- The conditional branches (R206). A port named as a source pops whether or not the branch is taken. J and JB (R208). A
misaligned target traps at the JB. -/
def Obligations.BranchesAndJumps : Prop :=
  ((∀ s a b i x y, Source s a 0 x → Source s b (sameBefore a b) y →
     ∀ e ∈ branchForms, exec (e.1 a b i) s = .next (retired s [a, b] (branchTo s (e.2 x y) i))) ∧
   (∀ s a n i x, Source s a 0 x →
     exec (.bbs a n i) s = .next (retired s [a] (branchTo s (x.getLsbD n.toNat) i)) ∧
     exec (.bbc a n i) s = .next (retired s [a] (branchTo s (!x.getLsbD n.toNat) i)))) ∧
  ((∀ s i, exec (.j i) s = .next (retired s [] (s.th.pc + 4 * i.signExtend 64))) ∧
   (∀ s b t x, BaseSource s b x →
     (x.toNat % 4 = 0 → exec (.jb b t) s = .next (retired s [] x)) ∧
     (x.toNat % 4 ≠ 0 → exec (.jb b t) s = .next (takeTrap s { cause := .misaligned, tval := x }))))

/-- R207: LOOP. A count of 0 wraps and branches; the words that name `z` or a port are no instruction, and they trap. -/
def Obligations.LoopCounts : Prop :=
  ∀ (a : BitVec 5) (i : BitVec 13),
    (a ≠ 0 → isPort a = false → decode ((0x19 : BitVec 6) ++ a ++ (0 : BitVec 8) ++ i) = some (.loop a i) ∧
      ∀ s x, Source s a 0 x → Accepts s a →
        exec (.loop a i) s = .next (retired (delivered s a (x - 1)) [] (branchTo s (decide (x - 1 ≠ 0)) i))) ∧
    (a = 0 ∨ isPort a = true → decode ((0x19 : BitVec 6) ++ a ++ (0 : BitVec 8) ++ i) = none ∧
      ∀ s, exec (.illegalInstr ((0x19 : BitVec 6) ++ a ++ (0 : BitVec 8) ++ i)) s =
        .next (takeTrap s { cause := .illegalOperand, tval := ((0x19 : BitVec 6) ++ a ++ (0 : BitVec 8) ++ i).setWidth 64 }))

/-- CALL and CALLB with room in the ring (R97, R209): the window rotates by one frame, the caller's `k0` to `k3` are the
callee's `a0` to `a3`, the frame keeps its return PC and kind, and memory is unchanged. A call with four frames resident spills
the oldest first, 80 bytes at TH_WSPTR (R98, R99, R100): it waits for producers in flight to that frame, and traps where the
limits leave no room. RET (R98, R100, R209): it goes to the return PC of the frame. With an older frame resident the callee's
`a0` to `a3` are the caller's `k0` to `k3` again; with none resident the caller's frame is filled from the 80 bytes below
TH_WSPTR first, and traps where the limits are bad, or where the image has an uncorrectable error (log entry 59). With no older
frame at all it traps; an upcall frame is not its to leave. CALL and CALLB in a pluck handler are ILLEGAL_OPERAND (R389). That
TH_WSPTR moves by 80 wherever it points, also below TH_WSBASE, here and in WINDOW_FILL, and that RET waits for producers to `k0`
to `k3`, are the model's choice (log entry 77). The spiller in a bubble: WINDOW_SPILL and WINDOW_FILL (R98, R99): 80 bytes go to
TH_WSPTR, or a frame's registers come from the 80 bytes below it. -/
def Obligations.WindowRotations : Prop :=
  (∀ s, s.th.inpl = false → s.th.resident < 4 →
     (∀ i, ∃ t, exec (.call i) s = .next t ∧ t.th.pc = s.th.pc + 4 * i.signExtend 64 ∧ Called s t 0) ∧
     (∀ b z x, BaseSource s b x → x.toNat % 4 = 0 → ∃ t, exec (.callb b z) s = .next t ∧ t.th.pc = x ∧ Called s t 1)) ∧
  (∀ s j tgt kind, s.th.inpl = false → 4 ≤ s.th.resident →
     ((∃ i, j = Instr.call i ∧ tgt = s.th.pc + 4 * i.signExtend 64 ∧ kind = 0) ∨
      ∃ b z, j = Instr.callb b z ∧ BaseSource s b tgt ∧ tgt.toNat % 4 = 0 ∧ kind = 1) →
     (spillFits s.th = true → frameBusy s.th (oldestPos s.th) = false →
       ∃ t, exec j s = .next t ∧ t.th.pc = tgt ∧ t.th.wsptr = s.th.wsptr + 80 ∧ t.th.resident = s.th.resident ∧ t.th.cwp = s.th.cwp + 1 ∧
         topFrame t.th = { retPc := s.th.pc + 4, kind := kind } ∧
         t.mem = memPutNat s.mem (bank14Key s.myCore s.th.wsptr.toNat) 80 (frameImage s.th (oldestPos s.th)) ∧
         SameMemoryBut s t (bank14Key s.myCore s.th.wsptr.toNat) 80) ∧
     (spillFits s.th = true → frameBusy s.th (oldestPos s.th) = true → exec j s = .next (holdSlot s)) ∧
     (spillFits s.th = false →
       exec j s = .next (takeTrap s { cause := .windowOverflow, tval := s.th.wsptr.setWidth 64 }))) ∧
  ((∀ s, (topFrame s.th).kind ≠ 3 → frameBusy s.th s.th.cwp = false →
     (∀ i < 4, (lookD s.th.scal (16 * (s.th.cwp + 1).toNat + i) {}).busy = false) →
     (1 < s.th.resident →
       ∃ t, exec .ret s = .next t ∧ t.th.pc = (topFrame s.th).retPc ∧ t.th.cwp = s.th.cwp - 1 ∧
         t.th.resident = s.th.resident - 1 ∧ (∀ i : BitVec 5, i.toNat < 4 → t.th.scalar (28 + i) = s.th.scalar (8 + i)) ∧ t.mem = s.mem) ∧
     (s.th.resident = 1 → spilledExist s.th = true → windowBad s.th = false → frameBad s s.cur = false →
       ∃ t, exec .ret s = .next t ∧ t.th.pc = (topFrame s.th).retPc ∧ t.th.cwp = s.th.cwp - 1 ∧ t.th.resident = 1 ∧
         t.th.wsptr = s.th.wsptr - 80 ∧ t.mem = s.mem ∧ (∀ i : BitVec 5, i.toNat < 4 → t.th.scalar (28 + i) = s.th.scalar (8 + i)) ∧
         ∀ i < 16, (lookD t.th.scal (16 * (s.th.cwp - 1).toNat + i) {}).val =
           BitVec.ofNat 32 (memNat s.mem (bank14Key s.myCore (s.th.wsptr - 80).toNat + 4 * i) 4)) ∧
     (s.th.resident = 1 → spilledExist s.th = true → windowBad s.th = false → frameBad s s.cur = true →
       exec .ret s = .next (takeTrap s
         { cause := .memUncorrectable, tval := windowAddr s s.th.vi s.myCore (14 * 0x4000 + (s.th.wsptr - 80).toNat) })) ∧
     (s.th.resident = 1 → spilledExist s.th = true → windowBad s.th = true →
       exec .ret s = .next (takeTrap s { cause := .windowOverflow, tval := s.th.wsptr.setWidth 64 }))) ∧
   (∀ s, (topFrame s.th).kind ≠ 3 → s.th.resident ≤ 1 → spilledExist s.th = false →
     exec .ret s = .next (takeTrap s { cause := .windowUnderflow, tval := s.th.wsptr.setWidth 64 })) ∧
   (∀ s, (topFrame s.th).kind = 3 → exec .ret s = .next (takeTrap s { cause := .illegalOperand, tval := s.th.ir.setWidth 64 })) ∧
   (∀ s i b z, s.th.inpl = true → ∀ x ∈ [Instr.call i, .callb b z],
     exec x s = .next (takeTrap s { cause := .illegalOperand, tval := s.th.ir.setWidth 64 }))) ∧
  ((∀ s (n : BitVec 12), (s.thread n.toNat).present = true → (s.thread n.toNat).resident = 4 →
     spillFits (s.thread n.toNat) = true → frameBusy (s.thread n.toNat) (oldestPos (s.thread n.toNat)) = false →
     hasBubbles s (coreOf n.toNat) = true →
     ∃ t, exec (.windowSpill n) s = .next t ∧ (t.thread n.toNat).wsptr = (s.thread n.toNat).wsptr + 80 ∧
       (t.thread n.toNat).resident = 3 ∧
       SameMemoryBut s t (bank14Key (coreOf n.toNat) (s.thread n.toNat).wsptr.toNat) 80) ∧
   (∀ s (n : BitVec 12), (s.thread n.toNat).present = true → (s.thread n.toNat).resident = 1 →
     windowBad (s.thread n.toNat) = false → spilledExist (s.thread n.toNat) = true → frameBad s n.toNat = false →
     hasBubbles s (coreOf n.toNat) = true →
     ∃ t, exec (.windowFill n) s = .next t ∧ (t.thread n.toNat).wsptr = (s.thread n.toNat).wsptr - 80 ∧
       (t.thread n.toNat).resident = 2 ∧ t.mem = s.mem ∧
       ∀ i < 16, (lookD (t.thread n.toNat).scal (16 * ((s.thread n.toNat).cwp - 1).toNat + i) {}).val =
         BitVec.ofNat 32 (memNat s.mem (bank14Key (coreOf n.toNat) ((s.thread n.toNat).wsptr - 80).toNat + 4 * i) 4)))

/-! ## Scalar floating point -/

/-- The FP32 forms (R138, R139, R213 to R215): the rounded result in rd and its flags ORed into TH_FFLAGS. What fpAdd and the
other operations here round to, FloatRounding says. -/
def Obligations.FloatResults : Prop :=
  (∀ s d a b z t x y, Source s a 0 x → Source s b (sameBefore a b) y → Accepts s d →
    ∀ e ∈ floatForms, exec (e.1 d a b z t) s =
      .next (retired (raise (delivered s d (BitVec.ofNat 32 (e.2 (fpMode s) (fpSat s) x.toNat y.toNat).1))
        (e.2 (fpMode s) (fpSat s) x.toNat y.toNat).2) [a, b] (s.th.pc + 4))) ∧
  (∀ s d a b z t x y w, Source s a 0 x → Source s b (sameBefore a b) y → Source s d (sameBefore a d + sameBefore b d) w →
    Accepts s d → exec (.fma d a b z t) s =
      .next (retired (raise (delivered s d (BitVec.ofNat 32 (fpFma 11 (fpMode s) (fpSat s) x.toNat y.toNat w.toNat).1))
        (fpFma 11 (fpMode s) (fpSat s) x.toNat y.toNat w.toNat).2) [a, b, d] (s.th.pc + 4))) ∧
  (∀ s d a z x, Source s a 0 x → Accepts s d →
    exec (.fsqrt d a z) s =
      .next (retired (raise (delivered s d (BitVec.ofNat 32 (fpSqrt 11 (fpMode s) (fpSat s) x.toNat).1))
        (fpSqrt 11 (fpMode s) (fpSat s) x.toNat).2) [a] (s.th.pc + 4)) ∧
    exec (.fclass d a z) s = .next (retired (raise (delivered s d (BitVec.ofNat 32 (fpClass x.toNat))) {}) [a] (s.th.pc + 4)) ∧
    (∀ q r, exec (.fcvti d a z q r) s =
      .next (retired (raise (delivered s d (BitVec.ofNat 32 (encodeElem 1 (roundMode s r) (q == 1) (decodeElem 11 x.toNat).1).1))
        (encodeElem 1 (roundMode s r) (q == 1) (decodeElem 11 x.toNat).1).2) [a] (s.th.pc + 4))) ∧
    ∀ r, exec (.fcvtf d a z r) s =
      .next (retired (raise (delivered s d (BitVec.ofNat 32 (encodeElem 11 (roundMode s r) (fpSat s) (decodeElem 1 x.toNat).1).1))
        (encodeElem 11 (roundMode s r) (fpSat s) (decodeElem 1 x.toNat).1).2) [a] (s.th.pc + 4)))

/-! ## Loads and stores -/

/-- The loads of R222, and LDB (R205): the bytes that the access gives at scope `.L` are on their way to the destination, which
is empty until they arrive. That the value is the one of the issue, unless a turn performs the load later (the producer's
`late`), is the model's reading (log entry 10). LDA (R224): a narrow value is sign-extended, and the access is made at the
instruction's scope, at its issue (log entry 10, the model's reading); an acquire follows it. -/
def Obligations.LoadResults : Prop :=
  ((∀ s d x g z i, ∀ e ∈ loadForms, ∀ ea s1 l, Addressed s x g (i.toInt * e.2.1) ea → ea.toNat % e.2.1 = 0 →
     Unawaited s (destRefs s d e.2.2.1) → loadBytes s (me s) ea e.2.1 2 = .ok (s1, l) → Unawaited s1 (destRefs s1 d e.2.2.1) →
     exec (e.1 d x g z i) s =
       .next (retired (launched s1 { landings := toDest s1 d e.2.2.1 (e.2.2.2.1 l.toNat), late := lateLoad s1 ea e.2.1 e.2.2.2.2 }) [x]
         (s1.th.pc + 4))) ∧
   (∀ s (d : BitVec 3) x g z (i : BitVec 12) ea s1 l, Addressed s x g (i.toInt * 8) ea → ea.toNat % 8 = 0 →
     d ≠ 0 → Unawaited s [.base d.toNat] → loadBytes s (me s) ea 8 2 = .ok (s1, l) → Unawaited s1 [.base d.toNat] →
     exec (.ldb d x g z i) s =
       .next (retired (launched s1 { landings := [{ reg := .base d.toNat, value := l.setWidth 256 }], late := lateLoad s1 ea 8 0 }) [x]
         (s1.th.pc + 4))) ∧
   (∀ s x g z (i : BitVec 12) ea s1 l, Addressed s x g (i.toInt * 8) ea → ea.toNat % 8 = 0 →
     loadBytes s (me s) ea 8 2 = .ok (s1, l) →
       exec (.ldb 0 x g z i) s = .next (retired (launched s1 { landings := [], late := lateLoad s1 ea 8 0 }) [x] (s1.th.pc + 4)))) ∧
  (∀ s d x g z c r (w : BitVec 2) (f : BitVec 4) ea s1 l, Addressed s x g (f.toNat * 2 ^ w.toNat) ea →
     ea.toNat % 2 ^ w.toNat = 0 → Unawaited s (destRefs s d (w == 3)) →
     loadBytes s (me s) ea (2 ^ w.toNat) c.toNat = .ok (s1, l) → Unawaited s1 (destRefs s1 d (w == 3)) →
     exec (.lda d x g z c r w f) s =
       .next (retired (launched (acquireIf r s1) { landings := toDest s1 d (w == 3) (orderedValue w l.toNat) }) [x] (s1.th.pc + 4)))

/-- A load from a core's local store gives the bytes there, the lowest address least significant (R6, R93), and changes no
memory. It gives those of its issue: the model's reading (log entry 10), as is that atomics and full/empty instructions are
performed at issue. A relaxed AMO of one word in a core's local store (R232, R233): the old word is on its way to rd, the new
one stands in memory, and every other byte is unchanged. LDFE of a full word and STFE of an empty word in a core's local store
(R228): the load leaves the word empty, the store leaves it full with its value, and no other word's byte or bit changes. A load
of an empty word does not complete. -/
def Obligations.LocalStoreEffects : Prop :=
  (∀ s d x g z i c off, ∀ e ∈ loadForms, ∀ ea, Addressed s x g (i.toInt * e.2.1) ea → ea.toNat % e.2.1 = 0 →
     LocalAccess s ea c off e.2.1 → Unawaited s (destRefs s d e.2.2.1) →
     exec (e.1 d x g z i) s =
       .next (retired (launched (told s c off) {
         landings := toDest s d e.2.2.1 (e.2.2.2.1 (memNat s.mem (localKey c off) e.2.1)) })
         [x] (s.th.pc + 4))) ∧
  (∀ s d x g z c i off, ∀ e ∈ amoForms, ∀ ea v, Addressed s x g 0 ea → Source s d 0 v → ea.toNat % 4 = 0 →
     LocalAccess s ea i off 4 → Unawaited s (destRefs s d false) →
     ∃ t, exec (e.1 d x g z c 0 0) s = .next t ∧
       memNat t.mem (localKey i off) 4 = e.2.1 32 (memNat s.mem (localKey i off) 4) v.toNat % 2 ^ 32 ∧
       SameMemoryBut s t (localKey i off) 4 ∧ t.empty = s.empty ∧
       (d ≠ 0 → ∃ p ∈ t.th.producers, p.landings =
         [{ reg := .scalar (scalarPlace s.th.cwp d.toNat), value := BitVec.ofNat 256 (memNat s.mem (localKey i off) 4) }])) ∧
  ((∀ s d x g z c (f : BitVec 4) ea i off, Addressed s x g (f.toNat * 4) ea → ea.toNat % 4 = 0 → LocalAccess s ea i off 4 →
     Attempts s → Unawaited s (destRefs s d false) →
     (feFull s.empty (localKey i off / 4) = true → ∃ t, exec (.ldfe d x g z c 0 f) s = .next t ∧
       feFull t.empty (localKey i off / 4) = false ∧ (∀ w, w ≠ localKey i off / 4 → feFull t.empty w = feFull s.empty w) ∧
       t.mem = s.mem ∧ t.th.pc = s.th.pc + 4) ∧
     (feFull s.empty (localKey i off / 4) = false → ∃ t, exec (.ldfe d x g z c 0 f) s = .next t ∧ t.th.stalled = true ∧
       t.th.pc = s.th.pc ∧ t.mem = s.mem ∧ t.empty = s.empty)) ∧
   (∀ s d x g z c (f : BitVec 4) ea v i off, Addressed s x g (f.toNat * 4) ea → ea.toNat % 4 = 0 → LocalAccess s ea i off 4 →
     Attempts s → Source s d (sameBefore x d) v → feFull s.empty (localKey i off / 4) = false →
     ∃ t, exec (.stfe d x g z c 0 f) s = .next t ∧ feFull t.empty (localKey i off / 4) = true ∧
       (∀ w, w ≠ localKey i off / 4 → feFull t.empty w = feFull s.empty w) ∧
       memNat t.mem (localKey i off) 4 = v.toNat ∧ SameMemoryBut s t (localKey i off) 4 ∧ t.th.pc = s.th.pc + 4))

/-- A constant-window operand (R103, R203): an unbound window traps, a word past its end reads 0 and sets CWOOB, and another is
loaded at scope `.L`. -/
def Obligations.ConstantWindow : Prop :=
  ∀ s d a c w x, Source s a 0 x → ∀ e ∈ constantForms,
    ((lookD s.th.cwsize c.toNat 0).getLsbD 31 = false →
      exec (e.1 d a c w) s = .next (takeTrap s { cause := .paramUnbound, tval := c.setWidth 64 })) ∧
    ((lookD s.th.cwsize c.toNat 0).getLsbD 31 = true → (lookD s.th.cwsize c.toNat 0).toNat % 2 ^ 17 ≤ 4 * w.toNat →
      Accepts (s.setTh { s.th with cwoob := true }) d →
      exec (e.1 d a c w) s =
        .next (retired (delivered (s.setTh { s.th with cwoob := true }) d (e.2 x 0)) [a] (s.th.pc + 4))) ∧
    (∀ s1 l, (lookD s.th.cwsize c.toNat 0).getLsbD 31 = true → 4 * w.toNat < (lookD s.th.cwsize c.toNat 0).toNat % 2 ^ 17 →
      loadBytes s (me s) (lookD s.th.cwbase c.toNat 0 + BitVec.ofNat 64 (4 * w.toNat)) 4 2 = .ok (s1, l) → Accepts s1 d →
      exec (e.1 d a c w) s = .next (retired (delivered s1 d (e.2 x (BitVec.ofNat 32 l.toNat))) [a] (s1.th.pc + 4)))

/-- The stores of R222, STB (R205), STL (R224) and CZERO (R227) enter the store buffer (R223); a releasing STL does so once its
release has been made (R221, R385). That the release is made at issue, before the entry joins the buffer, is the model's reading
(log entry 72). The reductions (R235) enter the store buffer with their code, size, scope and order. -/
def Obligations.StoreResults : Prop :=
  ((∀ s d x g z i, ∀ e ∈ storeForms, ∀ ea v, Addressed s x g (i.toInt * e.2.1) ea → ea.toNat % e.2.1 = 0 →
     PairSource s d (sameBefore x d) e.2.2 v → StoreRoom s →
     exec (e.1 d x g z i) s = .next (retired (buffered s (plainEntry s ea e.2.1 v)) [x, d] (s.th.pc + 4))) ∧
   (∀ s d x g z (i : BitVec 12) ea v, Addressed s x g (i.toInt * 8) ea → ea.toNat % 8 = 0 → BaseSource s d v → StoreRoom s →
     exec (.stb d x g z i) s = .next (retired (buffered s (plainEntry s ea 8 v.toNat)) [x] (s.th.pc + 4))) ∧
   (∀ s d x g z c r (w : BitVec 2) (f : BitVec 4) ea v, Addressed s x g (f.toNat * 2 ^ w.toNat) ea → ea.toNat % 2 ^ w.toNat = 0 →
     PairSource s d (sameBefore x d) (w == 3) v → MayRelease s r → StoreRoom (ordered s r c.toNat) →
     exec (.stl d x g z c r w f) s =
       .next (retired (buffered (ordered s r c.toNat) { plainEntry s ea (2 ^ w.toNat) v with
         kind := .stl, scope := c, rel := r.getLsbD 1 }) [x, d] ((ordered s r c.toNat).th.pc + 4))) ∧
   (∀ s x g z (i : BitVec 10) ea, Addressed s x g (i.toInt * 64) ea → StoreRoom s →
     exec (.czero x g z i) s =
       .next (retired (buffered s { plainEntry s (ea &&& ~~~63) 64 0 with kind := .czero }) [x] (s.th.pc + 4)))) ∧
  ((∀ s d x g z c r p, ∀ e ∈ reductionForms, ∀ ea v, Addressed s x g 0 ea →
     ea.toNat % (if p == 1 then 8 else 4) = 0 → PairSource s d (sameBefore x d) (p == 1) v → MayRelease s r →
     StoreRoom (ordered s r c.toNat) →
     exec (e.1 d x g z c r p) s = .next (retired (buffered (ordered s r c.toNat) { plainEntry s ea (if p == 1 then 8 else 4) v with
       data := BitVec.ofNat 512 v, kind := .reduction e.2 (p == 1), scope := c, rel := r.getLsbD 1 }) [x, d]
       ((ordered s r c.toNat).th.pc + 4))) ∧
   (∀ s d x g z c r ea v, Addressed s x g 0 ea → ea.toNat % 4 = 0 → Source s d (sameBefore x d) v → MayRelease s r →
     StoreRoom (ordered s r c.toNat) →
     exec (.redfadd d x g z c r) s = .next (retired (buffered (ordered s r c.toNat) { plainEntry s ea 4 v.toNat with
       data := BitVec.ofNat 512 v.toNat, kind := .reduction 10 false, scope := c, rel := r.getLsbD 1 }) [x, d]
       ((ordered s r c.toNat).th.pc + 4))))

/-- A misaligned access traps with MISALIGNED and its address before it does anything (R218): the loads and stores, LDA and STL,
atomics and reductions, full/empty instructions, reservations and waits, and vector accesses with an active element. -/
def Obligations.MisalignedAccess : Prop :=
  ∀ s x g,
  (∀ d z i, ∀ e ∈ loadForms, ∀ ea, Addressed s x g (i.toInt * e.2.1) ea → ea.toNat % e.2.1 ≠ 0 → TrapsMisaligned s (e.1 d x g z i) ea) ∧
  (∀ d z i, ∀ e ∈ storeForms, ∀ ea v, Addressed s x g (i.toInt * e.2.1) ea → PairSource s d (sameBefore x d) e.2.2 v →
    ea.toNat % e.2.1 ≠ 0 → TrapsMisaligned s (e.1 d x g z i) ea) ∧
  (∀ (d : BitVec 3) z (i : BitVec 12) ea, Addressed s x g (i.toInt * 8) ea → ea.toNat % 8 ≠ 0 →
    TrapsMisaligned s (.ldb d x g z i) ea ∧ ∀ v, BaseSource s d v → TrapsMisaligned s (.stb d x g z i) ea) ∧
  (∀ d z c r (w : BitVec 2) (f : BitVec 4) ea, Addressed s x g (f.toNat * 2 ^ w.toNat) ea → ea.toNat % 2 ^ w.toNat ≠ 0 →
    TrapsMisaligned s (.lda d x g z c r w f) ea ∧ ∀ v, PairSource s d (sameBefore x d) (w == 3) v → TrapsMisaligned s (.stl d x g z c r w f) ea) ∧
  (∀ d z c r (p : BitVec 1) ea v, Addressed s x g 0 ea → ea.toNat % (if p == 1 then 8 else 4) ≠ 0 →
    (PairSource s d 0 (p == 1) v → (∀ e ∈ amoForms, TrapsMisaligned s (e.1 d x g z c r p) ea) ∧
      ∀ new, PairSource s (d + if p = 1 then 2 else 1) 0 (p == 1) new → TrapsMisaligned s (.amocas d x g z c r p) ea) ∧
    (PairSource s d (sameBefore x d) (p == 1) v → ∀ e ∈ reductionForms, TrapsMisaligned s (e.1 d x g z c r p) ea)) ∧
  (∀ d z c r ea v, Addressed s x g 0 ea → ea.toNat % 4 ≠ 0 →
    (Source s d 0 v → TrapsMisaligned s (.amofadd d x g z c r) ea) ∧ (Source s d (sameBefore x d) v → TrapsMisaligned s (.redfadd d x g z c r) ea)) ∧
  (∀ d z c r ea w0 w1 n0 n1, Addressed s x g 0 ea → PairSource s d 0 true w0 → PairSource s (d + 2) 0 true w1 →
    PairSource s (d + 4) 0 true n0 → PairSource s (d + 4 + 2) 0 true n1 → ea.toNat % 16 ≠ 0 → TrapsMisaligned s (.cswap d x g z c r) ea) ∧
  (∀ d z c r (f : BitVec 4) ea, Addressed s x g (f.toNat * 4) ea → ea.toNat % 4 ≠ 0 →
    (∀ j ∈ [Instr.ldfe d x g z c r f, .ldff d x g z c r f, .feget d x g z c r f, .lrw d x g z c r f], TrapsMisaligned s j ea) ∧
    ∀ v, Source s d (sameBefore x d) v →
      (∀ j ∈ [Instr.stfe d x g z c r f, .stff d x g z c r f, .sch d x g z c r f, .wakea d x g z c r f], TrapsMisaligned s j ea) ∧
      (s.th.wait = .idle → TrapsMisaligned s (.waita d x g z c r f) ea)) ∧
  (∀ v q (i : BitVec 6) ea, Addressed s x g (i.toInt * 32) ea → ea.toNat % 32 ≠ 0 → activeElements (s.th.predReg q) ≠ [] →
    ((s.th.vecReg v.toNat).busy = false → TrapsMisaligned s (.vld v g x q i) ea) ∧ ∀ d, VecSource s v.toNat d → TrapsMisaligned s (.vst v g x q i) ea) ∧
  (∀ v q (i : BitVec 6) stride b k, Source s x 0 stride → BaseSource s g b →
    (activeElements (s.th.predReg q)).find? (fun j => decide ((strideAddress b (i.toInt * 32) stride j).toNat % 4 ≠ 0)) = some k →
    TrapsMisaligned s (.vlds v g x q i) (strideAddress b (i.toInt * 32) stride k) ∧
    ∀ d, VecSource s v.toNat d → TrapsMisaligned s (.vsts v g x q i) (strideAddress b (i.toInt * 32) stride k)) ∧
  (∀ v (y : BitVec 5) q (i : BitVec 6) index b k, VecSource s y.toNat index → BaseSource s g b →
    (activeElements (s.th.predReg q)).find? (fun j => decide ((indexAddress b (i.toInt * 32) index j).toNat % 4 ≠ 0)) = some k →
    TrapsMisaligned s (.vgath v g y q i) (indexAddress b (i.toInt * 32) index k) ∧
    ∀ d, VecSource s v.toNat d → TrapsMisaligned s (.vscat v g y q i) (indexAddress b (i.toInt * 32) index k))

/-- The head of a store buffer drains into a core's local store (R6, R93, R223): its bytes are written, every other byte is
unchanged, and the entry leaves the buffer. What an ended thread held goes on after that, where this was its last store (R391).
A producer arrives (R104): its destination takes the value and becomes full, and it is no longer awaited. -/
def Obligations.ArrivalsAndDrains : Prop :=
  (∀ s (core : BitVec 9) e rest c off, (s.core core.toNat).buffer = e :: rest → e.kind = .plain → e.fixedAt = none →
     e.feBit = none → e.rel = false → e.away = none → e.cut = false → e.n ≤ 8 → e.mask = byteMask e.n →
     windowOff (s.viOf e.vi.toNat).lswin e.va = some (c * 2 ^ 18 + off) → c < 512 → off < 2 ^ 18 →
     localReach s (entryWho core.toNat e) c off = true → drainHeld s core.toNat = false →
     ∃ t, exec (.storeDrain core) s = .next (handLines t core.toNat) ∧ (t.core core.toNat).buffer = rest ∧
       (∀ i < e.n, memByte t.mem (localKey c off + i) = BitVec.ofNat 8 (e.data.toNat / 2 ^ (8 * i))) ∧
       SameMemoryBut s t (localKey c off) e.n ∧ t.empty = s.empty) ∧
  (∀ s (n : BitVec 12) k p, (s.thread n.toNat).producers[k]? = some p → p.ready = true → p.geom = none →
     ∃ t, exec (.producerArrival n k) s = .next t ∧
       (t.thread n.toNat).fflags = (s.thread n.toNat).fflags ||| p.flags ∧ SameMemory s t ∧
       (t.thread n.toNat).producers = (s.thread n.toNat).producers.take k ++ (s.thread n.toNat).producers.drop (k + 1) ∧
       ∀ place v, p.landings = [{ reg := .scalar place, value := v }] →
         lookD (t.thread n.toNat).scal place {} = { val := BitVec.ofNat 32 v.toNat, full := true, busy := false })

/-- PCLR, PSET, PTEST and PWAIT (R243) on a register with a presence bit: it is cleared, set, read or waited for; while a
producer will write the register, PCLR and PSET wait. `b0` has none: PCLR and PSET of it do nothing, PTEST gives 1, PWAIT goes
on. -/
def Obligations.PresenceInstructions : Prop :=
  (∀ s c i r, PresenceNames s c i r → Unawaited s [r] →
    exec (.pclr c i) s = .next (retired (s.setTh (setFull s.th r false)) [] (s.th.pc + 4)) ∧
    exec (.pset c i) s = .next (retired (s.setTh (setFull s.th r true)) [] (s.th.pc + 4))) ∧
  (∀ s, exec (.pclr 2 0) s = .next (retired s [] (s.th.pc + 4)) ∧ exec (.pset 2 0) s = .next (retired s [] (s.th.pc + 4)) ∧
    exec (.pwait 2 0) s = .next (retired s [] (s.th.pc + 4)) ∧
    ∀ d, Accepts s d → exec (.ptest d 2 0) s = .next (retired (delivered s d 1) [] (s.th.pc + 4))) ∧
  (∀ s c i r, PresenceNames s c i r → refBusy s.th r = true → ∀ x ∈ [Instr.pclr c i, .pset c i], exec x s = .next (holdSlot s)) ∧
  (∀ s d c i r, PresenceNames s c i r → Accepts s d →
    exec (.ptest d c i) s = .next (retired (delivered s d (if refFull s.th r then 1 else 0)) [] (s.th.pc + 4))) ∧
  (∀ s c i r, PresenceNames s c i r →
    (refFull s.th r = true → exec (.pwait c i) s = .next (retired s [] (s.th.pc + 4))) ∧
    (refFull s.th r = false → exec (.pwait c i) s = .next (holdSlot s)))

/-! ## Atomics, full/empty words, reservations -/

/-- The atomics (R51, R69, R232 to R234, R294): what the indivisible update at the place of R69 gives is on its way to the
destination, after the release of a releasing order. That the update is performed at the atomic's issue is the model's reading
(log entry 10). AMOFADD in a commutative range returns the partial's value and raises no flag. -/
def Obligations.AtomicResults : Prop :=
  (∀ s d x g z c r p, ∀ e ∈ amoForms, ∀ ea v s1 m, Addressed s x g 0 ea →
    PairSource s d 0 (p == 1) v → ea.toNat % (if p == 1 then 8 else 4) = 0 → Unawaited s (destRefs s d (p == 1)) →
    MayRelease s r →
    updateAt (ordered s r c.toNat) (me (ordered s r c.toNat)) ea (if p == 1 then 8 else 4) c.toNat
      { f := fun m => some (e.2.1 (if p == 1 then 64 else 32) m v % 2 ^ (if p == 1 then 64 else 32)),
        cr := e.2.2.map (fun o => (o, crFormats o (p == 1), v)) } = .ok (s1, m) →
    Unawaited s1 (destRefs s1 d (p == 1)) →
    exec (e.1 d x g z c r p) s = .next (retired (launched (acquireIf r s1) { landings := toDest s1 d (p == 1) m }) [x] (s1.th.pc + 4))) ∧
  (∀ s d x g z c r (p : BitVec 1) ea want new s1 m, Addressed s x g 0 ea → PairSource s d 0 (p == 1) want →
    PairSource s (d + if p = 1 then 2 else 1) 0 (p == 1) new → ea.toNat % (if p = 1 then 8 else 4) = 0 →
    Unawaited s (destRefs s d (p == 1)) → MayRelease s r →
    updateAt (ordered s r c.toNat) (me (ordered s r c.toNat)) ea (if p = 1 then 8 else 4) c.toNat
      { f := fun m => if m = want then some new else none } = .ok (s1, m) →
    Unawaited s1 (destRefs s1 d (p == 1)) →
    exec (.amocas d x g z c r p) s = .next (retired (launched (acquireIf r s1) { landings := toDest s1 d (p == 1) m }) [x] (s1.th.pc + 4))) ∧
  (∀ s d x g z c r ea v s1 m, Addressed s x g 0 ea → Source s d 0 v → ea.toNat % 4 = 0 → Unawaited s (destRefs s d false) →
    MayRelease s r →
    updateAt (ordered s r c.toNat) (me (ordered s r c.toNat)) ea 4 c.toNat
      { f := fun m => some (floatSum m v.toNat).1, cr := some (0, [1], v.toNat) } = .ok (s1, m) →
    Unawaited s1 (destRefs s1 d false) →
    ((∀ s2 pa, resolve s1 (me s1) .modify ea = .ok (s2, .own pa) → inCrange s1.module pa = none) →
      exec (.amofadd d x g z c r) s =
        .next (retired (launched (acquireIf r s1) {
          landings := toDest s1 d false (if isNaNCode 11 m then quieten 11 m else m), flags := (floatSum m v.toNat).2.word }) [x]
          (s1.th.pc + 4))) ∧
    (∀ s2 pa, resolve s1 (me s1) .modify ea = .ok (s2, .own pa) → (inCrange s1.module pa).isSome = true →
      exec (.amofadd d x g z c r) s = .next (retired (launched (acquireIf r s1) { landings := toDest s1 d false m }) [x] (s1.th.pc + 4)))) ∧
  (∀ s d x g z c r ea w0 w1 n0 n1 s1 m, Addressed s x g 0 ea → PairSource s d 0 true w0 → PairSource s (d + 2) 0 true w1 →
    PairSource s (d + 4) 0 true n0 → PairSource s (d + 4 + 2) 0 true n1 → ea.toNat % 16 = 0 →
    Unawaited s (destRefs s d true ++ destRefs s (d + 2) true) → MayRelease s r →
    updateAt (ordered s r c.toNat) (me (ordered s r c.toNat)) ea 16 c.toNat
      { f := cswapValue (w0 + 2 ^ 64 * w1) (n0 + 2 ^ 64 * n1) } = .ok (s1, m) →
    Unawaited s1 (destRefs s1 d true ++ destRefs s1 (d + 2) true) →
    exec (.cswap d x g z c r) s =
      .next (retired (launched (acquireIf r s1) { landings := toDest s1 d true (m % 2 ^ 64) ++ toDest s1 (d + 2) true (m / 2 ^ 64) }) [x]
        (s1.th.pc + 4)))

/-- Full/empty instructions whose attempt succeeds (R228), and FEGET. That the attempt is made at issue, in the word's place, is
the model's reading (log entry 10). FE_RETRY and FE_WAKE complete, and what they do. A gap ends: FE_RETRY completes for every
thread whose instruction is in its gap (R229). FE_WAKE completes for every change noted: it wakes the oldest LDFE and every LDFF
parked on the word where that has become full, the oldest STFE where it has become empty, and takes them from their place
(R231). -/
def Obligations.FullEmptyWords : Prop :=
  ((∀ s d x g z c r (f : BitVec 4) ea s1 old b, Addressed s x g (f.toNat * 4) ea → ea.toNat % 4 = 0 → Attempts s →
     Unawaited s (destRefs s d false) → Unawaited s1 (destRefs s1 d false) →
     (feAttempt s (me s) ea .modify c.toNat (fun full => if full then some (none, false) else none) = .ok (s1, some (old, b)) →
       exec (.ldfe d x g z c r f) s =
         .next (retired (launched (acquireIf r s1) { landings := toDest s1 d false old.toNat }) [x] (s1.th.pc + 4))) ∧
     (feAttempt s (me s) ea .read c.toNat (fun full => if full then some (none, true) else none) = .ok (s1, some (old, b)) →
       exec (.ldff d x g z c r f) s =
         .next (retired (launched (acquireIf r s1) { landings := toDest s1 d false old.toNat }) [x] (s1.th.pc + 4))) ∧
     (feAttempt s (me s) ea .read c.toNat (fun full => some (none, full)) = .ok (s1, some (old, b)) →
       exec (.feget d x g z c r f) s =
         .next (retired (launched (acquireIf r s1) { landings := toDest s1 d false b.toNat }) [x] (s1.th.pc + 4)))) ∧
   (∀ s d x g z c r (f : BitVec 4) ea v s1 old b, Addressed s x g (f.toNat * 4) ea → ea.toNat % 4 = 0 →
     Source s d (sameBefore x d) v → Attempts (ordered s r c.toNat) → MayRelease s r →
     (feAttempt (ordered s r c.toNat) (me (ordered s r c.toNat)) ea .modify c.toNat
         (fun full => if full then none else some (some v, true)) = .ok (s1, some (old, b)) →
       exec (.stfe d x g z c r f) s = .next (retired s1 [x, d] (s1.th.pc + 4))) ∧
     (feAttempt (ordered s r c.toNat) (me (ordered s r c.toNat)) ea .modify c.toNat (fun _ => some (some v, true)) =
         .ok (s1, some (old, b)) →
       exec (.stff d x g z c r f) s = .next (retired s1 [x, d] (s1.th.pc + 4))))) ∧
  ((∀ s (n : BitVec 12) k, (s.thread n.toNat).wait = .feGap k →
     exec (.feRetry n) s = .next (s.setThread n.toNat { s.thread n.toNat with wait := .feGo k })) ∧
   (∀ s place key full rest, s.changes = (place, key, full) :: rest →
     ∃ t, exec (.feWake place key) s = .next t ∧ t.changes = rest ∧ SameMemory s t ∧
       (∀ x ∈ parkedAt t (changePool place), x ∈ parkedAt s (changePool place)) ∧
       ∀ x, (parkedAt s (changePool place)).find? (fun y => y.key == key && y.bank == changeBank place &&
           y.kind == (if full then 0 else 1)) = some x →
         x ∉ parkedAt t (changePool place) ∧
         ∀ n, (s.thread x.thread).wait = .feParked n → (t.thread x.thread).wait = .feWoken n) ∧
   (∀ s place key rest x, s.changes = (place, key, true) :: rest → x ∈ parkedAt s (changePool place) → x.key = key →
     x.bank = changeBank place → x.kind = 2 →
     ∃ t, exec (.feWake place key) s = .next t ∧ x ∉ parkedAt t (changePool place) ∧
       ∀ n, (s.thread x.thread).wait = .feParked n → (t.thread x.thread).wait = .feWoken n))

/-- LRW, SCH and RSVX (R236 to R239): a fresh load-reserve joins the line's queue and waits behind its holder, or is granted a
line that nobody holds; a granted one reads and holds the line; with a reservation of another line it traps, and with LINK_FAULT
where its queue was lost with the link (R423). A store-conditional of a thread to which the line has been granted stores and
passes the line on; of another it traps. RSVX leaves the queue in which the thread awaits the line, or releases and passes on a
line it has been granted; without a place in a queue of the line it changes nothing. That a thread holds a line from its grant
on, and that RSVX acts on the line's queue wherever it stands, are the model's readings (log entry 16). -/
def Obligations.ReservationResults : Prop :=
  (∀ s d x g z c r (f : BitVec 4) ea s1 p place, Addressed s x g (f.toNat * 4) ea → ea.toNat % 4 = 0 →
    Unawaited s (destRefs s d false) → rsvPlace s ea .read c.toNat = .ok (s1, p, place) →
    (s1.th.rsv = .lost p.line → exec (.lrw d x g z c r f) s = .next (takeTrap (forgetLost s1) { cause := .linkFault, tval := ea })) ∧
    (∀ h, s1.th.rsv.vacant = true → s1.th.rsv ≠ .lost p.line → rsvRoom s1 place p.line = true → (rsvQueue s1 place p.line).holder = some h → h.1 ≠ s1.refOf s1.cur →
      ∃ t, exec (.lrw d x g z c r f) s = .next t ∧ t.th.rsv = .awaits place p.line ∧ t.th.stalled = true ∧ t.th.pc = s1.th.pc ∧
        (rsvQueue t place p.line).holder = some h ∧
        (rsvQueue t place p.line).waiters = (rsvQueue s1 place p.line).waiters ++ [s1.refOf s1.cur]) ∧
    (s1.th.rsv.vacant = false → s1.th.rsv ≠ .awaits place p.line →
      exec (.lrw d x g z c r f) s = .next (takeTrap s1 { cause := .reservationState, tval := ea })) ∧
    (∀ s2 s3 l, s2 = (if s1.th.rsv.vacant = true then grantNext (joined s1 place p.line) place p.line else s1) → s1.th.rsv ≠ .lost p.line →
      (s1.th.rsv.vacant = true → rsvRoom s1 place p.line = true ∧ (rsvQueue s1 place p.line).holder = none) →
      (s1.th.rsv.vacant = false → s1.th.rsv = .awaits place p.line) → granted s2 place p.line s2.cur = true →
      loadBytes (raiseClock s2 s2.myCore (rsvTime s2 place)) (me (raiseClock s2 s2.myCore (rsvTime s2 place))) ea 4 c.toNat = .ok (s3, l) →
      Unawaited s3 (destRefs s3 d false) →
      exec (.lrw d x g z c r f) s =
        .next (retired (launched (holding s3 place p.line) { landings := toDest s3 d false l.toNat }) [x] (s3.th.pc + 4)))) ∧
  (∀ s d x g z c r (f : BitVec 4) ea v s1 p place, Addressed s x g (f.toNat * 4) ea → ea.toNat % 4 = 0 →
    Source s d (sameBefore x d) v → rsvPlace s ea .modify c.toNat = .ok (s1, p, place) →
    (∀ s2, granted s1 place p.line s1.cur = true → StoresDrained s1 → dispatched s1 s1.cur = true →
      bufferTouches (released s1 c.toNat) (me (released s1 c.toNat)) ea p 4 = false →
      writeBytes (settleCore (released s1 c.toNat) s1.myCore) (me (settleCore (released s1 c.toNat) s1.myCore)) ea p 4 (v.setWidth 512)
        (byteMask 4) c.toNat false = .ok s2 →
      exec (.sch d x g z c r f) s = .next (retired (passOn s2 place p.line) [x, d] ((passOn s2 place p.line).th.pc + 4))) ∧
    (granted s1 place p.line s1.cur = false →
      exec (.sch d x g z c r f) s = .next (takeTrap s1 { cause := .reservationState, tval := ea }))) ∧
  (∀ s x g z c r (f : BitVec 4) ea s1 p at_, Addressed s x g (f.toNat * 4) ea →
    rsvPlace s ea .read c.toNat = .ok (s1, p, at_) →
    ((∀ q, s1.th.rsv ≠ .awaits q p.line ∧ s1.th.rsv ≠ .holds q p.line) →
      exec (.rsvx x g z c r f) s = .next (retired s1 [x] (s1.th.pc + 4))) ∧
    ∀ place, (s1.th.rsv = .awaits place p.line ∨ s1.th.rsv = .holds place p.line) →
      (granted s1 place p.line s1.cur = false →
        exec (.rsvx x g z c r f) s = .next (retired (leaveQueue s1 place p.line (s1.refOf s1.cur)) [x]
          ((leaveQueue s1 place p.line (s1.refOf s1.cur)).th.pc + 4))) ∧
      (granted s1 place p.line s1.cur = true → StoresDrained s1 → dispatched s1 s1.cur = true →
        exec (.rsvx x g z c r f) s = .next (retired (passOn (released s1 c.toNat) place p.line) [x]
          ((passOn (released s1 c.toNat) place p.line).th.pc + 4))))

/-- WAITA and WAKEA (R240, R241, R242): a word that differs answers 1, a deadline that the counter at the place has reached 2;
an equal word with the deadline to come registers the wait and the thread sleeps; where the place has no room it polls. WAKEA,
once the release it asks for is made, ends the waits of up to n waiters on the word, oldest first (n = 0: all), and counts them;
at scope `.S` the host is told of the word. An ended wait writes its code. The counter at a place is this module's but across
the link, where it stays within 32 ticks of it from 10 µs after the link is up (R2, R423); how far is a free value (log entry
83). RESERVATION_EXPIRY, WAITA_DEADLINE, WAITA_POLL and HOST_WAKE complete, and what they do: a hold that has reached its limit
ends and its line passes on (R238); a sleeping WAITA whose deadline the 64-bit pitch counter at its place has reached returns
code 2, and one that is not registered polls again (R241); the host wakes system-scope waiters on a word, all of them for a
count of 0 (R242). -/
def Obligations.AddressWaits : Prop :=
  ((∀ s d x g z c r (f : BitVec 4) ea want s1 p place s2 v, Addressed s x g (f.toNat * 4) ea → ea.toNat % 4 = 0 →
     Source s d (sameBefore x d) want → Unawaited s (destRefs s d false) → s.th.wait = .idle →
     rsvPlace s ea .read c.toNat = .ok (s1, p, place) → placeWord s1 ea p c.toNat = .ok (s2, v) →
     (v ≠ want → Accepts s2 d →
       exec (.waita d x g z c r f) s = .next (retired (delivered (acquireIf r s2) d 1) [x, d] (s2.th.pc + 4))) ∧
     (v = want → s2.th.waitdl ≠ 0 → s2.th.waitdl ≤ placeCounter s2 p → Accepts s2 d →
       exec (.waita d x g z c r f) s = .next (retired (delivered (acquireIf r s2) d 2) [x, d] (s2.th.pc + 4))) ∧
     (v = want → (s2.th.waitdl = 0 ∨ placeCounter s2 p < s2.th.waitdl) →
       (poolRoom (watchersAt s2 place) place p.key = true →
         ∃ t, exec (.waita d x g z c r f) s = .next t ∧ t.th.wait = .waitaAsleep ∧ t.th.stalled = true ∧
           { thread := s2.cur, key := p.key, kind := 3, sys := c == 4 : Sleeper } ∈ watchersAt t place) ∧
       (poolRoom (watchersAt s2 place) place p.key = false →
         ∃ t, exec (.waita d x g z c r f) s = .next t ∧ t.th.wait = .waitaPolling ∧ t.th.stalled = true))) ∧
   (∀ s d x g z c r (f : BitVec 4) code ea, s.th.wait = .waitaDone code → Addressed s x g (f.toNat * 4) ea → Accepts s d →
     exec (.waita d x g z c r f) s = .next (retired (delivered (acquireIf r s) d code) [x, d] (s.th.pc + 4))) ∧
   (∀ s p, (∀ k, p ≠ .peer k) → placeCounter s p = BitVec.ofNat 64 s.pitch) ∧
   (∀ s k, linkDown s.module = false → s.module.linkSince + 10000 ≤ s.pitch →
     ∃ d : Int, -32 ≤ d ∧ d ≤ 32 ∧ placeCounter s (.peer k) = BitVec.ofInt 64 (s.pitch + d)) ∧
   (∀ s d x g z c r (f : BitVec 4) ea n s1 p place s2, Addressed s x g (f.toNat * 4) ea → ea.toNat % 4 = 0 →
     Source s d (sameBefore x d) n → Unawaited s (destRefs s d false) → rsvPlace s ea .read c.toNat = .ok (s1, p, place) →
     MayRelease s1 r → s2 = ordered s1 r c.toNat → (∀ w ∈ wokenBy s2 place p.key n, w.thread ≠ s2.cur) → Accepts s2 d →
     ∃ t, exec (.wakea d x g z c r f) s =
         .next (retired (delivered t d (BitVec.ofNat 32 (wokenBy s2 place p.key n).length)) [x] (t.th.pc + 4)) ∧ t.mem = s2.mem ∧
       t.th.pc = s2.th.pc ∧ watchersAt t place = (watchersAt s2 place).filter (fun w => !(wokenBy s2 place p.key n).contains w) ∧
       (∀ w ∈ wokenBy s2 place p.key n, w.thread < 4096 → (t.thread w.thread).wait = .waitaDone 0) ∧
       (∀ u, (∀ w ∈ wokenBy s2 place p.key n, w.thread ≠ u) → t.thread u = s2.thread u) ∧
       t.bridge.notices = (if c = 4 then s2.bridge.notices ++ [p.key] else s2.bridge.notices))) ∧
  ((∀ s (n : BitVec 12) r p l, (s.refsOf n.toNat).find? (holdOver s) = some r → (s.byRef r).rsv = .holds p l ∨ (s.byRef r).rsv = .awaits p l →
     exec (.reservationExpiry n) s = .next (leaveQueue s p l r)) ∧
   (∀ s r p l, s.live r = true → ((leaveQueue s p l r).byRef r).rsv = .free ∧
     ∀ h, (rsvQueue (leaveQueue s p l r) p l).holder = some h → h.1 ≠ r) ∧
   (∀ s (n : BitVec 12), (s.thread n.toNat).wait = .waitaAsleep → (s.thread n.toNat).waitdl ≠ 0 →
     (s.thread n.toNat).waitdl ≤ (if sleepsAtPeer s n.toNat then peerCounter s else BitVec.ofNat 64 s.pitch) →
     ∃ t, exec (.waitaDeadline n) s = .next t ∧ (t.thread n.toNat).wait = .waitaDone 2 ∧ SameMemory s t) ∧
   (∀ s (n : BitVec 12), (s.thread n.toNat).wait = .waitaPolling →
     exec (.waitaPoll n) s = .next (s.setThread n.toNat { s.thread n.toNat with wait := .idle })) ∧
   (∀ s (pa : BitVec 64) (n : BitVec 32), ∃ t, exec (.hostWake pa n) s = .next t ∧ SameMemory s t ∧
     (n = 0 → ∀ w ∈ watchersAt t 0, ¬ (w.key = pa.toNat ∧ w.sys = true)) ∧
     ∀ w, (watchersAt s 0).find? (fun x => x.key == pa.toNat && x.sys) = some w → w.thread < 4096 →
       w ∉ watchersAt t 0 ∧ (t.thread w.thread).wait = .waitaDone 0))

/-! ## Line operations, fences and the store drain -/

/-- CFLUSH, CINVL and CPREF (R227): on a line of the module's own memory the copies they name are gone; on an address of the
local window they do nothing. CPREF completes at once, having fetched the line where it could. FENCE (R225) and SDRAIN (R226):
what they wait for, the release and the acquire a fence makes. CFLUSH carries the dirty bytes of the line home; CINVL drops a
clean cluster copy and keeps a dirty one. The right these operations need is Read by the model's choice (log entry 64), and
which lines a fence pushes is its reading (log entry 15). -/
def Obligations.LineAndFenceResults : Prop :=
  (∀ s x g z (i : BitVec 10) ea s1 c o, Addressed s x g (i.toInt * 64) ea →
    resolve s { me s with waiter := .lineOp s.cur } .read (ea &&& ~~~63) = .ok (s1, .localStore c o) →
    exec (.cflush x g z i) s = .next (retired s1 [x] (s1.th.pc + 4)) ∧
    exec (.cinvl x g z i) s = .next (retired s1 [x] (s1.th.pc + 4))) ∧
  (∀ s x g z (i : BitVec 10) ea s1 p, Addressed s x g (i.toInt * 64) ea →
    resolve s { me s with waiter := .lineOp s.cur } .read (ea &&& ~~~63) = .ok (s1, .own p) → (s1.core s1.myCore).buffer = [] →
    (∃ t, exec (.cflush x g z i) s = .next t ∧ look (t.core t.myCore).l1 (p / 64) = none ∧
      (∀ b < 16, look (t.core t.myCore).stash (16 * (p / 64) + b) = none) ∧ look (t.cluster t.myCluster).lines (p / 64) = none ∧
      ∀ l, look (s1.cluster s1.myCluster).lines (p / 64) = some l → (∀ b < 16, look (s1.core s1.myCore).stash (16 * (p / 64) + b) = none) →
        l.ctx = 0 → inCar s1.module (64 * (p / 64)) = false →
        t.mem = if l.dirty then memWrite s1.mem (64 * (p / 64)) 64 l.data (expandMask l.byteMask) else s1.mem) ∧
    (∃ t, exec (.cinvl x g z i) s = .next t ∧ look (t.core t.myCore).l1 (p / 64) = none ∧
      (∀ b < 16, look (t.core t.myCore).stash (16 * (p / 64) + b) = none) ∧
      ((∀ b < 16, look (s1.core s1.myCore).stash (16 * (p / 64) + b) = none) →
        t.mem = s1.mem ∧ look (t.cluster t.myCluster).lines (p / 64) =
          (look (s1.cluster s1.myCluster).lines (p / 64)).filter (fun l => l.dirty)))) ∧
  (∀ s x g z (i : BitVec 10) ea, Addressed s x g (i.toInt * 64) ea →
    exec (.cpref x g z i) s = .next (retired (prefetch s s.cur (ea &&& ~~~63) true) [x]
      ((prefetch s s.cur (ea &&& ~~~63) true).th.pc + 4)) ∧
    (∀ s1 p s2 l, resolve s { me s with waiter := .prefetch s.cur (ea &&& ~~~63) } .read (ea &&& ~~~63) = .ok (s1, .own p) →
      l1Read s1 s.myCore (sealOf s1 s.cur) (p / 64) = .ok (s2, l) → prefetch s s.cur (ea &&& ~~~63) true = s2)) ∧
  (∀ s (k : BitVec 4) c, dispatched s s.cur = true →
    (k.toNat % 4 = 0 → exec (.fence k c) s =
      .next (retired (if k.toNat < 4 then performLoads s else acquire (performLoads s)) [] (s.th.pc + 4))) ∧
    (k.toNat % 4 ≠ 0 → StoresDrained s → exec (.fence k c) s =
      .next (retired (if k.toNat < 4 then released s c.toNat else acquire (released s c.toNat)) [] ((released s c.toNat).th.pc + 4)))) ∧
  (∀ s, (StoresDrained s → exec .sdrain s = .next (retired s [] (s.th.pc + 4))) ∧
    (¬ StoresDrained s → exec .sdrain s = .next (holdSlot s)))

/-! ## Traps and returns -/

/-- The service traps (R313): SVC and MCALL restart after the instruction, BRK at it; MCALL below S mode is PRIV_INSTR. What a
word that is no instruction does (R183): ILLEGAL_INSTR where no instruction has its code, PRIV_INSTR where the mode is too low
for the one that has, ILLEGAL_OPERAND otherwise, with the word in TH_TVAL. The instructions of S mode trap with PRIV_INSTR in U
mode, with the instruction word, and have no other effect (R182, R315). -/
def Obligations.TrappingInstructions : Prop :=
  ((∀ s n, s.th.mode ≠ .m → protectedThread s s.cur = false →
     exec (.svc n) s = .next (enterExecutive (abandon s s.cur) s.cur (s.th.pc + 4)
       { cause := .svcCall, tval := s.th.ir.setWidth 64, code := n, next := true } false) ∧
     exec (.brk n) s = .next (enterExecutive (abandon s s.cur) s.cur s.th.pc
       { cause := .breakpoint, tval := s.th.ir.setWidth 64, code := n } false)) ∧
   (∀ s n, s.th.mode ≠ .u →
     exec (.mcall n) s = .next (enterMonitor (abandon s s.cur) s.cur (s.th.pc + 4)
       { cause := .monitorCall, tval := s.th.ir.setWidth 64, code := n, next := true }))) ∧
  (∀ s (w : Word),
     (names w.toNat = false → exec (.illegalInstr w) s = .next (takeTrap s { cause := .illegalInstr, tval := w.setWidth 64 })) ∧
     (names w.toNat = true → s.th.mode.code.toNat < lowestMode w →
       exec (.illegalInstr w) s = .next (takeTrap s { cause := .privInstr, tval := w.setWidth 64 })) ∧
     (names w.toNat = true → lowestMode w ≤ s.th.mode.code.toNat →
       exec (.illegalInstr w) s = .next (takeTrap s { cause := .illegalOperand, tval := w.setWidth 64 }))) ∧
  (∀ s, s.th.mode = .u → ∀ d a b g n,
     ∀ i ∈ [Instr.mcall n, .xret, .halt, .tlbinvPg a g, .tlbinvAs a, .tlbinvAll, .rput d a b,
         .sysrd d 0x008, .syswr a 0x008, .sysset d a 0x008, .sysrd d 0xC00, .syswr a 0x020],
       exec i s = .next (takeTrap s { cause := .privInstr, tval := s.th.ir.setWidth 64 }))

/-- Taking a trap in the executive (R376, R377): TH_EPC takes the restart point, TH_CAUSE the cause, the mode and PLEN, TH_TVAL
the value; the thread goes on in S mode without plucks at VI_TVEC. Its other registers keep their values. Taking a trap in the
monitor (R377): MN_EPC, MN_CAUSE and MN_TVAL of the slot; TH_EPC, TH_CAUSE and TH_TVAL keep their values. That each slot has an
MN_EPC, MN_CAUSE and MN_TVAL of its own is the model's reading (log entry 33). -/
def Obligations.HandlerEntry : Prop :=
  (∀ s t restart r upf, (enterExecutive s t restart r upf).thread t =
     { s.thread t with
       epc := restart, tval := r.tval, mode := .s, plen := false, pc := (s.viOf (s.thread t).vi.toNat).tvec,
       cause := (s.thread t).mode.code ++ bit (s.thread t).plen ++ bit r.posted ++ bit upf ++ (0 : BitVec 3) ++ r.code ++
         (0 : BitVec 6) ++ r.cause.code } ∧
     SameMemory s (enterExecutive s t restart r upf) ∧ ∀ u, u ≠ t → (enterExecutive s t restart r upf).thread u = s.thread u) ∧
  (∀ s t restart r upf, (enterMonitor s t restart r upf).thread t =
       { s.thread t with mode := .m, plen := false, pc := (s.core (coreOf t)).mnvec } ∧
     lookD ((enterMonitor s t restart r upf).core (coreOf t)).mnepc (slotOf t) 0 = restart ∧
     lookD ((enterMonitor s t restart r upf).core (coreOf t)).mntval (slotOf t) 0 = r.tval ∧
     (lookD ((enterMonitor s t restart r upf).core (coreOf t)).mncause (slotOf t) 0).toNat % 64 = r.cause.code.toNat ∧
     (lookD ((enterMonitor s t restart r upf).core (coreOf t)).mncause (slotOf t) 0).toNat / 2 ^ 30 = (s.thread t).mode.code.toNat ∧
     SameMemory s (enterMonitor s t restart r upf))

/-- XRET (R313, R377): from S mode to TH_EPC in the mode of TH_CAUSE, not above S; from M mode to the slot's MN_EPC in the mode
of MN_CAUSE. PLEN comes back with it, and memory is unchanged. A thread whose block has been ended ends with it (R391), and so
does the monitor's entry for a refused restore (R419). That the monitor has an MN_EPC, MN_CAUSE and MN_TVAL for each slot is the
model's reading (log entry 33), as is that registers kept back for the executive come back with U mode (log entry 79). UPRET and
PLRET (R313, R380, R389): UPRET goes to `a2` ‖ `a1`, restores `k0` to `k3` of the interrupted frame from `w8` to `w11` and
rotates back, its caller's frame filled first where it is spilled; a misaligned address, bad limits, an image with an
uncorrectable error (log entry 59) and the lack of an older frame trap. PLRET restores `w8` to `w11` and goes to TH_PLPC.
Outside an upcall frame, or a pluck, they are ILLEGAL_OPERAND. -/
def Obligations.HandlerReturns : Prop :=
  ((∀ s, s.th.mode = .s → s.th.ends = false → s.th.refusal = false →
     ∃ t, exec .xret s = .next t ∧ t.th.pc = s.th.epc ∧ t.th.mode = (if s.th.cause.toNat / 2 ^ 30 = 0 then .u else .s) ∧
       t.th.plen = s.th.cause.getLsbD 29 ∧ t.th.scal = (if s.th.cause.toNat / 2 ^ 30 = 0 then s.th.unveil.scal else s.th.scal) ∧ t.th.epc = s.th.epc ∧ SameMemory s t) ∧
   (∀ s, s.th.mode ≠ .u → s.th.ends = true ∨ s.th.refusal = true → exec .xret s = .next (emptySlot s s.cur)) ∧
   (∀ s, s.th.mode = .m → s.th.ends = false → s.th.refusal = false →
     ∃ t, exec .xret s = .next t ∧ t.th.pc = lookD (s.core s.myCore).mnepc (slotOf s.cur) 0 ∧
       t.th.mode = Mode.ofCode (BitVec.ofNat 2 ((lookD (s.core s.myCore).mncause (slotOf s.cur) 0).toNat / 2 ^ 30)) ∧
       t.th.plen = (lookD (s.core s.myCore).mncause (slotOf s.cur) 0).getLsbD 29 ∧ SameMemory s t)) ∧
  ((∀ s lo hi, s.th.inpl = false → (topFrame s.th).kind = 3 → Source s 9 0 lo → Source s 10 0 hi → lo.toNat % 4 = 0 →
     1 < s.th.resident → frameBusy s.th s.th.cwp = false →
     (∀ i < 4, (lookD s.th.scal (16 * (s.th.cwp + 1).toNat + i) {}).busy = false) →
     ∃ t, exec .upret s = .next t ∧ t.th.pc = hi ++ lo ∧ t.th.cwp = s.th.cwp - 1 ∧ t.th.inup = false ∧
       (∀ i : BitVec 5, i.toNat < 4 → t.th.scalar (28 + i) = s.th.scalar (20 + i)) ∧ SameMemory s t) ∧
   (∀ s lo hi, s.th.inpl = false → (topFrame s.th).kind = 3 → Source s 9 0 lo → Source s 10 0 hi →
     (lo.toNat % 4 ≠ 0 → exec .upret s = .next (takeTrap s { cause := .misaligned, tval := hi ++ lo })) ∧
     (lo.toNat % 4 = 0 → s.th.resident ≤ 1 → spilledExist s.th = false →
       exec .upret s = .next (takeTrap s { cause := .windowUnderflow, tval := s.th.wsptr.setWidth 64 })) ∧
     (lo.toNat % 4 = 0 → s.th.resident = 1 → spilledExist s.th = true → windowBad s.th = true →
       exec .upret s = .next (takeTrap s { cause := .windowOverflow, tval := s.th.wsptr.setWidth 64 })) ∧
     (lo.toNat % 4 = 0 → s.th.resident = 1 → spilledExist s.th = true → windowBad s.th = false → frameBusy s.th s.th.cwp = false →
       (∀ i < 4, (lookD s.th.scal (16 * (s.th.cwp + 1).toNat + i) {}).busy = false) →
       (frameBad s s.cur = true → exec .upret s = .next (takeTrap s
         { cause := .memUncorrectable, tval := windowAddr s s.th.vi s.myCore (14 * 0x4000 + (s.th.wsptr - 80).toNat) })) ∧
       (frameBad s s.cur = false →
         ∃ t, exec .upret s = .next t ∧ t.th.pc = hi ++ lo ∧ t.th.cwp = s.th.cwp - 1 ∧ t.th.resident = 1 ∧
           t.th.wsptr = s.th.wsptr - 80 ∧ t.th.inup = false ∧ SameMemory s t ∧
           (∀ i : BitVec 5, i.toNat < 4 → t.th.scalar (28 + i) = s.th.scalar (20 + i)) ∧
           ∀ i < 16, (lookD t.th.scal (16 * (s.th.cwp - 1).toNat + i) {}).val =
             BitVec.ofNat 32 (memNat s.mem (bank14Key s.myCore (s.th.wsptr - 80).toNat + 4 * i) 4)))) ∧
   (∀ s, s.th.inpl = true → anyBusy s.th (w8Places s.th) = false → s.th.shadow.length = 4 →
     ∃ t, exec .plret s = .next t ∧ t.th.pc = s.th.plpc ∧ t.th.inpl = false ∧
       (∀ i : BitVec 5, i.toNat < 4 → s.th.shadow[i.toNat]? = some (t.th.scalar (20 + i))) ∧ SameMemory s t) ∧
   (∀ s, (s.th.inpl = true ∨ (topFrame s.th).kind ≠ 3) → exec .upret s = .next (takeTrap s { cause := .illegalOperand, tval := s.th.ir.setWidth 64 })) ∧
   (∀ s, s.th.inpl = false → exec .plret s = .next (takeTrap s { cause := .illegalOperand, tval := s.th.ir.setWidth 64 })))

/-- What is taken at an issue boundary (R384, R389, R390): the store faults of a thread, a posted cause, a pluck; and a machine
check. Which of them a boundary takes first is log entry 4; that a machine check is taken at any issue boundary of a slot that
has issue cycles, with the slot's PC in MN_EPC, is the model's reading (log entry 34). HALT and SLOT_RESUME (R314). -/
def Obligations.BoundariesAndHalts : Prop :=
  ((∀ s (n : BitVec 12), slotRuns s n.toNat = true → boundary s n.toNat = .storeFault → protectedThread s n.toNat = false →
     ∃ t, exec (.storeFaultDelivery n) s = .next t ∧ (t.thread n.toNat).mode = .s ∧ (t.thread n.toNat).epc = (s.thread n.toNat).pc ∧
       (t.thread n.toNat).cause.toNat % 64 = 0x15 ∧ (t.thread n.toNat).tval = ((recordsOf s n.toNat).head?.map (·.va)).getD 0 ∧
       recordsOf t n.toNat = []) ∧
   (∀ s (n : BitVec 12) p, slotRuns s n.toNat = true → boundary s n.toNat = .posted p → protectedThread s n.toNat = false → p.cause.toMonitor = false →
     ∃ t, exec (.postedCauseDelivery n) s = .next t ∧ (t.thread n.toNat).mode = .s ∧
       (t.thread n.toNat).epc = p.restart.getD (s.thread n.toNat).pc ∧
       (t.thread n.toNat).cause.toNat % 64 = p.cause.code.toNat ∧ (t.thread n.toNat).tval = p.tval ∧
       (t.thread n.toNat).posted = (s.thread n.toNat).posted.erase p ∧ SameMemory s t) ∧
   (∀ s (n : BitVec 12), slotRuns s n.toNat = true → boundary s n.toNat = .pluck →
     ∃ t, exec (.pluckDelivery n) s = .next t ∧ (t.thread n.toNat).pc = (s.thread n.toNat).plvec ∧
       (t.thread n.toNat).plpc = (s.thread n.toNat).pc ∧ (t.thread n.toNat).inpl = true ∧
       (t.thread n.toNat).shadow = (w8Places (s.thread n.toNat)).map (fun p => lookD (s.thread n.toNat).scal p {}) ∧
       (t.thread n.toNat).mode = (s.thread n.toNat).mode ∧ SameMemory s t) ∧
   (∀ s (n : BitVec 12) k e, slotRuns s n.toNat = true → (s.thread n.toNat).wait.underway = false → (s.thread n.toNat).stops = false →
     drainOver s n.toNat = false →
     ∃ t, exec (.machineCheck n k e) s = .next t ∧ (t.thread n.toNat).mode = .m ∧
       (t.thread n.toNat).pc = (s.core (coreOf n.toNat)).mnvec ∧
       lookD (t.core (coreOf n.toNat)).mnepc (slotOf n.toNat) 0 = (s.thread n.toNat).pc ∧
       (lookD (t.core (coreOf n.toNat)).mncause (slotOf n.toNat) 0).toNat % 64 = 0x3A ∧
       lookD (t.core (coreOf n.toNat)).mntval (slotOf n.toNat) 0 = BitVec.ofNat 64 (k.toNat * 256 + e.toNat))) ∧
  ((∀ s, s.th.mode ≠ .u → ∃ t, exec .halt s = .next t ∧ t.th = { s.th with pc := s.th.pc + 4, stalled := false, wait := .idle, halted := true } ∧
     (∀ u, u ≠ s.cur → t.thread u = s.thread u) ∧ SameMemory s t) ∧
   (∀ s (core : BitVec 9) mask, ∃ t, exec (.slotResume core mask) s = .next t ∧ SameMemory s t ∧
     (∀ i < 8, (t.thread (core.toNat * 8 + i)).halted = ((s.thread (core.toNat * 8 + i)).halted && !mask.getLsbD i)) ∧
     ∀ u, u / 8 ≠ core.toNat → t.thread u = s.thread u))

/-! ## System registers -/

/-- SYSRD, SYSWR, SYSSET and SYSCLR of a 32-bit register (R315): a read gives its value; a write takes the operand under the
register's field access; set and clear return the old value and change RW fields. A 64-bit register (R316): a write of its even
number is staged, a write of its odd number writes all 64 bits. Each half of a 64-bit register is read, set and cleared at once,
without the staged word, and an odd write with no even word of that register staged changes the high half alone: the low half of
its RW fields is written back, and no bit of another kind (R316). CO_SPMAP_DATA is accessed as another register is, and then its
selection advances once (R23). An unknown number, and a write of a register that no instruction writes, are ILLEGAL_OPERAND
(R315, R317, R318); that SYSSET and SYSCLR of such a register are so before any mode is looked at is the model's reading (log
entry 47). An access below the register's right to read, or to write, is PRIV_INSTR. Registers of the thread keep what is
written to their RW fields, with the fixed bits at 0: the trap and vector registers (R376, R379, R388), the window-stack
registers (R100), TH_FERETRY, TH_RSVHOLD, TH_WAITDL and TH_SENDLIM. -/
def Obligations.SystemRegisterResults : Prop :=
  (∀ s (n : BitVec 12) r, sysReg n.toNat = some r → r.wide = false → r.base ≠ 0x149 → s.th.mode.covers r.read = true →
     (∀ d, Accepts s d → exec (.sysrd d n) s =
       .next (retired (delivered s d (BitVec.ofNat 32 (sysValue s s.cur r.base).toNat)) [] (s.th.pc + 4))) ∧
     ∀ low, r.write = some low → s.th.mode.covers low = true → ∀ a x, Source s a 0 x →
       (exec (.syswr a n) s = .next (retired (sysWrite s s.cur r.base (x.setWidth 64)) [a]
         ((sysWrite s s.cur r.base (x.setWidth 64)).th.pc + 4))) ∧
       ∀ d, Accepts s d →
         ∀ e ∈ [(Instr.sysset d a n, BitVec.ofNat 32 (sysValue s s.cur r.base).toNat ||| x),
                (Instr.sysclr d a n, BitVec.ofNat 32 (sysValue s s.cur r.base).toNat &&& ~~~x)],
           ∃ t v, exec e.1 s = .next (retired t [a] (t.th.pc + 4)) ∧
             t = sysWrite (delivered s d (BitVec.ofNat 32 (sysValue s s.cur r.base).toNat)) s.cur r.base v ∧
             v.setWidth 32 = e.2 &&& r.rw.setWidth 32) ∧
  (∀ s (n : BitVec 12) r low a x, sysReg n.toNat = some r → r.wide = true → r.base ≠ 0x149 → r.write = some low → s.th.mode.covers low = true →
     Source s a 0 x →
     (n.toNat = r.base → exec (.syswr a n) s = .next (retired (s.setTh { s.th with staged := some (n, x) }) [a] (s.th.pc + 4))) ∧
     (∀ m lo, n.toNat = r.base + 1 → s.th.staged = some (m, lo) → m.toNat = r.base →
       exec (.syswr a n) s = .next (retired (sysWrite (s.setTh { s.th with staged := none }) s.cur r.base (x ++ lo)) [a]
         ((sysWrite (s.setTh { s.th with staged := none }) s.cur r.base (x ++ lo)).th.pc + 4)))) ∧
  ((∀ s (n : BitVec 12) r (half : Word), sysReg n.toNat = some r → r.wide = true → r.base ≠ 0x149 → s.th.mode.covers r.read = true →
     half = (if n.toNat = r.base then (sysValue s s.cur r.base).setWidth 32 else (sysValue s s.cur r.base).extractLsb' 32 32) →
     (∀ d, Accepts s d → exec (.sysrd d n) s = .next (retired (delivered s d half) [] (s.th.pc + 4))) ∧
     ∀ low, r.write = some low → s.th.mode.covers low = true → ∀ a x d, Source s a 0 x → Accepts s d →
       ∀ e ∈ [(Instr.sysset d a n, half ||| x), (Instr.sysclr d a n, half &&& ~~~x)],
         ∃ t, exec e.1 s = .next (retired t [a] (t.th.pc + 4)) ∧ t = sysWrite (delivered s d half) s.cur r.base
           ((if n.toNat = r.base then (sysValue s s.cur r.base).extractLsb' 32 32 ++ e.2
             else e.2 ++ (sysValue s s.cur r.base).setWidth 32) &&& r.rw)) ∧
   (∀ s (n : BitVec 12) r low a x, sysReg n.toNat = some r → r.wide = true → r.base ≠ 0x149 → r.write = some low →
     s.th.mode.covers low = true → Source s a 0 x → n.toNat = r.base + 1 → (∀ m lo, s.th.staged = some (m, lo) → m.toNat ≠ r.base) →
     exec (.syswr a n) s = .next (retired (sysWrite s s.cur r.base (x ++ (sysValue s s.cur r.base &&& r.rw).setWidth 32)) [a]
       ((sysWrite s s.cur r.base (x ++ (sysValue s s.cur r.base &&& r.rw).setWidth 32)).th.pc + 4))) ∧
   (∀ s, s.th.mode ≠ .u → ∀ old, old = BitVec.ofNat 32 (sysValue s s.cur 0x149).toNat →
     (∀ d, Accepts s d → exec (.sysrd d 0x149) s = .next (retired (spAdvance (delivered s d old) s.myCore) [] (s.th.pc + 4))) ∧
     ∀ a x, Source s a 0 x →
       exec (.syswr a 0x149) s = .next (retired (spAdvance (sysWrite s s.cur 0x149 (x.setWidth 64)) s.myCore) [a] (s.th.pc + 4)) ∧
       ∀ d, Accepts s d → ∀ e ∈ [(Instr.sysset d a 0x149, old ||| x), (.sysclr d a 0x149, old &&& ~~~x)],
         exec e.1 s = .next (retired (spAdvance (sysWrite (delivered s d old) s.cur 0x149 (e.2.setWidth 64)) s.myCore) [a] (s.th.pc + 4))) ∧
   (∀ s core, (s.core core).spsel.getLsbD 31 = true → ∃ sel, spAdvance s core = s.setCore core { s.core core with spsel := sel } ∧
     sel.toNat / 128 = (s.core core).spsel.toNat / 128 ∧ sel.toNat % 128 = ((s.core core).spsel.toNat % 128 + 1) % 128)) ∧
  (∀ s d a (n : BitVec 12),
     (sysReg n.toNat = none → ∀ i ∈ [Instr.sysrd d n, .syswr a n, .sysset d a n, .sysclr d a n],
       exec i s = .next (takeTrap s { cause := .illegalOperand, tval := s.th.ir.setWidth 64 })) ∧
     (∀ r, sysReg n.toNat = some r → r.write = none → ∀ i ∈ [Instr.syswr a n, .sysset d a n, .sysclr d a n],
       exec i s = .next (takeTrap s { cause := .illegalOperand, tval := s.th.ir.setWidth 64 })) ∧
     (∀ r, sysReg n.toNat = some r →
       (s.th.mode.covers r.read = false →
         exec (.sysrd d n) s = .next (takeTrap s { cause := .privInstr, tval := s.th.ir.setWidth 64 })) ∧
       ∀ low, r.write = some low →
         (s.th.mode.covers low = false →
           exec (.syswr a n) s = .next (takeTrap s { cause := .privInstr, tval := s.th.ir.setWidth 64 })) ∧
         (s.th.mode.covers r.read = false ∨ s.th.mode.covers low = false → ∀ i ∈ [Instr.sysset d a n, .sysclr d a n],
           exec i s = .next (takeTrap s { cause := .privInstr, tval := s.th.ir.setWidth 64 })))) ∧
  (∀ th t (v : DWord), ∀ e ∈ [(0x008, (0xFFFFFFFFFFFFFFFC : DWord)), (0x00A, 0xF8FFF03F), (0x00C, 0xFFFFFFFFFFFFFFFF), (0x00E, 0xFFFFFFFFFFFFFFFD),
       (0x010, 0xFFFFFFFFFFFFFFFC), (0x012, 0xFFFFFFFFFFFFFFFC), (0x020, 0x7FFF), (0x021, 0x7FFF), (0x022, 0x7FFF),
       (0x060, 0xFFFFFF), (0x061, 0xFFFFF), (0x062, 0xFFFFFFFFFFFFFFFF), (0x064, 0xFFFFF)],
     thValue (thWrite th e.1 v) t e.1 = some (v &&& e.2))

/-- TLBINV (R320): once no store they have translated is on its way, the entries it names are dropped at every level of the
module, and no other. -/
def Obligations.TranslationInvalidates : Prop :=
  ∀ s, s.th.mode ≠ .u →
    (storesAway s (fun _ => true) = false →
      ∃ t, exec .tlbinvAll s = .next t ∧ (∀ c, (t.core c).tlb = []) ∧ (∀ k, (t.cluster k).tlb = []) ∧ t.bridge.tlb = [] ∧
        t.th.pc = s.th.pc + 4) ∧
    (∀ a x, Source s a 0 x → x.toNat < 2 ^ 20 →
      (storesAway s (fun e => e.pasid == x.setWidth 20) = false →
        ∃ t, exec (.tlbinvAs a) s = .next t ∧ (∀ c, (t.core c).tlb = (s.core c).tlb.filter (fun e => e.pasid != x.setWidth 20)) ∧
          (∀ k, (t.cluster k).tlb = (s.cluster k).tlb.filter (fun e => e.pasid != x.setWidth 20)) ∧
          t.bridge.tlb = s.bridge.tlb.filter (fun e => e.pasid != x.setWidth 20)) ∧
      ∀ g va, BaseSource s g va → storesAway s (fun e => e.covers (x.setWidth 20) (pageOf va)) = false →
        ∃ t, exec (.tlbinvPg a g) s = .next t ∧
          (∀ c, (t.core c).tlb = (s.core c).tlb.filter (fun e => !e.covers (x.setWidth 20) (pageOf va))) ∧
          (∀ k, (t.cluster k).tlb = (s.cluster k).tlb.filter (fun e => !e.covers (x.setWidth 20) (pageOf va))) ∧
          t.bridge.tlb = s.bridge.tlb.filter (fun e => !e.covers (x.setWidth 20) (pageOf va)))

/-! ## Translation, caches and the host -/

/-- The events of the translation service (R14, R18, R19, R20, R382). A fill that gives a page installs its entry in the bridge
and in each cluster with a miss of it and in that cluster's cores with one; one that reports no page leaves no miss of it, and
notes the absence for each access that waited. A page response ends its request, and sends one notice to each thread whose
upcall waited on the page. An invalidation leaves no entry of the PASID that meets the range at any level of the module. That a
fill reaches every level whose miss it covers, and who hears of an absence, are the model's readings (log entry 58); the notice
of a thread is its reading (log entry 74). The events of caches and clocks (R60, R63, R67, R71, R75, R428). An evicted dirty
line's bytes go home. The state in which HOST_SNOOP leaves a line is the model's choice (log entry 57), and that an error is a
mark on its line is its reading (log entry 59). -/
def Obligations.TranslationAndCacheEvents : Prop :=
  ((∀ s pasid va resp, s.bridge.misses.any (fun m => m.pasid == pasid && m.page == pageOf va) = true →
     ∃ t, exec (.translationFill pasid va resp) s = .next t ∧
       (NoMissWaits s → resp.present = false → SameMemory s t ∧
         (∀ m ∈ t.bridge.misses, ¬ (m.pasid = pasid ∧ m.page = pageOf va)) ∧
         ∀ c, ∀ m ∈ (s.core c).misses, m.pasid = pasid → m.page = pageOf va → ∀ w ∈ m.waiters, w.level = 0 → (∀ n x, w ≠ .prefetch n x) →
           (w, pasid, pageOf va) ∈ (t.core w.home).absent) ∧
       (NoMissWaits s → resp.present = true → (∀ p ∈ s.cores, ∀ m ∈ p.2.misses, ∀ w ∈ m.waiters, ∀ n a, w ≠ .prefetch n a) →
         SameMemory s t ∧ filledEntry pasid va resp ∈ t.bridge.tlb ∧
         (∀ m ∈ t.bridge.misses, (filledEntry pasid va resp).covers m.pasid m.page = false) ∧
         (∀ k, ((s.cluster k).misses.any (fun m => (filledEntry pasid va resp).covers m.pasid m.page)) = true →
           filledEntry pasid va resp ∈ (t.cluster k).tlb) ∧
         ∀ k, ((s.cluster k).misses.any (fun m => (filledEntry pasid va resp).covers m.pasid m.page)) = true → ∀ i < 16,
           ((s.core (coreAt k i)).misses.any (fun m => (filledEntry pasid va resp).covers m.pasid m.page)) = true →
           filledEntry pasid va resp ∈ (t.core (coreAt k i)).tlb)) ∧
   (∀ s pasid (page : DWord) ok, s.bridge.pageRequests.any (fun r => r.1 == pasid && r.2.1 == pageOf page) = true →
     ∃ t, exec (.prgResponse pasid page ok) s = .next t ∧ SameMemory s t ∧
       (s.bridge.pageWaits = [] →
         t.bridge.pageRequests = s.bridge.pageRequests.filter (fun r => !(r.1 == pasid && r.2.1 == pageOf page))) ∧
       ∀ n, (s.viOf (s.thread n).vi.toNat).pasid = pasid →
         (t.thread n).awaited = (s.thread n).awaited.filter (fun (a : BitVec 8 × Nat) => a.2 != pageOf page / 4096) ∧
         (t.thread n).noteFault = ((s.thread n).noteFault ++
           (((s.thread n).awaited.filter (fun (a : BitVec 8 × Nat) => a.2 == pageOf page / 4096)).take 1).map
             (fun (a : BitVec 8 × Nat) => a.1.setWidth 16 ||| (if ok then 0 else 0x8000))).take 8) ∧
   (∀ s pasid (base : DWord) bytes,
     storesAway s (meetsRange pasid base bytes) = false →
     ∃ t, exec (.atsInvalidation pasid base bytes) s = .next t ∧
       t.bridge.tlb = s.bridge.tlb.filter (fun e => !meetsRange pasid base bytes e) ∧
       (∀ k, (t.cluster k).tlb = (s.cluster k).tlb.filter (fun e => !meetsRange pasid base bytes e)) ∧
       ∀ c, (t.core c).tlb = (s.core c).tlb.filter (fun e => !meetsRange pasid base bytes e))) ∧
  ((∀ s, ∃ t, exec .clockAgeing s = .next t ∧ SameMemory s t ∧ t.threads = s.threads ∧
     ∀ c < 512, (t.core c).clock = (s.core c).clock + 1) ∧
   (∀ s (k : BitVec 5) line, (look (s.cluster k.toNat).lines line).isSome = true →
     ∃ t, exec (.clusterLineEviction k line) s = .next t ∧ look (t.cluster k.toNat).lines line = none ∧
       ∀ l, look (s.cluster k.toNat).lines line = some l → l.ctx = 0 → (ownLine s line && inCar s.module (64 * line)) = false →
         t.mem = if l.dirty then memWrite s.mem (64 * line) 64 l.data (expandMask l.byteMask) else s.mem) ∧
   (∀ s (k : BitVec 5) line x n, look (s.cluster k.toNat).partials line = some x → inCrange s.module (64 * line) = some n →
     ∃ t, exec (.partialEviction k line) s = .next t ∧ look (t.cluster k.toNat).partials line = none) ∧
   (∀ s line h, look s.bridge.homes line = some h → ownRange s.module (64 * line) = true →
     ∃ t, exec (.bridgeEviction line) s = .next t ∧ look t.bridge.homes line = none ∧
       lookD t.bridge.memTime (sliceOf line) 0 = max (lookD s.bridge.memTime (sliceOf line) 0) h.maxLease ∧ SameMemory s t) ∧
   (∀ s line kind, ownRange s.module (64 * line) = true → inCar s.module (64 * line) = false → inCrange s.module (64 * line) = none →
     ∃ t, exec (.hostSnoop line kind) s = .next t ∧ (look t.bridge.hostHeld line).isSome = true ∧
       (kind = .take → look t.bridge.hostHeld line = some .modified) ∧ SameMemory s t ∧ t.cores = s.cores) ∧
   (∀ s line, ∃ t, exec (.uncorrectableError line) s = .next t ∧ line ∈ t.bridge.poisoned ∧ SameMemory s t ∧ t.threads = s.threads))

/-! ## Vector instructions -/

/-- The integer lane operations (R245, R246): modulo 2^w, under the predicate, without flags but VSAT's. The float lane
operations (R247): each active lane rounds once, and only active lanes raise flags. What an operation rounds to, FloatRounding
says. -/
def Obligations.LaneArithmetic : Prop :=
  ((∀ s v a b q x y, VecSource s a.toNat x → VecSource s b.toNat y → (s.th.vecReg v.toNat).busy = false →
     (∀ e ∈ intLaneForms, ∃ t, exec (e.1 v a b q) s = .next t ∧
       VectorOutcome s t v.toNat e.2.1 (s.th.predReg q) (fun i => (e.2.2 e.2.1 (lane x e.2.1 i) (lane y e.2.1 i), {}))) ∧
     (∀ e ∈ permForms, ∃ t, exec (e.1 v a b q) s = .next t ∧
       VectorOutcome s t v.toNat e.2 (s.th.predReg q)
         (fun i => (if lane y e.2 i < 256 / e.2 then lane x e.2 (lane y e.2 i) else 0, {})))) ∧
   (∀ s v a q x, VecSource s a.toNat x → (s.th.vecReg v.toNat).busy = false →
     (∀ e ∈ intUnaryForms, ∃ t, exec (e.1 v a q) s = .next t ∧
       VectorOutcome s t v.toNat e.2.1 (s.th.predReg q) (fun i => (e.2.2 e.2.1 (lane x e.2.1 i), {}))) ∧
     (∀ e ∈ clampForms, ∀ n : BitVec 6, ∃ t, exec (e.1 v a n q) s = .next t ∧
       VectorOutcome s t v.toNat e.2 (s.th.predReg q) (fun i =>
         if signed e.2 (lane x e.2 i) < -(2 ^ (n.toNat - 1) : Nat) then
           (unsigned e.2 (-(2 ^ (n.toNat - 1) : Nat)), { satd := true })
         else if (2 ^ (n.toNat - 1) : Nat) ≤ signed e.2 (lane x e.2 i) then
           (unsigned e.2 ((2 ^ (n.toNat - 1) : Nat) - 1), { satd := true })
         else (lane x e.2 i, {}))))) ∧
  ((∀ s v a b q x y, VecSource s a.toNat x → VecSource s b.toNat y → (s.th.vecReg v.toNat).busy = false →
     (∀ e ∈ floatLaneForms, ∃ t, exec (e.1 v a b q) s = .next t ∧
       VectorOutcome s t v.toNat e.2.2.1 (s.th.predReg q)
         (fun i => e.2.2.2 e.2.1 (fpMode s) (fpSat s) (lane x e.2.2.1 i) (lane y e.2.2.1 i))) ∧
     (∀ e ∈ fmaLaneForms, ∀ z, VecSource s v.toNat z → ∃ t, exec (e.1 v a b q) s = .next t ∧
       VectorOutcome s t v.toNat e.2.2 (s.th.predReg q)
         (fun i => fpFma e.2.1 (fpMode s) (fpSat s) (lane x e.2.2 i) (lane y e.2.2 i) (lane z e.2.2 i)))) ∧
   (∀ s v a q x, VecSource s a.toNat x → (s.th.vecReg v.toNat).busy = false →
     ∀ e ∈ sqrtLaneForms, ∃ t, exec (e.1 v a q) s = .next t ∧
       VectorOutcome s t v.toNat e.2.2 (s.th.predReg q) (fun i => fpSqrt e.2.1 (fpMode s) (fpSat s) (lane x e.2.2 i))))

/-- The compares (R248): a bit for each active lane, 0 elsewhere. The reductions (R249, R250): the result in lane 0, the other
lanes 0. VRFADD adds in a tree, an inactive lane as −0. -/
def Obligations.LaneComparesAndReductions : Prop :=
  (∀ s p a b q x y, VecSource s a.toNat x → VecSource s b.toNat y →
     (∀ e ∈ intCompareForms, ∃ t, exec (e.1 p a b q) s = .next t ∧
       PredicateOutcome s t p e.2.1 (s.th.predReg q) (fun i => (e.2.2 e.2.1 (lane x e.2.1 i) (lane y e.2.1 i), {}))) ∧
     (∀ e ∈ floatCompareForms, ∃ t, exec (e.1 p a b q) s = .next t ∧
       PredicateOutcome s t p e.2.2.1 (s.th.predReg q) (fun i => e.2.2.2 e.2.1 (lane x e.2.2.1 i) (lane y e.2.2.1 i)))) ∧
  (∀ s v a q x, VecSource s a.toNat x → (s.th.vecReg v.toNat).busy = false →
     (∀ e ∈ reduceForms, exec (e.1 v a q) s = .next (retired (vecDelivered s v.toNat (BitVec.ofNat 256
       (e.2.2 e.2.1 (((List.range (256 / e.2.1)).filter (fun i => (s.th.predReg q).getLsbD i)).map (lane x e.2.1)) % 2 ^ e.2.1)))
       [] (s.th.pc + 4))) ∧
     (∀ e ∈ sumForms, ∀ r0 r1 r2 r3 r4,
       r0 = (List.range (256 / e.2.2)).map (fun i => if (s.th.predReg q).getLsbD i then lane x e.2.2 i else 2 ^ (e.2.2 - 1)) →
       r1 = addNeighbours (fpAdd e.2.1 (fpMode s) (fpSat s)) r0 →
       r2 = addNeighbours (fpAdd e.2.1 (fpMode s) (fpSat s)) (r1.map (·.1)) →
       r3 = addNeighbours (fpAdd e.2.1 (fpMode s) (fpSat s)) (r2.map (·.1)) →
       r4 = addNeighbours (fpAdd e.2.1 (fpMode s) (fpSat s)) (r3.map (·.1)) →
       ∃ t, exec (e.1 v a q) s = .next t ∧ (t.th.vecReg v.toNat).val = BitVec.ofNat 256 ((r4.map (·.1)).headD 0) ∧
         t.th.fflags = s.th.fflags ||| (allFlags ((r1 ++ r2 ++ r3 ++ r4).map (·.2))).word ∧ t.th.pc = s.th.pc + 4 ∧ SameMemory s t))

/-- Lane movement (R251) and the predicate instructions (R252). VCVT, VPACK and VUNPK (R253): element k of the flat sequence is
converted under bit k of the predicate, the sources read before any result is written. -/
def Obligations.LaneMovesAndConversions : Prop :=
  ((∀ s v r q x, Source s r 0 x → (s.th.vecReg v.toNat).busy = false →
     (∀ e ∈ [(Instr.vbcastI8 v r q, 8), (.vbcastI16 v r q, 16), (.vbcastI32 v r q, 32)],
       exec e.1 s = .next (retired (vecDelivered s v.toNat
         (mergeLanes e.2 (s.th.predReg q) (s.th.vecReg v.toNat).val (fun _ => x.toNat % 2 ^ e.2))) [r] (s.th.pc + 4))) ∧
     (∀ n : BitVec 5, ∀ e ∈ [(Instr.vinsI8 v n r, 8), (.vinsI16 v n r, 16), (.vinsI32 v n r, 32)],
       ∃ y, exec e.1 s = .next (retired (vecDelivered s v.toNat y) [r] (s.th.pc + 4)) ∧
         ∀ i < 256 / e.2, lane y e.2 i = if i = n.toNat then x.toNat % 2 ^ e.2 else lane (s.th.vecReg v.toNat).val e.2 i)) ∧
   (∀ s (n : BitVec 5) a r x, VecSource s a.toNat x → Accepts s r →
     ∀ e ∈ [(Instr.vextI8 n a r, 8), (.vextI16 n a r, 16), (.vextI32 n a r, 32)],
       exec e.1 s = .next (retired (delivered s r (BitVec.ofInt 32 (signed e.2 (lane x e.2 n.toNat)))) [] (s.th.pc + 4))) ∧
   (∀ s d a b,
     exec (.qand d a b) s = .next (retired (s.setTh (s.th.setPred d (s.th.predReg a &&& s.th.predReg b))) [] (s.th.pc + 4)) ∧
     exec (.qor d a b) s = .next (retired (s.setTh (s.th.setPred d (s.th.predReg a ||| s.th.predReg b))) [] (s.th.pc + 4)) ∧
     exec (.qxor d a b) s = .next (retired (s.setTh (s.th.setPred d (s.th.predReg a ^^^ s.th.predReg b))) [] (s.th.pc + 4)) ∧
     exec (.qnot d a) s = .next (retired (s.setTh (s.th.setPred d (~~~s.th.predReg a))) [] (s.th.pc + 4))) ∧
   (∀ s a r, Accepts s r → ∃ n k : Word,
     exec (.qpop a r) s = .next (retired (delivered s r n) [] (s.th.pc + 4)) ∧
     n.toNat = ((List.range 32).filter (fun i => (s.th.predReg a).getLsbD i)).length ∧
     exec (.qfirst a r) s = .next (retired (delivered s r k) [] (s.th.pc + 4)) ∧
     (∀ i < k.toNat, i < 32 → (s.th.predReg a).getLsbD i = false) ∧ k.toNat ≤ 32 ∧ (k.toNat < 32 → (s.th.predReg a).getLsbD k.toNat = true))) ∧
  (∀ s (v a : BitVec 6) r q dt ty (xs : List VWord),
     ∀ e ∈ [(Instr.vcvt v a r q dt ty, cvtOk dt ty, 1, 1), (.vpack v a r q dt ty, packOk dt ty, laneWidth ty / laneWidth dt, 1),
         (.vunpk v a r q dt ty, packOk ty dt, 1, laneWidth dt / laneWidth ty)],
       e.2.1 = true → xs.length = e.2.2.1 → (∀ i, ∀ h : i < xs.length, VecSource s (a.toNat + i) xs[i]) →
       (∀ i < e.2.2.2, (s.th.vecReg (v.toNat + i)).busy = false) →
       ∃ t, exec e.1 s = .next t ∧ t.th.pc = s.th.pc + 4 ∧ SameMemory s t ∧
         (∀ k < e.2.2.2 * (256 / laneWidth dt),
           lane (t.th.vecReg (v.toNat + k / (256 / laneWidth dt))).val (laneWidth dt) (k % (256 / laneWidth dt)) =
             if (s.th.predReg q).getLsbD k then
               (encodeElem (laneFmt dt.toNat) (roundMode s r) (fpSat s)
                 (decodeElem (laneFmt ty.toNat)
                   (lane (xs.getD (k / (256 / laneWidth ty)) 0) (laneWidth ty) (k % (256 / laneWidth ty)))).1).1 % 2 ^ laneWidth dt
             else lane (s.th.vecReg (v.toNat + k / (256 / laneWidth dt))).val (laneWidth dt) (k % (256 / laneWidth dt))) ∧
         ∀ u, (∀ i < e.2.2.2, u ≠ v.toNat + i) → t.th.vecReg u = s.th.vecReg u)

/-- The block loads and stores (R254, R255): 32 aligned bytes, the active words alone; VLDB and VSTB outside a bank's view do
the same (R259, R260). With no active element nothing is accessed. That vector loads bring what memory gives at their issue is
the model's reading (log entry 10), here and below. VLDB and VSTB through a bank's view (R258 to R260): one active element is
decoded from its place in the group into its lane, or encoded from its lane into its place; a scaled block is stored whole; a
group out of place traps. The strided and indexed forms (R254, R256, R257): each active element has an address of its own. -/
def Obligations.VectorMemory : Prop :=
  ((∀ s v g x q (i : BitVec 6) ea, Addressed s x g (i.toInt * 32) ea → (s.th.vecReg v.toNat).busy = false →
     ∀ e ∈ [(Instr.vld v g x q i, true), (.vldb v g x q i, (viewOf s ea).isNone)], e.2 = true →
       (activeElements (s.th.predReg q) = [] → exec e.1 s = .next (retired s [x] (s.th.pc + 4))) ∧
       ∀ s1 p s2 l, activeElements (s.th.predReg q) ≠ [] → ea.toNat % 32 = 0 → resolve s (me s) .read ea = .ok (s1, p) →
         (s1.core (me s).core).buffer = [] → readNear (settleLoads s1 (me s).core p.line) (me s) ea p 32 = .ok (s2, l) →
         (s2.th.vecReg v.toNat).busy = false →
         exec e.1 s = .next (retired (launched s2 { landings := [blockLanding v (s.th.predReg q) l] }) [x] (s2.th.pc + 4))) ∧
   (∀ s v g x q (i : BitVec 6) ea d, Addressed s x g (i.toInt * 32) ea → VecSource s v.toNat d →
     ∀ e ∈ [(Instr.vst v g x q i, true), (.vstb v g x q i, (viewOf s ea).isNone)], e.2 = true →
       (activeElements (s.th.predReg q) = [] → exec e.1 s = .next (retired s [x] (s.th.pc + 4))) ∧
       (activeElements (s.th.predReg q) ≠ [] → ea.toNat % 32 = 0 → StoreRoom s →
         exec e.1 s = .next (retired (buffered s { plainEntry s ea 32 d.toNat with
           kind := .vec, mask := BitVec.ofNat 512 (elementBits 32 (activeElements (s.th.predReg q))),
           active := BitVec.ofNat 8 ((activeElements (s.th.predReg q)).map (fun j => 2 ^ j)).sum }) [x] (s.th.pc + 4))))) ∧
  ((∀ s v g x q (i : BitVec 6) ea w k s1 p, Addressed s x g (i.toInt * 32) ea → viewOf s ea = some w → w.off % w.group = 0 →
     w.off + w.group ≤ 0x4000 → (w.regs = 1 ∨ v.toNat % 4 = 0) → (∀ j < w.regs, (s.th.vecReg (v.toNat + j)).busy = false) →
     (List.range w.elems).filter (fun k => (s.th.predReg q).getLsbD k) = [k] →
     resolve s (me s) .read ea = .ok (s1, p) → (s1.core (me s).core).buffer = [] →
     s1.bridge.poisoned.contains p.line = false → s1.bridge.poisoned.contains ((p.key + w.group - 1) / 64) = false →
     (∀ j < w.regs, (s1.th.vecReg (v.toNat + j)).busy = false) →
     ∃ t pr, exec (.vldb v g x q i) s = .next t ∧ t.th.pc = s1.th.pc + 4 ∧ t.th.producers = (settleLoads s1 (me s).core p.line).th.producers ++ [pr] ∧
       pr.flags = (w.decode (memRead s1.mem p.key w.group).toNat k).2.word ∧
       pr.landings[k / (256 / fmtBits w.lf)]? = some
         { reg := .vec (v.toNat + k / (256 / fmtBits w.lf)),
           value := viewLane w k (w.decode (memRead s1.mem p.key w.group).toNat k).1, mask := viewLane w k (2 ^ fmtBits w.lf - 1) }) ∧
   (∀ s v g x q (i : BitVec 6) ea w k d, Addressed s x g (i.toInt * 32) ea → viewOf s ea = some w → w.off % w.group = 0 →
     w.off + w.group ≤ 0x4000 → isScaled w.sf = false → VecSource s v.toNat d → StoreRoom s →
     (List.range w.elems).filter (fun k => (s.th.predReg q).getLsbD k) = [k] →
     exec (.vstb v g x q i) s = .next (retired (raise (buffered s { plainEntry s ea w.group 0 with
       data := BitVec.ofNat 512 ((encodeElem w.sf (fpMode s) (fpSat s) (decodeElem w.lf (lane d (fmtBits w.lf) k)).1).1 *
         2 ^ (fmtBits w.sf * k)),
       kind := .vec, mask := BitVec.ofNat 512 ((2 ^ fmtBits w.sf - 1) * 2 ^ (fmtBits w.sf * k)),
       active := if k < 8 then BitVec.ofNat 8 (2 ^ k) else 0, fixedAt := some w.key })
       (encodeElem w.sf (fpMode s) (fpSat s) (decodeElem w.lf (lane d (fmtBits w.lf) k)).1).2) [x] (s.th.pc + 4))) ∧
   (∀ s v g x (i : BitVec 6) ea w d0 d1 d2 d3, Addressed s x g (i.toInt * 32) ea → viewOf s ea = some w → w.off % w.group = 0 →
     w.off + w.group ≤ 0x4000 → isScaled w.sf = true → v.toNat % 4 = 0 → VecSource s v.toNat d0 → VecSource s (v.toNat + 1) d1 →
     VecSource s (v.toNat + 2) d2 → VecSource s (v.toNat + 3) d3 → StoreRoom s →
     ∃ t e, exec (.vstb v g x 0 i) s = .next t ∧ t.th.pc = s.th.pc + 4 ∧ (t.core s.myCore).buffer = (s.core s.myCore).buffer ++ [e] ∧
       e.n = w.group ∧ e.mask = byteMask w.group ∧ e.fixedAt = some w.key ∧
       e.data = BitVec.ofNat 512 (encodeBlock w.sf (fpMode s) (fpSat s) ((List.range 32).map (fun k =>
         (decodeElem w.lf (lane ([d0, d1, d2, d3].getD (k / (256 / fmtBits w.lf)) 0) (fmtBits w.lf) (k % (256 / fmtBits w.lf)))).1))).1) ∧
   (∀ s v g x q (i : BitVec 6) ea w, Addressed s x g (i.toInt * 32) ea → viewOf s ea = some w → w.off % w.group ≠ 0 →
     ∀ e ∈ [Instr.vldb v g x q i, .vstb v g x q i], exec e s = .next (takeTrap s { cause := .misaligned, tval := ea }))) ∧
  ((∀ s v g x q (i : BitVec 6) (b : DWord), BaseSource s g b → (s.th.vecReg v.toNat).busy = false →
     (∀ stride addr s1 value, Source s x 0 stride →
       addr = (fun j => b + BitVec.ofInt 64 (i.toInt * 32) + BitVec.ofNat 64 j * stride.signExtend 64) →
       (∀ j ∈ activeElements (s.th.predReg q), (addr j).toNat % 4 = 0) →
       elementLoads addr (activeElements (s.th.predReg q)) s = .ok (s1, value) → (s1.th.vecReg v.toNat).busy = false →
       exec (.vlds v g x q i) s = .next (retired (launched s1 { landings := elementLandings v (s.th.predReg q) value }) [x] (s1.th.pc + 4))) ∧
     (∀ index addr s1 value, VecSource s x.toNat index →
       addr = (fun j => b + BitVec.ofNat 64 (lane index 32 j) + BitVec.ofInt 64 (i.toInt * 32)) →
       (∀ j ∈ activeElements (s.th.predReg q), (addr j).toNat % 4 = 0) →
       elementLoads addr (activeElements (s.th.predReg q)) s = .ok (s1, value) → (s1.th.vecReg v.toNat).busy = false →
       exec (.vgath v g x q i) s = .next (retired (launched s1 { landings := elementLandings v (s.th.predReg q) value }) [] (s1.th.pc + 4)))) ∧
   (∀ s v g x q (i : BitVec 6) (b : DWord) d, BaseSource s g b → VecSource s v.toNat d →
     s.th.wait = .idle → (activeElements (s.th.predReg q)).length + (s.core s.myCore).buffer.length ≤ 32 →
     (∀ stride addr, Source s x 0 stride →
       addr = (fun j => b + BitVec.ofInt 64 (i.toInt * 32) + BitVec.ofNat 64 j * stride.signExtend 64) →
       (∀ j ∈ activeElements (s.th.predReg q), (addr j).toNat % 4 = 0) →
       ∃ t, exec (.vsts v g x q i) s = .next t ∧ t.th.pc = s.th.pc + 4 ∧ SameMemory s t ∧
         (t.core s.myCore).buffer = (s.core s.myCore).buffer ++ (activeElements (s.th.predReg q)).map (fun j =>
           { plainEntry s (addr j) 4 (lane d 32 j) with kind := .elem (BitVec.ofNat 8 j) })) ∧
     (∀ index addr, VecSource s x.toNat index →
       addr = (fun j => b + BitVec.ofNat 64 (lane index 32 j) + BitVec.ofInt 64 (i.toInt * 32)) →
       (∀ j ∈ activeElements (s.th.predReg q), (addr j).toNat % 4 = 0) →
       ∃ t, exec (.vscat v g x q i) s = .next t ∧ t.th.pc = s.th.pc + 4 ∧ SameMemory s t ∧
         (t.core s.myCore).buffer = (s.core s.myCore).buffer ++ (activeElements (s.th.predReg q)).map (fun j =>
           { plainEntry s (addr j) 4 (lane d 32 j) with kind := .elem (BitVec.ofNat 8 j) }))))

/-! ## Leases and engines -/

/-- The lease instructions (R268 to R273). The geometry registers and EWAIT (R272, R273). -/
def Obligations.LeaseResults : Prop :=
  ((∀ s (e : BitVec 2) a b w term k q, (myLease s e).state = .released ∨ (myLease s e).state = .evicted → Source s a 0 w →
     Source s b (sameBefore a b) term → k = w.toNat % 8 → 1 ≤ k → k ≤ 5 → w.toNat < 16 → (k = 5 → s.module.membase.getLsbD 2 = true) →
     q = k * 32 + (if k = 5 then 0 else s.myCluster) → (queueAt s q).length < 512 →
     ∃ t, exec (.lease e a b) s = .next t ∧ t.th.pc = s.th.pc + 4 ∧ (myLease t e).state = .requested ∧ (myLease t e).kind.toNat = k ∧
       (myLease t e).prio = s.th.profile.extractLsb' 30 2 ∧ (myLease t e).term = term ∧ (myLease t e).plk = w.getLsbD 3 ∧
       queueAt t q = insertReq { thread := s.refOf s.cur, slot := e.toNat, prio := s.th.profile.extractLsb' 30 2, seq := s.serial }
         (queueAt s q) ∧ SameMemory s t) ∧
   (∀ s (e : BitVec 2) a term, (myLease s e).state ≠ .released → (myLease s e).state ≠ .evicted → Source s a 0 term →
     ∃ t, exec (.lrenew e a) s = .next t ∧ t.th.pc = s.th.pc + 4 ∧ (myLease t e).term = term ∧ (myLease t e).ovd = false ∧
       (myLease t e).state = (myLease s e).state ∧ SameMemory s t) ∧
   (∀ s (e : BitVec 2), s.cur < 4096 → s.th.present = true → (∀ o ∈ (myLease s e).ops, o.name = 0 ∧ o.moved = 0) →
     ∃ t, exec (.lfree e) s = .next t ∧ t.th.pc = s.th.pc + 4 ∧ (myLease t e).state = .released ∧
       ((myLease s e).state = .held → (myLease t e).ops = [] ∧
         (engineAt t (myLease s e).engineKey).holder = none ∧ (engineAt t (myLease s e).engineKey).power = .stopping) ∧
       SameMemory s t) ∧
   (∀ s (e : BitVec 2) d, Accepts s d →
     exec (.lstat e d 0) s = .next (retired (delivered s d (leaseResult (myLease s e) false)) [] (s.th.pc + 4))) ∧
   (∀ s (e : BitVec 2) d, (d ≠ 0 → isPort d = false ∧ (s.th.scalar d).busy = false) → (myLease s e).state = .held → (myLease s e).ops = [] →
     ∃ t, exec (.lstat e d 1) s = .next t ∧ t.th.pc = s.th.pc + 4 ∧ t.th.fflags = s.th.fflags ||| ffOf (myLease s e).flags ∧
       (myLease t e).done = [] ∧ (d ≠ 0 → (t.th.scalar d).val = leaseResult (myLease s e) false) ∧
       (t.core s.myCore).clock = max (s.core s.myCore).clock (s.cluster s.myCluster).clock) ∧
   (∀ s (e : BitVec 2) d a limit, s.th.wait = .idle → Source s a 0 limit → Accepts s d →
     ((myLease s e).pending = false →
       exec (.lwait e d a) s = .next (retired (delivered s d (leaseResult (myLease s e) false)) [a] (s.th.pc + 4))) ∧
     ((myLease s e).pending = true → limit ≠ 0 → exec (.lwait e d a) s =
       .next (holdSlot (holdPorts (s.setTh { s.th with wait := .lwaitUntil e.toNat (s.pitch + limit.toNat) }) [a]))) ∧
     ((myLease s e).pending = true → limit = 0 → exec (.lwait e d a) s = .next (holdSlot (holdPorts s [a])))) ∧
   (∀ s (e : BitVec 2) d a, s.th.wait = .lwaitOver → Accepts s d →
     exec (.lwait e d a) s = .next (retired (delivered s d (leaseResult (myLease s e) true)) [a] (s.th.pc + 4))) ∧
   (∀ s (n : BitVec 12) (e : BitVec 2) limit, (s.thread n.toNat).wait = .lwaitUntil e.toNat limit → limit ≤ s.pitch →
     (lookD (s.thread n.toNat).leases e.toNat {}).pending = true →
     exec (.lwaitTimeout n e) s = .next (s.setThread n.toNat { s.thread n.toNat with wait := .lwaitOver }))) ∧
  ((∀ s (e : BitVec 2) a (k : BitVec 5) v, ¬ ((myLease s e).kind = 5 ∧ (myLease s e).state ≠ .released ∧ k = 11) → Source s a 0 v →
     (k.toNat < 12 → exec (.ecfg e a k) s =
       .next (retired (setMyLease s e { myLease s e with ec := put (myLease s e).ec k.toNat v }) [a] (s.th.pc + 4))) ∧
     (12 ≤ k.toNat → exec (.ecfg e a k) s = .next (retired s [a] (s.th.pc + 4)))) ∧
   (∀ s (e : BitVec 2) d (k : BitVec 5), d ≠ 0 → isPort d = false → (s.th.scalar d).busy = false →
     ∃ t, exec (.eget e d k) s = .next t ∧ t.th.pc = s.th.pc + 4 ∧ (t.th.scalar d).full = false ∧
       t.th.producers = s.th.producers ++ [{
         landings := toDest s d false 0
         geom := if s.th.veil.isSome && s.th.mode == .s then none else some (e.toNat, k.toNat) }]) ∧
   (∀ s (n : BitVec 12) k p l e i, (s.thread n.toNat).producers[k]? = some p → p.geom = some (e, i) → p.landings = [l] → p.ready = true →
     l.mask = BitVec.allOnes 256 →
     ∃ t, exec (.producerArrival n k) s = .next t ∧
       (∀ place, l.reg = .scalar place → lookD (t.thread n.toNat).scal place {} =
         { val := ecRead (lookD (s.thread n.toNat).leases e {}) i, full := true, busy := false }) ∧
       (∀ place, l.reg ≠ .scalar place → lookD (t.thread n.toNat).scal place {} = lookD (s.thread n.toNat).scal place {}) ∧
       (t.thread n.toNat).producers = (s.thread n.toNat).producers.take k ++ (s.thread n.toNat).producers.drop (k + 1) ∧ SameMemory s t) ∧
   (∀ s (e : BitVec 2) d, (d ≠ 0 → isPort d = false ∧ (s.th.scalar d).busy = false) → (myLease s e).state ≠ .evicted →
     (myLease s e).ops = [] ∨ (myLease s e).flt = true →
     ∃ t, exec (.ewait e d) s = .next t ∧ t.th.pc = s.th.pc + 4 ∧ t.th.fflags = s.th.fflags ||| ffOf (myLease s e).flags ∧
       (myLease t e).done = [] ∧
       (d ≠ 0 → (t.th.scalar d).val = if (myLease s e).state ≠ .released ∧ (myLease s e).flt = true then 1 else 0) ∧ SameMemory s t) ∧
   (∀ s (e : BitVec 2) d, (myLease s e).state = .evicted →
     exec (.ewait e d) s = .next (takeTrap s { cause := .leaseEvicted, code := BitVec.ofNat 12 e.toNat, tval := (myLease s e).pos ++ lstatWord (myLease s e) })))

/-- The issue of an engine operation (R263, R274 to R286, R330): with the slot open, the geometry in order and the core's stores
drained, those of the thread's siblings among them, it joins the queue with the snapshot; an operation of no operand or of one
whose geometry is out of order is ILLEGAL_OPERAND. MRESUME takes a stopped operation up again. -/
def Obligations.EngineIssue : Prop :=
  (∀ s e, ∀ f ∈ geometryForms, OpenFor s e f.2.1 →
    (f.2.2.2 (snapshot s e) = true → NoStores s →
      exec (f.1 e) s = .next (issued s e 2 (newOp s f.2.2.1 (snapshot s e) 0 0) [])) ∧
    (f.2.2.2 (snapshot s e) = false →
      exec (f.1 e) s = .next (takeTrap s { cause := .illegalOperand, tval := s.th.ir.setWidth 64 }))) ∧
  (∀ s e a x, ∀ f ∈ blockForms, OpenFor s e f.2.1 → Source s a 0 x →
    (f.2.2.2 (snapshot s e) x.toNat = true → NoStores s →
      exec (f.1 e a) s = .next (issued s e 2 (newOp s f.2.2.1 (snapshot s e) x 0) [a])) ∧
    (f.2.2.2 (snapshot s e) x.toNat = false →
      exec (f.1 e a) s = .next (takeTrap s { cause := .illegalOperand, tval := s.th.ir.setWidth 64 }))) ∧
  (∀ s e a b x y ec, ec = snapshot s e → OpenFor s e 1 → NoStores s → Source s a 0 x → Source s b (sameBefore a b) y →
    mxeReserved ec = true → stdFmt 22 (oFmt ec) = true → rndOk ec = true → mxeM ec = true → 1 ≤ ecN ec → ecN ec ≤ 64 →
    (ecAt ec 8).toNat < 2 ^ 18 → (ecAt ec 10).toNat < 16 → x.toNat < 256 → y.toNat < 2 →
    exec (.mdrain e a b) s = .next (issued s e 2 (newOp s .mdrain ec x y) [a, b])) ∧
  (∀ s e ec, ec = snapshot s e → OpenFor s e 1 → NoStores s → mxeTile ec = true → (ecAt ec 11).toNat < 2 ^ 17 →
    (∀ i < 4, (ecAt ec 11).toNat / 2 ^ (4 * i) % 16 ≤ 13) → rotLinks s = true →
    ∃ t, exec (.mrot e) s = .next t ∧ t.th.pc = (enqueueOp s e 2 (newOp s .mrot ec 0 0)).th.pc + 4 ∧
      (myLease t e).ops = (myLease (enqueueOp s e 2 (newOp s .mrot ec 0 0)) e).ops ∧
      lookD (myLease t e).ec 11 0 = lookD (myLease (enqueueOp s e 2 (newOp s .mrot ec 0 0)) e).ec 11 0 ^^^ 0x10000) ∧
  (∀ s e ec size, ec = snapshot s e → size = (ecAt ec 7).toNat → OpenFor s e 4 → NoStores s → size ∈ [1, 2, 4, 8, 16, 32, 64] →
    (ecAddr ec 2).toNat % size = 0 → (ecAddr ec 5).toNat % size = 0 → (ecAddr ec 8).toNat % 4 = 0 →
    exec (.ggath e) s = .next (issued s e 2 (newOp s .ggath ec 0 0) [])) ∧
  (∀ s e ec k, ec = snapshot s e → OpenFor s e 3 → NoStores s → (ecAt ec 0).toNat < 2 → CarRight s true k →
    (ecAddr ec 2).toNat % 64 = 0 → (ecAddr ec 5).toNat % 8 = 0 →
    exec (.hingest e) s = .next (issued s e 2 { newOp s .hingest ec 0 0 with store := k } [])) ∧
  (∀ s e ec k s1 l, ec = snapshot s e → OpenFor s e 4 → NoStores s → CarRight s false k → (ecAddr ec 2).toNat % 16 = 0 →
    loadBytes s (me s) (ecAddr ec 2) 16 3 = .ok (s1, l) → l.toNat / 2 ^ 96 % 256 ≤ 10 →
    l.toNat / 2 ^ 64 % 2 ^ 32 ≤ 8 ^ (l.toNat / 2 ^ 96 % 256) →
    ∀ s2, (if l.setWidth 64 = (0 : DWord) then .ok (acquire s1) else carRef (acquire s1) (carStore s1 k) (l.setWidth 64)) = .ok s2 →
      exec (.gcopy e) s = .next (issued s2 e 2 { newOp s2 .gcopy ec 0 0 with
        store := k, name := l.setWidth 64, leaves := l.toNat / 2 ^ 64 % 2 ^ 32, depth := l.toNat / 2 ^ 96 % 256 } [])) ∧
  (∀ s e a v ec, ec = snapshot s e → OpenFor s e 5 → NoStores s → Source s a 0 v → v.getLsbD 0 = true → lxeOk ec = true →
    ∀ i ∈ [Instr.allReduce e a, .ecfg e a 11],
    ∃ t, exec i s = .next t ∧
      t.bridge.tags = put (enqueueOp s e 3 { newOp s .allReduce ec 0 0 with ordinal := lookD s.bridge.tags (ecAt ec 7).toNat 0 }).bridge.tags
        (ecAt ec 7).toNat (lookD s.bridge.tags (ecAt ec 7).toNat 0 + 1) ∧
      (myLease t e).ops =
        (myLease (enqueueOp s e 3 { newOp s .allReduce ec 0 0 with ordinal := lookD s.bridge.tags (ecAt ec 7).toNat 0 }) e).ops) ∧
  (∀ s e, (myLease s e).state = .held → (myLease s e).flt = true → StoresDrained s →
    ∃ t, exec (.mresume e) s = .next t ∧ (myLease t e).flt = false ∧ (myLease t e).fcause = 0 ∧ (myLease t e).ops = (myLease s e).ops) ∧
  (∀ s e sc o, (myLease (enqueueOp s e sc o) e).ops = (myLease s e).ops ++ [o] ∧ (enqueueOp s e sc o).th.pc = s.th.pc ∧
    (myLease (enqueueOp s e sc o) e).ec = (myLease s e).ec ∧ (enqueueOp s e sc o).th.scal = s.th.scal)

/-- What pools and budgets do with leases (R159 to R163, R269, R399): a grant to the head of a queue, by handoff or by waking an
engine; the end of a waking; a term that runs out; an eviction, after which the slot is EVICTED with no operation left; an
engine turned off. That an engine whose queue holds only requests that are passed over goes off is the model's choice (log entry
71). -/
def Obligations.LeaseEvents : Prop :=
  (∀ s queue x engine p, queueHead s queue = some x →
    (engineIn s queue .stopping = some engine ∧ p = .handoff) ∨
      (engineIn s queue .stopping = none ∧ engineIn s queue .off = some engine ∧ mayWake s (x, queue) = true ∧ p = .waking) →
    ∃ t, exec (.leaseGrant queue) s = .next t ∧ (engineAt t engine).power = p ∧ (engineAt t engine).holder = some (x.thread, x.slot) ∧
      (leaseOf t x.thread x.slot).state = .waking ∧ (leaseOf t x.thread x.slot).eng.toNat = engine % 256 ∧ x ∉ queueAt t queue ∧
      SameMemory s t) ∧
  (∀ s engine r e, (engineAt s engine).holder = some (r, e) → s.live r = true →
    (engineAt s engine).power = .waking ∨ (engineAt s engine).power = .handoff ∨ (engineAt s engine).power = .unparking →
    ((leaseOf s r e).wakePark = false ∨ (engineAt s engine).power = .unparking) →
    ∃ t, exec (.engineWakeDone engine) s = .next t ∧ (engineAt t engine).power = .ready ∧ (leaseOf t r e).state = .held ∧
      (leaseOf t r e).since = s.pitch ∧ SameMemory s t) ∧
  (∀ s (n : BitVec 12) (e : BitVec 2) l, l = leaseOf s (s.refOf n.toNat) e.toNat → (s.thread n.toNat).present = true → l.state = .held →
    l.ovd = false → l.term ≠ 0 → l.term.toNat ≤ l.used + (s.pitch - l.since) →
    ∃ t, exec (.leaseTermExpiry n e) s = .next t ∧ leaseOf t (s.refOf n.toNat) e.toNat = { l with ovd := true } ∧ SameMemory s t) ∧
  (∀ s engine r e handoff, (engineAt s engine).holder = some (r, e) → s.live r = true → evictionOf s engine = some handoff →
    (∀ o ∈ (leaseOf s r e).ops, o.name = 0) →
    ∃ t, exec (.forcedEviction engine) s = .next t ∧ (leaseOf t r e).state = .evicted ∧ (leaseOf t r e).ev = true ∧
      (leaseOf t r e).ops = [] ∧ (engineAt t engine).holder = none ∧
      (engineAt t engine).power = (if handoff then .stopping else .evicting) ∧ SameMemory s t) ∧
  (∀ s engine, (engineAt s engine).power = .evicting ∨
      ((engineAt s engine).power = .stopping ∧ queueHead s (queueOf engine) = none) →
    exec (.enginePowerOff engine) s = .next (setEngine s engine {}))

/-- An engine's step (R154, R264 to R266, R275): MLDS, MSWAP, MZERO and a row group of MSTREAM; a step whose access fails stops
the operation with its cause and address. A step of a product, MTILE or MROT, through the plane of its k-block (R154, R275), and
MROT's transfer step (R157, R276): the two blocks lie in the neighbours' banks, the buffers there are whole, and no other byte
has changed; the operation completes once its own buffers are whole. A step of MDRAIN (R156, R277) writes each row of its group,
rounded once, into the target core's local store. Steps of the RXE (R279): RLDS, a row group of RTILE, a row group of RCONV.
What a step writes goes where its rows lie; a row in a core's local store has its bytes there, and every other byte is as it was
(R93, R264). Steps of the HXE (R281, R282), the CGE (R284, R285) and the LXE (R286, R425): a block of HDIGEST, of which the last
writes the digest; a line of HINGEST, looked up or allocated, its name then written to its place; an unscaled GCONV of one line;
a GGATH of one element; a leaf of GCOPY, and the stop where its store is lost; a chunk of an all-reduce, module 0's terms first. -/
def Obligations.EngineSteps : Prop :=
  ((∀ s engine r e o rest, AtWork s engine r e o rest → o.steps = 0 →
     (o.kind = .mswap →
       ∃ t, exec (.engineStep engine) s = .next t ∧ (engineAt t engine).plane = (engineAt s engine).shadow ∧
         (engineAt t engine).shadow = (engineAt s engine).plane ∧ (leaseOf t r e).ops = rest ∧
         (leaseOf t r e).done = (leaseOf s r e).done ++ [(o.id, o.flags)] ∧ SameMemory s t) ∧
     (o.kind = .mzero →
       ∃ t, exec (.engineStep engine) s = .next t ∧ (leaseOf t r e).drn = false ∧ (leaseOf t r e).ops = rest ∧
         (engineAt t engine).banks = (engineAt s engine).banks.filter (fun p => p.1 / 4096 != o.x.toNat) ∧ SameMemory s t) ∧
     (o.kind = .mlds → ∀ s1 p fl, fetchPlane s o (ecAddr o.ec 5) o.x.toNat = .ok (s1, p, fl) → AtWork s1 engine r e o rest →
       ∃ t, exec (.engineStep engine) s = .next t ∧ (engineAt t engine).shadow = p ∧
         (engineAt t engine).plane = (engineAt s1 engine).plane ∧ (leaseOf t r e).ops = rest ∧
         (leaseOf t r e).done = (leaseOf s1 r e).done ++ [(o.id, o.flags ||| ecFlags fl.word)] ∧ t.mem = s1.mem)) ∧
   (∀ s engine r e o rest s1 rows fl banks sp, AtWork s engine r e o rest → o.kind = .mstream → o.steps < rowGroups (ecM o.ec) →
     fetchGroup s o (ecAddr o.ec 2) o.x.toNat o.steps = .ok (s1, rows, fl) → AtWork s1 engine r e o rest →
     streamGroup o (engineAt s1 engine).plane (engineAt s1 engine).banks rows = (banks, sp) →
     ∃ t, exec (.engineStep engine) s = .next t ∧ (engineAt t engine).banks = banks ∧ (engineAt t engine).plane = (engineAt s1 engine).plane ∧
       (o.steps + 1 < rowGroups (ecM o.ec) → ((leaseOf t r e).ops.map (fun x => x.steps)).head? = some (o.steps + 1))) ∧
   (∀ s engine r e o rest s1 c va b, AtWork s engine r e o rest → o.steps < o.total → opStep s engine o = .error (.fault s1 c va b) →
     s1.live r = true →
     ∃ t, exec (.engineStep engine) s = .next t ∧ (leaseOf t r e).flt = true ∧ (leaseOf t r e).fcause = c.code ∧
       (leaseOf t r e).fva = va)) ∧
  ((∀ s engine o base j, (j < o.loaded → loadPlane s engine o base j = .ok (s, o)) ∧
     ∀ s1 p fl, o.loaded ≤ j → j < kBlocks o.ec 64 → fetchPlane s o base j = .ok (s1, p, fl) → loadPlane s engine o base j =
       .ok (setEngine s1 engine { engineAt s1 engine with shadow := p }, { o.raise fl with loaded := j + 1 })) ∧
   (∀ s engine r e o rest abase bbase j g s0 o0 s1 rows fl x banks sp, AtWork s engine r e o rest →
     o.steps = j * rowGroups (ecM o.ec) + g → g < rowGroups (ecM o.ec) → j < kBlocks o.ec 64 →
     (o.kind = .mtile ∧ abase = ecAddr o.ec 2 ∧ bbase = ecAddr o.ec 5) ∨
       (o.kind = .mrot ∧ abase = windowAddr s o.vi (coreOf (o.thread % 4096)) ((rotBanks o).1 * 0x4000) ∧
         bbase = windowAddr s o.vi (coreOf (o.thread % 4096)) ((rotBanks o).2.2.1 * 0x4000)) →
     loadPlane s engine o bbase j = .ok (s0, o0) → fetchGroup s0 o0 abase j g = .ok (s1, rows, fl) → AtWork s1 engine r e o rest →
     (g + 1 < rowGroups (ecM o.ec) ∨ kBlocks o.ec 64 ≤ j + 1 ∨ j + 1 < o0.loaded) → x = engineAt s1 engine →
     streamGroup o0 (if g = 0 then x.shadow else x.plane)
       (if o.steps = 0 ∧ ecFresh o.ec = true then freshBanks o.ec x.banks else x.banks) rows = (banks, sp) →
     ∃ t, exec (.engineStep engine) s = .next t ∧ (engineAt t engine).banks = banks ∧
       (engineAt t engine).plane = (if g = 0 then x.shadow else x.plane) ∧ t.mem = s1.mem ∧
       (leaseOf t r e).drn = (if o.steps = 0 ∧ ecFresh o.ec = true then false else (leaseOf s1 r e).drn) ∧
       StepLeft s1 t r e { o0.raise (fl.or { spill := sp }) with steps := o.steps + 1 } rest) ∧
   (∀ s engine r e o rest west north a1 a b1 b core, AtWork s engine r e o rest → o.kind = .mrot → o.steps + 1 = o.total → o.moved = 0 →
     core = coreOf (o.thread % 4096) → rotBanks o = (a1, a, b1, b) → neighbour core (s.core core).rseg 27 = some west →
     neighbour core (s.core core).rseg 24 = some north → rotateTest s o = .ok () → west ≠ core → north ≠ core → ¬ (west = north ∧ a = b) →
     ∃ t, exec (.engineStep engine) s = .next t ∧
       (∀ i < 0x4000, memByte t.mem (localKey west (a * 0x4000 + i)) = memByte s.mem (localKey core (a1 * 0x4000 + i))) ∧
       (∀ i < 0x4000, memByte t.mem (localKey north (b * 0x4000 + i)) = memByte s.mem (localKey core (b1 * 0x4000 + i))) ∧
       (∀ k, (∀ i < 0x4000, k ≠ localKey west (a * 0x4000 + i) ∧ k ≠ localKey north (b * 0x4000 + i)) →
         memByte t.mem k = memByte s.mem k) ∧
       a ∈ (t.core west).arrivedA ∧ b ∈ (t.core north).arrivedB ∧ (opReady s o = true → (leaseOf t r e).ops = rest) ∧
       (opReady s o = false → (leaseOf t r e).ops = { o with steps := o.total } :: rest)) ∧
   (∀ s engine r e o rest first count core n w rows at_, AtWork s engine r e o rest → o.kind = .mdrain → o.steps < rowGroups count →
     drainRows o = (first, count) → core = coreOf (o.thread % 4096) / 256 * 256 + o.x.toNat → n = rowBytes (oFmt o.ec) (ecN o.ec) →
     w = fmtBits (oFmt o.ec) → rows = (List.range (min count (8 * o.steps + 8) - 8 * o.steps)).map (fun i => first + 8 * o.steps + i) →
     at_ = (fun q => (ecField o.ec 8 17 0 + q * (ecAt o.ec 9).toNat) % 2 ^ 18) →
     (∀ q ∈ rows, at_ q + n ≤ 2 ^ 18 ∧ localBad s o.who core (at_ q) n = none) →
     (∀ p ∈ rows, ∀ q ∈ rows, p ≠ q → at_ p + n ≤ at_ q ∨ at_ q + n ≤ at_ p) →
     ∃ t, exec (.engineStep engine) s = .next t ∧ (leaseOf t r e).drn = true ∧ (engineAt t engine).banks = (engineAt s engine).banks ∧
       (∀ q ∈ rows, ∀ i < 8 * n, (memNat t.mem (localKey core (at_ q)) n).testBit i =
         if i < w * ecN o.ec then (ofLanes w ((List.range (ecN o.ec)).map (fun c =>
           ((lookD (engineAt s engine).banks (o.y.toNat * 4096 + q % 64 * 64 + c) {}).drain (oFmt o.ec) (ecRnd o.ec) (ecSat o.ec)).1))).testBit i
         else (memNat s.mem (localKey core (at_ q)) n).testBit i) ∧
       (∀ k, (∀ q ∈ rows, ∀ i < n, k ≠ localKey core (at_ q + i)) → memByte t.mem k = memByte s.mem k) ∧
       (o.steps + 1 < rowGroups count → ((leaseOf t r e).ops.map (fun x => x.steps)).head? = some (o.steps + 1)) ∧
       (rowGroups count ≤ o.steps + 1 → (leaseOf t r e).ops = rest))) ∧
  ((∀ s engine r e o rest s1 p fl, AtWork s engine r e o rest → o.kind = .rlds → o.steps = 0 →
     fetchResidues s o o.x.toNat = .ok (s1, p, fl) → AtWork s1 engine r e o rest →
     ∃ t, exec (.engineStep engine) s = .next t ∧ (engineAt t engine).rplane = p ∧
       (engineAt t engine).rshadow = (engineAt s1 engine).rplane ∧ StepLeft s1 t r e { o.raise fl with steps := 1 } rest ∧ t.mem = s1.mem) ∧
   (∀ s engine o i, (i ≤ o.loaded → loadResidues s engine o i = .ok (s, o)) ∧
     ∀ s1 p fl, o.loaded < i → o.x.toNat + i < kBlocks o.ec 32 → fetchResidues s o (o.x.toNat + i) = .ok (s1, p, fl) →
       loadResidues s engine o i = .ok (setEngine s1 engine { engineAt s1 engine with rshadow := p }, { o.raise fl with loaded := i })) ∧
   (∀ s engine r e o rest i g s0 o0 s1 xs fa x plane bank, AtWork s engine r e o rest → o.kind = .rtile →
     o.steps = i * rowGroups (ecM o.ec) + g → g < rowGroups (ecM o.ec) → o.x.toNat + i < kBlocks o.ec 32 → ecN o.ec ≤ 64 →
     loadResidues s engine o i = .ok (s0, o0) →
     fetchRows o0.who (aFmt o.ec) (min (ecK o.ec) (32 * (o.x.toNat + i) + 32) - 32 * (o.x.toNat + i)) s0
       ((List.range (min (ecM o.ec) (8 * g + 8) - 8 * g)).map (fun q => rowAt (ecAddr o.ec 2) (ecAt o.ec 4) (8 * g + q) +
         BitVec.ofNat 64 (elemBytes (aFmt o.ec) (32 * (o.x.toNat + i))))) = .ok (s1, xs, fa) → AtWork s1 engine r e o rest →
     (g + 1 < rowGroups (ecM o.ec) ∨ kBlocks o.ec 32 ≤ o.x.toNat + i + 1 ∨ i + 1 ≤ o0.loaded) → x = engineAt s1 engine →
     plane = (if g = 0 ∧ 0 < i then x.rshadow else x.rplane) → bank = (if o.steps = 0 ∧ ecFresh o.ec = true then [] else x.rbank) →
     ∃ t, exec (.engineStep engine) s = .next t ∧ (engineAt t engine).rplane = plane ∧ t.mem = s1.mem ∧
       (∀ q < min (ecM o.ec) (8 * g + 8) - 8 * g, ∀ c < ecN o.ec, lookD (engineAt t engine).rbank ((8 * g + q) * 64 + c) {} =
         (xs.getD q []).zipIdx.foldl (fun (y : Residue) v => y.addTerm (intOf v.1) (lookD plane (v.2 * 64 + c) 0))
           (lookD bank ((8 * g + q) * 64 + c) {})) ∧
       (∀ k, (∀ q < min (ecM o.ec) (8 * g + 8) - 8 * g, ∀ c < ecN o.ec, k ≠ (8 * g + q) * 64 + c) →
         lookD (engineAt t engine).rbank k {} = lookD bank k {}) ∧
       StepLeft s1 t r e { o0.raise fa with steps := o.steps + 1 } rest) ∧
   (∀ s engine r e o rest g rows out s1, AtWork s engine r e o rest → o.kind = .rconv → o.steps = g → g < rowGroups (ecM o.ec) →
     rows = (List.range (min (ecM o.ec) (8 * g + 8) - 8 * g)).map (fun i => 8 * g + i) →
     out = (fun q c => (lookD (engineAt s engine).rbank (q * 64 + c) {}).convert (oFmt o.ec) (ecRnd o.ec) (ecSat o.ec)) →
     writeRows s o.who (rows.map (fun q => (ecAddr o.ec 8 + BitVec.ofNat 64 (q * (ecAt o.ec 10).toNat), rowBytes (oFmt o.ec) (ecN o.ec),
       ofLanes (fmtBits (oFmt o.ec)) ((List.range (ecN o.ec)).map (fun c => (out q c).1)), 2 ^ (fmtBits (oFmt o.ec) * ecN o.ec) - 1))) =
       .ok s1 → AtWork s1 engine r e o rest →
     ∃ t o1, exec (.engineStep engine) s = .next t ∧ t.mem = s1.mem ∧ (leaseOf t r e).drn = true ∧ o1.kind = .rconv ∧ o1.ec = o.ec ∧
       o1.id = o.id ∧ o1.steps = g + 1 ∧ StepLeft s1 t r e o1 rest) ∧
   (∀ s who (va : DWord) n data c off, windowOff (s.viOf who.vi.toNat).lswin va = some (c * 2 ^ 18 + off) → c < 512 → off < 2 ^ 18 →
     off % 64 + n ≤ 64 → localReach s who c off = true →
     ∃ s1, writeRows s who [(va, n, data, 2 ^ (8 * n) - 1)] = .ok s1 ∧ SameMemoryBut s s1 (localKey c off) n ∧
       ∀ i < n, memByte s1.mem (localKey c off + i) = BitVec.ofNat 8 (data / 2 ^ (8 * i)))) ∧
  ((∀ s engine r e o rest n v s1, AtWork s engine r e o rest → o.kind = .hdigest → n = (ecAt o.ec 4).toNat - 136 * o.steps →
     o.steps ≤ (ecAt o.ec 4).toNat / 136 →
     readAll s o.who (ecAddr o.ec 2 + BitVec.ofNat 64 (136 * o.steps)) (min n 136) 2 = .ok (s1, v) → AtWork s1 engine r e o rest →
     (136 ≤ n → ∃ t, exec (.engineStep engine) s = .next t ∧ t.mem = s1.mem ∧
       (leaseOf t r e).ops = { o with sponge := absorb o.sponge v, steps := o.steps + 1 } :: rest) ∧
     (∀ s2, n < 136 → writeRows s1 o.who [(ecAddr o.ec 5, 32, digestOf (absorb o.sponge (lastBlock v n)), 2 ^ 256 - 1)] = .ok s2 →
       AtWork s2 engine r e o rest → ∃ t, exec (.engineStep engine) s = .next t ∧ t.mem = s2.mem ∧ (leaseOf t r e).ops = rest ∧
         (leaseOf t r e).done = (leaseOf s2 r e).done ++ [(o.id, o.flags)])) ∧
   (∀ s engine r e o rest s1 p s2 l s3 n, AtWork s engine r e o rest → o.kind = .hingest → o.name = 0 → o.steps < o.total →
     o.lost = false → (carStore s o.store).en = true →
     resolve s o.who .write (ecAddr o.ec 5 + BitVec.ofNat 64 (8 * o.steps)) = .ok (s1, p) → rangeAt s1 p = none →
     agentRead s1 o.who (ecAddr o.ec 2 + BitVec.ofNat 64 (64 * o.steps)) 64 2 = .ok (s2, l) →
     lookupOrAllocate s2 o.store ((ecAt o.ec 0).getLsbD 0) l = .named s3 n false → AtWork s3 engine r e o rest →
     ∃ t o1, exec (.engineStep engine) s = .next t ∧ t.mem = s3.mem ∧ (leaseOf t r e).ops = o1 :: rest ∧ o1.name = n ∧
       o1.nameKey = p.key ∧ o1.steps = o.steps) ∧
   (∀ s engine r e o rest s1 p s2, AtWork s engine r e o rest → o.kind = .hingest → o.name ≠ 0 → o.steps < o.total →
     placeOf s o.who (ecAddr o.ec 5 + BitVec.ofNat 64 (8 * o.steps)) o.nameKey = .ok (s1, p) →
     writeBytes s1 o.who (ecAddr o.ec 5 + BitVec.ofNat 64 (8 * o.steps)) p 8 (o.name.setWidth 512) (byteMask 8) 2 false = .ok s2 →
     AtWork s2 engine r e o rest →
     ∃ t, exec (.engineStep engine) s = .next t ∧ t.mem = s2.mem ∧
       StepLeft s2 t r e { o with steps := o.steps + 1, name := 0, nameEntry := none } rest) ∧
   (∀ s engine r e o rest s1 v s2 w fl count, AtWork s engine r e o rest → o.kind = .gconv → o.steps = 0 → o.old = [] → o.seen = none →
     count = (ecAt o.ec 4).toNat → isScaled (aFmt o.ec) = false → isScaled (oFmt o.ec) = false → ¬ (aFmt o.ec = 19 ∧ oFmt o.ec = 19) →
     0 < fmtBits (oFmt o.ec) → 0 < count → count * fmtBits (oFmt o.ec) = 8 * gconvBytes o → (ecAddr o.ec 5).toNat % 64 + gconvBytes o ≤ 64 →
     readAll s o.who (ecAddr o.ec 2) ((count * fmtBits (aFmt o.ec) + 7) / 8) 2 = .ok (s1, v) →
     encodeRun (oFmt o.ec) (ecRnd o.ec) (ecSat o.ec) ((List.range count).map (fun k =>
       (decodeElem (aFmt o.ec) (v / 2 ^ (fmtBits (aFmt o.ec) * k) % 2 ^ fmtBits (aFmt o.ec))).1)) = (w, fl) →
     writeRows s1 o.who [(ecAddr o.ec 5, gconvBytes o, w, 2 ^ (8 * gconvBytes o) - 1)] = .ok s2 → AtWork s2 engine r e o rest →
     w = ofLanes (fmtBits (oFmt o.ec)) ((List.range count).map (fun k => (encodeElem (oFmt o.ec) (ecRnd o.ec) (ecSat o.ec)
       (decodeElem (aFmt o.ec) (v / 2 ^ (fmtBits (aFmt o.ec) * k) % 2 ^ fmtBits (aFmt o.ec))).1).1)) ∧
     ∃ t, exec (.engineStep engine) s = .next t ∧ t.mem = s2.mem ∧ (leaseOf t r e).ops = rest) ∧
   (∀ s engine r e o rest size s1 k s2 v s3, AtWork s engine r e o rest → o.kind = .ggath → o.steps = 0 → size = (ecAt o.ec 7).toNat →
     size ∈ [1, 2, 4, 8, 16, 32, 64] → (ecAddr o.ec 5).toNat % size = 0 → ecAt o.ec 4 = 1 →
     readAll s o.who (ecAddr o.ec 8) 4 2 = .ok (s1, k) →
     readAll s1 o.who (ecAddr o.ec 2 + BitVec.ofNat 64 (k * size)) size 2 = .ok (s2, v) →
     writeRows s2 o.who [(ecAddr o.ec 5, size, v, 2 ^ (8 * size) - 1)] = .ok s3 → AtWork s3 engine r e o rest →
     ∃ t, exec (.engineStep engine) s = .next t ∧ t.mem = s3.mem ∧ (leaseOf t r e).ops = rest ∧
       (leaseOf t r e).done = (leaseOf s3 r e).done ++ [(o.id, o.flags)]) ∧
   (∀ s engine r e o rest, AtWork s engine r e o rest → o.kind = .gcopy → o.steps < o.leaves →
     (o.lost = true ∨ (carStore s o.store).en = false → ∃ t, exec (.engineStep engine) s = .next t ∧ (leaseOf t r e).flt = true ∧
       (leaseOf t r e).fcause = Cause.permissionFault.code ∧ t.mem = s.mem) ∧
     (∀ s1 l s2, o.lost = false → (carStore s o.store).en = true →
       walkLeaf s o.who.cluster o.store o.steps o.depth o.name = .ok (s1, l) →
       writeRows s1 o.who [(ecAddr o.ec 5 + BitVec.ofNat 64 (64 * o.steps), 64, l.toNat, 2 ^ 512 - 1)] = .ok s2 → AtWork s2 engine r e o rest →
       ∃ t, exec (.engineStep engine) s = .next t ∧ (o.steps + 1 < o.leaves → t.mem = s2.mem ∧
         (leaseOf t r e).ops = { o with steps := o.steps + 1 } :: rest) ∧ (o.leaves ≤ o.steps + 1 → (leaseOf t r e).ops = rest))) ∧
   (∀ s cl k i n, walkLeaf s cl k i 0 n = (if n = 0 then .ok (s, 0) else carRead s cl k n) ∧
     ∀ d s1 l, n ≠ 0 → carRead s cl k n = .ok (s1, l) →
       walkLeaf s cl k i (d + 1) n = walkLeaf s1 cl k i d ((l >>> (64 * (i / 8 ^ d % 8))).setWidth 64)) ∧
   (∀ s engine r e o rest s1 v x w fl s2, AtWork s engine r e o rest → o.kind = .allReduce → o.steps < o.total → linkDown s.module = false →
     (∀ y ∈ s.bridge.chunks, y.tag = (ecAt o.ec 7).toNat → y.ordinal = o.ordinal → y.fmt = aFmt o.ec ∧ y.len = (ecAt o.ec 4).toNat) →
     readAll s o.who (ecAddr o.ec 2 + BitVec.ofNat 64 (4096 * o.steps)) 4096 3 = .ok (s1, v) →
     portPaused s1.module 0 = false → portPaused s1.module 1 = false →
     s1.bridge.chunks.find? (fun y => y.tag == (ecAt o.ec 7).toNat && y.ordinal == o.ordinal && y.index == o.steps) = some x →
     (moduleNumber s1 = 0 → (w, fl) = reduceElems (aFmt o.ec) (ecRnd o.ec) v x.data) →
     (moduleNumber s1 ≠ 0 → (w, fl) = reduceElems (aFmt o.ec) (ecRnd o.ec) x.data v) →
     writeAll s1 o.who (ecAddr o.ec 5 + BitVec.ofNat 64 (4096 * o.steps)) 4096 w (2 ^ 32768 - 1) 3 false = .ok s2 →
     AtWork s2 engine r e o rest →
     ∃ t, exec (.engineStep engine) s = .next t ∧ t.mem = s2.mem ∧ t.bridge.chunks = s2.bridge.chunks.filter (fun y => y != x) ∧
       StepLeft s2 t r e { o.raise fl with steps := o.steps + 1 } rest))

/-! ## Copies and CAR stores -/

/-- The copy instructions (R80, R81, R85, R88 to R90, R288 to R290): a request joins the core's FIFO and the open batch; a full
FIFO holds COPY and turns COPY_NB away; a layout record in a bank that is closed to the thread, or in a line with an
uncorrectable error, traps (R411, R428). That CWAIT joins every completed engine operation of the thread (R149) is the model's
reading (log entry 24), and that a layout record is read from a bank's own bytes, also in stash mode, its choice (log entry 26).
That a request moves piece by piece, its rows in order, is the model's reading (log entry 26). The copy engine's events (R81 to
R83, R88, R91): a dispatch of the head whose class and turn come first, the end of an empty request, of a request whose last
piece moves, of one that breaks the conditions of conversion, and the end of a batch. What TH_CFADDR holds of a request that
breaks those conditions is the model's choice (log entry 67). -/
def Obligations.CopyResults : Prop :=
  ((∀ s (q : BitVec 5) z (bd bs : BitVec 3) w0 w1 w2 w3 src dst, Source s q 0 w0 → Source s (q + 1) 0 w1 → Source s (q + 2) 0 w2 →
     Source s (q + 3) 0 w3 → BaseSource s bs src → BaseSource s bd dst →
     (controlOk w3 = true → (s.core s.myCore).copies.length < 16 →
       (∃ t r, exec (.copy q z bd bs) s = .next t ∧ t.th.pc = s.th.pc + 4 ∧ t.th.openBatch.issued = s.th.openBatch.issued + 1 ∧
         (t.core s.myCore).copies = (s.core s.myCore).copies ++ [r] ∧ r.tensor = false ∧ r.src = src + w0.setWidth 64 ∧
         r.dst = dst + w1.setWidth 64 ∧ r.len = w2.toNat ∧ r.batch = s.th.openBatch.number ∧ r.thread = s.refOf s.cur ∧
         r.pluck = w3.getLsbD 28 ∧ SameMemory s t) ∧
       ∀ d, d ≠ 0 → isPort d = false → (s.th.scalar d).busy = false →
         ∃ t r, exec (.copyNb d q z bd bs) s = .next t ∧ t.th.pc = s.th.pc + 4 ∧ (t.th.scalar d).val = 0 ∧
           (t.core s.myCore).copies = (s.core s.myCore).copies ++ [r] ∧ r.src = src + w0.setWidth 64 ∧
           r.dst = dst + w1.setWidth 64 ∧ r.len = w2.toNat) ∧
     (controlOk w3 = true → 16 ≤ (s.core s.myCore).copies.length →
       exec (.copy q z bd bs) s = .next (holdSlot s) ∧
       ∀ d, Accepts s d → exec (.copyNb d q z bd bs) s = .next (retired (delivered s d 1) [] (s.th.pc + 4))) ∧
     (controlOk w3 = false →
       exec (.copy q z bd bs) s = .next (takeTrap s { cause := .illegalOperand, tval := s.th.ir.setWidth 64 }))) ∧
   (∀ s (a : BitVec 5) z o r, Source s a 0 o → o.toNat % 64 = 0 → o.toNat + 64 ≤ 0x38000 → bankOpen s (me s) s.myCore (o.toNat / 0x4000) = true →
     localKey s.myCore o.toNat / 64 ∉ s.bridge.poisoned → (s.core s.myCore).copies.length < 16 →
     tensorRequest s (memRead s.mem (localKey s.myCore o.toNat) 64) = .ok r →
     exec (.tcopy a z) s = .next (retired (pushRequest s r) [a] (s.th.pc + 4)) ∧ r.tensor = true ∧
       r.src.toNat = memGetNat s.mem (localKey s.myCore o.toNat) 8 ∧ r.dst.toNat = memGetNat s.mem (localKey s.myCore o.toNat + 8) 8) ∧
   (∀ s (a : BitVec 5) z o, Source s a 0 o → o.toNat % 64 = 0 → o.toNat + 64 ≤ 0x38000 →
     (bankOpen s (me s) s.myCore (o.toNat / 0x4000) = false → exec (.tcopy a z) s =
       .next (takeTrap s { cause := .lsWindowFault, tval := windowAddr s s.th.vi s.myCore o.toNat })) ∧
     (bankOpen s (me s) s.myCore (o.toNat / 0x4000) = true → localKey s.myCore o.toNat / 64 ∈ s.bridge.poisoned → exec (.tcopy a z) s =
       .next (takeTrap s { cause := .memUncorrectable, tval := windowAddr s s.th.vi s.myCore o.toNat }))) ∧
   (∀ s d, d ≠ 0 → isPort d = false → (s.th.scalar d).busy = false → s.th.sealed.length < 16 →
     ∃ t, exec (.cseal d) s = .next t ∧ t.th.pc = s.th.pc + 4 ∧ (t.th.scalar d).val = s.th.openBatch.number.setWidth 32 ∧
       t.th.sealed = s.th.sealed ++ [s.th.openBatch] ∧ t.th.openBatch = { number := s.th.openBatch.number + 1 } ∧ SameMemory s t) ∧
   (∀ s (n : BitVec 5), s.th.sealed.length ≤ n.toNat →
     ((s.th.cfault.v = false ∨ batchFinished s.th s.th.cfault.batch = false) →
       exec (.cwait n) s = .next (retired (joinCluster (s.setTh (joinLeases s.th))) [] (s.th.pc + 4))) ∧
     (s.th.cfault.v = true → batchFinished s.th s.th.cfault.batch = true →
       exec (.cwait n) s = .next (takeTrap s { cause := .copyFault, tval := s.th.cfaddr }))) ∧
   (∀ th e, (lookD (joinLeases th).leases e {}).done = [] ∧
     (joinLeases th).fflags ||| ffOf (lookD th.leases e {}).flags = (joinLeases th).fflags) ∧
   (∀ s d a z b, Source s a 0 b → Accepts s d →
     (batchFinished s.th (b.setWidth 16) = true → s.th.cfault.v = false →
       exec (.cpoll d a z) s = .next (retired (joinCluster (delivered s d 1)) [a] (s.th.pc + 4))) ∧
     (batchFinished s.th (b.setWidth 16) = false →
       exec (.cpoll d a z) s = .next (retired (delivered s d 0) [a] (s.th.pc + 4))))) ∧
  ((∀ s k i r, nextCopyCore s k = some (i, r) → r.after = 0 ∧ (s.core (coreAt k i)).copies.head? = some r ∧
     ∀ j < 16, ∀ x, (s.core (coreAt k j)).copies.head? = some x → x.after = 0 → r.cls ≤ x.cls) ∧
   (∀ s (core : BitVec 9) k i r rest, k = clusterOf core.toNat → coreAt k i = core.toNat → nextCopyCore s k = some (i, r) →
     (s.core core.toNat).copies = r :: rest → (s.cluster k).copies.length < 64 →
     ∃ t, exec (.copyDispatch core) s = .next t ∧ (t.core core.toNat).copies = rest ∧
       (t.cluster k).copies.map (fun x => x.id) = (s.cluster k).copies.map (fun x => x.id) ++ [r.id]) ∧
   (∀ s (k : BitVec 5) i r, (s.cluster k.toNat).copies[i]? = some r → s.live r.thread = true → r.loose = false →
     (r.bad = none → r.held = none → r.refused = false → r.tensor = false → r.len = 0 →
       ∃ t, exec (.copyRequestEnd k i) s = .next t ∧ (∀ x ∈ (t.cluster k.toNat).copies, x.id ≠ r.id) ∧
         t.thread (r.thread % 4096) = endInBatch (s.thread (r.thread % 4096)) r ∧ SameMemory s t) ∧
     (∀ s1 r1, r.bad = none → r.held = none → r.refused = false → r.row < r.rows → copyPiece s r = .ok (s1, r1) → r1.rows ≤ r1.row →
       r1.id = r.id → r1.bad = none → r1.held = none → r1.refused = false →
       ∃ t, exec (.copyRequestEnd k i) s = .next t ∧ (∀ x ∈ (t.cluster k.toNat).copies, x.id ≠ r.id) ∧ t.mem = s1.mem) ∧
     (∀ va, r.bad = some va → (s.thread (r.thread % 4096)).cfault.v = false →
       ∃ t, exec (.copyRequestEnd k i) s = .next t ∧ (t.thread (r.thread % 4096)).cfault.v = true ∧
         (t.thread (r.thread % 4096)).cfault.cause = 0x02 ∧ (t.thread (r.thread % 4096)).cfault.batch = r.batch ∧
         (t.thread (r.thread % 4096)).cfaddr = va ∧ SameMemory s t)) ∧
   (∀ s (n : BitVec 12) b rest, (s.thread n.toNat).present = true → (s.thread n.toNat).sealed = b :: rest → b.ended = b.issued →
     exec (.batchFinish n) s = .next (s.setThread n.toNat { s.thread n.toNat with
       sealed := rest, fflags := (s.thread n.toNat).fflags ||| b.flags,
       noteBatch := if b.pluck then some b.number else (s.thread n.toNat).noteBatch })))

/-- The CAR instructions (R35, R40, R44 to R49, R54, R292, R293), for a thread that has the store. A CLKN that allocates holds
its slot PENDING while it references the children one by one; CLKL, and a CLKN that finds its line, end in one operation. A line
whose digest another LIVE line has gets a name of its own, is counted in COLL and posts CAR_COLLISION (R45). A full set and a
stale child trap; reclaiming a node releases its children in ascending order first (R49). What is one operation is the model's
reading (log entry 22); so is what an uncorrectable error in a store does, whose trap has a free TH_TVAL and at which the walker
leaves a slot DYING (log entry 59). -/
def Obligations.CarResults : Prop :=
  (∀ s (v : BitVec 6) d lo hi k, s.th.wait = .idle → VecSource s v.toNat lo → VecSource s (v.toNat + 1) hi → CarRight s true k →
    Unawaited s (destRefs s d true) →
    (∀ s1 c x, lookupOrAllocate s k false (hi ++ lo) = .failed s1 c x →
      exec (.clkl v d) s = .next (takeTrap s1 { cause := c, tval := x })) ∧
    (∀ s1 n s2, Accepts s1 d → Accepts (delivered s1 d (n.setWidth 32)) (d + 1) →
      lookupOrAllocate s k false (hi ++ lo) = .named s1 n true →
      s2 = delivered (delivered s1 d (n.setWidth 32)) (d + 1) ((n >>> 32).setWidth 32) →
      exec (.clkl v d) s = .next (retired (s2.setTh { s2.th with
        posted := s2.th.posted ++ [{ cause := .carCollision, tval := n }] }) [] (s1.th.pc + 4))) ∧
    (∀ s1 n, Accepts s1 d → Accepts (delivered s1 d (n.setWidth 32)) (d + 1) →
      (lookupOrAllocate s k false (hi ++ lo) = .named s1 n false → exec (.clkl v d) s =
        .next (retired (delivered (delivered s1 d (n.setWidth 32)) (d + 1) ((n >>> 32).setWidth 32)) [] (s1.th.pc + 4))) ∧
      (∀ w count, carFind s k true (hi ++ lo) = .hit w count → lookupOrAllocate s k true (hi ++ lo) = .named s1 n false →
        exec (.clkn v d) s =
          .next (retired (delivered (delivered s1 d (n.setWidth 32)) (d + 1) ((n >>> 32).setWidth 32)) [] (s1.th.pc + 4)))) ∧
    (∀ w col, carFind s k true (hi ++ lo) = .free w col → exec (.clkn v d) s = .next (holdSlot
      ((pendSlot s (homeStore s k) w true (hi ++ lo)).setTh
        { s.th with wait := .carPending k ((homeStore s k).spot true (hi ++ lo)).set w 0 col })))) ∧
  (∀ s (v : BitVec 6) d k set w j col, s.th.wait = .carPending k set w j col →
    (∀ n s1, (children (carSlot s (homeStore s k) set w).data)[j]? = some n → carRef s (homeStore s k) n = .ok s1 →
      exec (.clkn v d) s = .next (holdSlot (s1.setTh { s1.th with wait := .carPending k set w (j + 1) col }))) ∧
    (∀ n, (children (carSlot s (homeStore s k) set w).data)[j]? = some n → namedSlot s (homeStore s k) n = .error .carStaleName →
      exec (.clkn v d) s = .next (takeTrap (undoSlot s k set w ((children (carSlot s (homeStore s k) set w).data).take j))
        { cause := .carStaleName, tval := n })) ∧
    (∀ s1 s2 n, (children (carSlot s (homeStore s k) set w).data)[j]? = none → col = true → s1 = liveNow s k set w true →
      n = carName (homeStore s k).gen w (digestIndex (carSlot s (homeStore s k) set w).dig) →
      Accepts s1 d → Accepts (delivered s1 d (n.setWidth 32)) (d + 1) →
      s2 = delivered (delivered s1 d (n.setWidth 32)) (d + 1) ((n >>> 32).setWidth 32) →
      exec (.clkn v d) s = .next (retired (s2.setTh { s2.th with
        posted := s2.th.posted ++ [{ cause := .carCollision, tval := n }] }) [] (s1.th.pc + 4))) ∧
    (∀ s1 n, (children (carSlot s (homeStore s k) set w).data)[j]? = none → col = false → s1 = liveNow s k set w false →
      n = carName (homeStore s k).gen w (digestIndex (carSlot s (homeStore s k) set w).dig) →
      Accepts s1 d → Accepts (delivered s1 d (n.setWidth 32)) (d + 1) → exec (.clkn v d) s =
        .next (retired (delivered (delivered s1 d (n.setWidth 32)) (d + 1) ((n >>> 32).setWidth 32)) [] (s1.th.pc + 4)))) ∧
  (∀ s k node l s1 n col, lookupOrAllocate s k node l = .named s1 n col →
    n.toNat % 2 ^ 52 = lineDigest node l % 2 ^ 52 ∧ n.toNat / 2 ^ 56 = (homeStore s k).gen.toNat) ∧
  (∀ s k node l w col, carFind s k node l = .free w col →
    (carSlot s (homeStore s k) ((homeStore s k).spot node l).set w).state = 0 ∧
    (∀ v < w, (carSlot s (homeStore s k) ((homeStore s k).spot node l).set v).state ≠ 0) ∧
    (col = true ↔ ∃ v < 16, (carSlot s (homeStore s k) ((homeStore s k).spot node l).set v).state = 1 ∧
      (carSlot s (homeStore s k) ((homeStore s k).spot node l).set v).dig = lineDigest node l) ∧
    (node = false → ∃ s1, lookupOrAllocate s k node l = .named s1 (carName (homeStore s k).gen w (digestIndex (lineDigest node l))) col ∧
      (carSlot s1 (homeStore s k) ((homeStore s k).spot node l).set w).state = 1 ∧
      (carSlot s1 (homeStore s k) ((homeStore s k).spot node l).set w).count = 1 ∧
      (carSlot s1 (homeStore s k) ((homeStore s k).spot node l).set w).data = l)) ∧
  (∀ s k set w col, (carStore (liveNow s k set w col) k).coll =
    if col = true ∧ (carStore s k).coll ≠ 0xFFFF then (carStore s k).coll + 1 else (carStore s k).coll) ∧
  (∀ s (v : BitVec 6) r lo hi k, Source s r 0 lo → Source s (r + 1) 0 hi → CarRight s false k →
    (s.th.vecReg v.toNat).busy = false → (s.th.vecReg (v.toNat + 1)).busy = false →
    (hi ++ lo = (0 : DWord) → exec (.cnld v r) s =
      .next (retired (vecDelivered (vecDelivered s v.toNat 0) (v.toNat + 1) 0) [] (s.th.pc + 4))) ∧
    (hi ++ lo ≠ (0 : DWord) → carRead s s.myCluster k (hi ++ lo) = .error .carStaleName →
      exec (.cnld v r) s = .next (takeTrap s { cause := .carStaleName, tval := hi ++ lo })) ∧
    (∀ s1 l, hi ++ lo ≠ (0 : DWord) → carRead s s.myCluster k (hi ++ lo) = .ok (s1, l) → exec (.cnld v r) s =
      .next (retired (vecDelivered (vecDelivered s1 v.toNat (l.setWidth 256)) (v.toNat + 1) ((l >>> 256).setWidth 256)) []
        (s1.th.pc + 4)))) ∧
  (∀ s r lo hi k, Source s r 0 lo → Source s (r + 1) 0 hi → CarRight s true k →
    (hi ++ lo = (0 : DWord) → ∀ i ∈ [Instr.cref r, .crel r], exec i s = .next (retired s [] (s.th.pc + 4))) ∧
    (hi ++ lo ≠ (0 : DWord) →
      (∀ s1, carRef s (carStore s k) (hi ++ lo) = .ok s1 → exec (.cref r) s = .next (retired s1 [] (s1.th.pc + 4))) ∧
      (∀ s1, carRel s k (carStore s k) (hi ++ lo) = .ok s1 → exec (.crel r) s = .next (retired s1 [] (s1.th.pc + 4))) ∧
      ∀ i ∈ [Instr.cref r, .crel r],
        (namedSlot s (carStore s k) (hi ++ lo) = .error .carStaleName →
          exec i s = .next (takeTrap s { cause := .carStaleName, tval := hi ++ lo })) ∧
        (namedSlot s (carStore s k) (hi ++ lo) = .error .memUncorrectable → exec i s =
          .next (takeTrap { s with drawn := s.drawn + 1 } { cause := .memUncorrectable, tval := Config.openTval s.drawn })))) ∧
  (∀ s c n w x k set, namedSlot s c n = .ok (set, w, x) →
    (∃ s1, carRef s c n = .ok s1 ∧ (carSlot s1 c set w).count = (if x.count = 0xFFFFFFFF then x.count else x.count + 1) ∧
      (carSlot s1 c set w).state = 1) ∧
    (1 < x.count → x.count ≠ 0xFFFFFFFF → ∃ s1, carRel s k c n = .ok s1 ∧ (carSlot s1 c set w).count = x.count - 1 ∧
      (carSlot s1 c set w).state = 1) ∧
    (x.count ≤ 1 → ∃ s1, carRel s k c n = .ok s1 ∧ (carSlot s1 c set w).count = 0 ∧ (carSlot s1 c set w).state = 2 ∧
      s1.bridge.reclaim = s.bridge.reclaim ++ [(k, set, w)])) ∧
  (∀ s r lo hi k a b, Source s r 0 lo → Source s (r + 1) 0 hi → CarRight s false k → Unawaited s (destRefs s r true) →
    Accepts s r → Accepts (delivered s r a) (r + 1) →
    (hi ++ lo = (0 : DWord) ∧ a = 0 ∧ b = 0) ∨
      (hi ++ lo ≠ (0 : DWord) ∧ ∃ set w x, namedSlot s (carStore s k) (hi ++ lo) = .ok (set, w, x) ∧ a = BitVec.ofNat 32 x.count ∧
        b = BitVec.ofNat 32 ((if x.node then 1 else 0) + if x.count = 0xFFFFFFFF then 2 else 0)) →
    exec (.cstat r) s = .next (retired (delivered (delivered s r a) (r + 1) b) [] (s.th.pc + 4))) ∧
  (∀ s k c n, (∀ e, namedSlot s c n = .error e → dropRef s k c n = s) ∧ ∀ s1, carRel s k c n = .ok s1 → dropRef s k c n = s1) ∧
  (∀ s k set w rest c, s.bridge.reclaim = (k, set, w) :: rest → c = carStore s k → c.en = true →
    c.entry set w / 64 ∉ s.bridge.poisoned →
    ((carSlot s c set w).node = false → ∃ t, exec .reclaimStep s = .next t ∧ t.bridge.reclaim = rest ∧
      (carSlot t c set w).count = 0 ∧ (carSlot t c set w).state = 0 ∧
      ∀ cl, look (t.cluster cl).names (nameKey k (carName c.gen w (digestIndex (carSlot s c set w).dig))) = none) ∧
    (∀ s1, (carSlot s c set w).node = true → c.dataAt set w / 64 ∉ s.bridge.poisoned →
      s1 = (((List.range 8).map (fun j => ((carSlot s c set w).data >>> (64 * j)).setWidth 64)).filter (fun n => n != (0 : DWord))).foldl
        (fun st n => dropRef st k c n) { s with bridge := { s.bridge with reclaim := rest } } →
      ∃ t, exec .reclaimStep s = .next t ∧ t.bridge.reclaim = s1.bridge.reclaim ∧
        (carSlot t c set w).count = 0 ∧ (carSlot t c set w).state = 0 ∧
        (∀ set' w', (carSlot t c set' w').count = if c.entry set' w' = c.entry set w then 0 else (carSlot s1 c set' w').count) ∧
        ∀ cl, look (t.cluster cl).names (nameKey k (carName c.gen w (digestIndex (carSlot s c set w).dig))) = none))

/-! ## Messages, calls, ends of tasks, barriers -/

/-- SEND, SENDNB, RECV and RECVP, and the arrival of a message (R295 to R299). That a message out of a line with an
uncorrectable error traps with a free TH_TVAL is the model's choice (log entry 59). -/
def Obligations.MessageResults : Prop :=
  (∀ s a v z (x : Word) m s1, Source s a 0 x → x.toNat < 512 → VecSource s v.toNat m → MayRelease s 2 →
    s1 = released s (if clusterOf x.toNat = s.myCluster then 2 else 3) →
    (s.th.wait = .idle → ∃ t, exec (.send a v z) s = .next t ∧ t.th.stalled = true ∧ t.th.wait = .sendFlight s1.pitch ∧ t.th.pc = s1.th.pc ∧
      t.mails = s1.mails ++ [mailTo s1 x.toNat m none]) ∧
    (∀ d, d ≠ 0 → isPort d = false → (s1.th.scalar d).busy = false →
      ∃ t, exec (.sendnb d a v z) s = .next t ∧ t.th.pc = s1.th.pc + 4 ∧ (t.th.scalar d).full = false ∧
        t.mails = s1.mails ++ [mailTo s1 x.toNat m (some s1.serial)])) ∧
  (∀ s a v z, s.th.wait = .sendAccepted → exec (.send a v z) s = .next (retired s [a] (s.th.pc + 4))) ∧
  (∀ s a v z (x : Word), s.th.wait = .sendTimedOut → Source s a 0 x → x.toNat < 512 →
    exec (.send a v z) s = .next (takeTrap s { cause := .sendStall, tval := x.setWidth 64 })) ∧
  (∀ s (n : BitVec 12) start, (s.thread n.toNat).wait = .sendRefused start →
    ∃ t, exec (.sendRetry n) s = .next t ∧ (t.thread n.toNat).wait = .sendFlight start ∧ SameMemory s t ∧
      ∀ m ∈ t.mails, m.tag = none → m.msg.sender = n.toNat → m.refused = false) ∧
  (∀ s v a m rest, (s.core s.myCore).queue = m :: rest → rest.length < 16 → (s.core s.myCore).overflow = [] → m.vi = s.th.vi → m.bad = false →
    (s.th.vecReg v.toNat).busy = false → a ≠ 0 → isPort a = false → (s.th.scalar a).busy = false →
    ∀ i ∈ [Instr.recv v a, .recvp v a], ∃ t, exec i s = .next t ∧ t.th.pc = s.th.pc + 4 ∧ (t.th.vecReg v.toNat).val = m.payload ∧
      (t.th.scalar a).val = BitVec.ofNat 32 m.sender ∧ (t.core s.myCore).queue = rest ∧
      (t.core s.myCore).clock = max (s.core s.myCore).clock m.clock ∧ SameMemory s t) ∧
  (∀ s v a m rest, messagesAt s s.myCore = m :: rest → m.vi = s.th.vi → m.bad = true → ∀ i ∈ [Instr.recv v a, .recvp v a],
    exec i s = .next (takeTrap { s with drawn := s.drawn + 1 } { cause := .memUncorrectable, tval := Config.openTval s.drawn })) ∧
  (∀ s v a, (∀ m ∈ messagesAt s s.myCore, m.vi ≠ s.th.vi) →
    exec (.recv v a) s = .next (holdSlot s) ∧
    (Accepts s a → exec (.recvp v a) s = .next (retired (delivered s a 0xFFFFFFFF) [] (s.th.pc + 4)))) ∧
  (∀ s i m, s.mails[i]? = some m → m.refused = false → (∀ x ∈ s.mails.take i, ¬ (x.target = m.target ∧ x.msg.sender = m.msg.sender)) →
    (messageCode s m.target m.msg.vi = 0 → (s.core m.target).overflow = [] → (s.core m.target).queue.length < 16 →
      ∃ t, exec (.messageArrival i) s = .next t ∧ (t.core m.target).queue = (s.core m.target).queue ++ [m.msg] ∧
        (m.tag = none → (t.thread m.msg.sender).wait = .sendAccepted) ∧ SameMemory s t) ∧
    (messageCode s m.target m.msg.vi ≠ 0 → ∀ tag u p k, m.tag = some tag → (s.thread u).producers = p :: k → p.ready = false → p.tag = tag →
      ∃ t q, exec (.messageArrival i) s = .next t ∧ (t.thread u).producers.head? = some q ∧ q.ready = true ∧
        ∀ l ∈ q.landings, l.value = (messageCode s m.target m.msg.vi).setWidth 256))

/-- CALLAT, its arrival and the start of its task complete (R210, R211, R346, R350), and so does RPUT (R321). CALLAT completes
where its sources are readable, rd is a register that a reply can fill, the target is a core, the PC is aligned and the release
has nothing to wait for; a call whose rd is no such register, and one in a pluck handler, is ILLEGAL_OPERAND. -/
def Obligations.CallResults : Prop :=
  (∀ s d a (b : BitVec 3) z y (x : Word) pc, Source s a 0 x → BaseSource s b pc →
    ((d = 0 ∨ isPort d = true ∨ s.th.inpl = true) → exec (.callat d a b z y) s = .next (takeTrap s { cause := .illegalOperand, tval := s.th.ir.setWidth 64 })) ∧
    (d ≠ 0 → isPort d = false → s.th.inpl = false → x.toNat < 512 → pc.toNat % 4 ≠ 0 →
      exec (.callat d a b z y) s = .next (takeTrap s { cause := .misaligned, tval := pc })) ∧
    (∀ k0 k1 k2 k3 s1, d ≠ 0 → isPort d = false → (s.th.scalar d).busy = false → s.th.inpl = false → x.toNat < 512 →
      pc.toNat % 4 = 0 → Source s 28 0 k0 → Source s 29 0 k1 → Source s 30 0 k2 → Source s 31 0 k3 → MayRelease s 2 →
      s1 = released s (if clusterOf x.toNat = s.myCluster then 2 else 3) →
      ∃ t c, exec (.callat d a b z y) s = .next t ∧ t.th.pc = s1.th.pc + 4 ∧ (t.th.scalar d).full = false ∧ t.flights = s1.flights ++ [c] ∧
        c.target = x.toNat ∧ c.pc = pc ∧ c.args = [k0, k1, k2, k3] ∧ c.vi = s1.th.vi ∧ c.cls = s1.th.cls ∧ c.tag = s1.serial)) ∧
  (∀ s i f, s.flights[i]? = some f →
    (coreClosed s f.target = false → openTo s f.target f.vi = true → (s.core f.target).calls.length < 8 →
      ∃ t, exec (.callatArrival i) s = .next t ∧ (t.core f.target).calls = (s.core f.target).calls ++ [f] ∧ SameMemory s t) ∧
    (∀ code : Word, ((coreClosed s f.target = true ∧ code = 0xFFFFFFF3) ∨
        (coreClosed s f.target = false ∧ openTo s f.target f.vi = false ∧ code = 0xFFFFFFF2) ∨
        (coreClosed s f.target = false ∧ openTo s f.target f.vi = true ∧ 8 ≤ (s.core f.target).calls.length ∧ code = 0xFFFFFFF1)) →
      exec (.callatArrival i) s = .next (answer { s with flights := removeAt s.flights i } f.tag code 0))) ∧
  (∀ s core i, firstFree s core = some i → i < 8 ∧ freeForChild s (core * 8 + i) = true ∧
    ∀ j < 8, freeForChild s (core * 8 + j) = true → (s.thread (core * 8 + i)).freedAt ≤ (s.thread (core * 8 + j)).freedAt) ∧
  (∀ s (core : BitVec 9) f rest i, (s.core core.toNat).calls = f :: rest → firstFree s core.toNat = some i →
    inRotation s (core.toNat * 8 + i) = true →
    ∃ t, exec (.taskQueueStart core) s = .next t ∧ (t.core core.toNat).calls = rest ∧ (t.thread (core.toNat * 8 + i)).present = true ∧
      (t.thread (core.toNat * 8 + i)).pc = f.pc ∧ (t.thread (core.toNat * 8 + i)).mode = .u ∧ (t.thread (core.toNat * 8 + i)).vi = f.vi ∧
      (∀ k : BitVec 5, k.toNat < 4 → ((t.thread (core.toNat * 8 + i)).scalar (8 + k)).val = f.args.getD k.toNat 0) ∧
      (t.thread (core.toNat * 8 + i)).child = some { launch := f.launch, block := f.block, caller := f.caller, tag := f.tag } ∧ SameMemory s t) ∧
  (∀ s i a v (x y : Word), s.th.mode = .m → Source s a 0 x → Source s v (sameBefore a v) y → x.toNat < 4096 → i ≠ 0 → isPort i = false →
    ((s.thread (x.toNat % 512 * 8 + x.toNat / 512)).scalar i).busy = false →
    ∃ t, exec (.rput i a v) s = .next t ∧ t.th.pc = s.th.pc + 4 ∧
      (t.thread (x.toNat % 512 * 8 + x.toNat / 512)).scalar i = { val := y, full := true, busy := false } ∧
      (∀ u, u ≠ s.cur → u ≠ x.toNat % 512 * 8 + x.toNat / 512 → t.thread u = s.thread u) ∧ SameMemory s t)

/-- TEXIT and REPLY (R302, R303): the open batch is sealed and the slot waits; with nothing of the task outstanding the slot is
empty, and a reply's value is on its way to the caller; REPLY outside a CALLAT child is ILLEGAL_OPERAND. WAKEST (R304) posts its
wake-up. -/
def Obligations.TaskEnds : Prop :=
  (∀ s a z v, s.th.wait = .idle → s.th.sealed.length < 16 →
    (∃ t, exec .texit s = .next t ∧ t.th.stalled = true ∧ t.th.wait = .ending 1 ∧ t.th.sealed = s.th.sealed ++ [s.th.openBatch] ∧
      t.th.pc = s.th.pc) ∧
    (s.th.child.isSome = true → Source s a 0 v →
      ∃ t, exec (.reply a z) s = .next t ∧ t.th.stalled = true ∧ t.th.wait = .ending 1 ∧ t.th.sealed = s.th.sealed ++ [s.th.openBatch])) ∧
  (∀ s, s.th.wait = .ending 1 → s.th.sealed = [] → s.th.cfault.v = false → s.th.producers = [] → s.th.arrivals = [] → StoresDrained s →
    (∃ t, exec .texit s = .next t ∧ t.th.present = false) ∧
    (∀ a z v c, s.th.child = some c → Source s a 0 v → s.th.present = true → s.cur < 4096 →
      s.th.leases = [] → s.th.rsv = .free →
      ∃ t clock, exec (.reply a z) s = .next t ∧ t.th.present = false ∧
        ∀ u, u ≠ s.cur → (t.thread u).producers = (answerIn (s.thread u) c.tag v clock).producers)) ∧
  (∀ s a z, s.th.child = none → exec (.reply a z) s = .next (takeTrap s { cause := .illegalOperand, tval := s.th.ir.setWidth 64 })) ∧
  (∀ s a b z y (x w : Word) n l s1, Source s a 0 x → Source s b (sameBefore a b) w → launchOf s s.th = some (n, l) → x.toNat < 2 ^ 23 →
    w.toNat ≠ 0 → w.toNat < 8 → w.toNat < l.stages → x.toNat % 2 ^ 16 < l.gx * l.gy → x.toNat / 2 ^ 16 < l.x * l.y → MayRelease s 2 →
    s1 = released s 3 →
    ∃ t p, exec (.wakest a b z y) s = .next t ∧ t.th.pc = s1.th.pc + 4 ∧ t.stWakes = s1.stWakes ++ [p] ∧ p.launch = n ∧
      p.block = x.toNat % 2 ^ 16 ∧ p.tile = x.toNat / 2 ^ 16 ∧ p.stage = w.toNat)

/-- The barrier instructions and a barrier's cycle (R305 to R310). EXPECT, BWAIT and BTEST put their question and hold the slot
until the cycle answers. -/
def Obligations.BarrierResults : Prop :=
  (∀ s a b z y c (o : BitVec 2) (w credit : Word) cl n, Source s a 0 w → Source s b (sameBefore a b) credit → w.toNat < 1024 →
    credit.getLsbD 31 = false → barrierOf w s.myCluster = (cl, n) → s.cur < 4096 → s.th.present = true →
    (credit = 0 → o.getLsbD 1 = false → s.th.arrivals = [] →
      ∃ t, exec (.arrive a b z y c o) s = .next t ∧ t.th.pc = s.th.pc + 4 ∧ t.th.arrivals = [] ∧
        (barrierAt t cl n).arrivals = (barrierAt s cl n).arrivals ++ [{ sender := s.refOf s.cur, vi := s.th.vi, word := w, credit := 0 }] ∧
        SameMemory s t) ∧
    (credit ≠ 0 → openCopies s (s.refOf s.cur) ≠ [] →
      ∃ t x, exec (.arrive a b z y c o) s = .next t ∧ t.th.pc = s.th.pc + 4 ∧ t.th.arrivals = s.th.arrivals ++ [x] ∧ x.cl = cl ∧ x.n = n ∧
        x.credit = credit ∧ x.copies = openCopies s (s.refOf s.cur) ∧ (barrierAt t cl n).arrivals = (barrierAt s cl n).arrivals)) ∧
  (∀ s (n : BitVec 12) x rest, (s.thread n.toNat).present = true → (s.thread n.toNat).arrivals = x :: rest → x.rel = none →
    arrivalReady s (s.refOf n.toNat) x = true →
    ∃ t, exec (.deferredArrival n) s = .next t ∧ (t.thread n.toNat).arrivals = rest ∧ SameMemory s t ∧
      (barrierAt t x.cl x.n).arrivals = (barrierAt s x.cl x.n).arrivals ++
        [{ sender := s.refOf n.toNat, vi := (s.thread n.toNat).vi, word := x.word, credit := x.credit }]) ∧
  (∀ s a b d z y c (w v : Word) n, Source s a 0 w → w.toNat < 1024 → barrierOf w s.myCluster = (s.myCluster, n) →
    (s.th.wait = .idle → barrierFor s (barrierAt s s.myCluster n) s.th.vi = true →
      (Source s b (sameBefore a b) v → v.getLsbD 31 = false →
        ∃ t, exec (.expect a b z y) s = .next t ∧ t.th.stalled = true ∧ t.th.wait = .barAsked ∧
          (barrierAt t s.myCluster n).expects = (barrierAt s s.myCluster n).expects ++ [(s.cur, v)]) ∧
      (Source s b (sameBefore a b) v → Accepts s d →
        ∃ t, exec (.bwait d a b z y c) s = .next t ∧ t.th.stalled = true ∧ t.th.wait = .barAsked ∧
          (barrierAt t s.myCluster n).waits = (barrierAt s s.myCluster n).waits ++ [(s.cur, v.setWidth 16)]) ∧
      (∃ t, exec (.btest d a z) s = .next t ∧ t.th.stalled = true ∧ t.th.wait = .barAsked ∧
        (barrierAt t s.myCluster n).tests = (barrierAt s s.myCluster n).tests ++ [s.cur])) ∧
    (∀ x : Word, s.th.wait = .barAnswered x → Accepts s d →
      (Source s b (sameBefore a b) v →
        exec (.bwait d a b z y c) s = .next (joinCluster (retired (delivered s d x) [a, b] (s.th.pc + 4)))) ∧
      exec (.btest d a z) s = .next (retired (delivered s d x) [a] (s.th.pc + 4))) ∧
    (s.th.wait = .barRefused → exec (.btest d a z) s = .next (takeTrap s { cause := .barrierFault, tval := w.setWidth 64 }))) ∧
  (∀ s (cl : BitVec 5) (n : BitVec 4) b arr (bal : Int), b = barrierAt s cl.toNat n.toNat → b.arrivals ≠ [] ∨ b.expects ≠ [] →
    (∀ x ∈ b.arrivals, barrierFor s b x.vi = true) → (∀ e ∈ b.expects, barrierFor s b (s.thread e.1).vi = true) →
    (∀ x ∈ b.waits, barrierFor s b (s.thread x.1).vi = true) → b.tests = [] →
    arr = min (b.arr.toNat + b.arrivals.length) 65535 → bal = wrapBal (b.bal - ((b.arrivals.map (fun x => x.credit.toNat)).sum : Nat)) →
    ∃ t, exec (.barrierCycle cl n) s = .next t ∧ (barrierAt t cl.toNat n.toNat).arrivals = [] ∧
      (barrierAt t cl.toNat n.toNat).expects = [] ∧
      (b.count.toNat ≤ arr → bal = 0 → (barrierAt t cl.toNat n.toNat).phase = b.phase + 1 ∧
        (barrierAt t cl.toNat n.toNat).arr = BitVec.ofNat 16 (arr - b.count.toNat) ∧
        (barrierAt t cl.toNat n.toNat).bal = wrapBal ((b.expects.map (fun e => e.2.toNat)).sum : Nat) ∧
        (b.expects = [] → ∀ x ∈ b.waits, x.2 = b.phase → (t.thread x.1).wait = .barAnswered ((b.phase + 1).setWidth 32))) ∧
      (¬ (b.count.toNat ≤ arr ∧ bal = 0) → (barrierAt t cl.toNat n.toNat).phase = b.phase ∧
        (barrierAt t cl.toNat n.toNat).arr = BitVec.ofNat 16 arr ∧
        (barrierAt t cl.toNat n.toNat).bal = wrapBal (bal + ((b.expects.map (fun e => e.2.toNat)).sum : Nat))) ∧
      (∀ u bytes, b.expects = [(u, bytes)] → b.waits = [] → (t.thread u).pc = (s.thread u).pc + 4 ∧ (t.thread u).stalled = false ∧
        (t.thread u).wait = .idle) ∧ SameMemory s t)

/-! ## Queues, launches, blocks -/

/-- Queue windows and their registers (R354 to R356, R362, R369): a whole record is queued or refused with a reason. The host
writes a window only once the module is brought up (`booted`, R431). -/
def Obligations.QueueResults : Prop :=
  (∀ s (vi : BitVec 10) (l : List (BitVec 8)) r, booted s = true → l.length = 64 → r = BitVec.ofNat 512 (ofLanes 8 (l.map (fun b => b.toNat))) →
    (refusal (s.viOf vi.toNat) r = 0 → ∃ t, exec (.enqueue vi l) s = .next t ∧ (t.viOf vi.toNat).qseq = (s.viOf vi.toNat).qseq + 1 ∧
      (t.viOf vi.toNat).queue = (s.viOf vi.toNat).queue ++ [s.serial] ∧
      look t.launches s.serial = some (readRecord vi r s.bridge.hostClock) ∧ SameMemory s t) ∧
    (refusal (s.viOf vi.toNat) r ≠ 0 → ∃ t, exec (.enqueue vi l) s = .next t ∧
      t.viOf vi.toNat = { s.viOf vi.toNat with qref := (s.viOf vi.toNat).qref + 1, qerr := refusal (s.viOf vi.toNat) r } ∧
      t.launches = s.launches ∧ SameMemory s t)) ∧
  (∀ s (vi : BitVec 10) (l : List (BitVec 8)), booted s = true → l.length ≠ 64 → ∃ t, exec (.enqueue vi l) s = .next t ∧
    t.viOf vi.toNat = { s.viOf vi.toNat with qref := (s.viOf vi.toNat).qref + 1, qerr := 0x01 } ∧ t.launches = s.launches) ∧
  (∀ (v : Vi) r, (64 ≤ v.queue.length → refusal v r = 0x02) ∧
    (v.queue.length < 64 → v.qcfg.getLsbD 31 = false → refusal v r = 0x03) ∧
    (v.queue.length < 64 → v.qcfg.getLsbD 31 = true → numAt r 0 1 ≠ 1 → numAt r 0 1 ≠ 2 → refusal v r = 0x04)) ∧
  (∀ s (vi : BitVec 10) (w : BitVec 32), booted s = true →
    ((w.toNat / 2 ^ 19 % 2 ^ 8 = 0 ∨ 409600 < w.toNat % 2 ^ 19) → exec (.viQcfgWrite vi w) s = .next s) ∧
    (w.toNat / 2 ^ 19 % 2 ^ 8 ≠ 0 → w.toNat % 2 ^ 19 ≤ 409600 → w.getLsbD 31 = true →
      ∃ t, exec (.viQcfgWrite vi w) s = .next t ∧ (t.viOf vi.toNat).qcfg = w &&& 0x9FFFFFFF ∧
        (t.viOf vi.toNat).queue = (s.viOf vi.toNat).queue ∧ t.launches = s.launches ∧
        t.module = { s.module with passDue := t.module.passDue }) ∧
    (∀ n l, w.toNat / 2 ^ 19 % 2 ^ 8 ≠ 0 → w.toNat % 2 ^ 19 ≤ 409600 → w.getLsbD 31 = false → (s.viOf vi.toNat).queue = [n] →
      look s.launches n = some l → l.vi = vi → l.placed = 0 →
      ∃ t, exec (.viQcfgWrite vi w) s = .next t ∧ (t.viOf vi.toNat).queue = [] ∧
        look t.launches n = some { l with code := 4, held := none, refused := false })) ∧
  (∀ s (vi : BitVec 10) (v : BitVec 64), ∃ t, exec (.savebaseWrite vi v) s = .next t ∧
    (t.viOf vi.toNat).savebase = v &&& 0xFFFFFFFFF0000001 ∧ t.module = { s.module with passDue := t.module.passDue } ∧ SameMemory s t)

/-- A record from its dependency to its completion (R358 to R361): a read whose page request was refused fails the record, and a
completion write whose page request was refused is lost. -/
def Obligations.LaunchResults : Prop :=
  (∀ s (vi : BitVec 10) n l, queueHeadOf s vi.toNat = some (n, l) → l.ready = false → l.held = none → l.refused = true →
    (s.viOf vi.toNat).qcfg.getLsbD 31 = true → (∀ w ∈ s.bridge.watchers, w.thread ≠ schedWaiter vi.toNat) →
    exec (.dependencyCheck vi) s = .next (failLaunch s n l l.heldCode)) ∧
  (∀ s (vi : BitVec 10) n l, queueHeadOf s vi.toNat = some (n, l) → l.ready = false → l.held = none → l.refused = false →
    (s.viOf vi.toNat).qcfg.getLsbD 31 = true → (∀ w ∈ s.bridge.watchers, w.thread ≠ schedWaiter vi.toNat) →
    (l.dep = false ∨ l.passed = true) → l.vi = vi →
    (l.signal = true → exec (.dependencyCheck vi) s = .next (leaveVi (setLaunch s n { l with ready := true }) vi.toNat n)) ∧
    (∀ s1 tab c1 s2 args c2, l.signal = false → schedRead s l.who l.stageTab 64 = .ok (s1, tab, c1) →
      (tableOk (tableEntries tab) l.stages = false → ∃ t x, exec (.dependencyCheck vi) s = .next t ∧ look t.launches n = some x ∧ x.code = 1 ∧
        n ∉ (t.viOf vi.toNat).queue) ∧
      (tableOk (tableEntries tab) l.stages = true → schedRead s1 l.who l.argBlock 64 = .ok (s2, args, c2) → argsOk args = true →
        ∃ t x, exec (.dependencyCheck vi) s = .next t ∧ look t.launches n = some x ∧ x.ready = true ∧ x.entries = tableEntries tab ∧
          x.clock = max l.clock (max c1 c2) ∧ t.module.passDue = true ∧
          ∀ i < 4, lookD x.cwbase i 0 = BitVec.ofNat 64 (numAt args (16 * i) 8) ∧
            lookD x.cwsize i 0 = BitVec.ofNat 32 (numAt args (16 * i + 8) 4)))) ∧
  (∀ s (vi : BitVec 10) n l s1 (w : Line) c, queueHeadOf s vi.toNat = some (n, l) → l.ready = false → l.held = none →
    l.refused = false → (s.viOf vi.toNat).qcfg.getLsbD 31 = true → (∀ w ∈ s.bridge.watchers, w.thread ≠ schedWaiter vi.toNat) →
    l.dep = true → l.passed = false → l.vi = vi → l.signal = true → schedRead s l.who l.depaddr 4 = .ok (s1, w, c) →
    (l.depeq = true ∧ w.setWidth 32 = l.depval ∨ l.depeq = false ∧ (w.setWidth 32 - l.depval).toNat < 2 ^ 31) →
    ∃ t x, exec (.dependencyCheck vi) s = .next t ∧ look t.launches n = some x ∧ x.ready = true ∧ x.clock = max l.clock c ∧
      n ∉ (t.viOf vi.toNat).queue) ∧
  (∀ s n l, look s.launches n = some l → l.done = false → l.complete = true → l.held = none → childrenOf s n = false →
    (l.code = 0 ∨ blockBusy s l.vi = false) →
    (l.cmp = false ∨ l.refused = true → ∃ t, exec (.launchCompletion n) s = .next t ∧ (look t.launches n).map (fun x => x.done) = some true ∧
      (t.viOf l.vi.toNat).qdone = (s.viOf l.vi.toNat).qdone + 1 ∧ SameMemory s t) ∧
    (∀ s1 key c, l.cmp = true → l.refused = false → l.wake = false →
      schedWrite s l.who l.cmpaddr (if l.code = 0 then l.cmpval else 0x80000000 + l.code) l.clock = .ok (s1, key, c) →
      ∃ t, exec (.launchCompletion n) s = .next t ∧ (look t.launches n).map (fun x => x.done) = some true ∧
        (t.viOf l.vi.toNat).qdone = (s1.viOf l.vi.toNat).qdone + 1 ∧ t.mem = s1.mem))

/-- Placement, budgets, stages and the end of a block (R343 to R345, R363 to R365): a pass with one eligible queue seats the
queue's next block on the qualifying cluster with the fewest free slots, every tile on the lowest free slot of its core. -/
def Obligations.SchedulerResults : Prop :=
  (∀ s, s.module.passDue = true → ∃ t, exec .placementPass s = .next t ∧
    ((∀ v ∈ s.vis, eligible { s with module := { s.module with passDue := false } } v.1 = false) →
      t.module.passDue = false ∧ t.blocks = s.blocks ∧ SameMemory s t)) ∧
  (∀ s s1 vi n l k seats, s.module.passDue = true → (∀ v ∈ s.vis, v.1 ≠ vi → eligible s v.1 = false) → eligible s vi = true →
    nextBlock s vi = some (n, l, none) → l.vi.toNat = vi → (s.viOf vi).queue = [n] → l.placed + 1 = l.blocks → l.barmask = 0 →
    (s.viOf vi).ring = some l.cls → l.x * l.y ≤ (s.viOf vi).deficit + quant s vi → l.x * l.y ≤ quant s vi + 128 →
    s1 = { settleQueues s with module := { (settleQueues s).module with passDue := false } } → choose s1 vi l = some (k, seats) →
    ∃ t, exec .placementPass s = .next t ∧ t.module.passDue = true ∧ (t.viOf vi).queue = [] ∧ SameMemory s t ∧
      look t.blocks (n * 65536 + l.placed) = some
        { launch := n, number := l.placed, cluster := k, seats := seats, pending := (List.range (l.x * l.y)).map (fun i => (i, 0)), seq := s.serial } ∧
      (look t.launches n).map (fun x => x.placed) = some (l.placed + 1)) ∧
  (∀ s vi l k seats, choose s vi l = some (k, seats) → k < Config.clusters ∧ qualifies s vi l k = some seats ∧
    ∀ j < Config.clusters, (qualifies s vi l j).isSome = true →
      freeSlots s k ≤ freeSlots s j ∧ (freeSlots s k = freeSlots s j → k ≤ j)) ∧
  (∀ s vi l k seats, qualifies s vi l k = some seats → seats.length = l.x * l.y ∧ ∀ (i u : Nat), seats[i]? = some u →
    coreOf u = coreAt k (i % 16) ∧ slotFree s u = true ∧
    ∀ x < u, coreOf x = coreOf u → slotFree s x = true → x ∈ seats.take i) ∧
  (∀ s vi n l cl seats, l.barmask = 0 → look (placeBlock s vi n l cl seats).blocks (n * 65536 + l.placed) =
      some { launch := n, number := l.placed, cluster := cl, seats := seats, pending := (List.range (l.x * l.y)).map (fun t => (t, 0)), seq := s.serial } ∧
    (look (placeBlock s vi n l cl seats).launches n).map (fun x => x.placed) = some (l.placed + 1)) ∧
  (∀ s, s.module.samples * 1000 ≤ s.pitch → s.module.samples < s.module.periods * 100 →
    ∃ t, exec .budgetSample s = .next t ∧ t.module.samples = s.module.samples + 1 ∧ SameMemory s t ∧
      ∀ v x, look s.vis v = some x → (t.viOf v).used.toNat = min (x.used.toNat + heldSlots s v) 0x7FFFF ∧
        (t.viOf v).exh = (x.exh || decide (x.qcfg.toNat % 2 ^ 19 ≤ min (x.used.toNat + heldSlots s v) 0x7FFFF))) ∧
  (∀ s, s.module.periods * 100000 ≤ s.pitch → s.module.samples = s.module.periods * 100 →
    ∃ t, exec .periodStart s = .next t ∧ t.module.periods = s.module.periods + 1 ∧ SameMemory s t ∧
      ∀ v, (t.viOf v).used = 0 ∧ (t.viOf v).exh = false) ∧
  (∀ s launch block tile l b n stage, look s.launches launch = some l → look s.blocks (launch * 65536 + block) = some b →
    b.seats[tile]? = some n → nextStage b tile = some stage → b.displaced = false → b.leaving = false → b.ended = false →
    (s.thread n).present = false → restoring s n = false → inRotation s n = true →
    ∃ t, exec (.stageStart launch block tile) s = .next t ∧ (t.thread n).present = true ∧ (t.thread n).mode = .u ∧
      (t.thread n).pc = l.entries.getD stage 0 ∧ (t.thread n).cwbase = l.cwbase ∧ (t.thread n).vi = l.vi ∧
      ((t.thread n).scalar 8).val = BitVec.ofNat 32 (block + tile * 2 ^ 16 + stage * 2 ^ 23) ∧
      ((t.thread n).scalar 11).val = BitVec.ofNat 32 (l.gx + l.gy * 2 ^ 16) ∧
      (look t.blocks (launch * 65536 + block)).map (fun x => (x.pending.contains (tile, stage), x.started)) =
        some (false, b.started ++ [(tile, stage)]) ∧ SameMemory s t) ∧
  (∀ s i w b, s.stWakes[i]? = some w → look s.blocks (w.launch * 65536 + w.block) = some b → b.displaced = false → b.ended = false →
    (w.tile, w.stage) ∉ b.pending → (w.tile, w.stage) ∉ b.started →
    ∃ t, exec (.wakestWakeupArrival i) s = .next t ∧ t.stWakes = removeAt s.stWakes i ∧
      (look t.blocks (w.launch * 65536 + w.block)).map (fun x => x.pending) = some (b.pending ++ [(w.tile, w.stage)])) ∧
  (∀ s i w b l, s.mdWakes[i]? = some w → look s.blocks (w.launch * 65536 + w.block) = some b → look s.launches w.launch = some l →
    b.displaced = false → b.ended = false → w.stage ≠ 0 → w.stage < l.stages → ∀ n, b.seats = [n] → coreOf n = w.core →
    (0, w.stage) ∉ b.pending → (0, w.stage) ∉ b.started →
    ∃ t, exec (.mdrainWakeup i) s = .next t ∧ t.mdWakes = removeAt s.mdWakes i ∧
      (look t.blocks (w.launch * 65536 + w.block)).map (fun x => x.pending) = some (b.pending ++ [(0, w.stage)])) ∧
  (∀ s launch block l b, look s.launches launch = some l → look s.blocks (launch * 65536 + block) = some b →
    runningSeats s (launch * 65536 + block) b = [] → savedOf s (launch * 65536 + block) = [] → b.pending = [] →
    (∀ w ∈ s.stWakes ++ s.mdWakes, w.poster ≠ some (launch * 65536 + block)) →
    ∃ t, exec (.blockCompletion launch block) s = .next t ∧ look t.blocks (launch * 65536 + block) = none ∧
      (look t.launches launch).map (fun x => x.finished) = some (l.finished + 1) ∧ t.module.passDue = true ∧ SameMemory s t)

/-- Pre-emption and restore of a thread of no block outside protection, and the end of a block (R370, R371, R391): the image
holds the thread, whose slot is empty until the restore. Three points are the model's readings: the restored mode, and what the
hardware keeps beside the image (log entry 35); when each other task of the block stops (log entries 4 and 40); and bits [1:0]
of the image's PC taken as 0 (log entry 65). -/
def Obligations.PreemptResults : Prop :=
  (∀ s (core : BitVec 9) p rest n, (s.core core.toNat).preempts = p :: rest → n = core.toNat * 8 + p.slot → n < 4096 → p.restore = false →
    p.started = false → p.block = none → (s.thread n).present = true → inRotation s n = true → finishing (s.thread n).wait = false →
    (s.thread n).stops = false → (s.thread n).mode = .u → (s.thread n).inpl = false → saveEnabled s (s.thread n).vi.toNat = true →
    ∃ t, exec (.preemptSave core) s = .next t ∧ (t.core core.toNat).preempts = { p with started := true } :: rest ∧
      (t.thread n).pc = (s.thread n).pc ∧ (t.thread n).stalled = false ∧
      ((∀ e < 4, ∀ o ∈ (lookD (s.thread n).leases e {}).ops, o.moved = 0) → SameMemory s t) ∧
      ∀ e < 4, (lookD (s.thread n).leases e {}).state = .held → (lookD (t.thread n).leases e {}).state = .parked) ∧
  (∀ s (core : BitVec 9) p rest n, (s.core core.toNat).preempts = p :: rest → n = core.toNat * 8 + p.slot → n < 4096 → p.slot < 8 →
    p.restore = false → p.started = true → (s.thread n).present = true → (s.thread n).task = none → ctxOf s n = 0 →
    (∀ q ∈ (s.thread n).producers, q.ready = false) → drained s n = true →
    (∀ q ∈ rest, q.slot = p.slot → q.restore = true ∨ q.started = true ∨ q.block.isSome = true) →
    ∃ t, exec (.preemptSaveDone core) s = .next t ∧ t.thread n = { Thread.reset p.slot with freedAt := (t.thread n).freedAt } ∧ (t.core core.toNat).preempts = rest ∧
      look t.saved (s.refOf n) = some { s.thread n with fflags := 0, noteFault := [], era := s.module.era, ctx := 0, stalled := false } ∧
      memGetNat t.mem (imageOf (saveBase s (s.thread n).vi.toNat) n) 3840 = threadImage s n % 2 ^ 30720) ∧
  (∀ s n, partOf (threadImage s n) 0 8 = (s.thread n).pc.toNat ∧ partOf (threadImage s n) 8 4 = (statWord (s.thread n) n).toNat) ∧
  (∀ s (core : BitVec 9) p rest n r image, (s.core core.toNat).preempts = p :: rest → n = core.toNat * 8 + p.slot → p.restore = true →
    savedFor s n p.block = some r → (s.thread n).present = false → readImage s r p.base = .ok image →
    (p.started = false → inRotation s n = true → ∃ t, exec (.preemptRestore core) s = .next t ∧
      (t.core core.toNat).preempts = { p with started := true } :: rest ∧ SameMemory s t ∧ t.threads = s.threads) ∧
    (p.started = true → inRotation s n = true → imageBad s r p.base = false →
      (s.core core.toNat).records.length + (imageRecords image).length ≤ 8 →
      ∃ t, exec (.preemptRestoreDone core) s = .next t ∧ (t.core core.toNat).preempts = rest ∧ look t.saved r = none ∧
        (t.thread n).mode = .u ∧ (t.thread n).pc = BitVec.ofNat 64 (partOf image 0 8 / 4 * 4))) ∧
  (∀ s (n : BitVec 12) key b l, taskKey s n.toNat = some key → slotRuns s n.toNat = true → (s.thread n.toNat).mode ≠ .u → look s.blocks key = some b →
    look s.launches b.launch = some l → b.seats = [n.toNat] → savedOf s key = [] → (s.thread n.toNat).leases = [] →
    (s.thread n.toNat).rsv = .free →
    ∃ t, exec (.blockEnd n) s = .next t ∧ (t.thread n.toNat).ends = true ∧
      (look t.blocks key).map (fun x => (x.ended, x.pending)) = some (true, []) ∧
      (look t.launches b.launch).map (fun x => x.code) = some (if l.code = 0 then 3 else l.code))

/-! ## The module's registers, power, protection, the host -/

/-- CAR stores, commutative ranges, stash banks, cluster memory and barriers, as their registers declare them (R30 to R34, R58,
R73, R96, R306), and the end of the work that a write starts. That INIT clears the directory of whatever range is written with
it, also of a reserved LOG2SIZE (7 to 15), is the model's choice (log entry 80). -/
def Obligations.DeclarationResults : Prop :=
  (∀ s (n : BitVec 2) (v : BitVec 64), (carStore s n.toNat).en = false → (carStore s n.toNat).dbusy = false →
    (v.getLsbD 3 = true → v.getLsbD 0 = false → (carStore s n.toNat).ibusy = false → ∃ t, exec (.carInit n v) s = .next t ∧ SameMemory s t ∧
      (carStore t n.toNat).ibusy = true ∧ (carStore t n.toNat).clearBase = v.extractLsb' 30 34 ∧
      (carStore t n.toNat).clearLog = v.extractLsb' 4 4) ∧
    (v.getLsbD 0 = true → carMayEnable s.module n.toNat { carStore s n.toNat with
        pbase := v.extractLsb' 30 34, gen := v.extractLsb' 8 8, log2 := v.extractLsb' 4 4 } = true →
      ∃ t, exec (.carStoreEnable n v) s = .next t ∧ (carStore t n.toNat).en = true ∧ (carStore t n.toNat).pbase = v.extractLsb' 30 34 ∧
        (carStore t n.toNat).gen = v.extractLsb' 8 8 ∧ SameMemory s t ∧
        ∀ l ∈ t.bridge.hostHeld, ¬ ((v.extractLsb' 30 34).toNat * 2 ^ 30 ≤ 64 * l.1 ∧
          64 * l.1 < (v.extractLsb' 30 34).toNat * 2 ^ 30 + 2 ^ (30 + (v.extractLsb' 4 4).toNat)))) ∧
  (∀ s (n : BitVec 2), (carStore s n.toNat).ibusy = true → ∃ t, exec (.carDirectoryClearDone n) s = .next t ∧
    (carStore t n.toNat).ibusy = false ∧ ∀ k, memByte t.mem k =
      if (carStore s n.toNat).clearBase.toNat * 2 ^ 30 ≤ k ∧
          k < (carStore s n.toNat).clearBase.toNat * 2 ^ 30 + 2 ^ (30 + (carStore s n.toNat).clearLog.toNat) ∧
          (k - (carStore s n.toNat).clearBase.toNat * 2 ^ 30) % 2048 < 1024 then 0 else memByte s.mem k) ∧
  (∀ s (n : BitVec 2) (v : BitVec 64), (carStore s n.toNat).en = true → v.getLsbD 0 = false → ∃ t, exec (.carStoreDisable n v) s = .next t ∧
    carStore t n.toNat = { carStore s n.toNat with en := false, dbusy := true } ∧ SameMemory s t) ∧
  (∀ s (n : BitVec 2), (carStore s n.toNat).dbusy = true → carUnderway s n.toNat = false →
    ∃ t, exec (.carDisableDone n) s = .next t ∧ (carStore t n.toNat).dbusy = false ∧
    ∀ x ∈ t.bridge.reclaim, x.1 ≠ n.toNat) ∧
  (∀ s (n : BitVec 4) (v : BitVec 32), crcfgOf s n.toNat &&& 3 = 0 → v.getLsbD 0 = true →
    crMayEnable s.module n.toNat (v &&& 0x0FFFFFF1) = true → ∃ t, exec (.crangeEnable n v) s = .next t ∧
      crcfgOf t n.toNat = v &&& 0x0FFFFFF1 ∧ SameMemory s t) ∧
  (∀ s (n : BitVec 4) (v : BitVec 32), (crcfgOf s n.toNat).getLsbD 0 = true → v.getLsbD 0 = false → ∃ t, exec (.crangeDisable n v) s = .next t ∧
    (crcfgOf t n.toNat).getLsbD 0 = false ∧ (crcfgOf t n.toNat).getLsbD 1 = true ∧ SameMemory s t) ∧
  (∀ s (n : BitVec 4), (crcfgOf s n.toNat).getLsbD 1 = true → ∃ t, exec (.crangeDisableDone n) s = .next t ∧
    (crcfgOf t n.toNat).getLsbD 1 = false) ∧
  (∀ s (c : BitVec 9) (b : BitVec 4) (v : BitVec 64), v.getLsbD 0 = true → b.toNat < 14 → bstashOf s c.toNat b.toNat &&& 3 = 0 →
    (∀ p ∈ (s.core c.toNat).bstash, p.1 ≠ b.toNat → p.2 ≠ v &&& 0xFFFFFFFFFFFFFFF1) →
    ∃ t, exec (.stashMap c b v) s = .next t ∧ bstashOf t c.toNat b.toNat = v &&& 0xFFFFFFFFFFFFFFF1 ∧ SameMemory s t) ∧
  (∀ s (c : BitVec 9) (b : BitVec 4) (v : BitVec 64), (bstashOf s c.toNat b.toNat).getLsbD 0 = true → v.getLsbD 0 = false →
    ∃ t, exec (.stashUnmap c b v) s = .next t ∧ (bstashOf t c.toNat b.toNat).getLsbD 0 = false ∧
      (bstashOf t c.toNat b.toNat).getLsbD 1 = true ∧ SameMemory s t) ∧
  (∀ s (c : BitVec 9) (b : BitVec 4), (bstashOf s c.toNat b.toNat).getLsbD 1 = true → ∃ t, exec (.stashUnmapDone c b) s = .next t ∧
    (bstashOf t c.toNat b.toNat).getLsbD 1 = false ∧ ∀ p ∈ (t.core c.toNat).stash, p.1 % 16 ≠ b.toNat) ∧
  (∀ s (k : BitVec 5) (w : BitVec 32) (lease : BitVec 8) (scratch : BitVec 4), lease = w.extractLsb' 8 8 → scratch = w.extractLsb' 0 4 →
    ((lease = 0 ∨ 64 < lease.toNat ∨ 8 < scratch.toNat ∨ (scratch ≠ (s.cluster k.toNat).scratch ∧ residentBlocks s k.toNat ≠ [])) →
      exec (.ccfgWrite k w) s = .next s) ∧
    (lease ≠ 0 → lease.toNat ≤ 64 → scratch = (s.cluster k.toNat).scratch → scratch.toNat ≤ 8 →
      exec (.ccfgWrite k w) s = .next (s.setCluster k.toNat { s.cluster k.toNat with lease := lease })) ∧
    (lease ≠ 0 → lease.toNat ≤ 64 → scratch ≠ (s.cluster k.toNat).scratch → scratch.toNat ≤ 8 → residentBlocks s k.toNat = [] →
      ∃ t, exec (.ccfgWrite k w) s = .next t ∧ (t.cluster k.toNat).scratch = scratch ∧ (t.cluster k.toNat).lease = lease ∧
        (t.cluster k.toNat).lines = [] ∧ ∀ o < 2 ^ 22, memByte t.mem (scratchKey k.toNat o) = 0)) ∧
  (∀ s (k : BitVec 5) (n : BitVec 4) (w : BitVec 32), w.toNat % 1024 ≠ 0 → ∃ t, exec (.barrierInit k n w) s = .next t ∧
    (barrierAt t k.toNat n.toNat).count.toNat = w.toNat % 1024 ∧
    (w.getLsbD 31 = true → (barrierAt t k.toNat n.toNat).phase = 0 ∧ (barrierAt t k.toNat n.toNat).arr = 0 ∧
      (barrierAt t k.toNat n.toNat).bal = 0) ∧ SameMemory s t)

/-- Dividers, rails, slot removal, the capo, the trip and the link (R395 to R402, R420, R422, R423). The firmware beats once it
runs (R431); a die recovers once it has been below 95 °C for 1 ms. -/
def Obligations.PowerResults : Prop :=
  (∀ s (c : BitVec 9) (w : BitVec 32),
    ((w.toNat % 8 = 7 ∨ ((w.toNat % 8 = 6 ∨ w.getLsbD 3 = false) ∧ coreInUse s c.toNat = true)) →
      exec (.coPwrWrite c w) s = .next s) ∧
    (w.toNat % 8 < 6 → w.getLsbD 3 = (s.core c.toNat).sw → (w.getLsbD 3 = true ∨ coreInUse s c.toNat = false) →
      s.module.capo = false → exec (.coPwrWrite c w) s =
        .next (lowerRail (s.setCore c.toNat { s.core c.toNat with div := w.setWidth 3, sw := w.getLsbD 3 }) (rowOf c.toNat))) ∧
    (w.toNat % 8 < 6 → w.getLsbD 3 = true → (s.core c.toNat).sw = false → s.module.capo = false →
      ∃ t, exec (.coPwrWrite c w) s = .next t ∧ (t.core c.toNat).sw = true ∧ (t.core c.toNat).ready = false ∧
        (t.core c.toNat).clock = (s.cluster (clusterOf c.toNat)).clock ∧ SameMemory s t)) ∧
  (∀ s (c : BitVec 9), targetEff s c.toNat (s.core c.toNat).div ≠ (s.core c.toNat).eff.toNat →
    ((s.core c.toNat).eff.toNat < targetEff s c.toNat (s.core c.toNat).div ∨
      (s.module.capo = false ∧ railOf s (rowOf c.toNat) ≤ railClass (targetEff s c.toNat (s.core c.toNat).div))) →
    targetEff s c.toNat (s.core c.toNat).div < 8 →
    ∃ t, exec (.effChange c) s = .next t ∧ (t.core c.toNat).eff.toNat = targetEff s c.toNat (s.core c.toNat).div ∧ SameMemory s t) ∧
  (∀ s (r : BitVec 5), s.module.capo = false → neededRail s r.toNat true < railOf s r.toNat →
    exec (.railRise r) s = .next (setRail s r.toNat (neededRail s r.toNat true))) ∧
  (∀ s (c : BitVec 9), (s.core c.toNat).sw = true → (s.core c.toNat).ready = false →
    exec (.coreSwitchReady c) s = .next (s.setCore c.toNat { s.core c.toNat with ready := true })) ∧
  (∀ s (r : BitVec 5), (s.core (r.toNat * 16)).rmv = 0 → ∃ t, exec (.slotRemoval r) s = .next t ∧ SameMemory s t ∧
    ∀ i < 16, (t.core (r.toNat * 16 + i)).rmv = 0x80 ∧ (t.core (r.toNat * 16 + i)).lim = true) ∧
  (∀ s (r : BitVec 5), (s.core (r.toNat * 16)).rmv = 0x80 → ∃ t, exec (.slotReturn r) s = .next t ∧ SameMemory s t ∧
    ∀ i < 16, (t.core (r.toNat * 16 + i)).rmv = 0 ∧ (t.core (r.toNat * 16 + i)).lim = false) ∧
  (∀ s (r : BitVec 5), (s.core (r.toNat * 16)).rmv = 0xFE → 1 ≤ s.module.limit → ∃ t, exec (.slotRemoval r) s = .next t ∧
    t.module.limit < s.module.limit ∧ SameMemory s t ∧ t.cores = s.cores) ∧
  (∀ s, s.pitch ≤ s.module.lastBeat + 250000 → s.module.phase ≠ .firmware →
    (s.module.capo = true → s.module.beats = 1 → ∃ t, exec (.firmwareHeartbeat true) s = .next t ∧ t.module.capo = false ∧
      t.module.lastBeat = s.pitch ∧ t.module.limit = (if s.module.profNow = 1 then 320 else 256)) ∧
    (s.module.beats = 0 → ∃ t, exec (.firmwareHeartbeat true) s = .next t ∧ t.module.capo = s.module.capo ∧ t.module.beats = 1 ∧
      t.module.lastBeat = s.pitch)) ∧
  (∀ s, s.module.lastBeat + 250000 < s.pitch → s.module.phase ≠ .firmware →
    (∃ t, exec .heartbeatMissed s = .next t ∧ t.module.capo = true ∧ t.module.why = 1 ∧ t.module.limit = 128 ∧ SameMemory s t) ∧
    (∃ t, exec (.firmwareHeartbeat false) s = .next t ∧ t.module.capo = true ∧ t.module.why = 1 ∧ t.module.limit = 128 ∧
      t.module.lastBeat = s.pitch ∧ SameMemory s t)) ∧
  (∀ s, ∃ t, exec .firmwareImageSwitch s = .next t ∧ t.module.capo = true ∧ t.module.why = 2 ∧ t.module.limit = 128 ∧ SameMemory s t) ∧
  (∀ s (die : BitVec 1), (∃ t, exec (.thermalTrip die) s = .next t ∧ t.module.trip.getLsbD die.toNat = true ∧
      (∀ n, n / 2048 = die.toNat → canIssue t n = false) ∧ SameMemory s t ∧ t.threads = s.threads) ∧
    (∀ p, s.module.trip.getLsbD die.toNat = true → junctionOf s.module die < 95 → look s.module.cooled die.toNat = some p →
      p + 1000000 ≤ s.pitch → ∃ t, exec (.thermalRecovery die) s = .next t ∧ t.module.trip.getLsbD die.toNat = false ∧
      (∀ d : BitVec 1, d ≠ die → t.module.trip.getLsbD d.toNat = s.module.trip.getLsbD d.toNat))) ∧
  (∀ s (p : BitVec 1) (w : BitVec 2), portWidth s.module p.toNat ≠ 3 →
    (w ≠ 3 → w ≠ portWidth s.module p.toNat → s.module.capo = false → ∃ t, exec (.laneShed p w) s = .next t ∧ portWidth t.module p.toNat = w ∧
      (lookD t.module.sheds p.toNat 0).toNat = min ((lookD s.module.sheds p.toNat 0).toNat + 1) 0xFFFF ∧ SameMemory s t) ∧
    (∃ t, exec (.portDown p) s = .next t ∧ portWidth t.module p.toNat = 3)) ∧
  (∀ s (p : BitVec 1) (w : BitVec 2), portWidth s.module p.toNat = 3 → w ≠ 3 → trainable s = true →
    ∃ t, exec (.portUp p w) s = .next t ∧ portWidth t.module p.toNat = w ∧ SameMemory s t)

/-- The TDISP interface, measurement and the patrol scrubber (R400, R404 to R409, R429, R430), once the module is brought up
(R431). That a request is refused in the states that do not allow it, and changes nothing else, is the model's reading (log
entry 48), and that the scrubber's receipt goes to MD_SCRADDR as it was at GO is its reading (log entry 49). -/
def Obligations.ProtectionResults : Prop :=
  (∀ s, booted s = true → s.module.tdisp = .unlocked → ∃ t, exec .lockInterfaceRequest s = .next t ∧ t.module.tdisp = .locked ∧
    t.bridge.answer = bytesFrom 32 t.module.nonce.toNat ∧ t.bridge.refusedHost = false ∧ SameMemory s t) ∧
  (∀ s, booted s = true → s.module.tdisp ≠ .unlocked → exec .lockInterfaceRequest s = .next (refuseHost s)) ∧
  (∀ s n, (s.module.tdisp = .locked → n = s.module.nonce → ∃ t, exec (.startInterfaceRequest n) s = .next t ∧ t.module.tdisp = .run ∧ SameMemory s t) ∧
    ((s.module.tdisp ≠ .locked ∨ n ≠ s.module.nonce) → exec (.startInterfaceRequest n) s = .next (refuseHost s))) ∧
  (∀ s, s.module.tdisp ≠ .run → ∃ t, exec .stopInterfaceRequest s = .next t ∧ t.module.tdisp = .unlocked ∧ t.module.nonce = 0 ∧ SameMemory s t) ∧
  (∀ s, s.blocks = [] → s.module.tdisp = .run → ∃ t, exec .stopInterfaceRequest s = .next t ∧ t.module.tdisp = .unlocked ∧
    t.module.era = s.module.era + 1 ∧ ∀ c, ∀ e ∈ (t.core c).pent, e.2.getLsbD 0 = false) ∧
  (∀ s n v, booted s = true → (s.module.tdisp = .unlocked → ∃ t, exec (.lockedSetWrite (n + 4) v) s = .next t ∧ lookD t.module.config n 0 = v ∧
      t.module.tdisp = .unlocked ∧ SameMemory s t) ∧
    (s.blocks = [] → s.module.tdisp = .locked ∨ s.module.tdisp = .run → ∃ t, exec (.lockedSetWrite n v) s = .next t ∧
      t.module.tdisp = .error ∧ t.bridge.refusedHost = true ∧ t.module.config = s.module.config ∧ t.module.bar2 = s.module.bar2)) ∧
  (∀ s (v : BitVec 32), booted s = true → s.module.tdisp = .unlocked → v.toNat % 4 ≤ 1 → ∃ t, exec (.profileSelect v) s = .next t ∧
    t.module.prof.toNat = v.toNat % 4 ∧
    (s.module.capo = false → t.module.limit = if v.toNat % 4 = 1 then 320 else 256) ∧ SameMemory s t) ∧
  (∀ s, (s.module.tdisp = .locked ∨ s.module.tdisp = .run → ∃ t, exec .getDeviceInterfaceReport s = .next t ∧
      t.bridge.answer = signed2420 (reportBody s.module) ∧ t.bridge.answer.length = 2580 ∧ t.bridge.refusedHost = false) ∧
    (s.module.tdisp = .unlocked → exec .getDeviceInterfaceReport s = .next (refuseHost s))) ∧
  (∀ s n, ∃ t, exec (.getCertificate n) s = .next t ∧ t.bridge.answer.length = 1312 ∧ SameMemory s t) ∧
  (∀ s (v : BitVec 32), booted s = true →
    (v.getLsbD 31 = true → s.module.scrubbing = false → ∃ t, exec (.scrubGo v) s = .next t ∧ t.module.scrubbing = true ∧
      t.module.sign = v.getLsbD 30 ∧ t.module.receipt = s.module.scraddr ∧ SameMemory s t) ∧
    (v.getLsbD 29 = true → v.getLsbD 31 = false → s.module.retired.length < 256 → ∃ t, exec (.pageRetire v) s = .next t ∧
      s.module.scraddr.toNat / 4096 * 4096 ∈ t.module.retired ∧ (∀ p ∈ s.module.retired, p ∈ t.module.retired) ∧ SameMemory s t)) ∧
  (∀ s s1, s.module.scrubbing = true → s1 = sweepTo s (ownBase s.module + 2 ^ 37) →
    ∃ t, exec .scrubSweepEnd s = .next t ∧ t.module.scrubbing = false ∧
      ∀ i < 4660, memByte t.mem (s1.module.receipt.toNat + i) =
        (if s1.module.sign then signed2420 (receiptBody s1) else receiptBody s1 ++ bytesFrom 2420 0).getD i 0)

/-- What the host, the other module and a device do (R29, R37, R77, R78, R315, R403, R404, R431): reads and writes of the
module's memory, accesses over the Course link, a write of a register, the power-on reset; the host's once the module is brought
up. That an access is made line by line, and that host writes of other registers are dropped, are the model's readings (log
entry 51); what memory holds after the power-on reset is its choice (log entries 5 and 53). -/
def Obligations.HostResults : Prop :=
  (∀ s (pa : BitVec 64) n, booted s = true → bar0Range s.module pa.toNat = false → bar2Range s.module pa.toNat = false →
    ((∀ l ∈ linesOf pa.toNat n, l ∉ s.bridge.poisoned ∧
        (ownRange s.module (64 * l) = false ∨ (inCar s.module (64 * l) = false ∧ inCrange s.module (64 * l) = none))) →
      ∃ t, exec (.hostRead pa n) s = .next t ∧ t.bridge.answer = (List.range n).map (fun i => memByte s.mem (pa.toNat + i)) ∧
        t.bridge.refusedHost = false ∧ SameMemory s t) ∧
    ((∃ l ∈ linesOf pa.toNat n, ownRange s.module (64 * l) = true ∧ inCar s.module (64 * l) = true) →
      ∃ t, exec (.hostRead pa n) s = .next t ∧ t.bridge.refusedHost = true ∧ t.bridge.answer = s.bridge.answer ∧ SameMemory s t)) ∧
  (∀ s (pa : BitVec 64) data, booted s = true → bar0Range s.module pa.toNat = false → bar2Range s.module pa.toNat = false →
    ((∀ l ∈ linesOf pa.toNat data.length,
        ownRange s.module (64 * l) = false ∨ (inCar s.module (64 * l) = false ∧ inCrange s.module (64 * l) = none)) →
      ∃ t, exec (.hostWrite pa data) s = .next t ∧ t.bridge.refusedHost = false ∧
        (∀ i < data.length, memByte t.mem (pa.toNat + i) = data.getD i 0) ∧ SameMemoryBut s t pa.toNat data.length ∧ t.empty = s.empty) ∧
    (∀ l ∈ linesOf pa.toNat data.length, ownRange s.module (64 * l) = true →
      (inCar s.module (64 * l) = true ∨ (inCrange s.module (64 * l)).isSome = true) →
      ∃ t, exec (.hostWrite pa data) s = .next t ∧ t.bridge.refusedHost = true ∧
        ∀ i < 64, memByte t.mem (64 * l + i) = memByte s.mem (64 * l + i))) ∧
  (∀ s (pa : BitVec 64), ownRange s.module pa.toNat = true → s.module.membase.getLsbD 2 = true → linkDown s.module = false →
    (inCar s.module pa.toNat = true → ∀ n, pa.toNat % 64 + n ≤ 64 → exec (.peerAccessArrival (.load pa n)) s =
      .next { s with bridge := { s.bridge with refusedPeer := some .permissionFault } }) ∧
    (inCar s.module pa.toNat = false → inCrange s.module pa.toNat = none → pa.toNat / 64 ∉ s.bridge.poisoned →
    (∀ n, pa.toNat % 64 + n ≤ 64 → ∃ t, exec (.peerAccessArrival (.load pa n)) s = .next t ∧ SameMemory s t ∧
      t.bridge.answer = (List.range n).map (fun i => memByte s.mem (pa.toNat + i))) ∧
    (∀ data, pa.toNat % 64 + data.length ≤ 64 → ∃ t, exec (.peerAccessArrival (.store pa data)) s = .next t ∧
      (∀ i < data.length, memByte t.mem (pa.toNat + i) = data.getD i 0) ∧ SameMemoryBut s t pa.toNat data.length) ∧
    (∀ x : DWord, pa.toNat % 4 = 0 → ∃ t, exec (.peerAccessArrival (.atomic pa 0 false x 0)) s = .next t ∧
      memNat t.mem pa.toNat 4 = (memNat s.mem pa.toNat 4 + x.toNat) % 2 ^ 32 ∧ SameMemoryBut s t pa.toNat 4 ∧
      t.bridge.answer = (List.range 4).map (fun i => memByte s.mem (pa.toNat + i))))) ∧
  (∀ s (n : BitVec 12) v r, booted s = true → sysReg n.toNat = some r → r.base = n.toNat →
    (r.write = none → exec (.registerWrite .device n v) s = .next s) ∧
    (∀ low, r.write = some low → s.th.mode.covers low = true → slotRuns s s.cur = true →
      exec (.registerWrite .device n v) s = .next (sysWrite s s.cur r.base v)) ∧
    (r.base ∉ [0x520, 0x5A2, 0x5C0, 0x5C2] → exec (.registerWrite .host n v) s = .next s)) ∧
  (∀ s rest, s.agenda = .bringUp :: rest → ∃ t, step s = .next t ∧
    (s.module.phase = .firmware → t.module.phase = .memory ∧ t.module.lastBeat = s.pitch) ∧
    (s.module.phase = .memory → t.module.phase = .link ∧ (∀ w, feFull t.empty w = true) ∧ t.bridge.seals = []) ∧
    (s.module.phase = .link → t.module.phase = .monitor ∧ SameMemory s t) ∧
    (s.module.phase = .monitor → booted t = true ∧ t.threads = [] ∧ t.cores = [] ∧
      ∀ c < Config.cores, ∀ i < 0x1000, memByte t.mem (bank15Key c (0x3000 + i)) = Config.monitorByte i)) ∧
  (∀ s, ∃ t, exec .powerOnReset s = .next t ∧ t.threads = [] ∧ t.cores = State.reset.cores ∧ t.module = State.reset.module ∧
    ∀ k, memByte t.mem k = if k < 2 ^ 64 ∧ ownRange s.module k = false then memByte s.mem k else 0)

/-! ## Encodings and steps -/

/-- Words written out from the formats of R166 and the codes of R171 to R182 decode to the instructions they stand for. -/
def Obligations.DecodeWords : Prop :=
  decode 0xF1E00035 = some (.sysrd 15 0x003) ∧ decode 0xF00C0606 = some (.syswr 12 0x060) ∧ decode 0x058C4000 = some (.add 12 12 8 0 0) ∧
  decode 0x09800000 = some (.addi 12 0 0 0) ∧ decode 0x61000003 = some (.beq 8 0 3) ∧ decode 0x65001FFF = some (.loop 8 0x1FFF) ∧
  decode 0x70000002 = some .ret ∧ decode 0x95802010 = some (.sw 12 0 1 0 16) ∧ decode 0x85E02010 = some (.lw 15 0 1 0 16) ∧
  decode 0xF4000001 = some .sdrain ∧ decode 0x00000000 = none

/-- Every well-formed instruction that has a word is what its word decodes to, with every operand at every value the encoding
admits (R166 to R184). -/
def Obligations.EncodeDecode : Prop :=
  ∀ i, i.wf = true → HasWord i → decode (encode i) = some i

/-- A word that decodes is the word of the instruction it decodes to, which is well formed: no bit is dropped, and no reserved
encoding is taken for an instruction (R166, R183). -/
def Obligations.DecodeEncode : Prop :=
  ∀ w i, decode w = some i → encode i = w ∧ i.wf = true ∧ HasWord i

/-- A step with no turn to come runs the instruction at the PC of the slot of `cur` (R183, R195): the word fetched stands in the
slot, and the step is the meaning of the instruction it decodes to, or of the illegal-word event. A stalled slot runs the word
it holds. A turn of the agenda issues the slot it names, or makes its event happen; a task whose block has been ended stops at
such a boundary (R391). A word in the thread's own local store is fetched as it lies there. The turns of the agenda are the
model's choice (log entry 1); the rerun of a stalled slot's word and the way of a fetch are its readings (log entries 3 and 56),
as is the end at a boundary (log entry 4). -/
def Obligations.StepRunsInstruction : Prop :=
  (∀ s s1 w, s.agenda = [] → s.th.stalled = false → canIssue s s.cur = true → boundary s s.cur = .nothing → fetch s = .next s1 w →
    (∀ i, decode w = some i → step s = exec i (s1.setTh { s1.th with ir := w })) ∧
    (decode w = none → step s = exec (.illegalInstr w) (s1.setTh { s1.th with ir := w }))) ∧
  (∀ s t rest i, s.agenda = .issue t :: rest → canIssue { s with agenda := rest, cur := t } t = true →
    boundary { s with agenda := rest, cur := t } t = .nothing →
    ((s.thread t).stalled = true → decode (s.thread t).ir = some i → step s = exec i { s with agenda := rest, cur := t }) ∧
    (∀ s1 w, (s.thread t).stalled = false → fetch { s with agenda := rest, cur := t } = .next s1 w → decode w = some i →
      step s = exec i (s1.setTh { s1.th with ir := w }))) ∧
  (∀ s t rest, s.agenda = .issue t :: rest → canIssue { s with agenda := rest, cur := t } t = true →
    boundary { s with agenda := rest, cur := t } t = .over → step s = .next (stopTask { s with agenda := rest, cur := t } t)) ∧
  (∀ s e rest, s.agenda = .event e :: rest → step s = exec e { s with agenda := rest }) ∧
  (∀ s c off, LocalAccess s s.th.pc c off 4 → fetch s = .next s (BitVec.ofNat 32 (memNat s.mem (localKey c off) 4)))

/-- Every step keeps the form of the state: memory lists its bytes in rising order and no zero, the empty words stand in rising
order, and the thread that issues is one of the 4,096. -/
def Obligations.StepKeepsForm : Prop :=
  ∀ s t, s.wf = true → step s = .next t → t.wf = true

/-- What reset leaves, beside the form of the state: every slot is empty and in U mode (R319, R431), every word is full (R79),
each slot's window stack is its 2 KiB of bank 14 (R100), and TH_FFLAGS (R132), TH_FPCR (R131), MD_EBUDGET.LIMIT (R161), the
TDISP state (R406), VI_QCFG (R362), VI_PROFILE (R368), VI_CARPERM (R35) and the ports' WIDTH (R420) have the values the manual
gives. That every byte of memory reads 0 is the model's choice (log entry 5). -/
def Obligations.ResetState : Prop :=
  State.reset.wf = true ∧ (∀ t, (State.reset.thread t).present = false ∧ (State.reset.thread t).mode = .u) ∧
  (∀ t, (State.reset.thread t).wsbase = BitVec.ofNat 15 (t % 8 * 0x800) ∧ (State.reset.thread t).wsptr = BitVec.ofNat 15 (t % 8 * 0x800) ∧
    (State.reset.thread t).wslim = BitVec.ofNat 15 (t % 8 * 0x800 + 0x800) ∧ (State.reset.thread t).fflags = 0 ∧
    (State.reset.thread t).fpcr = 0) ∧
  (∀ k, memByte State.reset.mem k = 0 ∧ feFull State.reset.empty k = true) ∧ State.reset.module.limit = 256 ∧
  State.reset.module.tdisp = .unlocked ∧ (∀ v, (State.reset.viOf v).qcfg = 0x1C064000 ∧ (State.reset.viOf v).profile = 0xC0000008 ∧
    (State.reset.viOf v).carperm = 0) ∧ (∀ p, portWidth State.reset.module p = 3)

/-- What instructions that work in registers alone leave unchanged, whether they complete, wait or trap: the scalar integer and
float forms, branches and jumps, the base-register forms, the vector and predicate forms; and the constant-window forms, whose
word lies in a core's local store. -/
def Obligations.RegisterFrames : Prop :=
  (∀ s t d a b y z, (∃ i ∈ (integerForms ++ divisionForms ++ fieldForms).map (fun e => e.1 d a b y z) ++ [.ins d a b y z, .cmov d a b y z],
      exec i s = .next t) →
    KeepsAllButRegisters s t ∧ ScalarsBut s t d ∧ OtherFilesSame s t ∧ t.th.fflags = s.th.fflags) ∧
  (∀ s t d a z n i u (g : BitVec 3), (∃ x ∈ unaryForms.map (fun e => e.1 d a z) ++ shiftForms.map (fun e => e.1 d a n z) ++
      immediateForms.map (fun e => e.1 d a z i) ++ [.lih d u, .addpc d u, .bgetLo d g z, .bgetHi d g z], exec x s = .next t) →
    KeepsAllButRegisters s t ∧ ScalarsBut s t d ∧ OtherFilesSame s t ∧ t.th.fflags = s.th.fflags) ∧
  (∀ s t a b n off (g : BitVec 3) z (k : BitVec 26), (∃ x ∈ branchForms.map (fun e => e.1 a b off) ++
      [.bbs a n off, .bbc a n off, .j k, .jb g z], exec x s = .next t) →
    KeepsAllButRegisters s t ∧ ScalarsBut s t 0 ∧ OtherFilesSame s t ∧ t.th.fflags = s.th.fflags) ∧
  (∀ s t a off, exec (.loop a off) s = .next t →
    KeepsAllButRegisters s t ∧ ScalarsBut s t a ∧ OtherFilesSame s t ∧ t.th.fflags = s.th.fflags) ∧
  (∀ s t d a b y z q r, (∃ x ∈ floatForms.map (fun e => e.1 d a b y z) ++ [.fma d a b y z, .fsqrt d a y, .fclass d a y, .fcvti d a y q r,
      .fcvtf d a y r], exec x s = .next t) →
    KeepsAllButRegisters s t ∧ ScalarsBut s t d ∧ OtherFilesSame s t ∧ t.th.fflags ||| s.th.fflags = t.th.fflags) ∧
  (∀ s t (d g : BitVec 3) a b y z n (k : BitVec 21), (∃ i ∈ [Instr.bset d a b y z, .badd d g b y z, .bmov d g y, .baddi d g y n, .blea d k],
      exec i s = .next t) →
    KeepsAllButRegisters s t ∧ ScalarsBut s t 0 ∧ t.th.vec = s.th.vec ∧ t.th.pred = s.th.pred ∧ t.th.fflags = s.th.fflags ∧
      ∀ h : BitVec 3, h ≠ d ∨ h = 0 → lookD t.th.base h.toNat {} = lookD s.th.base h.toNat {}) ∧
  (∀ s t (v a b : BitVec 6) q n r m, (∃ i ∈ intLaneForms.map (fun e => e.1 v a b q) ++ permForms.map (fun e => e.1 v a b q) ++
      intUnaryForms.map (fun e => e.1 v a q) ++ clampForms.map (fun e => e.1 v a n q) ++ floatLaneForms.map (fun e => e.1 v a b q) ++
      fmaLaneForms.map (fun e => e.1 v a b q) ++ sqrtLaneForms.map (fun e => e.1 v a q) ++ reduceForms.map (fun e => e.1 v a q) ++
      sumForms.map (fun e => e.1 v a q) ++ [.vbcastI8 v r q, .vbcastI16 v r q, .vbcastI32 v r q, .vinsI8 v m r, .vinsI16 v m r, .vinsI32 v m r],
      exec i s = .next t) →
    KeepsAllButRegisters s t ∧ ScalarsBut s t 0 ∧ VectorsBut s t v.toNat 1) ∧
  (∀ s t (v a : BitVec 6) r q dt ty, ∀ e ∈ [(Instr.vcvt v a r q dt ty, 1), (.vpack v a r q dt ty, 1),
      (.vunpk v a r q dt ty, laneWidth dt / laneWidth ty)], exec e.1 s = .next t →
    KeepsAllButRegisters s t ∧ ScalarsBut s t 0 ∧ VectorsBut s t v.toNat e.2) ∧
  (∀ s t (p : BitVec 3) (a b : BitVec 6) q (x y : BitVec 3), (∃ i ∈ intCompareForms.map (fun e => e.1 p a b q) ++
      floatCompareForms.map (fun e => e.1 p a b q) ++ [.qand p x y, .qor p x y, .qxor p x y, .qnot p x], exec i s = .next t) →
    KeepsAllButRegisters s t ∧ ScalarsBut s t 0 ∧ t.th.base = s.th.base ∧ t.th.vec = s.th.vec ∧
      t.th.fflags ||| s.th.fflags = t.th.fflags ∧ ∀ u, u ≠ p ∨ u = 0 → t.th.predReg u = s.th.predReg u) ∧
  (∀ s t (n : BitVec 5) (a : BitVec 6) r (x : BitVec 3), (∃ i ∈ [Instr.vextI8 n a r, .vextI16 n a r, .vextI32 n a r, .qpop x r, .qfirst x r],
      exec i s = .next t) →
    KeepsAllButRegisters s t ∧ ScalarsBut s t r ∧ OtherFilesSame s t ∧ t.th.fflags = s.th.fflags) ∧
  (∀ s t d a c w core off, (∃ e ∈ constantForms, exec (e.1 d a c w) s = .next t) →
    LocalAccess s (lookD s.th.cwbase c.toNat 0 + BitVec.ofNat 64 (4 * w.toNat)) core off 4 →
    SameMemory s t ∧ ScalarsBut s t d ∧ OtherFilesSame s t ∧ t.th.fflags = s.th.fflags ∧ t.th.cwp = s.th.cwp ∧ t.th.frames = s.th.frames ∧
      t.th.cwbase = s.th.cwbase ∧ t.th.cwsize = s.th.cwsize ∧ t.module = s.module ∧ t.vis = s.vis ∧ t.launches = s.launches ∧
      t.blocks = s.blocks ∧ t.saved = s.saved ∧ ∀ u, u ≠ s.cur → { t.thread u with producers := (s.thread u).producers } = s.thread u)

/-! ## Rounding -/

/-- What the results of the float operations round to (R130, R133, R134, R138), in FP32, FP16 and BF16, in every mode: the exact
sum, difference, product, fused product and sum, quotient or square root of the operands' values, rounded once, with its flags;
an exact zero with the sign of R138. A NaN operand, an invalid operation and a division by zero give what R138 names. FCVTF and
conversions to these formats round a value in the same way, FCVTI and conversions to INT32 to an integer, clamped with SATD
alone (R134, R135). -/
def Obligations.FloatRounding : Prop :=
  ∀ mode sat, mode ≤ 4 → ∀ p ∈ ieeeFormats, ∀ f ew fw, p = (f, ew, fw) →
    (∀ a b, FiniteCode ew fw a → FiniteCode ew fw b →
      Rounded ew fw mode sat (codeValue ew fw a + codeValue ew fw b) (zeroSum mode (signOf ew fw a) (signOf ew fw b)) (fpAdd f mode sat a b) ∧
      Rounded ew fw mode sat (codeValue ew fw a - codeValue ew fw b) (zeroSum mode (signOf ew fw a) (1 - signOf ew fw b))
        (fpSub f mode sat a b) ∧
      Rounded ew fw mode sat (codeValue ew fw a * codeValue ew fw b) ((signOf ew fw a + signOf ew fw b) % 2) (fpMul f mode sat a b) ∧
      (∀ c, FiniteCode ew fw c → Rounded ew fw mode sat (codeValue ew fw a * codeValue ew fw b + codeValue ew fw c)
        (zeroSum mode ((signOf ew fw a + signOf ew fw b) % 2) (signOf ew fw c)) (fpFma f mode sat a b c)) ∧
      (codeValue ew fw b ≠ 0 → Rounded ew fw mode sat (codeValue ew fw a / codeValue ew fw b) ((signOf ew fw a + signOf ew fw b) % 2)
        (fpDiv f mode sat a b)) ∧
      (codeValue ew fw b = 0 → codeValue ew fw a ≠ 0 → fpDiv f mode sat a b =
        ((signOf ew fw a + signOf ew fw b) % 2 * 2 ^ (ew + fw) + infCode ew fw, { dz := true })) ∧
      (codeValue ew fw b = 0 → codeValue ew fw a = 0 → fpDiv f mode sat a b = (defaultCode ew fw, { nv := true }))) ∧
    (∀ a, FiniteCode ew fw a →
      (0 ≤ codeValue ew fw a → Rounded ew fw mode sat (Real.sqrt (codeValue ew fw a)) (signOf ew fw a) (fpSqrt f mode sat a)) ∧
      (codeValue ew fw a < 0 → fpSqrt f mode sat a = (defaultCode ew fw, { nv := true }))) ∧
    (∀ a b, a < 2 ^ (1 + ew + fw) → b < 2 ^ (1 + ew + fw) → (isNaNOf ew fw a || isNaNOf ew fw b) = true →
      ∀ op ∈ [fpAdd, fpSub, fpMul, fpDiv], op f mode sat a b = ((if isNaNOf ew fw a then a else b) ||| 2 ^ (fw - 1),
        { nv := isSignalOf ew fw a || isSignalOf ew fw b })) ∧
    (∀ s t, s < 2 → t < 2 → ∀ i j, i = s * 2 ^ (ew + fw) + infCode ew fw → j = t * 2 ^ (ew + fw) + infCode ew fw →
      (s ≠ t → fpAdd f mode sat i j = (defaultCode ew fw, { nv := true })) ∧
      (s = t → fpAdd f mode sat i j = (i, {}) ∧ fpSub f mode sat i j = (defaultCode ew fw, { nv := true })) ∧
      fpMul f mode sat i j = ((s + t) % 2 * 2 ^ (ew + fw) + infCode ew fw, {}) ∧ fpDiv f mode sat i j = (defaultCode ew fw, { nv := true }) ∧
      fpMul f mode sat i (t * 2 ^ (ew + fw)) = (defaultCode ew fw, { nv := true }) ∧
      ∀ a, FiniteCode ew fw a → fpAdd f mode sat i a = (i, {}) ∧ fpSub f mode sat i a = (i, {}) ∧
        fpDiv f mode sat a i = ((signOf ew fw a + s) % 2 * 2 ^ (ew + fw), {}) ∧
        fpDiv f mode sat i a = ((signOf ew fw a + s) % 2 * 2 ^ (ew + fw) + infCode ew fw, {})) ∧
    (∀ neg (m : Nat) (e : Int), Rounded ew fw mode sat ((if neg = true then -1 else 1) * m * (2 : ℝ) ^ e) (if neg = true then 1 else 0)
      (encodeElem f mode sat (.fin neg m e false))) ∧
    (∀ neg (m : Nat) (e : Int) (v : ℝ), v = (if neg = true then -1 else 1) * m * (2 : ℝ) ^ e →
      ∃ k : Int, SelectsInt mode v k ∧
        (encodeElem 1 mode sat (.fin neg m e false)).1 = (BitVec.ofInt 32 (max (-2 ^ 31) (min (2 ^ 31 - 1) k))).toNat ∧
        ((encodeElem 1 mode sat (.fin neg m e false)).2.satd = true ↔ k < -2 ^ 31 ∨ 2 ^ 31 ≤ k) ∧
        ((encodeElem 1 mode sat (.fin neg m e false)).2.nx = true ↔ -2 ^ 31 ≤ k ∧ k < 2 ^ 31 ∧ (k : ℝ) ≠ v))

/-- A store that has drained to memory, of the own module or of the host, is what a later load returns (R60 to R62, R66, R222,
R223). At a scope up to `.L` its bytes are in its cluster's copy, at `.D` and `.S` in the home's memory. A load of the same
bytes at any scope by a thread of that core, or of another core of the cluster whose L1 has no copy under lease, returns them;
after a store of scope `.D` or `.S` a load of scope `.D` or `.S` does, in every cluster that holds none of the line dirty. All
of this outside commutative ranges, CAR stores, stash banks and protected contexts, of lines without an error. The lease of part
of a copy is the model's (log entry 62). -/
def Obligations.StoredBytesAreLoaded : Prop :=
  ∀ s (core : BitVec 9) e rest s1 p k need, k = clusterOf core.toNat → need = needOf p.byte e.n →
    (s.core core.toNat).buffer = e :: rest → e.kind = .plain → e.fixedAt = none → e.feBit = none → e.rel = false → e.away = none →
    e.cut = false → e.ctx = 0 → e.mask = byteMask e.n → drainHeld s core.toNat = false →
    resolve s (entryWho core.toNat e) .write e.va = .ok (s1, p) → (∃ pa, p = .own pa ∨ p = .host pa) → p.byte + e.n ≤ 64 →
    inCrange s1.module p.key = none → inCar s1.module (64 * p.line) = false → stashBank s1 (entryWho core.toNat e) e.va = none →
    s1.bridge.poisoned.contains p.line = false →
    (∀ l, look (s1.cluster k).lines p.line = some l → l.ctx = 0 ∧ l.bad = false) →
    ∃ t, exec (.storeDrain core) s = .next (handLines t core.toNat) ∧
      (t.core core.toNat).buffer = removeAt (s1.core core.toNat).buffer 0 ∧
      (e.scope.toNat ≤ 2 → ∃ l, look (t.cluster k).lines p.line = some l ∧ need &&& ~~~l.byteMask = 0 ∧
        fromByte l.data p.byte &&& byteMask e.n = e.data &&& byteMask e.n) ∧
      (3 ≤ e.scope.toNat → memRead t.mem p.key e.n = e.data &&& byteMask e.n) ∧
      (∀ w va scope, LoadsThere t w va p e.n → w.cluster = k →
        (w.core = core.toNat ∨ 3 ≤ scope ∨ L1Past t w.core p.line need) →
        ∃ u, loadBytes t w va e.n scope = .ok (u, e.data &&& byteMask e.n)) ∧
      (∀ w va scope, LoadsThere t w va p e.n → 3 ≤ e.scope.toNat → 3 ≤ scope →
        (∀ l, look (t.cluster w.cluster).lines p.line = some l → l.dirty = false) →
        ∃ u, loadBytes t w va e.n scope = .ok (u, e.data &&& byteMask e.n))
end

