-- ==== Sys2Proof/Laws/State.lean ====
section
/-!
SUPPORT. Sys2Proof/Laws/State.lean: what each update of the state leaves, field by field, and reading a table after writing it.
-/

namespace Sys2Proof.Machine

/-! ## Tables -/

@[simp] theorem look_put_same {α : Type} (m : AMap α) (k : Nat) (v : α) : look (put m k v) k = some v := by
  induction m with
  | nil => simp [put, look]
  | cons p rest ih =>
    obtain ⟨j, u⟩ := p
    unfold put
    split
    · simp [look]
    · split
      · simp [look]
      · rename_i h
        simp [look, Ne.symm h, ih]

theorem look_put_other {α : Type} (m : AMap α) {k j : Nat} (v : α) (h : j ≠ k) : look (put m k v) j = look m j := by
  induction m with
  | nil => simp [put, look, Ne.symm h]
  | cons p rest ih =>
    obtain ⟨i, u⟩ := p
    unfold put
    split
    · simp [look, Ne.symm h]
    · split
      · rename_i h2
        subst h2
        simp [look, Ne.symm h]
      · simp [look, ih]

@[simp] theorem look_del_same {α : Type} (m : AMap α) (k : Nat) : look (del m k) k = none := by
  induction m with
  | nil => rfl
  | cons p rest ih =>
    obtain ⟨j, u⟩ := p
    by_cases h : j = k
    · simpa [del, h] using ih
    · simpa [del, h, look] using ih

theorem look_del_other {α : Type} (m : AMap α) {k j : Nat} (h : j ≠ k) : look (del m k) j = look m j := by
  induction m with
  | nil => rfl
  | cons p rest ih =>
    obtain ⟨i, u⟩ := p
    by_cases hi : i = k
    · subst hi
      simpa [del, look, Ne.symm h] using ih
    · by_cases hj : i = j
      · simp [del, look, hj, h]
      · simpa [del, look, hi, hj] using ih

@[simp] theorem lookD_put_same {α : Type} (m : AMap α) (k : Nat) (v d : α) : lookD (put m k v) k d = v := by
  simp [lookD]

theorem lookD_put_other {α : Type} (m : AMap α) {k j : Nat} (v d : α) (h : j ≠ k) : lookD (put m k v) j d = lookD m j d := by
  simp [lookD, look_put_other m v h]

@[simp] theorem lookD_del_same {α : Type} (m : AMap α) (k : Nat) (d : α) : lookD (del m k) k d = d := by
  simp [lookD]

theorem lookD_del_other {α : Type} (m : AMap α) {k j : Nat} (d : α) (h : j ≠ k) : lookD (del m k) j d = lookD m j d := by
  simp [lookD, look_del_other m h]

/-! ## Reading a part of the state after writing it -/

namespace State

@[simp] theorem thread_setThread_same (s : State) (t : Nat) (x : Thread) : (s.setThread t x).thread t = x := by
  simp [thread, setThread]

theorem thread_setThread_other (s : State) {t u : Nat} (x : Thread) (h : u ≠ t) : (s.setThread t x).thread u = s.thread u := by
  simp [thread, setThread, lookD_put_other _ _ _ h]

@[simp] theorem th_setTh (s : State) (x : Thread) : (s.setTh x).th = x := thread_setThread_same s s.cur x

@[simp] theorem thread_setTh (s : State) (x : Thread) : (s.setTh x).thread s.cur = x := thread_setThread_same s s.cur x

@[simp] theorem core_setCore_same (s : State) (c : Nat) (x : Core) : (s.setCore c x).core c = x := by
  simp [core, setCore]

theorem core_setCore_other (s : State) {c d : Nat} (x : Core) (h : d ≠ c) : (s.setCore c x).core d = s.core d := by
  simp [core, setCore, lookD_put_other _ _ _ h]

@[simp] theorem cluster_setCluster_same (s : State) (k : Nat) (x : Cluster) : (s.setCluster k x).cluster k = x := by
  simp [cluster, setCluster]

theorem cluster_setCluster_other (s : State) {k j : Nat} (x : Cluster) (h : j ≠ k) :
    (s.setCluster k x).cluster j = s.cluster j := by
  simp [cluster, setCluster, lookD_put_other _ _ _ h]

@[simp] theorem viOf_setVi_same (s : State) (v : Nat) (x : Vi) : (s.setVi v x).viOf v = x := by
  simp [viOf, setVi]

theorem viOf_setVi_other (s : State) {v w : Nat} (x : Vi) (h : w ≠ v) : (s.setVi v x).viOf w = s.viOf w := by
  simp [viOf, setVi, lookD_put_other _ _ _ h]

end State

/-! ## The other fields -/

namespace State

@[simp] theorem setThread_cur (s : State) (t : Nat) (x : Thread) : (s.setThread t x).cur = s.cur := rfl
@[simp] theorem setThread_agenda (s : State) (t : Nat) (x : Thread) : (s.setThread t x).agenda = s.agenda := rfl
@[simp] theorem setThread_pitch (s : State) (t : Nat) (x : Thread) : (s.setThread t x).pitch = s.pitch := rfl
@[simp] theorem setThread_mem (s : State) (t : Nat) (x : Thread) : (s.setThread t x).mem = s.mem := rfl
@[simp] theorem setThread_empty (s : State) (t : Nat) (x : Thread) : (s.setThread t x).empty = s.empty := rfl
@[simp] theorem setThread_saved (s : State) (t : Nat) (x : Thread) : (s.setThread t x).saved = s.saved := rfl
@[simp] theorem setThread_cores (s : State) (t : Nat) (x : Thread) : (s.setThread t x).cores = s.cores := rfl
@[simp] theorem setThread_clusters (s : State) (t : Nat) (x : Thread) : (s.setThread t x).clusters = s.clusters := rfl
@[simp] theorem setThread_vis (s : State) (t : Nat) (x : Thread) : (s.setThread t x).vis = s.vis := rfl
@[simp] theorem setThread_bridge (s : State) (t : Nat) (x : Thread) : (s.setThread t x).bridge = s.bridge := rfl
@[simp] theorem setThread_module (s : State) (t : Nat) (x : Thread) : (s.setThread t x).module = s.module := rfl
@[simp] theorem setThread_launches (s : State) (t : Nat) (x : Thread) : (s.setThread t x).launches = s.launches := rfl
@[simp] theorem setThread_blocks (s : State) (t : Nat) (x : Thread) : (s.setThread t x).blocks = s.blocks := rfl
@[simp] theorem setThread_mails (s : State) (t : Nat) (x : Thread) : (s.setThread t x).mails = s.mails := rfl
@[simp] theorem setThread_flights (s : State) (t : Nat) (x : Thread) : (s.setThread t x).flights = s.flights := rfl
@[simp] theorem setThread_stWakes (s : State) (t : Nat) (x : Thread) : (s.setThread t x).stWakes = s.stWakes := rfl
@[simp] theorem setThread_mdWakes (s : State) (t : Nat) (x : Thread) : (s.setThread t x).mdWakes = s.mdWakes := rfl
@[simp] theorem setThread_changes (s : State) (t : Nat) (x : Thread) : (s.setThread t x).changes = s.changes := rfl
@[simp] theorem setThread_serial (s : State) (t : Nat) (x : Thread) : (s.setThread t x).serial = s.serial := rfl
@[simp] theorem setThread_vaBits (s : State) (t : Nat) (x : Thread) : (s.setThread t x).vaBits = s.vaBits := rfl
@[simp] theorem setThread_drawn (s : State) (t : Nat) (x : Thread) : (s.setThread t x).drawn = s.drawn := rfl
@[simp] theorem core_of_setThread (s : State) (t : Nat) (x : Thread) (j : Nat) : (s.setThread t x).core j = s.core j := rfl
@[simp] theorem cluster_of_setThread (s : State) (t : Nat) (x : Thread) (j : Nat) : (s.setThread t x).cluster j = s.cluster j := rfl
@[simp] theorem viOf_of_setThread (s : State) (t : Nat) (x : Thread) (j : Nat) : (s.setThread t x).viOf j = s.viOf j := rfl
@[simp] theorem myCore_of_setThread (s : State) (t : Nat) (x : Thread) : (s.setThread t x).myCore = s.myCore := rfl
@[simp] theorem myCluster_of_setThread (s : State) (t : Nat) (x : Thread) : (s.setThread t x).myCluster = s.myCluster := rfl
@[simp] theorem setTh_cur (s : State) (x : Thread) : (s.setTh x).cur = s.cur := rfl
@[simp] theorem setTh_agenda (s : State) (x : Thread) : (s.setTh x).agenda = s.agenda := rfl
@[simp] theorem setTh_pitch (s : State) (x : Thread) : (s.setTh x).pitch = s.pitch := rfl
@[simp] theorem setTh_mem (s : State) (x : Thread) : (s.setTh x).mem = s.mem := rfl
@[simp] theorem setTh_empty (s : State) (x : Thread) : (s.setTh x).empty = s.empty := rfl
@[simp] theorem setTh_saved (s : State) (x : Thread) : (s.setTh x).saved = s.saved := rfl
@[simp] theorem setTh_cores (s : State) (x : Thread) : (s.setTh x).cores = s.cores := rfl
@[simp] theorem setTh_clusters (s : State) (x : Thread) : (s.setTh x).clusters = s.clusters := rfl
@[simp] theorem setTh_vis (s : State) (x : Thread) : (s.setTh x).vis = s.vis := rfl
@[simp] theorem setTh_bridge (s : State) (x : Thread) : (s.setTh x).bridge = s.bridge := rfl
@[simp] theorem setTh_module (s : State) (x : Thread) : (s.setTh x).module = s.module := rfl
@[simp] theorem setTh_launches (s : State) (x : Thread) : (s.setTh x).launches = s.launches := rfl
@[simp] theorem setTh_blocks (s : State) (x : Thread) : (s.setTh x).blocks = s.blocks := rfl
@[simp] theorem setTh_mails (s : State) (x : Thread) : (s.setTh x).mails = s.mails := rfl
@[simp] theorem setTh_flights (s : State) (x : Thread) : (s.setTh x).flights = s.flights := rfl
@[simp] theorem setTh_stWakes (s : State) (x : Thread) : (s.setTh x).stWakes = s.stWakes := rfl
@[simp] theorem setTh_mdWakes (s : State) (x : Thread) : (s.setTh x).mdWakes = s.mdWakes := rfl
@[simp] theorem setTh_changes (s : State) (x : Thread) : (s.setTh x).changes = s.changes := rfl
@[simp] theorem setTh_serial (s : State) (x : Thread) : (s.setTh x).serial = s.serial := rfl
@[simp] theorem setTh_vaBits (s : State) (x : Thread) : (s.setTh x).vaBits = s.vaBits := rfl
@[simp] theorem setTh_drawn (s : State) (x : Thread) : (s.setTh x).drawn = s.drawn := rfl
@[simp] theorem core_of_setTh (s : State) (x : Thread) (j : Nat) : (s.setTh x).core j = s.core j := rfl
@[simp] theorem cluster_of_setTh (s : State) (x : Thread) (j : Nat) : (s.setTh x).cluster j = s.cluster j := rfl
@[simp] theorem viOf_of_setTh (s : State) (x : Thread) (j : Nat) : (s.setTh x).viOf j = s.viOf j := rfl
@[simp] theorem myCore_of_setTh (s : State) (x : Thread) : (s.setTh x).myCore = s.myCore := rfl
@[simp] theorem myCluster_of_setTh (s : State) (x : Thread) : (s.setTh x).myCluster = s.myCluster := rfl
@[simp] theorem setCore_cur (s : State) (c : Nat) (x : Core) : (s.setCore c x).cur = s.cur := rfl
@[simp] theorem setCore_agenda (s : State) (c : Nat) (x : Core) : (s.setCore c x).agenda = s.agenda := rfl
@[simp] theorem setCore_pitch (s : State) (c : Nat) (x : Core) : (s.setCore c x).pitch = s.pitch := rfl
@[simp] theorem setCore_mem (s : State) (c : Nat) (x : Core) : (s.setCore c x).mem = s.mem := rfl
@[simp] theorem setCore_empty (s : State) (c : Nat) (x : Core) : (s.setCore c x).empty = s.empty := rfl
@[simp] theorem setCore_threads (s : State) (c : Nat) (x : Core) : (s.setCore c x).threads = s.threads := rfl
@[simp] theorem setCore_saved (s : State) (c : Nat) (x : Core) : (s.setCore c x).saved = s.saved := rfl
@[simp] theorem setCore_clusters (s : State) (c : Nat) (x : Core) : (s.setCore c x).clusters = s.clusters := rfl
@[simp] theorem setCore_vis (s : State) (c : Nat) (x : Core) : (s.setCore c x).vis = s.vis := rfl
@[simp] theorem setCore_bridge (s : State) (c : Nat) (x : Core) : (s.setCore c x).bridge = s.bridge := rfl
@[simp] theorem setCore_module (s : State) (c : Nat) (x : Core) : (s.setCore c x).module = s.module := rfl
@[simp] theorem setCore_launches (s : State) (c : Nat) (x : Core) : (s.setCore c x).launches = s.launches := rfl
@[simp] theorem setCore_blocks (s : State) (c : Nat) (x : Core) : (s.setCore c x).blocks = s.blocks := rfl
@[simp] theorem setCore_mails (s : State) (c : Nat) (x : Core) : (s.setCore c x).mails = s.mails := rfl
@[simp] theorem setCore_flights (s : State) (c : Nat) (x : Core) : (s.setCore c x).flights = s.flights := rfl
@[simp] theorem setCore_stWakes (s : State) (c : Nat) (x : Core) : (s.setCore c x).stWakes = s.stWakes := rfl
@[simp] theorem setCore_mdWakes (s : State) (c : Nat) (x : Core) : (s.setCore c x).mdWakes = s.mdWakes := rfl
@[simp] theorem setCore_changes (s : State) (c : Nat) (x : Core) : (s.setCore c x).changes = s.changes := rfl
@[simp] theorem setCore_serial (s : State) (c : Nat) (x : Core) : (s.setCore c x).serial = s.serial := rfl
@[simp] theorem setCore_vaBits (s : State) (c : Nat) (x : Core) : (s.setCore c x).vaBits = s.vaBits := rfl
@[simp] theorem setCore_drawn (s : State) (c : Nat) (x : Core) : (s.setCore c x).drawn = s.drawn := rfl
@[simp] theorem thread_of_setCore (s : State) (c : Nat) (x : Core) (j : Nat) : (s.setCore c x).thread j = s.thread j := rfl
@[simp] theorem cluster_of_setCore (s : State) (c : Nat) (x : Core) (j : Nat) : (s.setCore c x).cluster j = s.cluster j := rfl
@[simp] theorem viOf_of_setCore (s : State) (c : Nat) (x : Core) (j : Nat) : (s.setCore c x).viOf j = s.viOf j := rfl
@[simp] theorem th_of_setCore (s : State) (c : Nat) (x : Core) : (s.setCore c x).th = s.th := rfl
@[simp] theorem myCore_of_setCore (s : State) (c : Nat) (x : Core) : (s.setCore c x).myCore = s.myCore := rfl
@[simp] theorem myCluster_of_setCore (s : State) (c : Nat) (x : Core) : (s.setCore c x).myCluster = s.myCluster := rfl
@[simp] theorem setCluster_cur (s : State) (k : Nat) (x : Cluster) : (s.setCluster k x).cur = s.cur := rfl
@[simp] theorem setCluster_agenda (s : State) (k : Nat) (x : Cluster) : (s.setCluster k x).agenda = s.agenda := rfl
@[simp] theorem setCluster_pitch (s : State) (k : Nat) (x : Cluster) : (s.setCluster k x).pitch = s.pitch := rfl
@[simp] theorem setCluster_mem (s : State) (k : Nat) (x : Cluster) : (s.setCluster k x).mem = s.mem := rfl
@[simp] theorem setCluster_empty (s : State) (k : Nat) (x : Cluster) : (s.setCluster k x).empty = s.empty := rfl
@[simp] theorem setCluster_threads (s : State) (k : Nat) (x : Cluster) : (s.setCluster k x).threads = s.threads := rfl
@[simp] theorem setCluster_saved (s : State) (k : Nat) (x : Cluster) : (s.setCluster k x).saved = s.saved := rfl
@[simp] theorem setCluster_cores (s : State) (k : Nat) (x : Cluster) : (s.setCluster k x).cores = s.cores := rfl
@[simp] theorem setCluster_vis (s : State) (k : Nat) (x : Cluster) : (s.setCluster k x).vis = s.vis := rfl
@[simp] theorem setCluster_bridge (s : State) (k : Nat) (x : Cluster) : (s.setCluster k x).bridge = s.bridge := rfl
@[simp] theorem setCluster_module (s : State) (k : Nat) (x : Cluster) : (s.setCluster k x).module = s.module := rfl
@[simp] theorem setCluster_launches (s : State) (k : Nat) (x : Cluster) : (s.setCluster k x).launches = s.launches := rfl
@[simp] theorem setCluster_blocks (s : State) (k : Nat) (x : Cluster) : (s.setCluster k x).blocks = s.blocks := rfl
@[simp] theorem setCluster_mails (s : State) (k : Nat) (x : Cluster) : (s.setCluster k x).mails = s.mails := rfl
@[simp] theorem setCluster_flights (s : State) (k : Nat) (x : Cluster) : (s.setCluster k x).flights = s.flights := rfl
@[simp] theorem setCluster_stWakes (s : State) (k : Nat) (x : Cluster) : (s.setCluster k x).stWakes = s.stWakes := rfl
@[simp] theorem setCluster_mdWakes (s : State) (k : Nat) (x : Cluster) : (s.setCluster k x).mdWakes = s.mdWakes := rfl
@[simp] theorem setCluster_changes (s : State) (k : Nat) (x : Cluster) : (s.setCluster k x).changes = s.changes := rfl
@[simp] theorem setCluster_serial (s : State) (k : Nat) (x : Cluster) : (s.setCluster k x).serial = s.serial := rfl
@[simp] theorem setCluster_vaBits (s : State) (k : Nat) (x : Cluster) : (s.setCluster k x).vaBits = s.vaBits := rfl
@[simp] theorem setCluster_drawn (s : State) (k : Nat) (x : Cluster) : (s.setCluster k x).drawn = s.drawn := rfl
@[simp] theorem thread_of_setCluster (s : State) (k : Nat) (x : Cluster) (j : Nat) : (s.setCluster k x).thread j = s.thread j := rfl
@[simp] theorem core_of_setCluster (s : State) (k : Nat) (x : Cluster) (j : Nat) : (s.setCluster k x).core j = s.core j := rfl
@[simp] theorem viOf_of_setCluster (s : State) (k : Nat) (x : Cluster) (j : Nat) : (s.setCluster k x).viOf j = s.viOf j := rfl
@[simp] theorem th_of_setCluster (s : State) (k : Nat) (x : Cluster) : (s.setCluster k x).th = s.th := rfl
@[simp] theorem myCore_of_setCluster (s : State) (k : Nat) (x : Cluster) : (s.setCluster k x).myCore = s.myCore := rfl
@[simp] theorem myCluster_of_setCluster (s : State) (k : Nat) (x : Cluster) : (s.setCluster k x).myCluster = s.myCluster := rfl
@[simp] theorem setVi_cur (s : State) (v : Nat) (x : Vi) : (s.setVi v x).cur = s.cur := rfl
@[simp] theorem setVi_agenda (s : State) (v : Nat) (x : Vi) : (s.setVi v x).agenda = s.agenda := rfl
@[simp] theorem setVi_pitch (s : State) (v : Nat) (x : Vi) : (s.setVi v x).pitch = s.pitch := rfl
@[simp] theorem setVi_mem (s : State) (v : Nat) (x : Vi) : (s.setVi v x).mem = s.mem := rfl
@[simp] theorem setVi_empty (s : State) (v : Nat) (x : Vi) : (s.setVi v x).empty = s.empty := rfl
@[simp] theorem setVi_threads (s : State) (v : Nat) (x : Vi) : (s.setVi v x).threads = s.threads := rfl
@[simp] theorem setVi_saved (s : State) (v : Nat) (x : Vi) : (s.setVi v x).saved = s.saved := rfl
@[simp] theorem setVi_cores (s : State) (v : Nat) (x : Vi) : (s.setVi v x).cores = s.cores := rfl
@[simp] theorem setVi_clusters (s : State) (v : Nat) (x : Vi) : (s.setVi v x).clusters = s.clusters := rfl
@[simp] theorem setVi_bridge (s : State) (v : Nat) (x : Vi) : (s.setVi v x).bridge = s.bridge := rfl
@[simp] theorem setVi_module (s : State) (v : Nat) (x : Vi) : (s.setVi v x).module = s.module := rfl
@[simp] theorem setVi_launches (s : State) (v : Nat) (x : Vi) : (s.setVi v x).launches = s.launches := rfl
@[simp] theorem setVi_blocks (s : State) (v : Nat) (x : Vi) : (s.setVi v x).blocks = s.blocks := rfl
@[simp] theorem setVi_mails (s : State) (v : Nat) (x : Vi) : (s.setVi v x).mails = s.mails := rfl
@[simp] theorem setVi_flights (s : State) (v : Nat) (x : Vi) : (s.setVi v x).flights = s.flights := rfl
@[simp] theorem setVi_stWakes (s : State) (v : Nat) (x : Vi) : (s.setVi v x).stWakes = s.stWakes := rfl
@[simp] theorem setVi_mdWakes (s : State) (v : Nat) (x : Vi) : (s.setVi v x).mdWakes = s.mdWakes := rfl
@[simp] theorem setVi_changes (s : State) (v : Nat) (x : Vi) : (s.setVi v x).changes = s.changes := rfl
@[simp] theorem setVi_serial (s : State) (v : Nat) (x : Vi) : (s.setVi v x).serial = s.serial := rfl
@[simp] theorem setVi_vaBits (s : State) (v : Nat) (x : Vi) : (s.setVi v x).vaBits = s.vaBits := rfl
@[simp] theorem setVi_drawn (s : State) (v : Nat) (x : Vi) : (s.setVi v x).drawn = s.drawn := rfl
@[simp] theorem thread_of_setVi (s : State) (v : Nat) (x : Vi) (j : Nat) : (s.setVi v x).thread j = s.thread j := rfl
@[simp] theorem core_of_setVi (s : State) (v : Nat) (x : Vi) (j : Nat) : (s.setVi v x).core j = s.core j := rfl
@[simp] theorem cluster_of_setVi (s : State) (v : Nat) (x : Vi) (j : Nat) : (s.setVi v x).cluster j = s.cluster j := rfl
@[simp] theorem th_of_setVi (s : State) (v : Nat) (x : Vi) : (s.setVi v x).th = s.th := rfl
@[simp] theorem myCore_of_setVi (s : State) (v : Nat) (x : Vi) : (s.setVi v x).myCore = s.myCore := rfl
@[simp] theorem myCluster_of_setVi (s : State) (v : Nat) (x : Vi) : (s.setVi v x).myCluster = s.myCluster := rfl

end State

namespace Thread

@[simp] theorem setScalar_present (th : Thread) (r : BitVec 5) (c : Cell 32) : (th.setScalar r c).present = th.present := rfl
@[simp] theorem setScalar_vi (th : Thread) (r : BitVec 5) (c : Cell 32) : (th.setScalar r c).vi = th.vi := rfl
@[simp] theorem setScalar_pc (th : Thread) (r : BitVec 5) (c : Cell 32) : (th.setScalar r c).pc = th.pc := rfl
@[simp] theorem setScalar_mode (th : Thread) (r : BitVec 5) (c : Cell 32) : (th.setScalar r c).mode = th.mode := rfl
@[simp] theorem setScalar_plen (th : Thread) (r : BitVec 5) (c : Cell 32) : (th.setScalar r c).plen = th.plen := rfl
@[simp] theorem setScalar_inpl (th : Thread) (r : BitVec 5) (c : Cell 32) : (th.setScalar r c).inpl = th.inpl := rfl
@[simp] theorem setScalar_inup (th : Thread) (r : BitVec 5) (c : Cell 32) : (th.setScalar r c).inup = th.inup := rfl
@[simp] theorem setScalar_cwoob (th : Thread) (r : BitVec 5) (c : Cell 32) : (th.setScalar r c).cwoob = th.cwoob := rfl
@[simp] theorem setScalar_ptrap (th : Thread) (r : BitVec 5) (c : Cell 32) : (th.setScalar r c).ptrap = th.ptrap := rfl
@[simp] theorem setScalar_cwp (th : Thread) (r : BitVec 5) (c : Cell 32) : (th.setScalar r c).cwp = th.cwp := rfl
@[simp] theorem setScalar_resident (th : Thread) (r : BitVec 5) (c : Cell 32) : (th.setScalar r c).resident = th.resident := rfl
@[simp] theorem setScalar_frames (th : Thread) (r : BitVec 5) (c : Cell 32) : (th.setScalar r c).frames = th.frames := rfl
@[simp] theorem setScalar_base (th : Thread) (r : BitVec 5) (c : Cell 32) : (th.setScalar r c).base = th.base := rfl
@[simp] theorem setScalar_vec (th : Thread) (r : BitVec 5) (c : Cell 32) : (th.setScalar r c).vec = th.vec := rfl
@[simp] theorem setScalar_pred (th : Thread) (r : BitVec 5) (c : Cell 32) : (th.setScalar r c).pred = th.pred := rfl
@[simp] theorem setScalar_fflags (th : Thread) (r : BitVec 5) (c : Cell 32) : (th.setScalar r c).fflags = th.fflags := rfl
@[simp] theorem setScalar_fpcr (th : Thread) (r : BitVec 5) (c : Cell 32) : (th.setScalar r c).fpcr = th.fpcr := rfl
@[simp] theorem setScalar_wsbase (th : Thread) (r : BitVec 5) (c : Cell 32) : (th.setScalar r c).wsbase = th.wsbase := rfl
@[simp] theorem setScalar_wslim (th : Thread) (r : BitVec 5) (c : Cell 32) : (th.setScalar r c).wslim = th.wslim := rfl
@[simp] theorem setScalar_wsptr (th : Thread) (r : BitVec 5) (c : Cell 32) : (th.setScalar r c).wsptr = th.wsptr := rfl
@[simp] theorem setScalar_cwbase (th : Thread) (r : BitVec 5) (c : Cell 32) : (th.setScalar r c).cwbase = th.cwbase := rfl
@[simp] theorem setScalar_cwsize (th : Thread) (r : BitVec 5) (c : Cell 32) : (th.setScalar r c).cwsize = th.cwsize := rfl
@[simp] theorem setScalar_cls (th : Thread) (r : BitVec 5) (c : Cell 32) : (th.setScalar r c).cls = th.cls := rfl
@[simp] theorem setScalar_profile (th : Thread) (r : BitVec 5) (c : Cell 32) : (th.setScalar r c).profile = th.profile := rfl
@[simp] theorem setScalar_task (th : Thread) (r : BitVec 5) (c : Cell 32) : (th.setScalar r c).task = th.task := rfl
@[simp] theorem setScalar_child (th : Thread) (r : BitVec 5) (c : Cell 32) : (th.setScalar r c).child = th.child := rfl
@[simp] theorem setScalar_ends (th : Thread) (r : BitVec 5) (c : Cell 32) : (th.setScalar r c).ends = th.ends := rfl
@[simp] theorem setScalar_stops (th : Thread) (r : BitVec 5) (c : Cell 32) : (th.setScalar r c).stops = th.stops := rfl
@[simp] theorem setScalar_ctx (th : Thread) (r : BitVec 5) (c : Cell 32) : (th.setScalar r c).ctx = th.ctx := rfl
@[simp] theorem setScalar_era (th : Thread) (r : BitVec 5) (c : Cell 32) : (th.setScalar r c).era = th.era := rfl
@[simp] theorem setScalar_refusal (th : Thread) (r : BitVec 5) (c : Cell 32) : (th.setScalar r c).refusal = th.refusal := rfl
@[simp] theorem setScalar_veil (th : Thread) (r : BitVec 5) (c : Cell 32) : (th.setScalar r c).veil = th.veil := rfl
@[simp] theorem setScalar_uid (th : Thread) (r : BitVec 5) (c : Cell 32) : (th.setScalar r c).uid = th.uid := rfl
@[simp] theorem setScalar_freedAt (th : Thread) (r : BitVec 5) (c : Cell 32) : (th.setScalar r c).freedAt = th.freedAt := rfl
@[simp] theorem setScalar_openBatch (th : Thread) (r : BitVec 5) (c : Cell 32) : (th.setScalar r c).openBatch = th.openBatch := rfl
@[simp] theorem setScalar_sealed (th : Thread) (r : BitVec 5) (c : Cell 32) : (th.setScalar r c).sealed = th.sealed := rfl
@[simp] theorem setScalar_cfault (th : Thread) (r : BitVec 5) (c : Cell 32) : (th.setScalar r c).cfault = th.cfault := rfl
@[simp] theorem setScalar_cfaddr (th : Thread) (r : BitVec 5) (c : Cell 32) : (th.setScalar r c).cfaddr = th.cfaddr := rfl
@[simp] theorem setScalar_leases (th : Thread) (r : BitVec 5) (c : Cell 32) : (th.setScalar r c).leases = th.leases := rfl
@[simp] theorem setScalar_arrivals (th : Thread) (r : BitVec 5) (c : Cell 32) : (th.setScalar r c).arrivals = th.arrivals := rfl
@[simp] theorem setScalar_epc (th : Thread) (r : BitVec 5) (c : Cell 32) : (th.setScalar r c).epc = th.epc := rfl
@[simp] theorem setScalar_cause (th : Thread) (r : BitVec 5) (c : Cell 32) : (th.setScalar r c).cause = th.cause := rfl
@[simp] theorem setScalar_tval (th : Thread) (r : BitVec 5) (c : Cell 32) : (th.setScalar r c).tval = th.tval := rfl
@[simp] theorem setScalar_upvec (th : Thread) (r : BitVec 5) (c : Cell 32) : (th.setScalar r c).upvec = th.upvec := rfl
@[simp] theorem setScalar_plvec (th : Thread) (r : BitVec 5) (c : Cell 32) : (th.setScalar r c).plvec = th.plvec := rfl
@[simp] theorem setScalar_plpc (th : Thread) (r : BitVec 5) (c : Cell 32) : (th.setScalar r c).plpc = th.plpc := rfl
@[simp] theorem setScalar_plens (th : Thread) (r : BitVec 5) (c : Cell 32) : (th.setScalar r c).plens = th.plens := rfl
@[simp] theorem setScalar_plbsub (th : Thread) (r : BitVec 5) (c : Cell 32) : (th.setScalar r c).plbsub = th.plbsub := rfl
@[simp] theorem setScalar_plbnum (th : Thread) (r : BitVec 5) (c : Cell 32) : (th.setScalar r c).plbnum = th.plbnum := rfl
@[simp] theorem setScalar_plsrc (th : Thread) (r : BitVec 5) (c : Cell 32) : (th.setScalar r c).plsrc = th.plsrc := rfl
@[simp] theorem setScalar_pldata (th : Thread) (r : BitVec 5) (c : Cell 32) : (th.setScalar r c).pldata = th.pldata := rfl
@[simp] theorem setScalar_noteBatch (th : Thread) (r : BitVec 5) (c : Cell 32) : (th.setScalar r c).noteBatch = th.noteBatch := rfl
@[simp] theorem setScalar_noteLease (th : Thread) (r : BitVec 5) (c : Cell 32) : (th.setScalar r c).noteLease = th.noteLease := rfl
@[simp] theorem setScalar_noteBarrier (th : Thread) (r : BitVec 5) (c : Cell 32) : (th.setScalar r c).noteBarrier = th.noteBarrier := rfl
@[simp] theorem setScalar_noteFault (th : Thread) (r : BitVec 5) (c : Cell 32) : (th.setScalar r c).noteFault = th.noteFault := rfl
@[simp] theorem setScalar_shadow (th : Thread) (r : BitVec 5) (c : Cell 32) : (th.setScalar r c).shadow = th.shadow := rfl
@[simp] theorem setScalar_tok (th : Thread) (r : BitVec 5) (c : Cell 32) : (th.setScalar r c).tok = th.tok := rfl
@[simp] theorem setScalar_awaited (th : Thread) (r : BitVec 5) (c : Cell 32) : (th.setScalar r c).awaited = th.awaited := rfl
@[simp] theorem setScalar_feretry (th : Thread) (r : BitVec 5) (c : Cell 32) : (th.setScalar r c).feretry = th.feretry := rfl
@[simp] theorem setScalar_rsvhold (th : Thread) (r : BitVec 5) (c : Cell 32) : (th.setScalar r c).rsvhold = th.rsvhold := rfl
@[simp] theorem setScalar_waitdl (th : Thread) (r : BitVec 5) (c : Cell 32) : (th.setScalar r c).waitdl = th.waitdl := rfl
@[simp] theorem setScalar_sendlim (th : Thread) (r : BitVec 5) (c : Cell 32) : (th.setScalar r c).sendlim = th.sendlim := rfl
@[simp] theorem setScalar_staged (th : Thread) (r : BitVec 5) (c : Cell 32) : (th.setScalar r c).staged = th.staged := rfl
@[simp] theorem setScalar_posted (th : Thread) (r : BitVec 5) (c : Cell 32) : (th.setScalar r c).posted = th.posted := rfl
@[simp] theorem setScalar_rsv (th : Thread) (r : BitVec 5) (c : Cell 32) : (th.setScalar r c).rsv = th.rsv := rfl
@[simp] theorem setScalar_heard (th : Thread) (r : BitVec 5) (c : Cell 32) : (th.setScalar r c).heard = th.heard := rfl
@[simp] theorem setScalar_producers (th : Thread) (r : BitVec 5) (c : Cell 32) : (th.setScalar r c).producers = th.producers := rfl
@[simp] theorem setScalar_halted (th : Thread) (r : BitVec 5) (c : Cell 32) : (th.setScalar r c).halted = th.halted := rfl
@[simp] theorem setScalar_ir (th : Thread) (r : BitVec 5) (c : Cell 32) : (th.setScalar r c).ir = th.ir := rfl
@[simp] theorem setScalar_stalled (th : Thread) (r : BitVec 5) (c : Cell 32) : (th.setScalar r c).stalled = th.stalled := rfl
@[simp] theorem setScalar_wait (th : Thread) (r : BitVec 5) (c : Cell 32) : (th.setScalar r c).wait = th.wait := rfl
@[simp] theorem setBase_present (th : Thread) (b : BitVec 3) (c : Cell 64) : (th.setBase b c).present = th.present := rfl
@[simp] theorem setBase_vi (th : Thread) (b : BitVec 3) (c : Cell 64) : (th.setBase b c).vi = th.vi := rfl
@[simp] theorem setBase_pc (th : Thread) (b : BitVec 3) (c : Cell 64) : (th.setBase b c).pc = th.pc := rfl
@[simp] theorem setBase_mode (th : Thread) (b : BitVec 3) (c : Cell 64) : (th.setBase b c).mode = th.mode := rfl
@[simp] theorem setBase_plen (th : Thread) (b : BitVec 3) (c : Cell 64) : (th.setBase b c).plen = th.plen := rfl
@[simp] theorem setBase_inpl (th : Thread) (b : BitVec 3) (c : Cell 64) : (th.setBase b c).inpl = th.inpl := rfl
@[simp] theorem setBase_inup (th : Thread) (b : BitVec 3) (c : Cell 64) : (th.setBase b c).inup = th.inup := rfl
@[simp] theorem setBase_cwoob (th : Thread) (b : BitVec 3) (c : Cell 64) : (th.setBase b c).cwoob = th.cwoob := rfl
@[simp] theorem setBase_ptrap (th : Thread) (b : BitVec 3) (c : Cell 64) : (th.setBase b c).ptrap = th.ptrap := rfl
@[simp] theorem setBase_scal (th : Thread) (b : BitVec 3) (c : Cell 64) : (th.setBase b c).scal = th.scal := rfl
@[simp] theorem setBase_cwp (th : Thread) (b : BitVec 3) (c : Cell 64) : (th.setBase b c).cwp = th.cwp := rfl
@[simp] theorem setBase_resident (th : Thread) (b : BitVec 3) (c : Cell 64) : (th.setBase b c).resident = th.resident := rfl
@[simp] theorem setBase_frames (th : Thread) (b : BitVec 3) (c : Cell 64) : (th.setBase b c).frames = th.frames := rfl
@[simp] theorem setBase_vec (th : Thread) (b : BitVec 3) (c : Cell 64) : (th.setBase b c).vec = th.vec := rfl
@[simp] theorem setBase_pred (th : Thread) (b : BitVec 3) (c : Cell 64) : (th.setBase b c).pred = th.pred := rfl
@[simp] theorem setBase_fflags (th : Thread) (b : BitVec 3) (c : Cell 64) : (th.setBase b c).fflags = th.fflags := rfl
@[simp] theorem setBase_fpcr (th : Thread) (b : BitVec 3) (c : Cell 64) : (th.setBase b c).fpcr = th.fpcr := rfl
@[simp] theorem setBase_wsbase (th : Thread) (b : BitVec 3) (c : Cell 64) : (th.setBase b c).wsbase = th.wsbase := rfl
@[simp] theorem setBase_wslim (th : Thread) (b : BitVec 3) (c : Cell 64) : (th.setBase b c).wslim = th.wslim := rfl
@[simp] theorem setBase_wsptr (th : Thread) (b : BitVec 3) (c : Cell 64) : (th.setBase b c).wsptr = th.wsptr := rfl
@[simp] theorem setBase_cwbase (th : Thread) (b : BitVec 3) (c : Cell 64) : (th.setBase b c).cwbase = th.cwbase := rfl
@[simp] theorem setBase_cwsize (th : Thread) (b : BitVec 3) (c : Cell 64) : (th.setBase b c).cwsize = th.cwsize := rfl
@[simp] theorem setBase_cls (th : Thread) (b : BitVec 3) (c : Cell 64) : (th.setBase b c).cls = th.cls := rfl
@[simp] theorem setBase_profile (th : Thread) (b : BitVec 3) (c : Cell 64) : (th.setBase b c).profile = th.profile := rfl
@[simp] theorem setBase_task (th : Thread) (b : BitVec 3) (c : Cell 64) : (th.setBase b c).task = th.task := rfl
@[simp] theorem setBase_child (th : Thread) (b : BitVec 3) (c : Cell 64) : (th.setBase b c).child = th.child := rfl
@[simp] theorem setBase_ends (th : Thread) (b : BitVec 3) (c : Cell 64) : (th.setBase b c).ends = th.ends := rfl
@[simp] theorem setBase_stops (th : Thread) (b : BitVec 3) (c : Cell 64) : (th.setBase b c).stops = th.stops := rfl
@[simp] theorem setBase_ctx (th : Thread) (b : BitVec 3) (c : Cell 64) : (th.setBase b c).ctx = th.ctx := rfl
@[simp] theorem setBase_era (th : Thread) (b : BitVec 3) (c : Cell 64) : (th.setBase b c).era = th.era := rfl
@[simp] theorem setBase_refusal (th : Thread) (b : BitVec 3) (c : Cell 64) : (th.setBase b c).refusal = th.refusal := rfl
@[simp] theorem setBase_veil (th : Thread) (b : BitVec 3) (c : Cell 64) : (th.setBase b c).veil = th.veil := rfl
@[simp] theorem setBase_uid (th : Thread) (b : BitVec 3) (c : Cell 64) : (th.setBase b c).uid = th.uid := rfl
@[simp] theorem setBase_freedAt (th : Thread) (b : BitVec 3) (c : Cell 64) : (th.setBase b c).freedAt = th.freedAt := rfl
@[simp] theorem setBase_openBatch (th : Thread) (b : BitVec 3) (c : Cell 64) : (th.setBase b c).openBatch = th.openBatch := rfl
@[simp] theorem setBase_sealed (th : Thread) (b : BitVec 3) (c : Cell 64) : (th.setBase b c).sealed = th.sealed := rfl
@[simp] theorem setBase_cfault (th : Thread) (b : BitVec 3) (c : Cell 64) : (th.setBase b c).cfault = th.cfault := rfl
@[simp] theorem setBase_cfaddr (th : Thread) (b : BitVec 3) (c : Cell 64) : (th.setBase b c).cfaddr = th.cfaddr := rfl
@[simp] theorem setBase_leases (th : Thread) (b : BitVec 3) (c : Cell 64) : (th.setBase b c).leases = th.leases := rfl
@[simp] theorem setBase_arrivals (th : Thread) (b : BitVec 3) (c : Cell 64) : (th.setBase b c).arrivals = th.arrivals := rfl
@[simp] theorem setBase_epc (th : Thread) (b : BitVec 3) (c : Cell 64) : (th.setBase b c).epc = th.epc := rfl
@[simp] theorem setBase_cause (th : Thread) (b : BitVec 3) (c : Cell 64) : (th.setBase b c).cause = th.cause := rfl
@[simp] theorem setBase_tval (th : Thread) (b : BitVec 3) (c : Cell 64) : (th.setBase b c).tval = th.tval := rfl
@[simp] theorem setBase_upvec (th : Thread) (b : BitVec 3) (c : Cell 64) : (th.setBase b c).upvec = th.upvec := rfl
@[simp] theorem setBase_plvec (th : Thread) (b : BitVec 3) (c : Cell 64) : (th.setBase b c).plvec = th.plvec := rfl
@[simp] theorem setBase_plpc (th : Thread) (b : BitVec 3) (c : Cell 64) : (th.setBase b c).plpc = th.plpc := rfl
@[simp] theorem setBase_plens (th : Thread) (b : BitVec 3) (c : Cell 64) : (th.setBase b c).plens = th.plens := rfl
@[simp] theorem setBase_plbsub (th : Thread) (b : BitVec 3) (c : Cell 64) : (th.setBase b c).plbsub = th.plbsub := rfl
@[simp] theorem setBase_plbnum (th : Thread) (b : BitVec 3) (c : Cell 64) : (th.setBase b c).plbnum = th.plbnum := rfl
@[simp] theorem setBase_plsrc (th : Thread) (b : BitVec 3) (c : Cell 64) : (th.setBase b c).plsrc = th.plsrc := rfl
@[simp] theorem setBase_pldata (th : Thread) (b : BitVec 3) (c : Cell 64) : (th.setBase b c).pldata = th.pldata := rfl
@[simp] theorem setBase_noteBatch (th : Thread) (b : BitVec 3) (c : Cell 64) : (th.setBase b c).noteBatch = th.noteBatch := rfl
@[simp] theorem setBase_noteLease (th : Thread) (b : BitVec 3) (c : Cell 64) : (th.setBase b c).noteLease = th.noteLease := rfl
@[simp] theorem setBase_noteBarrier (th : Thread) (b : BitVec 3) (c : Cell 64) : (th.setBase b c).noteBarrier = th.noteBarrier := rfl
@[simp] theorem setBase_noteFault (th : Thread) (b : BitVec 3) (c : Cell 64) : (th.setBase b c).noteFault = th.noteFault := rfl
@[simp] theorem setBase_shadow (th : Thread) (b : BitVec 3) (c : Cell 64) : (th.setBase b c).shadow = th.shadow := rfl
@[simp] theorem setBase_tok (th : Thread) (b : BitVec 3) (c : Cell 64) : (th.setBase b c).tok = th.tok := rfl
@[simp] theorem setBase_awaited (th : Thread) (b : BitVec 3) (c : Cell 64) : (th.setBase b c).awaited = th.awaited := rfl
@[simp] theorem setBase_feretry (th : Thread) (b : BitVec 3) (c : Cell 64) : (th.setBase b c).feretry = th.feretry := rfl
@[simp] theorem setBase_rsvhold (th : Thread) (b : BitVec 3) (c : Cell 64) : (th.setBase b c).rsvhold = th.rsvhold := rfl
@[simp] theorem setBase_waitdl (th : Thread) (b : BitVec 3) (c : Cell 64) : (th.setBase b c).waitdl = th.waitdl := rfl
@[simp] theorem setBase_sendlim (th : Thread) (b : BitVec 3) (c : Cell 64) : (th.setBase b c).sendlim = th.sendlim := rfl
@[simp] theorem setBase_staged (th : Thread) (b : BitVec 3) (c : Cell 64) : (th.setBase b c).staged = th.staged := rfl
@[simp] theorem setBase_posted (th : Thread) (b : BitVec 3) (c : Cell 64) : (th.setBase b c).posted = th.posted := rfl
@[simp] theorem setBase_rsv (th : Thread) (b : BitVec 3) (c : Cell 64) : (th.setBase b c).rsv = th.rsv := rfl
@[simp] theorem setBase_heard (th : Thread) (b : BitVec 3) (c : Cell 64) : (th.setBase b c).heard = th.heard := rfl
@[simp] theorem setBase_producers (th : Thread) (b : BitVec 3) (c : Cell 64) : (th.setBase b c).producers = th.producers := rfl
@[simp] theorem setBase_halted (th : Thread) (b : BitVec 3) (c : Cell 64) : (th.setBase b c).halted = th.halted := rfl
@[simp] theorem setBase_ir (th : Thread) (b : BitVec 3) (c : Cell 64) : (th.setBase b c).ir = th.ir := rfl
@[simp] theorem setBase_stalled (th : Thread) (b : BitVec 3) (c : Cell 64) : (th.setBase b c).stalled = th.stalled := rfl
@[simp] theorem setBase_wait (th : Thread) (b : BitVec 3) (c : Cell 64) : (th.setBase b c).wait = th.wait := rfl
@[simp] theorem setVec_present (th : Thread) (v : Nat) (c : Cell 256) : (th.setVec v c).present = th.present := rfl
@[simp] theorem setVec_vi (th : Thread) (v : Nat) (c : Cell 256) : (th.setVec v c).vi = th.vi := rfl
@[simp] theorem setVec_pc (th : Thread) (v : Nat) (c : Cell 256) : (th.setVec v c).pc = th.pc := rfl
@[simp] theorem setVec_mode (th : Thread) (v : Nat) (c : Cell 256) : (th.setVec v c).mode = th.mode := rfl
@[simp] theorem setVec_plen (th : Thread) (v : Nat) (c : Cell 256) : (th.setVec v c).plen = th.plen := rfl
@[simp] theorem setVec_inpl (th : Thread) (v : Nat) (c : Cell 256) : (th.setVec v c).inpl = th.inpl := rfl
@[simp] theorem setVec_inup (th : Thread) (v : Nat) (c : Cell 256) : (th.setVec v c).inup = th.inup := rfl
@[simp] theorem setVec_cwoob (th : Thread) (v : Nat) (c : Cell 256) : (th.setVec v c).cwoob = th.cwoob := rfl
@[simp] theorem setVec_ptrap (th : Thread) (v : Nat) (c : Cell 256) : (th.setVec v c).ptrap = th.ptrap := rfl
@[simp] theorem setVec_scal (th : Thread) (v : Nat) (c : Cell 256) : (th.setVec v c).scal = th.scal := rfl
@[simp] theorem setVec_cwp (th : Thread) (v : Nat) (c : Cell 256) : (th.setVec v c).cwp = th.cwp := rfl
@[simp] theorem setVec_resident (th : Thread) (v : Nat) (c : Cell 256) : (th.setVec v c).resident = th.resident := rfl
@[simp] theorem setVec_frames (th : Thread) (v : Nat) (c : Cell 256) : (th.setVec v c).frames = th.frames := rfl
@[simp] theorem setVec_base (th : Thread) (v : Nat) (c : Cell 256) : (th.setVec v c).base = th.base := rfl
@[simp] theorem setVec_pred (th : Thread) (v : Nat) (c : Cell 256) : (th.setVec v c).pred = th.pred := rfl
@[simp] theorem setVec_fflags (th : Thread) (v : Nat) (c : Cell 256) : (th.setVec v c).fflags = th.fflags := rfl
@[simp] theorem setVec_fpcr (th : Thread) (v : Nat) (c : Cell 256) : (th.setVec v c).fpcr = th.fpcr := rfl
@[simp] theorem setVec_wsbase (th : Thread) (v : Nat) (c : Cell 256) : (th.setVec v c).wsbase = th.wsbase := rfl
@[simp] theorem setVec_wslim (th : Thread) (v : Nat) (c : Cell 256) : (th.setVec v c).wslim = th.wslim := rfl
@[simp] theorem setVec_wsptr (th : Thread) (v : Nat) (c : Cell 256) : (th.setVec v c).wsptr = th.wsptr := rfl
@[simp] theorem setVec_cwbase (th : Thread) (v : Nat) (c : Cell 256) : (th.setVec v c).cwbase = th.cwbase := rfl
@[simp] theorem setVec_cwsize (th : Thread) (v : Nat) (c : Cell 256) : (th.setVec v c).cwsize = th.cwsize := rfl
@[simp] theorem setVec_cls (th : Thread) (v : Nat) (c : Cell 256) : (th.setVec v c).cls = th.cls := rfl
@[simp] theorem setVec_profile (th : Thread) (v : Nat) (c : Cell 256) : (th.setVec v c).profile = th.profile := rfl
@[simp] theorem setVec_task (th : Thread) (v : Nat) (c : Cell 256) : (th.setVec v c).task = th.task := rfl
@[simp] theorem setVec_child (th : Thread) (v : Nat) (c : Cell 256) : (th.setVec v c).child = th.child := rfl
@[simp] theorem setVec_ends (th : Thread) (v : Nat) (c : Cell 256) : (th.setVec v c).ends = th.ends := rfl
@[simp] theorem setVec_stops (th : Thread) (v : Nat) (c : Cell 256) : (th.setVec v c).stops = th.stops := rfl
@[simp] theorem setVec_ctx (th : Thread) (v : Nat) (c : Cell 256) : (th.setVec v c).ctx = th.ctx := rfl
@[simp] theorem setVec_era (th : Thread) (v : Nat) (c : Cell 256) : (th.setVec v c).era = th.era := rfl
@[simp] theorem setVec_refusal (th : Thread) (v : Nat) (c : Cell 256) : (th.setVec v c).refusal = th.refusal := rfl
@[simp] theorem setVec_veil (th : Thread) (v : Nat) (c : Cell 256) : (th.setVec v c).veil = th.veil := rfl
@[simp] theorem setVec_uid (th : Thread) (v : Nat) (c : Cell 256) : (th.setVec v c).uid = th.uid := rfl
@[simp] theorem setVec_freedAt (th : Thread) (v : Nat) (c : Cell 256) : (th.setVec v c).freedAt = th.freedAt := rfl
@[simp] theorem setVec_openBatch (th : Thread) (v : Nat) (c : Cell 256) : (th.setVec v c).openBatch = th.openBatch := rfl
@[simp] theorem setVec_sealed (th : Thread) (v : Nat) (c : Cell 256) : (th.setVec v c).sealed = th.sealed := rfl
@[simp] theorem setVec_cfault (th : Thread) (v : Nat) (c : Cell 256) : (th.setVec v c).cfault = th.cfault := rfl
@[simp] theorem setVec_cfaddr (th : Thread) (v : Nat) (c : Cell 256) : (th.setVec v c).cfaddr = th.cfaddr := rfl
@[simp] theorem setVec_leases (th : Thread) (v : Nat) (c : Cell 256) : (th.setVec v c).leases = th.leases := rfl
@[simp] theorem setVec_arrivals (th : Thread) (v : Nat) (c : Cell 256) : (th.setVec v c).arrivals = th.arrivals := rfl
@[simp] theorem setVec_epc (th : Thread) (v : Nat) (c : Cell 256) : (th.setVec v c).epc = th.epc := rfl
@[simp] theorem setVec_cause (th : Thread) (v : Nat) (c : Cell 256) : (th.setVec v c).cause = th.cause := rfl
@[simp] theorem setVec_tval (th : Thread) (v : Nat) (c : Cell 256) : (th.setVec v c).tval = th.tval := rfl
@[simp] theorem setVec_upvec (th : Thread) (v : Nat) (c : Cell 256) : (th.setVec v c).upvec = th.upvec := rfl
@[simp] theorem setVec_plvec (th : Thread) (v : Nat) (c : Cell 256) : (th.setVec v c).plvec = th.plvec := rfl
@[simp] theorem setVec_plpc (th : Thread) (v : Nat) (c : Cell 256) : (th.setVec v c).plpc = th.plpc := rfl
@[simp] theorem setVec_plens (th : Thread) (v : Nat) (c : Cell 256) : (th.setVec v c).plens = th.plens := rfl
@[simp] theorem setVec_plbsub (th : Thread) (v : Nat) (c : Cell 256) : (th.setVec v c).plbsub = th.plbsub := rfl
@[simp] theorem setVec_plbnum (th : Thread) (v : Nat) (c : Cell 256) : (th.setVec v c).plbnum = th.plbnum := rfl
@[simp] theorem setVec_plsrc (th : Thread) (v : Nat) (c : Cell 256) : (th.setVec v c).plsrc = th.plsrc := rfl
@[simp] theorem setVec_pldata (th : Thread) (v : Nat) (c : Cell 256) : (th.setVec v c).pldata = th.pldata := rfl
@[simp] theorem setVec_noteBatch (th : Thread) (v : Nat) (c : Cell 256) : (th.setVec v c).noteBatch = th.noteBatch := rfl
@[simp] theorem setVec_noteLease (th : Thread) (v : Nat) (c : Cell 256) : (th.setVec v c).noteLease = th.noteLease := rfl
@[simp] theorem setVec_noteBarrier (th : Thread) (v : Nat) (c : Cell 256) : (th.setVec v c).noteBarrier = th.noteBarrier := rfl
@[simp] theorem setVec_noteFault (th : Thread) (v : Nat) (c : Cell 256) : (th.setVec v c).noteFault = th.noteFault := rfl
@[simp] theorem setVec_shadow (th : Thread) (v : Nat) (c : Cell 256) : (th.setVec v c).shadow = th.shadow := rfl
@[simp] theorem setVec_tok (th : Thread) (v : Nat) (c : Cell 256) : (th.setVec v c).tok = th.tok := rfl
@[simp] theorem setVec_awaited (th : Thread) (v : Nat) (c : Cell 256) : (th.setVec v c).awaited = th.awaited := rfl
@[simp] theorem setVec_feretry (th : Thread) (v : Nat) (c : Cell 256) : (th.setVec v c).feretry = th.feretry := rfl
@[simp] theorem setVec_rsvhold (th : Thread) (v : Nat) (c : Cell 256) : (th.setVec v c).rsvhold = th.rsvhold := rfl
@[simp] theorem setVec_waitdl (th : Thread) (v : Nat) (c : Cell 256) : (th.setVec v c).waitdl = th.waitdl := rfl
@[simp] theorem setVec_sendlim (th : Thread) (v : Nat) (c : Cell 256) : (th.setVec v c).sendlim = th.sendlim := rfl
@[simp] theorem setVec_staged (th : Thread) (v : Nat) (c : Cell 256) : (th.setVec v c).staged = th.staged := rfl
@[simp] theorem setVec_posted (th : Thread) (v : Nat) (c : Cell 256) : (th.setVec v c).posted = th.posted := rfl
@[simp] theorem setVec_rsv (th : Thread) (v : Nat) (c : Cell 256) : (th.setVec v c).rsv = th.rsv := rfl
@[simp] theorem setVec_heard (th : Thread) (v : Nat) (c : Cell 256) : (th.setVec v c).heard = th.heard := rfl
@[simp] theorem setVec_producers (th : Thread) (v : Nat) (c : Cell 256) : (th.setVec v c).producers = th.producers := rfl
@[simp] theorem setVec_halted (th : Thread) (v : Nat) (c : Cell 256) : (th.setVec v c).halted = th.halted := rfl
@[simp] theorem setVec_ir (th : Thread) (v : Nat) (c : Cell 256) : (th.setVec v c).ir = th.ir := rfl
@[simp] theorem setVec_stalled (th : Thread) (v : Nat) (c : Cell 256) : (th.setVec v c).stalled = th.stalled := rfl
@[simp] theorem setVec_wait (th : Thread) (v : Nat) (c : Cell 256) : (th.setVec v c).wait = th.wait := rfl
@[simp] theorem release_present (th : Thread) : th.release.present = th.present := rfl
@[simp] theorem release_vi (th : Thread) : th.release.vi = th.vi := rfl
@[simp] theorem release_pc (th : Thread) : th.release.pc = th.pc := rfl
@[simp] theorem release_mode (th : Thread) : th.release.mode = th.mode := rfl
@[simp] theorem release_plen (th : Thread) : th.release.plen = th.plen := rfl
@[simp] theorem release_inpl (th : Thread) : th.release.inpl = th.inpl := rfl
@[simp] theorem release_inup (th : Thread) : th.release.inup = th.inup := rfl
@[simp] theorem release_cwoob (th : Thread) : th.release.cwoob = th.cwoob := rfl
@[simp] theorem release_ptrap (th : Thread) : th.release.ptrap = th.ptrap := rfl
@[simp] theorem release_scal (th : Thread) : th.release.scal = th.scal := rfl
@[simp] theorem release_cwp (th : Thread) : th.release.cwp = th.cwp := rfl
@[simp] theorem release_resident (th : Thread) : th.release.resident = th.resident := rfl
@[simp] theorem release_frames (th : Thread) : th.release.frames = th.frames := rfl
@[simp] theorem release_base (th : Thread) : th.release.base = th.base := rfl
@[simp] theorem release_vec (th : Thread) : th.release.vec = th.vec := rfl
@[simp] theorem release_pred (th : Thread) : th.release.pred = th.pred := rfl
@[simp] theorem release_fflags (th : Thread) : th.release.fflags = th.fflags := rfl
@[simp] theorem release_fpcr (th : Thread) : th.release.fpcr = th.fpcr := rfl
@[simp] theorem release_wsbase (th : Thread) : th.release.wsbase = th.wsbase := rfl
@[simp] theorem release_wslim (th : Thread) : th.release.wslim = th.wslim := rfl
@[simp] theorem release_wsptr (th : Thread) : th.release.wsptr = th.wsptr := rfl
@[simp] theorem release_cwbase (th : Thread) : th.release.cwbase = th.cwbase := rfl
@[simp] theorem release_cwsize (th : Thread) : th.release.cwsize = th.cwsize := rfl
@[simp] theorem release_cls (th : Thread) : th.release.cls = th.cls := rfl
@[simp] theorem release_profile (th : Thread) : th.release.profile = th.profile := rfl
@[simp] theorem release_task (th : Thread) : th.release.task = th.task := rfl
@[simp] theorem release_child (th : Thread) : th.release.child = th.child := rfl
@[simp] theorem release_ends (th : Thread) : th.release.ends = th.ends := rfl
@[simp] theorem release_stops (th : Thread) : th.release.stops = th.stops := rfl
@[simp] theorem release_ctx (th : Thread) : th.release.ctx = th.ctx := rfl
@[simp] theorem release_era (th : Thread) : th.release.era = th.era := rfl
@[simp] theorem release_refusal (th : Thread) : th.release.refusal = th.refusal := rfl
@[simp] theorem release_veil (th : Thread) : th.release.veil = th.veil := rfl
@[simp] theorem release_uid (th : Thread) : th.release.uid = th.uid := rfl
@[simp] theorem release_freedAt (th : Thread) : th.release.freedAt = th.freedAt := rfl
@[simp] theorem release_openBatch (th : Thread) : th.release.openBatch = th.openBatch := rfl
@[simp] theorem release_sealed (th : Thread) : th.release.sealed = th.sealed := rfl
@[simp] theorem release_cfault (th : Thread) : th.release.cfault = th.cfault := rfl
@[simp] theorem release_cfaddr (th : Thread) : th.release.cfaddr = th.cfaddr := rfl
@[simp] theorem release_leases (th : Thread) : th.release.leases = th.leases := rfl
@[simp] theorem release_arrivals (th : Thread) : th.release.arrivals = th.arrivals := rfl
@[simp] theorem release_epc (th : Thread) : th.release.epc = th.epc := rfl
@[simp] theorem release_cause (th : Thread) : th.release.cause = th.cause := rfl
@[simp] theorem release_tval (th : Thread) : th.release.tval = th.tval := rfl
@[simp] theorem release_upvec (th : Thread) : th.release.upvec = th.upvec := rfl
@[simp] theorem release_plvec (th : Thread) : th.release.plvec = th.plvec := rfl
@[simp] theorem release_plpc (th : Thread) : th.release.plpc = th.plpc := rfl
@[simp] theorem release_plens (th : Thread) : th.release.plens = th.plens := rfl
@[simp] theorem release_plbsub (th : Thread) : th.release.plbsub = th.plbsub := rfl
@[simp] theorem release_plbnum (th : Thread) : th.release.plbnum = th.plbnum := rfl
@[simp] theorem release_plsrc (th : Thread) : th.release.plsrc = th.plsrc := rfl
@[simp] theorem release_pldata (th : Thread) : th.release.pldata = th.pldata := rfl
@[simp] theorem release_noteBatch (th : Thread) : th.release.noteBatch = th.noteBatch := rfl
@[simp] theorem release_noteLease (th : Thread) : th.release.noteLease = th.noteLease := rfl
@[simp] theorem release_noteBarrier (th : Thread) : th.release.noteBarrier = th.noteBarrier := rfl
@[simp] theorem release_noteFault (th : Thread) : th.release.noteFault = th.noteFault := rfl
@[simp] theorem release_shadow (th : Thread) : th.release.shadow = th.shadow := rfl
@[simp] theorem release_tok (th : Thread) : th.release.tok = th.tok := rfl
@[simp] theorem release_awaited (th : Thread) : th.release.awaited = th.awaited := rfl
@[simp] theorem release_feretry (th : Thread) : th.release.feretry = th.feretry := rfl
@[simp] theorem release_rsvhold (th : Thread) : th.release.rsvhold = th.rsvhold := rfl
@[simp] theorem release_waitdl (th : Thread) : th.release.waitdl = th.waitdl := rfl
@[simp] theorem release_sendlim (th : Thread) : th.release.sendlim = th.sendlim := rfl
@[simp] theorem release_staged (th : Thread) : th.release.staged = th.staged := rfl
@[simp] theorem release_posted (th : Thread) : th.release.posted = th.posted := rfl
@[simp] theorem release_rsv (th : Thread) : th.release.rsv = th.rsv := rfl
@[simp] theorem release_heard (th : Thread) : th.release.heard = th.heard := rfl
@[simp] theorem release_producers (th : Thread) : th.release.producers = th.producers := rfl
@[simp] theorem release_halted (th : Thread) : th.release.halted = th.halted := rfl
@[simp] theorem release_ir (th : Thread) : th.release.ir = th.ir := rfl

@[simp] theorem release_stalled (th : Thread) : th.release.stalled = false := rfl
@[simp] theorem release_wait (th : Thread) : th.release.wait = .idle := rfl
@[simp] theorem scalar_release (th : Thread) (r : BitVec 5) : th.release.scalar r = th.scalar r := rfl
@[simp] theorem baseReg_release (th : Thread) (b : BitVec 3) : th.release.baseReg b = th.baseReg b := rfl
@[simp] theorem vecReg_release (th : Thread) (v : Nat) : th.release.vecReg v = th.vecReg v := rfl
@[simp] theorem predReg_release (th : Thread) (q : BitVec 3) : th.release.predReg q = th.predReg q := rfl

@[simp] theorem setPred_present (th : Thread) (q : BitVec 3) (x : Word) : (th.setPred q x).present = th.present := by unfold setPred; split <;> rfl
@[simp] theorem setPred_vi (th : Thread) (q : BitVec 3) (x : Word) : (th.setPred q x).vi = th.vi := by unfold setPred; split <;> rfl
@[simp] theorem setPred_pc (th : Thread) (q : BitVec 3) (x : Word) : (th.setPred q x).pc = th.pc := by unfold setPred; split <;> rfl
@[simp] theorem setPred_mode (th : Thread) (q : BitVec 3) (x : Word) : (th.setPred q x).mode = th.mode := by unfold setPred; split <;> rfl
@[simp] theorem setPred_plen (th : Thread) (q : BitVec 3) (x : Word) : (th.setPred q x).plen = th.plen := by unfold setPred; split <;> rfl
@[simp] theorem setPred_inpl (th : Thread) (q : BitVec 3) (x : Word) : (th.setPred q x).inpl = th.inpl := by unfold setPred; split <;> rfl
@[simp] theorem setPred_inup (th : Thread) (q : BitVec 3) (x : Word) : (th.setPred q x).inup = th.inup := by unfold setPred; split <;> rfl
@[simp] theorem setPred_cwoob (th : Thread) (q : BitVec 3) (x : Word) : (th.setPred q x).cwoob = th.cwoob := by unfold setPred; split <;> rfl
@[simp] theorem setPred_ptrap (th : Thread) (q : BitVec 3) (x : Word) : (th.setPred q x).ptrap = th.ptrap := by unfold setPred; split <;> rfl
@[simp] theorem setPred_scal (th : Thread) (q : BitVec 3) (x : Word) : (th.setPred q x).scal = th.scal := by unfold setPred; split <;> rfl
@[simp] theorem setPred_cwp (th : Thread) (q : BitVec 3) (x : Word) : (th.setPred q x).cwp = th.cwp := by unfold setPred; split <;> rfl
@[simp] theorem setPred_resident (th : Thread) (q : BitVec 3) (x : Word) : (th.setPred q x).resident = th.resident := by unfold setPred; split <;> rfl
@[simp] theorem setPred_frames (th : Thread) (q : BitVec 3) (x : Word) : (th.setPred q x).frames = th.frames := by unfold setPred; split <;> rfl
@[simp] theorem setPred_base (th : Thread) (q : BitVec 3) (x : Word) : (th.setPred q x).base = th.base := by unfold setPred; split <;> rfl
@[simp] theorem setPred_vec (th : Thread) (q : BitVec 3) (x : Word) : (th.setPred q x).vec = th.vec := by unfold setPred; split <;> rfl
@[simp] theorem setPred_fflags (th : Thread) (q : BitVec 3) (x : Word) : (th.setPred q x).fflags = th.fflags := by unfold setPred; split <;> rfl
@[simp] theorem setPred_fpcr (th : Thread) (q : BitVec 3) (x : Word) : (th.setPred q x).fpcr = th.fpcr := by unfold setPred; split <;> rfl
@[simp] theorem setPred_wsbase (th : Thread) (q : BitVec 3) (x : Word) : (th.setPred q x).wsbase = th.wsbase := by unfold setPred; split <;> rfl
@[simp] theorem setPred_wslim (th : Thread) (q : BitVec 3) (x : Word) : (th.setPred q x).wslim = th.wslim := by unfold setPred; split <;> rfl
@[simp] theorem setPred_wsptr (th : Thread) (q : BitVec 3) (x : Word) : (th.setPred q x).wsptr = th.wsptr := by unfold setPred; split <;> rfl
@[simp] theorem setPred_cwbase (th : Thread) (q : BitVec 3) (x : Word) : (th.setPred q x).cwbase = th.cwbase := by unfold setPred; split <;> rfl
@[simp] theorem setPred_cwsize (th : Thread) (q : BitVec 3) (x : Word) : (th.setPred q x).cwsize = th.cwsize := by unfold setPred; split <;> rfl
@[simp] theorem setPred_cls (th : Thread) (q : BitVec 3) (x : Word) : (th.setPred q x).cls = th.cls := by unfold setPred; split <;> rfl
@[simp] theorem setPred_profile (th : Thread) (q : BitVec 3) (x : Word) : (th.setPred q x).profile = th.profile := by unfold setPred; split <;> rfl
@[simp] theorem setPred_task (th : Thread) (q : BitVec 3) (x : Word) : (th.setPred q x).task = th.task := by unfold setPred; split <;> rfl
@[simp] theorem setPred_child (th : Thread) (q : BitVec 3) (x : Word) : (th.setPred q x).child = th.child := by unfold setPred; split <;> rfl
@[simp] theorem setPred_ends (th : Thread) (q : BitVec 3) (x : Word) : (th.setPred q x).ends = th.ends := by unfold setPred; split <;> rfl
@[simp] theorem setPred_stops (th : Thread) (q : BitVec 3) (x : Word) : (th.setPred q x).stops = th.stops := by unfold setPred; split <;> rfl
@[simp] theorem setPred_ctx (th : Thread) (q : BitVec 3) (x : Word) : (th.setPred q x).ctx = th.ctx := by unfold setPred; split <;> rfl
@[simp] theorem setPred_era (th : Thread) (q : BitVec 3) (x : Word) : (th.setPred q x).era = th.era := by unfold setPred; split <;> rfl
@[simp] theorem setPred_refusal (th : Thread) (q : BitVec 3) (x : Word) : (th.setPred q x).refusal = th.refusal := by unfold setPred; split <;> rfl
@[simp] theorem setPred_veil (th : Thread) (q : BitVec 3) (x : Word) : (th.setPred q x).veil = th.veil := by unfold setPred; split <;> rfl
@[simp] theorem setPred_uid (th : Thread) (q : BitVec 3) (x : Word) : (th.setPred q x).uid = th.uid := by unfold setPred; split <;> rfl
@[simp] theorem setPred_freedAt (th : Thread) (q : BitVec 3) (x : Word) : (th.setPred q x).freedAt = th.freedAt := by unfold setPred; split <;> rfl
@[simp] theorem setPred_openBatch (th : Thread) (q : BitVec 3) (x : Word) : (th.setPred q x).openBatch = th.openBatch := by unfold setPred; split <;> rfl
@[simp] theorem setPred_sealed (th : Thread) (q : BitVec 3) (x : Word) : (th.setPred q x).sealed = th.sealed := by unfold setPred; split <;> rfl
@[simp] theorem setPred_cfault (th : Thread) (q : BitVec 3) (x : Word) : (th.setPred q x).cfault = th.cfault := by unfold setPred; split <;> rfl
@[simp] theorem setPred_cfaddr (th : Thread) (q : BitVec 3) (x : Word) : (th.setPred q x).cfaddr = th.cfaddr := by unfold setPred; split <;> rfl
@[simp] theorem setPred_leases (th : Thread) (q : BitVec 3) (x : Word) : (th.setPred q x).leases = th.leases := by unfold setPred; split <;> rfl
@[simp] theorem setPred_arrivals (th : Thread) (q : BitVec 3) (x : Word) : (th.setPred q x).arrivals = th.arrivals := by unfold setPred; split <;> rfl
@[simp] theorem setPred_epc (th : Thread) (q : BitVec 3) (x : Word) : (th.setPred q x).epc = th.epc := by unfold setPred; split <;> rfl
@[simp] theorem setPred_cause (th : Thread) (q : BitVec 3) (x : Word) : (th.setPred q x).cause = th.cause := by unfold setPred; split <;> rfl
@[simp] theorem setPred_tval (th : Thread) (q : BitVec 3) (x : Word) : (th.setPred q x).tval = th.tval := by unfold setPred; split <;> rfl
@[simp] theorem setPred_upvec (th : Thread) (q : BitVec 3) (x : Word) : (th.setPred q x).upvec = th.upvec := by unfold setPred; split <;> rfl
@[simp] theorem setPred_plvec (th : Thread) (q : BitVec 3) (x : Word) : (th.setPred q x).plvec = th.plvec := by unfold setPred; split <;> rfl
@[simp] theorem setPred_plpc (th : Thread) (q : BitVec 3) (x : Word) : (th.setPred q x).plpc = th.plpc := by unfold setPred; split <;> rfl
@[simp] theorem setPred_plens (th : Thread) (q : BitVec 3) (x : Word) : (th.setPred q x).plens = th.plens := by unfold setPred; split <;> rfl
@[simp] theorem setPred_plbsub (th : Thread) (q : BitVec 3) (x : Word) : (th.setPred q x).plbsub = th.plbsub := by unfold setPred; split <;> rfl
@[simp] theorem setPred_plbnum (th : Thread) (q : BitVec 3) (x : Word) : (th.setPred q x).plbnum = th.plbnum := by unfold setPred; split <;> rfl
@[simp] theorem setPred_plsrc (th : Thread) (q : BitVec 3) (x : Word) : (th.setPred q x).plsrc = th.plsrc := by unfold setPred; split <;> rfl
@[simp] theorem setPred_pldata (th : Thread) (q : BitVec 3) (x : Word) : (th.setPred q x).pldata = th.pldata := by unfold setPred; split <;> rfl
@[simp] theorem setPred_noteBatch (th : Thread) (q : BitVec 3) (x : Word) : (th.setPred q x).noteBatch = th.noteBatch := by unfold setPred; split <;> rfl
@[simp] theorem setPred_noteLease (th : Thread) (q : BitVec 3) (x : Word) : (th.setPred q x).noteLease = th.noteLease := by unfold setPred; split <;> rfl
@[simp] theorem setPred_noteBarrier (th : Thread) (q : BitVec 3) (x : Word) : (th.setPred q x).noteBarrier = th.noteBarrier := by unfold setPred; split <;> rfl
@[simp] theorem setPred_noteFault (th : Thread) (q : BitVec 3) (x : Word) : (th.setPred q x).noteFault = th.noteFault := by unfold setPred; split <;> rfl
@[simp] theorem setPred_shadow (th : Thread) (q : BitVec 3) (x : Word) : (th.setPred q x).shadow = th.shadow := by unfold setPred; split <;> rfl
@[simp] theorem setPred_tok (th : Thread) (q : BitVec 3) (x : Word) : (th.setPred q x).tok = th.tok := by unfold setPred; split <;> rfl
@[simp] theorem setPred_awaited (th : Thread) (q : BitVec 3) (x : Word) : (th.setPred q x).awaited = th.awaited := by unfold setPred; split <;> rfl
@[simp] theorem setPred_feretry (th : Thread) (q : BitVec 3) (x : Word) : (th.setPred q x).feretry = th.feretry := by unfold setPred; split <;> rfl
@[simp] theorem setPred_rsvhold (th : Thread) (q : BitVec 3) (x : Word) : (th.setPred q x).rsvhold = th.rsvhold := by unfold setPred; split <;> rfl
@[simp] theorem setPred_waitdl (th : Thread) (q : BitVec 3) (x : Word) : (th.setPred q x).waitdl = th.waitdl := by unfold setPred; split <;> rfl
@[simp] theorem setPred_sendlim (th : Thread) (q : BitVec 3) (x : Word) : (th.setPred q x).sendlim = th.sendlim := by unfold setPred; split <;> rfl
@[simp] theorem setPred_staged (th : Thread) (q : BitVec 3) (x : Word) : (th.setPred q x).staged = th.staged := by unfold setPred; split <;> rfl
@[simp] theorem setPred_posted (th : Thread) (q : BitVec 3) (x : Word) : (th.setPred q x).posted = th.posted := by unfold setPred; split <;> rfl
@[simp] theorem setPred_rsv (th : Thread) (q : BitVec 3) (x : Word) : (th.setPred q x).rsv = th.rsv := by unfold setPred; split <;> rfl
@[simp] theorem setPred_heard (th : Thread) (q : BitVec 3) (x : Word) : (th.setPred q x).heard = th.heard := by unfold setPred; split <;> rfl
@[simp] theorem setPred_producers (th : Thread) (q : BitVec 3) (x : Word) : (th.setPred q x).producers = th.producers := by unfold setPred; split <;> rfl
@[simp] theorem setPred_halted (th : Thread) (q : BitVec 3) (x : Word) : (th.setPred q x).halted = th.halted := by unfold setPred; split <;> rfl
@[simp] theorem setPred_ir (th : Thread) (q : BitVec 3) (x : Word) : (th.setPred q x).ir = th.ir := by unfold setPred; split <;> rfl
@[simp] theorem setPred_stalled (th : Thread) (q : BitVec 3) (x : Word) : (th.setPred q x).stalled = th.stalled := by unfold setPred; split <;> rfl
@[simp] theorem setPred_wait (th : Thread) (q : BitVec 3) (x : Word) : (th.setPred q x).wait = th.wait := by unfold setPred; split <;> rfl

end Thread

end Sys2Proof.Machine
end

