-- ==== Sys2Proof/Laws/Memory.lean ====
section
/-!
SUPPORT. Sys2Proof/Laws/Memory.lean: a byte read after a write, and the canonical form of memory and of the list of empty
words, which every memory operation keeps.
-/

namespace Sys2Proof.Machine

/-! ## Bytes -/

@[simp] theorem memByte_memSet_same (m : List Host.Cell) (k : Nat) (b : Byte) : memByte (memSet m k b) k = b := by
  unfold memByte memSet
  split
  · rename_i h
    simp [h]
  · simp

theorem memByte_memSet_other (m : List Host.Cell) {k j : Nat} (b : Byte) (h : j ≠ k) :
    memByte (memSet m k b) j = memByte m j := by
  unfold memByte memSet
  split
  · exact lookD_del_other m 0 h
  · exact lookD_put_other m b 0 h

/-- What a write stores at a byte: the bits of the mask replace the old ones. -/
def mixByte (old : Byte) (i : Nat) (data mask : Line) : Byte :=
  (old &&& ~~~((mask >>> (8 * i)).setWidth 8)) ||| ((data >>> (8 * i)).setWidth 8 &&& (mask >>> (8 * i)).setWidth 8)

theorem memByte_memWrite_below (n : Nat) : ∀ (m : List Host.Cell) (k a : Nat) (data mask : Line), a < k →
    memByte (memWrite m k n data mask) a = memByte m a := by
  induction n with
  | zero => intros; rfl
  | succ n ih =>
    intro m k a data mask h
    simp only [memWrite]
    rw [ih _ _ _ _ _ (by omega), memByte_memSet_other _ _ (by omega)]

/-- A byte inside the written range takes the bits of the mask. -/
theorem memByte_memWrite_inside (n : Nat) : ∀ (m : List Host.Cell) (k i : Nat) (data mask : Line), i < n →
    memByte (memWrite m k n data mask) (k + i) = mixByte (memByte m (k + i)) i data mask := by
  induction n with
  | zero => intro _ _ i _ _ h; omega
  | succ n ih =>
    intro m k i data mask h
    simp only [memWrite]
    cases i with
    | zero =>
      rw [memByte_memWrite_below _ _ _ _ _ _ (by omega)]
      simp [mixByte]
    | succ i =>
      have e : k + (i + 1) = k + 1 + i := by omega
      rw [e, ih _ _ _ _ _ (by omega), memByte_memSet_other _ _ (by omega)]
      have h8 : 8 + 8 * i = 8 * (i + 1) := by omega
      simp only [mixByte, ← BitVec.shiftRight_add, h8]

/-- A byte outside the written range keeps its value. -/
theorem memByte_memWrite_outside (n : Nat) : ∀ (m : List Host.Cell) (k a : Nat) (data mask : Line), a < k ∨ k + n ≤ a →
    memByte (memWrite m k n data mask) a = memByte m a := by
  induction n with
  | zero => intros; rfl
  | succ n ih =>
    intro m k a data mask h
    simp only [memWrite]
    rw [ih _ _ _ _ _ (by omega), memByte_memSet_other _ _ (by omega)]

theorem memByte_memPutNat_outside (n : Nat) : ∀ (m : List Host.Cell) (k a v : Nat), a < k ∨ k + n ≤ a →
    memByte (memPutNat m k n v) a = memByte m a := by
  induction n with
  | zero => intros; rfl
  | succ n ih =>
    intro m k a v h
    simp only [memPutNat]
    rw [ih _ _ _ _ (by omega), memByte_memSet_other _ _ (by omega)]

theorem memByte_memPutNat_inside (n : Nat) : ∀ (m : List Host.Cell) (k i v : Nat), i < n →
    memByte (memPutNat m k n v) (k + i) = BitVec.ofNat 8 (v / 256 ^ i) := by
  induction n with
  | zero => intro _ _ i _ h; omega
  | succ n ih =>
    intro m k i v h
    simp only [memPutNat]
    cases i with
    | zero =>
      rw [memByte_memPutNat_outside _ _ _ _ _ (by omega)]
      simp
    | succ i =>
      have e : k + (i + 1) = k + 1 + i := by omega
      rw [e, ih _ _ _ _ (by omega), Nat.div_div_eq_div_mul, Nat.pow_succ, Nat.mul_comm]

/-! ## The canonical form -/

/-- The form of memory, said of all pairs. -/
theorem Memory.wf_iff (m : List Host.Cell) :
    Memory.wf m = true ↔ (∀ p ∈ m, p.2 ≠ 0) ∧ m.Pairwise (fun p q => p.1 < q.1) := by
  induction m with
  | nil => simp [Memory.wf]
  | cons p rest ih =>
    obtain ⟨j, b⟩ := p
    cases rest with
    | nil => simp [Memory.wf]
    | cons q rest =>
      obtain ⟨k, c⟩ := q
      rw [Memory.wf, Bool.and_eq_true, Bool.and_eq_true, ih, List.pairwise_cons (a := (j, b))]
      constructor
      · rintro ⟨⟨h1, h2⟩, h3, h4⟩
        refine ⟨?_, ?_, h4⟩
        · intro p hp
          rcases List.mem_cons.1 hp with rfl | hp
          · simpa using h1
          · exact h3 p hp
        · intro q hq
          have h2' : j < k := by simpa using h2
          rcases List.mem_cons.1 hq with rfl | hq
          · exact h2'
          · exact Nat.lt_trans h2' ((List.pairwise_cons.1 h4).1 q hq)
      · rintro ⟨h1, h2, h3⟩
        refine ⟨⟨?_, ?_⟩, ?_, h3⟩
        · simpa using h1 (j, b) (by simp)
        · simpa using h2 (k, c) (by simp)
        · exact fun p hp => h1 p (List.mem_cons_of_mem _ hp)

/-- Listing fewer bytes keeps the form. -/
theorem Memory.wf_filter (m : List Host.Cell) (p : Host.Cell → Bool) (h : Memory.wf m = true) :
    Memory.wf (m.filter p) = true := by
  rw [Memory.wf_iff] at h ⊢
  exact ⟨fun q hq => h.1 q (List.mem_filter.1 hq).1, h.2.filter p⟩

theorem mem_put {α : Type} (m : AMap α) (k : Nat) (v : α) {p : Nat × α} (h : p ∈ put m k v) : p = (k, v) ∨ p ∈ m := by
  induction m with
  | nil => simpa [put] using h
  | cons q rest ih =>
    obtain ⟨j, u⟩ := q
    unfold put at h
    split at h
    · rcases List.mem_cons.1 h with rfl | h
      · exact .inl rfl
      · exact .inr h
    · split at h
      · rcases List.mem_cons.1 h with rfl | h
        · exact .inl rfl
        · exact .inr (List.mem_cons_of_mem _ h)
      · rcases List.mem_cons.1 h with rfl | h
        · exact .inr (by simp)
        · rcases ih h with h | h
          · exact .inl h
          · exact .inr (List.mem_cons_of_mem _ h)

/-- Entering a number keeps a table rising. -/
theorem pairwise_put {α : Type} (m : AMap α) (k : Nat) (v : α) (h : m.Pairwise (fun p q => p.1 < q.1)) :
    (put m k v).Pairwise (fun p q => p.1 < q.1) := by
  induction m with
  | nil => simp [put]
  | cons q rest ih =>
    obtain ⟨j, u⟩ := q
    rw [List.pairwise_cons] at h
    unfold put
    split
    · rename_i hk
      refine List.pairwise_cons.2 ⟨fun p hp => ?_, List.pairwise_cons.2 h⟩
      rcases List.mem_cons.1 hp with rfl | hp
      · exact hk
      · exact Nat.lt_trans hk (h.1 p hp)
    · split
      · rename_i hk
        subst hk
        exact List.pairwise_cons.2 ⟨h.1, h.2⟩
      · refine List.pairwise_cons.2 ⟨fun p hp => ?_, ih h.2⟩
        rcases mem_put _ _ _ hp with rfl | hp
        · show j < k; omega
        · exact h.1 p hp

/-- Writing a byte keeps the form. -/
theorem Memory.wf_memSet (m : List Host.Cell) (k : Nat) (b : Byte) (h : Memory.wf m = true) :
    Memory.wf (memSet m k b) = true := by
  unfold memSet
  split
  · exact Memory.wf_filter _ _ h
  · rename_i hb
    rw [Memory.wf_iff] at h ⊢
    refine ⟨fun p hp => ?_, pairwise_put _ _ _ h.2⟩
    rcases mem_put _ _ _ hp with rfl | hp
    · exact hb
    · exact h.1 p hp

/-- Writing bytes keeps the form. -/
theorem Memory.wf_memWrite (n : Nat) : ∀ (m : List Host.Cell) (k : Nat) (data mask : Line), Memory.wf m = true →
    Memory.wf (memWrite m k n data mask) = true := by
  induction n with
  | zero => intro m k data mask h; exact h
  | succ n ih => intro m k data mask h; exact ih _ _ _ _ (Memory.wf_memSet _ _ _ h)

theorem Memory.wf_memPutNat (n : Nat) : ∀ (m : List Host.Cell) (k v : Nat), Memory.wf m = true →
    Memory.wf (memPutNat m k n v) = true := by
  induction n with
  | zero => intro m k v h; exact h
  | succ n ih => intro m k v h; exact ih _ _ _ (Memory.wf_memSet _ _ _ h)

@[simp] theorem Memory.wf_reset : Memory.wf State.reset.mem = true := rfl

/-! ## Full/empty bits -/

theorem feFull_feSet_same (e : List Nat) (w : Nat) (b : Bool) : feFull (feSet e w b) w = b := by
  unfold feFull feSet
  cases b <;> simp
  split <;> simp_all

theorem feFull_feSet_other (e : List Nat) {w v : Nat} (b : Bool) (h : v ≠ w) : feFull (feSet e w b) v = feFull e v := by
  unfold feFull feSet
  cases b
  · simp only [Bool.false_eq_true, if_false]
    split
    · rfl
    · congr 1
      rw [Bool.eq_iff_iff]
      simp only [List.contains_iff_mem, List.mem_append, List.mem_cons, List.mem_filter, decide_eq_true_eq]
      constructor
      · rintro (h1 | h1 | h1)
        · exact h1.1
        · exact absurd h1 h
        · exact h1.1
      · intro h1
        rcases Nat.lt_or_gt_of_ne h with h2 | h2
        · exact .inl ⟨h1, h2⟩
        · exact .inr (.inr ⟨h1, h2⟩)
  · simp [List.mem_filter, h]

/-- A change of a full/empty bit keeps the list of empty words ascending. -/
theorem feSet_ascending (e : List Nat) (w : Nat) (b : Bool) (h : e.Pairwise (· < ·)) : (feSet e w b).Pairwise (· < ·) := by
  unfold feSet
  cases b
  · simp only [Bool.false_eq_true, if_false]
    split
    · exact h
    · refine List.pairwise_append.2 ⟨h.filter _, List.pairwise_cons.2 ⟨?_, h.filter _⟩, ?_⟩
      · intro a ha
        simpa using (List.mem_filter.1 ha).2
      · intro a ha c hc
        have ha' : a < w := by simpa using (List.mem_filter.1 ha).2
        rcases List.mem_cons.1 hc with rfl | hc
        · exact ha'
        · have hc' : w < c := by simpa using (List.mem_filter.1 hc).2
          omega
  · exact h.filter _

end Sys2Proof.Machine
end

