-- ==== Sys2Proof/Laws/Frames.lean ====
section
/-!
SUPPORT. Sys2Proof/Laws/Frames.lean: which shared operations leave memory, the full/empty bits, the slot that issues and the agenda
as they were, and that a write at a home and the pushes keep the form of the state.
-/

namespace Sys2Proof.Laws

open Machine

/-- Memory, the empty words, the slot that issues, the turns to come. -/
def storage (s : State) : List Host.Cell × List Nat × Nat × List Turn := (s.mem, s.empty, s.cur, s.agenda)

theorem storage_foldl {α : Type} {f : State → α → State} (h : ∀ s x, storage (f s x) = storage s) (l : List α) (s : State) :
    storage (l.foldl f s) = storage s := by
  induction l generalizing s with
  | nil => rfl
  | cons x l ih => rw [List.foldl_cons, ih, h]

/-! ## Clocks and their learning (R60, R331) -/

@[simp] theorem raiseClock_storage (s : State) (core c : Nat) : storage (raiseClock s core c) = storage s := rfl
@[simp] theorem raiseCluster_storage (s : State) (k c : Nat) : storage (raiseCluster s k c) = storage s := rfl
@[simp] theorem askCluster_storage (s : State) (core : Nat) : storage (askCluster s core) = storage s := rfl
@[simp] theorem ask_storage (s : State) (w : Who) : storage (w.ask s) = storage s := by unfold Who.ask; split <;> rfl
@[simp] theorem raise_storage (s : State) (w : Who) (c : Nat) : storage (w.raise s c) = storage s := by unfold Who.raise; split <;> rfl
@[simp] theorem raisePlace_storage (s : State) (p c : Nat) : storage (raisePlace s p c) = storage s := by unfold raisePlace; split <;> rfl
@[simp] theorem hear_storage (s : State) (w : Who) (c : Nat) : storage (hear s w c) = storage s := by unfold hear; split <;> rfl
@[simp] theorem acquire_storage (s : State) : storage (acquire s) = storage s := rfl

/-- A clock only rises, and rises to what it learns of. -/
theorem raiseClock_clock (s : State) (core c : Nat) : ((raiseClock s core c).core core).clock = max (s.core core).clock c := by
  simp [raiseClock]

/-! ## The Wait of a thread, and its ports -/

@[simp] theorem holdPorts_storage (s : State) (rs : List (BitVec 5)) : storage (holdPorts s rs) = storage s := by
  simp only [holdPorts]; split <;> rfl
@[simp] theorem unholdPorts_storage (s : State) (t : Nat) : storage (unholdPorts s t) = storage s := by
  simp only [unholdPorts]; split <;> rfl
@[simp] theorem forgetWaiter_storage (s : State) (core : Nat) (p : Waiter → Bool) : storage (forgetWaiter s core p) = storage s := rfl
@[simp] theorem forgetNotes_storage (s : State) (t : Nat) : storage (forgetNotes s t) = storage s := rfl
@[simp] theorem poison_storage (s : State) (line : Nat) : storage (poison s line) = storage s := by unfold poison; split <;> rfl
@[simp] theorem popPort_storage (s : State) (r : BitVec 5) : storage (popPort s r) = storage s := by
  unfold popPort; split <;> rfl
@[simp] theorem holdSlot_storage (s : State) : storage (holdSlot s) = storage s := rfl
@[simp] theorem completeAt_storage (s : State) (pc : DWord) : storage (completeAt s pc) = storage s := rfl
@[simp] theorem abandon_storage (s : State) (t : Nat) : storage (abandon s t) = storage s := by
  show storage (unholdPorts (forgetNotes (withdraw (unregister s t) t) t) t) = storage s
  rw [unholdPorts_storage, forgetNotes_storage]; rfl

/-! ## Homes (R59, R62, R70, R241) -/

@[simp] theorem evictHome_storage (s : State) (line : Nat) : storage (evictHome s line) = storage s := rfl
@[simp] theorem setHome_storage (s : State) (line : Nat) (h : HomeLine) : storage (setHome s line h) = storage s := by
  simp only [setHome]
  split
  · split <;> rfl
  · rfl
@[simp] theorem stampHome_storage (s : State) (line c : Nat) : storage (stampHome s line c).1 = storage s := setHome_storage _ _ _

@[simp] theorem fetchLine_storage (s : State) (line : Nat) : storage (fetchLine s line) = storage s := by
  simp only [fetchLine]
  split
  · split <;> rfl
  · split
    · rfl
    · rw [setHome_storage]; rfl
@[simp] theorem takeLine_storage (s : State) (line : Nat) : storage (takeLine s line) = storage s := by
  simp only [takeLine]; split <;> rfl

@[simp] theorem endWaita_storage (s : State) (t : Nat) (code : BitVec 32) (c : Nat) : storage (endWaita s t code c) = storage s := by
  unfold endWaita; split <;> rfl
@[simp] theorem setWatchers_storage (s : State) (p : Nat) (l : List Sleeper) : storage (setWatchers s p l) = storage s := by
  unfold setWatchers; split <;> rfl
@[simp] theorem wakeWords_storage (s : State) (p : Nat) (ks : List Nat) (c : Nat) : storage (wakeWords s p ks c) = storage s := by
  simp only [wakeWords]
  split
  · rfl
  · rw [storage_foldl (fun s (w : Sleeper) => endWaita_storage s w.thread 0 c), setWatchers_storage]

/-- A write at its home, R92's sealing among it, keeps the form of memory. -/
theorem mergeLine_wf (s : State) (ctx line : Nat) (data mask : Line) (h : Memory.wf s.mem = true) :
    Memory.wf (mergeLine s ctx line data mask).mem = true := by
  simp only [mergeLine]
  split <;> exact Memory.wf_memWrite _ _ _ _ _ h

theorem mergeLine_empty (s : State) (ctx line : Nat) (data mask : Line) : (mergeLine s ctx line data mask).empty = s.empty := by
  simp only [mergeLine]; split <;> rfl

/-- An open line's write changes its masked bytes and no other byte of memory. -/
theorem mergeLine_mem (s : State) (line : Nat) (data mask : Line) :
    (mergeLine s 0 line data mask).mem = memWrite s.mem (64 * line) 64 data mask := rfl

theorem homeMerge_mem (s : State) (ctx line : Nat) (data mask : Line) (c : Nat) :
    (homeMerge s ctx line data mask c).1.mem = (mergeLine (takeLine s line) ctx line data mask).mem := by
  have h := (wakeWords_storage (stampHome (mergeLine (takeLine s line) ctx line data mask) line c).1 0
    ((wordsTouched (bytesOf mask)).map (fun w => 16 * line + w)) (stampHome (mergeLine (takeLine s line) ctx line data mask) line c).2).trans
    (stampHome_storage _ _ _)
  exact congrArg (·.1) h

theorem homeMerge_wf (s : State) (ctx line : Nat) (data mask : Line) (c : Nat) (h : Memory.wf s.mem = true) :
    Memory.wf (homeMerge s ctx line data mask c).1.mem = true := by
  rw [homeMerge_mem]
  refine mergeLine_wf _ _ _ _ _ ?_
  rw [show (takeLine s line).mem = s.mem from congrArg (·.1) (takeLine_storage s line)]
  exact h

theorem homeMerge_empty (s : State) (ctx line : Nat) (data mask : Line) (c : Nat) :
    (homeMerge s ctx line data mask c).1.empty = s.empty := by
  have h := (wakeWords_storage (stampHome (mergeLine (takeLine s line) ctx line data mask) line c).1 0
    ((wordsTouched (bytesOf mask)).map (fun w => 16 * line + w)) (stampHome (mergeLine (takeLine s line) ctx line data mask) line c).2).trans
    (stampHome_storage _ _ _)
  have h2 : (homeMerge s ctx line data mask c).1.empty = (mergeLine (takeLine s line) ctx line data mask).empty :=
    congrArg (·.2.1) h
  rw [h2, mergeLine_empty]
  exact congrArg (·.2.1) (takeLine_storage s line)

/-- A change of a full/empty bit leaves every byte of memory, and every other word's bit (R79). -/
theorem setFe_mem (s : State) (p w : Nat) (b : Bool) : (setFe s p w b).mem = s.mem := by unfold setFe; split <;> rfl
theorem setFe_full (s : State) (p w : Nat) (b : Bool) : feFull (setFe s p w b).empty w = b := by
  unfold setFe
  split
  · next h => simpa using h
  · exact feFull_feSet_same _ _ _
theorem setFe_full_other (s : State) (p : Nat) {w v : Nat} (b : Bool) (h : v ≠ w) :
    feFull (setFe s p w b).empty v = feFull s.empty v := by
  unfold setFe
  split
  · rfl
  · exact feFull_feSet_other _ _ h

/-! ## The form of the state -/

theorem ascending_iff (l : List Nat) : ascending l = true ↔ l.Pairwise (· < ·) := by
  induction l with
  | nil => simp [ascending]
  | cons a l ih =>
    cases l with
    | nil => simp [ascending]
    | cons b l =>
      simp only [ascending, Bool.and_eq_true, decide_eq_true_eq, ih, List.pairwise_cons]
      constructor
      · rintro ⟨hab, hb, hl⟩
        refine ⟨fun x hx => ?_, hb, hl⟩
        rcases List.mem_cons.1 hx with rfl | hx
        · exact hab
        · exact Nat.lt_trans hab (hb x hx)
      · rintro ⟨ha, hb, hl⟩
        exact ⟨ha b (List.mem_cons_self ..), hb, hl⟩

/-- The form depends on nothing beside. -/
theorem wf_of_storage {s t : State} (h : storage t = storage s) : t.wf = s.wf := by
  obtain ⟨h1, h2, h3, h4⟩ : t.mem = s.mem ∧ t.empty = s.empty ∧ t.cur = s.cur ∧ t.agenda = s.agenda := by
    simpa [storage] using h
  simp only [State.wf, h1, h2, h3, h4]

theorem mem_of_wf {s : State} (h : s.wf = true) : Memory.wf s.mem = true := by
  simp only [State.wf, Bool.and_eq_true] at h; exact h.1.1.1
theorem empty_of_wf {s : State} (h : s.wf = true) : s.empty.Pairwise (· < ·) := by
  simp only [State.wf, Bool.and_eq_true] at h; exact (ascending_iff _).1 h.1.1.2

/-- A state with memory and empty words in their form, and with the turns of a state in its form, is in its form. -/
theorem wf_of_parts {s t : State} (h : s.wf = true) (hm : Memory.wf t.mem = true) (he : t.empty.Pairwise (· < ·)) (hc : t.cur = s.cur)
    (ha : t.agenda = s.agenda) : t.wf = true := by
  simp only [State.wf, Bool.and_eq_true] at h ⊢
  rw [hc, ha]
  exact ⟨⟨⟨hm, (ascending_iff _).2 he⟩, h.1.2⟩, h.2⟩

theorem foldl_wf {α : Type} {f : State → α → State} (h : ∀ s x, s.wf = true → (f s x).wf = true) (l : List α) (s : State)
    (hs : s.wf = true) : (l.foldl f s).wf = true := by
  induction l generalizing s with
  | nil => exact hs
  | cons x l ih => exact ih _ (h _ _ hs)

theorem homeMerge_turns (s : State) (ctx line : Nat) (data mask : Line) (c : Nat) :
    (homeMerge s ctx line data mask c).1.cur = s.cur ∧ (homeMerge s ctx line data mask c).1.agenda = s.agenda := by
  have h := (wakeWords_storage (stampHome (mergeLine (takeLine s line) ctx line data mask) line c).1 0
    ((wordsTouched (bytesOf mask)).map (fun w => 16 * line + w)) (stampHome (mergeLine (takeLine s line) ctx line data mask) line c).2).trans
    (stampHome_storage _ _ _)
  have hm : ∀ u : State, (mergeLine u ctx line data mask).cur = u.cur ∧ (mergeLine u ctx line data mask).agenda = u.agenda := by
    intro u; simp only [mergeLine]; split <;> exact ⟨rfl, rfl⟩
  have ht := takeLine_storage s line
  exact ⟨(congrArg (·.2.2.1) h).trans ((hm _).1.trans (congrArg (·.2.2.1) ht)),
    (congrArg (·.2.2.2) h).trans ((hm _).2.trans (congrArg (·.2.2.2) ht))⟩

theorem homeMerge_form (s : State) (ctx line : Nat) (data mask : Line) (c : Nat) (h : s.wf = true) :
    (homeMerge s ctx line data mask c).1.wf = true := by
  refine wf_of_parts h (homeMerge_wf _ _ _ _ _ _ (mem_of_wf h)) ?_ (homeMerge_turns ..).1 (homeMerge_turns ..).2
  rw [homeMerge_empty]
  exact empty_of_wf h

theorem setFe_form (s : State) (p w : Nat) (b : Bool) (h : s.wf = true) : (setFe s p w b).wf = true := by
  unfold setFe
  split
  · exact h
  · exact wf_of_parts h (mem_of_wf (s := s) h) (feSet_ascending _ _ _ (empty_of_wf h)) rfl rfl

theorem carryFe_form (s : State) (line : Nat) (fe : BitVec 16) (bytes : BitVec 64) (feMask : BitVec 16) (h : s.wf = true) :
    (carryFe s line fe bytes feMask).wf = true :=
  foldl_wf (fun s w h => setFe_form s 0 (16 * line + w) (fe.getLsbD w) h) _ _ h

theorem pushBytes_form (s : State) (k ctx line : Nat) (data : Line) (bytes : BitVec 64) (fe feMask : BitVec 16) (h : s.wf = true) :
    (pushBytes s k ctx line data bytes fe feMask).wf = true := by
  simp only [pushBytes]
  split
  · exact h
  · rw [wf_of_storage (raiseCluster_storage _ _ _)]
    exact carryFe_form _ _ _ _ _ (homeMerge_form _ _ _ _ _ _ h)

theorem pushLine_form (s : State) (k line : Nat) (h : s.wf = true) : (pushLine s k line).wf = true := by
  unfold pushLine
  split
  · split
    · refine pushBytes_form _ _ _ _ _ _ _ _ ?_
      split
      · rw [wf_of_storage (poison_storage _ _)]; exact h
      · exact h
    · exact h
  · exact h

theorem dropLine_form (s : State) (k line : Nat) (h : s.wf = true) : (dropLine s k line).wf = true := pushLine_form s k line h

theorem pushCore_form (s : State) (core : Nat) (h : s.wf = true) : (pushCore s core).wf = true := by
  simp only [pushCore]
  rw [wf_of_storage (askCluster_storage _ _)]
  exact foldl_wf (fun s p h => pushLine_form s _ _ h) _ _ h

theorem pushAll_form (s : State) (k : Nat) (h : s.wf = true) : (pushAll s k).wf = true :=
  foldl_wf (fun s p h => pushLine_form s k p.1 h) _ _ h

end Sys2Proof.Laws
end

