-- ==== Sys2Proof/Laws/Ops.lean ====
section
/-!
SUPPORT. Sys2Proof/Laws/Ops.lean: what the shared operations do, said once: operands, results, completing, trapping.
-/

namespace Sys2Proof.Laws

open Machine Spec

/-! ## Ends -/

/-- A meaning's own outcome is always a next state: it completes, holds its slot, or traps. -/
theorem finish_next (r : Eff State) : ∃ t, finish r = .next t := by
  cases r with
  | ok s => exact ⟨s, rfl⟩
  | error e => cases e with
    | stall s => exact ⟨holdSlot s, rfl⟩
    | blocked s => exact ⟨holdSlot s, rfl⟩
    | trap s t => exact ⟨takeTrap s t, rfl⟩

theorem finishKeeping_next (rs : List (BitVec 5)) (r : Eff State) : ∃ t, finishKeeping rs r = .next t := finish_next _

@[simp] theorem finish_ok (s : State) : finish (.ok s) = .next s := rfl
@[simp] theorem finish_stall (s : State) : finish (.error (.stall s)) = .next (holdSlot s) := rfl
@[simp] theorem finish_blocked (s : State) : finish (.error (.blocked s)) = .next (holdSlot s) := rfl
@[simp] theorem finishKeeping_ok (rs : List (BitVec 5)) (s : State) : finishKeeping rs (.ok s) = .next s := rfl
@[simp] theorem finishKeeping_stall (rs : List (BitVec 5)) (s : State) :
    finishKeeping rs (.error (.stall s)) = .next (holdSlot (holdPorts s rs)) := rfl
@[simp] theorem finishKeeping_blocked (rs : List (BitVec 5)) (s : State) :
    finishKeeping rs (.error (.blocked s)) = .next (holdSlot s) := rfl
@[simp] theorem finishKeeping_trap (rs : List (BitVec 5)) (s : State) (r : TrapReq) :
    finishKeeping rs (.error (.trap s r)) = .next (takeTrap s r) := rfl
@[simp] theorem finish_trap (s : State) (r : TrapReq) : finish (.error (.trap s r)) = .next (takeTrap s r) := rfl
@[simp] theorem require_true (e : Stop) : require true e = .ok () := rfl
@[simp] theorem require_false (e : Stop) : require false e = .error e := rfl
@[simp] theorem waitFor_true (s : State) : waitFor true s = .ok () := rfl
@[simp] theorem waitFor_false (s : State) : waitFor false s = .error (.stall s) := rfl

/-- A t bit is 0 or 1. -/
theorem bit_cases (t : BitVec 1) : t = 0 ∨ t = 1 := by
  have := t.isLt
  rcases (by omega : t.toNat = 0 ∨ t.toNat = 1) with h | h
  · exact .inl (BitVec.eq_of_toNat_eq (by simpa using h))
  · exact .inr (BitVec.eq_of_toNat_eq (by simpa using h))

/-! ## Operands -/

/-- A source that gives v is read as v, whatever the presence mode. -/
theorem readX_of_source {s : State} {r : BitVec 5} {k : Nat} {v : Word} (h : Source s r k v) (traps : Bool) :
    readX s r traps k = .ok v := by
  unfold Source at h
  unfold readX
  split
  · next hz => rw [if_pos hz] at h; rw [h]
  · next hz =>
    rw [if_neg hz] at h
    split
    · next hp =>
      rw [if_pos hp] at h
      cases hn : neighbour s.myCore (s.core s.myCore).rseg r.toNat with
      | none => rw [hn] at h; exact absurd h.1 (by decide)
      | some n => simp only [hn, h.2]
    · next hp =>
      rw [if_neg hp] at h
      simp only [h.1, h.2, if_true]

theorem readT_of_source {s : State} {r : BitVec 5} {k : Nat} {v : Word} (h : Source s r k v) (t : BitVec 1) :
    readT s r t k = .ok v := readX_of_source h _

theorem readP_of_source {s : State} {r : BitVec 5} {k : Nat} {v : Word} (h : Source s r k v) :
    readP s r k = .ok v := readX_of_source h _

theorem readB_of_source {s : State} {b : BitVec 3} {v : DWord} (h : BaseSource s b v) (traps : Bool) :
    readB s b traps = .ok v := by
  unfold BaseSource at h
  unfold readB
  split
  · next hz => rw [if_pos hz] at h; rw [h]
  · next hz =>
    rw [if_neg hz] at h
    simp only [h.1, h.2, if_true]

theorem readV_of_source {s : State} {n : Nat} {v : VWord} (h : VecSource s n v) : readV s n = .ok v := by
  unfold readV
  simp only [h.1, h.2, if_true]

/-- A result that its destination takes is delivered. -/
theorem writeX_of_accepts {s : State} {d : BitVec 5} (h : Accepts s d) (v : Word) : writeX s d v = .ok (delivered s d v) := by
  unfold Accepts at h
  unfold writeX delivered
  split
  · rfl
  · next hz =>
    rw [if_neg hz] at h
    split
    · next hp =>
      rw [if_pos hp] at h
      obtain ⟨n, h1, h2⟩ := h
      simp only [h1, Config.portWords, h2, if_true]
    · next hp =>
      rw [if_neg hp] at h
      simp [h]

theorem writeB_of_accepts {s : State} {b : BitVec 3} (h : BaseAccepts s b) (v : DWord) :
    writeB s b v = .ok (baseDelivered s b v) := by
  unfold writeB baseDelivered
  split
  · rfl
  · next hz =>
    rcases h with h | h
    · exact absurd h hz
    · simp [h]

theorem writeV_of_accepts {s : State} {n : Nat} (h : (s.th.vecReg n).busy = false) (v : VWord) :
    writeV s n v = .ok (vecDelivered s n v) := by
  unfold writeV vecDelivered
  simp [h]

theorem earlierReads_one (a b : BitVec 5) : earlierReads [a] b = sameBefore a b := by
  unfold earlierReads sameBefore
  by_cases h : a = b <;> simp [h]

theorem earlierReads_two (a b d : BitVec 5) : earlierReads [a, b] d = sameBefore a d + sameBefore b d := by
  unfold earlierReads sameBefore
  by_cases h : a = d <;> by_cases h' : b = d <;> simp [h, h']

/-! ## Completing -/

@[simp] theorem popPort_threads (s : State) (r : BitVec 5) : (popPort s r).threads = s.threads := by
  unfold popPort; split <;> rfl
@[simp] theorem popPort_cur (s : State) (r : BitVec 5) : (popPort s r).cur = s.cur := by
  unfold popPort; split <;> rfl
@[simp] theorem popPort_mem (s : State) (r : BitVec 5) : (popPort s r).mem = s.mem := by
  unfold popPort; split <;> rfl
@[simp] theorem popPort_empty (s : State) (r : BitVec 5) : (popPort s r).empty = s.empty := by
  unfold popPort; split <;> rfl
@[simp] theorem popPort_th (s : State) (r : BitVec 5) : (popPort s r).th = s.th := by
  simp [State.th, State.thread]

theorem popPorts_th (rs : List (BitVec 5)) (s : State) : (rs.foldl popPort s).th = s.th := by
  induction rs generalizing s with
  | nil => rfl
  | cons r rs ih => simp [ih]

theorem popPorts_mem (rs : List (BitVec 5)) (s : State) : (rs.foldl popPort s).mem = s.mem := by
  induction rs generalizing s with
  | nil => rfl
  | cons r rs ih => simp [ih]

theorem completeAt_eq (s : State) (pc : DWord) : completeAt s pc = retired s [] pc := rfl

theorem complete_eq (s : State) : complete s = retired s [] (s.th.pc + 4) := rfl

/-- Popping the ports read and going on at a PC. -/
theorem completeAt_popPorts (s : State) (rs : List (BitVec 5)) (pc : DWord) :
    completeAt (rs.foldl popPort s) pc = retired s rs pc := rfl

theorem completeReading_eq (s : State) (rs : List (BitVec 5)) :
    completeReading s rs = retired s rs (s.th.pc + 4) := by
  have h : completeReading s rs = retired s rs ((rs.foldl popPort s).th.pc + 4) := rfl
  rw [h, popPorts_th]

@[simp] theorem th_setTh_pc (s : State) (th : Thread) : (s.setTh th).th.pc = th.pc := by
  rw [State.th_setTh]

@[simp] theorem delivered_pc (s : State) (d : BitVec 5) (v : Word) : (delivered s d v).th.pc = s.th.pc := by
  unfold delivered
  split
  · rfl
  · split
    · split <;> rfl
    · simp [Thread.setScalar]

@[simp] theorem baseDelivered_pc (s : State) (b : BitVec 3) (v : DWord) : (baseDelivered s b v).th.pc = s.th.pc := by
  unfold baseDelivered
  split
  · rfl
  · simp [Thread.setBase]

@[simp] theorem vecDelivered_pc (s : State) (n : Nat) (v : VWord) : (vecDelivered s n v).th.pc = s.th.pc := by
  simp [vecDelivered, Thread.setVec]

@[simp] theorem delivered_mem (s : State) (d : BitVec 5) (v : Word) : (delivered s d v).mem = s.mem := by
  unfold delivered
  split
  · rfl
  · split
    · split <;> rfl
    · rfl

/-! ## The scalar forms -/

theorem alu2_completes {f : Word → Word → Word} {d a b : BitVec 5} {z t : BitVec 1} {s : State} {x y : Word}
    (hx : Source s a 0 x) (hy : Source s b (sameBefore a b) y) (hd : Accepts s d) :
    alu2 f d a b z t s = .next (retired (delivered s d (f x y)) [a, b] (s.th.pc + 4)) := by
  simp only [alu2, readT_of_source hx, earlierReads_one, readT_of_source hy, writeX_of_accepts hd, bind, Except.bind,
    finishKeeping_ok, completeReading_eq, delivered_pc]

theorem alu1_completes {f : Word → Word} {d a : BitVec 5} {z : BitVec 1} {s : State} {x : Word}
    (hx : Source s a 0 x) (hd : Accepts s d) :
    alu1 f d a z s = .next (retired (delivered s d (f x)) [a] (s.th.pc + 4)) := by
  simp only [alu1, readT_of_source hx, writeX_of_accepts hd, bind, Except.bind, finishKeeping_ok, completeReading_eq, delivered_pc]

theorem alu0_completes {x : Word} {d : BitVec 5} {s : State} (hd : Accepts s d) :
    alu0 x d s = .next (retired (delivered s d x) [] (s.th.pc + 4)) := by
  simp only [alu0, writeX_of_accepts hd, bind, Except.bind, finish, complete_eq, delivered_pc]

end Sys2Proof.Laws
end

