-- ==== Sys2Proof/Laws/PerInstr.lean ====
section
/-!
SUPPORT. Sys2Proof/Laws/PerInstr.lean: facts about each instruction as syntax: its encoding fits its 32-bit word.
-/

namespace Sys2Proof

set_option Elab.async false

/-! Each layout of fields stays within a word over fixed bits that leave room for them. -/

theorem placeH_lt (m : Nat) (h : BitVec 26) (fits : m + 67108863 < 2 ^ 32) : placeH m h < 2 ^ 32 := by
  simp only [placeH]; omega

theorem placeDABST_lt (m : Nat) (d : BitVec 5) (a : BitVec 5) (b : BitVec 5) (s : BitVec 1) (t : BitVec 1) (fits : m + 67108352 < 2 ^ 32) : placeDABST m d a b s t < 2 ^ 32 := by
  simp only [placeDABST]; omega

theorem placeDANS_lt (m : Nat) (d : BitVec 5) (a : BitVec 5) (n : BitVec 5) (s : BitVec 1) (fits : m + 67107840 < 2 ^ 32) : placeDANS m d a n s < 2 ^ 32 := by
  simp only [placeDANS]; omega

theorem placeDAS_lt (m : Nat) (d : BitVec 5) (a : BitVec 5) (s : BitVec 1) (fits : m + 67044352 < 2 ^ 32) : placeDAS m d a s < 2 ^ 32 := by
  simp only [placeDAS]; omega

theorem placeDASI_lt (m : Nat) (d : BitVec 5) (a : BitVec 5) (s : BitVec 1) (i : BitVec 15) (fits : m + 67108863 < 2 ^ 32) : placeDASI m d a s i < 2 ^ 32 := by
  simp only [placeDASI]; omega

theorem placeDI_lt (m : Nat) (d : BitVec 5) (i : BitVec 21) (fits : m + 67108863 < 2 ^ 32) : placeDI m d i < 2 ^ 32 := by
  simp only [placeDI]; omega

theorem placeDACW_lt (m : Nat) (d : BitVec 5) (a : BitVec 5) (c : BitVec 2) (w : BitVec 14) (fits : m + 67108863 < 2 ^ 32) : placeDACW m d a c w < 2 ^ 32 := by
  simp only [placeDACW]; omega

theorem placeDABST9_lt (m : Nat) (d : BitVec 3) (a : BitVec 5) (b : BitVec 5) (s : BitVec 1) (t : BitVec 1) (fits : m + 16776704 < 2 ^ 32) : placeDABST9 m d a b s t < 2 ^ 32 := by
  simp only [placeDABST9]; omega

theorem placeDAS10_lt (m : Nat) (d : BitVec 5) (a : BitVec 3) (s : BitVec 1) (fits : m + 65471488 < 2 ^ 32) : placeDAS10 m d a s < 2 ^ 32 := by
  simp only [placeDAS10]; omega

theorem placeDABST9x_lt (m : Nat) (d : BitVec 3) (a : BitVec 3) (b : BitVec 5) (s : BitVec 1) (t : BitVec 1) (fits : m + 15203840 < 2 ^ 32) : placeDABST9x m d a b s t < 2 ^ 32 := by
  simp only [placeDABST9x]; omega

theorem placeDAS10x_lt (m : Nat) (d : BitVec 3) (a : BitVec 3) (s : BitVec 1) (fits : m + 15139840 < 2 ^ 32) : placeDAS10x m d a s < 2 ^ 32 := by
  simp only [placeDAS10x]; omega

theorem placeDASI0_lt (m : Nat) (d : BitVec 3) (a : BitVec 3) (s : BitVec 1) (i : BitVec 15) (fits : m + 15204351 < 2 ^ 32) : placeDASI0 m d a s i < 2 ^ 32 := by
  simp only [placeDASI0]; omega

theorem placeDI0_lt (m : Nat) (d : BitVec 3) (i : BitVec 21) (fits : m + 16777215 < 2 ^ 32) : placeDI0 m d i < 2 ^ 32 := by
  simp only [placeDI0]; omega

theorem placeDXGSI_lt (m : Nat) (d : BitVec 3) (x : BitVec 5) (g : BitVec 3) (s : BitVec 1) (i : BitVec 12) (fits : m + 16777215 < 2 ^ 32) : placeDXGSI m d x g s i < 2 ^ 32 := by
  simp only [placeDXGSI]; omega

theorem placeABI_lt (m : Nat) (a : BitVec 5) (b : BitVec 5) (i : BitVec 13) (fits : m + 67051519 < 2 ^ 32) : placeABI m a b i < 2 ^ 32 := by
  simp only [placeABI]; omega

theorem placeANI_lt (m : Nat) (a : BitVec 5) (n : BitVec 5) (i : BitVec 13) (fits : m + 67051519 < 2 ^ 32) : placeANI m a n i < 2 ^ 32 := by
  simp only [placeANI]; omega

theorem placeAI_lt (m : Nat) (a : BitVec 5) (i : BitVec 13) (fits : m + 65019903 < 2 ^ 32) : placeAI m a i < 2 ^ 32 := by
  simp only [placeAI]; omega

theorem placeI_lt (m : Nat) (i : BitVec 26) (fits : m + 67108863 < 2 ^ 32) : placeI m i < 2 ^ 32 := by
  simp only [placeI]; omega

theorem placeBT_lt (m : Nat) (b : BitVec 3) (t : BitVec 1) (fits : m + 14848 < 2 ^ 32) : placeBT m b t < 2 ^ 32 := by
  simp only [placeBT]; omega

theorem placeDABST9xx_lt (m : Nat) (d : BitVec 5) (a : BitVec 5) (b : BitVec 3) (s : BitVec 1) (t : BitVec 1) (fits : m + 67059200 < 2 ^ 32) : placeDABST9xx m d a b s t < 2 ^ 32 := by
  simp only [placeDABST9xx]; omega

theorem placeDASQR_lt (m : Nat) (d : BitVec 5) (a : BitVec 5) (s : BitVec 1) (q : BitVec 1) (r : BitVec 3) (fits : m + 67044832 < 2 ^ 32) : placeDASQR m d a s q r < 2 ^ 32 := by
  simp only [placeDASQR]; omega

theorem placeDASR_lt (m : Nat) (d : BitVec 5) (a : BitVec 5) (s : BitVec 1) (r : BitVec 3) (fits : m + 67044576 < 2 ^ 32) : placeDASR m d a s r < 2 ^ 32 := by
  simp only [placeDASR]; omega

theorem placeDXGSI0_lt (m : Nat) (d : BitVec 5) (x : BitVec 5) (g : BitVec 3) (s : BitVec 1) (i : BitVec 12) (fits : m + 67108863 < 2 ^ 32) : placeDXGSI0 m d x g s i < 2 ^ 32 := by
  simp only [placeDXGSI0]; omega

theorem placeDXGSCRZF_lt (m : Nat) (d : BitVec 5) (x : BitVec 5) (g : BitVec 3) (s : BitVec 1) (c : BitVec 3) (r : BitVec 2) (z : BitVec 2) (f : BitVec 4) (fits : m + 67106815 < 2 ^ 32) : placeDXGSCRZF m d x g s c r z f < 2 ^ 32 := by
  simp only [placeDXGSCRZF]; omega

theorem placeDXGSCRP_lt (m : Nat) (d : BitVec 5) (x : BitVec 5) (g : BitVec 3) (s : BitVec 1) (c : BitVec 3) (r : BitVec 2) (p : BitVec 1) (fits : m + 67105020 < 2 ^ 32) : placeDXGSCRP m d x g s c r p < 2 ^ 32 := by
  simp only [placeDXGSCRP]; omega

theorem placeDXGSCR_lt (m : Nat) (d : BitVec 5) (x : BitVec 5) (g : BitVec 3) (s : BitVec 1) (c : BitVec 3) (r : BitVec 2) (fits : m + 67105016 < 2 ^ 32) : placeDXGSCR m d x g s c r < 2 ^ 32 := by
  simp only [placeDXGSCR]; omega

theorem placeDXGSCRF_lt (m : Nat) (d : BitVec 5) (x : BitVec 5) (g : BitVec 3) (s : BitVec 1) (c : BitVec 3) (r : BitVec 2) (f : BitVec 4) (fits : m + 67105279 < 2 ^ 32) : placeDXGSCRF m d x g s c r f < 2 ^ 32 := by
  simp only [placeDXGSCRF]; omega

theorem placeXGSCRF_lt (m : Nat) (x : BitVec 5) (g : BitVec 3) (s : BitVec 1) (c : BitVec 3) (r : BitVec 2) (f : BitVec 4) (fits : m + 2093567 < 2 ^ 32) : placeXGSCRF m x g s c r f < 2 ^ 32 := by
  simp only [placeXGSCRF]; omega

theorem placeXGSI_lt (m : Nat) (x : BitVec 5) (g : BitVec 3) (s : BitVec 1) (i : BitVec 10) (fits : m + 2094079 < 2 ^ 32) : placeXGSI m x g s i < 2 ^ 32 := by
  simp only [placeXGSI]; omega

theorem placeKC_lt (m : Nat) (k : BitVec 4) (c : BitVec 3) (fits : m + 65024 < 2 ^ 32) : placeKC m k c < 2 ^ 32 := by
  simp only [placeKC]; omega

theorem placeCI_lt (m : Nat) (c : BitVec 2) (i : BitVec 6) (fits : m + 65280 < 2 ^ 32) : placeCI m c i < 2 ^ 32 := by
  simp only [placeCI]; omega

theorem placeDCI_lt (m : Nat) (d : BitVec 5) (c : BitVec 2) (i : BitVec 6) (fits : m + 65076992 < 2 ^ 32) : placeDCI m d c i < 2 ^ 32 := by
  simp only [placeDCI]; omega

theorem placeVABQ_lt (m : Nat) (v : BitVec 6) (a : BitVec 6) (b : BitVec 6) (q : BitVec 3) (fits : m + 67108832 < 2 ^ 32) : placeVABQ m v a b q < 2 ^ 32 := by
  simp only [placeVABQ]; omega

theorem placeVAQ_lt (m : Nat) (v : BitVec 6) (a : BitVec 6) (q : BitVec 3) (fits : m + 67092704 < 2 ^ 32) : placeVAQ m v a q < 2 ^ 32 := by
  simp only [placeVAQ]; omega

theorem placeVANQ_lt (m : Nat) (v : BitVec 6) (a : BitVec 6) (n : BitVec 6) (q : BitVec 3) (fits : m + 67108832 < 2 ^ 32) : placeVANQ m v a n q < 2 ^ 32 := by
  simp only [placeVANQ]; omega

theorem placePABQ_lt (m : Nat) (p : BitVec 3) (a : BitVec 6) (b : BitVec 6) (q : BitVec 3) (fits : m + 8388576 < 2 ^ 32) : placePABQ m p a b q < 2 ^ 32 := by
  simp only [placePABQ]; omega

theorem placeVRQ_lt (m : Nat) (v : BitVec 6) (r : BitVec 5) (q : BitVec 3) (fits : m + 66076608 < 2 ^ 32) : placeVRQ m v r q < 2 ^ 32 := by
  simp only [placeVRQ]; omega

theorem placeNAR_lt (m : Nat) (n : BitVec 5) (a : BitVec 6) (r : BitVec 5) (fits : m + 33553920 < 2 ^ 32) : placeNAR m n a r < 2 ^ 32 := by
  simp only [placeNAR]; omega

theorem placeVNR_lt (m : Nat) (v : BitVec 6) (n : BitVec 5) (r : BitVec 5) (fits : m + 66584064 < 2 ^ 32) : placeVNR m v n r < 2 ^ 32 := by
  simp only [placeVNR]; omega

theorem placeDAB_lt (m : Nat) (d : BitVec 3) (a : BitVec 3) (b : BitVec 3) (fits : m + 7458304 < 2 ^ 32) : placeDAB m d a b < 2 ^ 32 := by
  simp only [placeDAB]; omega

theorem placeDA_lt (m : Nat) (d : BitVec 3) (a : BitVec 3) (fits : m + 7454720 < 2 ^ 32) : placeDA m d a < 2 ^ 32 := by
  simp only [placeDA]; omega

theorem placeAR_lt (m : Nat) (a : BitVec 3) (r : BitVec 5) (fits : m + 130560 < 2 ^ 32) : placeAR m a r < 2 ^ 32 := by
  simp only [placeAR]; omega

theorem placeVARQDtSt_lt (m : Nat) (v : BitVec 6) (a : BitVec 6) (r : BitVec 3) (q : BitVec 3) (dt : BitVec 3) (st : BitVec 3) (fits : m + 67096575 < 2 ^ 32) : placeVARQDtSt m v a r q dt st < 2 ^ 32 := by
  simp only [placeVARQDtSt]; omega

theorem placeVGXQI_lt (m : Nat) (v : BitVec 6) (g : BitVec 3) (x : BitVec 5) (q : BitVec 3) (i : BitVec 6) (fits : m + 67108415 < 2 ^ 32) : placeVGXQI m v g x q i < 2 ^ 32 := by
  simp only [placeVGXQI]; omega

theorem placeEAB_lt (m : Nat) (e : BitVec 2) (a : BitVec 5) (b : BitVec 5) (fits : m + 50332671 < 2 ^ 32) : placeEAB m e a b < 2 ^ 32 := by
  simp only [placeEAB]; omega

theorem placeEA_lt (m : Nat) (e : BitVec 2) (a : BitVec 5) (fits : m + 50332640 < 2 ^ 32) : placeEA m e a < 2 ^ 32 := by
  simp only [placeEA]; omega

theorem placeE_lt (m : Nat) (e : BitVec 2) (fits : m + 50331648 < 2 ^ 32) : placeE m e < 2 ^ 32 := by
  simp only [placeE]; omega

theorem placeEDC_lt (m : Nat) (e : BitVec 2) (d : BitVec 5) (c : BitVec 5) (fits : m + 50364384 < 2 ^ 32) : placeEDC m e d c < 2 ^ 32 := by
  simp only [placeEDC]; omega

theorem placeEDA_lt (m : Nat) (e : BitVec 2) (d : BitVec 5) (a : BitVec 5) (fits : m + 50364384 < 2 ^ 32) : placeEDA m e d a < 2 ^ 32 := by
  simp only [placeEDA]; omega

theorem placeEAK_lt (m : Nat) (e : BitVec 2) (a : BitVec 5) (k : BitVec 5) (fits : m + 50332671 < 2 ^ 32) : placeEAK m e a k < 2 ^ 32 := by
  simp only [placeEAK]; omega

theorem placeEDK_lt (m : Nat) (e : BitVec 2) (d : BitVec 5) (k : BitVec 5) (fits : m + 50363423 < 2 ^ 32) : placeEDK m e d k < 2 ^ 32 := by
  simp only [placeEDK]; omega

theorem placeED_lt (m : Nat) (e : BitVec 2) (d : BitVec 5) (fits : m + 50363392 < 2 ^ 32) : placeED m e d < 2 ^ 32 := by
  simp only [placeED]; omega

theorem placeASBdBs_lt (m : Nat) (a : BitVec 5) (s : BitVec 1) (bd : BitVec 3) (bs : BitVec 3) (fits : m + 2033144 < 2 ^ 32) : placeASBdBs m a s bd bs < 2 ^ 32 := by
  simp only [placeASBdBs]; omega

theorem placeRASBdBs_lt (m : Nat) (r : BitVec 5) (a : BitVec 5) (s : BitVec 1) (bd : BitVec 3) (bs : BitVec 3) (fits : m + 67044856 < 2 ^ 32) : placeRASBdBs m r a s bd bs < 2 ^ 32 := by
  simp only [placeRASBdBs]; omega

theorem placeAS_lt (m : Nat) (a : BitVec 5) (s : BitVec 1) (fits : m + 2032640 < 2 ^ 32) : placeAS m a s < 2 ^ 32 := by
  simp only [placeAS]; omega

theorem placeD_lt (m : Nat) (d : BitVec 5) (fits : m + 65011712 < 2 ^ 32) : placeD m d < 2 ^ 32 := by
  simp only [placeD]; omega

theorem placeN_lt (m : Nat) (n : BitVec 5) (fits : m + 63488 < 2 ^ 32) : placeN m n < 2 ^ 32 := by
  simp only [placeN]; omega

theorem placeAR9_lt (m : Nat) (a : BitVec 6) (r : BitVec 5) (fits : m + 1048064 < 2 ^ 32) : placeAR9 m a r < 2 ^ 32 := by
  simp only [placeAR9]; omega

theorem placeVR_lt (m : Nat) (v : BitVec 6) (r : BitVec 5) (fits : m + 66076160 < 2 ^ 32) : placeVR m v r < 2 ^ 32 := by
  simp only [placeVR]; omega

theorem placeR_lt (m : Nat) (r : BitVec 5) (fits : m + 15872 < 2 ^ 32) : placeR m r < 2 ^ 32 := by
  simp only [placeR]; omega

theorem placeAVS_lt (m : Nat) (a : BitVec 5) (v : BitVec 5) (s : BitVec 1) (fits : m + 2096128 < 2 ^ 32) : placeAVS m a v s < 2 ^ 32 := by
  simp only [placeAVS]; omega

theorem placeDAVS_lt (m : Nat) (d : BitVec 5) (a : BitVec 5) (v : BitVec 5) (s : BitVec 1) (fits : m + 67107840 < 2 ^ 32) : placeDAVS m d a v s < 2 ^ 32 := by
  simp only [placeDAVS]; omega

theorem placeVA_lt (m : Nat) (v : BitVec 5) (a : BitVec 5) (fits : m + 67043328 < 2 ^ 32) : placeVA m v a < 2 ^ 32 := by
  simp only [placeVA]; omega

theorem placeABST_lt (m : Nat) (a : BitVec 5) (b : BitVec 5) (s : BitVec 1) (t : BitVec 1) (fits : m + 2096640 < 2 ^ 32) : placeABST m a b s t < 2 ^ 32 := by
  simp only [placeABST]; omega

theorem placeABSTCO_lt (m : Nat) (a : BitVec 5) (b : BitVec 5) (s : BitVec 1) (t : BitVec 1) (c : BitVec 3) (o : BitVec 2) (fits : m + 2097136 < 2 ^ 32) : placeABSTCO m a b s t c o < 2 ^ 32 := by
  simp only [placeABSTCO]; omega

theorem placeDABSTC_lt (m : Nat) (d : BitVec 5) (a : BitVec 5) (b : BitVec 5) (s : BitVec 1) (t : BitVec 1) (c : BitVec 3) (fits : m + 67108800 < 2 ^ 32) : placeDABSTC m d a b s t c < 2 ^ 32 := by
  simp only [placeDABSTC]; omega

theorem placeN4_lt (m : Nat) (n : BitVec 12) (fits : m + 65520 < 2 ^ 32) : placeN4 m n < 2 ^ 32 := by
  simp only [placeN4]; omega

theorem placeDN_lt (m : Nat) (d : BitVec 5) (n : BitVec 12) (fits : m + 65077232 < 2 ^ 32) : placeDN m d n < 2 ^ 32 := by
  simp only [placeDN]; omega

theorem placeAN_lt (m : Nat) (a : BitVec 5) (n : BitVec 12) (fits : m + 2097136 < 2 ^ 32) : placeAN m a n < 2 ^ 32 := by
  simp only [placeAN]; omega

theorem placeDAN_lt (m : Nat) (d : BitVec 5) (a : BitVec 5) (n : BitVec 12) (fits : m + 67108848 < 2 ^ 32) : placeDAN m d a n < 2 ^ 32 := by
  simp only [placeDAN]; omega

theorem placeAG_lt (m : Nat) (a : BitVec 5) (g : BitVec 3) (fits : m + 2088960 < 2 ^ 32) : placeAG m a g < 2 ^ 32 := by
  simp only [placeAG]; omega

theorem placeA_lt (m : Nat) (a : BitVec 5) (fits : m + 2031616 < 2 ^ 32) : placeA m a < 2 ^ 32 := by
  simp only [placeA]; omega

theorem placeIAV_lt (m : Nat) (i : BitVec 5) (a : BitVec 5) (v : BitVec 5) (fits : m + 67106816 < 2 ^ 32) : placeIAV m i a v < 2 ^ 32 := by
  simp only [placeIAV]; omega

end Sys2Proof

namespace Sys2Proof.Laws.Encoded

/-- The number an instruction is encoded as fits a word. -/
def Statement (i : Instr) : Prop := encodeNat i < 2 ^ 32

theorem illegalInstr (w : BitVec 32) : Statement (.illegalInstr w) := w.isLt
theorem nop (h : BitVec 26) : Statement (.nop h) := placeH_lt _ _ (by decide)
theorem add (d : BitVec 5) (a : BitVec 5) (b : BitVec 5) (s : BitVec 1) (t : BitVec 1) : Statement (.add d a b s t) := placeDABST_lt _ _ _ _ _ _ (by decide)
theorem sub (d : BitVec 5) (a : BitVec 5) (b : BitVec 5) (s : BitVec 1) (t : BitVec 1) : Statement (.sub d a b s t) := placeDABST_lt _ _ _ _ _ _ (by decide)
theorem and (d : BitVec 5) (a : BitVec 5) (b : BitVec 5) (s : BitVec 1) (t : BitVec 1) : Statement (.and d a b s t) := placeDABST_lt _ _ _ _ _ _ (by decide)
theorem or (d : BitVec 5) (a : BitVec 5) (b : BitVec 5) (s : BitVec 1) (t : BitVec 1) : Statement (.or d a b s t) := placeDABST_lt _ _ _ _ _ _ (by decide)
theorem xor (d : BitVec 5) (a : BitVec 5) (b : BitVec 5) (s : BitVec 1) (t : BitVec 1) : Statement (.xor d a b s t) := placeDABST_lt _ _ _ _ _ _ (by decide)
theorem andn (d : BitVec 5) (a : BitVec 5) (b : BitVec 5) (s : BitVec 1) (t : BitVec 1) : Statement (.andn d a b s t) := placeDABST_lt _ _ _ _ _ _ (by decide)
theorem sll (d : BitVec 5) (a : BitVec 5) (b : BitVec 5) (s : BitVec 1) (t : BitVec 1) : Statement (.sll d a b s t) := placeDABST_lt _ _ _ _ _ _ (by decide)
theorem srl (d : BitVec 5) (a : BitVec 5) (b : BitVec 5) (s : BitVec 1) (t : BitVec 1) : Statement (.srl d a b s t) := placeDABST_lt _ _ _ _ _ _ (by decide)
theorem sra (d : BitVec 5) (a : BitVec 5) (b : BitVec 5) (s : BitVec 1) (t : BitVec 1) : Statement (.sra d a b s t) := placeDABST_lt _ _ _ _ _ _ (by decide)
theorem ror (d : BitVec 5) (a : BitVec 5) (b : BitVec 5) (s : BitVec 1) (t : BitVec 1) : Statement (.ror d a b s t) := placeDABST_lt _ _ _ _ _ _ (by decide)
theorem slli (d : BitVec 5) (a : BitVec 5) (n : BitVec 5) (s : BitVec 1) : Statement (.slli d a n s) := placeDANS_lt _ _ _ _ _ (by decide)
theorem srli (d : BitVec 5) (a : BitVec 5) (n : BitVec 5) (s : BitVec 1) : Statement (.srli d a n s) := placeDANS_lt _ _ _ _ _ (by decide)
theorem srai (d : BitVec 5) (a : BitVec 5) (n : BitVec 5) (s : BitVec 1) : Statement (.srai d a n s) := placeDANS_lt _ _ _ _ _ (by decide)
theorem mul (d : BitVec 5) (a : BitVec 5) (b : BitVec 5) (s : BitVec 1) (t : BitVec 1) : Statement (.mul d a b s t) := placeDABST_lt _ _ _ _ _ _ (by decide)
theorem mulh (d : BitVec 5) (a : BitVec 5) (b : BitVec 5) (s : BitVec 1) (t : BitVec 1) : Statement (.mulh d a b s t) := placeDABST_lt _ _ _ _ _ _ (by decide)
theorem mulhu (d : BitVec 5) (a : BitVec 5) (b : BitVec 5) (s : BitVec 1) (t : BitVec 1) : Statement (.mulhu d a b s t) := placeDABST_lt _ _ _ _ _ _ (by decide)
theorem div (d : BitVec 5) (a : BitVec 5) (b : BitVec 5) (s : BitVec 1) (t : BitVec 1) : Statement (.div d a b s t) := placeDABST_lt _ _ _ _ _ _ (by decide)
theorem divu (d : BitVec 5) (a : BitVec 5) (b : BitVec 5) (s : BitVec 1) (t : BitVec 1) : Statement (.divu d a b s t) := placeDABST_lt _ _ _ _ _ _ (by decide)
theorem rem (d : BitVec 5) (a : BitVec 5) (b : BitVec 5) (s : BitVec 1) (t : BitVec 1) : Statement (.rem d a b s t) := placeDABST_lt _ _ _ _ _ _ (by decide)
theorem remu (d : BitVec 5) (a : BitVec 5) (b : BitVec 5) (s : BitVec 1) (t : BitVec 1) : Statement (.remu d a b s t) := placeDABST_lt _ _ _ _ _ _ (by decide)
theorem min (d : BitVec 5) (a : BitVec 5) (b : BitVec 5) (s : BitVec 1) (t : BitVec 1) : Statement (.min d a b s t) := placeDABST_lt _ _ _ _ _ _ (by decide)
theorem max (d : BitVec 5) (a : BitVec 5) (b : BitVec 5) (s : BitVec 1) (t : BitVec 1) : Statement (.max d a b s t) := placeDABST_lt _ _ _ _ _ _ (by decide)
theorem minu (d : BitVec 5) (a : BitVec 5) (b : BitVec 5) (s : BitVec 1) (t : BitVec 1) : Statement (.minu d a b s t) := placeDABST_lt _ _ _ _ _ _ (by decide)
theorem maxu (d : BitVec 5) (a : BitVec 5) (b : BitVec 5) (s : BitVec 1) (t : BitVec 1) : Statement (.maxu d a b s t) := placeDABST_lt _ _ _ _ _ _ (by decide)
theorem slt (d : BitVec 5) (a : BitVec 5) (b : BitVec 5) (s : BitVec 1) (t : BitVec 1) : Statement (.slt d a b s t) := placeDABST_lt _ _ _ _ _ _ (by decide)
theorem sltu (d : BitVec 5) (a : BitVec 5) (b : BitVec 5) (s : BitVec 1) (t : BitVec 1) : Statement (.sltu d a b s t) := placeDABST_lt _ _ _ _ _ _ (by decide)
theorem seq (d : BitVec 5) (a : BitVec 5) (b : BitVec 5) (s : BitVec 1) (t : BitVec 1) : Statement (.seq d a b s t) := placeDABST_lt _ _ _ _ _ _ (by decide)
theorem cmov (d : BitVec 5) (a : BitVec 5) (b : BitVec 5) (s : BitVec 1) (t : BitVec 1) : Statement (.cmov d a b s t) := placeDABST_lt _ _ _ _ _ _ (by decide)
theorem clz (d : BitVec 5) (a : BitVec 5) (s : BitVec 1) : Statement (.clz d a s) := placeDAS_lt _ _ _ _ (by decide)
theorem ctz (d : BitVec 5) (a : BitVec 5) (s : BitVec 1) : Statement (.ctz d a s) := placeDAS_lt _ _ _ _ (by decide)
theorem popc (d : BitVec 5) (a : BitVec 5) (s : BitVec 1) : Statement (.popc d a s) := placeDAS_lt _ _ _ _ (by decide)
theorem brev (d : BitVec 5) (a : BitVec 5) (s : BitVec 1) : Statement (.brev d a s) := placeDAS_lt _ _ _ _ (by decide)
theorem bswap (d : BitVec 5) (a : BitVec 5) (s : BitVec 1) : Statement (.bswap d a s) := placeDAS_lt _ _ _ _ (by decide)
theorem extu (d : BitVec 5) (a : BitVec 5) (b : BitVec 5) (s : BitVec 1) (t : BitVec 1) : Statement (.extu d a b s t) := placeDABST_lt _ _ _ _ _ _ (by decide)
theorem exts (d : BitVec 5) (a : BitVec 5) (b : BitVec 5) (s : BitVec 1) (t : BitVec 1) : Statement (.exts d a b s t) := placeDABST_lt _ _ _ _ _ _ (by decide)
theorem ins (d : BitVec 5) (a : BitVec 5) (b : BitVec 5) (s : BitVec 1) (t : BitVec 1) : Statement (.ins d a b s t) := placeDABST_lt _ _ _ _ _ _ (by decide)
theorem addi (d : BitVec 5) (a : BitVec 5) (s : BitVec 1) (i : BitVec 15) : Statement (.addi d a s i) := placeDASI_lt _ _ _ _ _ (by decide)
theorem andi (d : BitVec 5) (a : BitVec 5) (s : BitVec 1) (i : BitVec 15) : Statement (.andi d a s i) := placeDASI_lt _ _ _ _ _ (by decide)
theorem ori (d : BitVec 5) (a : BitVec 5) (s : BitVec 1) (i : BitVec 15) : Statement (.ori d a s i) := placeDASI_lt _ _ _ _ _ (by decide)
theorem xori (d : BitVec 5) (a : BitVec 5) (s : BitVec 1) (i : BitVec 15) : Statement (.xori d a s i) := placeDASI_lt _ _ _ _ _ (by decide)
theorem slti (d : BitVec 5) (a : BitVec 5) (s : BitVec 1) (i : BitVec 15) : Statement (.slti d a s i) := placeDASI_lt _ _ _ _ _ (by decide)
theorem sltiu (d : BitVec 5) (a : BitVec 5) (s : BitVec 1) (i : BitVec 15) : Statement (.sltiu d a s i) := placeDASI_lt _ _ _ _ _ (by decide)
theorem lih (d : BitVec 5) (i : BitVec 21) : Statement (.lih d i) := placeDI_lt _ _ _ (by decide)
theorem addpc (d : BitVec 5) (i : BitVec 21) : Statement (.addpc d i) := placeDI_lt _ _ _ (by decide)
theorem addc (d : BitVec 5) (a : BitVec 5) (c : BitVec 2) (w : BitVec 14) : Statement (.addc d a c w) := placeDACW_lt _ _ _ _ _ (by decide)
theorem subc (d : BitVec 5) (a : BitVec 5) (c : BitVec 2) (w : BitVec 14) : Statement (.subc d a c w) := placeDACW_lt _ _ _ _ _ (by decide)
theorem andc (d : BitVec 5) (a : BitVec 5) (c : BitVec 2) (w : BitVec 14) : Statement (.andc d a c w) := placeDACW_lt _ _ _ _ _ (by decide)
theorem orc (d : BitVec 5) (a : BitVec 5) (c : BitVec 2) (w : BitVec 14) : Statement (.orc d a c w) := placeDACW_lt _ _ _ _ _ (by decide)
theorem xorc (d : BitVec 5) (a : BitVec 5) (c : BitVec 2) (w : BitVec 14) : Statement (.xorc d a c w) := placeDACW_lt _ _ _ _ _ (by decide)
theorem mulc (d : BitVec 5) (a : BitVec 5) (c : BitVec 2) (w : BitVec 14) : Statement (.mulc d a c w) := placeDACW_lt _ _ _ _ _ (by decide)
theorem minc (d : BitVec 5) (a : BitVec 5) (c : BitVec 2) (w : BitVec 14) : Statement (.minc d a c w) := placeDACW_lt _ _ _ _ _ (by decide)
theorem maxc (d : BitVec 5) (a : BitVec 5) (c : BitVec 2) (w : BitVec 14) : Statement (.maxc d a c w) := placeDACW_lt _ _ _ _ _ (by decide)
theorem sltc (d : BitVec 5) (a : BitVec 5) (c : BitVec 2) (w : BitVec 14) : Statement (.sltc d a c w) := placeDACW_lt _ _ _ _ _ (by decide)
theorem bset (d : BitVec 3) (a : BitVec 5) (b : BitVec 5) (s : BitVec 1) (t : BitVec 1) : Statement (.bset d a b s t) := placeDABST9_lt _ _ _ _ _ _ (by decide)
theorem bgetLo (d : BitVec 5) (a : BitVec 3) (s : BitVec 1) : Statement (.bgetLo d a s) := placeDAS10_lt _ _ _ _ (by decide)
theorem bgetHi (d : BitVec 5) (a : BitVec 3) (s : BitVec 1) : Statement (.bgetHi d a s) := placeDAS10_lt _ _ _ _ (by decide)
theorem badd (d : BitVec 3) (a : BitVec 3) (b : BitVec 5) (s : BitVec 1) (t : BitVec 1) : Statement (.badd d a b s t) := placeDABST9x_lt _ _ _ _ _ _ (by decide)
theorem bmov (d : BitVec 3) (a : BitVec 3) (s : BitVec 1) : Statement (.bmov d a s) := placeDAS10x_lt _ _ _ _ (by decide)
theorem baddi (d : BitVec 3) (a : BitVec 3) (s : BitVec 1) (i : BitVec 15) : Statement (.baddi d a s i) := placeDASI0_lt _ _ _ _ _ (by decide)
theorem blea (d : BitVec 3) (i : BitVec 21) : Statement (.blea d i) := placeDI0_lt _ _ _ (by decide)
theorem ldb (d : BitVec 3) (x : BitVec 5) (g : BitVec 3) (s : BitVec 1) (i : BitVec 12) : Statement (.ldb d x g s i) := placeDXGSI_lt _ _ _ _ _ _ (by decide)
theorem stb (d : BitVec 3) (x : BitVec 5) (g : BitVec 3) (s : BitVec 1) (i : BitVec 12) : Statement (.stb d x g s i) := placeDXGSI_lt _ _ _ _ _ _ (by decide)
theorem beq (a : BitVec 5) (b : BitVec 5) (i : BitVec 13) : Statement (.beq a b i) := placeABI_lt _ _ _ _ (by decide)
theorem bne (a : BitVec 5) (b : BitVec 5) (i : BitVec 13) : Statement (.bne a b i) := placeABI_lt _ _ _ _ (by decide)
theorem blt (a : BitVec 5) (b : BitVec 5) (i : BitVec 13) : Statement (.blt a b i) := placeABI_lt _ _ _ _ (by decide)
theorem bge (a : BitVec 5) (b : BitVec 5) (i : BitVec 13) : Statement (.bge a b i) := placeABI_lt _ _ _ _ (by decide)
theorem bltu (a : BitVec 5) (b : BitVec 5) (i : BitVec 13) : Statement (.bltu a b i) := placeABI_lt _ _ _ _ (by decide)
theorem bgeu (a : BitVec 5) (b : BitVec 5) (i : BitVec 13) : Statement (.bgeu a b i) := placeABI_lt _ _ _ _ (by decide)
theorem bbs (a : BitVec 5) (n : BitVec 5) (i : BitVec 13) : Statement (.bbs a n i) := placeANI_lt _ _ _ _ (by decide)
theorem bbc (a : BitVec 5) (n : BitVec 5) (i : BitVec 13) : Statement (.bbc a n i) := placeANI_lt _ _ _ _ (by decide)
theorem loop (a : BitVec 5) (i : BitVec 13) : Statement (.loop a i) := placeAI_lt _ _ _ (by decide)
theorem j (i : BitVec 26) : Statement (.j i) := placeI_lt _ _ (by decide)
theorem call (i : BitVec 26) : Statement (.call i) := placeI_lt _ _ (by decide)
theorem callb (b : BitVec 3) (t : BitVec 1) : Statement (.callb b t) := placeBT_lt _ _ _ (by decide)
theorem jb (b : BitVec 3) (t : BitVec 1) : Statement (.jb b t) := placeBT_lt _ _ _ (by decide)
theorem ret : Statement (.ret) := (by decide : (1879048194 : Nat) < 2 ^ 32)
theorem callat (d : BitVec 5) (a : BitVec 5) (b : BitVec 3) (s : BitVec 1) (t : BitVec 1) : Statement (.callat d a b s t) := placeDABST9xx_lt _ _ _ _ _ _ (by decide)
theorem windowSpill (t : BitVec 12) : Statement (.windowSpill t) := (by decide : (0 : Nat) < 2 ^ 32)
theorem windowFill (t : BitVec 12) : Statement (.windowFill t) := (by decide : (0 : Nat) < 2 ^ 32)
theorem fadd (d : BitVec 5) (a : BitVec 5) (b : BitVec 5) (s : BitVec 1) (t : BitVec 1) : Statement (.fadd d a b s t) := placeDABST_lt _ _ _ _ _ _ (by decide)
theorem fsub (d : BitVec 5) (a : BitVec 5) (b : BitVec 5) (s : BitVec 1) (t : BitVec 1) : Statement (.fsub d a b s t) := placeDABST_lt _ _ _ _ _ _ (by decide)
theorem fmul (d : BitVec 5) (a : BitVec 5) (b : BitVec 5) (s : BitVec 1) (t : BitVec 1) : Statement (.fmul d a b s t) := placeDABST_lt _ _ _ _ _ _ (by decide)
theorem fma (d : BitVec 5) (a : BitVec 5) (b : BitVec 5) (s : BitVec 1) (t : BitVec 1) : Statement (.fma d a b s t) := placeDABST_lt _ _ _ _ _ _ (by decide)
theorem fdiv (d : BitVec 5) (a : BitVec 5) (b : BitVec 5) (s : BitVec 1) (t : BitVec 1) : Statement (.fdiv d a b s t) := placeDABST_lt _ _ _ _ _ _ (by decide)
theorem fsqrt (d : BitVec 5) (a : BitVec 5) (s : BitVec 1) : Statement (.fsqrt d a s) := placeDAS_lt _ _ _ _ (by decide)
theorem fmin (d : BitVec 5) (a : BitVec 5) (b : BitVec 5) (s : BitVec 1) (t : BitVec 1) : Statement (.fmin d a b s t) := placeDABST_lt _ _ _ _ _ _ (by decide)
theorem fmax (d : BitVec 5) (a : BitVec 5) (b : BitVec 5) (s : BitVec 1) (t : BitVec 1) : Statement (.fmax d a b s t) := placeDABST_lt _ _ _ _ _ _ (by decide)
theorem feq (d : BitVec 5) (a : BitVec 5) (b : BitVec 5) (s : BitVec 1) (t : BitVec 1) : Statement (.feq d a b s t) := placeDABST_lt _ _ _ _ _ _ (by decide)
theorem flt (d : BitVec 5) (a : BitVec 5) (b : BitVec 5) (s : BitVec 1) (t : BitVec 1) : Statement (.flt d a b s t) := placeDABST_lt _ _ _ _ _ _ (by decide)
theorem fle (d : BitVec 5) (a : BitVec 5) (b : BitVec 5) (s : BitVec 1) (t : BitVec 1) : Statement (.fle d a b s t) := placeDABST_lt _ _ _ _ _ _ (by decide)
theorem fclass (d : BitVec 5) (a : BitVec 5) (s : BitVec 1) : Statement (.fclass d a s) := placeDAS_lt _ _ _ _ (by decide)
theorem fcvti (d : BitVec 5) (a : BitVec 5) (s : BitVec 1) (q : BitVec 1) (r : BitVec 3) : Statement (.fcvti d a s q r) := placeDASQR_lt _ _ _ _ _ _ (by decide)
theorem fcvtf (d : BitVec 5) (a : BitVec 5) (s : BitVec 1) (r : BitVec 3) : Statement (.fcvtf d a s r) := placeDASR_lt _ _ _ _ _ (by decide)
theorem lb (d : BitVec 5) (x : BitVec 5) (g : BitVec 3) (s : BitVec 1) (i : BitVec 12) : Statement (.lb d x g s i) := placeDXGSI0_lt _ _ _ _ _ _ (by decide)
theorem lbu (d : BitVec 5) (x : BitVec 5) (g : BitVec 3) (s : BitVec 1) (i : BitVec 12) : Statement (.lbu d x g s i) := placeDXGSI0_lt _ _ _ _ _ _ (by decide)
theorem lh (d : BitVec 5) (x : BitVec 5) (g : BitVec 3) (s : BitVec 1) (i : BitVec 12) : Statement (.lh d x g s i) := placeDXGSI0_lt _ _ _ _ _ _ (by decide)
theorem lhu (d : BitVec 5) (x : BitVec 5) (g : BitVec 3) (s : BitVec 1) (i : BitVec 12) : Statement (.lhu d x g s i) := placeDXGSI0_lt _ _ _ _ _ _ (by decide)
theorem lw (d : BitVec 5) (x : BitVec 5) (g : BitVec 3) (s : BitVec 1) (i : BitVec 12) : Statement (.lw d x g s i) := placeDXGSI0_lt _ _ _ _ _ _ (by decide)
theorem ldp (d : BitVec 5) (x : BitVec 5) (g : BitVec 3) (s : BitVec 1) (i : BitVec 12) : Statement (.ldp d x g s i) := placeDXGSI0_lt _ _ _ _ _ _ (by decide)
theorem sb (d : BitVec 5) (x : BitVec 5) (g : BitVec 3) (s : BitVec 1) (i : BitVec 12) : Statement (.sb d x g s i) := placeDXGSI0_lt _ _ _ _ _ _ (by decide)
theorem sh (d : BitVec 5) (x : BitVec 5) (g : BitVec 3) (s : BitVec 1) (i : BitVec 12) : Statement (.sh d x g s i) := placeDXGSI0_lt _ _ _ _ _ _ (by decide)
theorem sw (d : BitVec 5) (x : BitVec 5) (g : BitVec 3) (s : BitVec 1) (i : BitVec 12) : Statement (.sw d x g s i) := placeDXGSI0_lt _ _ _ _ _ _ (by decide)
theorem stp (d : BitVec 5) (x : BitVec 5) (g : BitVec 3) (s : BitVec 1) (i : BitVec 12) : Statement (.stp d x g s i) := placeDXGSI0_lt _ _ _ _ _ _ (by decide)
theorem lda (d : BitVec 5) (x : BitVec 5) (g : BitVec 3) (s : BitVec 1) (c : BitVec 3) (r : BitVec 2) (z : BitVec 2) (f : BitVec 4) : Statement (.lda d x g s c r z f) := placeDXGSCRZF_lt _ _ _ _ _ _ _ _ _ (by decide)
theorem stl (d : BitVec 5) (x : BitVec 5) (g : BitVec 3) (s : BitVec 1) (c : BitVec 3) (r : BitVec 2) (z : BitVec 2) (f : BitVec 4) : Statement (.stl d x g s c r z f) := placeDXGSCRZF_lt _ _ _ _ _ _ _ _ _ (by decide)
theorem amoadd (d : BitVec 5) (x : BitVec 5) (g : BitVec 3) (s : BitVec 1) (c : BitVec 3) (r : BitVec 2) (p : BitVec 1) : Statement (.amoadd d x g s c r p) := placeDXGSCRP_lt _ _ _ _ _ _ _ _ (by decide)
theorem amoand (d : BitVec 5) (x : BitVec 5) (g : BitVec 3) (s : BitVec 1) (c : BitVec 3) (r : BitVec 2) (p : BitVec 1) : Statement (.amoand d x g s c r p) := placeDXGSCRP_lt _ _ _ _ _ _ _ _ (by decide)
theorem amoor (d : BitVec 5) (x : BitVec 5) (g : BitVec 3) (s : BitVec 1) (c : BitVec 3) (r : BitVec 2) (p : BitVec 1) : Statement (.amoor d x g s c r p) := placeDXGSCRP_lt _ _ _ _ _ _ _ _ (by decide)
theorem amoxor (d : BitVec 5) (x : BitVec 5) (g : BitVec 3) (s : BitVec 1) (c : BitVec 3) (r : BitVec 2) (p : BitVec 1) : Statement (.amoxor d x g s c r p) := placeDXGSCRP_lt _ _ _ _ _ _ _ _ (by decide)
theorem amomin (d : BitVec 5) (x : BitVec 5) (g : BitVec 3) (s : BitVec 1) (c : BitVec 3) (r : BitVec 2) (p : BitVec 1) : Statement (.amomin d x g s c r p) := placeDXGSCRP_lt _ _ _ _ _ _ _ _ (by decide)
theorem amomax (d : BitVec 5) (x : BitVec 5) (g : BitVec 3) (s : BitVec 1) (c : BitVec 3) (r : BitVec 2) (p : BitVec 1) : Statement (.amomax d x g s c r p) := placeDXGSCRP_lt _ _ _ _ _ _ _ _ (by decide)
theorem amominu (d : BitVec 5) (x : BitVec 5) (g : BitVec 3) (s : BitVec 1) (c : BitVec 3) (r : BitVec 2) (p : BitVec 1) : Statement (.amominu d x g s c r p) := placeDXGSCRP_lt _ _ _ _ _ _ _ _ (by decide)
theorem amomaxu (d : BitVec 5) (x : BitVec 5) (g : BitVec 3) (s : BitVec 1) (c : BitVec 3) (r : BitVec 2) (p : BitVec 1) : Statement (.amomaxu d x g s c r p) := placeDXGSCRP_lt _ _ _ _ _ _ _ _ (by decide)
theorem amoswap (d : BitVec 5) (x : BitVec 5) (g : BitVec 3) (s : BitVec 1) (c : BitVec 3) (r : BitVec 2) (p : BitVec 1) : Statement (.amoswap d x g s c r p) := placeDXGSCRP_lt _ _ _ _ _ _ _ _ (by decide)
theorem amocas (d : BitVec 5) (x : BitVec 5) (g : BitVec 3) (s : BitVec 1) (c : BitVec 3) (r : BitVec 2) (p : BitVec 1) : Statement (.amocas d x g s c r p) := placeDXGSCRP_lt _ _ _ _ _ _ _ _ (by decide)
theorem amofadd (d : BitVec 5) (x : BitVec 5) (g : BitVec 3) (s : BitVec 1) (c : BitVec 3) (r : BitVec 2) : Statement (.amofadd d x g s c r) := placeDXGSCR_lt _ _ _ _ _ _ _ (by decide)
theorem cswap (d : BitVec 5) (x : BitVec 5) (g : BitVec 3) (s : BitVec 1) (c : BitVec 3) (r : BitVec 2) : Statement (.cswap d x g s c r) := placeDXGSCR_lt _ _ _ _ _ _ _ (by decide)
theorem redadd (d : BitVec 5) (x : BitVec 5) (g : BitVec 3) (s : BitVec 1) (c : BitVec 3) (r : BitVec 2) (p : BitVec 1) : Statement (.redadd d x g s c r p) := placeDXGSCRP_lt _ _ _ _ _ _ _ _ (by decide)
theorem redand (d : BitVec 5) (x : BitVec 5) (g : BitVec 3) (s : BitVec 1) (c : BitVec 3) (r : BitVec 2) (p : BitVec 1) : Statement (.redand d x g s c r p) := placeDXGSCRP_lt _ _ _ _ _ _ _ _ (by decide)
theorem redor (d : BitVec 5) (x : BitVec 5) (g : BitVec 3) (s : BitVec 1) (c : BitVec 3) (r : BitVec 2) (p : BitVec 1) : Statement (.redor d x g s c r p) := placeDXGSCRP_lt _ _ _ _ _ _ _ _ (by decide)
theorem redxor (d : BitVec 5) (x : BitVec 5) (g : BitVec 3) (s : BitVec 1) (c : BitVec 3) (r : BitVec 2) (p : BitVec 1) : Statement (.redxor d x g s c r p) := placeDXGSCRP_lt _ _ _ _ _ _ _ _ (by decide)
theorem redmin (d : BitVec 5) (x : BitVec 5) (g : BitVec 3) (s : BitVec 1) (c : BitVec 3) (r : BitVec 2) (p : BitVec 1) : Statement (.redmin d x g s c r p) := placeDXGSCRP_lt _ _ _ _ _ _ _ _ (by decide)
theorem redmax (d : BitVec 5) (x : BitVec 5) (g : BitVec 3) (s : BitVec 1) (c : BitVec 3) (r : BitVec 2) (p : BitVec 1) : Statement (.redmax d x g s c r p) := placeDXGSCRP_lt _ _ _ _ _ _ _ _ (by decide)
theorem redfadd (d : BitVec 5) (x : BitVec 5) (g : BitVec 3) (s : BitVec 1) (c : BitVec 3) (r : BitVec 2) : Statement (.redfadd d x g s c r) := placeDXGSCR_lt _ _ _ _ _ _ _ (by decide)
theorem ldfe (d : BitVec 5) (x : BitVec 5) (g : BitVec 3) (s : BitVec 1) (c : BitVec 3) (r : BitVec 2) (f : BitVec 4) : Statement (.ldfe d x g s c r f) := placeDXGSCRF_lt _ _ _ _ _ _ _ _ (by decide)
theorem stfe (d : BitVec 5) (x : BitVec 5) (g : BitVec 3) (s : BitVec 1) (c : BitVec 3) (r : BitVec 2) (f : BitVec 4) : Statement (.stfe d x g s c r f) := placeDXGSCRF_lt _ _ _ _ _ _ _ _ (by decide)
theorem ldff (d : BitVec 5) (x : BitVec 5) (g : BitVec 3) (s : BitVec 1) (c : BitVec 3) (r : BitVec 2) (f : BitVec 4) : Statement (.ldff d x g s c r f) := placeDXGSCRF_lt _ _ _ _ _ _ _ _ (by decide)
theorem stff (d : BitVec 5) (x : BitVec 5) (g : BitVec 3) (s : BitVec 1) (c : BitVec 3) (r : BitVec 2) (f : BitVec 4) : Statement (.stff d x g s c r f) := placeDXGSCRF_lt _ _ _ _ _ _ _ _ (by decide)
theorem feget (d : BitVec 5) (x : BitVec 5) (g : BitVec 3) (s : BitVec 1) (c : BitVec 3) (r : BitVec 2) (f : BitVec 4) : Statement (.feget d x g s c r f) := placeDXGSCRF_lt _ _ _ _ _ _ _ _ (by decide)
theorem feRetry (t : BitVec 12) : Statement (.feRetry t) := (by decide : (0 : Nat) < 2 ^ 32)
theorem feWake (place : Nat) (key : Nat) : Statement (.feWake place key) := (by decide : (0 : Nat) < 2 ^ 32)
theorem lrw (d : BitVec 5) (x : BitVec 5) (g : BitVec 3) (s : BitVec 1) (c : BitVec 3) (r : BitVec 2) (f : BitVec 4) : Statement (.lrw d x g s c r f) := placeDXGSCRF_lt _ _ _ _ _ _ _ _ (by decide)
theorem sch (d : BitVec 5) (x : BitVec 5) (g : BitVec 3) (s : BitVec 1) (c : BitVec 3) (r : BitVec 2) (f : BitVec 4) : Statement (.sch d x g s c r f) := placeDXGSCRF_lt _ _ _ _ _ _ _ _ (by decide)
theorem rsvx (x : BitVec 5) (g : BitVec 3) (s : BitVec 1) (c : BitVec 3) (r : BitVec 2) (f : BitVec 4) : Statement (.rsvx x g s c r f) := placeXGSCRF_lt _ _ _ _ _ _ _ (by decide)
theorem reservationExpiry (t : BitVec 12) : Statement (.reservationExpiry t) := (by decide : (0 : Nat) < 2 ^ 32)
theorem waita (d : BitVec 5) (x : BitVec 5) (g : BitVec 3) (s : BitVec 1) (c : BitVec 3) (r : BitVec 2) (f : BitVec 4) : Statement (.waita d x g s c r f) := placeDXGSCRF_lt _ _ _ _ _ _ _ _ (by decide)
theorem wakea (d : BitVec 5) (x : BitVec 5) (g : BitVec 3) (s : BitVec 1) (c : BitVec 3) (r : BitVec 2) (f : BitVec 4) : Statement (.wakea d x g s c r f) := placeDXGSCRF_lt _ _ _ _ _ _ _ _ (by decide)
theorem waitaDeadline (t : BitVec 12) : Statement (.waitaDeadline t) := (by decide : (0 : Nat) < 2 ^ 32)
theorem waitaPoll (t : BitVec 12) : Statement (.waitaPoll t) := (by decide : (0 : Nat) < 2 ^ 32)
theorem cflush (x : BitVec 5) (g : BitVec 3) (s : BitVec 1) (i : BitVec 10) : Statement (.cflush x g s i) := placeXGSI_lt _ _ _ _ _ (by decide)
theorem cinvl (x : BitVec 5) (g : BitVec 3) (s : BitVec 1) (i : BitVec 10) : Statement (.cinvl x g s i) := placeXGSI_lt _ _ _ _ _ (by decide)
theorem cpref (x : BitVec 5) (g : BitVec 3) (s : BitVec 1) (i : BitVec 10) : Statement (.cpref x g s i) := placeXGSI_lt _ _ _ _ _ (by decide)
theorem czero (x : BitVec 5) (g : BitVec 3) (s : BitVec 1) (i : BitVec 10) : Statement (.czero x g s i) := placeXGSI_lt _ _ _ _ _ (by decide)
theorem fence (k : BitVec 4) (c : BitVec 3) : Statement (.fence k c) := placeKC_lt _ _ _ (by decide)
theorem sdrain : Statement (.sdrain) := (by decide : (4093640705 : Nat) < 2 ^ 32)
theorem pclr (c : BitVec 2) (i : BitVec 6) : Statement (.pclr c i) := placeCI_lt _ _ _ (by decide)
theorem pset (c : BitVec 2) (i : BitVec 6) : Statement (.pset c i) := placeCI_lt _ _ _ (by decide)
theorem ptest (d : BitVec 5) (c : BitVec 2) (i : BitVec 6) : Statement (.ptest d c i) := placeDCI_lt _ _ _ _ (by decide)
theorem pwait (c : BitVec 2) (i : BitVec 6) : Statement (.pwait c i) := placeCI_lt _ _ _ (by decide)
theorem producerArrival (t : BitVec 12) (k : Nat) : Statement (.producerArrival t k) := (by decide : (0 : Nat) < 2 ^ 32)
theorem storeDrain (core : BitVec 9) : Statement (.storeDrain core) := (by decide : (0 : Nat) < 2 ^ 32)
theorem vaddI8 (v : BitVec 6) (a : BitVec 6) (b : BitVec 6) (q : BitVec 3) : Statement (.vaddI8 v a b q) := placeVABQ_lt _ _ _ _ _ (by decide)
theorem vaddI16 (v : BitVec 6) (a : BitVec 6) (b : BitVec 6) (q : BitVec 3) : Statement (.vaddI16 v a b q) := placeVABQ_lt _ _ _ _ _ (by decide)
theorem vaddI32 (v : BitVec 6) (a : BitVec 6) (b : BitVec 6) (q : BitVec 3) : Statement (.vaddI32 v a b q) := placeVABQ_lt _ _ _ _ _ (by decide)
theorem vsubI8 (v : BitVec 6) (a : BitVec 6) (b : BitVec 6) (q : BitVec 3) : Statement (.vsubI8 v a b q) := placeVABQ_lt _ _ _ _ _ (by decide)
theorem vsubI16 (v : BitVec 6) (a : BitVec 6) (b : BitVec 6) (q : BitVec 3) : Statement (.vsubI16 v a b q) := placeVABQ_lt _ _ _ _ _ (by decide)
theorem vsubI32 (v : BitVec 6) (a : BitVec 6) (b : BitVec 6) (q : BitVec 3) : Statement (.vsubI32 v a b q) := placeVABQ_lt _ _ _ _ _ (by decide)
theorem vmulI8 (v : BitVec 6) (a : BitVec 6) (b : BitVec 6) (q : BitVec 3) : Statement (.vmulI8 v a b q) := placeVABQ_lt _ _ _ _ _ (by decide)
theorem vmulI16 (v : BitVec 6) (a : BitVec 6) (b : BitVec 6) (q : BitVec 3) : Statement (.vmulI16 v a b q) := placeVABQ_lt _ _ _ _ _ (by decide)
theorem vmulI32 (v : BitVec 6) (a : BitVec 6) (b : BitVec 6) (q : BitVec 3) : Statement (.vmulI32 v a b q) := placeVABQ_lt _ _ _ _ _ (by decide)
theorem vminI8 (v : BitVec 6) (a : BitVec 6) (b : BitVec 6) (q : BitVec 3) : Statement (.vminI8 v a b q) := placeVABQ_lt _ _ _ _ _ (by decide)
theorem vminI16 (v : BitVec 6) (a : BitVec 6) (b : BitVec 6) (q : BitVec 3) : Statement (.vminI16 v a b q) := placeVABQ_lt _ _ _ _ _ (by decide)
theorem vminI32 (v : BitVec 6) (a : BitVec 6) (b : BitVec 6) (q : BitVec 3) : Statement (.vminI32 v a b q) := placeVABQ_lt _ _ _ _ _ (by decide)
theorem vmaxI8 (v : BitVec 6) (a : BitVec 6) (b : BitVec 6) (q : BitVec 3) : Statement (.vmaxI8 v a b q) := placeVABQ_lt _ _ _ _ _ (by decide)
theorem vmaxI16 (v : BitVec 6) (a : BitVec 6) (b : BitVec 6) (q : BitVec 3) : Statement (.vmaxI16 v a b q) := placeVABQ_lt _ _ _ _ _ (by decide)
theorem vmaxI32 (v : BitVec 6) (a : BitVec 6) (b : BitVec 6) (q : BitVec 3) : Statement (.vmaxI32 v a b q) := placeVABQ_lt _ _ _ _ _ (by decide)
theorem vandI8 (v : BitVec 6) (a : BitVec 6) (b : BitVec 6) (q : BitVec 3) : Statement (.vandI8 v a b q) := placeVABQ_lt _ _ _ _ _ (by decide)
theorem vandI16 (v : BitVec 6) (a : BitVec 6) (b : BitVec 6) (q : BitVec 3) : Statement (.vandI16 v a b q) := placeVABQ_lt _ _ _ _ _ (by decide)
theorem vandI32 (v : BitVec 6) (a : BitVec 6) (b : BitVec 6) (q : BitVec 3) : Statement (.vandI32 v a b q) := placeVABQ_lt _ _ _ _ _ (by decide)
theorem vorI8 (v : BitVec 6) (a : BitVec 6) (b : BitVec 6) (q : BitVec 3) : Statement (.vorI8 v a b q) := placeVABQ_lt _ _ _ _ _ (by decide)
theorem vorI16 (v : BitVec 6) (a : BitVec 6) (b : BitVec 6) (q : BitVec 3) : Statement (.vorI16 v a b q) := placeVABQ_lt _ _ _ _ _ (by decide)
theorem vorI32 (v : BitVec 6) (a : BitVec 6) (b : BitVec 6) (q : BitVec 3) : Statement (.vorI32 v a b q) := placeVABQ_lt _ _ _ _ _ (by decide)
theorem vxorI8 (v : BitVec 6) (a : BitVec 6) (b : BitVec 6) (q : BitVec 3) : Statement (.vxorI8 v a b q) := placeVABQ_lt _ _ _ _ _ (by decide)
theorem vxorI16 (v : BitVec 6) (a : BitVec 6) (b : BitVec 6) (q : BitVec 3) : Statement (.vxorI16 v a b q) := placeVABQ_lt _ _ _ _ _ (by decide)
theorem vxorI32 (v : BitVec 6) (a : BitVec 6) (b : BitVec 6) (q : BitVec 3) : Statement (.vxorI32 v a b q) := placeVABQ_lt _ _ _ _ _ (by decide)
theorem vsllI8 (v : BitVec 6) (a : BitVec 6) (b : BitVec 6) (q : BitVec 3) : Statement (.vsllI8 v a b q) := placeVABQ_lt _ _ _ _ _ (by decide)
theorem vsllI16 (v : BitVec 6) (a : BitVec 6) (b : BitVec 6) (q : BitVec 3) : Statement (.vsllI16 v a b q) := placeVABQ_lt _ _ _ _ _ (by decide)
theorem vsllI32 (v : BitVec 6) (a : BitVec 6) (b : BitVec 6) (q : BitVec 3) : Statement (.vsllI32 v a b q) := placeVABQ_lt _ _ _ _ _ (by decide)
theorem vsrlI8 (v : BitVec 6) (a : BitVec 6) (b : BitVec 6) (q : BitVec 3) : Statement (.vsrlI8 v a b q) := placeVABQ_lt _ _ _ _ _ (by decide)
theorem vsrlI16 (v : BitVec 6) (a : BitVec 6) (b : BitVec 6) (q : BitVec 3) : Statement (.vsrlI16 v a b q) := placeVABQ_lt _ _ _ _ _ (by decide)
theorem vsrlI32 (v : BitVec 6) (a : BitVec 6) (b : BitVec 6) (q : BitVec 3) : Statement (.vsrlI32 v a b q) := placeVABQ_lt _ _ _ _ _ (by decide)
theorem vsraI8 (v : BitVec 6) (a : BitVec 6) (b : BitVec 6) (q : BitVec 3) : Statement (.vsraI8 v a b q) := placeVABQ_lt _ _ _ _ _ (by decide)
theorem vsraI16 (v : BitVec 6) (a : BitVec 6) (b : BitVec 6) (q : BitVec 3) : Statement (.vsraI16 v a b q) := placeVABQ_lt _ _ _ _ _ (by decide)
theorem vsraI32 (v : BitVec 6) (a : BitVec 6) (b : BitVec 6) (q : BitVec 3) : Statement (.vsraI32 v a b q) := placeVABQ_lt _ _ _ _ _ (by decide)
theorem vabsI8 (v : BitVec 6) (a : BitVec 6) (q : BitVec 3) : Statement (.vabsI8 v a q) := placeVAQ_lt _ _ _ _ (by decide)
theorem vabsI16 (v : BitVec 6) (a : BitVec 6) (q : BitVec 3) : Statement (.vabsI16 v a q) := placeVAQ_lt _ _ _ _ (by decide)
theorem vabsI32 (v : BitVec 6) (a : BitVec 6) (q : BitVec 3) : Statement (.vabsI32 v a q) := placeVAQ_lt _ _ _ _ (by decide)
theorem vnegI8 (v : BitVec 6) (a : BitVec 6) (q : BitVec 3) : Statement (.vnegI8 v a q) := placeVAQ_lt _ _ _ _ (by decide)
theorem vnegI16 (v : BitVec 6) (a : BitVec 6) (q : BitVec 3) : Statement (.vnegI16 v a q) := placeVAQ_lt _ _ _ _ (by decide)
theorem vnegI32 (v : BitVec 6) (a : BitVec 6) (q : BitVec 3) : Statement (.vnegI32 v a q) := placeVAQ_lt _ _ _ _ (by decide)
theorem vsatI8 (v : BitVec 6) (a : BitVec 6) (n : BitVec 6) (q : BitVec 3) : Statement (.vsatI8 v a n q) := placeVANQ_lt _ _ _ _ _ (by decide)
theorem vsatI16 (v : BitVec 6) (a : BitVec 6) (n : BitVec 6) (q : BitVec 3) : Statement (.vsatI16 v a n q) := placeVANQ_lt _ _ _ _ _ (by decide)
theorem vsatI32 (v : BitVec 6) (a : BitVec 6) (n : BitVec 6) (q : BitVec 3) : Statement (.vsatI32 v a n q) := placeVANQ_lt _ _ _ _ _ (by decide)
theorem vmovI8 (v : BitVec 6) (a : BitVec 6) (q : BitVec 3) : Statement (.vmovI8 v a q) := placeVAQ_lt _ _ _ _ (by decide)
theorem vmovI16 (v : BitVec 6) (a : BitVec 6) (q : BitVec 3) : Statement (.vmovI16 v a q) := placeVAQ_lt _ _ _ _ (by decide)
theorem vmovI32 (v : BitVec 6) (a : BitVec 6) (q : BitVec 3) : Statement (.vmovI32 v a q) := placeVAQ_lt _ _ _ _ (by decide)
theorem vpermI8 (v : BitVec 6) (a : BitVec 6) (b : BitVec 6) (q : BitVec 3) : Statement (.vpermI8 v a b q) := placeVABQ_lt _ _ _ _ _ (by decide)
theorem vpermI16 (v : BitVec 6) (a : BitVec 6) (b : BitVec 6) (q : BitVec 3) : Statement (.vpermI16 v a b q) := placeVABQ_lt _ _ _ _ _ (by decide)
theorem vpermI32 (v : BitVec 6) (a : BitVec 6) (b : BitVec 6) (q : BitVec 3) : Statement (.vpermI32 v a b q) := placeVABQ_lt _ _ _ _ _ (by decide)
theorem vcmpEqI8 (p : BitVec 3) (a : BitVec 6) (b : BitVec 6) (q : BitVec 3) : Statement (.vcmpEqI8 p a b q) := placePABQ_lt _ _ _ _ _ (by decide)
theorem vcmpEqI16 (p : BitVec 3) (a : BitVec 6) (b : BitVec 6) (q : BitVec 3) : Statement (.vcmpEqI16 p a b q) := placePABQ_lt _ _ _ _ _ (by decide)
theorem vcmpEqI32 (p : BitVec 3) (a : BitVec 6) (b : BitVec 6) (q : BitVec 3) : Statement (.vcmpEqI32 p a b q) := placePABQ_lt _ _ _ _ _ (by decide)
theorem vcmpNeI8 (p : BitVec 3) (a : BitVec 6) (b : BitVec 6) (q : BitVec 3) : Statement (.vcmpNeI8 p a b q) := placePABQ_lt _ _ _ _ _ (by decide)
theorem vcmpNeI16 (p : BitVec 3) (a : BitVec 6) (b : BitVec 6) (q : BitVec 3) : Statement (.vcmpNeI16 p a b q) := placePABQ_lt _ _ _ _ _ (by decide)
theorem vcmpNeI32 (p : BitVec 3) (a : BitVec 6) (b : BitVec 6) (q : BitVec 3) : Statement (.vcmpNeI32 p a b q) := placePABQ_lt _ _ _ _ _ (by decide)
theorem vcmpLtI8 (p : BitVec 3) (a : BitVec 6) (b : BitVec 6) (q : BitVec 3) : Statement (.vcmpLtI8 p a b q) := placePABQ_lt _ _ _ _ _ (by decide)
theorem vcmpLtI16 (p : BitVec 3) (a : BitVec 6) (b : BitVec 6) (q : BitVec 3) : Statement (.vcmpLtI16 p a b q) := placePABQ_lt _ _ _ _ _ (by decide)
theorem vcmpLtI32 (p : BitVec 3) (a : BitVec 6) (b : BitVec 6) (q : BitVec 3) : Statement (.vcmpLtI32 p a b q) := placePABQ_lt _ _ _ _ _ (by decide)
theorem vcmpLeI8 (p : BitVec 3) (a : BitVec 6) (b : BitVec 6) (q : BitVec 3) : Statement (.vcmpLeI8 p a b q) := placePABQ_lt _ _ _ _ _ (by decide)
theorem vcmpLeI16 (p : BitVec 3) (a : BitVec 6) (b : BitVec 6) (q : BitVec 3) : Statement (.vcmpLeI16 p a b q) := placePABQ_lt _ _ _ _ _ (by decide)
theorem vcmpLeI32 (p : BitVec 3) (a : BitVec 6) (b : BitVec 6) (q : BitVec 3) : Statement (.vcmpLeI32 p a b q) := placePABQ_lt _ _ _ _ _ (by decide)
theorem vcmpLtuI8 (p : BitVec 3) (a : BitVec 6) (b : BitVec 6) (q : BitVec 3) : Statement (.vcmpLtuI8 p a b q) := placePABQ_lt _ _ _ _ _ (by decide)
theorem vcmpLtuI16 (p : BitVec 3) (a : BitVec 6) (b : BitVec 6) (q : BitVec 3) : Statement (.vcmpLtuI16 p a b q) := placePABQ_lt _ _ _ _ _ (by decide)
theorem vcmpLtuI32 (p : BitVec 3) (a : BitVec 6) (b : BitVec 6) (q : BitVec 3) : Statement (.vcmpLtuI32 p a b q) := placePABQ_lt _ _ _ _ _ (by decide)
theorem vcmpLeuI8 (p : BitVec 3) (a : BitVec 6) (b : BitVec 6) (q : BitVec 3) : Statement (.vcmpLeuI8 p a b q) := placePABQ_lt _ _ _ _ _ (by decide)
theorem vcmpLeuI16 (p : BitVec 3) (a : BitVec 6) (b : BitVec 6) (q : BitVec 3) : Statement (.vcmpLeuI16 p a b q) := placePABQ_lt _ _ _ _ _ (by decide)
theorem vcmpLeuI32 (p : BitVec 3) (a : BitVec 6) (b : BitVec 6) (q : BitVec 3) : Statement (.vcmpLeuI32 p a b q) := placePABQ_lt _ _ _ _ _ (by decide)
theorem vraddI8 (v : BitVec 6) (a : BitVec 6) (q : BitVec 3) : Statement (.vraddI8 v a q) := placeVAQ_lt _ _ _ _ (by decide)
theorem vraddI16 (v : BitVec 6) (a : BitVec 6) (q : BitVec 3) : Statement (.vraddI16 v a q) := placeVAQ_lt _ _ _ _ (by decide)
theorem vraddI32 (v : BitVec 6) (a : BitVec 6) (q : BitVec 3) : Statement (.vraddI32 v a q) := placeVAQ_lt _ _ _ _ (by decide)
theorem vrmaxI8 (v : BitVec 6) (a : BitVec 6) (q : BitVec 3) : Statement (.vrmaxI8 v a q) := placeVAQ_lt _ _ _ _ (by decide)
theorem vrmaxI16 (v : BitVec 6) (a : BitVec 6) (q : BitVec 3) : Statement (.vrmaxI16 v a q) := placeVAQ_lt _ _ _ _ (by decide)
theorem vrmaxI32 (v : BitVec 6) (a : BitVec 6) (q : BitVec 3) : Statement (.vrmaxI32 v a q) := placeVAQ_lt _ _ _ _ (by decide)
theorem vrminI8 (v : BitVec 6) (a : BitVec 6) (q : BitVec 3) : Statement (.vrminI8 v a q) := placeVAQ_lt _ _ _ _ (by decide)
theorem vrminI16 (v : BitVec 6) (a : BitVec 6) (q : BitVec 3) : Statement (.vrminI16 v a q) := placeVAQ_lt _ _ _ _ (by decide)
theorem vrminI32 (v : BitVec 6) (a : BitVec 6) (q : BitVec 3) : Statement (.vrminI32 v a q) := placeVAQ_lt _ _ _ _ (by decide)
theorem vfaddF16 (v : BitVec 6) (a : BitVec 6) (b : BitVec 6) (q : BitVec 3) : Statement (.vfaddF16 v a b q) := placeVABQ_lt _ _ _ _ _ (by decide)
theorem vfaddBf16 (v : BitVec 6) (a : BitVec 6) (b : BitVec 6) (q : BitVec 3) : Statement (.vfaddBf16 v a b q) := placeVABQ_lt _ _ _ _ _ (by decide)
theorem vfaddF32 (v : BitVec 6) (a : BitVec 6) (b : BitVec 6) (q : BitVec 3) : Statement (.vfaddF32 v a b q) := placeVABQ_lt _ _ _ _ _ (by decide)
theorem vfsubF16 (v : BitVec 6) (a : BitVec 6) (b : BitVec 6) (q : BitVec 3) : Statement (.vfsubF16 v a b q) := placeVABQ_lt _ _ _ _ _ (by decide)
theorem vfsubBf16 (v : BitVec 6) (a : BitVec 6) (b : BitVec 6) (q : BitVec 3) : Statement (.vfsubBf16 v a b q) := placeVABQ_lt _ _ _ _ _ (by decide)
theorem vfsubF32 (v : BitVec 6) (a : BitVec 6) (b : BitVec 6) (q : BitVec 3) : Statement (.vfsubF32 v a b q) := placeVABQ_lt _ _ _ _ _ (by decide)
theorem vfmulF16 (v : BitVec 6) (a : BitVec 6) (b : BitVec 6) (q : BitVec 3) : Statement (.vfmulF16 v a b q) := placeVABQ_lt _ _ _ _ _ (by decide)
theorem vfmulBf16 (v : BitVec 6) (a : BitVec 6) (b : BitVec 6) (q : BitVec 3) : Statement (.vfmulBf16 v a b q) := placeVABQ_lt _ _ _ _ _ (by decide)
theorem vfmulF32 (v : BitVec 6) (a : BitVec 6) (b : BitVec 6) (q : BitVec 3) : Statement (.vfmulF32 v a b q) := placeVABQ_lt _ _ _ _ _ (by decide)
theorem vfmaF16 (v : BitVec 6) (a : BitVec 6) (b : BitVec 6) (q : BitVec 3) : Statement (.vfmaF16 v a b q) := placeVABQ_lt _ _ _ _ _ (by decide)
theorem vfmaBf16 (v : BitVec 6) (a : BitVec 6) (b : BitVec 6) (q : BitVec 3) : Statement (.vfmaBf16 v a b q) := placeVABQ_lt _ _ _ _ _ (by decide)
theorem vfmaF32 (v : BitVec 6) (a : BitVec 6) (b : BitVec 6) (q : BitVec 3) : Statement (.vfmaF32 v a b q) := placeVABQ_lt _ _ _ _ _ (by decide)
theorem vfminF16 (v : BitVec 6) (a : BitVec 6) (b : BitVec 6) (q : BitVec 3) : Statement (.vfminF16 v a b q) := placeVABQ_lt _ _ _ _ _ (by decide)
theorem vfminBf16 (v : BitVec 6) (a : BitVec 6) (b : BitVec 6) (q : BitVec 3) : Statement (.vfminBf16 v a b q) := placeVABQ_lt _ _ _ _ _ (by decide)
theorem vfminF32 (v : BitVec 6) (a : BitVec 6) (b : BitVec 6) (q : BitVec 3) : Statement (.vfminF32 v a b q) := placeVABQ_lt _ _ _ _ _ (by decide)
theorem vfmaxF16 (v : BitVec 6) (a : BitVec 6) (b : BitVec 6) (q : BitVec 3) : Statement (.vfmaxF16 v a b q) := placeVABQ_lt _ _ _ _ _ (by decide)
theorem vfmaxBf16 (v : BitVec 6) (a : BitVec 6) (b : BitVec 6) (q : BitVec 3) : Statement (.vfmaxBf16 v a b q) := placeVABQ_lt _ _ _ _ _ (by decide)
theorem vfmaxF32 (v : BitVec 6) (a : BitVec 6) (b : BitVec 6) (q : BitVec 3) : Statement (.vfmaxF32 v a b q) := placeVABQ_lt _ _ _ _ _ (by decide)
theorem vfdivF16 (v : BitVec 6) (a : BitVec 6) (b : BitVec 6) (q : BitVec 3) : Statement (.vfdivF16 v a b q) := placeVABQ_lt _ _ _ _ _ (by decide)
theorem vfdivBf16 (v : BitVec 6) (a : BitVec 6) (b : BitVec 6) (q : BitVec 3) : Statement (.vfdivBf16 v a b q) := placeVABQ_lt _ _ _ _ _ (by decide)
theorem vfdivF32 (v : BitVec 6) (a : BitVec 6) (b : BitVec 6) (q : BitVec 3) : Statement (.vfdivF32 v a b q) := placeVABQ_lt _ _ _ _ _ (by decide)
theorem vfsqrtF16 (v : BitVec 6) (a : BitVec 6) (q : BitVec 3) : Statement (.vfsqrtF16 v a q) := placeVAQ_lt _ _ _ _ (by decide)
theorem vfsqrtBf16 (v : BitVec 6) (a : BitVec 6) (q : BitVec 3) : Statement (.vfsqrtBf16 v a q) := placeVAQ_lt _ _ _ _ (by decide)
theorem vfsqrtF32 (v : BitVec 6) (a : BitVec 6) (q : BitVec 3) : Statement (.vfsqrtF32 v a q) := placeVAQ_lt _ _ _ _ (by decide)
theorem vcmpEqF16 (p : BitVec 3) (a : BitVec 6) (b : BitVec 6) (q : BitVec 3) : Statement (.vcmpEqF16 p a b q) := placePABQ_lt _ _ _ _ _ (by decide)
theorem vcmpEqBf16 (p : BitVec 3) (a : BitVec 6) (b : BitVec 6) (q : BitVec 3) : Statement (.vcmpEqBf16 p a b q) := placePABQ_lt _ _ _ _ _ (by decide)
theorem vcmpEqF32 (p : BitVec 3) (a : BitVec 6) (b : BitVec 6) (q : BitVec 3) : Statement (.vcmpEqF32 p a b q) := placePABQ_lt _ _ _ _ _ (by decide)
theorem vcmpNeF16 (p : BitVec 3) (a : BitVec 6) (b : BitVec 6) (q : BitVec 3) : Statement (.vcmpNeF16 p a b q) := placePABQ_lt _ _ _ _ _ (by decide)
theorem vcmpNeBf16 (p : BitVec 3) (a : BitVec 6) (b : BitVec 6) (q : BitVec 3) : Statement (.vcmpNeBf16 p a b q) := placePABQ_lt _ _ _ _ _ (by decide)
theorem vcmpNeF32 (p : BitVec 3) (a : BitVec 6) (b : BitVec 6) (q : BitVec 3) : Statement (.vcmpNeF32 p a b q) := placePABQ_lt _ _ _ _ _ (by decide)
theorem vcmpLtF16 (p : BitVec 3) (a : BitVec 6) (b : BitVec 6) (q : BitVec 3) : Statement (.vcmpLtF16 p a b q) := placePABQ_lt _ _ _ _ _ (by decide)
theorem vcmpLtBf16 (p : BitVec 3) (a : BitVec 6) (b : BitVec 6) (q : BitVec 3) : Statement (.vcmpLtBf16 p a b q) := placePABQ_lt _ _ _ _ _ (by decide)
theorem vcmpLtF32 (p : BitVec 3) (a : BitVec 6) (b : BitVec 6) (q : BitVec 3) : Statement (.vcmpLtF32 p a b q) := placePABQ_lt _ _ _ _ _ (by decide)
theorem vcmpLeF16 (p : BitVec 3) (a : BitVec 6) (b : BitVec 6) (q : BitVec 3) : Statement (.vcmpLeF16 p a b q) := placePABQ_lt _ _ _ _ _ (by decide)
theorem vcmpLeBf16 (p : BitVec 3) (a : BitVec 6) (b : BitVec 6) (q : BitVec 3) : Statement (.vcmpLeBf16 p a b q) := placePABQ_lt _ _ _ _ _ (by decide)
theorem vcmpLeF32 (p : BitVec 3) (a : BitVec 6) (b : BitVec 6) (q : BitVec 3) : Statement (.vcmpLeF32 p a b q) := placePABQ_lt _ _ _ _ _ (by decide)
theorem vcmpUnF16 (p : BitVec 3) (a : BitVec 6) (b : BitVec 6) (q : BitVec 3) : Statement (.vcmpUnF16 p a b q) := placePABQ_lt _ _ _ _ _ (by decide)
theorem vcmpUnBf16 (p : BitVec 3) (a : BitVec 6) (b : BitVec 6) (q : BitVec 3) : Statement (.vcmpUnBf16 p a b q) := placePABQ_lt _ _ _ _ _ (by decide)
theorem vcmpUnF32 (p : BitVec 3) (a : BitVec 6) (b : BitVec 6) (q : BitVec 3) : Statement (.vcmpUnF32 p a b q) := placePABQ_lt _ _ _ _ _ (by decide)
theorem vrfaddF16 (v : BitVec 6) (a : BitVec 6) (q : BitVec 3) : Statement (.vrfaddF16 v a q) := placeVAQ_lt _ _ _ _ (by decide)
theorem vrfaddBf16 (v : BitVec 6) (a : BitVec 6) (q : BitVec 3) : Statement (.vrfaddBf16 v a q) := placeVAQ_lt _ _ _ _ (by decide)
theorem vrfaddF32 (v : BitVec 6) (a : BitVec 6) (q : BitVec 3) : Statement (.vrfaddF32 v a q) := placeVAQ_lt _ _ _ _ (by decide)
theorem vbcastI8 (v : BitVec 6) (r : BitVec 5) (q : BitVec 3) : Statement (.vbcastI8 v r q) := placeVRQ_lt _ _ _ _ (by decide)
theorem vbcastI16 (v : BitVec 6) (r : BitVec 5) (q : BitVec 3) : Statement (.vbcastI16 v r q) := placeVRQ_lt _ _ _ _ (by decide)
theorem vbcastI32 (v : BitVec 6) (r : BitVec 5) (q : BitVec 3) : Statement (.vbcastI32 v r q) := placeVRQ_lt _ _ _ _ (by decide)
theorem vextI8 (n : BitVec 5) (a : BitVec 6) (r : BitVec 5) : Statement (.vextI8 n a r) := placeNAR_lt _ _ _ _ (by decide)
theorem vextI16 (n : BitVec 5) (a : BitVec 6) (r : BitVec 5) : Statement (.vextI16 n a r) := placeNAR_lt _ _ _ _ (by decide)
theorem vextI32 (n : BitVec 5) (a : BitVec 6) (r : BitVec 5) : Statement (.vextI32 n a r) := placeNAR_lt _ _ _ _ (by decide)
theorem vinsI8 (v : BitVec 6) (n : BitVec 5) (r : BitVec 5) : Statement (.vinsI8 v n r) := placeVNR_lt _ _ _ _ (by decide)
theorem vinsI16 (v : BitVec 6) (n : BitVec 5) (r : BitVec 5) : Statement (.vinsI16 v n r) := placeVNR_lt _ _ _ _ (by decide)
theorem vinsI32 (v : BitVec 6) (n : BitVec 5) (r : BitVec 5) : Statement (.vinsI32 v n r) := placeVNR_lt _ _ _ _ (by decide)
theorem qand (d : BitVec 3) (a : BitVec 3) (b : BitVec 3) : Statement (.qand d a b) := placeDAB_lt _ _ _ _ (by decide)
theorem qor (d : BitVec 3) (a : BitVec 3) (b : BitVec 3) : Statement (.qor d a b) := placeDAB_lt _ _ _ _ (by decide)
theorem qxor (d : BitVec 3) (a : BitVec 3) (b : BitVec 3) : Statement (.qxor d a b) := placeDAB_lt _ _ _ _ (by decide)
theorem qnot (d : BitVec 3) (a : BitVec 3) : Statement (.qnot d a) := placeDA_lt _ _ _ (by decide)
theorem qpop (a : BitVec 3) (r : BitVec 5) : Statement (.qpop a r) := placeAR_lt _ _ _ (by decide)
theorem qfirst (a : BitVec 3) (r : BitVec 5) : Statement (.qfirst a r) := placeAR_lt _ _ _ (by decide)
theorem vcvt (v : BitVec 6) (a : BitVec 6) (r : BitVec 3) (q : BitVec 3) (dt : BitVec 3) (st : BitVec 3) : Statement (.vcvt v a r q dt st) := placeVARQDtSt_lt _ _ _ _ _ _ _ (by decide)
theorem vpack (v : BitVec 6) (a : BitVec 6) (r : BitVec 3) (q : BitVec 3) (dt : BitVec 3) (st : BitVec 3) : Statement (.vpack v a r q dt st) := placeVARQDtSt_lt _ _ _ _ _ _ _ (by decide)
theorem vunpk (v : BitVec 6) (a : BitVec 6) (r : BitVec 3) (q : BitVec 3) (dt : BitVec 3) (st : BitVec 3) : Statement (.vunpk v a r q dt st) := placeVARQDtSt_lt _ _ _ _ _ _ _ (by decide)
theorem vld (v : BitVec 6) (g : BitVec 3) (x : BitVec 5) (q : BitVec 3) (i : BitVec 6) : Statement (.vld v g x q i) := placeVGXQI_lt _ _ _ _ _ _ (by decide)
theorem vst (v : BitVec 6) (g : BitVec 3) (x : BitVec 5) (q : BitVec 3) (i : BitVec 6) : Statement (.vst v g x q i) := placeVGXQI_lt _ _ _ _ _ _ (by decide)
theorem vlds (v : BitVec 6) (g : BitVec 3) (x : BitVec 5) (q : BitVec 3) (i : BitVec 6) : Statement (.vlds v g x q i) := placeVGXQI_lt _ _ _ _ _ _ (by decide)
theorem vsts (v : BitVec 6) (g : BitVec 3) (x : BitVec 5) (q : BitVec 3) (i : BitVec 6) : Statement (.vsts v g x q i) := placeVGXQI_lt _ _ _ _ _ _ (by decide)
theorem vgath (v : BitVec 6) (g : BitVec 3) (x : BitVec 5) (q : BitVec 3) (i : BitVec 6) : Statement (.vgath v g x q i) := placeVGXQI_lt _ _ _ _ _ _ (by decide)
theorem vscat (v : BitVec 6) (g : BitVec 3) (x : BitVec 5) (q : BitVec 3) (i : BitVec 6) : Statement (.vscat v g x q i) := placeVGXQI_lt _ _ _ _ _ _ (by decide)
theorem vldb (v : BitVec 6) (g : BitVec 3) (x : BitVec 5) (q : BitVec 3) (i : BitVec 6) : Statement (.vldb v g x q i) := placeVGXQI_lt _ _ _ _ _ _ (by decide)
theorem vstb (v : BitVec 6) (g : BitVec 3) (x : BitVec 5) (q : BitVec 3) (i : BitVec 6) : Statement (.vstb v g x q i) := placeVGXQI_lt _ _ _ _ _ _ (by decide)
theorem lease (e : BitVec 2) (a : BitVec 5) (b : BitVec 5) : Statement (.lease e a b) := placeEAB_lt _ _ _ _ (by decide)
theorem lrenew (e : BitVec 2) (a : BitVec 5) : Statement (.lrenew e a) := placeEA_lt _ _ _ (by decide)
theorem lfree (e : BitVec 2) : Statement (.lfree e) := placeE_lt _ _ (by decide)
theorem lstat (e : BitVec 2) (d : BitVec 5) (c : BitVec 5) : Statement (.lstat e d c) := placeEDC_lt _ _ _ _ (by decide)
theorem lwait (e : BitVec 2) (d : BitVec 5) (a : BitVec 5) : Statement (.lwait e d a) := placeEDA_lt _ _ _ _ (by decide)
theorem lwaitTimeout (t : BitVec 12) (e : BitVec 2) : Statement (.lwaitTimeout t e) := (by decide : (0 : Nat) < 2 ^ 32)
theorem ecfg (e : BitVec 2) (a : BitVec 5) (k : BitVec 5) : Statement (.ecfg e a k) := placeEAK_lt _ _ _ _ (by decide)
theorem allReduce (e : BitVec 2) (a : BitVec 5) : Statement (.allReduce e a) := (by decide : (0 : Nat) < 2 ^ 32)
theorem eget (e : BitVec 2) (d : BitVec 5) (k : BitVec 5) : Statement (.eget e d k) := placeEDK_lt _ _ _ _ (by decide)
theorem ewait (e : BitVec 2) (d : BitVec 5) : Statement (.ewait e d) := placeED_lt _ _ _ (by decide)
theorem mlds (e : BitVec 2) (a : BitVec 5) : Statement (.mlds e a) := placeEA_lt _ _ _ (by decide)
theorem mswap (e : BitVec 2) : Statement (.mswap e) := placeE_lt _ _ (by decide)
theorem mstream (e : BitVec 2) (a : BitVec 5) : Statement (.mstream e a) := placeEA_lt _ _ _ (by decide)
theorem mtile (e : BitVec 2) : Statement (.mtile e) := placeE_lt _ _ (by decide)
theorem mrot (e : BitVec 2) : Statement (.mrot e) := placeE_lt _ _ (by decide)
theorem mdrain (e : BitVec 2) (a : BitVec 5) (b : BitVec 5) : Statement (.mdrain e a b) := placeEAB_lt _ _ _ _ (by decide)
theorem mzero (e : BitVec 2) (a : BitVec 5) : Statement (.mzero e a) := placeEA_lt _ _ _ (by decide)
theorem mresume (e : BitVec 2) : Statement (.mresume e) := placeE_lt _ _ (by decide)
theorem rlds (e : BitVec 2) (a : BitVec 5) : Statement (.rlds e a) := placeEA_lt _ _ _ (by decide)
theorem rtile (e : BitVec 2) (a : BitVec 5) : Statement (.rtile e a) := placeEA_lt _ _ _ (by decide)
theorem rconv (e : BitVec 2) : Statement (.rconv e) := placeE_lt _ _ (by decide)
theorem gconv (e : BitVec 2) : Statement (.gconv e) := placeE_lt _ _ (by decide)
theorem ggath (e : BitVec 2) : Statement (.ggath e) := placeE_lt _ _ (by decide)
theorem gcopy (e : BitVec 2) : Statement (.gcopy e) := placeE_lt _ _ (by decide)
theorem hdigest (e : BitVec 2) : Statement (.hdigest e) := placeE_lt _ _ (by decide)
theorem hingest (e : BitVec 2) : Statement (.hingest e) := placeE_lt _ _ (by decide)
theorem leaseGrant (queue : Nat) : Statement (.leaseGrant queue) := (by decide : (0 : Nat) < 2 ^ 32)
theorem engineWakeDone (engine : Nat) : Statement (.engineWakeDone engine) := (by decide : (0 : Nat) < 2 ^ 32)
theorem leaseTermExpiry (t : BitVec 12) (e : BitVec 2) : Statement (.leaseTermExpiry t e) := (by decide : (0 : Nat) < 2 ^ 32)
theorem forcedEviction (engine : Nat) : Statement (.forcedEviction engine) := (by decide : (0 : Nat) < 2 ^ 32)
theorem engineStep (engine : Nat) : Statement (.engineStep engine) := (by decide : (0 : Nat) < 2 ^ 32)
theorem enginePowerOff (engine : Nat) : Statement (.enginePowerOff engine) := (by decide : (0 : Nat) < 2 ^ 32)
theorem copy (a : BitVec 5) (s : BitVec 1) (bd : BitVec 3) (bs : BitVec 3) : Statement (.copy a s bd bs) := placeASBdBs_lt _ _ _ _ _ (by decide)
theorem copyNb (r : BitVec 5) (a : BitVec 5) (s : BitVec 1) (bd : BitVec 3) (bs : BitVec 3) : Statement (.copyNb r a s bd bs) := placeRASBdBs_lt _ _ _ _ _ _ (by decide)
theorem tcopy (a : BitVec 5) (s : BitVec 1) : Statement (.tcopy a s) := placeAS_lt _ _ _ (by decide)
theorem cseal (d : BitVec 5) : Statement (.cseal d) := placeD_lt _ _ (by decide)
theorem cwait (n : BitVec 5) : Statement (.cwait n) := placeN_lt _ _ (by decide)
theorem cpoll (d : BitVec 5) (a : BitVec 5) (s : BitVec 1) : Statement (.cpoll d a s) := placeDAS_lt _ _ _ _ (by decide)
theorem copyDispatch (core : BitVec 9) : Statement (.copyDispatch core) := (by decide : (0 : Nat) < 2 ^ 32)
theorem copyRequestEnd (cl : BitVec 5) (idx : Nat) : Statement (.copyRequestEnd cl idx) := (by decide : (0 : Nat) < 2 ^ 32)
theorem batchFinish (t : BitVec 12) : Statement (.batchFinish t) := (by decide : (0 : Nat) < 2 ^ 32)
theorem clkl (a : BitVec 6) (r : BitVec 5) : Statement (.clkl a r) := placeAR9_lt _ _ _ (by decide)
theorem clkn (a : BitVec 6) (r : BitVec 5) : Statement (.clkn a r) := placeAR9_lt _ _ _ (by decide)
theorem cnld (v : BitVec 6) (r : BitVec 5) : Statement (.cnld v r) := placeVR_lt _ _ _ (by decide)
theorem cref (r : BitVec 5) : Statement (.cref r) := placeR_lt _ _ (by decide)
theorem crel (r : BitVec 5) : Statement (.crel r) := placeR_lt _ _ (by decide)
theorem cstat (r : BitVec 5) : Statement (.cstat r) := placeR_lt _ _ (by decide)
theorem reclaimStep : Statement (.reclaimStep) := (by decide : (0 : Nat) < 2 ^ 32)
theorem send (a : BitVec 5) (v : BitVec 5) (s : BitVec 1) : Statement (.send a v s) := placeAVS_lt _ _ _ _ (by decide)
theorem sendRetry (t : BitVec 12) : Statement (.sendRetry t) := (by decide : (0 : Nat) < 2 ^ 32)
theorem sendnb (d : BitVec 5) (a : BitVec 5) (v : BitVec 5) (s : BitVec 1) : Statement (.sendnb d a v s) := placeDAVS_lt _ _ _ _ _ (by decide)
theorem recv (v : BitVec 5) (a : BitVec 5) : Statement (.recv v a) := placeVA_lt _ _ _ (by decide)
theorem recvp (v : BitVec 5) (a : BitVec 5) : Statement (.recvp v a) := placeVA_lt _ _ _ (by decide)
theorem messageArrival (idx : Nat) : Statement (.messageArrival idx) := (by decide : (0 : Nat) < 2 ^ 32)
theorem reply (a : BitVec 5) (s : BitVec 1) : Statement (.reply a s) := placeAS_lt _ _ _ (by decide)
theorem wakest (a : BitVec 5) (b : BitVec 5) (s : BitVec 1) (t : BitVec 1) : Statement (.wakest a b s t) := placeABST_lt _ _ _ _ _ (by decide)
theorem texit : Statement (.texit) := (by decide : (3892314121 : Nat) < 2 ^ 32)
theorem callatArrival (idx : Nat) : Statement (.callatArrival idx) := (by decide : (0 : Nat) < 2 ^ 32)
theorem taskQueueStart (core : BitVec 9) : Statement (.taskQueueStart core) := (by decide : (0 : Nat) < 2 ^ 32)
theorem arrive (a : BitVec 5) (b : BitVec 5) (s : BitVec 1) (t : BitVec 1) (c : BitVec 3) (o : BitVec 2) : Statement (.arrive a b s t c o) := placeABSTCO_lt _ _ _ _ _ _ _ (by decide)
theorem expect (a : BitVec 5) (b : BitVec 5) (s : BitVec 1) (t : BitVec 1) : Statement (.expect a b s t) := placeABST_lt _ _ _ _ _ (by decide)
theorem bwait (d : BitVec 5) (a : BitVec 5) (b : BitVec 5) (s : BitVec 1) (t : BitVec 1) (c : BitVec 3) : Statement (.bwait d a b s t c) := placeDABSTC_lt _ _ _ _ _ _ _ (by decide)
theorem btest (d : BitVec 5) (a : BitVec 5) (s : BitVec 1) : Statement (.btest d a s) := placeDAS_lt _ _ _ _ (by decide)
theorem deferredArrival (t : BitVec 12) : Statement (.deferredArrival t) := (by decide : (0 : Nat) < 2 ^ 32)
theorem barrierCycle (cl : BitVec 5) (n : BitVec 4) : Statement (.barrierCycle cl n) := (by decide : (0 : Nat) < 2 ^ 32)
theorem svc (n : BitVec 12) : Statement (.svc n) := placeN4_lt _ _ (by decide)
theorem mcall (n : BitVec 12) : Statement (.mcall n) := placeN4_lt _ _ (by decide)
theorem xret : Statement (.xret) := (by decide : (4026531842 : Nat) < 2 ^ 32)
theorem upret : Statement (.upret) := (by decide : (4026531843 : Nat) < 2 ^ 32)
theorem plret : Statement (.plret) := (by decide : (4026531844 : Nat) < 2 ^ 32)
theorem sysrd (d : BitVec 5) (n : BitVec 12) : Statement (.sysrd d n) := placeDN_lt _ _ _ (by decide)
theorem syswr (a : BitVec 5) (n : BitVec 12) : Statement (.syswr a n) := placeAN_lt _ _ _ (by decide)
theorem sysset (d : BitVec 5) (a : BitVec 5) (n : BitVec 12) : Statement (.sysset d a n) := placeDAN_lt _ _ _ _ (by decide)
theorem sysclr (d : BitVec 5) (a : BitVec 5) (n : BitVec 12) : Statement (.sysclr d a n) := placeDAN_lt _ _ _ _ (by decide)
theorem halt : Statement (.halt) := (by decide : (4026531849 : Nat) < 2 ^ 32)
theorem tlbinvPg (a : BitVec 5) (g : BitVec 3) : Statement (.tlbinvPg a g) := placeAG_lt _ _ _ (by decide)
theorem tlbinvAs (a : BitVec 5) : Statement (.tlbinvAs a) := placeA_lt _ _ (by decide)
theorem tlbinvAll : Statement (.tlbinvAll) := (by decide : (4026535946 : Nat) < 2 ^ 32)
theorem rput (i : BitVec 5) (a : BitVec 5) (v : BitVec 5) : Statement (.rput i a v) := placeIAV_lt _ _ _ _ (by decide)
theorem brk (n : BitVec 12) : Statement (.brk n) := placeN4_lt _ _ (by decide)
theorem storeFaultDelivery (t : BitVec 12) : Statement (.storeFaultDelivery t) := (by decide : (0 : Nat) < 2 ^ 32)
theorem postedCauseDelivery (t : BitVec 12) : Statement (.postedCauseDelivery t) := (by decide : (0 : Nat) < 2 ^ 32)
theorem pluckDelivery (t : BitVec 12) : Statement (.pluckDelivery t) := (by decide : (0 : Nat) < 2 ^ 32)
theorem machineCheck (t : BitVec 12) (structureNo : BitVec 8) (entry : BitVec 8) : Statement (.machineCheck t structureNo entry) := (by decide : (0 : Nat) < 2 ^ 32)
theorem uncorrectableError (line : Nat) : Statement (.uncorrectableError line) := (by decide : (0 : Nat) < 2 ^ 32)
theorem translationFill (pasid : BitVec 20) (va : BitVec 64) (resp : FillResponse) : Statement (.translationFill pasid va resp) := (by decide : (0 : Nat) < 2 ^ 32)
theorem prgResponse (pasid : BitVec 20) (page : BitVec 64) (ok : Bool) : Statement (.prgResponse pasid page ok) := (by decide : (0 : Nat) < 2 ^ 32)
theorem atsInvalidation (pasid : BitVec 20) (base : BitVec 64) (bytes : Nat) : Statement (.atsInvalidation pasid base bytes) := (by decide : (0 : Nat) < 2 ^ 32)
theorem clockAgeing : Statement (.clockAgeing) := (by decide : (0 : Nat) < 2 ^ 32)
theorem clusterLineEviction (cl : BitVec 5) (line : Nat) : Statement (.clusterLineEviction cl line) := (by decide : (0 : Nat) < 2 ^ 32)
theorem partialEviction (cl : BitVec 5) (line : Nat) : Statement (.partialEviction cl line) := (by decide : (0 : Nat) < 2 ^ 32)
theorem bridgeEviction (line : Nat) : Statement (.bridgeEviction line) := (by decide : (0 : Nat) < 2 ^ 32)
theorem hostSnoop (line : Nat) (kind : SnoopKind) : Statement (.hostSnoop line kind) := (by decide : (0 : Nat) < 2 ^ 32)
theorem hostRead (pa : BitVec 64) (n : Nat) : Statement (.hostRead pa n) := (by decide : (0 : Nat) < 2 ^ 32)
theorem hostWrite (pa : BitVec 64) (data : List (BitVec 8)) : Statement (.hostWrite pa data) := (by decide : (0 : Nat) < 2 ^ 32)
theorem hostWake (pa : BitVec 64) (n : BitVec 32) : Statement (.hostWake pa n) := (by decide : (0 : Nat) < 2 ^ 32)
theorem enqueue (vi : BitVec 10) (record : List (BitVec 8)) : Statement (.enqueue vi record) := (by decide : (0 : Nat) < 2 ^ 32)
theorem dependencyCheck (vi : BitVec 10) : Statement (.dependencyCheck vi) := (by decide : (0 : Nat) < 2 ^ 32)
theorem placementPass : Statement (.placementPass) := (by decide : (0 : Nat) < 2 ^ 32)
theorem budgetSample : Statement (.budgetSample) := (by decide : (0 : Nat) < 2 ^ 32)
theorem periodStart : Statement (.periodStart) := (by decide : (0 : Nat) < 2 ^ 32)
theorem stageStart (launch : Nat) (block : Nat) (tile : Nat) : Statement (.stageStart launch block tile) := (by decide : (0 : Nat) < 2 ^ 32)
theorem mdrainWakeup (idx : Nat) : Statement (.mdrainWakeup idx) := (by decide : (0 : Nat) < 2 ^ 32)
theorem blockCompletion (launch : Nat) (block : Nat) : Statement (.blockCompletion launch block) := (by decide : (0 : Nat) < 2 ^ 32)
theorem launchCompletion (launch : Nat) : Statement (.launchCompletion launch) := (by decide : (0 : Nat) < 2 ^ 32)
theorem preemptSave (core : BitVec 9) : Statement (.preemptSave core) := (by decide : (0 : Nat) < 2 ^ 32)
theorem preemptRestore (core : BitVec 9) : Statement (.preemptRestore core) := (by decide : (0 : Nat) < 2 ^ 32)
theorem blockEnd (t : BitVec 12) : Statement (.blockEnd t) := (by decide : (0 : Nat) < 2 ^ 32)
theorem slotResume (core : BitVec 9) (mask : BitVec 8) : Statement (.slotResume core mask) := (by decide : (0 : Nat) < 2 ^ 32)
theorem viQcfgWrite (vi : BitVec 10) (value : BitVec 32) : Statement (.viQcfgWrite vi value) := (by decide : (0 : Nat) < 2 ^ 32)
theorem savebaseWrite (vi : BitVec 10) (value : BitVec 64) : Statement (.savebaseWrite vi value) := (by decide : (0 : Nat) < 2 ^ 32)
theorem carInit (store : BitVec 2) (value : BitVec 64) : Statement (.carInit store value) := (by decide : (0 : Nat) < 2 ^ 32)
theorem carDirectoryClearDone (store : BitVec 2) : Statement (.carDirectoryClearDone store) := (by decide : (0 : Nat) < 2 ^ 32)
theorem carStoreEnable (store : BitVec 2) (value : BitVec 64) : Statement (.carStoreEnable store value) := (by decide : (0 : Nat) < 2 ^ 32)
theorem carStoreDisable (store : BitVec 2) (value : BitVec 64) : Statement (.carStoreDisable store value) := (by decide : (0 : Nat) < 2 ^ 32)
theorem carDisableDone (store : BitVec 2) : Statement (.carDisableDone store) := (by decide : (0 : Nat) < 2 ^ 32)
theorem crangeEnable (n : BitVec 4) (value : BitVec 32) : Statement (.crangeEnable n value) := (by decide : (0 : Nat) < 2 ^ 32)
theorem crangeDisable (n : BitVec 4) (value : BitVec 32) : Statement (.crangeDisable n value) := (by decide : (0 : Nat) < 2 ^ 32)
theorem crangeDisableDone (n : BitVec 4) : Statement (.crangeDisableDone n) := (by decide : (0 : Nat) < 2 ^ 32)
theorem stashMap (core : BitVec 9) (bank : BitVec 4) (value : BitVec 64) : Statement (.stashMap core bank value) := (by decide : (0 : Nat) < 2 ^ 32)
theorem stashUnmap (core : BitVec 9) (bank : BitVec 4) (value : BitVec 64) : Statement (.stashUnmap core bank value) := (by decide : (0 : Nat) < 2 ^ 32)
theorem stashUnmapDone (core : BitVec 9) (bank : BitVec 4) : Statement (.stashUnmapDone core bank) := (by decide : (0 : Nat) < 2 ^ 32)
theorem ccfgWrite (cl : BitVec 5) (value : BitVec 32) : Statement (.ccfgWrite cl value) := (by decide : (0 : Nat) < 2 ^ 32)
theorem barrierInit (cl : BitVec 5) (n : BitVec 4) (value : BitVec 32) : Statement (.barrierInit cl n value) := (by decide : (0 : Nat) < 2 ^ 32)
theorem coPwrWrite (core : BitVec 9) (value : BitVec 32) : Statement (.coPwrWrite core value) := (by decide : (0 : Nat) < 2 ^ 32)
theorem effChange (core : BitVec 9) : Statement (.effChange core) := (by decide : (0 : Nat) < 2 ^ 32)
theorem railRise (row : BitVec 5) : Statement (.railRise row) := (by decide : (0 : Nat) < 2 ^ 32)
theorem coreSwitchReady (core : BitVec 9) : Statement (.coreSwitchReady core) := (by decide : (0 : Nat) < 2 ^ 32)
theorem slotRemoval (row : BitVec 5) : Statement (.slotRemoval row) := (by decide : (0 : Nat) < 2 ^ 32)
theorem slotReturn (row : BitVec 5) : Statement (.slotReturn row) := (by decide : (0 : Nat) < 2 ^ 32)
theorem firmwareHeartbeat (onTime : Bool) : Statement (.firmwareHeartbeat onTime) := (by decide : (0 : Nat) < 2 ^ 32)
theorem heartbeatMissed : Statement (.heartbeatMissed) := (by decide : (0 : Nat) < 2 ^ 32)
theorem firmwareImageSwitch : Statement (.firmwareImageSwitch) := (by decide : (0 : Nat) < 2 ^ 32)
theorem thermalTrip (die : BitVec 1) : Statement (.thermalTrip die) := (by decide : (0 : Nat) < 2 ^ 32)
theorem thermalRecovery (die : BitVec 1) : Statement (.thermalRecovery die) := (by decide : (0 : Nat) < 2 ^ 32)
theorem profileSelect (value : BitVec 32) : Statement (.profileSelect value) := (by decide : (0 : Nat) < 2 ^ 32)
theorem laneShed (port : BitVec 1) (width : BitVec 2) : Statement (.laneShed port width) := (by decide : (0 : Nat) < 2 ^ 32)
theorem portDown (port : BitVec 1) : Statement (.portDown port) := (by decide : (0 : Nat) < 2 ^ 32)
theorem portUp (port : BitVec 1) (width : BitVec 2) : Statement (.portUp port width) := (by decide : (0 : Nat) < 2 ^ 32)
theorem lockInterfaceRequest : Statement (.lockInterfaceRequest) := (by decide : (0 : Nat) < 2 ^ 32)
theorem startInterfaceRequest (nonce : BitVec 256) : Statement (.startInterfaceRequest nonce) := (by decide : (0 : Nat) < 2 ^ 32)
theorem stopInterfaceRequest : Statement (.stopInterfaceRequest) := (by decide : (0 : Nat) < 2 ^ 32)
theorem lockedSetWrite (item : Nat) (value : BitVec 64) : Statement (.lockedSetWrite item value) := (by decide : (0 : Nat) < 2 ^ 32)
theorem getDeviceInterfaceReport : Statement (.getDeviceInterfaceReport) := (by decide : (0 : Nat) < 2 ^ 32)
theorem getCertificate (slot : Nat) : Statement (.getCertificate slot) := (by decide : (0 : Nat) < 2 ^ 32)
theorem scrubGo (value : BitVec 32) : Statement (.scrubGo value) := (by decide : (0 : Nat) < 2 ^ 32)
theorem pageRetire (value : BitVec 32) : Statement (.pageRetire value) := (by decide : (0 : Nat) < 2 ^ 32)
theorem scrubSweepEnd : Statement (.scrubSweepEnd) := (by decide : (0 : Nat) < 2 ^ 32)
theorem powerOnReset : Statement (.powerOnReset) := (by decide : (0 : Nat) < 2 ^ 32)
theorem registerWrite (agent : Writer) (num : BitVec 12) (value : BitVec 64) : Statement (.registerWrite agent num value) := (by decide : (0 : Nat) < 2 ^ 32)
theorem peerAccessArrival (access : PeerAccess) : Statement (.peerAccessArrival access) := (by decide : (0 : Nat) < 2 ^ 32)
theorem wakestWakeupArrival (idx : Nat) : Statement (.wakestWakeupArrival idx) := (by decide : (0 : Nat) < 2 ^ 32)
theorem preemptSaveDone (core : BitVec 9) : Statement (.preemptSaveDone core) := (by decide : (0 : Nat) < 2 ^ 32)
theorem preemptRestoreDone (core : BitVec 9) : Statement (.preemptRestoreDone core) := (by decide : (0 : Nat) < 2 ^ 32)

end Sys2Proof.Laws.Encoded
end

