-- ==== Sys2Proof/Tests/Slice0.lean ====
section
/-!
SUPPORT. Sys2Proof/Tests/Slice0.lean: tests of the model on fixed values, and, for the statements with hypotheses, states
and operands that meet them.
-/

open Sys2Proof Sys2Proof.Machine Sys2Proof.Spec

set_option Elab.async false

namespace Sys2Proof.Tests

/-! ## Helpers -/

/-- After reset, the slot of thread 0 with a word to run, in U-mode. -/
noncomputable def slot (w : Nat) : State := State.reset.withFetchWord 32 w

/-- A thread of S-mode in that slot. -/
noncomputable def slotS (w : Nat) : State := (slot w).setTh { (slot w).th with mode := .s }

/-- A thread of M-mode in that slot. -/
noncomputable def slotM (w : Nat) : State := (slot w).setTh { (slot w).th with mode := .m }

/-- A module that has been brought up, for the host (R431). -/
def up (s : State) : State := { s with module := { s.module with phase := .host } }

/-- With a scalar register, a base register, a vector register, a predicate set. -/
def setR (s : State) (r : BitVec 5) (v : Word) : State := s.setTh (s.th.setScalar r { val := v })
def setB (s : State) (b : BitVec 3) (v : DWord) : State := s.setTh (s.th.setBase b { val := v })
def setV (s : State) (n : Nat) (v : VWord) : State := s.setTh (s.th.setVec n { val := v })
def setQ (s : State) (q : BitVec 3) (v : Word) : State := s.setTh (s.th.setPred q v)

/-- What is seen of the state after one step, or after an instruction. -/
noncomputable def seen {α : Type} (s : State) (f : State → α) : Option α :=
  match step s with
  | .next t => some (f t)
  | _ => none
noncomputable def after {α : Type} (i : Instr) (s : State) (f : State → α) : Option α :=
  match exec i s with
  | .next t => some (f t)
  | _ => none

/-- A computation answers, with something that has the property. -/
def okSat {ε α : Type} (p : α → Bool) : Except ε α → Bool
  | .ok x => p x
  | .error _ => false

theorem exists_of_okSat {ε α : Type} {e : Except ε α} {p : α → Bool} (h : okSat p e = true) :
    ∃ x, e = .ok x ∧ p x = true := by
  cases e with
  | ok x => exact ⟨x, rfl, h⟩
  | error _ => cases h

theorem exists_of_any {α : Type} {o : Option α} {p : α → Bool} (h : o.any p = true) :
    ∃ x, o = some x ∧ p x = true := by
  cases o with
  | some x => exact ⟨x, rfl, h⟩
  | none => cases h


/-- A launch of one block, of one tile with two stages, and a state in which it is placed on a cluster. -/
def oneLaunch : Launch :=
  { vi := 0, signal := false, cls := 3, dep := false, depeq := false, cmp := false, wake := false, ser := false, pin := false,
    disp := false, gx := 1, gy := 1, x := 1, y := 1, stages := 2, scr := 0, barmask := 8, pcl := 0, stageTab := 0x4000, argBlock := 0x4040,
    cmpaddr := 0x4080, cmpval := 1, depval := 0, depaddr := 0x40C0, banks := 0, ready := true, entries := [0x100, 0x200], placed := 1 }
def oneBlock (cl seat : Nat) : Block := { launch := 7, number := 0, cluster := cl, seats := [seat] }
def placedOn (s : State) (cl seat : Nat) : State :=
  { s with launches := [(7, oneLaunch)], blocks := [(7 * 65536, oneBlock cl seat)] }

/-- Thread 0 with a0 and a1 given (`a0` is 8, `a1` is 9, `w0` to `w11` are 12 to 23). -/
noncomputable def two (x y : Word) : State := setR (setR (slot 0xF8000000) 8 x) 9 y

/-- A memory access fails with a fault. -/
def faults {α : Type} (p : State → Cause → Bool) : Mem α → Bool
  | .error (.fault s c _ _) => p s c
  | _ => false
theorem exists_of_faults {α : Type} {e : Mem α} {p : State → Cause → Bool} (h : faults p e = true) :
    ∃ s c va b, e = .error (.fault s c va b) ∧ p s c = true := by
  unfold faults at h
  split at h
  · exact ⟨_, _, _, _, rfl, h⟩
  · cases h

/-! ## Decoding: words written out from the formats of R166 and the codes of R171 to R182, and the spec's own words -/

theorem test_decode_integer :
    decode 0x058C4000 = some (.add 12 12 8 0 0) ∧ decode 0x050C0000 = some (.add 8 12 0 0 0) ∧
    decode 0x09800000 = some (.addi 12 0 0 0) ∧
    decode ((1 : BitVec 6) ++ (5 : BitVec 5) ++ (6 : BitVec 5) ++ (7 : BitVec 5) ++ (0b10 : BitVec 2) ++ (0x02A : BitVec 9)) =
      some (.ins 5 6 7 1 0) ∧
    decode ((1 : BitVec 6) ++ (5 : BitVec 5) ++ (6 : BitVec 5) ++ (31 : BitVec 5) ++ (0 : BitVec 2) ++ (0x00E : BitVec 9)) =
      some (.srai 5 6 31 0) ∧
    decode ((8 : BitVec 6) ++ (4 : BitVec 5) ++ (0x1FFFFF : BitVec 21)) = some (.lih 4 0x1FFFFF) := by decide +kernel

/-- R184's table of words that are no instruction, and the hints. -/
theorem test_decode_illegal :
    decode 0x00000000 = none ∧ decode 0xFFFFFFFF = none ∧ decode 0x06300220 = none ∧ decode 0x04000006 = none ∧
    decode 0x89A00000 = none ∧ decode 0xA24E2672 = none ∧ decode 0xF8000000 = some (.nop 0) := by decide +kernel

/-- Which of them has an instruction's code (R183, R184). -/
theorem test_names :
    names 0x00000000 = false ∧ names 0xFFFFFFFF = false ∧ names 0x04000006 = false ∧ names 0x06300220 = true ∧
    names 0x89A00000 = true := by decide +kernel

theorem test_decode_control :
    decode 0x61000003 = some (.beq 8 0 3) ∧ decode 0x65001FFF = some (.loop 8 0x1FFF) ∧ decode 0x70000002 = some .ret ∧
    decode 0x6FFFFFF0 = some (.call 0x3FFFFF0) ∧ decode 0x72421803 = some (.callat 18 2 3 0 0) ∧
    decode ((0x18 : BitVec 6) ++ (9 : BitVec 5) ++ (31 : BitVec 5) ++ (7 : BitVec 3) ++ (0x1000 : BitVec 13)) =
      some (.bbc 9 31 0x1000) := by decide +kernel

/-- LOOP's counter is neither `z` nor a port (R207); the code is LOOP's all the same. -/
theorem test_loop_registers :
    decode 0x64001FFF = none ∧ names 0x64001FFF = true ∧
    decode ((0x19 : BitVec 6) ++ (27 : BitVec 5) ++ (0 : BitVec 8) ++ (1 : BitVec 13)) = none := by decide +kernel

theorem test_decode_constants_and_bases :
    decode 0x29E0400C = some (.addc 15 0 1 12) ∧ decode 0x4C4C6800 = some (.bset 2 12 13 0 0) ∧
    decode ((0x12 : BitVec 6) ++ (15 : BitVec 5) ++ (3 : BitVec 5) ++ (2 : BitVec 2) ++ (0x3FFF : BitVec 14)) =
      some (.sltc 15 3 2 0x3FFF) ∧
    decode ((0x14 : BitVec 6) ++ (2 : BitVec 5) ++ (3 : BitVec 5) ++ (0 : BitVec 1) ++ (0x7FFF : BitVec 15)) =
      some (.baddi 2 3 0 0x7FFF) := by decide +kernel

theorem test_decode_float :
    decode ((0x2C : BitVec 6) ++ (15 : BitVec 5) ++ (12 : BitVec 5) ++ (13 : BitVec 5) ++ (0 : BitVec 2) ++ (3 : BitVec 9)) =
      some (.fma 15 12 13 0 0) ∧
    decode ((0x2C : BitVec 6) ++ (15 : BitVec 5) ++ (12 : BitVec 5) ++ (0 : BitVec 7) ++ (1 : BitVec 1) ++ (4 : BitVec 3) ++
      (0x0C : BitVec 5)) = some (.fcvti 15 12 0 1 4) := by decide +kernel

theorem test_decode_memory :
    decode 0x95802010 = some (.sw 12 0 1 0 16) ∧ decode 0x85E02010 = some (.lw 15 0 1 0 16) ∧
    decode 0x86034002 = some (.lw 16 3 2 0 2) ∧
    decode ((0x27 : BitVec 6) ++ (14 : BitVec 5) ++ (3 : BitVec 5) ++ (1 : BitVec 3) ++ (0 : BitVec 2) ++ (3 : BitVec 3) ++
      (1 : BitVec 2) ++ (2 : BitVec 2) ++ (5 : BitVec 4)) = some (.lda 14 3 1 0 3 1 2 5) ∧
    decode ((0x2B : BitVec 6) ++ (0 : BitVec 10) ++ (2 : BitVec 3) ++ (0 : BitVec 1) ++ (3 : BitVec 2) ++ (2 : BitVec 10)) =
      some (.czero 0 2 0 2) := by decide +kernel

theorem test_decode_atomics :
    decode 0xA24E2070 = some (.amoadd 18 14 1 0 3 2 0) ∧ decode 0xA24E2072 = some (.redadd 18 14 1 0 3 2 0) ∧
    decode 0xA24E2978 = some (.amocas 18 14 1 0 3 3 0) ∧
    decode ((0x29 : BitVec 6) ++ (14 : BitVec 5) ++ (3 : BitVec 5) ++ (1 : BitVec 3) ++ (0 : BitVec 1) ++ (2 : BitVec 3) ++
      (2 : BitVec 3) ++ (1 : BitVec 2) ++ (15 : BitVec 4)) = some (.ldff 14 3 1 0 2 1 15) ∧
    decode 0xAA0340C2 = some (.lrw 16 3 2 0 3 0 2) := by decide +kernel

theorem test_decode_vector :
    decode 0xBC304200 = some (.vaddI32 3 1 2 0) ∧ decode 0xB820CC0D = some (.vsatI16 2 3 12 0) ∧
    decode 0xC8810543 = some (.vfmaF32 8 4 5 2) ∧ decode 0xC8110512 = some (.vcmpLtF32 1 4 5 0) ∧
    decode 0xCC201E02 = some (.vbcastI32 2 15 0) ∧ decode 0xCC026206 = some (.vextI32 0 9 17) ∧
    decode ((0x34 : BitVec 6) ++ (2 : BitVec 6) ++ (3 : BitVec 6) ++ (0 : BitVec 2) ++ (1 : BitVec 3) ++ (4 : BitVec 3) ++
      (5 : BitVec 3) ++ (2 : BitVec 3)) = some (.vcvt 2 3 1 4 5 2) ∧
    decode ((0x35 : BitVec 6) ++ (4 : BitVec 6) ++ (3 : BitVec 3) ++ (6 : BitVec 5) ++ (2 : BitVec 3) ++ (4 : BitVec 3) ++
      (0x3F : BitVec 6)) = some (.vgath 4 3 6 2 0x3F) := by decide +kernel

theorem test_decode_engines :
    decode ((0x36 : BitVec 6) ++ (1 : BitVec 2) ++ (0 : BitVec 9) ++ (0 : BitVec 5) ++ (12 : BitVec 5) ++ (13 : BitVec 5)) =
      some (.lease 1 12 13) ∧
    decode ((0x37 : BitVec 6) ++ (2 : BitVec 2) ++ (5 : BitVec 9) ++ (0 : BitVec 5) ++ (16 : BitVec 5) ++ (17 : BitVec 5)) =
      some (.mdrain 2 16 17) ∧
    decode ((0x37 : BitVec 6) ++ (3 : BitVec 2) ++ (0x0C1 : BitVec 9) ++ (0 : BitVec 15)) = some (.hingest 3) := by decide +kernel

theorem test_decode_copies_and_messages :
    decode ((0x38 : BitVec 6) ++ (0 : BitVec 5) ++ (12 : BitVec 5) ++ (0 : BitVec 7) ++ (1 : BitVec 3) ++ (2 : BitVec 3) ++
      (0 : BitVec 3)) = some (.copy 12 0 1 2) ∧
    decode ((0x39 : BitVec 6) ++ (0 : BitVec 6) ++ (6 : BitVec 6) ++ (14 : BitVec 5) ++ (0 : BitVec 3) ++ (1 : BitVec 6)) =
      some (.clkn 6 14) ∧
    decode ((0x3A : BitVec 6) ++ (0 : BitVec 17) ++ (9 : BitVec 9)) = some .texit ∧
    decode ((0x3B : BitVec 6) ++ (0 : BitVec 5) ++ (12 : BitVec 5) ++ (13 : BitVec 5) ++ (0 : BitVec 2) ++ (3 : BitVec 3) ++
      (2 : BitVec 2) ++ (0 : BitVec 4)) = some (.arrive 12 13 0 0 3 2) := by decide +kernel

theorem test_decode_system :
    decode 0xF1E00035 = some (.sysrd 15 0x003) ∧ decode 0xF00C0606 = some (.syswr 12 0x060) ∧
    decode 0xF00C400A = some (.tlbinvPg 12 2) ∧ decode 0xF0000009 = some .halt ∧ decode 0xF4000001 = some .sdrain ∧
    decode 0xF6604506 = some (.ptest 19 1 5) ∧
    decode ((0x3D : BitVec 6) ++ (0 : BitVec 10) ++ (1 : BitVec 4) ++ (3 : BitVec 3) ++ (0 : BitVec 9)) = some (.fence 1 3) := by
  decide +kernel

/-- decodeTableWord reads the one word an instruction has. -/
theorem test_table_word : decodeTableWord 32 0x058C4000 = some (.add 12 12 8 0 0) := by decide +kernel

/-! ## Well-formedness: for each check a term that it refuses (R167 to R182) -/

theorem test_wf_registers :
    (Instr.ldp 15 0 1 0 0).wf = false ∧ (Instr.ldp 24 0 1 0 0).wf = false ∧ (Instr.ldp 0 0 1 0 0).wf = false ∧
    (Instr.ldp 14 0 1 0 0).wf = true ∧ (Instr.lw 24 0 1 0 0).wf = false ∧ (Instr.loop 0 1).wf = false ∧ (Instr.loop 25 1).wf = false ∧
    (Instr.cref 13).wf = false ∧ (Instr.clkl 7 14).wf = false ∧ (Instr.cnld 5 14).wf = false ∧ (Instr.copy 13 0 1 2).wf = false ∧
    (Instr.copy 24 0 1 2).wf = false ∧ (Instr.cswap 12 0 1 0 3 0).wf = false ∧ (Instr.amocas 14 0 1 0 3 0 1).wf = false ∧
    (Instr.amocas 13 0 1 0 3 0 0).wf = false ∧ (Instr.rput 24 0 0).wf = false := by decide +kernel

theorem test_wf_codes :
    (Instr.lda 14 0 1 0 5 0 2 0).wf = false ∧ (Instr.lda 14 0 1 0 3 2 2 0).wf = false ∧ (Instr.lda 15 0 1 0 3 0 3 0).wf = false ∧
    (Instr.stl 14 0 1 0 3 1 2 0).wf = false ∧ (Instr.redadd 14 0 1 0 3 1 0).wf = false ∧ (Instr.lrw 14 0 1 0 1 0 0).wf = false ∧
    (Instr.fcvti 15 12 0 0 5).wf = false ∧ (Instr.fence 0 3).wf = false ∧ (Instr.fence 1 6).wf = false ∧
    (Instr.pclr 0 0).wf = false ∧ (Instr.pclr 2 8).wf = false ∧ (Instr.pclr 3 1).wf = false ∧ (Instr.ptest 25 1 5).wf = false ∧
    (Instr.arrive 12 13 0 0 3 1).wf = false ∧ (Instr.arrive 12 13 0 0 1 0).wf = false := by decide +kernel

theorem test_wf_numbers :
    (Instr.vextI32 8 1 12).wf = false ∧ (Instr.vextI16 16 1 12).wf = false ∧ (Instr.vsatI8 1 2 9 0).wf = false ∧
    (Instr.vsatI8 1 2 0 0).wf = false ∧ (Instr.vcvt 2 3 0 0 2 3).wf = false ∧ (Instr.vpack 2 3 0 0 0 2).wf = false ∧
    (Instr.vunpk 3 4 0 0 2 1).wf = false ∧ (Instr.lstat 0 12 2).wf = false ∧ (Instr.cwait 17).wf = false ∧
    (Instr.lrw 14 0 1 0 3 1 0).wf = false := by decide +kernel

/-! ## Instructions: results by hand from the rules, and the spec's own examples -/

theorem test_add_wraps : after (.add 12 8 9 0 0) (two 0xFFFFFFFF 2) (fun t => (t.th.scalar 12).val) = some 1 := by decide +kernel
theorem test_add_source_is_destination :
    after (.add 8 8 8 0 0) (two 7 2) (fun t => ((t.th.scalar 8).val, t.th.pc)) = some (14, 4) := by decide +kernel
theorem test_sra_amount : after (.sra 12 8 9 0 0) (two 0x80000000 33) (fun t => (t.th.scalar 12).val) = some 0xC0000000 := by
  decide +kernel
theorem test_mulh_signed : after (.mulh 12 8 9 0 0) (two 0xFFFFFFFF 2) (fun t => (t.th.scalar 12).val) = some 0xFFFFFFFF := by
  decide +kernel
theorem test_div_by_zero : after (.div 12 8 9 0 0) (two 5 0) (fun t => (t.th.scalar 12).val) = some 0xFFFFFFFF := by decide +kernel
theorem test_div_overflow : after (.div 12 8 9 0 0) (two 0x80000000 0xFFFFFFFF) (fun t => (t.th.scalar 12).val) = some 0x80000000 := by
  decide +kernel
/-- The example of R216: bits [11:0] of 0x2FF9 as a signed number, and its remainder by 2. -/
theorem test_exts : after (.exts 12 8 9 0 0) (two 0x2FF9 0x0C00) (fun t => (t.th.scalar 12).val) = some 0xFFFFFFF9 := by decide +kernel
theorem test_rem_sign : after (.rem 12 8 9 0 0) (two 0xFFFFFFF9 2) (fun t => (t.th.scalar 12).val) = some 0xFFFFFFFF := by decide +kernel
/-- A field cut at bit 31 (R200). -/
theorem test_ins_cut : after (.ins 12 8 9 0 0) (setR (two 0xFF 0x081C) 12 0xAAAAAAAA) (fun t => (t.th.scalar 12).val) = some 0xFAAAAAAA := by
  decide +kernel
theorem test_z_discards : after (.add 0 8 9 0 0) (two 1 2) (fun t => ((t.th.scalar 0).val, t.th.pc)) = some (0, 4) := by decide +kernel
theorem test_consume_bit :
    after (.add 12 8 9 1 0) (two 1 2) (fun t => (t.th.scalar 12).val) = some 3 := by decide +kernel
theorem test_empty_source_stalls :
    after (.add 12 8 9 0 0) ((two 1 2).setTh ((two 1 2).th.setScalar 9 { full := false })) (fun t => (t.th.pc, t.th.stalled)) =
      some (0, true) := by decide +kernel

/-- Two reads of a port take two words, in order (R107). -/
theorem test_port_order :
    after (.sub 12 25 25 0 0) ((slot 0).setCore 0 { (slot 0).core 0 with ports := [(1, [9, 4, 1])] })
      (fun t => ((t.th.scalar 12).val, (t.core 0).fifo 25)) = some (5, [1]) := by decide +kernel

theorem test_addpc : after (.addpc 12 0x1FFFFF) (slot 0) (fun t => (t.th.scalar 12).val) = some 0xFFFFFFFC := by decide +kernel
theorem test_loop_wraps : after (.loop 8 5) (two 0 0) (fun t => ((t.th.scalar 8).val, t.th.pc)) = some (0xFFFFFFFF, 20) := by
  decide +kernel
theorem test_blt_signed : after (.blt 8 9 0x1FFF) (two 0x80000000 1) (fun t => t.th.pc) = some 0xFFFFFFFFFFFFFFFC := by decide +kernel

/-- A call's `a0` is the caller's `k0` (R97), and the return brings it back. -/
theorem test_call_rotates :
    after (.call 8) (setR (slot 0) 28 7) (fun t => ((t.th.scalar 8).val, t.th.pc, (topFrame t.th).retPc)) = some (7, 32, 4) := by
  decide +kernel
/-- The example of R101: with 25 images at 0x1800 of slot 3 no 26th fits. -/
theorem test_call_overflow :
    after (.call 8) ((slot 0).setTh { (slot 0).th with resident := 4, wsbase := 0x1800, wsptr := 0x1FD0, wslim := 0x2000, tval := 1 })
      (fun t => (t.th.cause.toNat % 64, t.th.tval, t.th.mode)) = some (6, 0x1FD0, .s) := by decide +kernel

theorem test_fadd : after (.fadd 12 8 9 0 0) (two 0x3F800000 0x3F800000) (fun t => (t.th.scalar 12).val) = some 0x40000000 := by
  decide +kernel
/-- The example of R216: −7 / 2 = −3.5. -/
theorem test_fdiv : after (.fdiv 12 8 9 0 0) (two 0xC0E00000 0x40000000) (fun t => ((t.th.scalar 12).val, t.th.fflags)) =
    some (0xC0600000, 0) := by decide +kernel
theorem test_fsqrt_negative : after (.fsqrt 12 8 0) (two 0xBF800000 0) (fun t => (t.th.scalar 12).val) = some 0x7FC00000 := by decide +kernel

/-- x = −1,000 in RN16 (R123's example), and a reserved code. -/
theorem test_residue :
    (encodeElem 21 0 false (.ofInt (-1000))).1 = 0x5F17 ∧ (decodeElem 21 0x5F17).1 = .ofInt (-1000) ∧
    (decodeElem 21 0xFF17).2.rcode = true := by decide +kernel
/-- The scale byte 0x7A of R127's example. -/
theorem test_scaled_block :
    (encodeElem 11 0 false (decodeBlockElem 25 (0x7A * 2 ^ 256 + 0x4C) 0).1).1 = 0x40900000 ∧
    (encodeElem 11 0 false (decodeBlockElem 25 (0x7A * 2 ^ 256 + 0x03) 0).1).1 = 0x3B900000 ∧
    (encodeElem 11 0 false (decodeBlockElem 25 (0x7A * 2 ^ 256 + 0xCC) 0).1).1 = 0xC0900000 ∧
    (encodeElem 11 0 false (decodeBlockElem 25 0xCC 0).1).1 = 0x80000000 := by decide +kernel
/-- R145's example: 2^30, 1, −2^30, 2^−24 drain to 1 to nearest, to the next code toward +∞. -/
theorem test_exact_sum :
    ((({} : Acc).addBlock 345 [some (.ofInt (2 ^ 30)), some (.ofInt 1), some (.ofInt (-2 ^ 30)), some (.fin false 1 (-24) false)]).1.drain
      11 0 false).1 = 0x3F800000 ∧
    ((({} : Acc).addBlock 345 [some (.ofInt (2 ^ 30)), some (.ofInt 1), some (.ofInt (-2 ^ 30)), some (.fin false 1 (-24) false)]).1.drain
      11 3 false).1 = 0x3F800001 := by decide +kernel

/-- A store enters the buffer; its drain writes the bytes, the lowest first. -/
theorem test_sw_drain :
    after (.sw 8 0 1 0 16) (setB (two 0x11223344 0) 1 0x1000)
      (fun t => ((t.core 0).buffer.map (fun e => (e.va, e.n)), (t.core 0).buffer.length, memByte t.mem (localKey 0 0x1040))) =
      some ([(0x1040, 4)], 1, 0) ∧
    (match exec (.sw 8 0 1 0 16) (setB (two 0x11223344 0) 1 0x1000) with
      | .next t => after (.storeDrain 0) t (fun u => ((u.core 0).buffer.length, memByte u.mem (localKey 0 0x1040), memByte u.mem (localKey 0 0x1043)))
      | _ => none) = some (0, 0x44, 0x11) := by decide +kernel
theorem test_lb_sign :
    after (.lb 12 0 1 0 3) (setB { slot 0 with mem := memPutNat [] (localKey 0 0x1000) 4 0x80000000 } 1 0x1000)
      (fun t => (t.th.producers.map (fun p => p.landings.map (fun l => l.value)), (t.th.scalar 12).full)) =
      some ([[0xFFFFFF80]], false) := by decide +kernel
theorem test_lw_misaligned :
    after (.lw 12 0 1 0 0) (setB (slot 0) 1 0x1002) (fun t => (t.th.cause.toNat % 64, t.th.tval)) = some (0x13, 0x1002) := by
  decide +kernel
theorem test_amoadd :
    after (.amoadd 8 0 1 0 2 0 0) (setB { two 5 0 with mem := memPutNat [] (localKey 0 0x1000) 4 0xFFFFFFFF } 1 0x1000)
      (fun t => (memNat t.mem (localKey 0 0x1000) 4, t.th.producers.map (fun p => p.landings.map (fun l => l.value)))) =
      some (4, [[0xFFFFFFFF]]) := by decide +kernel
/-- LDFE leaves its word empty; on an empty word it waits (R228, R229). -/
theorem test_ldfe :
    after (.ldfe 12 0 1 0 2 0 0) (setB (slot 0) 1 0x1000) (fun t => t.empty) = some [localKey 0 0x1000 / 4] ∧
    after (.ldfe 12 0 1 0 2 0 0) (setB { slot 0 with empty := [localKey 0 0x1000 / 4] } 1 0x1000)
      (fun t => (t.th.pc, t.th.stalled)) = some (0, true) := by decide +kernel
/-- An unbound window (R103). -/
theorem test_constant_window :
    after (.addc 12 8 3 1) (two 1 0) (fun t => (t.th.cause.toNat % 64, t.th.tval)) = some (8, 3) ∧
    after (.addc 12 8 3 1) ((two 1 0).setTh { (two 1 0).th with cwsize := [(3, 0x80000004)] })
      (fun t => ((t.th.scalar 12).val, t.th.cwoob)) = some (1, true) := by decide +kernel
theorem test_presence :
    after (.pclr 0 8) (two 1 0) (fun t => (t.th.scalar 8).full) = some false ∧
    after (.pwait 0 8) ((two 1 0).setTh ((two 1 0).th.setScalar 8 { full := false })) (fun t => t.th.stalled) = some true := by
  decide +kernel

/-- Lanes wrap by themselves, and an inactive lane keeps its value (R245). -/
theorem test_vadd_lanes :
    after (.vaddI8 1 2 3 1) (setQ (setV (setV (setV (slot 0) 1 0x7777) 2 0xFFFF) 3 0x0102) 1 1)
      (fun t => (t.th.vecReg 1).val) = some 0x7701 := by decide +kernel
/-- The sum of R250's example. -/
theorem test_vrfadd_tree :
    after (.vrfaddF32 9 4 1) (setQ (setV (slot 0) 4 0x3F8000003F8000003F8000003F800000C10000003F8000003F8000004B800000) 1 0xF7)
      (fun t => ((t.th.vecReg 9).val, t.th.fflags.getLsbD 0)) = some (0x4B800002, true) := by decide +kernel
theorem test_vcmp : after (.vcmpLtI8 1 2 3 0) (setV (setV (slot 0) 2 0xFF) 3 0x0100) (fun t => t.th.predReg 1) = some 3 := by
  decide +kernel
theorem test_vext_sign : after (.vextI8 1 2 12) (setV (slot 0) 2 0x8000) (fun t => (t.th.scalar 12).val) = some 0xFFFFFF80 := by
  decide +kernel

/-- SVC goes on after itself at VI_TVEC in S-mode (R313, R377); XRET returns in the mode of TH_CAUSE. -/
theorem test_svc :
    after (.svc 9) ((slot 0).setVi 0 { (slot 0).viOf 0 with tvec := 0x4000 })
      (fun t => (t.th.pc, t.th.epc, t.th.mode, t.th.cause)) = some (0x4000, 4, .s, 0x9004) := by decide +kernel
theorem test_xret :
    after .xret ((slotS 0).setTh { (slotS 0).th with epc := 0x44, cause := 0x20000000 }) (fun t => (t.th.pc, t.th.mode, t.th.plen)) =
      some (0x44, .u, true) := by decide +kernel
theorem test_mcall_user : after (.mcall 1) (slot 0xF0000011) (fun t => t.th.cause.toNat % 64) = some 1 := by decide +kernel
theorem test_halt : after .halt (slotS 0) (fun t => (t.th.halted, t.th.pc)) = some (true, 4) := by decide +kernel
theorem test_sysrd : after (.sysrd 12 0x060) (slot 0) (fun t => (t.th.scalar 12).val) = some 0x040010 := by decide +kernel
theorem test_sysset_read_only :
    after (.sysset 12 8 0x100) (setR (slotM 0) 8 1) (fun t => ((t.core 0).mncause.map (fun p => p.2.toNat % 64))) = some [2] := by
  decide +kernel

theorem test_fence : after (.fence 1 2) (slot 0) (fun t => t.th.pc) = some 4 := by decide +kernel
theorem test_lstat : after (.lstat 1 12 0) (slot 0) (fun t => (t.th.scalar 12).val) = some 0 := by decide +kernel
theorem test_ecfg : after (.ecfg 1 8 3) (two 77 0) (fun t => lookD (myLease t 1).ec 3 0) = some 77 := by decide +kernel
theorem test_cseal : after (.cseal 12) (slot 0) (fun t => ((t.th.scalar 12).val, t.th.openBatch.number)) = some (0, 1) := by
  decide +kernel
theorem test_recvp_empty : after (.recvp 1 12) (slot 0) (fun t => (t.th.scalar 12).val) = some 0xFFFFFFFF := by decide +kernel
theorem test_cref_null : after (.cref 14) ((slot 0).setVi 0 { (slot 0).viOf 0 with carperm := 2 }) (fun t => t.th.cause.toNat % 64) =
    some 0x11 := by decide +kernel

/-- R311's first run: B's expectation, then its arrival in the later cycle, then A's arrival with credit 4,096 in a cycle of
its own complete phase 5. -/
noncomputable def barrier3 (b : Barrier) : State :=
  (placedOn (slot 0) 22 2763).setCluster 22 { (slot 0).cluster 22 with barriers := [(3, { b with owner := some (7 * 65536) })] }
theorem test_barrier_completes :
    after (.barrierCycle 22 3) (barrier3 { count := 2, phase := 5, arr := 1, bal := 4096, arrivals := [⟨0, 0, 0x8003, 4096⟩] })
      (fun t => ((barrierAt t 22 3).phase, (barrierAt t 22 3).arr, (barrierAt t 22 3).bal)) = some (6, 0, 0) := by decide +kernel
/-- R311's second run: an expectation of the completing cycle counts in the next phase. -/
theorem test_barrier_late_expect :
    after (.barrierCycle 22 3) (barrier3 { count := 2, phase := 5, arr := 1, bal := 0, arrivals := [⟨0, 0, 0x8003, 0⟩], expects := [(0, 4096)] })
      (fun t => ((barrierAt t 22 3).phase, (barrierAt t 22 3).arr, (barrierAt t 22 3).bal)) = some (6, 0, 4096) := by decide +kernel

/-! ## Events -/

theorem test_event_not_enabled : (match exec (.producerArrival 0 0) (slot 0) with
    | .fault (.notEnabled e) => e == "PRODUCER_ARRIVAL"
    | _ => false) = true := by decide +kernel
theorem test_clock : after .clockAgeing (slot 0) (fun t => (t.core 511).clock) = some 1 := by decide +kernel
theorem test_host_write :
    after (.hostWrite 0x4000 [1, 2]) (up (slot 0)) (fun t => (memByte t.mem 0x4001, t.bridge.refusedHost)) = some (2, false) := by decide +kernel
theorem test_profile : after (.profileSelect 1) (up (slot 0)) (fun t => t.module.limit) = some 320 := by decide +kernel
theorem test_heartbeat_missed :
    after .heartbeatMissed (up { slot 0 with pitch := 250001 }) (fun t => (t.module.capo, t.module.limit)) = some (true, 128) := by decide +kernel
theorem test_thermal : after (.thermalTrip 1) (slot 0) (fun t => t.module.trip) = some 2 := by decide +kernel
theorem test_port_down : after (.portDown 1) { slot 0 with module := { (slot 0).module with width := [(1, 0)] } }
    (fun t => portWidth t.module 1) = some 3 := by decide +kernel

/-! ## Steps -/

/-- The first instruction after reset: fetched from the local store and run. -/
theorem test_step_addi : seen (setR (slot 0x09840007) 4 3) (fun t => ((t.th.scalar 12).val, t.th.pc, t.th.ir)) =
    some (10, 4, 0x09840007) := by decide +kernel
/-- A word that is no instruction traps with its word (R183). -/
theorem test_step_illegal : seen (slot 0x04000006) (fun t => (t.th.cause.toNat % 64, t.th.tval, t.th.mode, t.th.epc)) =
    some (0, 0x04000006, .s, 0) := by decide +kernel

/-! ## Witnesses: states and operands that meet the hypotheses of the statements, clause by clause -/

/-- Base register `b1` at 0x1000 of core 0's local store, `a0` and `a1` 5 and 3. -/
noncomputable def based : State := setB (two 5 3) 1 0x1000

/-- The port `pe` of core 0 holding two words. -/
noncomputable def ported : State := (two 5 3).setCore 0 { (two 5 3).core 0 with ports := [(1, [9, 4])] }

theorem addressed_based (imm : Int) : Addressed based 0 1 imm (0x1000 + BitVec.ofInt 64 imm) :=
  ⟨0, 0x1000, by unfold Source; decide +kernel, by unfold BaseSource; decide +kernel, by
    rw [BitVec.add_assoc]; simp⟩

/-- `b1` at `v`, with any other state of thread 0. -/
theorem addressed_of (s : State) (v : DWord) (imm : Int) (h : (s.th.baseReg 1).full = true ∧ (s.th.baseReg 1).val = v) :
    Addressed s 0 1 imm (v + BitVec.ofInt 64 imm) :=
  ⟨0, v, by unfold Source; simp, by unfold BaseSource; simpa using h, by simp⟩

theorem witness_IntegerResults :
    (Source (two 5 3) 8 0 5 ∧ Source (two 5 3) 9 (sameBefore 8 9) 3 ∧ Accepts (two 5 3) 12 ∧ Accepts (two 5 3) 0 ∧ Source (two 5 3) 0 0 0) ∧
    (Source ported 25 0 9 ∧ Source ported 25 (sameBefore 25 25) 4 ∧ Accepts ported 25) := by
  unfold Source Accepts; refine ⟨by decide +kernel, by decide +kernel, by decide +kernel, ?_⟩
  exact ⟨1, by decide +kernel⟩

theorem witness_DivisionResults :
    Source (two 0x80000000 0xFFFFFFFF) 8 0 0x80000000 ∧ Source (two 0x80000000 0xFFFFFFFF) 9 (sameBefore 8 9) 0xFFFFFFFF ∧
    Accepts (two 0x80000000 0xFFFFFFFF) 12 ∧ Source (two 5 0) 8 0 5 ∧ Source (two 5 0) 9 0 0 ∧ Accepts (two 5 0) 12 := by
  unfold Source Accepts; decide +kernel

/-- INS with its destination full, and empty without and with PTRAP. -/
noncomputable def emptied (p : Bool) : State := (two 5 3).setTh { (two 5 3).th.setScalar 12 { full := false } with ptrap := p }
theorem witness_FieldResults :
    (Source (two 0xFF 0x081C) 8 0 0xFF ∧ Source (two 0xFF 0x081C) 9 (sameBefore 8 9) 0x081C ∧
      Source (two 0xFF 0x081C) 12 (sameBefore 8 12 + sameBefore 9 12) 0 ∧ Accepts (two 0xFF 0x081C) 12) ∧
    ∀ p, Source (emptied p) 8 0 5 ∧ Source (emptied p) 9 (sameBefore 8 9) 3 ∧ ((emptied p).th.scalar 12).full = false ∧
      (emptied p).th.ptrap = p := by
  unfold Source Accepts; decide +kernel

theorem witness_MovesAndBases :
    (Source (two 5 0) 8 0 5 ∧ Source (two 5 0) 9 (sameBefore 8 9) 0) ∧
    (Source (two 5 1) 8 0 5 ∧ Source (two 5 1) 9 (sameBefore 8 9) 1 ∧ Accepts (two 5 1) 12) ∧
    BaseAccepts based 2 ∧ BaseAccepts based 0 ∧ BaseSource based 1 0x1000 ∧ BaseSource based 0 0 := by
  unfold Source Accepts BaseAccepts BaseSource; decide +kernel

theorem witness_UpperImmediates : Accepts (two 5 3) 12 ∧ Accepts (two 5 3) 0 ∧ BaseAccepts based 2 ∧ BaseAccepts based 0 := by
  unfold Accepts BaseAccepts; decide +kernel

theorem witness_HintWords : (slot 0).th.mode = .u ∧ (slot 0).th.ir = 0 := by decide +kernel

theorem witness_BranchesAndJumps :
    Source (two 5 3) 8 0 5 ∧ Source (two 5 3) 9 (sameBefore 8 9) 3 ∧
    (BaseSource based 1 0x1000 ∧ (0x1000 : DWord).toNat % 4 = 0) ∧
    (BaseSource (setB based 2 0x1002) 2 0x1002 ∧ (0x1002 : DWord).toNat % 4 ≠ 0) := by
  unfold Source BaseSource; decide +kernel

theorem witness_LoopCounts :
    (8 : BitVec 5) ≠ 0 ∧ isPort 8 = false ∧ Source (two 0 3) 8 0 0 ∧ Accepts (two 0 3) 8 ∧ isPort 23 = false ∧ isPort 24 = true ∧
    isPort 27 = true ∧ isPort 28 = false := by
  unfold Source Accepts; decide +kernel

/-- Thread 0 with some resident frames and a window stack from 0x0 to 0x800 that holds some images. -/
noncomputable def framed (resident : Nat) (images : BitVec 15) : State :=
  (slot 0).setTh { (slot 0).th with resident := resident, wsptr := images * 80 }
/-- Four frames resident, a producer under way to the oldest; and the limits of the window stack out of order. -/
noncomputable def oldestBusy : State :=
  (framed 4 24).setTh { (framed 4 24).th with scal := [(16 * (oldestPos (framed 4 24).th).toNat + 5, { full := false, busy := true })] }
noncomputable def badLimits : State := (framed 1 1).setTh { (framed 1 1).th with wslim := 0 }
noncomputable def badImage : State :=
  { framed 1 1 with bridge := { (framed 1 1).bridge with poisoned := [bank14Key 0 0 / 64] } }
theorem witness_WindowRotations :
    ((framed 3 0).th.inpl = false ∧ (framed 3 0).th.resident < 4 ∧ BaseSource (setB (framed 3 0) 1 0x100) 1 0x100) ∧
    ((framed 4 24).th.inpl = false ∧ 4 ≤ (framed 4 24).th.resident ∧ spillFits (framed 4 24).th = true ∧
      frameBusy (framed 4 24).th (oldestPos (framed 4 24).th) = false ∧ spillFits (framed 4 25).th = false) ∧
    ((topFrame (framed 2 0).th).kind ≠ 3 ∧ 1 < (framed 2 0).th.resident ∧ frameBusy (framed 2 0).th (framed 2 0).th.cwp = false ∧
      (∀ i < 4, (lookD (framed 2 0).th.scal (16 * ((framed 2 0).th.cwp + 1).toNat + i) {}).busy = false)) ∧
    ((topFrame (framed 1 0).th).kind ≠ 3 ∧ (framed 1 0).th.resident ≤ 1 ∧ spilledExist (framed 1 0).th = false) ∧
    ((topFrame (framed 1 1).th).kind ≠ 3 ∧ frameBusy (framed 1 1).th (framed 1 1).th.cwp = false ∧
      (∀ i < 4, (lookD (framed 1 1).th.scal (16 * ((framed 1 1).th.cwp + 1).toNat + i) {}).busy = false) ∧
      (framed 1 1).th.resident = 1 ∧ spilledExist (framed 1 1).th = true ∧ windowBad (framed 1 1).th = false ∧
      frameBad (framed 1 1) (framed 1 1).cur = false ∧ frameBad badImage badImage.cur = true) ∧
    ((topFrame ((framed 1 1).setTh { (framed 1 1).th with frames := [(0, { retPc := 0, kind := 3 })] }).th).kind = 3 ∧
      ((framed 1 1).setTh { (framed 1 1).th with inpl := true }).th.inpl = true) ∧
    ((topFrame badLimits.th).kind ≠ 3 ∧ frameBusy badLimits.th badLimits.th.cwp = false ∧
      (∀ i < 4, (lookD badLimits.th.scal (16 * (badLimits.th.cwp + 1).toNat + i) {}).busy = false) ∧
      badLimits.th.resident = 1 ∧ spilledExist badLimits.th = true ∧ windowBad badLimits.th = true) ∧
    (oldestBusy.th.inpl = false ∧ 4 ≤ oldestBusy.th.resident ∧ spillFits oldestBusy.th = true ∧
      frameBusy oldestBusy.th (oldestPos oldestBusy.th) = true) ∧
    (((framed 4 24).thread (0 : BitVec 12).toNat).present = true ∧ ((framed 4 24).thread (0 : BitVec 12).toNat).resident = 4 ∧
      hasBubbles (framed 4 24) (coreOf (0 : BitVec 12).toNat) = true) ∧
    (((framed 1 1).thread (0 : BitVec 12).toNat).resident = 1 ∧ windowBad ((framed 1 1).thread (0 : BitVec 12).toNat) = false ∧
      hasBubbles (framed 1 1) (coreOf (0 : BitVec 12).toNat) = true ∧ frameBad (framed 1 1) (0 : BitVec 12).toNat = false ∧
      spilledExist ((framed 1 1).thread (0 : BitVec 12).toNat) = true) := by
  unfold BaseSource; decide +kernel

theorem witness_FloatResults :
    Source (two 0x3F800000 0x40000000) 8 0 0x3F800000 ∧ Source (two 0x3F800000 0x40000000) 9 (sameBefore 8 9) 0x40000000 ∧
    Source (two 0x3F800000 0x40000000) 12 (sameBefore 8 12 + sameBefore 9 12) 0 ∧ Accepts (two 0x3F800000 0x40000000) 12 := by
  unfold Source Accepts; decide +kernel

theorem witness_LoadResults :
    (Addressed based 0 1 (16 * 4) 0x1040 ∧ (0x1040 : DWord).toNat % 4 = 0 ∧ Unawaited based (destRefs based 12 false) ∧
      ∃ x, loadBytes based (me based) 0x1040 4 2 = .ok x ∧ (destRefs x.1 12 false).all (fun r => !refBusy x.1.th r) = true) ∧
    (Unawaited based [.base 2] ∧ (0x1040 : DWord).toNat % 8 = 0 ∧
      ∃ x, loadBytes based (me based) 0x1040 8 2 = .ok x ∧ (!refBusy x.1.th (.base 2)) = true) ∧
    (Addressed based 0 1 ((15 : BitVec 4).toNat * 2 ^ (2 : BitVec 2).toNat) 0x103C ∧
      ∃ x, loadBytes based (me based) 0x103C (2 ^ (2 : BitVec 2).toNat) (3 : BitVec 3).toNat = .ok x ∧
        (destRefs x.1 12 false).all (fun r => !refBusy x.1.th r) = true) := by
  refine ⟨⟨addressed_based 64, by decide, ?_, exists_of_okSat (by decide +kernel)⟩, ⟨?_, by decide, exists_of_okSat (by decide +kernel)⟩,
    addressed_based 60, exists_of_okSat (by decide +kernel)⟩ <;> unfold Unawaited <;> decide +kernel

/-- 0x13C0 is the last line of the kibibyte at 0x1000; 0x1040 a word in it. -/
theorem local_based (n : Nat) (h : n ≤ 64) : LocalAccess based 0x1040 0 0x1040 n := by
  unfold LocalAccess
  exact ⟨by decide +kernel, by decide, by decide, by omega, by decide +kernel, by decide +kernel, by decide +kernel⟩
theorem witness_LocalStoreEffects :
    (Addressed based 0 1 (16 * 4) 0x1040 ∧ LocalAccess based 0x1040 0 0x1040 4 ∧ Unawaited based (destRefs based 12 false)) ∧
    (Addressed (setB based 1 0x1040) 0 1 0 0x1040 ∧ Source (setB based 1 0x1040) 8 0 5 ∧
      Unawaited (setB based 1 0x1040) (destRefs (setB based 1 0x1040) 8 false) ∧
      windowOff ((setB based 1 0x1040).viOf 0).lswin 0x1040 = some 0x1040) ∧
    (Attempts based ∧ feFull based.empty (localKey 0 0x1040 / 4) = true ∧
      feFull ({ based with empty := [localKey 0 0x1040 / 4] } : State).empty (localKey 0 0x1040 / 4) = false) ∧
    Source based 8 (sameBefore 0 8) 5 := by
  refine ⟨⟨addressed_based 64, local_based 4 (by decide), ?_⟩,
    ⟨by simpa using addressed_of (setB based 1 0x1040) 0x1040 0 (by decide +kernel), ?_, ?_, by decide +kernel⟩,
    ⟨?_, by decide +kernel, by decide +kernel⟩, ?_⟩
  · unfold Unawaited; decide +kernel
  · unfold Source; decide +kernel
  · unfold Unawaited; decide +kernel
  · have h : based.th.wait = .idle := by decide +kernel
    unfold Attempts; rw [h]; exact ⟨fun _ => nofun, fun _ => nofun⟩
  · unfold Source; decide +kernel

/-- `c3` bound to one word, at 0x1040. -/
noncomputable def windowed : State := based.setTh { based.th with cwbase := [(3, 0x1040)], cwsize := [(3, 0x80000004)] }
theorem witness_ConstantWindow :
    Source windowed 8 0 5 ∧ (lookD windowed.th.cwsize 2 0).getLsbD 31 = false ∧
    ((lookD windowed.th.cwsize 3 0).getLsbD 31 = true ∧ (lookD windowed.th.cwsize 3 0).toNat % 2 ^ 17 ≤ 4 * (1 : BitVec 14).toNat ∧
      Accepts (windowed.setTh { windowed.th with cwoob := true }) 12) ∧
    (4 * (0 : BitVec 14).toNat < (lookD windowed.th.cwsize 3 0).toNat % 2 ^ 17 ∧
      ∃ x, loadBytes windowed (me windowed) (lookD windowed.th.cwbase 3 0 + BitVec.ofNat 64 (4 * (0 : BitVec 14).toNat)) 4 2 = .ok x ∧
        (!(x.1.th.scalar 12).busy) = true) := by
  refine ⟨?_, by decide +kernel, ⟨by decide +kernel, by decide +kernel, ?_⟩, by decide +kernel, exists_of_okSat (by decide +kernel)⟩
  · unfold Source; decide +kernel
  · unfold Accepts; decide +kernel

theorem witness_StoreResults :
    Addressed based 0 1 (16 * 4) 0x1040 ∧ PairSource based 8 (sameBefore 0 8) false 5 ∧
    PairSource based 8 (sameBefore 0 8) true (5 + 2 ^ 32 * 3) ∧ BaseSource based 1 0x1000 ∧ StoreRoom based ∧
    MayRelease based 2 ∧ StoreRoom (ordered based 2 3) ∧ (0x1040 : DWord).toNat % 8 = 0 := by
  refine ⟨addressed_based 64, ⟨5, ?_, rfl⟩, ⟨5, ?_, 3, ?_, rfl⟩, ?_, ?_, ?_, ?_, by decide⟩
  · unfold Source; decide +kernel
  · unfold Source; decide +kernel
  · unfold Source; decide +kernel
  · unfold BaseSource; decide +kernel
  · unfold StoreRoom; decide +kernel
  · unfold MayRelease StoresDrained; decide +kernel
  · unfold StoreRoom; decide +kernel

/-- `b1` at 0x1001, `q1` and the first element of `v1` as they are. -/
noncomputable def oddBase : State := setQ (setB (two 5 3) 1 0x1001) 1 1
theorem witness_MisalignedAccess :
    (Addressed based 0 1 0x42 0x1042 ∧ (0x1042 : DWord).toNat % 4 ≠ 0 ∧ PairSource based 8 (sameBefore 0 8) false 5 ∧
      PairSource based 8 0 true (5 + 2 ^ 32 * 3)) ∧
    (Addressed oddBase 0 1 0 0x1001 ∧ (∀ n ∈ [4, 8, 16, 32], (0x1001 : DWord).toNat % n ≠ 0) ∧ BaseSource oddBase 2 0 ∧
      (0x1001 : DWord).toNat % 2 ^ (3 : BitVec 2).toNat ≠ 0) ∧
    (PairSource oddBase 8 0 false 5 ∧ PairSource oddBase (8 + 1) 0 false 3 ∧ PairSource oddBase 8 0 true (5 + 2 ^ 32 * 3) ∧
      PairSource oddBase (8 + 2) 0 true 0 ∧ PairSource oddBase (8 + 4) 0 true 0 ∧ PairSource oddBase (8 + 4 + 2) 0 true 0 ∧
      Source oddBase 8 (sameBefore 0 8) 5 ∧ oddBase.th.wait = .idle) ∧
    (activeElements (oddBase.th.predReg 1) ≠ [] ∧ (oddBase.th.vecReg (1 : BitVec 6).toNat).busy = false ∧
      VecSource oddBase (1 : BitVec 6).toNat 0 ∧ BaseSource oddBase 1 0x1001 ∧
      (activeElements (oddBase.th.predReg 1)).find? (fun j => decide ((strideAddress 0x1001 ((0 : BitVec 6).toInt * 32) 5 j).toNat % 4 ≠ 0)) =
        some 0 ∧
      (activeElements (oddBase.th.predReg 1)).find? (fun j => decide ((indexAddress 0x1001 ((0 : BitVec 6).toInt * 32) 0 j).toNat % 4 ≠ 0)) =
        some 0) := by
  refine ⟨⟨addressed_based 0x42, by decide, ⟨5, ?_, rfl⟩, ⟨5, ?_, 3, ?_, rfl⟩⟩,
    ⟨by simpa using addressed_of oddBase 0x1001 0 (by decide +kernel), by decide, ?_, by decide⟩,
    ⟨⟨5, ?_, rfl⟩, ⟨3, ?_, rfl⟩, ⟨5, ?_, 3, ?_, rfl⟩, ⟨0, ?_, 0, ?_, rfl⟩, ⟨0, ?_, 0, ?_, rfl⟩, ⟨0, ?_, 0, ?_, rfl⟩, ?_, by decide +kernel⟩,
    by decide +kernel, by decide +kernel, ?_, ?_, by decide +kernel, by decide +kernel⟩
  all_goals first | (unfold Source; decide +kernel) | (unfold BaseSource; decide +kernel) | (unfold VecSource; decide +kernel)

/-- A store of a word at 0x1040 that heads core 0's buffer; a word on its way to `w0`. -/
noncomputable def storing : State := buffered based (plainEntry based 0x1040 4 0x11223344)
noncomputable def loading : State := launched based { landings := toDest based 12 false 9 }
theorem witness_ArrivalsAndDrains :
    ((storing.core (0 : BitVec 9).toNat).buffer = [plainEntry based 0x1040 4 0x11223344] ∧
      windowOff (storing.viOf (plainEntry based 0x1040 4 0).vi.toNat).lswin 0x1040 = some (0 * 2 ^ 18 + 0x1040) ∧
      localReach storing (entryWho 0 (plainEntry based 0x1040 4 0x11223344)) 0 0x1040 = true ∧
      (plainEntry based 0x1040 4 0x11223344).away = none ∧ (plainEntry based 0x1040 4 0x11223344).rel = false ∧ (plainEntry based 0x1040 4 0x11223344).cut = false ∧ drainHeld storing (0 : BitVec 9).toNat = false) ∧
    ((loading.thread (0 : BitVec 12).toNat).producers[0]? = some { landings := [{ reg := .scalar (scalarPlace 0 12), value := 9 }] }) := by
  decide +kernel

theorem witness_PresenceInstructions :
    (PresenceNames based 0 8 (.scalar (scalarPlace based.th.cwp 8)) ∧ PresenceNames based 1 63 (.vec 63) ∧ PresenceNames based 2 1 (.base 1) ∧
      Unawaited based [.scalar (scalarPlace based.th.cwp 8)] ∧ Accepts based 12 ∧ refFull based.th (.scalar (scalarPlace based.th.cwp 8)) = true) ∧
    (PresenceNames loading 0 12 (.scalar (scalarPlace loading.th.cwp 12)) ∧ refBusy loading.th (.scalar (scalarPlace loading.th.cwp 12)) = true ∧
      refFull loading.th (.scalar (scalarPlace loading.th.cwp 12)) = false) := by
  unfold PresenceNames Unawaited Accepts; decide +kernel

/-- `b1` at 0x1040, with four register pairs from `a0`. -/
noncomputable def atWord : State := setB (two 5 3) 1 0x1040
theorem addressed_atWord : Addressed atWord 0 1 0 0x1040 := by
  simpa using addressed_of atWord 0x1040 0 (by decide +kernel)
theorem pair_atWord (d : BitVec 5) (v w : Word) (h : (if d = 0 then v = 0 else if isPort d = true then
      (neighbour atWord.myCore (atWord.core atWord.myCore).rseg d.toNat).isSome = true ∧
        (atWord.core atWord.myCore).portWord atWord.cur d.toNat 0 = some v else (atWord.th.scalar d).full = true ∧ (atWord.th.scalar d).val = v))
    (h' : (if d + 1 = 0 then w = 0 else if isPort (d + 1) = true then
      (neighbour atWord.myCore (atWord.core atWord.myCore).rseg (d + 1).toNat).isSome = true ∧
        (atWord.core atWord.myCore).portWord atWord.cur (d + 1).toNat 0 = some w else
        (atWord.th.scalar (d + 1)).full = true ∧ (atWord.th.scalar (d + 1)).val = w)) :
    PairSource atWord d 0 true (v.toNat + 2 ^ 32 * w.toNat) := ⟨v, h, w, h', rfl⟩
/-- Virtual address 0x80000000, a page of the module's own memory; it stands in `b1`. -/
def onePage : TlbEntry := { pasid := 0, page := 0x80000000, pa := 0x80000000, size := .k4, r := true, w := true, x := false, u := true }
noncomputable def mapped : State :=
  let s := setB (two 5 3) 1 0x80000000
  let s := s.setCore 0 { s.core 0 with tlb := [onePage] }
  { s with module := { membase := 1 } }
/-- The page in an FP32 range of addition. -/
noncomputable def ranged : State := { mapped with module := { membase := 1, crbase := [(2, 0x80000000)], crcfg := [(2, 0x41)] } }

theorem witness_AtomicResults :
    Addressed atWord 0 1 0 0x1040 ∧ (0x1040 : DWord).toNat % 16 = 0 ∧ PairSource atWord 8 0 false 5 ∧ MayRelease atWord 3 ∧
    Unawaited atWord (destRefs atWord 8 true ++ destRefs atWord (8 + 2) true) ∧
    (∃ x, updateAt (ordered atWord 0 3) (me (ordered atWord 0 3)) 0x1040 4 3 { f := fun m => some ((m + 5) % 2 ^ 32), cr := some (0, crFormats 0 false, 5) } =
      .ok x ∧ (destRefs x.1 8 false).all (fun r => !refBusy x.1.th r) = true) ∧
    (PairSource atWord 8 0 false 5 ∧ PairSource atWord (8 + 1) 0 false 3 ∧
      ∃ x, updateAt (ordered atWord 3 3) (me (ordered atWord 3 3)) 0x1040 4 3 { f := fun m => if m = 5 then some 3 else none } = .ok x ∧
        (destRefs x.1 8 false).all (fun r => !refBusy x.1.th r) = true) ∧
    (∃ x, updateAt (ordered atWord 0 3) (me (ordered atWord 0 3)) 0x1040 4 3
        { f := fun m => some (floatSum m (5 : Word).toNat).1, cr := some (0, [1], 5) } = .ok x ∧
      okSat (fun y => decide (y.2 = .localStore 0 0x1040)) (resolve x.1 (me x.1) .modify 0x1040) = true) ∧
    (Addressed ranged 0 1 0 0x80000000 ∧ ∃ x, updateAt (ordered ranged 0 3) (me (ordered ranged 0 3)) 0x80000000 4 3
        { f := fun m => some (floatSum m (5 : Word).toNat).1, cr := some (0, [1], 5) } = .ok x ∧
      okSat (fun y => decide (y.2 = .own 0x80000000) && (inCrange x.1.module 0x80000000).isSome) (resolve x.1 (me x.1) .modify 0x80000000) =
        true) ∧
    (PairSource atWord 8 0 true (5 + 2 ^ 32 * 3) ∧ PairSource atWord (8 + 2) 0 true 0 ∧ PairSource atWord (8 + 4) 0 true 0 ∧
      PairSource atWord (8 + 4 + 2) 0 true 0 ∧
      ∃ x, updateAt (ordered atWord 0 3) (me (ordered atWord 0 3)) 0x1040 16 3 { f := cswapValue (5 + 2 ^ 32 * 3 + 2 ^ 64 * 0) (0 + 2 ^ 64 * 0) } =
        .ok x ∧ (destRefs x.1 8 true ++ destRefs x.1 (8 + 2) true).all (fun r => !refBusy x.1.th r) = true) := by
  refine ⟨addressed_atWord, by decide, ⟨5, ?_, rfl⟩, ?_, ?_, exists_of_okSat (by decide +kernel),
    ⟨⟨5, ?_, rfl⟩, ⟨3, ?_, rfl⟩, exists_of_okSat (by decide +kernel)⟩, exists_of_okSat (by decide +kernel),
    ⟨by simpa using addressed_of ranged 0x80000000 0 (by decide +kernel), exists_of_okSat (by decide +kernel)⟩,
    ⟨pair_atWord 8 5 3 (by decide +kernel) (by decide +kernel), pair_atWord 10 0 0 (by decide +kernel) (by decide +kernel),
      pair_atWord 12 0 0 (by decide +kernel) (by decide +kernel), pair_atWord 14 0 0 (by decide +kernel) (by decide +kernel),
      exists_of_okSat (by decide +kernel)⟩⟩
  · unfold Source; decide +kernel
  · unfold MayRelease StoresDrained; decide +kernel
  · unfold Unawaited; decide +kernel
  · unfold Source; decide +kernel
  · unfold Source; decide +kernel

/-- The word at 0x1040 empty. -/
noncomputable def emptyWord : State := { atWord with empty := [localKey 0 0x1040 / 4] }
theorem attempts_idle (s : State) (h : s.th.wait = .idle) : Attempts s := by
  unfold Attempts; rw [h]; exact ⟨fun _ => nofun, fun _ => nofun⟩
theorem witness_FullEmptyWords :
    Addressed atWord 0 1 0 0x1040 ∧ Attempts atWord ∧ Attempts (ordered emptyWord 2 3) ∧ Source emptyWord 8 (sameBefore 0 8) 5 ∧
    MayRelease emptyWord 2 ∧
    (∃ x, feAttempt atWord (me atWord) 0x1040 .modify 2 (fun full => if full then some (none, false) else none) = .ok x ∧ x.2.isSome = true) ∧
    (∃ x, feAttempt atWord (me atWord) 0x1040 .read 2 (fun full => if full then some (none, true) else none) = .ok x ∧ x.2.isSome = true) ∧
    (∃ x, feAttempt emptyWord (me emptyWord) 0x1040 .read 2 (fun full => some (none, full)) = .ok x ∧ x.2.isSome = true) ∧
    (∃ x, feAttempt (ordered emptyWord 2 3) (me (ordered emptyWord 2 3)) 0x1040 .modify 3
      (fun full => if full then none else some (some 5, true)) = .ok x ∧ x.2.isSome = true) ∧
    (∃ x, feAttempt (ordered emptyWord 2 3) (me (ordered emptyWord 2 3)) 0x1040 .modify 3 (fun _ => some (some 5, true)) = .ok x ∧
      x.2.isSome = true) := by
  refine ⟨addressed_atWord, attempts_idle _ (by decide +kernel), attempts_idle _ (by decide +kernel), ?_, ?_, exists_of_okSat (by decide +kernel),
    exists_of_okSat (by decide +kernel), exists_of_okSat (by decide +kernel), exists_of_okSat (by decide +kernel),
    exists_of_okSat (by decide +kernel)⟩
  · unfold Source; decide +kernel
  · unfold MayRelease StoresDrained; decide +kernel

/-- Thread 0 with a wait, at pitch tick 9. -/
noncomputable def waiting (w : Wait) : State := { atWord with pitch := 9 }.setTh { atWord.th with wait := w, waitdl := 9 }
/-- The line at 0x1040 of core 0's local store, at whose place (cluster 0) thread 0 has the reservation, up to tick 9. -/
def heldLine : Nat := localKey 0 0x1040 / 64
noncomputable def reserving (r : Rsv) : State :=
  setRsvQueue ({ atWord with pitch := 9 }.setTh { atWord.th with rsv := r }) 1 heldLine { holder := some (0, some 9) }
/-- Threads 9, 10 and 11 parked on the word at 0x1040, with LDFE, STFE and LDFF; thread 12 waits there with WAITA.S, at the bridge. -/
def parkedOn (t : Nat) (k : BitVec 2) : Sleeper := { thread := t, key := localKey 0 0x1040, kind := k }
noncomputable def parking (full : Bool) : State :=
  let s : State := { atWord with changes := [(1, localKey 0 0x1040, full)] }
  let s := s.setCluster 0 { s.cluster 0 with parked := [parkedOn 9 0, parkedOn 10 1, parkedOn 11 2] }
  s.setThread 9 { s.thread 9 with wait := .feParked 2 }
noncomputable def sleeping : State :=
  { atWord with bridge := { atWord.bridge with watchers := [{ thread := 12, key := 0x4000, kind := 3, sys := true }] } }
theorem witness_FullEmptyWords_events :
    ((waiting (.feGap 2)).thread (0 : BitVec 12).toNat).wait = .feGap 2 ∧
    ((parking true).changes = (1, localKey 0 0x1040, true) :: [] ∧
      (parkedAt (parking true) (changePool 1)).find? (fun y => y.key == localKey 0 0x1040 && y.bank == changeBank 1 && y.kind == 0) =
        some (parkedOn 9 0) ∧
      ((parking true).thread (parkedOn 9 0).thread).wait = .feParked 2) ∧
    ((parking false).changes = (1, localKey 0 0x1040, false) :: [] ∧
      (parkedAt (parking false) (changePool 1)).find? (fun y => y.key == localKey 0 0x1040 && y.bank == changeBank 1 && y.kind == 1) =
        some (parkedOn 10 1)) ∧
    (parkedOn 11 2 ∈ parkedAt (parking true) (changePool 1) ∧ (parkedOn 11 2).key = localKey 0 0x1040 ∧
      (parkedOn 11 2).bank = changeBank 1 ∧ (parkedOn 11 2).kind = 2) := by
  decide +kernel
theorem witness_AddressWaits_events :
    (((reserving (.holds 1 heldLine)).refsOf (0 : BitVec 12).toNat).find? (holdOver (reserving (.holds 1 heldLine))) = some 0 ∧
      ((reserving (.holds 1 heldLine)).byRef 0).rsv = .holds 1 heldLine ∧ (reserving (.holds 1 heldLine)).live 0 = true) ∧
    (((reserving (.awaits 1 heldLine)).refsOf (0 : BitVec 12).toNat).find? (holdOver (reserving (.awaits 1 heldLine))) = some 0 ∧
      ((reserving (.awaits 1 heldLine)).byRef 0).rsv = .awaits 1 heldLine) ∧
    (((waiting .waitaAsleep).thread (0 : BitVec 12).toNat).wait = .waitaAsleep ∧ ((waiting .waitaAsleep).thread 0).waitdl ≠ 0 ∧
      ((waiting .waitaAsleep).thread 0).waitdl ≤
        (if sleepsAtPeer (waiting .waitaAsleep) 0 then peerCounter (waiting .waitaAsleep) else BitVec.ofNat 64 (waiting .waitaAsleep).pitch)) ∧
    ((waiting .waitaPolling).thread (0 : BitVec 12).toNat).wait = .waitaPolling ∧
    (watchersAt sleeping 0).find? (fun x => x.key == (0x4000 : BitVec 64).toNat && x.sys) =
      some { thread := 12, key := 0x4000, kind := 3, sys := true } := by
  decide +kernel

/-- Thread 9 holds that line; a reservation of the line behind it. -/
noncomputable def behind : State := setRsvQueue atWord 1 heldLine { holder := some (9, none) }
noncomputable def elsewhere : State := atWord.setTh { atWord.th with rsv := .awaits 1 (heldLine + 1) }
theorem witness_ReservationResults_LRW :
    (∃ x, rsvPlace behind 0x1040 .read 2 = .ok x ∧ (decide (x.1.th.rsv = .free) && rsvRoom x.1 x.2.2 x.2.1.line &&
      decide ((rsvQueue x.1 x.2.2 x.2.1.line).holder = some (9, none)) && decide (9 ≠ x.1.refOf x.1.cur)) = true) ∧
    (∃ x, rsvPlace (atWord.setTh { atWord.th with rsv := .lost heldLine }) 0x1040 .read 2 = .ok x ∧
      decide (x.1.th.rsv = .lost x.2.1.line) = true) ∧
    (∃ x, rsvPlace elsewhere 0x1040 .read 2 = .ok x ∧
      (!x.1.th.rsv.vacant && decide (x.1.th.rsv ≠ .awaits x.2.2 x.2.1.line)) = true) ∧
    (Addressed atWord 0 1 0 0x1040 ∧ Unawaited atWord (destRefs atWord 12 false) ∧
      ∃ x, rsvPlace atWord 0x1040 .read 2 = .ok x ∧
      (let s2 := grantNext (joined x.1 x.2.2 x.2.1.line) x.2.2 x.2.1.line
       decide (x.1.th.rsv = .free) && rsvRoom x.1 x.2.2 x.2.1.line && decide ((rsvQueue x.1 x.2.2 x.2.1.line).holder = none) &&
        granted s2 x.2.2 x.2.1.line s2.cur && okSat (fun y => (destRefs y.1 12 false).all (fun r => !refBusy y.1.th r))
          (loadBytes (raiseClock s2 s2.myCore (rsvTime s2 x.2.2)) (me (raiseClock s2 s2.myCore (rsvTime s2 x.2.2))) 0x1040 4 2)) = true) ∧
    (∃ x, rsvPlace (reserving (.awaits 1 heldLine)) 0x1040 .read 2 = .ok x ∧
      (decide (x.1.th.rsv = .awaits x.2.2 x.2.1.line) && granted x.1 x.2.2 x.2.1.line x.1.cur &&
        okSat (fun y => (destRefs y.1 12 false).all (fun r => !refBusy y.1.th r))
          (loadBytes (raiseClock x.1 x.1.myCore (rsvTime x.1 x.2.2)) (me (raiseClock x.1 x.1.myCore (rsvTime x.1 x.2.2))) 0x1040 4 2)) = true) := by
  refine ⟨exists_of_okSat (by decide +kernel), exists_of_okSat (by decide +kernel), exists_of_okSat (by decide +kernel), ⟨addressed_atWord, ?_,
    exists_of_okSat (by decide +kernel)⟩, exists_of_okSat (by decide +kernel)⟩
  unfold Unawaited; decide +kernel
theorem witness_ReservationResults :
    (∃ x, rsvPlace (reserving (.holds 1 heldLine)) 0x1040 .modify 2 = .ok x ∧
      (granted x.1 x.2.2 x.2.1.line x.1.cur && decide (∀ e ∈ (x.1.core x.1.myCore).buffer, e.thread ≠ x.1.cur) &&
        dispatched x.1 x.1.cur && !bufferTouches (released x.1 2) (me (released x.1 2)) 0x1040 x.2.1 4 &&
        okSat (fun _ => true) (writeBytes (settleCore (released x.1 2) x.1.myCore) (me (settleCore (released x.1 2) x.1.myCore)) 0x1040 x.2.1 4 ((5 : Word).setWidth 512) (byteMask 4) 2 false)) =
          true) ∧
    (∃ x, rsvPlace atWord 0x1040 .modify 2 = .ok x ∧ (!granted x.1 x.2.2 x.2.1.line x.1.cur) = true) ∧
    (∃ x, rsvPlace atWord 0x1040 .read 2 = .ok x ∧ decide (x.1.th.rsv = .free) = true) ∧
    (∃ x, rsvPlace (reserving (.awaits 1 heldLine)) 0x1040 .read 2 = .ok x ∧
      (decide (x.1.th.rsv = .awaits 1 x.2.1.line) && granted x.1 1 x.2.1.line x.1.cur &&
        decide (∀ e ∈ (x.1.core x.1.myCore).buffer, e.thread ≠ x.1.cur) && dispatched x.1 x.1.cur) = true) ∧
    (let s := atWord.setTh { atWord.th with rsv := .awaits 1 heldLine }
     ∃ x, rsvPlace s 0x1040 .read 2 = .ok x ∧ (decide (x.1.th.rsv = .awaits 1 x.2.1.line) && !granted x.1 1 x.2.1.line x.1.cur) = true) ∧
    (Source (reserving (.holds 1 heldLine)) 8 (sameBefore 0 8) 5 ∧ Addressed (reserving (.holds 1 heldLine)) 0 1 0 0x1040) := by
  refine ⟨exists_of_okSat (by decide +kernel), exists_of_okSat (by decide +kernel), exists_of_okSat (by decide +kernel),
    exists_of_okSat (by decide +kernel), exists_of_okSat (by decide +kernel), ?_,
    by simpa using addressed_of (reserving (.holds 1 heldLine)) 0x1040 0 (by decide +kernel)⟩
  unfold Source; decide +kernel

/-- The word at 0x1040 holds 5, which `a0` holds too; at pitch tick 9 with a deadline. -/
noncomputable def watched (dl : DWord) (v : Nat) : State :=
  { atWord with pitch := 9, mem := memPutNat [] (localKey 0 0x1040) 4 v }.setTh { atWord.th with waitdl := dl }
/-- Other threads wait at the place of the word: n of them on another one, or thread 12 on it. -/
noncomputable def crowded (n : Nat) : State :=
  let s := watched 10 5
  s.setCluster 0 { s.cluster 0 with watchers := List.replicate n { thread := 12, key := 0, kind := 3 } }
noncomputable def awaited : State :=
  let s := watched 0 1
  s.setCluster 0 { s.cluster 0 with watchers := [{ thread := 12, key := localKey 0 0x1040, kind := 3 }] }
theorem witness_AddressWaits :
    (Addressed (watched 0 6) 0 1 0 0x1040 ∧ Source (watched 0 6) 8 (sameBefore 0 8) 5 ∧ (watched 0 6).th.wait = .idle ∧
      Unawaited (watched 0 6) (destRefs (watched 0 6) 8 false) ∧ ∃ x, rsvPlace (watched 0 6) 0x1040 .read 2 = .ok x ∧
      okSat (fun y => decide (y.2 ≠ 5) && !(y.1.th.scalar 8).busy) (placeWord x.1 0x1040 x.2.1 2) = true) ∧
    (∃ x, rsvPlace (watched 9 5) 0x1040 .read 2 = .ok x ∧
      okSat (fun y => decide (y.2 = 5) && decide (y.1.th.waitdl ≠ 0) && decide (y.1.th.waitdl ≤ placeCounter y.1 x.2.1) &&
        !(y.1.th.scalar 8).busy) (placeWord x.1 0x1040 x.2.1 2) = true) ∧
    (∃ x, rsvPlace (watched 0 5) 0x1040 .read 2 = .ok x ∧
      okSat (fun y => decide (y.2 = 5) && decide (y.1.th.waitdl = 0) && poolRoom (watchersAt y.1 x.2.2) x.2.2 x.2.1.key)
        (placeWord x.1 0x1040 x.2.1 2) = true) ∧
    (∃ x, rsvPlace (crowded 512) 0x1040 .read 2 = .ok x ∧
      okSat (fun y => decide (y.2 = 5) && decide (placeCounter y.1 x.2.1 < y.1.th.waitdl) &&
        !poolRoom (watchersAt y.1 x.2.2) x.2.2 x.2.1.key) (placeWord x.1 0x1040 x.2.1 2) = true) ∧
    ((waiting (.waitaDone 2)).th.wait = .waitaDone 2 ∧ Addressed (waiting (.waitaDone 2)) 0 1 0 0x1040 ∧ Accepts (waiting (.waitaDone 2)) 8) := by
  refine ⟨⟨by simpa using addressed_of (watched 0 6) 0x1040 0 (by decide +kernel), ?_, by decide +kernel, ?_, exists_of_okSat (by decide +kernel)⟩,
    exists_of_okSat (by decide +kernel), exists_of_okSat (by decide +kernel), exists_of_okSat (by decide +kernel), by decide +kernel,
    by simpa using addressed_of (waiting (.waitaDone 2)) 0x1040 0 (by decide +kernel), ?_⟩
  · unfold Source; decide +kernel
  · unfold Unawaited; decide +kernel
  · unfold Accepts; decide +kernel
theorem witness_AddressWaits_WAKEA :
    Addressed awaited 0 1 0 0x1040 ∧ Source awaited 8 (sameBefore 0 8) 5 ∧ Unawaited awaited (destRefs awaited 8 false) ∧
    (∃ x, rsvPlace awaited 0x1040 .read 2 = .ok x ∧ (decide (∀ e ∈ (x.1.core x.1.myCore).buffer, e.thread ≠ x.1.cur) && dispatched x.1 x.1.cur &&
      (wokenBy (ordered x.1 2 2) x.2.2 x.2.1.key 5).any (fun w => w.thread == 12) &&
      (wokenBy (ordered x.1 2 2) x.2.2 x.2.1.key 5).all (fun w => w.thread != (ordered x.1 2 2).cur) &&
      !((ordered x.1 2 2).th.scalar 8).busy) = true) ∧
    ∃ x, rsvPlace awaited 0x1040 .read 4 = .ok x ∧
      ((wokenBy (ordered x.1 0 4) x.2.2 x.2.1.key 0).all (fun w => w.thread == 12) && !((ordered x.1 0 4).th.scalar 8).busy) = true := by
  refine ⟨by simpa using addressed_of awaited 0x1040 0 (by decide +kernel), ?_, ?_, exists_of_okSat (by decide +kernel),
    exists_of_okSat (by decide +kernel)⟩
  · unfold Source; decide +kernel
  · unfold Unawaited; decide +kernel

/-- R18: the page permission is checked after presence; a page for S mode only refuses U mode. -/
theorem test_page_mode : ∀ m, (match resolve (mapped.setCore 0 { mapped.core 0 with tlb := [{ onePage with u := false }] })
    { me mapped with mode := m } .read 0x80000000 with
      | .error (.fault _ c _ _) => m == .u && c == .permissionFault
      | .ok (_, p) => m != .u && p == .own 0x80000000
      | _ => false) = true := by
  intro m; cases m <;> decide +kernel
/-- The issuing thread as CFLUSH, CINVL and CPREF make their accesses. -/
noncomputable def lineWho (s : State) : Who := { me s with waiter := .lineOp s.cur }
noncomputable def fetchWho (s : State) (ea : DWord) : Who := { me s with waiter := .prefetch s.cur ea }
/-- The page's first line is dirty in cluster 0's cache. -/
noncomputable def dirtied : State :=
  mapped.setCluster 0 { mapped.cluster 0 with
    lines := [(0x2000000, { data := 7, fe := 0, wts := 0, rts := 0, byteMask := 1 })] }
theorem witness_LineAndFenceResults :
    (Addressed atWord 0 1 0 0x1040 ∧ ∃ x, resolve atWord (lineWho atWord) .read (0x1040 &&& ~~~63) = .ok x ∧
      decide (x.2 = .localStore 0 0x1040) = true) ∧
    (Addressed mapped 0 1 0 0x80000000 ∧ (∃ x, resolve mapped (lineWho mapped) .read (0x80000000 &&& ~~~63) = .ok x ∧
      (decide (x.2 = .own 0x80000000) && decide ((x.1.core x.1.myCore).buffer = [])) = true) ∧
      (∃ x, resolve mapped (fetchWho mapped (0x80000000 &&& ~~~63)) .read (0x80000000 &&& ~~~63) = .ok x ∧
        (decide (x.2 = .own 0x80000000) && okSat (fun _ => true) (l1Read x.1 mapped.myCore (sealOf x.1 mapped.cur) (0x80000000 / 64))) = true)) ∧
    (∃ x, resolve dirtied (lineWho dirtied) .read (0x80000000 &&& ~~~63) = .ok x ∧
      (decide (x.2 = .own 0x80000000) && decide ((x.1.core x.1.myCore).buffer = []) && !inCar x.1.module 0x80000000 &&
        (look (x.1.cluster x.1.myCluster).lines (0x80000000 / 64)).any (fun l => l.dirty && decide (l.ctx = 0)) &&
        (List.range 16).all (fun b => (look (x.1.core x.1.myCore).stash (16 * (0x80000000 / 64) + b)).isNone)) = true) ∧
    ((8 : BitVec 4).toNat % 4 = 0 ∧ (1 : BitVec 4).toNat % 4 ≠ 0 ∧ StoresDrained atWord ∧ dispatched atWord atWord.cur = true ∧
      ¬ StoresDrained storing) := by
  refine ⟨⟨addressed_atWord, exists_of_okSat (by decide +kernel)⟩,
    ⟨by simpa using addressed_of mapped 0x80000000 0 (by decide +kernel), exists_of_okSat (by decide +kernel),
      exists_of_okSat (by decide +kernel)⟩, exists_of_okSat (by decide +kernel), ?_⟩
  unfold StoresDrained; decide +kernel

theorem witness_TrappingInstructions :
    ((slot 0).th.mode ≠ .m ∧ protectedThread (slot 0) (slot 0).cur = false) ∧ (slotS 0).th.mode ≠ .u ∧ (slotM 0).th.mode ≠ .u ∧
    names 0x04000006 = false ∧
    (names 0xF00C5609 = true ∧ (slot 0).th.mode.code.toNat < lowestMode 0xF00C5609) ∧
    (names 0x06300220 = true ∧ lowestMode 0x06300220 ≤ (slot 0).th.mode.code.toNat) ∧ (slot 0).th.mode = .u := by decide +kernel

/-- An upcall frame, and a pluck in progress. -/
noncomputable def inUpcall : State :=
  (slot 0).setTh { (slot 0).th with resident := 2, frames := [(0, { retPc := 0, kind := 3 })], inup := true }
noncomputable def inPluck : State := (slot 0).setTh { (slot 0).th with inpl := true, shadow := [{}, {}, {}, {}] }
theorem witness_HandlerReturns :
    ((slotS 0).th.mode = .s ∧ (slotS 0).th.ends = false ∧ (slotS 0).th.refusal = false) ∧
    ((slotS 0).setTh { (slotS 0).th with ends := true }).th.ends = true ∧
    ((slotM 0).th.mode = .m ∧ (slotM 0).th.ends = false ∧ (slotM 0).th.refusal = false) ∧
    (inUpcall.th.inpl = false ∧ (topFrame inUpcall.th).kind = 3 ∧ Source inUpcall 9 0 0 ∧ Source inUpcall 10 0 0 ∧
      1 < inUpcall.th.resident ∧ frameBusy inUpcall.th inUpcall.th.cwp = false ∧
      (∀ i < 4, (lookD inUpcall.th.scal (16 * (inUpcall.th.cwp + 1).toNat + i) {}).busy = false)) ∧
    (inPluck.th.inpl = true ∧ anyBusy inPluck.th (w8Places inPluck.th) = false ∧ inPluck.th.shadow.length = 4) ∧
    (topFrame (slot 0).th).kind ≠ 3 ∧ (slot 0).th.inpl = false := by
  unfold Source; decide +kernel

/-- A store-fault record of thread 0, a posted cause, a notice for a pluck. -/
noncomputable def recorded : State :=
  (slot 0).setCore 0 { (slot 0).core 0 with
    records := [(0, { va := 0x40, data := 1, pc := 0, size := 4, slot := 0, cause := .translationFault, kind := 0, mask := 0 })] }
noncomputable def posting : State := (slot 0).setTh { (slot 0).th with posted := [{ cause := .carCollision, tval := 7 }] }
noncomputable def noticed : State :=
  (slot 0).setTh { (slot 0).th with plen := true, plens := 1, noteBatch := some 3, plvec := 0x80 }
theorem witness_BoundariesAndHalts :
    (boundary recorded (0 : BitVec 12).toNat = .storeFault ∧ protectedThread recorded (0 : BitVec 12).toNat = false) ∧
    (boundary posting (0 : BitVec 12).toNat = .posted { cause := .carCollision, tval := 7 } ∧
      protectedThread posting (0 : BitVec 12).toNat = false ∧ Cause.carCollision.toMonitor = false) ∧
    boundary noticed (0 : BitVec 12).toNat = .pluck ∧
    (slotRuns recorded 0 = true ∧ slotRuns posting 0 = true ∧ slotRuns noticed 0 = true ∧ ((slot 0).thread 0).wait.underway = false ∧
      slotRuns (slot 0) 0 = true ∧ drainOver (slot 0) 0 = false ∧ ((slot 0).thread 0).stops = false) ∧
    ((slot 0).thread (0 : BitVec 12).toNat).present = true ∧
    (slotS 0).th.mode ≠ .u := by decide +kernel

theorem witness_SystemRegisterResults :
    ((sysReg (0x060 : BitVec 12).toNat).any (fun r => !r.wide && decide (r.base ≠ 0x149) && (two 5 3).th.mode.covers r.read &&
      r.write.any (fun m => (two 5 3).th.mode.covers m)) = true ∧ Accepts (two 5 3) 12 ∧ Source (two 5 3) 8 0 5) ∧
    ((sysReg (0x062 : BitVec 12).toNat).any (fun r => r.wide && decide (r.base = 0x062) &&
      r.write.any (fun m => (two 5 3).th.mode.covers m)) = true ∧
     (sysReg (0x063 : BitVec 12).toNat).any (fun r => decide (0x063 = r.base + 1)) = true ∧
     ((two 5 3).setTh { (two 5 3).th with staged := some (0x062, 1) }).th.staged = some (0x062, 1)) ∧
    sysReg (0xFFF : BitVec 12).toNat = none ∧ (sysReg (0x100 : BitVec 12).toNat).any (fun r => decide (r.write = none)) = true ∧
    (sysReg (0x020 : BitVec 12).toNat).any (fun r => (two 5 3).th.mode.covers r.read && r.write.any (fun m => !(two 5 3).th.mode.covers m)) = true ∧
    (sysReg (0x008 : BitVec 12).toNat).any (fun r => !(two 5 3).th.mode.covers r.read && r.write.isSome) = true := by
  unfold Accepts Source; decide +kernel

theorem witness_TranslationInvalidates :
    (slotS 0).th.mode ≠ .u ∧ Source (setR (slotS 0) 8 0xFFFFF) 8 0 0xFFFFF ∧ (0xFFFFF : Word).toNat < 2 ^ 20 ∧
    BaseSource (setB (slotS 0) 1 0x1000) 1 0x1000 ∧ storesAway (slotS 0) (fun _ => true) = false ∧
    storesAway (slotS 0) (fun e => e.pasid == (0xFFFFF : Word).setWidth 20) = false ∧
    storesAway (slotS 0) (fun e => e.covers ((0xFFFFF : Word).setWidth 20) (pageOf 0x1000)) = false := by
  unfold Source BaseSource; decide +kernel

/-- A miss and a page request of PASID 0, a line in cluster 0's cache, a partial of an enabled range, a line at its home. -/
def aLine : ClusterLine := { data := 0, fe := 0, wts := 0, rts := 0 }
noncomputable def cached : State :=
  let s := mapped
  let s := s.setCluster 0 { s.cluster 0 with lines := [(0x2000000, aLine)], partials := [(0x3000000, { data := 0 })] }
  { s with
    bridge := { s.bridge with misses := [{ pasid := 0, page := 0x5000, waiters := [.thread 0] }], pageRequests := [(0, 0x5000, false)],
                              homes := [(0x2000000, { wts := 1, maxLease := 2 })] },
    module := { s.module with crbase := [(2, 0xC0000000)], crcfg := [(2, 1)] } }
theorem witness_TranslationAndCacheEvents :
    cached.bridge.misses.any (fun m => m.pasid == 0 && m.page == pageOf 0x5123) = true ∧
    (cached.bridge.pageRequests.any (fun r => r.1 == 0 && r.2.1 == pageOf 0x5000) = true ∧ cached.bridge.pageWaits = []) ∧
    storesAway cached (meetsRange 0 0x80000000 4096) = false ∧
    (look (cached.cluster (0 : BitVec 5).toNat).lines 0x2000000).isSome = true ∧
    (look (cached.cluster (0 : BitVec 5).toNat).partials 0x3000000 = some { data := 0 } ∧ inCrange cached.module (64 * 0x3000000) = some 2) ∧
    (look cached.bridge.homes 0x2000000 = some { wts := 1, maxLease := 2 } ∧ ownRange cached.module (64 * 0x2000000) = true) ∧
    inCar cached.module (64 * 0x2000000) = false ∧ inCrange cached.module (64 * 0x2000000) = none ∧ aLine.ctx = 0 ∧
    (cached.bridge.missWaits = [] ∧ (∀ p ∈ cached.clusters, p.2.missWaits = []) ∧ ∀ p ∈ cached.cores, p.2.missWaits = []) ∧
    (let s := cached.setCore 0 { cached.core 0 with misses := [{ pasid := 0, page := 0x5000, waiters := [.thread 0] }] }
     (s.bridge.missWaits = [] ∧ (∀ p ∈ s.clusters, p.2.missWaits = []) ∧ ∀ p ∈ s.cores, p.2.missWaits = []) ∧
       (s.core 0).misses.any (fun m => m.pasid == 0 && m.page == pageOf 0x5123 && m.waiters.any (fun w => w.level == 0)) = true) ∧
    (let m : List Miss := [{ pasid := 0, page := 0x5000, waiters := [.thread 0] }]
     let s := (cached.setCore 0 { cached.core 0 with misses := m }).setCluster 0 { cached.cluster 0 with misses := m }
     (s.cluster 0).misses.any (fun m => (filledEntry 0 0x5123 ⟨true, 0, .m2, true, true, true, true⟩).covers m.pasid m.page) = true ∧
       (s.core (coreAt 0 0)).misses.any (fun m => (filledEntry 0 0x5123 ⟨true, 0, .m2, true, true, true, true⟩).covers m.pasid m.page) = true) := by
  decide +kernel

theorem witness_LaneArithmetic :
    VecSource (setV (slot 0) 2 7) (2 : BitVec 6).toNat 7 ∧ VecSource (setV (slot 0) 2 7) (63 : BitVec 6).toNat 0 ∧
    ((setV (slot 0) 2 7).th.vecReg (1 : BitVec 6).toNat).busy = false := by
  unfold VecSource; decide +kernel
theorem witness_LaneComparesAndReductions :
    VecSource (setV (slot 0) 2 7) (2 : BitVec 6).toNat 7 ∧ VecSource (setV (slot 0) 2 7) (3 : BitVec 6).toNat 0 ∧
    ((setV (slot 0) 2 7).th.vecReg (1 : BitVec 6).toNat).busy = false := by
  unfold VecSource; decide +kernel
theorem witness_LaneMovesAndConversions :
    Source (two 5 3) 8 0 5 ∧ ((two 5 3).th.vecReg (1 : BitVec 6).toNat).busy = false ∧ VecSource (two 5 3) (2 : BitVec 6).toNat 0 ∧
    Accepts (two 5 3) 12 ∧ cvtOk 2 5 = true ∧ (packOk 0 2 = true ∧ laneWidth 2 / laneWidth 0 = 4 ∧
      ∀ i < 4, VecSource (two 5 3) ((4 : BitVec 6).toNat + i) ([0, 0, 0, 0].getD i 0)) := by
  unfold Source VecSource Accepts; decide +kernel

/-- Bank 0 of core 0 with a view: FP16 stored, FP32 in registers; and scaled blocks (SB8A). -/
noncomputable def viewed (fm : Word) (v : DWord) : State :=
  let s := setB (two 32 3) 1 v
  s.setCore 0 { s.core 0 with bfmt := [(0, fm)] }

theorem witness_VectorMemory :
    (Addressed (viewed 0 0x1000) 0 1 0 0x1000 ∧ ((viewed 0 0x1000).th.vecReg (2 : BitVec 6).toNat).busy = false ∧
      (viewOf (viewed 0 0x1000) 0x1000).isNone = true ∧ activeElements ((viewed 0 0x1000).th.predReg 1) = [] ∧
      activeElements ((viewed 0 0x1000).th.predReg 0) ≠ [] ∧ StoreRoom (viewed 0 0x1000) ∧
      VecSource (viewed 0 0x1000) (2 : BitVec 6).toNat 0 ∧
      ∃ x, resolve (viewed 0 0x1000) (me (viewed 0 0x1000)) .read 0x1000 = .ok x ∧
        (decide ((x.1.core (me (viewed 0 0x1000)).core).buffer = []) &&
          okSat (fun y => !(y.1.th.vecReg 2).busy) (readNear (settleLoads x.1 (me (viewed 0 0x1000)).core x.2.line) (me (viewed 0 0x1000)) 0x1000 x.2 32)) = true) ∧
    (Addressed (setQ (viewed 0x10C 0x20) 1 2) 0 1 0 0x20 ∧
      (viewOf (setQ (viewed 0x10C 0x20) 1 2) 0x20).any (fun w => decide (w.off % w.group = 0 ∧ w.off + w.group ≤ 0x4000 ∧ w.regs = 1 ∧
        isScaled w.sf = false ∧ (List.range w.elems).filter (fun k => ((setQ (viewed 0x10C 0x20) 1 2).th.predReg 1).getLsbD k) = [1])) = true ∧
      okSat (fun x => decide ((x.1.core 0).buffer = [] ∧ (x.1.th.vecReg 2).busy = false ∧ x.1.bridge.poisoned = []))
        (resolve (setQ (viewed 0x10C 0x20) 1 2) (me (setQ (viewed 0x10C 0x20) 1 2)) .read 0x20) = true) ∧
    (Addressed (viewed 0x119 0x3FCF) 0 1 0 0x3FCF ∧
      (viewOf (viewed 0x119 0x3FCF) 0x3FCF).any (fun w => decide (w.off % w.group = 0 ∧ w.off + w.group ≤ 0x4000 ∧ isScaled w.sf = true)) = true ∧
      (∀ i < 4, VecSource (viewed 0x119 0x3FCF) ((4 : BitVec 6).toNat + i) 0) ∧ StoreRoom (viewed 0x119 0x3FCF)) ∧
    (Addressed (viewed 0x10C 0x24) 0 1 0 0x24 ∧ (viewOf (viewed 0x10C 0x24) 0x24).any (fun w => decide (w.off % w.group ≠ 0)) = true) ∧
    (BaseSource (viewed 0 0x1000) 1 0x1000 ∧ Source (viewed 0 0x1000) 8 0 32 ∧ VecSource (viewed 0 0x1000) (8 : BitVec 5).toNat 0 ∧
      (viewed 0 0x1000).th.wait = .idle ∧
      okSat (fun x => !(x.1.th.vecReg 2).busy) (elementLoads (fun j => 0x1000 + BitVec.ofNat 64 j * 32) (activeElements 0xFFFFFFFF)
        (viewed 0 0x1000)) = true) := by
  refine ⟨⟨by simpa using addressed_of (viewed 0 0x1000) 0x1000 0 (by decide +kernel), by decide +kernel, by decide +kernel, by decide +kernel,
      by decide +kernel, ?_, ?_, exists_of_okSat (by decide +kernel)⟩,
    ⟨by simpa using addressed_of (setQ (viewed 0x10C 0x20) 1 2) 0x20 0 (by decide +kernel), by decide +kernel, by decide +kernel⟩,
    ⟨by simpa using addressed_of (viewed 0x119 0x3FCF) 0x3FCF 0 (by decide +kernel), by decide +kernel, ?_, ?_⟩,
    ⟨by simpa using addressed_of (viewed 0x10C 0x24) 0x24 0 (by decide +kernel), by decide +kernel⟩, ?_, ?_, ?_, by decide +kernel,
    by decide +kernel⟩
  · unfold StoreRoom; decide +kernel
  · unfold VecSource; decide +kernel
  · unfold VecSource; decide +kernel
  · unfold StoreRoom; decide +kernel
  · unfold BaseSource; decide +kernel
  · unfold Source; decide +kernel
  · unfold VecSource; decide +kernel

/-- Lease slot 1 of thread 0 with an engine of a class, its geometry, and its queue; CAR store 0 enabled for the interface. -/
noncomputable def leased (k : BitVec 3) (ec : AMap Word) (ops : List EngineOp) : State :=
  let s := setB (two 5 3) 1 0x1000
  let s := s.setVi 0 { s.viOf 0 with carperm := 3 }
  let s := s.setCore 0 { s.core 0 with rseg := 5 }
  let engines : AMap Engine := [(k.toNat * 256, { power := .ready, holder := some (0, 1) })]
  let s := { s with module := { membase := 5, car := [(0, { en := true })], engines := engines } }
  s.setTh { s.th with leases := [(1, { state := .held, kind := k, ec := ec, ops := ops })] }
/-- Geometries: 8 × 64 × 8 of INT8 into FP32; of RN16; four elements from INT8 to INT16; ten bytes by SHA3-256; an FP32 all-reduce. -/
def ecMxe : AMap Word := [(0, 0x000B0404), (1, 0x00200808), (2, 0x1000), (5, 0x2000)]
def ecRxe : AMap Word := [(0, 0x000B1515), (1, 0x00100808), (2, 0x1000), (5, 0x2000)]
def ecGconv : AMap Word := [(0, 0x00020004), (2, 0x1000), (4, 4), (5, 0x2000)]
def ecLxe : AMap Word := [(0, 11), (2, 0x10000), (4, 4096), (5, 0x20000), (7, 5)]
def ecGath : AMap Word := [(2, 0x1000), (5, 0x2000), (7, 64), (8, 0x1800)]

theorem openFor_leased (k : BitVec 3) (ec : AMap Word) (ops : List EngineOp) (h : (myLease (leased k ec ops) 1).state = .held ∧
    (myLease (leased k ec ops) 1).kind = k ∧ (myLease (leased k ec ops) 1).ops.length < 4) : OpenFor (leased k ec ops) 1 k.toNat :=
  ⟨.inl h.1, congrArg BitVec.toNat h.2.1, h.2.2⟩

/-- An MLDS of one block, an MSWAP, an MZERO, an MSTREAM, and an MLDS from the local store of a core of another cluster. -/
noncomputable def engineOp (kind : EngineKind) : EngineOp :=
  { kind := kind, id := 7, thread := 0, vi := 0, mode := .u, cls := 3, ec := [0x000B0404, 0x00200808, 0x1000, 0, 0, 0x2000, 0, 0, 0, 0, 0, 0] }
noncomputable def farOp : EngineOp :=
  { engineOp .mlds with ec := [0x000B0404, 0x00200808, 0x1000, 0, 0, 0x7FC0000, 0, 0, 0, 0, 0, 0] }

theorem witness_EngineIssue :
    (∀ k ∈ [(1 : BitVec 3), 2, 3, 4, 5], OpenFor (leased k [] []) 1 k.toNat ∧ NoStores (leased k [] [])) ∧
    mxeTile (snapshot (leased 1 ecMxe []) 1) = true ∧ mxeTile (snapshot (leased 1 [] []) 1) = false ∧
    rxeOk (snapshot (leased 2 ecRxe []) 1) = true ∧ gconvOk (snapshot (leased 4 ecGconv []) 1) = true ∧
    (Source (leased 1 ecMxe []) 0 0 0 ∧ (0 : Word).toNat < kBlocks (snapshot (leased 1 ecMxe []) 1) 64 ∧
      ¬ (1 : Nat) < kBlocks (snapshot (leased 1 ecMxe []) 1) 64) ∧
    (mxeReserved (snapshot (leased 1 ecMxe []) 1) = true ∧ stdFmt 22 (oFmt (snapshot (leased 1 ecMxe []) 1)) = true ∧
      rndOk (snapshot (leased 1 ecMxe []) 1) = true ∧ mxeM (snapshot (leased 1 ecMxe []) 1) = true ∧
      1 ≤ ecN (snapshot (leased 1 ecMxe []) 1) ∧ ecN (snapshot (leased 1 ecMxe []) 1) ≤ 64 ∧
      (ecAt (snapshot (leased 1 ecMxe []) 1) 8).toNat < 2 ^ 18 ∧ (ecAt (snapshot (leased 1 ecMxe []) 1) 10).toNat < 16) ∧
    ((ecAt (snapshot (leased 1 ecMxe []) 1) 11).toNat < 2 ^ 17 ∧
      (∀ i < 4, (ecAt (snapshot (leased 1 ecMxe []) 1) 11).toNat / 2 ^ (4 * i) % 16 ≤ 13) ∧ rotLinks (leased 1 ecMxe []) = true) ∧
    ((ecAt (snapshot (leased 4 ecGath []) 1) 7).toNat = 64 ∧ (ecAddr (snapshot (leased 4 ecGath []) 1) 2).toNat % 64 = 0 ∧
      (ecAddr (snapshot (leased 4 ecGath []) 1) 5).toNat % 64 = 0 ∧ (ecAddr (snapshot (leased 4 ecGath []) 1) 8).toNat % 4 = 0) ∧
    ((ecAt (snapshot (leased 3 [] []) 1) 0).toNat < 2 ∧ CarRight (leased 3 [] []) true 0 ∧
      (ecAddr (snapshot (leased 3 [] []) 1) 2).toNat % 64 = 0 ∧ (ecAddr (snapshot (leased 3 [] []) 1) 5).toNat % 8 = 0) ∧
    (CarRight (leased 4 ecGath []) false 0 ∧
      okSat (fun x => decide (x.2 = 0)) (loadBytes (leased 4 ecGath []) (me (leased 4 ecGath [])) 0x1000 16 3) = true) ∧
    (lxeOk (snapshot (leased 5 ecLxe []) 1) = true ∧ Source (leased 5 ecLxe []) 8 0 5 ∧ (5 : Word).getLsbD 0 = true) := by
  refine ⟨?_, by decide +kernel, by decide +kernel, by decide +kernel, by decide +kernel, ⟨?_, by decide +kernel⟩, by decide +kernel,
    by decide +kernel, by decide +kernel, ⟨by decide +kernel, ?_, by decide +kernel⟩, ⟨?_, by decide +kernel⟩, by decide +kernel, ?_, by decide⟩
  · unfold OpenFor NoStores; decide +kernel
  · unfold Source; decide +kernel
  · unfold CarRight; decide +kernel
  · unfold CarRight; decide +kernel
  · unfold Source; decide +kernel

/-- MRESUME's stopped lease (R264). -/
noncomputable def stopped : State :=
  (leased 1 ecMxe []).setTh { (leased 1 ecMxe []).th with leases := [(1, { state := .held, kind := 1, flt := true, fcause := 0x14 })] }
theorem witness_EngineIssue_resume :
    (myLease stopped 1).state = .held ∧ (myLease stopped 1).flt = true ∧ StoresDrained stopped := by
  unfold StoresDrained; decide +kernel

/-- Slots 0 and 1: none, an overdue term at tick 1,000. -/
noncomputable def leasing (st : LeaseState) : State :=
  let s := (two 13 3).setTh { (two 13 3).th with leases := [(1, { state := st, kind := 1, term := 600, used := 100, since := 500 })] }
  { s with module := { membase := 5, engines := [(256, { power := .ready, holder := some (0, 1) })] }, pitch := 1000 }
theorem witness_LeaseResults :
    ((myLease (leasing .released) 1).state = .released ∧ Source (leasing .released) 8 0 13 ∧ Source (leasing .released) 9 (sameBefore 8 9) 3 ∧
      5 = (13 : Word).toNat % 8 ∧ (13 : Word).toNat < 16 ∧ (leasing .released).module.membase.getLsbD 2 = true ∧
      (queueAt (leasing .released) (5 * 32)).length < 512) ∧
    ((myLease (leasing .held) 1).state ≠ .released ∧ (myLease (leasing .held) 1).state ≠ .evicted ∧ (leasing .held).cur < 4096 ∧
      (leasing .held).th.present = true ∧ (∀ o ∈ (myLease (leasing .held) 1).ops, o.name = 0 ∧ o.moved = 0) ∧ (myLease (leasing .held) 1).ops = []) ∧
    Accepts (leasing .held) 12 ∧ ((leasing .held).th.scalar 12).busy = false ∧ (leasing .held).th.wait = .idle ∧
    ((myLease (leasing .held) 1).pending = false ∧ (myLease (leasing .requested) 1).pending = true) ∧
    (myLease (leasing .evicted) 1).state = .evicted ∧ (myLease stopped 1).flt = true ∧
    (let s := (leasing .requested).setTh { (leasing .requested).th with wait := .lwaitUntil 1 9 }
     (waiting .lwaitOver).th.wait = .lwaitOver ∧ (s.thread (0 : BitVec 12).toNat).wait = .lwaitUntil (1 : BitVec 2).toNat 9 ∧ 9 ≤ s.pitch ∧
      (lookD (s.thread (0 : BitVec 12).toNat).leases (1 : BitVec 2).toNat {}).pending = true) ∧
    (match exec (.eget 1 2 12) (leasing .held) with
      | .next t => (t.thread (0 : BitVec 12).toNat).producers[0]?.any (fun p => decide (p.geom = some (1, 12) ∧ p.ready = true) &&
          p.landings.all (fun l => decide (l.reg = .scalar 130 ∧ l.mask = BitVec.allOnes 256)))
      | _ => false) = true := by
  unfold Source Accepts; decide +kernel

/-- A request of thread 0 for its slot 1 stands in the MXE queue of cluster 0, with one of its engines so. -/
noncomputable def requested (p : EnginePower) : State :=
  { (leasing .requested) with module := { engines := [(256, { power := p })], leaseQueues := [(32, [{ thread := 0, slot := 1, prio := 3, seq := 0 }])] } }
/-- The engine of the lease in slot 1 waking; the lease to be evicted, all units being taken away. -/
noncomputable def wakingUp (p : EnginePower) (limit : Nat) (st : LeaseState) : State :=
  { (leasing st) with module := { limit := limit, engines := [(256, { power := p, holder := some (0, 1) })] } }
theorem witness_LeaseEvents :
    (queueHead (requested .stopping) 32 = some { thread := 0, slot := 1, prio := 3, seq := 0 } ∧ engineIn (requested .stopping) 32 .stopping = some 256) ∧
    (engineIn (requested .off) 32 .stopping = none ∧ engineIn (requested .off) 32 .off = some 256 ∧
      mayWake (requested .off) ({ thread := 0, slot := 1, prio := 3, seq := 0 }, 32) = true) ∧
    ((engineAt (wakingUp .waking 256 .waking) 256).holder = some (0, 1) ∧ (wakingUp .waking 256 .waking).live 0 = true ∧
      (engineAt (wakingUp .waking 256 .waking) 256).power = .waking ∧ (leaseOf (wakingUp .waking 256 .waking) 0 1).wakePark = false) ∧
    ((leaseOf (leasing .held) ((leasing .held).refOf (0 : BitVec 12).toNat) (1 : BitVec 2).toNat).ovd = false ∧
      (leaseOf (leasing .held) 0 1).term.toNat ≤ (leaseOf (leasing .held) 0 1).used + ((leasing .held).pitch - (leaseOf (leasing .held) 0 1).since)) ∧
    (evictionOf (wakingUp .ready 0 .held) 256 = some false ∧ (∀ o ∈ (leaseOf (wakingUp .ready 0 .held) 0 1).ops, o.name = 0)) ∧
    (engineAt (wakingUp .evicting 256 .held) 256).power = .evicting ∧
    ((engineAt (wakingUp .stopping 256 .held) 256).power = .stopping ∧ queueHead (wakingUp .stopping 256 .held) (queueOf 256) = none) := by
  decide +kernel

theorem atWork_leased (o : EngineOp) (h : (engineAt (leased 1 ecMxe [o]) 256).power = .ready ∧
    (engineAt (leased 1 ecMxe [o]) 256).holder = some (0, 1) ∧ (leased 1 ecMxe [o]).live 0 = true ∧
    (leaseOf (leased 1 ecMxe [o]) 0 1).state = .held ∧ (leaseOf (leased 1 ecMxe [o]) 0 1).flt = false ∧
    (leaseOf (leased 1 ecMxe [o]) 0 1).ops = [o] ∧ engineTripped (leased 1 ecMxe [o]) 256 = false) :
    AtWork (leased 1 ecMxe [o]) 256 0 1 o [] := h
theorem witness_EngineSteps :
    AtWork (leased 1 ecMxe [engineOp .mswap]) 256 0 1 (engineOp .mswap) [] ∧ AtWork (leased 1 ecMxe [engineOp .mzero]) 256 0 1 (engineOp .mzero) [] ∧
    AtWork (leased 1 ecMxe [engineOp .mlds]) 256 0 1 (engineOp .mlds) [] ∧
    okSat (fun x => decide ((engineAt x.1 256).power = .ready ∧ (leaseOf x.1 0 1).ops = [engineOp .mlds]))
      (fetchPlane (leased 1 ecMxe [engineOp .mlds]) (engineOp .mlds) 0x2000 0) = true ∧
    AtWork (leased 1 ecMxe [engineOp .mstream]) 256 0 1 (engineOp .mstream) [] ∧
    (engineOp .mstream).steps < rowGroups (ecM (engineOp .mstream).ec) ∧
    okSat (fun x => decide ((engineAt x.1 256).power = .ready ∧ (leaseOf x.1 0 1).ops = [engineOp .mstream]))
      (fetchGroup (leased 1 ecMxe [engineOp .mstream]) (engineOp .mstream) 0x1000 0 0) = true ∧
    AtWork (leased 1 ecMxe [farOp]) 256 0 1 farOp [] ∧ farOp.steps < farOp.total ∧
    ∃ s c va b, opStep (leased 1 ecMxe [farOp]) 256 farOp = .error (.fault s c va b) ∧ (s.live 0 && c == .lsWindowFault) = true := by
  refine ⟨atWork_leased _ (by decide +kernel), atWork_leased _ (by decide +kernel), atWork_leased _ (by decide +kernel), by decide +kernel,
    atWork_leased _ (by decide +kernel), by decide +kernel, by decide +kernel, atWork_leased _ (by decide +kernel), by decide +kernel,
    exists_of_faults (p := fun s c => s.live 0 && c == .lsWindowFault) (by decide +kernel)⟩

/-- An operation at work on an engine of its class, held by lease slot 1 of thread 0, with threads on the cores west and north too. -/
noncomputable def working (k : BitVec 3) (o : EngineOp) : State :=
  let s := leased k [] [o]
  let s := { s with module := { s.module with width := [(0, 0)] } }
  [3, 48].foldl (fun s c => s.setThread (8 * c) { s.thread (8 * c) with present := true }) s
theorem atWork_working (k : BitVec 3) (o : EngineOp) (h : (engineAt (working k o) (k.toNat * 256)).power = .ready ∧
    (engineAt (working k o) (k.toNat * 256)).holder = some (0, 1) ∧ (working k o).live 0 = true ∧
    (leaseOf (working k o) 0 1).state = .held ∧ (leaseOf (working k o) 0 1).flt = false ∧
    (leaseOf (working k o) 0 1).ops = [o] ∧ engineTripped (working k o) (k.toNat * 256) = false) :
    AtWork (working k o) (k.toNat * 256) 0 1 o [] := h
/-- Whether an engine of class k still works for thread 0 after an access of an operation. -/
noncomputable def stillAt (k : Nat) (o : EngineOp) (s : State) : Bool :=
  decide ((engineAt s (k * 256)).power = .ready ∧ (engineAt s (k * 256)).holder = some (0, 1) ∧ (leaseOf s 0 1).ops = [o] ∧
    (leaseOf s 0 1).state = .held) && s.live 0
/-- A product with banks 0 to 3 of MROT, whose target rows of MDRAIN lie at 0x3000 of core 0; one of residues that RCONV writes to
0x3000; hashes of 10 and of 140 bytes; four bytes to halfwords; an element; nothing of a tree; 4,096 bytes of INT32. -/
noncomputable def mxeOp (kind : EngineKind) : EngineOp :=
  { engineOp kind with ec := [0x000B0404, 0x00008101, 0x1000, 0, 0, 0x2000, 0, 0, 0x3000, 32, 0, 0x13210] }
noncomputable def rxeOp (kind : EngineKind) : EngineOp :=
  { engineOp kind with ec := [0x000B1515, 0x00008101, 0x1000, 0, 0, 0x2000, 0, 0, 0x3000, 0, 32, 0] }
noncomputable def hxeOp (kind : EngineKind) (len : Word) : EngineOp :=
  { engineOp kind with ec := [0, 0, 0x1000, 0, len, 0x2000, 0, 0, 0, 0, 0, 0] }
noncomputable def convOp : EngineOp := { engineOp .gconv with ec := [0x00020004, 0, 0x1000, 0, 4, 0x2000, 0, 0, 0, 0, 0, 0] }
noncomputable def gathOp : EngineOp := { engineOp .ggath with ec := [0, 0, 0x1000, 0, 1, 0x2000, 0, 64, 0x1800, 0, 0, 0] }
noncomputable def treeOp : EngineOp := { engineOp .gcopy with ec := [0, 0, 0, 0, 0, 0x2000, 0, 0, 0, 0, 0, 0], leaves := 2, depth := 1 }
noncomputable def sumOp : EngineOp := { engineOp .allReduce with ec := [1, 0, 0x4000, 0, 4096, 0x8000, 0, 5, 0, 0, 0, 0] }
noncomputable def summing : State :=
  let s := working 5 sumOp
  { s with bridge := { s.bridge with chunks := [{ tag := 5, ordinal := 0, fmt := 1, len := 4096, index := 0, data := 3 }] } }

theorem witness_EngineSteps_products :
    (AtWork (working 1 (mxeOp .mtile)) 256 0 1 (mxeOp .mtile) [] ∧
      okSat (fun x => stillAt 1 (mxeOp .mtile) x.1 &&
          okSat (fun y => stillAt 1 (mxeOp .mtile) y.1) (fetchGroup x.1 x.2 0x1000 0 0))
        (loadPlane (working 1 (mxeOp .mtile)) 256 (mxeOp .mtile) 0x2000 0) = true) ∧
    (AtWork (working 1 (mxeOp .mrot)) 256 0 1 (mxeOp .mrot) [] ∧
      okSat (fun x => stillAt 1 (mxeOp .mrot) x.1 &&
          okSat (fun y => stillAt 1 (mxeOp .mrot) y.1) (fetchGroup x.1 x.2 (windowAddr (working 1 (mxeOp .mrot)) 0 0 0) 0 0))
        (loadPlane (working 1 (mxeOp .mrot)) 256 (mxeOp .mrot) (windowAddr (working 1 (mxeOp .mrot)) 0 0 0x8000) 0) = true) ∧
    ((mxeOp .mtile).steps = 0 * rowGroups (ecM (mxeOp .mtile).ec) + 0 ∧ 0 < rowGroups (ecM (mxeOp .mtile).ec) ∧
      0 < kBlocks (mxeOp .mtile).ec 64 ∧ kBlocks (mxeOp .mtile).ec 64 ≤ 0 + 1 ∧ rotBanks (mxeOp .mrot) = (0, 1, 2, 3)) ∧
    (AtWork (working 1 { mxeOp .mrot with steps := 1 }) 256 0 1 { mxeOp .mrot with steps := 1 } [] ∧
      ({ mxeOp .mrot with steps := 1 } : EngineOp).total = 1 + 1 ∧ neighbour 0 ((working 1 (mxeOp .mrot)).core 0).rseg 27 = some 3 ∧
      neighbour 0 ((working 1 (mxeOp .mrot)).core 0).rseg 24 = some 48 ∧
      okSat (fun _ => true) (rotateTest (working 1 { mxeOp .mrot with steps := 1 }) { mxeOp .mrot with steps := 1 }) = true) ∧
    (AtWork (working 1 (mxeOp .mdrain)) 256 0 1 (mxeOp .mdrain) [] ∧ drainRows (mxeOp .mdrain) = (0, 1) ∧
      localBad (working 1 (mxeOp .mdrain)) (mxeOp .mdrain).who 0 0x3000 4 = none) := by
  refine ⟨⟨atWork_working 1 _ (by decide +kernel), by decide +kernel⟩, ⟨atWork_working 1 _ (by decide +kernel), by decide +kernel⟩,
    by decide +kernel, ⟨atWork_working 1 _ (by decide +kernel), by decide +kernel⟩, atWork_working 1 _ (by decide +kernel), by decide +kernel⟩
theorem witness_EngineSteps_residues :
    (AtWork (working 2 (rxeOp .rlds)) 512 0 1 (rxeOp .rlds) [] ∧
      okSat (fun x => stillAt 2 (rxeOp .rlds) x.1) (fetchResidues (working 2 (rxeOp .rlds)) (rxeOp .rlds) 0) = true) ∧
    (AtWork (working 2 (rxeOp .rtile)) 512 0 1 (rxeOp .rtile) [] ∧
      okSat (fun x => okSat (fun y => stillAt 2 (rxeOp .rtile) y.1)
          (fetchRows x.2.who (aFmt (rxeOp .rtile).ec) 1 x.1 [rowAt 0x1000 0 0 + BitVec.ofNat 64 (elemBytes 21 0)]))
        (loadResidues (working 2 (rxeOp .rtile)) 512 (rxeOp .rtile) 0) = true ∧
      (0 < kBlocks (rxeOp .rtile).ec 32 ∧ kBlocks (rxeOp .rtile).ec 32 ≤ 0 + 1 ∧ aFmt (rxeOp .rtile).ec = 21 ∧ ecN (rxeOp .rtile).ec ≤ 64)) ∧
    (AtWork (working 2 (rxeOp .rconv)) 512 0 1 (rxeOp .rconv) [] ∧ rowBytes (oFmt (rxeOp .rconv).ec) 1 = 4 ∧
      ∀ v < 3, okSat (fun x => stillAt 2 (rxeOp .rconv) x)
        (writeRows (working 2 (rxeOp .rconv)) (rxeOp .rconv).who [(0x3000, 4, v, 2 ^ 32 - 1)]) = true) ∧
    (windowOff ((working 2 (rxeOp .rconv)).viOf (rxeOp .rconv).who.vi.toNat).lswin 0x3000 = some (0 * 2 ^ 18 + 0x3000) ∧
      localReach (working 2 (rxeOp .rconv)) (rxeOp .rconv).who 0 0x3000 = true) := by
  refine ⟨⟨atWork_working 2 _ (by decide +kernel), by decide +kernel⟩, ⟨atWork_working 2 _ (by decide +kernel), by decide +kernel⟩,
    ⟨atWork_working 2 _ (by decide +kernel), by decide +kernel⟩, by decide +kernel⟩
theorem witness_EngineSteps_hashes :
    (AtWork (working 3 (hxeOp .hdigest 10)) 768 0 1 (hxeOp .hdigest 10) [] ∧
      okSat (fun x => stillAt 3 (hxeOp .hdigest 10) x.1 &&
          okSat (fun y => stillAt 3 (hxeOp .hdigest 10) y) (writeRows x.1 (hxeOp .hdigest 10).who
            [(0x2000, 32, digestOf (absorb 0 (lastBlock x.2 10)), 2 ^ 256 - 1)]))
        (readAll (working 3 (hxeOp .hdigest 10)) (hxeOp .hdigest 10).who (0x1000 + BitVec.ofNat 64 (136 * 0)) 10 2) = true) ∧
    (AtWork (working 3 (hxeOp .hdigest 140)) 768 0 1 (hxeOp .hdigest 140) [] ∧
      okSat (fun x => stillAt 3 (hxeOp .hdigest 140) x.1)
        (readAll (working 3 (hxeOp .hdigest 140)) (hxeOp .hdigest 140).who (0x1000 + BitVec.ofNat 64 (136 * 0)) 136 2) = true) ∧
    (AtWork (working 3 (hxeOp .hingest 1)) 768 0 1 (hxeOp .hingest 1) [] ∧ (carStore (working 3 (hxeOp .hingest 1)) 0).en = true ∧
      okSat (fun x => okSat (fun y => stillAt 3 (hxeOp .hingest 1) y.1 &&
          (match lookupOrAllocate y.1 0 false y.2 with
          | .named u _ false => stillAt 3 (hxeOp .hingest 1) u
          | _ => false))
        (agentRead x.1 (hxeOp .hingest 1).who (0x1000 + BitVec.ofNat 64 (64 * 0)) 64 2))
        (resolve (working 3 (hxeOp .hingest 1)) (hxeOp .hingest 1).who .write (0x2000 + BitVec.ofNat 64 (8 * 0))) = true) ∧
    (AtWork (working 3 { hxeOp .hingest 1 with name := 5, nameKey := localKey 0 0x2000 }) 768 0 1
        { hxeOp .hingest 1 with name := 5, nameKey := localKey 0 0x2000 } [] ∧
      okSat (fun x => okSat (fun y => stillAt 3 { hxeOp .hingest 1 with name := 5, nameKey := localKey 0 0x2000 } y)
          (writeBytes x.1 (hxeOp .hingest 1).who 0x2000 x.2 8 5 (byteMask 8) 2 false))
        (placeOf (working 3 { hxeOp .hingest 1 with name := 5, nameKey := localKey 0 0x2000 }) (hxeOp .hingest 1).who 0x2000
          (localKey 0 0x2000)) = true) := by
  refine ⟨⟨atWork_working 3 _ (by decide +kernel), by decide +kernel⟩, ⟨atWork_working 3 _ (by decide +kernel), by decide +kernel⟩,
    ⟨atWork_working 3 _ (by decide +kernel), by decide +kernel⟩, atWork_working 3 _ (by decide +kernel), by decide +kernel⟩
theorem witness_EngineSteps_gathers :
    (AtWork (working 4 convOp) 1024 0 1 convOp [] ∧ (4 * fmtBits (oFmt convOp.ec) = 8 * gconvBytes convOp ∧ 0 < fmtBits (oFmt convOp.ec)) ∧
      okSat (fun x => okSat (fun y => stillAt 4 convOp y) (writeRows x.1 convOp.who [(0x2000, gconvBytes convOp, (encodeRun (oFmt convOp.ec)
          (ecRnd convOp.ec) (ecSat convOp.ec) ((List.range 4).map (fun k =>
            (decodeElem (aFmt convOp.ec) (x.2 / 2 ^ (fmtBits (aFmt convOp.ec) * k) % 2 ^ fmtBits (aFmt convOp.ec))).1))).1, 2 ^ 64 - 1)]))
        (readAll (working 4 convOp) convOp.who 0x1000 4 2) = true) ∧
    (AtWork (working 4 gathOp) 1024 0 1 gathOp [] ∧
      okSat (fun x => okSat (fun y => okSat (fun u => stillAt 4 gathOp u) (writeRows y.1 gathOp.who [(0x2000, 64, y.2, 2 ^ 512 - 1)]))
          (readAll x.1 gathOp.who (0x1000 + BitVec.ofNat 64 (x.2 * 64)) 64 2))
        (readAll (working 4 gathOp) gathOp.who 0x1800 4 2) = true) ∧
    (AtWork (working 4 treeOp) 1024 0 1 treeOp [] ∧ (carStore (working 4 treeOp) treeOp.store).en = true ∧
      okSat (fun x => okSat (fun y => stillAt 4 treeOp y) (writeRows x.1 treeOp.who [(0x2000 + BitVec.ofNat 64 (64 * 0), 64, x.2.toNat, 2 ^ 512 - 1)]))
        (walkLeaf (working 4 treeOp) 0 0 0 1 0) = true) ∧
    (AtWork (working 4 { treeOp with lost := true }) 1024 0 1 { treeOp with lost := true } []) := by
  refine ⟨⟨atWork_working 4 _ (by decide +kernel), by decide +kernel⟩, ⟨atWork_working 4 _ (by decide +kernel), by decide +kernel⟩,
    ⟨atWork_working 4 _ (by decide +kernel), by decide +kernel⟩, atWork_working 4 _ (by decide +kernel)⟩
theorem witness_EngineSteps_sums :
    AtWork summing 1280 0 1 sumOp [] ∧ sumOp.steps < sumOp.total ∧ linkDown summing.module = false ∧ moduleNumber summing = 0 ∧
    portPaused summing.module 0 = false ∧ portPaused summing.module 1 = false ∧
    summing.bridge.chunks.find? (fun y => y.tag == 5 && y.ordinal == 0 && y.index == 0) =
      some { tag := 5, ordinal := 0, fmt := 1, len := 4096, index := 0, data := 3 } ∧
    okSat (fun x => okSat (fun y => stillAt 5 sumOp y)
        (writeAll x.1 sumOp.who (0x8000 + BitVec.ofNat 64 (4096 * 0)) 4096 (reduceElems 1 0 x.2 3).1 (2 ^ 32768 - 1) 3 false))
      (readAll summing sumOp.who (0x4000 + BitVec.ofNat 64 (4096 * 0)) 4096 3) = true := by
  refine ⟨?_, by decide +kernel⟩
  unfold AtWork; decide +kernel

/-- A request in core 0's copy FIFO or in its cluster's engine, of thread 0. -/
def copyOf (len : Nat) (bad : Option DWord) : CopyReq :=
  { thread := 0, vi := 0, mode := .u, cls := 3, batch := 0, ordinal := 0, id := 4, tensor := false, src := 0x1000, dst := 0x2000, len := len,
    ext := [1, 1, 1], sstr := [0, 0, 0], dstr := [0, 0, 0], pluck := false, rnd := 0, sat := false, scope := 0, bad := bad }
noncomputable def copying (n : Nat) (inFlight : List CopyReq) : State :=
  let s := based.setCore 0 { based.core 0 with copies := List.replicate n (copyOf 4096 none) }
  s.setCluster 0 { s.cluster 0 with copies := inFlight }
/-- The control word of R80 with a reserved bit. -/
noncomputable def badControl : State := setR based 15 1
/-- A layout record of 8 elements at 0x1000. -/
noncomputable def recordAt : State :=
  let m := memPutNat [] (localKey 0 0x1000) 8 0x2000
  let m := memPutNat m (localKey 0 0x1008) 8 0x3000
  { setR based 8 0x1000 with mem := memPutNat m (localKey 0 0x1010) 8 0x0001000100010008 }

/-- Bank 0 of the core belongs to a protected context, 7, of which thread 0 is not (R411). -/
noncomputable def closedBank : State := recordAt.setCore 0 { recordAt.core 0 with pent := [(0, 0x0007000004000001)] }
theorem witness_CopyResults :
    (Source based 12 0 0 ∧ Source based (12 + 1) 0 0 ∧ Source based (12 + 2) 0 0 ∧ Source based (12 + 3) 0 0 ∧ BaseSource based 1 0x1000 ∧
      BaseSource based 2 0 ∧ controlOk 0 = true ∧ (based.core based.myCore).copies.length < 16 ∧ (based.th.scalar 8).busy = false) ∧
    (Source (copying 16 []) (12 + 3) 0 0 ∧ 16 ≤ ((copying 16 []).core (copying 16 []).myCore).copies.length) ∧
    (Source badControl (12 + 3) 0 1 ∧ controlOk 1 = false) ∧
    (Source recordAt 8 0 0x1000 ∧ (0x1000 : Word).toNat % 64 = 0 ∧ (0x1000 : Word).toNat + 64 ≤ 0x38000 ∧
      okSat (fun r => r.tensor) (tensorRequest recordAt (memRead recordAt.mem (localKey recordAt.myCore (0x1000 : Word).toNat) 64)) = true) ∧
    based.th.sealed.length < 16 ∧ based.th.sealed.length ≤ (0 : BitVec 5).toNat ∧
    (based.th.cfault.v = false ∧ batchFinished based.th based.th.cfault.batch = false) ∧
    (let th : Thread := { based.th with cfault := { v := true }, openBatch := { number := 1 } }
     th.cfault.v = true ∧ batchFinished th th.cfault.batch = true ∧ th.sealed.length ≤ (16 : BitVec 5).toNat) ∧
    (batchFinished (based.setTh { based.th with openBatch := { number := 1 } }).th ((0 : Word).setWidth 16) = true) := by
  unfold Source BaseSource; decide +kernel

theorem witness_CopyResults_TCOPY :
    (bankOpen recordAt (me recordAt) recordAt.myCore ((0x1000 : Word).toNat / 0x4000) = true ∧
      localKey recordAt.myCore (0x1000 : Word).toNat / 64 ∉ recordAt.bridge.poisoned) ∧
    bankOpen closedBank (me closedBank) closedBank.myCore ((0x1000 : Word).toNat / 0x4000) = false ∧
    (let s : State := { recordAt with bridge := { recordAt.bridge with poisoned := [localKey recordAt.myCore (0x1000 : Word).toNat / 64] } }
     bankOpen s (me s) s.myCore ((0x1000 : Word).toNat / 0x4000) = true ∧ localKey s.myCore (0x1000 : Word).toNat / 64 ∈ s.bridge.poisoned) := by
  decide +kernel

theorem witness_CopyEvents :
    ((copying 1 []).core (0 : BitVec 9).toNat).copies = [copyOf 4096 none] ∧ ((copying 1 []).cluster 0).copies.length < 64 ∧
    ((nextCopyCore (copying 1 []) (clusterOf (0 : BitVec 9).toNat)).any (fun x => decide (x.1 = 0 ∧ x.2 = copyOf 4096 none)) = true ∧
      coreAt 0 0 = (0 : BitVec 9).toNat) ∧
    (((copying 0 [copyOf 0 none]).cluster (0 : BitVec 5).toNat).copies[0]? = some (copyOf 0 none) ∧ (copying 0 [copyOf 0 none]).live 0 = true ∧ (copyOf 0 none).loose = false) ∧
    (let s := copying 0 [copyOf 64 none]
     (copyOf 64 none).row < (copyOf 64 none).rows ∧
      okSat (fun x => decide (x.2.rows ≤ x.2.row ∧ x.2.id = 4 ∧ x.2.bad = none ∧ x.2.held = none ∧ x.2.refused = false))
        (copyPiece s (copyOf 64 none)) = true) ∧
    ((copyOf 64 (some 0x2000)).bad = some 0x2000 ∧ (copying 0 [copyOf 64 (some 0x2000)]).live 0 = true ∧
      ((copying 0 []).thread (0 % 4096)).cfault.v = false) ∧
    (let s := based.setTh { based.th with sealed := [{ number := 0 }] }
     (s.thread (0 : BitVec 12).toNat).present = true ∧ (s.thread (0 : BitVec 12).toNat).sealed = [{ number := 0 }]) := by
  decide +kernel

/-- CAR store 0 with one live line of a count, in its set 0 at ordinal 1; its name is 2^52. -/
noncomputable def named (count : Nat) : State :=
  { leased 3 [] [] with mem := memPutNat (memPutNat [] (64 + 32) 4 count) (64 + 36) 1 1 }
/-- An allocation answers with a name and no collision. -/
def answersName (l : Lookup) (p : State → DWord → Bool) : Bool :=
  match l with
  | .named s n col => !col && p s n
  | .failed .. | .waits => false
theorem exists_of_answersName {l : Lookup} {p : State → DWord → Bool} (h : answersName l p = true) :
    ∃ s n, l = .named s n false ∧ p s n = true := by
  cases l with
  | named s n col => cases col with
    | false => exact ⟨s, n, rfl, by simpa [answersName] using h⟩
    | true => simp [answersName] at h
  | failed => cases h
  | waits => cases h
/-- What the search for a node finds: a slot that holds it, or a free one. -/
def foundHit : Found → Bool
  | .hit .. => true
  | _ => false
def foundFree (p : Nat → Bool → Bool) : Found → Bool
  | .free w col => p w col
  | _ => false
/-- The store with a PENDING node of one child, the live line of ordinal 1; its CLKN waits at child j. -/
noncomputable def pendingNode (j : Nat) : State :=
  let s := pendSlot (named 5) (carStore (named 5) 0) 2 true 0x10000000000000
  s.setTh { s.th with wait := .carPending 0 ((carStore s 0).spot true 0x10000000000000).set 2 j false }

theorem witness_CarResults :
    (CarRight (named 5) true 0 ∧ CarRight (named 5) false 0 ∧ VecSource (named 5) (2 : BitVec 6).toNat 0 ∧
      Unawaited (named 5) (destRefs (named 5) 14 true) ∧
      ∃ s n, lookupOrAllocate (named 5) 0 false 0 = .named s n false ∧ (!(s.th.scalar 14).busy && !(s.th.scalar 15).busy) = true) ∧
    (Source (setR (named 5) 15 0x100000) 14 0 0 ∧ Source (setR (named 5) 15 0x100000) (14 + 1) 0 0x100000 ∧
      okSat (fun _ => true) (carRead (setR (named 5) 15 0x100000) 0 0 0x10000000000000) = true ∧
      (carRef (named 5) (carStore (named 5) 0) 0x10000000000000).toOption.isSome = true ∧ (carRel (named 5) 0 (carStore (named 5) 0) 0x10000000000000).toOption.isSome = true ∧
      (namedSlot (named 5) (carStore (named 5) 0) 0x20000000000000).toOption.isNone = true) ∧
    (namedSlot (named 5) (carStore (named 5) 0) 0x10000000000000).toOption.any (fun x => decide (x.1 = 0 ∧ x.2.1 = 1 ∧ x.2.2.count = 5)) = true ∧
    (namedSlot (named 1) (carStore (named 1) 0) 0x10000000000000).toOption.any (fun x => decide (x.2.2.count ≤ 1)) = true ∧
    ((carSlot (named 1) (carStore (named 1) 0) 0 1).node = false ∧ (carStore (named 1) 0).en = true) ∧
    ((named 5).th.wait = .idle ∧ foundFree (fun _ _ => true) (carFind (named 5) 0 true 0x10000000000000) = true ∧
      (let s := liveNow (pendingNode 1) 0 ((carStore (named 5) 0).spot true 0x10000000000000).set 2 false
       foundHit (carFind s 0 true 0x10000000000000) = true ∧
         answersName (lookupOrAllocate s 0 true 0x10000000000000) (fun t _ => !(t.th.scalar 14).busy && !(t.th.scalar 15).busy) = true)) ∧
    (let s := pendingNode 0
     let x := children (carSlot s (carStore s 0) ((carStore s 0).spot true 0x10000000000000).set 2).data
     x[0]? = some 0x10000000000000 ∧ (carRef s (carStore s 0) 0x10000000000000).toOption.isSome = true ∧ x[1]? = none) := by
  refine ⟨⟨?_, ?_, ?_, ?_, exists_of_answersName (p := fun s _ => !(s.th.scalar 14).busy && !(s.th.scalar 15).busy) (by decide +kernel)⟩, ?_,
    by decide +kernel, by decide +kernel, by decide +kernel, by decide +kernel, by decide +kernel⟩
  · unfold CarRight; decide +kernel
  · unfold CarRight; decide +kernel
  · unfold VecSource; decide +kernel
  · unfold Unawaited; decide +kernel
  · unfold Source; decide +kernel

/-- A message of thread 0 to core 5 on its way, and one in core 0's receive queue. -/
def message : Message := { sender := 0, vi := 0, payload := 7 }
noncomputable def mailed (target : Nat) (tag : Option Nat) : State := { two 5 3 with mails := [{ target := target, msg := message, tag := tag }] }
noncomputable def received : State := (two 5 3).setCore 0 { (two 5 3).core 0 with queue := [message] }
theorem witness_MessageResults :
    (Source (two 511 3) 8 0 511 ∧ (511 : Word).toNat < 512 ∧ VecSource (two 511 3) 2 0 ∧ MayRelease (two 511 3) 2 ∧
      (two 511 3).th.wait = .idle ∧ ((released (two 511 3) 3).th.scalar 12).busy = false) ∧
    (waiting .sendAccepted).th.wait = .sendAccepted ∧ ((waiting .sendTimedOut).th.wait = .sendTimedOut ∧ Source (waiting .sendTimedOut) 8 0 5) ∧
    ((waiting (.sendRefused 3)).thread (0 : BitVec 12).toNat).wait = .sendRefused 3 ∧
    ((received.core received.myCore).queue = [message] ∧ (received.core received.myCore).overflow = [] ∧ message.vi = received.th.vi ∧ message.bad = false ∧
      (received.th.vecReg (1 : BitVec 6).toNat).busy = false) ∧
    (let s := (two 5 3).setCore 0 { (two 5 3).core 0 with queue := [{ message with bad := true }] }
     messagesAt s s.myCore = [{ message with bad := true }] ∧ ({ message with bad := true } : Message).vi = s.th.vi) ∧
    ((∀ m ∈ messagesAt (two 5 3) (two 5 3).myCore, m.vi ≠ (two 5 3).th.vi) ∧ Accepts (two 5 3) 12) ∧
    ((mailed 0 none).mails[0]? = some { target := 0, msg := message, tag := none } ∧ messageCode (mailed 0 none) 0 0 = 0 ∧
      ((mailed 0 none).core 0).overflow = [] ∧ ((mailed 0 none).core 0).queue.length < 16) ∧
    (messageCode (mailed 5 (some 3)) 5 0 ≠ 0 ∧
      ((mailed 5 (some 3)).setThread 9 { (mailed 5 (some 3)).thread 9 with producers := [{ landings := [{ reg := .scalar 130 }], ready := false, tag := 3 }] }).thread
        9 = { (mailed 5 (some 3)).thread 9 with producers := [{ landings := [{ reg := .scalar 130 }], ready := false, tag := 3 }] }) := by
  unfold Source VecSource MayRelease StoresDrained Accepts; decide +kernel

/-- A CALLAT request of thread 0, on its way to a core or in its task queue; the core is open where a block has a seat there. -/
def request (target : Nat) : Call :=
  { target := target, caller := 0, tag := 3, vi := 0, cls := 3, launch := none, pc := 0x100, args := [1, 2, 3, 4], cwbase := [], cwsize := [] }
noncomputable def calling (target queued : Nat) : State :=
  let s := placedOn (two 5 3) 0 40
  { s.setCore 5 { s.core 5 with calls := List.replicate queued (request 5) } with flights := [request target] }
theorem witness_CallResults :
    (Source (two 5 3) 8 0 5 ∧ BaseSource based 1 0x1000 ∧ BaseSource (setB based 1 0x1002) 1 0x1002 ∧ MayRelease based 2 ∧
      based.th.inpl = false ∧
      Source based 28 0 0 ∧ Source based 29 0 0 ∧ Source based 30 0 0 ∧ Source based 31 0 0 ∧
      (based.th.scalar 12).busy = false ∧ isPort 12 = false ∧ (5 : Word).toNat < 512) ∧
    ((calling 5 7).flights[0]? = some (request 5) ∧ coreClosed (calling 5 7) 5 = false ∧ openTo (calling 5 7) 5 0 = true ∧
      ((calling 5 7).core 5).calls.length < 8) ∧
    (coreClosed ((calling 5 0).setCore 5 { (calling 5 0).core 5 with sw := false }) 5 = true ∧
      (coreClosed (calling 6 0) 6 = false ∧ openTo (calling 6 0) 6 0 = false) ∧ 8 ≤ ((calling 5 8).core 5).calls.length) ∧
    (((calling 5 1).core (5 : BitVec 9).toNat).calls = [request 5] ∧
      firstFree (calling 5 1) (5 : BitVec 9).toNat = some 0 ∧ inRotation (calling 5 1) ((5 : BitVec 9).toNat * 8 + 0) = true) ∧
    ((slotM 0).th.mode = .m ∧ Source (setR (slotM 0) 8 4095) 8 0 4095 ∧ (((slotM 0).thread (4095 % 512 * 8 + 4095 / 512)).scalar 12).busy = false) := by
  unfold Source BaseSource MayRelease StoresDrained; decide +kernel

/-- Thread 0 as the tile task of block 0 of launch 7, or as a CALLAT child. -/
noncomputable def tasked : State :=
  let s := placedOn (two 5 3) 0 0
  s.setTh { s.th with task := some { launch := 7, block := 0, tile := 0, stage := 0 } }
noncomputable def child (w : Wait) : State :=
  (two 5 3).setTh { (two 5 3).th with child := some { launch := none, caller := 9, tag := 3 }, wait := w }
theorem witness_TaskEnds :
    ((child .idle).th.wait = .idle ∧ (child .idle).th.sealed.length < 16 ∧ (child .idle).th.child.isSome = true ∧ Source (child .idle) 8 0 5) ∧
    ((child (.ending 1)).th.wait = .ending 1 ∧ (child (.ending 1)).th.sealed = [] ∧ (child (.ending 1)).th.cfault.v = false ∧
      (child (.ending 1)).th.producers = [] ∧ (child (.ending 1)).th.arrivals = [] ∧ StoresDrained (child (.ending 1)) ∧
      (child (.ending 1)).th.child = some { launch := none, caller := 9, tag := 3 } ∧ (child (.ending 1)).th.present = true ∧
      (child (.ending 1)).th.leases = [] ∧ (child (.ending 1)).th.rsv = .free) ∧
    (two 5 3).th.child = none ∧
    (launchOf tasked tasked.th = some (7, oneLaunch) ∧ Source (setR (setR tasked 8 0) 9 1) 8 0 0 ∧ Source (setR (setR tasked 8 0) 9 1) 9 (sameBefore 8 9) 1 ∧
      (1 : Word).toNat < oneLaunch.stages ∧ (0 : Word).toNat % 2 ^ 16 < oneLaunch.gx * oneLaunch.gy ∧ (0 : Word).toNat / 2 ^ 16 < oneLaunch.x * oneLaunch.y ∧
      MayRelease (setR (setR tasked 8 0) 9 1) 2) := by
  unfold Source MayRelease StoresDrained; decide +kernel

/-- Barrier 3 of cluster 0, of block 0 of launch 7; `a0` names it. -/
noncomputable def barred (b : Barrier) (v : Word) (w : Wait) : State :=
  let s := placedOn (two 0x203 v) 0 0
  let s := s.setCluster 0 { s.cluster 0 with barriers := [(3, { b with owner := some (7 * 65536) })] }
  s.setTh { s.th with wait := w }
noncomputable def deferring : State :=
  (barred {} 5 .idle).setTh { (barred {} 5 .idle).th with arrivals := [{ cl := 0, n := 3, word := 0x203, credit := 5 }] }
theorem witness_BarrierResults :
    (Source (barred {} 0 .idle) 8 0 0x203 ∧ Source (barred {} 0 .idle) 9 (sameBefore 8 9) 0 ∧ (0x203 : Word).toNat < 1024 ∧
      barrierOf 0x203 (barred {} 0 .idle).myCluster = (0, 3) ∧ (barred {} 0 .idle).cur < 4096 ∧ (barred {} 0 .idle).th.present = true ∧
      (barred {} 0 .idle).th.arrivals = [] ∧ (2 : BitVec 2).getLsbD 1 = true ∧ (0 : BitVec 2).getLsbD 1 = false) ∧
    (openCopies ((barred {} 5 .idle).setCore 0 { (barred {} 5 .idle).core 0 with copies := [copyOf 64 none] }) ((barred {} 5 .idle).refOf 0) ≠ [] ∧
      (5 : Word) ≠ 0) ∧
    ((deferring.thread (0 : BitVec 12).toNat).arrivals = [{ cl := 0, n := 3, word := 0x203, credit := 5 }] ∧
      arrivalReady deferring (deferring.refOf (0 : BitVec 12).toNat) { cl := 0, n := 3, word := 0x203, credit := 5 } = true) ∧
    ((barred {} 5 .idle).th.wait = .idle ∧ barrierFor (barred {} 5 .idle) (barrierAt (barred {} 5 .idle) 0 3) (barred {} 5 .idle).th.vi = true ∧
      (5 : Word).getLsbD 31 = false ∧ Accepts (barred {} 5 .idle) 12) ∧
    ((barred {} 5 (.barAnswered 6)).th.wait = .barAnswered 6 ∧ (barred {} 5 .barRefused).th.wait = .barRefused) ∧
    (let s := barred { count := 2, phase := 5, arr := 1, bal := 4096, arrivals := [⟨0, 0, 0x203, 4096⟩], waits := [(0, 5)] } 0 .barAsked
     let b := barrierAt s (0 : BitVec 5).toNat (3 : BitVec 4).toNat
     (∀ x ∈ b.arrivals, barrierFor s b x.vi = true) ∧ (∀ x ∈ b.waits, barrierFor s b (s.thread x.1).vi = true) ∧ b.tests = [] ∧
       b.count.toNat ≤ min (b.arr.toNat + b.arrivals.length) 65535 ∧
       wrapBal (b.bal - ((b.arrivals.map (fun x => x.credit.toNat)).sum : Nat)) = 0) ∧
    (let s := barred { count := 2, expects := [(0, 4096)] } 0 .barAsked
     let b := barrierAt s (0 : BitVec 5).toNat (3 : BitVec 4).toNat
     b.expects = [(0, 4096)] ∧ (∀ e ∈ b.expects, barrierFor s b (s.thread e.1).vi = true) ∧ b.waits = [] ∧
       ¬ b.count.toNat ≤ min (b.arr.toNat + b.arrivals.length) 65535) := by
  unfold Source Accepts; decide +kernel

/-- Interface 0 with its queue enabled and a launch at its head, whose page the bridge translates; its stage table has two entries. -/
noncomputable def queued (l : Launch) : State :=
  let s := two 5 3
  let s := s.setVi 0 { s.viOf 0 with qcfg := 0x9C064000, queue := [7] }
  { s with
    launches := [(7, l)], module := { membase := 1, passDue := false, phase := .host }, mem := memPutNat (memPutNat [] 0x80004000 8 0x100) 0x80004008 8 0x200,
    bridge := { s.bridge with tlb := [{ onePage with page := 0x4000, pa := 0x80004000 }] } }
def fresh : Launch := { oneLaunch with ready := false, placed := 0, entries := [] }
theorem witness_QueueResults :
    (List.replicate 64 (0 : BitVec 8)).length = 64 ∧ booted (queued fresh) = true ∧
    refusal ((queued fresh).viOf (0 : BitVec 10).toNat) (BitVec.ofNat 512 (ofLanes 8 (List.replicate 64 0))) ≠ 0 ∧
    refusal ((queued fresh).viOf 0) 0x0302 = 0 ∧
    ((List.replicate 64 7).length ≥ 64 ∧ ((slot 0).viOf 1).qcfg.getLsbD 31 = false ∧ ((slot 0).viOf 1).queue.length < 64) ∧
    ((0 : BitVec 32).toNat / 2 ^ 19 % 2 ^ 8 = 0 ∧ (0x9C064000 : BitVec 32).toNat / 2 ^ 19 % 2 ^ 8 ≠ 0 ∧
      (0x9C064000 : BitVec 32).toNat % 2 ^ 19 ≤ 409600 ∧ (0x9C064000 : BitVec 32).getLsbD 31 = true ∧ (0x1C064000 : BitVec 32).getLsbD 31 = false) ∧
    (((queued fresh).viOf (0 : BitVec 10).toNat).queue = [7] ∧ look (queued fresh).launches 7 = some fresh ∧ fresh.vi = 0 ∧ fresh.placed = 0) := by
  decide +kernel

theorem witness_LaunchResults :
    (queueHeadOf (queued fresh) (0 : BitVec 10).toNat = some (7, fresh) ∧ fresh.ready = false ∧ fresh.held = none ∧
      ((queued fresh).viOf (0 : BitVec 10).toNat).qcfg.getLsbD 31 = true ∧ (∀ w ∈ (queued fresh).bridge.watchers, w.thread ≠ schedWaiter 0) ∧
      fresh.dep = false ∧ fresh.signal = false ∧ fresh.refused = false ∧ fresh.passed = false ∧
      queueHeadOf (queued { fresh with refused := true }) 0 = some (7, { fresh with refused := true })) ∧
    okSat (fun x => tableOk (tableEntries x.2.1) 2 &&
      okSat (fun y => argsOk y.2.1) (schedRead x.1 fresh.who fresh.argBlock 64)) (schedRead (queued fresh) fresh.who fresh.stageTab 64) = true ∧
    okSat (fun x => !tableOk (tableEntries x.2.1) 2) (schedRead (queued fresh) fresh.who 0x4080 64) = true ∧
    (let l := { fresh with signal := true, dep := true, depeq := true }
     queueHeadOf (queued l) 0 = some (7, l) ∧ okSat (fun x => decide (x.2.1.setWidth 32 = l.depval)) (schedRead (queued l) l.who l.depaddr 4) = true) ∧
    (let l := { oneLaunch with finished := 1 }
     l.done = false ∧ l.complete = true ∧ l.held = none ∧ l.code = 0 ∧ l.cmp = false ∧
       okSat (fun _ => true) (schedWrite (queued { l with cmp := true }) l.who l.cmpaddr l.cmpval l.clock) = true ∧
       childrenOf (queued l) 7 = false ∧ l.refused = false) ∧
    (let l := { oneLaunch with code := 3, finished := 1 }
     l.complete = true ∧ blockBusy (queued l) l.vi = false) := by
  decide +kernel

/-- Block 0 of launch 7 with a seat, with pending and started stages; wake-ups for it on their way. -/
noncomputable def staged (pending started : List (Nat × Nat)) : State :=
  let s := placedOn { two 5 3 with pitch := 100000 } 0 1
  { s with blocks := [(7 * 65536, { oneBlock 0 1 with pending := pending, started := started })],
           stWakes := [{ launch := 7, block := 0, tile := 0, stage := 1, poster := none }],
           mdWakes := [{ launch := 7, block := 0, tile := 0, stage := 1, core := 0, poster := none }] }
/-- Interface 0's queue has one block to place, and a pass is due. -/
def placeable : Launch := { oneLaunch with barmask := 0, placed := 0 }
noncomputable def placing : State :=
  let s := queued placeable
  let s := s.setVi 0 { s.viOf 0 with ring := some 3 }
  { s with module := { s.module with passDue := true } }
theorem witness_SchedulerResults_placement :
    ((∀ v ∈ placing.vis, v.1 ≠ 0 → eligible placing v.1 = false) ∧ eligible placing 0 = true ∧
      nextBlock placing 0 = some (7, placeable, none) ∧ placing.module.passDue = true ∧ placeable.vi.toNat = 0 ∧ (placing.viOf 0).queue = [7] ∧
      placeable.placed + 1 = placeable.blocks ∧ placeable.barmask = 0 ∧ (placing.viOf 0).ring = some placeable.cls ∧
      placeable.x * placeable.y ≤ (placing.viOf 0).deficit + quant placing 0 ∧ placeable.x * placeable.y ≤ quant placing 0 + 128) ∧
    choose { settleQueues placing with module := { (settleQueues placing).module with passDue := false } } 0 placeable = some (0, [1]) ∧
    qualifies placing 0 placeable 0 = some [1] := by
  refine ⟨?_, ?_, ?_⟩ <;> decide +kernel
theorem witness_SchedulerResults :
    (({ two 5 3 with module := { passDue := true } } : State).module.passDue = true ∧
      (∀ v ∈ (two 5 3).vis, eligible { two 5 3 with module := { passDue := false } } v.1 = false)) ∧ ({ oneLaunch with barmask := 0 } : Launch).barmask = 0 ∧
    (let s : State := { two 5 3 with pitch := 100000, module := { periods := 1, samples := 99 } }
     s.module.samples * 1000 ≤ s.pitch ∧ s.module.samples < s.module.periods * 100) ∧
    (let s : State := { two 5 3 with pitch := 100000, module := { periods := 1, samples := 100 } }
     s.module.periods * 100000 ≤ s.pitch ∧ s.module.samples = s.module.periods * 100) ∧
    (let s := staged [(0, 1)] [(0, 0)]
     look s.blocks (7 * 65536 + 0) = some { oneBlock 0 1 with pending := [(0, 1)], started := [(0, 0)] } ∧ nextStage { oneBlock 0 1 with pending := [(0, 1)] } 0 = some 1 ∧
       (s.thread 1).present = false ∧ restoring s 1 = false ∧ inRotation s 1 = true) ∧
    (let s := staged [] [(0, 0)]
     s.stWakes[0]? = some { launch := 7, block := 0, tile := 0, stage := 1, poster := none } ∧ (oneBlock 0 1).displaced = false ∧
       (oneBlock 0 1).ended = false ∧ (0, 1) ∉ ([] : List (Nat × Nat)) ∧ (0, 1) ∉ [(0, 0)] ∧ (oneBlock 0 1).seats = [1] ∧ coreOf 1 = 0 ∧
       1 < oneLaunch.stages) ∧
    (let s := { staged [] [(0, 0)] with stWakes := [], mdWakes := [] }
     runningSeats s (7 * 65536 + 0) { oneBlock 0 1 with started := [(0, 0)] } = [] ∧ savedOf s (7 * 65536 + 0) = [] ∧
       (∀ w ∈ s.stWakes ++ s.mdWakes, w.poster ≠ some (7 * 65536 + 0))) := by
  decide +kernel

/-- A request at core 0 for a slot, of an interface whose save area is at 0x80000000 of the module's memory. -/
noncomputable def preempting (p : Preempt) (mode : Mode) : State :=
  let s := two 5 3
  let s := s.setVi 0 { s.viOf 0 with savebase := 0x80000001 }
  let s := s.setCore 0 { s.core 0 with preempts := [p] }
  { s.setTh { s.th with mode := mode } with module := { membase := 1 } }
noncomputable def restorable (p : Preempt) : State :=
  let s := preempting p .u
  { s with saved := [(4097, { s.thread 1 with present := true })] }
theorem witness_PreemptResults :
    (let s := preempting { slot := 0, restore := false } .u
     (s.core (0 : BitVec 9).toNat).preempts = [{ slot := 0, restore := false }] ∧ (s.thread 0).present = true ∧ inRotation s 0 = true ∧
       finishing (s.thread 0).wait = false ∧ (s.thread 0).stops = false ∧ (s.thread 0).mode = .u ∧ (s.thread 0).inpl = false ∧ saveEnabled s (s.thread 0).vi.toNat = true) ∧
    (let s := preempting { slot := 0, restore := false, started := true } .u
     (s.thread 0).task = none ∧ ctxOf s 0 = 0 ∧ (∀ q ∈ (s.thread 0).producers, q.ready = false) ∧ drained s 0 = true) ∧
    (let s := restorable { slot := 1, restore := true }
     (s.core (0 : BitVec 9).toNat).preempts = [{ slot := 1, restore := true }] ∧ savedFor s 1 none = some 4097 ∧ (s.thread 1).present = false ∧
       okSat (fun i => decide ((s.core 0).records.length + (imageRecords i).length ≤ 8)) (readImage s 4097 none) = true ∧ inRotation s 1 = true ∧
       imageBad s 4097 none = false ∧ ({ slot := 1, restore := true } : Preempt).started = false) ∧
    (let s := restorable { slot := 1, restore := true, started := true }
     (s.core (0 : BitVec 9).toNat).preempts = [{ slot := 1, restore := true, started := true }] ∧ savedFor s 1 none = some 4097 ∧
       okSat (fun i => decide ((s.core 0).records.length + (imageRecords i).length ≤ 8)) (readImage s 4097 none) = true ∧
       inRotation s 1 = true ∧ imageBad s 4097 none = false) ∧
    (let s := tasked.setTh { tasked.th with mode := .s }
     taskKey s (0 : BitVec 12).toNat = some (7 * 65536) ∧ slotRuns s (0 : BitVec 12).toNat = true ∧ (s.thread (0 : BitVec 12).toNat).mode ≠ .u ∧ look s.blocks (7 * 65536) = some (oneBlock 0 0) ∧
       look s.launches 7 = some oneLaunch ∧ (oneBlock 0 0).seats = [(0 : BitVec 12).toNat] ∧ savedOf s (7 * 65536) = [] ∧
       (s.thread (0 : BitVec 12).toNat).leases = [] ∧ (s.thread (0 : BitVec 12).toNat).rsv = .free) := by
  decide +kernel

theorem witness_DeclarationResults :
    (let s := slot 0
     (carStore s (0 : BitVec 2).toNat).en = false ∧ (carStore s 0).dbusy = false ∧ (carStore s 0).ibusy = false ∧ (0x8 : BitVec 64).getLsbD 3 = true ∧
       (0x8 : BitVec 64).getLsbD 0 = false) ∧
    (let s : State := { slot 0 with module := { membase := 1 } }
     let v : BitVec 64 := 0x40000501
     v.getLsbD 0 = true ∧ carMayEnable s.module 0 { carStore s 0 with pbase := v.extractLsb' 30 34, gen := v.extractLsb' 8 8, log2 := v.extractLsb' 4 4 } = true) ∧
    (let s : State := { slot 0 with module := { car := [(0, { ibusy := true }), (1, { en := true }), (2, { dbusy := true })],
                                                crcfg := [(1, 1), (2, 2)] } }
     (carStore s (0 : BitVec 2).toNat).ibusy = true ∧ (carStore s (1 : BitVec 2).toNat).en = true ∧ (carStore s (2 : BitVec 2).toNat).dbusy = true ∧
       carUnderway s (2 : BitVec 2).toNat = false ∧
       (crcfgOf s (1 : BitVec 4).toNat).getLsbD 0 = true ∧ (crcfgOf s (2 : BitVec 4).toNat).getLsbD 1 = true) ∧
    (let s : State := { slot 0 with module := { membase := 1 } }
     crcfgOf s (15 : BitVec 4).toNat &&& 3 = 0 ∧ (1 : BitVec 32).getLsbD 0 = true ∧ crMayEnable s.module 15 (1 &&& 0x0FFFFFF1) = true) ∧
    (let s := slot 0
     (1 : BitVec 64).getLsbD 0 = true ∧ (13 : BitVec 4).toNat < 14 ∧ bstashOf s (0 : BitVec 9).toNat (13 : BitVec 4).toNat &&& 3 = 0 ∧
       (∀ p ∈ (s.core 0).bstash, p.1 ≠ 13 → p.2 ≠ 1 &&& 0xFFFFFFFFFFFFFFF1)) ∧
    (let s := (slot 0).setCore 0 { (slot 0).core 0 with bstash := [(1, 1), (2, 2)] }
     (bstashOf s 0 1).getLsbD 0 = true ∧ (bstashOf s 0 2).getLsbD 1 = true) ∧
    ((0x4009 : BitVec 32).extractLsb' 0 4 = (9 : BitVec 4) ∧ 8 < (9 : BitVec 4).toNat ∧ (0x4000 : BitVec 32).extractLsb' 8 8 = (64 : BitVec 8) ∧
      (0x4008 : BitVec 32).extractLsb' 0 4 = (8 : BitVec 4) ∧ ((slot 0).cluster (0 : BitVec 5).toNat).scratch = 0 ∧ residentBlocks (slot 0) 0 = [] ∧
      residentBlocks (placedOn (slot 0) 0 1) 0 ≠ [] ∧ (1 : BitVec 32).toNat % 1024 ≠ 0 ∧ (0x80000001 : BitVec 32).getLsbD 31 = true) := by
  decide +kernel

/-- Row 0 with a core removed bit by bit; the module capoed; a port of the link. -/
noncomputable def powered (rmv : BitVec 8) (eff : BitVec 3) (sw ready : Bool) : State :=
  (slot 0).setCore 0 { (slot 0).core 0 with rmv := rmv, eff := eff, sw := sw, ready := ready }
theorem witness_PowerResults :
    ((7 : BitVec 32).toNat % 8 = 7 ∧ coreInUse (slot 0) (0 : BitVec 9).toNat = true ∧ coreInUse (slot 0) (9 : BitVec 9).toNat = false) ∧
    ((0xD : BitVec 32).toNat % 8 < 6 ∧ (0xD : BitVec 32).getLsbD 3 = ((slot 0).core 0).sw ∧ (slot 0).module.capo = false) ∧
    ((8 : BitVec 32).toNat % 8 < 6 ∧ ((powered 0 0 false false).core 0).sw = false) ∧
    (targetEff (powered 0 3 true true) 0 0 ≠ ((powered 0 3 true true).core 0).eff.toNat ∧
      railOf (powered 0 3 true true) (rowOf 0) ≤ railClass (targetEff (powered 0 3 true true) 0 ((powered 0 3 true true).core 0).div) ∧
      targetEff (powered 0 3 true true) 0 0 < 8) ∧
    (let s : State := { slot 0 with module := { rails := [(0, 2)] } }
     s.module.capo = false ∧ neededRail s (0 : BitVec 5).toNat true < railOf s (0 : BitVec 5).toNat) ∧
    (((powered 0 0 true false).core (0 : BitVec 9).toNat).sw = true ∧ ((powered 0 0 true false).core 0).ready = false) ∧
    (((powered 0 0 true true).core ((0 : BitVec 5).toNat * 16)).rmv = 0 ∧ ((powered 0x80 0 true true).core ((0 : BitVec 5).toNat * 16)).rmv = 0x80 ∧
      ((powered 0xFE 0 true true).core ((0 : BitVec 5).toNat * 16)).rmv = 0xFE ∧ 1 ≤ (powered 0xFE 0 true true).module.limit) ∧
    (let s : State := { slot 0 with pitch := 250000, module := { capo := true, beats := 1, phase := .host } }
     s.module.phase ≠ .firmware ∧ s.pitch ≤ s.module.lastBeat + 250000 ∧ s.module.capo = true ∧ s.module.beats = 1) ∧
    ((up (slot 0)).pitch ≤ (up (slot 0)).module.lastBeat + 250000 ∧ (up (slot 0)).module.beats = 0 ∧ (up (slot 0)).module.phase ≠ .firmware) ∧
    (let s : State := up { slot 0 with pitch := 250001 }
     s.module.lastBeat + 250000 < s.pitch ∧ s.module.phase ≠ .firmware) ∧
    (let s : State := { slot 0 with pitch := 1000000, module := { trip := 2, width := [(1, 0)], cooled := [(1, 0)], phase := .host } }
     junctionOf s.module 1 < 95 ∧ look s.module.cooled (1 : BitVec 1).toNat = some 0 ∧ 0 + 1000000 ≤ s.pitch ∧ trainable s = true ∧ s.module.trip.getLsbD (1 : BitVec 1).toNat = true ∧ portWidth s.module (1 : BitVec 1).toNat ≠ 3 ∧ (1 : BitVec 2) ≠ 3 ∧
       1 ≠ portWidth s.module (1 : BitVec 1).toNat ∧ portWidth s.module (0 : BitVec 1).toNat = 3) := by
  decide +kernel

theorem witness_ProtectionResults :
    ((slot 0).module.tdisp = .unlocked ∧ (up (slot 0)).module.tdisp = .unlocked ∧ booted (up (slot 0)) = true) ∧
    (let s : State := { slot 0 with module := { tdisp := .locked, nonce := 5, phase := .host } }
     s.module.tdisp = .locked ∧ 5 = s.module.nonce ∧ (6 : BitVec 256) ≠ s.module.nonce ∧ s.module.tdisp ≠ .run ∧ s.module.tdisp ≠ .unlocked ∧
       s.blocks = [] ∧ booted s = true) ∧
    (let s : State := { slot 0 with module := { tdisp := .run } }
     s.blocks = [] ∧ s.module.tdisp = .run) ∧
    ((1 : BitVec 32).toNat % 4 ≤ 1 ∧ (slot 0).module.capo = false) ∧
    ((0xC0000000 : BitVec 32).getLsbD 31 = true ∧ (slot 0).module.scrubbing = false ∧ (0x20000000 : BitVec 32).getLsbD 29 = true ∧
      (0x20000000 : BitVec 32).getLsbD 31 = false ∧ (slot 0).module.retired.length < 256) ∧
    (({ slot 0 with module := { scrubbing := true } } : State).module.scrubbing = true) := by
  decide +kernel

theorem witness_HostResults :
    (booted (up (slot 0)) = true ∧ bar0Range (up (slot 0)).module (0x4000 : BitVec 64).toNat = false ∧ bar2Range (slot 0).module (0x4000 : BitVec 64).toNat = false ∧
      inCar (slot 0).module 0x4000 = false ∧ inCrange (slot 0).module 0x4000 = none ∧ 0x4000 / 64 ∉ (slot 0).bridge.poisoned ∧
      linesOf (0x4000 : BitVec 64).toNat 65 = [0x100, 0x101]) ∧
    (let s : State := { slot 0 with module := { membase := 1, car := [(0, { en := true })], phase := .host } }
     booted s = true ∧ ownRange s.module (64 * 0x100) = true ∧ inCar s.module (64 * 0x100) = true ∧ 0x100 ∈ linesOf (0x4000 : BitVec 64).toNat 65) ∧
    (let s : State := { slot 0 with module := { membase := 5, width := [(0, 0)], car := [(0, { en := true })] } }
     ownRange s.module (0x4000 : BitVec 64).toNat = true ∧ inCar s.module (0x4000 : BitVec 64).toNat = true ∧ linkDown s.module = false) ∧
    (let s : State := { slot 0 with module := { membase := 5, width := [(0, 0)] } }
     ownRange s.module (0x4000 : BitVec 64).toNat = true ∧ s.module.membase.getLsbD 2 = true ∧ linkDown s.module = false ∧
       (0x4000 : BitVec 64).toNat % 64 + 64 ≤ 64 ∧ (0x4000 : BitVec 64).toNat % 4 = 0) ∧
    (∀ p ∈ [Bringup.firmware, .memory, .link, .monitor],
      ({ slot 0 with agenda := [.bringUp], module := { (slot 0).module with phase := p } } : State).agenda = .bringUp :: []) ∧
    slotRuns (slot 0) (slot 0).cur = true ∧ (sysReg (0x5A2 : BitVec 12).toNat).any (fun r => decide (r.base = 0x5A2)) = true ∧
    (sysReg (0x060 : BitVec 12).toNat).any (fun r => decide (r.base = 0x060 ∧ r.base ∉ [0x520, 0x5A2, 0x5C0, 0x5C2])) = true := by
  decide +kernel

theorem witness_EncodeDecode :
    (Instr.ins 31 31 31 1 1).wf = true ∧ encodeNat (.ins 31 31 31 1 1) ≠ 0 ∧ (Instr.ldp 30 0 7 1 0xFFF).wf = true ∧
    encodeNat (.ldp 30 0 7 1 0xFFF) ≠ 0 := by
  decide +kernel
theorem witness_DecodeEncode : decode 0xAA0340C2 = some (.lrw 16 3 2 0 3 0 2) := by decide +kernel

/-- A fetch answers a word. -/
def fetches (p : State → Word → Bool) : Fetched → Bool
  | .next s w => p s w
  | _ => false
theorem exists_of_fetches {e : Fetched} {p : State → Word → Bool} (h : fetches p e = true) : ∃ s w, e = .next s w ∧ p s w = true := by
  cases e with
  | next s w => exact ⟨s, w, rfl, h⟩
  | waits => cases h
  | trap => cases h
theorem witness_StepRunsInstruction :
    ((slot 0x058C4000).agenda = [] ∧ (slot 0x058C4000).th.stalled = false ∧ canIssue (slot 0x058C4000) (slot 0x058C4000).cur = true ∧
      boundary (slot 0x058C4000) (slot 0x058C4000).cur = .nothing ∧
      ∃ s w, fetch (slot 0x058C4000) = .next s w ∧ (decide (w = 0x058C4000) && decide (decode w = some (.add 12 12 8 0 0))) = true) ∧
    (∃ s w, fetch (slot 0x04000006) = .next s w ∧ decide (decode w = none) = true) ∧
    (let s : State := { slot 0x058C4000 with agenda := [.issue 0] }
     s.agenda = .issue 0 :: [] ∧ canIssue { s with agenda := [], cur := 0 } 0 = true ∧ boundary { s with agenda := [], cur := 0 } 0 = .nothing ∧
       (s.thread 0).stalled = false) ∧
    (let s := (slot 0).setTh { (slot 0).th with stops := true }
     canIssue { s with agenda := [], cur := 0 } 0 = true ∧ boundary { s with agenda := [], cur := 0 } 0 = .over) ∧
    (let s := (slot 0).setTh { (slot 0).th with stalled := true, ir := 0x058C4000 }
     (s.thread 0).stalled = true ∧ decode (s.thread 0).ir = some (.add 12 12 8 0 0)) := by
  exact ⟨⟨by decide +kernel, by decide +kernel, by decide +kernel, by decide +kernel, exists_of_fetches (by decide +kernel)⟩,
    exists_of_fetches (p := fun _ w => decide (decode w = none)) (by decide +kernel), by decide +kernel, by decide +kernel, by decide +kernel⟩
theorem witness_StepRunsInstruction_local : LocalAccess (slot 0x058C4000) (slot 0x058C4000).th.pc 0 0 4 := by
  unfold LocalAccess; decide +kernel

theorem witness_StepKeepsForm : (slot 0x09840007).wf = true ∧ (seen (slot 0x09840007) (fun t => t.th.pc)).isSome = true := by decide +kernel

theorem witness_RegisterFrames :
    (∀ i ∈ [Instr.add 12 8 9 0 0, .div 12 8 9 0 0, .ins 12 8 9 0 0, .cmov 12 8 9 0 0, .clz 12 8 0, .slli 12 8 1 0, .addi 12 8 0 1, .lih 12 1,
        .addpc 12 1, .bgetLo 12 1 0, .beq 8 9 1, .bbs 8 1 1, .j 1, .jb 1 0, .loop 8 1, .fadd 12 8 9 0 0, .fma 12 8 9 0 0, .fsqrt 12 8 0,
        .fclass 12 8 0, .fcvti 12 8 0 0 0, .fcvtf 12 8 0 0, .bset 1 8 9 0 0, .badd 2 1 8 0 0, .bmov 2 1 0, .baddi 2 1 0 1, .blea 2 1],
      (after i (two 5 3) (fun _ => ())).isSome = true) ∧
    (∀ i ∈ [Instr.vaddI32 1 2 3 0, .vpermI8 1 2 3 0, .vabsI16 1 2 0, .vsatI8 1 2 3 0, .vfaddF32 1 2 3 0, .vfmaF16 1 2 3 0, .vfsqrtF32 1 2 0,
        .vraddI32 1 2 0, .vrfaddF32 1 2 0, .vbcastI32 1 8 0, .vinsI32 1 1 8, .vcvt 1 2 0 0 2 5, .vpack 1 4 0 0 0 2, .vunpk 4 1 0 0 2 0,
        .vcmpEqI32 1 2 3 0, .vcmpEqF32 1 2 3 0, .qand 1 2 3, .qnot 1 2, .vextI32 1 2 12, .qpop 1 12, .qfirst 1 12],
      (after i (two 5 3) (fun _ => ())).isSome = true) := by decide +kernel
theorem witness_RegisterFrames_constant :
    (after (.addc 12 8 3 0) windowed (fun _ => ())).isSome = true ∧
    LocalAccess windowed (lookD windowed.th.cwbase (3 : BitVec 2).toNat 0 + BitVec.ofNat 64 (4 * (0 : BitVec 14).toNat)) 0 0x1040 4 := by
  unfold LocalAccess; decide +kernel

/-- UPRET with its caller's frame spilled. -/
noncomputable def upcallAt (resident : Nat) (images : BitVec 15) : State :=
  (framed resident images).setTh { (framed resident images).th with frames := [(0, { retPc := 0, kind := 3 })], inup := true }
noncomputable def upcallBad : State :=
  { upcallAt 1 1 with bridge := { (upcallAt 1 1).bridge with poisoned := [bank14Key 0 0 / 64] } }
theorem witness_HandlerReturns_UPRET :
    ((topFrame (upcallAt 1 1).th).kind = 3 ∧ Source (setR (upcallAt 1 1) 9 2) 9 0 2 ∧ (2 : Word).toNat % 4 ≠ 0 ∧ Source (upcallAt 1 1) 9 0 0 ∧
      Source (upcallAt 1 1) 10 0 0) ∧
    ((upcallAt 1 0).th.resident ≤ 1 ∧ spilledExist (upcallAt 1 0).th = false) ∧
    (let s := (upcallAt 1 1).setTh { (upcallAt 1 1).th with wslim := 0 }
     s.th.resident = 1 ∧ spilledExist s.th = true ∧ windowBad s.th = true) ∧
    ((upcallAt 1 1).th.resident = 1 ∧ spilledExist (upcallAt 1 1).th = true ∧ windowBad (upcallAt 1 1).th = false ∧
      frameBusy (upcallAt 1 1).th (upcallAt 1 1).th.cwp = false ∧
      (∀ i < 4, (lookD (upcallAt 1 1).th.scal (16 * ((upcallAt 1 1).th.cwp + 1).toNat + i) {}).busy = false) ∧
      frameBad (upcallAt 1 1) (upcallAt 1 1).cur = false ∧ frameBad upcallBad upcallBad.cur = true) := by
  unfold Source; decide +kernel

/-- MN_EPC, of 64 bits, for a thread in M mode, with and without a staged word; CO_SPMAP_DATA in S mode. -/
theorem witness_SystemRegisterResults_halves :
    (sysReg (0x062 : BitVec 12).toNat).any (fun r => r.wide && decide (r.base ≠ 0x149 ∧ r.base = 0x062) && (two 5 3).th.mode.covers r.read &&
      r.write.any (fun m => (two 5 3).th.mode.covers m)) = true ∧
    ((sysReg (0x063 : BitVec 12).toNat).any (fun r => r.wide && decide (0x063 = r.base + 1) && r.write.any (fun m => (two 5 3).th.mode.covers m)) =
      true ∧ (two 5 3).th.staged = none ∧ Accepts (two 5 3) 12 ∧ Source (two 5 3) 8 0 5) ∧
    ((slotS 0).th.mode ≠ .u ∧ Accepts (slotS 0) 12 ∧ Source (slotS 0) 8 0 0) ∧
    (((slot 0).setCore 0 { (slot 0).core 0 with spsel := 0x80000000 }).core 0).spsel.getLsbD 31 = true := by
  unfold Accepts Source; decide +kernel

/-- The peer's counter is near this module's from 10 µs after the link came up (R2, R423). -/
theorem witness_AddressWaits_peer :
    let s : State := { slot 0 with pitch := 10000, module := { membase := 5, width := [(0, 0)] } }
    linkDown s.module = false ∧ s.module.linkSince + 10000 ≤ s.pitch := by decide +kernel

/-- SHA3-256 of 65 zero bytes, the digest of a leaf of zeros (R38). -/
def zeroLeaf : Nat := 0xeb7261dba2fa42d99f03fe51613884be9d00d0bd4dc6a7663065e0c0b5a76a41
theorem test_zero_leaf : lineDigest false 0 = zeroLeaf := by decide +kernel
/-- n live lines of that digest with other bytes, in the first slots of its set; a node of one child to be reclaimed. -/
noncomputable def twin (n : Nat) : State :=
  let s := leased 3 [] []
  { s with mem := (List.range n).foldl (fun m w =>
      memPutNat (memPutNat (memPutNat m (0x76A41 * 2048 + w * 64) 32 zeroLeaf) (0x76A41 * 2048 + w * 64 + 36) 1 1)
        (0x76A41 * 2048 + w * 64 + 1024) 1 (w + 1)) s.mem }
def collides : Lookup → Bool
  | .named s n col => col && !(s.th.scalar 14).busy && !((delivered s 14 (n.setWidth 32)).th.scalar 15).busy
  | _ => false
def fails : Lookup → Bool
  | .failed _ c _ => c == .memUncorrectable
  | _ => false
noncomputable def reclaiming : State :=
  let s := named 0
  { s with mem := memPutNat s.mem (64 + 37) 1 1, bridge := { s.bridge with reclaim := [(0, 0, 1)] } }
theorem witness_CarResults_collisions :
    (CarRight (twin 1) true 0 ∧ VecSource (twin 1) (2 : BitVec 6).toNat 0 ∧ VecSource (twin 1) (3 : BitVec 6).toNat 0 ∧
      collides (lookupOrAllocate (twin 1) 0 false 0) = true ∧ foundFree (fun w col => col && w == 1) (carFind (twin 1) 0 false 0) = true) ∧
    (let s : State := { twin 1 with bridge := { (twin 1).bridge with poisoned := [0x76A41 * 32] } }
     fails (lookupOrAllocate s 0 false 0) = true) ∧
    (let s := (pendingNode 1).setTh { (pendingNode 1).th with
       wait := .carPending 0 ((carStore (named 5) 0).spot true 0x10000000000000).set 2 1 true }
     (children (carSlot s (homeStore s 0) ((carStore (named 5) 0).spot true 0x10000000000000).set 2).data)[1]? = none) ∧
    (let s := { pendingNode 0 with mem := memPutNat (pendingNode 0).mem (64 + 36) 1 0 }
     let x := children (carSlot s (carStore s 0) ((carStore (named 5) 0).spot true 0x10000000000000).set 2).data
     x[0]? = some 0x10000000000000 ∧ (match namedSlot s (homeStore s 0) 0x10000000000000 with
       | .error c => c == .carStaleName
       | .ok _ => false) = true) := by
  unfold CarRight VecSource; decide +kernel
theorem witness_CarResults_reclaim :
    (reclaiming.bridge.reclaim = [(0, 0, 1)] ∧ (carStore reclaiming 0).en = true ∧ (carStore reclaiming 0).entry 0 1 / 64 ∉ reclaiming.bridge.poisoned ∧
      (carStore reclaiming 0).dataAt 0 1 / 64 ∉ reclaiming.bridge.poisoned ∧ (carSlot reclaiming (carStore reclaiming 0) 0 1).node = true ∧
      (carSlot { reclaiming with mem := (named 0).mem } (carStore reclaiming 0) 0 1).node = false) ∧
    (let s : State := { setR (named 5) 15 0x100000 with bridge := { (named 5).bridge with poisoned := [1] } }
     Source s 14 0 0 ∧ Source s (14 + 1) 0 0x100000 ∧ CarRight s true 0 ∧ (match namedSlot s (carStore s 0) 0x10000000000000 with
       | .error c => c == .memUncorrectable
       | .ok _ => false) = true) ∧
    (let s := setR (named 5) 15 0x200000
     CarRight s false 0 ∧ (match carRead s s.myCluster 0 0x20000000000000 with
       | .error c => c == .carStaleName
       | .ok _ => false) = true) := by
  unfold CarRight Source; decide +kernel

theorem witness_FloatRounding :
    (11, 8, 23) ∈ ieeeFormats ∧ (FiniteCode 8 23 0x3F800000 ∧ FiniteCode 8 23 0x80000000) ∧
    ((isNaNOf 8 23 0x7F800001 || isNaNOf 8 23 0x3F800000) = true ∧ isSignalOf 8 23 0x7F800001 = true) := by
  unfold FiniteCode; decide +kernel
/-- R130, R138: 1 + 2^−24 is a tie that goes to the even 1, and toward +∞ to the next value; the tie of 1 + 3 · 2^−24 goes up. -/
theorem test_round_tie : (fpAdd 11 0 false 0x3F800000 0x33800000).1 = 0x3F800000 ∧ (fpAdd 11 3 false 0x3F800000 0x33800000).1 = 0x3F800001 ∧
    (fpAdd 11 0 false 0x3F800001 0x33800000).1 = 0x3F800002 := by decide +kernel

/-- A store of 8 bytes to the module's memory that heads core 0's buffer, of a scope; threads of cores 0, 1 and 16 that have the page. -/
noncomputable def pagedStore (scope : BitVec 3) : State :=
  let s := [1, 16].foldl (fun s c => s.setCore c { s.core c with tlb := [onePage] }) mapped
  s.setCore 0 { s.core 0 with buffer := [{ plainEntry mapped 0x80000044 8 0x1122334455667788 with scope := scope }] }
noncomputable def readerAt (s : State) (core : Nat) : Who := { me s with thread := 8 * core, core := core, cluster := clusterOf core }
theorem loadsThere_of (t : State) (w : Who) (va : DWord) (p : Place) (n : Nat) (h : (w.own && decide (w.ctx = 0 ∧ w.core < Config.cores ∧
      w.cluster = clusterOf w.core) && (stashBank t w va).isNone) = true)
    (h' : okSat (fun x => decide (x.2 = p) && (match forward (settleLoads x.1 w.core x.2.line) w va x.2 n (byteMask n) with
      | .nothing => true
      | _ => false)) (resolve t w .read va) = true) : LoadsThere t w va p n := by
  simp only [Bool.and_eq_true, decide_eq_true_eq, Option.isNone_iff_eq_none] at h
  obtain ⟨⟨h1, h2, h3, h4⟩, h5⟩ := h
  obtain ⟨⟨t1, q⟩, hr, hp⟩ := exists_of_okSat h'
  simp only [Bool.and_eq_true, decide_eq_true_eq] at hp
  obtain ⟨rfl, hf⟩ := hp
  refine ⟨h1, h2, h3, h4, h5, t1, hr, ?_⟩
  revert hf
  split <;> simp_all
/-- The state when that store has drained. -/
noncomputable def stored (scope : BitVec 3) : State :=
  match exec (.storeDrain 0) (pagedStore scope) with
  | .next t => t
  | _ => State.reset
theorem past_of (t : State) (core line : Nat) (need : BitVec 64)
    (h : ((look (t.core core).l1 line).all (fun m => decide (leaseEnd m.rts m.part need < (t.core core).clock))) = true) :
    L1Past t core line need := by
  intro m hm
  simpa [hm] using h
theorem witness_StoredBytesAreLoaded :
    (∃ x, resolve (pagedStore 2) (entryWho 0 { plainEntry mapped 0x80000044 8 0x1122334455667788 with scope := 2 }) .write 0x80000044 = .ok x ∧
      (decide (x.2 = .own 0x80000044) && (inCrange x.1.module 0x80000044).isNone && !inCar x.1.module (64 * x.2.line) &&
        (stashBank x.1 (entryWho 0 (plainEntry mapped 0x80000044 8 0)) 0x80000044).isNone && !x.1.bridge.poisoned.contains x.2.line &&
        (look (x.1.cluster 0).lines x.2.line).all (fun l => decide (l.ctx = 0) && !l.bad)) = true) ∧
    (drainHeld (pagedStore 2) 0 = false ∧ (plainEntry mapped 0x80000044 8 0x1122334455667788).ctx = 0 ∧ Place.byte (.own 0x80000044) + 8 ≤ 64 ∧
      (plainEntry mapped 0x80000044 8 0x1122334455667788).mask = byteMask 8) ∧
    (∀ c ∈ [0, 1], LoadsThere (stored 2) (readerAt (stored 2) c) 0x80000044 (.own 0x80000044) 8) ∧
    L1Past (stored 2) 1 (Place.line (.own 0x80000044)) (needOf 4 8) ∧
    (LoadsThere (stored 4) (readerAt (stored 4) 16) 0x80000044 (.own 0x80000044) 8 ∧
      (look ((stored 4).cluster (readerAt (stored 4) 16).cluster).lines (Place.line (.own 0x80000044))).all (fun l => !l.dirty) = true) := by
  refine ⟨exists_of_okSat (by decide +kernel), by decide +kernel, ?_, past_of _ _ _ _ (by decide +kernel),
    loadsThere_of _ _ _ _ _ (by decide +kernel) (by decide +kernel), by decide +kernel⟩
  intro c hc
  simp only [List.mem_cons, List.not_mem_nil, or_false] at hc
  obtain rfl | rfl := hc
  · exact loadsThere_of _ _ _ _ _ (by decide +kernel) (by decide +kernel)
  · exact loadsThere_of _ _ _ _ _ (by decide +kernel) (by decide +kernel)

end Sys2Proof.Tests
end

section
/-!
PROOF of O56. Every operation of the machine keeps the form of the state. An operation's lemma stands under the file of the model
that defines the operation, in that file's order, and is named after it: `f_form` says that f keeps the form. Where an operation
can stop or answer beside the next state, `Ends`, `Opt` and `Next` say which of its results carry a state, and that state is in
its form. The lemmas on updates (`update_form`, `memory_form`) carry the content: only a write of memory, of a full/empty bit, of
the slot that issues and of the agenda can change the form.
-/

namespace Sys2Proof.StepForm

open Machine Laws

/-! ## What a meaning may end in -/

/-- Nothing is asked of a value that carries no state. -/
abbrev Free {α : Type} (_ : α) : Prop := True
/-- A state in its form. -/
abbrev Form (s : State) : Prop := s.wf = true
/-- A state in its form, with another result. -/
abbrev FormFst {β : Type} (x : State × β) : Prop := x.1.wf = true
/-- The state in which an instruction does not complete is in its form. -/
abbrev StopForm : Stop → Prop
  | .stall s | .blocked s | .trap s _ => s.wf = true
/-- The state in which an access is not performed is in its form. -/
abbrev BadForm : Bad → Prop
  | .wait s | .fault s .. => s.wf = true
/-- The state that a fetch leaves is in its form. -/
abbrev FetchedForm : Fetched → Prop
  | .next s _ | .waits s | .trap s _ => s.wf = true
/-- The state that a copy request leaves is in its form. -/
abbrev CopyEndForm : CopyEnd → Prop
  | .ended s | .waits s => s.wf = true
/-- The state that a search of a CAR set leaves is in its form. -/
abbrev FoundForm : Found → Prop
  | .refused s .. => s.wf = true
  | _ => True
/-- The state that a lookup in a CAR store leaves is in its form. -/
abbrev LookupForm : Lookup → Prop
  | .named s .. | .failed s .. => s.wf = true
  | .waits => True

/-- A computation ends well: in a value that meets I, or in a stop that meets E. -/
inductive Ends {ε α : Type} (E : ε → Prop) (I : α → Prop) : Except ε α → Prop
  | ok {a : α} (h : I a) : Ends E I (.ok a)
  | error {e : ε} (h : E e) : Ends E I (.error e)

/-- A value, where there is one, meets I. -/
inductive Opt {α : Type} (I : α → Prop) : Option α → Prop
  | none : Opt I none
  | some {a : α} (h : I a) : Opt I (some a)

/-- The next state, where there is one, is in its form. -/
inductive Next : Host.Outcome State Fault Refusal → Prop
  | next {s : State} (h : s.wf = true) : Next (.next s)
  | fault {f : Fault} : Next (.fault f)
  | refused {r : Refusal} : Next (.refused r)

/-! ## Composing meanings -/

section
variable {ε α β γ : Type} {E : ε → Prop} {I : α → Prop} {J : β → Prop}

theorem bind_form {x : Except ε α} {f : α → Except ε β} (hx : Ends E I x) (hf : ∀ a, I a → Ends E J (f a)) :
    Ends E J (x >>= f) := by
  cases hx with
  | ok h => exact hf _ h
  | error h => exact .error h

theorem bindFst_form {x : Except ε (State × γ)} {f : State × γ → Except ε β} (hx : Ends E FormFst x)
    (hf : ∀ s c, s.wf = true → Ends E J (f (s, c))) : Ends E J (x >>= f) := bind_form hx fun a ha => hf a.1 a.2 ha

theorem map_form {x : Except ε α} {f : α → β} (hx : Ends E I x) (hf : ∀ a, I a → J (f a)) : Ends E J (x.map f) := by
  cases hx with
  | ok h => exact .ok (hf _ h)
  | error h => exact .error h

theorem toOption_form {x : Except ε α} (hx : Ends E I x) : Opt I x.toOption := by
  cases hx with
  | ok h => exact .some h
  | error h => exact .none

/-- An answer that carries no state, in any case. -/
theorem free_form (x : Except ε α) : Ends Free Free x := by
  cases x with
  | ok => exact .ok trivial
  | error => exact .error trivial

theorem foldlM_form {l : List β} {f : α → β → Except ε α} {a : α} (ha : I a) (hf : ∀ a b, I a → Ends E I (f a b)) :
    Ends E I (l.foldlM f a) := by
  induction l generalizing a with
  | nil => exact .ok ha
  | cons b l ih => exact bind_form (hf a b ha) fun a ha => ih ha

theorem okFst_form {s : State} {c : γ} (h : s.wf = true) : Ends E FormFst (.ok (s, c)) := .ok h

theorem fst_form {s : State} {c : γ} (h : s.wf = true) : (s, c).1.wf = true := h

theorem ends_ite {c : Prop} {_ : Decidable c} {x y : Except ε α} (hx : Ends E I x) (hy : Ends E I y) :
    Ends E I (if c then x else y) := by
  split <;> assumption

theorem of_ok {x : Except ε α} {a : α} (e : x = .ok a) (h : Ends E I x) : I a := by
  subst e
  cases h
  assumption

theorem of_okFst {x : Except ε (State × γ)} {s : State} {c : γ} (e : x = .ok (s, c)) (h : Ends E FormFst x) :
    s.wf = true := of_ok (I := FormFst) e h

theorem of_error {x : Except ε α} {b : ε} (e : x = .error b) (h : Ends E I x) : E b := by
  subst e
  cases h
  assumption

theorem opt_map {o : Option α} {f : α → β} (ho : Opt I o) (hf : ∀ a, I a → J (f a)) : Opt J (o.map f) := by
  cases ho with
  | none => exact .none
  | some h => exact .some (hf _ h)

theorem opt_ite {c : Prop} {_ : Decidable c} {x y : Option α} (hx : Opt I x) (hy : Opt I y) : Opt I (if c then x else y) := by
  split <;> assumption

theorem of_some {o : Option α} {a : α} (e : o = some a) (h : Opt I o) : I a := by
  subst e
  cases h
  assumption

theorem of_someFst {o : Option (State × γ)} {s : State} {c : γ} (e : o = some (s, c)) (h : Opt FormFst o) :
    s.wf = true := of_some (I := FormFst) e h

theorem of_pair {p : State × γ} {s : State} {c : γ} (e : p = (s, c)) (h : p.1.wf = true) : s.wf = true := by
  subst e
  exact h

theorem fst_ite {c : Prop} {_ : Decidable c} {x y : State × γ} (hx : x.1.wf = true) (hy : y.1.wf = true) :
    (if c then x else y).1.wf = true := by
  split <;> assumption

theorem foldl_form {f : State → α → State} {l : List α} {s : State} (hs : s.wf = true)
    (hf : ∀ s a, s.wf = true → (f s a).wf = true) : (l.foldl f s).wf = true := foldl_wf hf l s hs

theorem foldlFst_form {f : State × γ → α → State × γ} {l : List α} {x : State × γ} (hx : x.1.wf = true)
    (hf : ∀ s c a, s.wf = true → (f (s, c) a).1.wf = true) : (l.foldl f x).1.wf = true := by
  induction l generalizing x with
  | nil => exact hx
  | cons a l ih => exact ih (hf x.1 x.2 a hx)
end

theorem getD_form {o : Option State} {s : State} (ho : Opt Form o) (hs : s.wf = true) : (o.getD s).wf = true := by
  cases ho with
  | none => exact hs
  | some h => exact h

theorem of_found {x y : Found} (e : x = y) (h : FoundForm x) : FoundForm y := e ▸ h

theorem of_lookup {x y : Lookup} (e : x = y) (h : LookupForm x) : LookupForm y := e ▸ h

theorem of_copyEnd {x y : CopyEnd} (e : x = y) (h : CopyEndForm x) : CopyEndForm y := e ▸ h

theorem of_fetched {x y : Fetched} (e : x = y) (h : FetchedForm x) : FetchedForm y := e ▸ h

theorem of_next {x : Host.Outcome State Fault Refusal} {s : State} (e : x = .next s) (h : Next x) : s.wf = true := by
  subst e
  cases h
  assumption

theorem ite_form {c : Prop} {_ : Decidable c} {s t : State} (hs : s.wf = true) (ht : t.wf = true) :
    (if c then s else t).wf = true := by
  split <;> assumption

theorem next_ite {c : Prop} {_ : Decidable c} {x y : Host.Outcome State Fault Refusal} (hx : Next x) (hy : Next y) :
    Next (if c then x else y) := by
  split <;> assumption

theorem stop_ite {c : Prop} {_ : Decidable c} {x y : Stop} (hx : StopForm x) (hy : StopForm y) :
    StopForm (if c then x else y) := by
  split <;> assumption

theorem found_ite {c : Prop} {_ : Decidable c} {x y : Found} (hx : FoundForm x) (hy : FoundForm y) :
    FoundForm (if c then x else y) := by
  split <;> assumption

theorem copyEnd_ite {c : Prop} {_ : Decidable c} {x y : CopyEnd} (hx : CopyEndForm x) (hy : CopyEndForm y) :
    CopyEndForm (if c then x else y) := by
  split <;> assumption

section
variable {s : State} {pitch : Nat} {threads saved : AMap Thread} {cores : AMap Core} {clusters : AMap Cluster} {vis : AMap Vi}
  {bridge : Bridge} {module : Module} {launches : AMap Launch} {blocks : AMap Block} {mails : List Mail} {flights : List Call}
  {stWakes mdWakes : List WakeUp} {changes : List (Nat × Nat × Bool)} {serial vaBits drawn : Nat}

/-- An update of a state that leaves memory, the empty words, the slot that issues and the turns to come keeps the form. -/
theorem update_form (h : s.wf = true) :
    (State.mk s.cur s.agenda pitch s.mem s.empty threads saved cores clusters vis bridge module launches blocks mails flights
      stWakes mdWakes changes serial vaBits drawn).wf = true := h

/-- So does one that writes memory, where memory keeps its form. -/
theorem memory_form {mem : List Host.Cell} (h : s.wf = true) (hm : Memory.wf s.mem = true → Memory.wf mem = true) :
    (State.mk s.cur s.agenda pitch mem s.empty threads saved cores clusters vis bridge module launches blocks mails flights
      stWakes mdWakes changes serial vaBits drawn).wf = true :=
  wf_of_parts (s := s) h (hm (mem_of_wf h)) (empty_of_wf (s := s) h) rfl rfl
end


/-! ## Lists, and what can happen -/

theorem findSome_form {α β : Type} {I : β → Prop} {f : α → Option β} (hf : ∀ a, Opt I (f a)) (l : List α) :
    Opt I (l.findSome? f) := by
  induction l with
  | nil => exact .none
  | cons a l ih =>
    rw [List.findSome?_cons]
    split
    · exact .some (of_some ‹_› (hf a))
    · exact ih

theorem orElse_form {α : Type} {I : α → Prop} {x : Option α} {y : Unit → Option α} (hx : Opt I x) (hy : Opt I (y ())) :
    Opt I (x.orElse y) := by
  cases hx with
  | none => exact hy
  | some h => exact .some h

/-! ## Memory, the slot that issues, and the turns to come -/

theorem Memory.wf_foldl {α : Type} {f : List Host.Cell → α → List Host.Cell}
    (hf : ∀ m a, Memory.wf m = true → Memory.wf (f m a) = true) (l : List α) (m : List Host.Cell) (h : Memory.wf m = true) :
    Memory.wf (l.foldl f m) = true := by
  induction l generalizing m with
  | nil => exact h
  | cons a l ih => exact ih _ (hf _ _ h)

/-- A turn that issues names one of the 4,096 slots. -/
abbrev TurnForm (u : Turn) : Prop := ∀ t, u = .issue t → t < 4096

theorem cur_of_wf {s : State} (h : s.wf = true) : s.cur < 4096 := by
  simp only [State.wf, Bool.and_eq_true, decide_eq_true_eq] at h
  exact h.1.2

/-- Another of the 4,096 slots may issue. -/
theorem cur_form {s : State} {t : Nat} (h : s.wf = true) (ht : t < 4096) : State.wf { s with cur := t } = true := by
  simp only [State.wf, Bool.and_eq_true, decide_eq_true_eq] at h ⊢
  exact ⟨⟨h.1.1, ht⟩, h.2⟩

/-- The next turn leaves the agenda. -/
theorem pop_form {s : State} {u : Turn} {rest : List Turn} (h : s.wf = true) (ha : s.agenda = u :: rest) :
    State.wf { s with agenda := rest } = true ∧ TurnForm u := by
  simp only [State.wf, ha, List.all_cons, Bool.and_eq_true] at h ⊢
  obtain ⟨hs, hu, hrest⟩ := h
  refine ⟨⟨hs, hrest⟩, ?_⟩
  rintro t rfl
  exact of_decide_eq_true hu

theorem completeReading_storage (s : State) (rs : List (BitVec 5)) : storage (completeReading s rs) = storage s :=
  (completeAt_storage _ _).trans (storage_foldl popPort_storage rs s)

/-! ## Sys2Proof/Machine/Ops.lean -/

theorem setThread_form {s : State} {t : Nat} {th : Thread} (h : s.wf = true) : (State.setThread s t th).wf = true :=
  update_form h

theorem setTh_form {s : State} {th : Thread} (h : s.wf = true) : (State.setTh s th).wf = true :=
  setThread_form h

theorem setCore_form {s : State} {c : Nat} {x : Core} (h : s.wf = true) : (State.setCore s c x).wf = true :=
  update_form h

theorem setCluster_form {s : State} {k : Nat} {x : Cluster} (h : s.wf = true) : (State.setCluster s k x).wf = true :=
  update_form h

theorem setVi_form {s : State} {v : Nat} {x : Vi} (h : s.wf = true) : (State.setVi s v x).wf = true :=
  update_form h

theorem updRef_form {s : State} {r : Nat} {f : Thread → Thread} (h : s.wf = true) : (State.updRef s r f).wf = true := by
  unfold State.updRef
  refine ite_form (setThread_form h) ?_
  split
  · exact update_form h
  · exact h

theorem popPort_form {s : State} {r : BitVec 5} (h : s.wf = true) : (popPort s r).wf = true :=
  ite_form (setCore_form h) h

theorem holdPorts_form {s : State} {rs : List (BitVec 5)} (h : s.wf = true) : (holdPorts s rs).wf = true :=
  ite_form h (setCore_form h)

theorem completeAt_form {s : State} {pc : DWord} (h : s.wf = true) : (completeAt s pc).wf = true :=
  setTh_form h

theorem complete_form {s : State} (h : s.wf = true) : (complete s).wf = true :=
  completeAt_form h

theorem holdSlot_form {s : State} (h : s.wf = true) : (holdSlot s).wf = true :=
  setTh_form h

theorem unregister_form {s : State} {t : Nat} (h : s.wf = true) : (unregister s t).wf = true :=
  update_form h

theorem withdraw_form {s : State} {t : Nat} (h : s.wf = true) : (withdraw s t).wf = true :=
  update_form h

theorem unholdPorts_form {s : State} {t : Nat} (h : s.wf = true) : (unholdPorts s t).wf = true :=
  ite_form h (setCore_form h)

theorem forgetWaiter_form {s : State} {core : Nat} {p : Waiter → Bool} (h : s.wf = true) :
    (forgetWaiter s core p).wf = true :=
  setCore_form h

theorem forgetNotes_form {s : State} {t : Nat} (h : s.wf = true) : (forgetNotes s t).wf = true :=
  forgetWaiter_form h

theorem forgetAgent_form {s : State} {core : Nat} {w : Waiter} (h : s.wf = true) : (forgetAgent s core w).wf = true :=
  setCluster_form (forgetWaiter_form h)

theorem abandon_form {s : State} {t : Nat} (h : s.wf = true) : (abandon s t).wf = true :=
  setThread_form (unholdPorts_form (forgetNotes_form (withdraw_form (unregister_form h))))

theorem spillFrame_form {s : State} {t : Nat} (h : s.wf = true) : (spillFrame s t).wf = true :=
  setThread_form (memory_form h (Memory.wf_memPutNat _ _ _ _))

theorem fillFrame_form {s : State} {t : Nat} (h : s.wf = true) : (fillFrame s t).wf = true :=
  setThread_form h

theorem spillIfNeeded_form {s : State} (h : s.wf = true) : Ends StopForm Form (spillIfNeeded s) :=
  ends_ite (.ok h) (ends_ite (.error h) (ends_ite (.error h) (.ok (spillFrame_form h))))

theorem rotateIn_form {s : State} {info : FrameInfo} (h : s.wf = true) : (rotateIn s info).wf = true :=
  update_form (setTh_form h)

theorem enterExecutive_form {s : State} {t : Nat} {restart : DWord} {r : TrapReq} {upf : Bool} (h : s.wf = true) :
    (enterExecutive s t restart r upf).wf = true :=
  setThread_form h

theorem enterMonitor_form {s : State} {t : Nat} {restart : DWord} {r : TrapReq} {upf : Bool} (h : s.wf = true) :
    (enterMonitor s t restart r upf).wf = true :=
  setThread_form (setCore_form h)

theorem enterUpcall_form {s : State} {restart : DWord} {r : TrapReq} (h : s.wf = true) :
    Opt Form (enterUpcall s restart r) :=
  opt_ite .none (opt_ite .none (.some (setTh_form (rotateIn_form (ite_form h (spillFrame_form h))))))

theorem trapThread_form {s : State} {t : Nat} {restart : DWord} {r : TrapReq} {upf : Bool} (h : s.wf = true) :
    (trapThread s t restart r upf).wf = true :=
  ite_form (enterMonitor_form (abandon_form h)) (enterExecutive_form (abandon_form h))

theorem takeTrap_form {s : State} {r : TrapReq} (h : s.wf = true) : (takeTrap s r).wf = true := by
  unfold takeTrap
  refine ite_form ?_ (trapThread_form h)
  split
  · rename_i e
    have h1 := of_some e (enterUpcall_form h)
    exact unholdPorts_form (forgetNotes_form h1)
  · exact ite_form h (holdSlot_form h)

theorem returnFromTrap_form {s : State} (h : s.wf = true) : (returnFromTrap s).wf = true :=
  ite_form (setTh_form h) (setTh_form h)

/-! ## Sys2Proof/Machine/Operands.lean -/

theorem finish_form {r : Eff State} (h : Ends StopForm Form r) : Next (finish r) := by
  cases h with
  | ok h => exact .next h
  | @error e h =>
    cases e with
    | stall => exact .next (holdSlot_form h)
    | blocked => exact .next (holdSlot_form h)
    | trap => exact .next (takeTrap_form h)

theorem finishKeeping_form {rs : List (BitVec 5)} {r : Eff State} (h : Ends StopForm Form r) : Next (finishKeeping rs r) := by
  refine finish_form ?_
  cases h with
  | ok h => exact .ok h
  | @error e h =>
    cases e with
    | stall => exact .error (holdPorts_form h)
    | blocked => exact .error h
    | trap => exact .error h

theorem illegalOperand_form {s : State} (h : s.wf = true) : StopForm (illegalOperand s) :=
  h

theorem misaligned_form {s : State} {a : DWord} (h : s.wf = true) : StopForm (misaligned s a) :=
  h

theorem require_form {c : Bool} {e : Stop} (h : StopForm e) : Ends StopForm Free (require c e) :=
  ends_ite (.ok trivial) (.error h)

theorem frameReadable_form {s : State} (h : s.wf = true) : Ends StopForm Free (frameReadable s) :=
  require_form h

theorem waitFor_form {c : Bool} {s : State} (h : s.wf = true) : Ends StopForm Free (waitFor c s) :=
  ends_ite (.ok trivial) (.error h)

theorem needMode_form {s : State} {low : Mode} (h : s.wf = true) : Ends StopForm Free (needMode s low) :=
  require_form h

theorem trapIn_form {α : Type} {I : α → Prop} {s : State} {r : Eff α} (h : s.wf = true) (hr : Ends StopForm I r) :
    Ends StopForm I (trapIn s r) := by
  unfold trapIn
  split
  · exact .error h
  · exact hr

theorem emptySource_form {s : State} {traps : Bool} {cls index : Nat} (h : s.wf = true) :
    StopForm (emptySource s traps cls index) :=
  stop_ite h h

theorem readX_form {s : State} {r : BitVec 5} {traps : Bool} {k : Nat} (h : s.wf = true) :
    Ends StopForm Free (readX s r traps k) := by
  unfold readX
  refine ends_ite (.ok trivial) ?_
  refine ends_ite ?_ (ends_ite (.ok trivial) (.error (emptySource_form h)))
  dsimp only
  split
  · exact .error (illegalOperand_form h)
  · split
    · exact .ok trivial
    · exact .error (emptySource_form h)

theorem readT_form {s : State} {r : BitVec 5} {t : BitVec 1} {k : Nat} (h : s.wf = true) :
    Ends StopForm Free (readT s r t k) :=
  readX_form h

theorem readP_form {s : State} {r : BitVec 5} {k : Nat} (h : s.wf = true) : Ends StopForm Free (readP s r k) :=
  readX_form h

theorem readB_form {s : State} {b : BitVec 3} {traps : Bool} (h : s.wf = true) : Ends StopForm Free (readB s b traps) :=
  ends_ite (.ok trivial) (ends_ite (.ok trivial) (.error (emptySource_form h)))

theorem readV_form {s : State} {v : Nat} (h : s.wf = true) : Ends StopForm Free (readV s v) :=
  ends_ite (.ok trivial) (.error (emptySource_form h))

theorem writeX_form {s : State} {r : BitVec 5} {v : Word} (h : s.wf = true) : Ends StopForm Form (writeX s r v) := by
  unfold writeX
  refine ends_ite (.ok h) ?_
  refine ends_ite ?_ (ends_ite (.error h) (.ok (setTh_form h)))
  split
  · exact .error (illegalOperand_form h)
  · exact ends_ite (.ok (setCore_form h)) (.error h)

theorem writeB_form {s : State} {b : BitVec 3} {v : DWord} (h : s.wf = true) : Ends StopForm Form (writeB s b v) :=
  ends_ite (.ok h) (ends_ite (.error h) (.ok (setTh_form h)))

theorem writeV_form {s : State} {v : Nat} {x : VWord} (h : s.wf = true) : Ends StopForm Form (writeV s v x) :=
  ends_ite (.error h) (.ok (setTh_form h))

theorem completeReading_form {s : State} {rs : List (BitVec 5)} (h : s.wf = true) : (completeReading s rs).wf = true :=
  complete_form (foldl_form h fun _ _ h1 => popPort_form h1)

theorem launch_form {s : State} {p : Producer} (h : s.wf = true) : Ends StopForm Form (launch s p) :=
  ends_ite (.error h) (ends_ite (.ok h) (.ok (setTh_form h)))

theorem arrive_form {s : State} {t k : Nat} (h : s.wf = true) : Opt Form (arrive s t k) := by
  unfold arrive
  dsimp only
  split
  · exact opt_ite (.some (setThread_form (ite_form h (setCore_form h)))) .none
  · exact .none

/-! ## Sys2Proof/Machine/Flags.lean -/

theorem raise_form {s : State} {r : Raised} (h : s.wf = true) : (raise s r).wf = true :=
  setTh_form h

/-! ## Sys2Proof/Machine/Translate.lean -/

theorem installCore_form {s : State} {c : Nat} {e : TlbEntry} (h : s.wf = true) : (installCore s c e).wf = true :=
  setCore_form h

theorem installCluster_form {s : State} {k : Nat} {e : TlbEntry} (h : s.wf = true) : (installCluster s k e).wf = true :=
  setCluster_form h

theorem installBridge_form {s : State} {e : TlbEntry} (h : s.wf = true) : (installBridge s e).wf = true :=
  update_form h

theorem setMissCore_form {s : State} {c : Nat} {l : MissLevel} (h : s.wf = true) : (setMissCore s c l).wf = true :=
  setCore_form h

theorem setMissCluster_form {s : State} {k : Nat} {l : MissLevel} (h : s.wf = true) : (setMissCluster s k l).wf = true :=
  setCluster_form h

theorem setMissBridge_form {s : State} {l : MissLevel} (h : s.wf = true) : (setMissBridge s l).wf = true :=
  update_form h

theorem missBridge_form {s : State} {pasid : BitVec 20} {page : Nat} {who : Who} (h : s.wf = true) :
    (missBridge s pasid page who).wf = true :=
  setMissBridge_form h

theorem missCluster_form {s : State} {pasid : BitVec 20} {page : Nat} {who : Who} (h : s.wf = true) :
    (missCluster s pasid page who).wf = true :=
  ite_form (missBridge_form (setMissCluster_form h)) (setMissCluster_form h)

theorem missCore_form {s : State} {pasid : BitVec 20} {page : Nat} {who : Who} (h : s.wf = true) :
    (missCore s pasid page who).wf = true :=
  ite_form (missCluster_form (setMissCore_form h)) (setMissCore_form h)

theorem outerFind_form {s : State} {k : Nat} {pasid : BitVec 20} {va : DWord} (h : s.wf = true) :
    (outerFind s k pasid va).1.wf = true := by
  unfold outerFind
  split
  · exact fst_form (setCluster_form h)
  · refine fst_ite h ?_
    split
    · exact fst_form (installCluster_form (update_form h))
    · exact h

theorem tlbWalk_form {s : State} {who : Who} {va : DWord} (h : s.wf = true) : (tlbWalk s who va).1.wf = true := by
  unfold tlbWalk
  refine fst_ite ?_ ?_
  · split
    · exact fst_form (setCore_form h)
    · refine fst_ite (fst_form (missCore_form h)) ?_
      split
      · rename_i e
        have h1 := of_pair e (outerFind_form h)
        exact fst_form (installCore_form h1)
      · rename_i e
        have h1 := of_pair e (outerFind_form h)
        exact fst_form (missCore_form h1)
  · split
    · rename_i e
      have h1 := of_pair e (outerFind_form h)
      exact h1
    · rename_i e
      have h1 := of_pair e (outerFind_form h)
      exact fst_form (missCluster_form h1)

theorem pageRequest_form {s : State} {pasid : BitVec 20} {page : Nat} {write : Bool} {cls : BitVec 2} (h : s.wf = true) :
    (pageRequest s pasid page write cls).1.wf = true :=
  fst_ite h (fst_ite (fst_form (update_form h)) (fst_ite h (fst_form (update_form h))))

theorem nextPageRequest_form {s : State} (h : s.wf = true) : (nextPageRequest s).wf = true := by
  unfold nextPageRequest
  dsimp only
  split
  · exact ite_form (update_form h) h
  · exact h

theorem clearNote_form {s : State} {core : Nat} {key : Waiter × BitVec 20 × Nat} (h : s.wf = true) :
    (clearNote s core key).wf = true :=
  ite_form (setCore_form h) h

theorem badEntry_form {α : Type} {I : α → Prop} {s : State} {who : Who} {k : Right} {va : DWord} {e : TlbEntry}
    (h : s.wf = true) : Ends BadForm I (badEntry s who k va e) := by
  unfold badEntry
  refine ends_ite ?_ ?_
  · exact .error (update_form (setCluster_form (setCore_form h)))
  · exact .error (update_form (setCluster_form (setCore_form h)))

theorem translate_form {s : State} {who : Who} {k : Right} {va : DWord} (h : s.wf = true) :
    Ends BadForm FormFst (Machine.translate s who k va) := by
  unfold Machine.translate
  refine ends_ite (.error h) ?_
  split
  · rename_i e
    have h1 := of_pair e (tlbWalk_form h)
    refine ends_ite ?_ (.error h1)
    refine ends_ite (.error (clearNote_form h)) ?_
    split
    · rename_i e1
      have h2 := of_pair e1 (pageRequest_form h)
      exact .error (clearNote_form h2)
    · rename_i e1
      have h2 := of_pair e1 (pageRequest_form h)
      exact .error h2
  · rename_i e
    have h1 := of_pair e (tlbWalk_form h)
    refine ends_ite (badEntry_form (clearNote_form h1)) ?_
    refine ends_ite ?_ ?_
    · exact .error (clearNote_form h1)
    · exact ends_ite (.error (clearNote_form h1)) (okFst_form (clearNote_form h1))

theorem classify_form {s : State} {va : DWord} {pa : Nat} (h : s.wf = true) :
    Ends BadForm FormFst (Machine.classify s va pa) := by
  unfold Machine.classify
  refine ends_ite (ends_ite (.error h) (okFst_form h)) ?_
  refine ends_ite ?_ ?_
  · exact ends_ite (.error h) (ends_ite (.error h) (okFst_form h))
  · exact ends_ite (okFst_form h) (ends_ite (.error h) (okFst_form h))

theorem resolve_form {s : State} {who : Who} {k : Right} {va : DWord} (h : s.wf = true) :
    Ends BadForm FormFst (resolve s who k va) := by
  unfold resolve
  dsimp only
  split
  · exact ends_ite (okFst_form h) (.error h)
  · split
    · exact ends_ite (okFst_form h) (.error h)
    · exact ends_ite (bindFst_form (translate_form h) fun _ _ h1 => classify_form h1) (.error h)

/-! ## Sys2Proof/Machine/Cache.lean -/

theorem setWatchers_form {s : State} {place : Nat} {l : List Sleeper} (h : s.wf = true) :
    (setWatchers s place l).wf = true :=
  ite_form (update_form h) (setCluster_form h)

theorem setParked_form {s : State} {place : Nat} {l : List Sleeper} (h : s.wf = true) : (setParked s place l).wf = true :=
  ite_form (update_form h) (setCluster_form h)

theorem endWaita_form {s : State} {t : Nat} {code : BitVec 32} {c : Nat} (h : s.wf = true) :
    (endWaita s t code c).wf = true :=
  ite_form (setThread_form h) h

theorem wakeWords_form {s : State} {place : Nat} {keys : List Nat} {c : Nat} (h : s.wf = true) :
    (wakeWords s place keys c).wf = true :=
  ite_form h (foldl_form (setWatchers_form h) fun _ _ h1 => endWaita_form h1)

theorem evictHome_form {s : State} {line : Nat} (h : s.wf = true) : (evictHome s line).wf = true :=
  update_form h

theorem setHome_form {s : State} {line : Nat} {hd : HomeLine} (h : s.wf = true) : (setHome s line hd).wf = true := by
  unfold setHome
  refine update_form (ite_form ?_ h)
  dsimp only
  split
  · exact update_form (evictHome_form h)
  · exact h

theorem fetchLine_form {s : State} {line : Nat} (h : s.wf = true) : (fetchLine s line).wf = true := by
  unfold fetchLine
  refine ite_form ?_ (ite_form h (setHome_form (update_form h)))
  split
  · exact update_form h
  · exact update_form h
  · exact h

theorem takeLine_form {s : State} {line : Nat} (h : s.wf = true) : (takeLine s line).wf = true :=
  ite_form (update_form h) (update_form h)

theorem stampHome_form {s : State} {line c : Nat} (h : s.wf = true) : (stampHome s line c).1.wf = true :=
  fst_form (setHome_form h)

theorem mergeLine_form {s : State} {ctx line : Nat} {data mask : Line} (h : s.wf = true) :
    (mergeLine s ctx line data mask).wf = true := by
  unfold mergeLine
  split
  · exact memory_form h (Memory.wf_memWrite _ _ _ _ _)
  · exact memory_form h (Memory.wf_memWrite _ _ _ _ _)

theorem poison_form {s : State} {line : Nat} (h : s.wf = true) : (poison s line).wf = true :=
  ite_form h (update_form h)

theorem carryErrors_form {s : State} {src dst n : Nat} (h : s.wf = true) : (carryErrors s src dst n).wf = true :=
  foldl_form h fun _ _ h1 => ite_form (poison_form h1) h1

theorem combineLine_form {s : State} {n ctx line c : Nat} {clusters : List Nat} (h : s.wf = true) :
    (combineLine s n ctx line c clusters).wf = true := by
  unfold combineLine
  refine ite_form ?_ (foldl_form (ite_form (poison_form h) h) fun _ _ h1 => ite_form (setCluster_form h1) h1)
  exact homeMerge_form _ _ _ _ _ _ (foldl_form (ite_form (poison_form h) h) fun _ _ h1 => ite_form (setCluster_form h1)
    h1)

theorem raiseClock_form {s : State} {core c : Nat} (h : s.wf = true) : (raiseClock s core c).wf = true :=
  setCore_form h

theorem raiseCluster_form {s : State} {k c : Nat} (h : s.wf = true) : (raiseCluster s k c).wf = true :=
  setCluster_form h

theorem askCluster_form {s : State} {core : Nat} (h : s.wf = true) : (askCluster s core).wf = true :=
  raiseClock_form (raiseCluster_form h)

theorem whoRaise_form {s : State} {w : Who} {c : Nat} (h : s.wf = true) : (Who.raise s w c).wf = true :=
  ite_form (raiseClock_form h) (raiseCluster_form h)

theorem whoAsk_form {s : State} {w : Who} (h : s.wf = true) : (Who.ask s w).wf = true :=
  ite_form (askCluster_form h) h

theorem dropPartial_form {s : State} {k line : Nat} (h : s.wf = true) : (dropPartial s k line).wf = true := by
  unfold dropPartial
  split
  · exact raiseCluster_form (combineLine_form h)
  · exact setCluster_form h

theorem makeRoom_form {s : State} {k : Nat} (h : s.wf = true) : (makeRoom s k).wf = true := by
  unfold makeRoom
  refine ite_form h ?_
  dsimp only
  split
  · exact dropLine_form _ _ _ (update_form h)
  · exact dropPartial_form (update_form h)
  · exact setCluster_form (update_form h)
  · exact update_form h

theorem enterLine_form {s : State} {k line : Nat} {l : ClusterLine} (h : s.wf = true) : (enterLine s k line l).wf = true :=
  setCluster_form (ite_form (makeRoom_form h) h)

theorem grantHome_form {s : State} {k ctx line c : Nat} {cover : BitVec 64} (h : s.wf = true) :
    Ends Free Form (grantHome s k ctx line c cover) := by
  unfold grantHome
  dsimp only
  split
  · exact .error trivial
  · exact .ok (enterLine_form (setHome_form (fetchLine_form h)))

theorem sameContext_form {s : State} {k ctx line : Nat} (h : s.wf = true) : (sameContext s k ctx line).wf = true := by
  unfold sameContext
  split
  · exact ite_form h (dropLine_form _ _ _ h)
  · exact h

theorem clusterRead_form {s : State} {k ctx line c : Nat} {need : BitVec 64} (h : s.wf = true) :
    Ends Free FormFst (clusterRead s k ctx line c need) := by
  unfold clusterRead
  refine ends_ite ?_ ?_
  · refine bind_form (I := Free) (.error trivial) fun _ _ => ?_
    dsimp only
    split
    · refine ends_ite ?_ ?_
      · exact okFst_form (raiseCluster_form (sameContext_form h))
      · exact bind_form (grantHome_form (raiseCluster_form (sameContext_form h))) fun _ h1 => okFst_form h1
    · exact bind_form (grantHome_form (raiseCluster_form (sameContext_form h))) fun _ h1 => okFst_form h1
  · dsimp only
    split
    · refine ends_ite ?_ ?_
      · exact okFst_form (raiseCluster_form (sameContext_form h))
      · exact bind_form (grantHome_form (raiseCluster_form (sameContext_form h))) fun _ h1 => okFst_form h1
    · exact bind_form (grantHome_form (raiseCluster_form (sameContext_form h))) fun _ h1 => okFst_form h1

theorem clusterAsk_form {s : State} {who : Who} {line : Nat} {need : BitVec 64} (h : s.wf = true) :
    Ends Free FormFst (clusterAsk s who line need) :=
  bindFst_form (clusterRead_form h) fun _ _ h1 => okFst_form (whoRaise_form h1)

theorem clusterAtomic_form {s : State} {who : Who} {line : Nat} {need : BitVec 64} (h : s.wf = true) :
    Ends Free FormFst (clusterAtomic s who line need) := by
  unfold clusterAtomic
  dsimp only
  split
  · refine ends_ite ?_ ?_
    · exact ends_ite (.error trivial) (okFst_form (whoRaise_form (raiseCluster_form (sameContext_form h))))
    · exact clusterAsk_form (raiseCluster_form (sameContext_form h))
  · exact clusterAsk_form (raiseCluster_form (sameContext_form h))

theorem l1Merge_form {s : State} {core ctx line : Nat} {data : Line} {fe : BitVec 16} {wts : Nat}
    {part : Option (Nat × BitVec 64)} (h : s.wf = true) : (l1Merge s core ctx line data fe wts part).wf = true :=
  ite_form (setCore_form h) h

theorem l1Drop_form {s : State} {core line : Nat} (h : s.wf = true) : (l1Drop s core line).wf = true :=
  setCore_form h

theorem tellCluster_form {s : State} {k line : Nat} {mask : Line} {fe feMask : BitVec 16} {c : Nat} (h : s.wf = true) :
    (tellCluster s k line mask fe feMask c).wf = true :=
  update_form (wakeWords_form h)

theorem clusterWrite_form {s : State} {who : Who} {line : Nat} {data mask : Line} {fe feMask : BitVec 16}
    (h : s.wf = true) : Ends Free Form (clusterWrite s who line data mask fe feMask) := by
  unfold clusterWrite
  refine ends_ite ?_ ?_
  · refine bind_form (I := Form) (.ok (raiseCluster_form (sameContext_form h))) fun _ h1 => ?_
    exact .ok (tellCluster_form (ite_form (whoRaise_form (setCluster_form h1)) (ite_form (l1Drop_form (whoRaise_form
      (setCluster_form h1))) (l1Merge_form (whoRaise_form (setCluster_form h1))))))
  · refine bind_form (grantHome_form (raiseCluster_form (sameContext_form h))) fun _ h1 => ?_
    exact .ok (tellCluster_form (ite_form (whoRaise_form (setCluster_form h1)) (ite_form (l1Drop_form (whoRaise_form
      (setCluster_form h1))) (l1Merge_form (whoRaise_form (setCluster_form h1))))))

theorem l1Fill_form {s : State} {core ctx line : Nat} {need : BitVec 64} (h : s.wf = true) :
    Ends Free FormFst (l1Fill s core ctx line need) := by
  unfold l1Fill
  refine bindFst_form (clusterRead_form h) fun _ _ h1 => ?_
  exact okFst_form (update_form (raiseClock_form (setCore_form (setCluster_form h1))))

theorem l1Read_form {s : State} {core ctx line : Nat} {need : BitVec 64} (h : s.wf = true) :
    Ends Free FormFst (l1Read s core ctx line need) := by
  unfold l1Read
  dsimp only
  split
  · exact ends_ite (ends_ite (.error trivial) (okFst_form h)) (l1Fill_form h)
  · exact l1Fill_form h

theorem homeRead_form {s : State} {who : Who} {line : Nat} (h : s.wf = true) : Ends Free FormFst (homeRead s who line) := by
  unfold homeRead
  refine bind_form (grantHome_form (pushLine_form _ _ _ (sameContext_form (whoAsk_form h)))) fun _ h1 => ?_
  refine ends_ite ?_ ?_
  · exact bindFst_form (l1Fill_form (l1Drop_form (whoRaise_form h1))) fun _ _ h2 => okFst_form h2
  · exact okFst_form (whoRaise_form h1)

theorem homePeek_form {s : State} {who : Who} {line : Nat} (h : s.wf = true) : Ends Free FormFst (homePeek s who line) := by
  unfold homePeek
  refine ends_ite ?_ ?_
  · refine bind_form (I := Free) (.error trivial) fun _ _ => ?_
    dsimp only
    split
    · exact .error trivial
    · exact okFst_form (fetchLine_form (sameContext_form (whoAsk_form h)))
  · dsimp only
    split
    · exact .error trivial
    · exact okFst_form (fetchLine_form (sameContext_form (whoAsk_form h)))

theorem homeReply_form {s : State} {who : Who} {line : Nat} (h : s.wf = true) : (homeReply s who line).wf = true := by
  unfold homeReply
  refine ite_form ?_ ?_
  · exact ite_form (l1Drop_form (whoRaise_form h)) (whoRaise_form h)
  · exact ite_form (l1Merge_form (setCluster_form (whoRaise_form h))) (setCluster_form (whoRaise_form h))

theorem homeLook_form {s : State} {who : Who} {line : Nat} (h : s.wf = true) : (homeLook s who line).wf = true :=
  homeReply_form (pushLine_form _ _ _ h)

theorem homeWrite_form {s : State} {who : Who} {line : Nat} {data mask : Line} {fe feMask : BitVec 16} (h : s.wf = true) :
    (homeWrite s who line data mask fe feMask).wf = true := by
  unfold homeWrite
  refine homeReply_form ?_
  split
  · refine ite_form ?_ ?_
    · exact tellCluster_form (pushLine_form _ _ _ (setCluster_form (sameContext_form (whoAsk_form h))))
    · exact foldl_form (homeMerge_form _ _ _ _ _ _ (sameContext_form (whoAsk_form h))) fun _ _ h1 => setFe_form _ _ _ _ h1
  · exact foldl_form (homeMerge_form _ _ _ _ _ _ (sameContext_form (whoAsk_form h))) fun _ _ h1 => setFe_form _ _ _ _ h1

theorem stashLine_form {s : State} {core ctx bank line : Nat} (h : s.wf = true) :
    Ends Free FormFst (stashLine s core ctx bank line) := by
  unfold stashLine
  split
  · exact ends_ite (.error trivial) (okFst_form h)
  · exact bindFst_form (l1Read_form h) fun _ _ h1 => okFst_form (setCore_form h1)

theorem stashWrite_form {s : State} {core ctx bank line : Nat} {data mask : Line} {fe feMask : BitVec 16}
    (h : s.wf = true) : Ends Free Form (stashWrite s core ctx bank line data mask fe feMask) := by
  unfold stashWrite
  dsimp only
  split
  · exact bindFst_form (okFst_form h) fun _ _ h1 => .ok (update_form (setCore_form h1))
  · exact bindFst_form (stashLine_form h) fun _ _ h1 => .ok (update_form (setCore_form h1))

theorem stashPush_form {s : State} {core key : Nat} (h : s.wf = true) : (stashPush s core key).wf = true := by
  unfold stashPush
  split
  · refine ite_form h ?_
    exact setCore_form (askCluster_form (ite_form (tellCluster_form (pushLine_form _ _ _ (setCluster_form
      (sameContext_form (askCluster_form (ite_form (poison_form h) h)))))) (pushBytes_form _ _ _ _ _ _ _ _
      (sameContext_form (askCluster_form (ite_form (poison_form h) h))))))
  · exact h

theorem stashPushAll_form {s : State} {core : Nat} {bank : Option Nat} (h : s.wf = true) :
    (stashPushAll s core bank).wf = true :=
  foldl_form h fun _ ⟨_, _⟩ h1 => stashPush_form h1

/-! ## Sys2Proof/Machine/Queue.lean -/

theorem refuseRecord_form {s : State} {vi : Nat} {reason : BitVec 8} (h : s.wf = true) :
    (refuseRecord s vi reason).wf = true :=
  setVi_form h

theorem enqueueLine_form {s : State} {vi : BitVec 10} {r : Line} {clock : Nat} (h : s.wf = true) :
    (enqueueLine s vi r clock).wf = true :=
  ite_form (refuseRecord_form h) (setVi_form (update_form h))

theorem queueWrite_form {s : State} {off n : Nat} {data : Line} {whole : Bool} {clock : Nat} (h : s.wf = true) :
    (queueWrite s off n data whole clock).wf = true :=
  ite_form (ite_form (enqueueLine_form h) (refuseRecord_form h)) h

/-! ## Sys2Proof/Machine/Access.lean -/

theorem ofCause_form {α : Type} {I : α → Prop} {s : State} {va : DWord} {r : Except Cause α} (h : s.wf = true)
    (hr : Ends Free I r) : Ends BadForm I (ofCause s va r) := by
  cases hr with
  | ok hr => exact .ok hr
  | error => exact .error h

theorem raisePlace_form {s : State} {place c : Nat} (h : s.wf = true) : (raisePlace s place c).wf = true :=
  ite_form (update_form h) (raiseCluster_form h)

theorem hear_form {s : State} {who : Who} {c : Nat} (h : s.wf = true) : (hear s who c).wf = true :=
  ite_form (setThread_form h) h

theorem acquire_form {s : State} (h : s.wf = true) : (acquire s).wf = true :=
  raiseClock_form h

theorem acquireIf_form {r : BitVec 2} {s : State} (h : s.wf = true) : (acquireIf r s).wf = true :=
  ite_form (acquire_form h) h

theorem readThere_form {s : State} {who : Who} {va : DWord} {p : Place} (h : s.wf = true) :
    Ends BadForm FormFst (readThere s who va p) := by
  unfold readThere
  dsimp only
  split
  · split
    · exact ofCause_form (hear_form h) (.error trivial)
    · exact okFst_form (hear_form h)
  · exact ends_ite (.error (hear_form h)) (okFst_form (hear_form h))

theorem readNear_form {s : State} {who : Who} {va : DWord} {p : Place} {n : Nat} (h : s.wf = true) :
    Ends BadForm FormFst (readNear s who va p n) := by
  unfold readNear
  split
  · exact readThere_form h
  · exact readThere_form h
  · exact readThere_form h
  · exact okFst_form (hear_form h)
  · split
    · exact ends_ite (.error (whoAsk_form h)) (okFst_form (whoAsk_form h))
    · split
      · exact .error h
      · exact bindFst_form (ofCause_form h (stashLine_form h)) fun _ _ h1 => okFst_form h1
      · refine ends_ite ?_ ?_
        · exact bindFst_form (ofCause_form h (l1Read_form h)) fun _ _ h1 => okFst_form h1
        · exact bindFst_form (ofCause_form h (clusterRead_form h)) fun _ _ h1 => okFst_form h1
  · dsimp only
    split
    · exact ends_ite (.error (whoAsk_form h)) (okFst_form (whoAsk_form h))
    · split
      · exact .error h
      · exact bindFst_form (ofCause_form h (stashLine_form h)) fun _ _ h1 => okFst_form h1
      · refine ends_ite ?_ ?_
        · exact bindFst_form (ofCause_form h (l1Read_form h)) fun _ _ h1 => okFst_form h1
        · exact bindFst_form (ofCause_form h (clusterRead_form h)) fun _ _ h1 => okFst_form h1

theorem readFar_form {s : State} {who : Who} {va : DWord} {p : Place} (h : s.wf = true) :
    Ends BadForm FormFst (readFar s who va p) := by
  unfold readFar
  split
  · refine ends_ite (readNear_form h) ?_
    refine bindFst_form ?_ fun _ _ h1 => ?_
    · refine ofCause_form ?_ (homeRead_form ?_)
      · split
        · exact combineLine_form (whoAsk_form h)
        · exact h
      · split
        · exact combineLine_form (whoAsk_form h)
        · exact h
    exact okFst_form h1
  · exact ends_ite (readNear_form h) (bindFst_form (ofCause_form h (homeRead_form h)) fun _ _ h1 => okFst_form h1)
  · exact readNear_form h

theorem settleWhere_form {s : State} {core : Nat} {test : Late → Bool} (h : s.wf = true) :
    (settleWhere s core test).wf = true :=
  foldl_form h fun _ _ h1 => ite_form (setThread_form h1) h1

theorem settleLoads_form {s : State} {core line : Nat} (h : s.wf = true) : (settleLoads s core line).wf = true :=
  settleWhere_form h

theorem settleCore_form {s : State} {core : Nat} (h : s.wf = true) : (settleCore s core).wf = true :=
  settleWhere_form h

theorem performLoads_form {s : State} (h : s.wf = true) : (performLoads s).wf = true :=
  ite_form (setTh_form h) h

theorem loadBytes_form {s : State} {who : Who} {va : DWord} {n scope : Nat} (h : s.wf = true) :
    Ends BadForm FormFst (loadBytes s who va n scope) := by
  unfold loadBytes
  refine bindFst_form (resolve_form h) fun s p hs => ?_
  have hl := settleLoads_form (core := who.core) (line := p.line) hs
  dsimp only
  split
  · exact .error hl
  · exact ends_ite (.error hl) (okFst_form hl)
  · refine ends_ite ?_ ?_
    · exact bindFst_form (readNear_form hl) fun _ _ hs => okFst_form hs
    · exact bindFst_form (readFar_form hl) fun _ _ hs => okFst_form hs

theorem agentRead_form {s : State} {who : Who} {va : DWord} {n scope : Nat} (h : s.wf = true) :
    Ends BadForm FormFst (agentRead s who va n scope) := by
  unfold agentRead
  refine bindFst_form (resolve_form h) fun _ _ h1 => ?_
  refine ends_ite ?_ ?_
  · exact bindFst_form (readNear_form h1) fun _ _ h2 => okFst_form h2
  · exact bindFst_form (readFar_form h1) fun _ _ h2 => okFst_form h2

theorem writeThere_form {s : State} {place key n : Nat} {data mask : Line} {c : Nat} (h : s.wf = true) :
    (writeThere s place key n data mask c).wf = true := wakeWords_form (raisePlace_form (memory_form h (Memory.wf_memWrite _ _ _ _ _)))

theorem writeOut_form {s : State} {who : Who} {p : Place} {n : Nat} {data mask : Line} (h : s.wf = true) :
    (writeOut s who p n data mask).wf = true := by
  unfold writeOut
  split
  · exact wakeWords_form (raisePlace_form (mergeLine_form h))
  · exact writeThere_form h

theorem lineWrite_form {s : State} {who : Who} {va : DWord} {p : Place} {data mask : Line} {fe feMask : BitVec 16}
    {scope : Nat} (h : s.wf = true) : Ends BadForm Form (lineWrite s who va p data mask fe feMask scope) := by
  unfold lineWrite
  dsimp only
  split
  · exact .error h
  · split
    · exact .ok (homeWrite_form (poison_form h))
    · exact ofCause_form h (stashWrite_form h)
  · refine ends_ite (.ok (homeWrite_form h)) ?_
    refine ends_ite ?_ ?_
    · exact ofCause_form h (clusterWrite_form h)
    · exact ends_ite (ofCause_form h (.error trivial)) (.ok (homeWrite_form h))

theorem writeBytes_form {s : State} {who : Who} {va : DWord} {p : Place} {n : Nat} {data mask : Line} {scope : Nat}
    {whole : Bool} (h : s.wf = true) : Ends BadForm Form (writeBytes s who va p n data mask scope whole) := by
  unfold writeBytes
  dsimp only
  split
  · exact .ok (writeOut_form h)
  · exact .ok (writeOut_form h)
  · exact .ok (writeOut_form h)
  · exact .ok (queueWrite_form h)
  · exact ends_ite (.error h) (lineWrite_form h)
  · exact ends_ite (.error h) (lineWrite_form h)

theorem agentWrite_form {s : State} {who : Who} {va : DWord} {n : Nat} {data mask : Line} {scope : Nat} {whole : Bool}
    (h : s.wf = true) : Ends BadForm Form (agentWrite s who va n data mask scope whole) :=
  bindFst_form (resolve_form h) fun _ _ h1 => writeBytes_form h1

theorem updatePartial_form {s : State} {who : Who} {va : DWord} {p : Place} {rng : Nat} {u : Update} (h : s.wf = true) :
    Ends BadForm FormFst (updatePartial s who va p rng u) := by
  unfold updatePartial
  split
  · refine ends_ite ?_ ?_
    · exact .error (ite_form (makeRoom_form (whoAsk_form h)) (whoAsk_form h))
    · exact okFst_form (wakeWords_form (setCluster_form (ite_form (makeRoom_form (whoAsk_form h)) (whoAsk_form h))))
  · exact .error h

theorem enterBuffer_form {s : State} {core : Nat} {e : StoreEntry} (h : s.wf = true) : (enterBuffer s core e).wf = true :=
  setCore_form h

theorem atomicTakes_form {s : State} {p : Place} {scope : Nat} (h : s.wf = true) : (atomicTakes s p scope).wf = true := by
  unfold atomicTakes
  split
  · exact ite_form (takeLine_form h) h
  · exact ite_form (takeLine_form h) h
  · exact h

theorem atomicLeaves_form {s : State} {p : Place} {scope : Nat} (h : s.wf = true) : (atomicLeaves s p scope).wf = true := by
  unfold atomicLeaves
  split
  · exact ite_form (update_form h) h
  · exact h

theorem coreUpdate_form {who : Who} {va : DWord} {n : Nat} {u : Update} {s : State} {old : Line} (h : s.wf = true) :
    Ends BadForm FormFst (updateAt.coreUpdate who va n u s old) := by
  unfold updateAt.coreUpdate
  dsimp only
  split
  · exact okFst_form h
  · exact ends_ite (okFst_form (enterBuffer_form h)) (.error h)

theorem updateAt_form {s : State} {who : Who} {va : DWord} {n scope : Nat} {u : Update} (h : s.wf = true) :
    Ends BadForm FormFst (updateAt s who va n scope u) := by
  unfold updateAt
  refine bindFst_form (resolve_form h) fun s p hs => ?_
  have hc := settleCore_form (core := who.core) hs
  dsimp only
  split
  · exact .error hc
  iterate 3
    · refine ends_ite (.error hc) (bindFst_form (readThere_form hc) fun s l hs => ?_)
      split
      · exact okFst_form hs
      · exact okFst_form (writeOut_form hs)
  iterate 2
    · split
      · exact ends_ite (.error hc) (updatePartial_form hc)
      · split
        · exact .error hc
        · refine ends_ite ?_ (ends_ite (.error hc) (ends_ite ?_ ?_))
          · split
            · exact .error hc
            · exact coreUpdate_form hc
            · exact bindFst_form (readNear_form hc) fun _ _ hs => coreUpdate_form hs
          · refine bindFst_form (ofCause_form hc (clusterAtomic_form hc)) fun s l hs => ?_
            split
            · exact okFst_form hs
            · exact bind_form (ofCause_form hs (clusterWrite_form hs)) fun _ hs => okFst_form hs
          · refine bindFst_form (ofCause_form hc (homePeek_form hc)) fun s l hs => ?_
            refine okFst_form (atomicLeaves_form ?_)
            split
            · exact homeWrite_form (atomicTakes_form hs)
            · exact homeLook_form (atomicTakes_form hs)

theorem feAttempt_form {s : State} {who : Who} {va : DWord} {k : Right} {scope : Nat} {act : FeAct} (h : s.wf = true) :
    Ends BadForm FormFst (feAttempt s who va k scope act) := by
  unfold feAttempt
  refine bindFst_form (resolve_form h) fun s p h1 => ?_
  replace h1 := settleCore_form (core := who.core) h1
  split
  rename_i s p e
  obtain ⟨rfl, rfl⟩ := Prod.mk.inj e
  extract_lets s o m bits mask data fe near
  change s.wf = true at h1
  clear_value s
  have hnear : ∀ x, FormFst x → Ends BadForm FormFst (near x) := by
    rintro ⟨s, l, f⟩ h2
    refine ends_ite (.error h2) ?_
    extract_lets e last
    have hlast : ∀ old, Ends BadForm FormFst (last old) := by
      intro old
      dsimp only [last]
      split
      · exact okFst_form h2
      · exact ends_ite (okFst_form h2) (ends_ite (okFst_form (enterBuffer_form h2)) (.error h2))
    split
    · exact .error h2
    · exact hlast _
    · exact hlast _
  clear_value near
  split
  · exact .error h1
  · exact .error h1
  iterate 3
    · refine ends_ite (.error h1) (bindFst_form (readThere_form h1) fun s l h2 => ?_)
      dsimp only
      split
      · exact okFst_form h2
      · exact okFst_form (setFe_form _ _ _ _ (ite_form (writeOut_form h2) (raisePlace_form h2)))
  · refine ends_ite (.error h1) ?_
    split
    · exact .error h1
    · refine ends_ite ?_ (ends_ite (.error h1) (ends_ite ?_ ?_))
      · split
        · exact bindFst_form (ofCause_form h1 (stashLine_form h1)) fun _ _ h2 => hnear _ h2
        · exact bindFst_form (ofCause_form h1 (l1Read_form h1)) fun _ _ h2 => hnear _ h2
      · refine bindFst_form (ofCause_form h1 (clusterAsk_form h1)) fun s l h2 => ?_
        dsimp only
        split
        · exact okFst_form h2
        · refine ends_ite (okFst_form h2) ?_
          exact bind_form (ofCause_form h2 (clusterWrite_form h2)) fun _ h3 => okFst_form h3
      · refine bindFst_form (ofCause_form h1 (homePeek_form h1)) fun s x h2 => ?_
        dsimp only
        split
        · exact okFst_form (homeLook_form (atomicTakes_form h2))
        · refine ends_ite (okFst_form (homeLook_form (atomicTakes_form h2))) ?_
          exact okFst_form (homeWrite_form (atomicTakes_form h2))

theorem releasePush_form {s : State} {core scope : Nat} (h : s.wf = true) : (releasePush s core scope).wf = true :=
  ite_form (pushCore_form _ _ (ite_form (stashPushAll_form h) h)) (ite_form (stashPushAll_form h) h)

theorem release_form {s : State} {scope : Nat} (h : s.wf = true) : Ends StopForm Form (release s scope) :=
  bind_form (waitFor_form h) fun _ _ => .ok (releasePush_form (performLoads_form h))

theorem releaseIf_form {r : BitVec 2} {scope : Nat} {s : State} (h : s.wf = true) :
    Ends StopForm Form (releaseIf r scope s) :=
  ends_ite (release_form h) (.ok h)

theorem atIssue_form {α : Type} {I : α → Prop} {u : Bool} {r : Mem α} (h : Ends BadForm I r) : Ends StopForm I (atIssue u r) := by
  cases h with
  | ok h => exact .ok h
  | @error b h => cases b <;> exact .error h

/-! ## Sys2Proof/Machine/LoadStore.lean -/

theorem address_form {st : State} {x : BitVec 5} {g : BitVec 3} {s : BitVec 1} {imm : Int} (h : st.wf = true) :
    Ends StopForm Free (address st x g s imm) :=
  bind_form (readT_form h) fun _ _ => bind_form (readB_form h) fun _ _ => .ok trivial

theorem aligned_form {st : State} {ea : DWord} {n : Nat} (h : st.wf = true) : Ends StopForm Free (aligned st ea n) :=
  require_form (misaligned_form h)

theorem destFree_form {st : State} {rs : List RegRef} (h : st.wf = true) : Ends StopForm Free (destFree st rs) :=
  waitFor_form h

theorem readPair_form {st : State} {d : BitVec 5} {pair : Bool} {k : Nat} (h : st.wf = true) :
    Ends StopForm Free (readPair st d pair k) :=
  bind_form (readP_form h) fun _ _ => ends_ite (bind_form (readP_form h) fun _ _ => .ok trivial) (.ok trivial)

theorem load_form {n : Nat} {pair : Bool} {ext : Nat} {d x : BitVec 5} {g : BitVec 3} {s : BitVec 1} {i : BitVec 12}
    {st : State} (h : st.wf = true) : Next (load n pair ext d x g s i st) := by
  unfold load
  refine finishKeeping_form ?_
  refine bind_form (address_form h) fun _ _ => ?_
  refine bind_form (aligned_form h) fun _ _ => ?_
  refine bind_form (destFree_form h) fun _ _ => ?_
  refine bindFst_form (atIssue_form (loadBytes_form h)) fun _ _ h1 => ?_
  exact bind_form (launch_form h1) fun _ h2 => .ok (completeReading_form h2)

theorem performLoad_form {st : State} {t k : Nat} (h : st.wf = true) : (performLoad st t k).wf = true := by
  unfold performLoad
  split
  · split
    · split
      · rename_i e
        have h1 := of_okFst e (readNear_form h)
        exact setThread_form h1
      · rename_i e
        have h1 := of_error e (readNear_form h)
        exact h
    · exact h
  · exact h

theorem buffer_form {st : State} {e : StoreEntry} (h : st.wf = true) : Ends StopForm Form (buffer st e) :=
  bind_form (waitFor_form h) fun _ _ => .ok (enterBuffer_form h)

theorem store_form {n : Nat} {pair : Bool} {d x : BitVec 5} {g : BitVec 3} {s : BitVec 1} {i : BitVec 12} {st : State}
    (h : st.wf = true) : Next (store n pair d x g s i st) := by
  unfold store
  refine finishKeeping_form ?_
  refine bind_form (address_form h) fun _ _ => ?_
  refine bind_form (readPair_form h) fun _ _ => ?_
  exact bind_form (aligned_form h) fun _ _ => bind_form (buffer_form h) fun _ h1 => .ok (completeReading_form h1)

theorem execLdb_form {d : BitVec 3} {x : BitVec 5} {g : BitVec 3} {s : BitVec 1} {i : BitVec 12} {st : State}
    (h : st.wf = true) : Next (execLdb d x g s i st) := by
  unfold execLdb
  refine finishKeeping_form ?_
  refine bind_form (address_form h) fun _ _ => ?_
  refine bind_form (aligned_form h) fun _ _ => ?_
  refine bind_form (destFree_form h) fun _ _ => ?_
  refine bindFst_form (atIssue_form (loadBytes_form h)) fun _ _ h1 => ?_
  exact bind_form (launch_form h1) fun _ h2 => .ok (completeReading_form h2)

theorem execStb_form {d : BitVec 3} {x : BitVec 5} {g : BitVec 3} {s : BitVec 1} {i : BitVec 12} {st : State}
    (h : st.wf = true) : Next (execStb d x g s i st) := by
  unfold execStb
  refine finishKeeping_form ?_
  refine bind_form (address_form h) fun _ _ => ?_
  refine bind_form (readB_form h) fun _ _ => ?_
  exact bind_form (aligned_form h) fun _ _ => bind_form (buffer_form h) fun _ h1 => .ok (completeReading_form h1)

theorem constRead_form {st : State} {c : BitVec 2} {w : BitVec 14} (h : st.wf = true) :
    Ends StopForm FormFst (constRead st c w) := by
  unfold constRead
  refine ends_ite (.error h) ?_
  refine ends_ite ?_ ?_
  · exact okFst_form (setTh_form h)
  · exact bindFst_form (atIssue_form (loadBytes_form h)) fun _ _ h1 => okFst_form h1

theorem constForm_form {f : Word → Word → Word} {d a : BitVec 5} {c : BitVec 2} {w : BitVec 14} {st : State}
    (h : st.wf = true) : Next (constForm f d a c w st) := by
  unfold constForm
  refine finishKeeping_form ?_
  refine bind_form (readP_form h) fun _ _ => ?_
  refine bindFst_form (constRead_form h) fun _ _ h1 => ?_
  exact bind_form (I := Form) (trapIn_form h (writeX_form h1)) fun _ h2 => .ok (completeReading_form h2)

theorem execLda_form {d x : BitVec 5} {g : BitVec 3} {s : BitVec 1} {c : BitVec 3} {r z : BitVec 2} {f : BitVec 4}
    {st : State} (h : st.wf = true) : Next (execLda d x g s c r z f st) := by
  unfold execLda
  refine finishKeeping_form ?_
  refine bind_form (address_form h) fun _ _ => ?_
  refine bind_form (aligned_form h) fun _ _ => ?_
  refine bind_form (destFree_form h) fun _ _ => ?_
  refine bindFst_form (atIssue_form (loadBytes_form h)) fun _ _ h1 => ?_
  exact bind_form (launch_form (acquireIf_form h1)) fun _ h2 => .ok (completeReading_form h2)

theorem execStl_form {d x : BitVec 5} {g : BitVec 3} {s : BitVec 1} {c : BitVec 3} {r z : BitVec 2} {f : BitVec 4}
    {st : State} (h : st.wf = true) : Next (execStl d x g s c r z f st) := by
  unfold execStl
  refine finishKeeping_form ?_
  refine bind_form (address_form h) fun _ _ => ?_
  refine bind_form (readPair_form h) fun _ _ => ?_
  refine bind_form (aligned_form h) fun _ _ => ?_
  exact bind_form (releaseIf_form h) fun _ h1 => bind_form (buffer_form h1) fun _ h2 => .ok (completeReading_form h2)

theorem execFence_form {k : BitVec 4} {c : BitVec 3} {st : State} (h : st.wf = true) : Next (execFence k c st) := by
  unfold execFence
  refine finish_form ?_
  refine bind_form (waitFor_form h) fun _ _ => ?_
  refine ends_ite ?_ (bind_form (release_form h) fun _ h1 => .ok (complete_form (ite_form h1 (acquire_form h1))))
  refine bind_form (I := Form) (.ok (performLoads_form h)) fun _ h1 => ?_
  exact .ok (complete_form (ite_form h1 (acquire_form h1)))

theorem execSdrain_form {st : State} (h : st.wf = true) : Next (execSdrain st) :=
  finish_form (bind_form (waitFor_form h) fun _ _ => .ok (complete_form h))

theorem lineOp_form {x : BitVec 5} {g : BitVec 3} {s : BitVec 1} {i : BitVec 10} {st : State}
    {act : State → Who → DWord → Place → Eff State} (h : st.wf = true)
    (hact : ∀ s w va p, s.wf = true → Ends StopForm Form (act s w va p)) : Next (lineOp x g s i st act) := by
  unfold lineOp
  refine finishKeeping_form ?_
  refine bind_form (address_form h) fun _ _ => ?_
  dsimp only
  split
  · rename_i e
    have h1 := of_error e (resolve_form h)
    exact bind_form (I := Form) (.error h1) fun _ h2 => .ok (completeReading_form h2)
  · rename_i e
    have h1 := of_error e (resolve_form h)
    exact bind_form (I := Form) (.ok h1) fun _ h2 => .ok (completeReading_form h2)
  · rename_i e
    have h1 := of_okFst e (resolve_form h)
    split
    · refine bind_form (waitFor_form h) fun _ _ => ?_
      exact bind_form (hact _ _ _ _ h1) fun _ h2 => .ok (completeReading_form h2)
    · refine bind_form (waitFor_form h) fun _ _ => ?_
      exact bind_form (hact _ _ _ _ h1) fun _ h2 => .ok (completeReading_form h2)
    · exact bind_form (I := Form) (.ok h1) fun _ h2 => .ok (completeReading_form h2)

theorem prefetch_form {st : State} {t : Nat} {va : DWord} {again : Bool} (h : st.wf = true) :
    (prefetch st t va again).wf = true := by
  unfold prefetch
  split
  · rename_i e
    have h1 := of_error e (resolve_form h)
    exact ite_form h1 h
  · rename_i e
    have h1 := of_error e (resolve_form h)
    exact h
  · rename_i e
    have h1 := of_okFst e (resolve_form h)
    split
    · split
      · rename_i e1
        have h2 := of_okFst e1 (l1Read_form h1)
        exact h2
      · exact h1
    · split
      · rename_i e1
        have h2 := of_okFst e1 (l1Read_form h1)
        exact h2
      · exact h1
    · exact h1

theorem stashDrop_form {st : State} {core line : Nat} (h : st.wf = true) : (stashDrop st core line).wf = true :=
  setCore_form (foldl_form h fun _ _ h1 => stashPush_form h1)

theorem execCflush_form {x : BitVec 5} {g : BitVec 3} {s : BitVec 1} {i : BitVec 10} {st : State} (h : st.wf = true) :
    Next (execCflush x g s i st) :=
  lineOp_form h fun _ _ _ _ h1 => .ok (askCluster_form (dropLine_form _ _ _ (askCluster_form (l1Drop_form
    (stashDrop_form h1)))))

theorem execCinvl_form {x : BitVec 5} {g : BitVec 3} {s : BitVec 1} {i : BitVec 10} {st : State} (h : st.wf = true) :
    Next (execCinvl x g s i st) := by
  unfold execCinvl
  refine lineOp_form h fun _ _ _ _ h1 => ?_
  dsimp only
  split
  · refine ends_ite ?_ ?_
    · exact .ok (askCluster_form (l1Drop_form (stashDrop_form h1)))
    · exact .ok (dropLine_form _ _ _ (askCluster_form (l1Drop_form (stashDrop_form h1))))
  · exact .ok (askCluster_form (l1Drop_form (stashDrop_form h1)))

theorem execCpref_form {x : BitVec 5} {g : BitVec 3} {s : BitVec 1} {i : BitVec 10} {st : State} (h : st.wf = true) :
    Next (execCpref x g s i st) :=
  finishKeeping_form (bind_form (address_form h) fun _ _ => .ok (completeReading_form (prefetch_form h)))

theorem execCzero_form {x : BitVec 5} {g : BitVec 3} {s : BitVec 1} {i : BitVec 10} {st : State} (h : st.wf = true) :
    Next (execCzero x g s i st) := by
  unfold execCzero
  refine finishKeeping_form ?_
  exact bind_form (address_form h) fun _ _ => bind_form (buffer_form h) fun _ h1 => .ok (completeReading_form h1)

theorem presenceSet_form {b : Bool} {c : BitVec 2} {i : BitVec 6} {st : State} (h : st.wf = true) :
    Next (presenceSet b c i st) := by
  unfold presenceSet
  refine finish_form ?_
  split
  · exact .ok (complete_form h)
  · exact bind_form (waitFor_form h) fun _ _ => .ok (complete_form (setTh_form h))

theorem execPtest_form {d : BitVec 5} {c : BitVec 2} {i : BitVec 6} {st : State} (h : st.wf = true) :
    Next (execPtest d c i st) :=
  finish_form (bind_form (writeX_form h) fun _ h1 => .ok (complete_form h1))

theorem execPwait_form {c : BitVec 2} {i : BitVec 6} {st : State} (h : st.wf = true) : Next (execPwait c i st) :=
  finish_form (bind_form (waitFor_form h) fun _ _ => .ok (complete_form h))

/-! ## Sys2Proof/Machine/Atomic.lean -/

theorem amo_form {f : Nat → Nat → Nat → Nat} {cr : Option Nat} {d x : BitVec 5} {g : BitVec 3} {s : BitVec 1}
    {c : BitVec 3} {r : BitVec 2} {p : BitVec 1} {st : State} (h : st.wf = true) : Next (amo f cr d x g s c r p st) := by
  unfold amo
  refine finishKeeping_form ?_
  refine bind_form (address_form h) fun _ _ => ?_
  refine bind_form (readPair_form h) fun _ _ => ?_
  refine bind_form (aligned_form h) fun _ _ => ?_
  refine bind_form (waitFor_form h) fun _ _ => ?_
  refine bind_form (releaseIf_form h) fun _ h1 => ?_
  refine bindFst_form (atIssue_form (updateAt_form h1)) fun _ _ h2 => ?_
  exact bind_form (launch_form (acquireIf_form h2)) fun _ h3 => .ok (completeReading_form h3)

theorem reduce_form {op : BitVec 4} {d x : BitVec 5} {g : BitVec 3} {s : BitVec 1} {c : BitVec 3} {r : BitVec 2}
    {wide : Bool} {st : State} (h : st.wf = true) : Next (reduce op d x g s c r wide st) := by
  unfold reduce
  refine finishKeeping_form ?_
  refine bind_form (address_form h) fun _ _ => ?_
  refine bind_form (readPair_form h) fun _ _ => ?_
  refine bind_form (aligned_form h) fun _ _ => ?_
  exact bind_form (releaseIf_form h) fun _ h1 => bind_form (buffer_form h1) fun _ h2 => .ok (completeReading_form h2)

theorem execAmocas_form {d x : BitVec 5} {g : BitVec 3} {s : BitVec 1} {c : BitVec 3} {r : BitVec 2} {p : BitVec 1}
    {st : State} (h : st.wf = true) : Next (execAmocas d x g s c r p st) := by
  unfold execAmocas
  refine finishKeeping_form ?_
  refine bind_form (address_form h) fun _ _ => ?_
  refine bind_form (readPair_form h) fun _ _ => ?_
  refine bind_form (readPair_form h) fun _ _ => ?_
  refine bind_form (aligned_form h) fun _ _ => ?_
  refine bind_form (destFree_form h) fun _ _ => ?_
  refine bind_form (releaseIf_form h) fun _ h1 => ?_
  refine bindFst_form (atIssue_form (updateAt_form h1)) fun _ _ h2 => ?_
  exact bind_form (launch_form (acquireIf_form h2)) fun _ h3 => .ok (completeReading_form h3)

theorem execAmofadd_form {d x : BitVec 5} {g : BitVec 3} {s : BitVec 1} {c : BitVec 3} {r : BitVec 2} {st : State}
    (h : st.wf = true) : Next (execAmofadd d x g s c r st) := by
  unfold execAmofadd
  refine finishKeeping_form ?_
  refine bind_form (address_form h) fun _ _ => ?_
  refine bind_form (readPair_form h) fun _ _ => ?_
  refine bind_form (aligned_form h) fun _ _ => ?_
  refine bind_form (destFree_form h) fun _ _ => ?_
  refine bind_form (releaseIf_form h) fun _ h1 => ?_
  refine bindFst_form (atIssue_form (updateAt_form h1)) fun _ _ h2 => ?_
  exact bind_form (launch_form (acquireIf_form h2)) fun _ h3 => .ok (completeReading_form h3)

theorem execCswap_form {d x : BitVec 5} {g : BitVec 3} {s : BitVec 1} {c : BitVec 3} {r : BitVec 2} {st : State}
    (h : st.wf = true) : Next (execCswap d x g s c r st) := by
  unfold execCswap
  refine finishKeeping_form ?_
  refine bind_form (address_form h) fun _ _ => ?_
  refine bind_form (I := Free) (bind_form (readPair_form h) fun _ _ => bind_form (readPair_form h) fun _ _ => .ok trivial)
    fun _ _ => ?_
  refine bind_form (I := Free) (bind_form (readPair_form h) fun _ _ => bind_form (readPair_form h) fun _ _ => .ok trivial)
    fun _ _ => ?_
  refine bind_form (aligned_form h) fun _ _ => ?_
  refine bind_form (destFree_form h) fun _ _ => ?_
  refine bind_form (releaseIf_form h) fun _ h1 => ?_
  refine bindFst_form (atIssue_form (updateAt_form h1)) fun _ _ h2 => ?_
  exact bind_form (launch_form (acquireIf_form h2)) fun _ h3 => .ok (completeReading_form h3)

/-! ## Sys2Proof/Machine/Holds.lean -/

theorem setRsvQueue_form {st : State} {place line : Nat} {q : RsvQueue} (h : st.wf = true) :
    (setRsvQueue st place line q).wf = true :=
  ite_form (update_form h) (setCluster_form h)

theorem grantTo_form {st : State} {place line r : Nat} (h : st.wf = true) : (grantTo st place line r).wf = true :=
  setRsvQueue_form h

theorem grantNext_form {st : State} {place line : Nat} (h : st.wf = true) : (grantNext st place line).wf = true := by
  unfold grantNext
  refine ite_form h ?_
  split
  · exact grantTo_form h
  · exact h

theorem leaveQueue_form {st : State} {place line r : Nat} (h : st.wf = true) : (leaveQueue st place line r).wf = true :=
  grantNext_form (updRef_form (setRsvQueue_form h))

theorem rsvTold_form {st : State} {place c : Nat} (h : st.wf = true) : (rsvTold st place c).wf = true :=
  ite_form (update_form h) (raiseCluster_form h)

theorem passOn_form {st : State} {place line : Nat} (h : st.wf = true) : (passOn st place line).wf = true :=
  leaveQueue_form (rsvTold_form h)

theorem handOn_form {st : State} {place line r : Nat} (h : st.wf = true) : (handOn st place line r).wf = true :=
  leaveQueue_form (rsvTold_form (releasePush_form h))

theorem leaveReservation_form {st : State} {r : Nat} (h : st.wf = true) : (leaveReservation st r).wf = true := by
  unfold leaveReservation
  split
  · exact h
  · exact h
  · exact ite_form (handOn_form h) (leaveQueue_form h)
  · exact ite_form (handOn_form h) (leaveQueue_form h)

theorem cutReserved_form {st : State} {r : Nat} (h : st.wf = true) : (cutReserved st r).wf = true := by
  unfold cutReserved
  split
  · exact ite_form (setCore_form (updRef_form h)) (leaveReservation_form h)
  · exact ite_form (setCore_form (updRef_form h)) (leaveReservation_form h)
  · exact h

theorem handLines_form {st : State} {core : Nat} (h : st.wf = true) : (handLines st core).wf = true :=
  ite_form h (foldl_form (setCore_form h) fun _ ⟨_, _, _⟩ h1 => ite_form (handOn_form h1) h1)

/-! ## Sys2Proof/Machine/Drain.lean -/

theorem performReduction_form {s : State} {who : Who} {e : StoreEntry} {op : BitVec 4} {wide : Bool} (h : s.wf = true) :
    Ends BadForm Form (performReduction s who e op wide) := by
  unfold performReduction
  refine bindFst_form (resolve_form h) fun s p h1 => ?_
  split
  rename_i s p e
  obtain ⟨rfl, rfl⟩ := Prod.mk.inj e
  extract_lets new there here far old
  split
  · exact .error h1
  iterate 2
    · exact .ok (writeOut_form h1)
  · exact ends_ite (.ok (writeOut_form h1)) (bindFst_form (readThere_form h1) fun _ _ h2 => .ok (writeOut_form h2))
  iterate 2
    · split
      · exact bindFst_form (updatePartial_form h1) fun _ _ h2 => .ok h2
      · have hold : Ends BadForm FormFst old := ends_ite (map_form (ofCause_form h1 (homePeek_form h1)) fun _ h2 => h2)
          (ends_ite (readNear_form h1) (map_form (ofCause_form h1 (clusterAtomic_form h1)) fun _ h2 => h2))
        clear_value old
        split
        · have h2 : BadForm (.fault ..) := of_error rfl hold
          exact lineWrite_form (poison_form h2)
        · have h2 := of_error rfl hold
          exact .error h2
        · have h2 := of_okFst rfl hold
          refine ends_ite (bind_form (lineWrite_form (atomicTakes_form h2)) fun _ h3 => ?_) (lineWrite_form h2)
          exact .ok (atomicLeaves_form h3)

theorem performAt_form {s : State} {who : Who} {e : StoreEntry} {p : Place} (h : s.wf = true) :
    Ends BadForm Form (performAt s who e p) := by
  unfold performAt
  split
  · exact ends_ite (.error h) (lineWrite_form h)
  · exact writeBytes_form (ite_form (releasePush_form h) h)
  · exact writeBytes_form h

theorem performStore_form {s : State} {who : Who} {e : StoreEntry} (h : s.wf = true) :
    Ends BadForm Form (performStore s who e) := by
  unfold performStore
  split
  · split
    · exact .error h
    · exact performAt_form h
  · exact ends_ite (.ok (writeThere_form h)) (.error h)
  · exact bindFst_form (resolve_form h) fun _ _ h1 => performAt_form h1

theorem popEntry_form {s : State} {core i : Nat} (h : s.wf = true) : (popEntry s core i).wf = true :=
  foldl_form (setCore_form h) fun _ _ h1 => ite_form h1 (setThread_form h1)

theorem performEntry_form {s : State} {core : Nat} {e : StoreEntry} (h : s.wf = true) :
    Ends BadForm Form (performEntry s core e) := by
  unfold performEntry
  refine ends_ite (.error h) ?_
  split
  · exact performReduction_form h
  · exact performStore_form h

theorem failEntry_form {s : State} {core : Nat} {e : StoreEntry} {c : Cause} {va : DWord} (h : s.wf = true) :
    Opt Form (failEntry s core e c va) :=
  opt_ite (.some h) (opt_ite (.some (setThread_form h)) (opt_ite (.some (setCore_form h)) .none))

theorem drainEntry_form {s : State} {core i : Nat} {e : StoreEntry} (h : s.wf = true) : Opt Form (drainEntry s core i e) := by
  unfold drainEntry
  split
  · rename_i e1
    have h1 := of_ok e1 (performEntry_form h)
    exact .some (handLines_form (popEntry_form h1))
  · rename_i e1
    have h1 := of_error e1 (performEntry_form h)
    exact opt_ite .none (.some h1)
  · rename_i e1
    have h1 := of_error e1 (performEntry_form h)
    exact opt_map (failEntry_form h1) fun _ h2 => handLines_form (popEntry_form h2)

theorem drainHead_form {s : State} {core : Nat} (h : s.wf = true) : Opt Form (drainHead s core) := by
  unfold drainHead
  split
  · exact opt_ite (drainEntry_form h) .none
  · exact .none

theorem sendPlace_form {s : State} {core : Nat} {e : StoreEntry} (h : s.wf = true) : Opt FormFst (sendPlace s core e) := by
  unfold sendPlace
  split
  · exact opt_ite (.some h) .none
  · split
    · rename_i e1
      have h1 := of_okFst e1 (resolve_form h)
      exact opt_ite .none (.some h1)
    · rename_i e1
      have h1 := of_error e1 (resolve_form h)
      exact .none

theorem sendStore_form {s : State} {core : Nat} (h : s.wf = true) : Opt Form (sendStore s core) := by
  unfold sendStore
  split
  · exact opt_ite (opt_map (sendPlace_form h) fun ⟨_, _⟩ h1 => setCore_form h1) .none
  · exact .none

theorem landStore_form {s : State} {core i : Nat} (h : s.wf = true) : Opt Form (landStore s core i) := by
  unfold landStore
  split
  · exact opt_ite (drainEntry_form h) .none
  · exact .none

theorem execStoreDrain_form {core : BitVec 9} {st : State} (h : st.wf = true) : Next (execStoreDrain core st) := by
  unfold execStoreDrain
  split
  · rename_i e
    have h1 := of_some e (drainHead_form h)
    exact .next h1
  · exact .fault

theorem execProducerArrival_form {t : BitVec 12} {k : Nat} {st : State} (h : st.wf = true) :
    Next (execProducerArrival t k st) := by
  unfold execProducerArrival
  split
  · rename_i e
    have h1 := of_some e (arrive_form h)
    exact .next h1
  · exact .fault

theorem execWindowSpill_form {t : BitVec 12} {st : State} (h : st.wf = true) : Next (execWindowSpill t st) :=
  next_ite (.next (spillFrame_form h)) .fault

theorem execWindowFill_form {t : BitVec 12} {st : State} (h : st.wf = true) : Next (execWindowFill t st) :=
  next_ite (.next (fillFrame_form h)) .fault

/-! ## Sys2Proof/Machine/FullEmpty.lean -/

theorem feFailed_form {st : State} {ea : DWord} {scope : Nat} {k : Right} {kind : BitVec 2} (h : st.wf = true) :
    Ends StopForm Form (feFailed st ea scope k kind) := by
  unfold feFailed
  refine ends_ite (.error (setTh_form h)) ?_
  refine bindFst_form (atIssue_form (resolve_form h)) fun _ _ h1 => ?_
  exact ends_ite (.error (setTh_form (setParked_form h1))) (.error (setTh_form h1))

theorem feWait_form {ea : DWord} {scope : Nat} {k : Right} {kind : BitVec 2} {act : FeAct} {fin : State → Word → Eff State}
    {st : State} (hfin : ∀ s w, s.wf = true → Ends StopForm Form (fin s w)) (h : st.wf = true) :
    Ends StopForm Form (feWait ea scope k kind act fin st) := by
  unfold feWait
  split
  · exact .error h
  · exact .error h
  · refine bindFst_form (atIssue_form (feAttempt_form h)) fun _ _ h1 => ?_
    dsimp only
    split
    · exact hfin _ _ h1
    · exact feFailed_form h1

theorem feLoad_form {k : Right} {kind : BitVec 2} {empties : Bool} {d x : BitVec 5} {g : BitVec 3} {s : BitVec 1}
    {c : BitVec 3} {r : BitVec 2} {f : BitVec 4} {st : State} (h : st.wf = true) :
    Next (feLoad k kind empties d x g s c r f st) := by
  unfold feLoad
  refine finishKeeping_form ?_
  refine bind_form (address_form h) fun _ _ => ?_
  refine bind_form (aligned_form h) fun _ _ => ?_
  refine bind_form (destFree_form h) fun _ _ => ?_
  exact feWait_form (fun _ _ h1 => bind_form (launch_form (acquireIf_form h1)) fun _ h2 => .ok (completeReading_form h2))
    h

theorem feStore_form {waits : Bool} {d x : BitVec 5} {g : BitVec 3} {s : BitVec 1} {c : BitVec 3} {r : BitVec 2}
    {f : BitVec 4} {st : State} (h : st.wf = true) : Next (feStore waits d x g s c r f st) := by
  unfold feStore
  refine finishKeeping_form ?_
  refine bind_form (address_form h) fun _ _ => ?_
  refine bind_form (readP_form h) fun _ _ => ?_
  refine bind_form (aligned_form h) fun _ _ => ?_
  exact bind_form (releaseIf_form h) fun _ h1 => feWait_form (fun _ _ h2 => .ok (completeReading_form h2)) h1

theorem execFeget_form {d x : BitVec 5} {g : BitVec 3} {s : BitVec 1} {c : BitVec 3} {r : BitVec 2} {f : BitVec 4}
    {st : State} (h : st.wf = true) : Next (execFeget d x g s c r f st) := by
  unfold execFeget
  refine finishKeeping_form ?_
  refine bind_form (address_form h) fun _ _ => ?_
  refine bind_form (aligned_form h) fun _ _ => ?_
  refine bind_form (destFree_form h) fun _ _ => ?_
  refine bindFst_form (atIssue_form (feAttempt_form h)) fun _ _ h1 => ?_
  exact bind_form (launch_form (acquireIf_form h1)) fun _ h2 => .ok (completeReading_form h2)

theorem execFeRetry_form {t : BitVec 12} {st : State} (h : st.wf = true) : Next (execFeRetry t st) := by
  unfold execFeRetry
  split
  · exact .next (setThread_form h)
  · exact .fault

theorem feWake_form {st : State} {t : Nat} (h : st.wf = true) : (feWake st t).wf = true := by
  unfold feWake
  split
  · exact setThread_form h
  · exact h

theorem execFeWake_form {place key : Nat} {st : State} (h : st.wf = true) : Next (execFeWake place key st) := by
  unfold execFeWake
  split
  · exact .next (foldl_form (setParked_form (update_form h)) fun _ _ h1 => feWake_form h1)
  · exact .fault

/-! ## Sys2Proof/Machine/Reserve.lean -/

theorem rsvPlace_form {st : State} {ea : DWord} {k : Right} {scope : Nat} (h : st.wf = true) :
    Ends StopForm FormFst (rsvPlace st ea k scope) := by
  unfold rsvPlace
  refine bind_form (require_form (illegalOperand_form h)) fun _ _ => ?_
  refine bindFst_form (atIssue_form (resolve_form h)) fun _ _ h1 => ?_
  dsimp only
  split
  · exact .error h1
  · exact okFst_form h1

theorem reservationState_form {st : State} {ea : DWord} (h : st.wf = true) : StopForm (reservationState st ea) :=
  h

theorem forgetLost_form {st : State} (h : st.wf = true) : (forgetLost st).wf = true :=
  ite_form (setTh_form h) h

theorem linkAnswer_form {x : Eff (State × Place × Nat)} (h : Ends StopForm FormFst x) : Ends StopForm FormFst (linkAnswer x) := by
  cases h with
  | ok h => exact .ok h
  | @error e h =>
    cases e with
    | stall => exact .error h
    | blocked => exact .error h
    | trap => exact .error (ite_form (forgetLost_form h) h)

theorem joinQueue_form {st : State} {place line : Nat} (h : st.wf = true) : Ends StopForm Form (joinQueue st place line) :=
  ends_ite (.ok h) (bind_form (waitFor_form h) fun _ _ => .ok (setTh_form (setRsvQueue_form h)))

theorem placeWord_form {st : State} {ea : DWord} {p : Place} {scope : Nat} (h : st.wf = true) :
    Ends StopForm FormFst (placeWord st ea p scope) := by
  unfold placeWord
  refine bind_form (waitFor_form h) fun _ _ => ?_
  refine bindFst_form ?_ fun _ _ h1 => ?_
  · refine atIssue_form (ends_ite ?_ (readFar_form (settleLoads_form h)))
    split
    · refine bindFst_form (ofCause_form (settleLoads_form h) (clusterAsk_form (settleLoads_form h))) fun _ _ h1 => ?_
      exact okFst_form h1
    · refine bindFst_form (ofCause_form (settleLoads_form h) (clusterAsk_form (settleLoads_form h))) fun _ _ h1 => ?_
      exact okFst_form h1
    · exact readNear_form (settleLoads_form h)
  exact okFst_form h1

theorem execLrw_form {d x : BitVec 5} {g : BitVec 3} {s : BitVec 1} {c : BitVec 3} {r : BitVec 2} {f : BitVec 4}
    {st : State} (h : st.wf = true) : Next (execLrw d x g s c r f st) := by
  unfold execLrw
  refine finishKeeping_form ?_
  refine bind_form (address_form h) fun _ _ => ?_
  refine bind_form (aligned_form h) fun _ _ => ?_
  refine bind_form (destFree_form h) fun _ _ => ?_
  refine bindFst_form (linkAnswer_form (rsvPlace_form h)) fun _ ⟨_, _⟩ h1 => ?_
  refine bind_form (require_form (forgetLost_form h1)) fun _ _ => ?_
  refine bind_form (require_form (reservationState_form h1)) fun _ _ => ?_
  refine bind_form (joinQueue_form h1) fun _ h2 => ?_
  refine bind_form (waitFor_form (ite_form h2 (grantNext_form h2))) fun _ _ => ?_
  refine bindFst_form (atIssue_form (loadBytes_form (raiseClock_form (ite_form h2 (grantNext_form h2))))) fun _ _ h3 => ?_
  exact bind_form (launch_form (setTh_form (acquire_form h3))) fun _ h4 => .ok (completeReading_form h4)

theorem execSch_form {d x : BitVec 5} {g : BitVec 3} {s : BitVec 1} {c : BitVec 3} {r : BitVec 2} {f : BitVec 4}
    {st : State} (h : st.wf = true) : Next (execSch d x g s c r f st) := by
  unfold execSch
  refine finishKeeping_form ?_
  refine bind_form (address_form h) fun _ _ => ?_
  refine bind_form (readP_form h) fun _ _ => ?_
  refine bind_form (aligned_form h) fun _ _ => ?_
  refine bindFst_form (rsvPlace_form h) fun _ ⟨_, _⟩ h1 => ?_
  refine bind_form (require_form (reservationState_form h1)) fun _ _ => ?_
  refine bind_form (release_form h1) fun _ h2 => ?_
  refine bind_form (waitFor_form h2) fun _ _ => ?_
  refine bind_form (I := Form) (atIssue_form (writeBytes_form (settleCore_form h2))) fun _ h3 => ?_
  exact .ok (completeReading_form (passOn_form h3))

theorem execRsvx_form {x : BitVec 5} {g : BitVec 3} {s : BitVec 1} {c : BitVec 3} {r : BitVec 2} {f : BitVec 4}
    {st : State} (h : st.wf = true) : Next (execRsvx x g s c r f st) := by
  unfold execRsvx
  refine finishKeeping_form ?_
  refine bind_form (address_form h) fun _ _ => ?_
  refine bindFst_form (rsvPlace_form h) fun _ ⟨_, _⟩ h1 => ?_
  dsimp only
  split
  · refine ends_ite ?_ ?_
    · exact bind_form (release_form h1) fun _ h2 => .ok (completeReading_form (passOn_form h2))
    · exact .ok (completeReading_form (leaveQueue_form h1))
  · exact .ok (completeReading_form h1)

theorem execReservationExpiry_form {t : BitVec 12} {st : State} (h : st.wf = true) : Next (execReservationExpiry t st) := by
  unfold execReservationExpiry
  split
  · split
    · exact .next (leaveQueue_form h)
    · exact .next (leaveQueue_form h)
    · exact .fault
    · exact .fault
  · split
    · exact .next (leaveQueue_form h)
    · exact .fault

theorem execWaita_form {d x : BitVec 5} {g : BitVec 3} {s : BitVec 1} {c : BitVec 3} {r : BitVec 2} {f : BitVec 4}
    {st : State} (h : st.wf = true) : Next (execWaita d x g s c r f st) := by
  unfold execWaita
  refine finishKeeping_form ?_
  split
  · exact .error h
  · exact .error h
  · refine bind_form (address_form h) fun _ _ => ?_
    exact bind_form (writeX_form (acquireIf_form h)) fun _ h1 => .ok (completeReading_form h1)
  · refine bind_form (address_form h) fun _ _ => ?_
    refine bind_form (readP_form h) fun _ _ => ?_
    refine bind_form (aligned_form h) fun _ _ => ?_
    refine bind_form (destFree_form h) fun _ _ => ?_
    refine bindFst_form (rsvPlace_form h) fun _ ⟨_, _⟩ h1 => ?_
    refine bindFst_form (placeWord_form h1) fun _ _ h2 => ?_
    dsimp only
    split
    · exact bind_form (writeX_form (acquireIf_form h2)) fun _ h3 => .ok (completeReading_form h3)
    · exact ends_ite (.error (setTh_form (setWatchers_form h2))) (.error (setTh_form h2))

theorem execWakea_form {d x : BitVec 5} {g : BitVec 3} {s : BitVec 1} {c : BitVec 3} {r : BitVec 2} {f : BitVec 4}
    {st : State} (h : st.wf = true) : Next (execWakea d x g s c r f st) := by
  unfold execWakea
  refine finishKeeping_form ?_
  refine bind_form (address_form h) fun _ _ => ?_
  refine bind_form (readP_form h) fun _ _ => ?_
  refine bind_form (aligned_form h) fun _ _ => ?_
  refine bind_form (destFree_form h) fun _ _ => ?_
  refine bindFst_form (rsvPlace_form h) fun _ ⟨_, _⟩ h1 => ?_
  refine bind_form (releaseIf_form h1) fun _ h2 => ?_
  refine bind_form (writeX_form (ite_form (update_form (foldl_form (setWatchers_form h2) fun _ _ h3 => endWaita_form h3))
    (foldl_form (setWatchers_form h2) fun _ _ h3 => endWaita_form h3))) fun _ h3 => ?_
  exact .ok (completeReading_form h3)

theorem execWaitaDeadline_form {t : BitVec 12} {st : State} (h : st.wf = true) : Next (execWaitaDeadline t st) :=
  next_ite (.next (endWaita_form (unregister_form h))) .fault

theorem execWaitaPoll_form {t : BitVec 12} {st : State} (h : st.wf = true) : Next (execWaitaPoll t st) :=
  next_ite (.next (setThread_form h)) .fault

theorem execHostWake_form {pa : BitVec 64} {n : BitVec 32} {st : State} (h : st.wf = true) : Next (execHostWake pa n st) :=
  .next (foldl_form (setWatchers_form h) fun _ _ h1 => endWaita_form h1)

/-! ## Sys2Proof/Machine/MemEvents.lean -/

theorem prefetchOn_form {s : State} {w : Waiter} (h : s.wf = true) : (prefetchOn s w).wf = true := by
  unfold prefetchOn
  split
  · exact prefetch_form h
  · exact h

theorem dropCoreMisses_form {s : State} {c : Nat} {l : List Miss} (h : s.wf = true) : (dropCoreMisses s c l).wf = true :=
  setCore_form h

theorem dropClusterMisses_form {s : State} {k : Nat} {l : List Miss} (h : s.wf = true) :
    (dropClusterMisses s k l).wf = true :=
  setCluster_form h

theorem dropBridgeMisses_form {s : State} {l : List Miss} (h : s.wf = true) : (dropBridgeMisses s l).wf = true :=
  update_form h

theorem answerCore_form {s : State} {c : Nat} {e : TlbEntry} (h : s.wf = true) : (answerCore s c e).wf = true := by
  unfold answerCore
  refine ite_form ?_ ?_
  · exact h
  · exact foldl_form (setCore_form (installCore_form (dropCoreMisses_form h))) fun _ _ h1 => prefetchOn_form h1

theorem answerCluster_form {s : State} {k : Nat} {e : TlbEntry} (h : s.wf = true) : (answerCluster s k e).wf = true := by
  unfold answerCluster
  refine ite_form ?_ ?_
  · exact h
  · exact foldl_form (setCluster_form (installCluster_form (dropClusterMisses_form h))) fun _ _ h1 => answerCore_form h1

theorem answerBridge_form {s : State} {e : TlbEntry} (h : s.wf = true) : (answerBridge s e).wf = true :=
  foldl_form (update_form (dropBridgeMisses_form h)) fun _ _ h1 => answerCluster_form h1

theorem promoteBridge_form {n : Nat} {s : State} (h : s.wf = true) : (promoteBridge n s).wf = true := by
  unfold promoteBridge
  split
  · exact h
  · split
    · refine promoteBridge_form ?_
      split
      · exact answerBridge_form (update_form (setMissBridge_form h))
      · exact setMissBridge_form h
    · exact h

theorem promoteCluster_form {k n : Nat} {s : State} (h : s.wf = true) : (promoteCluster k n s).wf = true := by
  unfold promoteCluster
  split
  · exact h
  · split
    · refine promoteCluster_form ?_
      split
      · exact answerCluster_form (setCluster_form (setMissCluster_form h))
      · split
        · exact answerCluster_form (update_form (setMissCluster_form h))
        · exact missBridge_form (setMissCluster_form h)
    · exact h

theorem promoteCore_form {c n : Nat} {s : State} (h : s.wf = true) : (promoteCore c n s).wf = true := by
  unfold promoteCore
  split
  · exact h
  · split
    · refine promoteCore_form ?_
      split
      · exact answerCore_form (setCore_form (setMissCore_form h))
      · split
        · rename_i e
          have h1 := of_pair e (outerFind_form (setMissCore_form h))
          exact answerCore_form h1
        · rename_i e
          have h1 := of_pair e (outerFind_form (setMissCore_form h))
          exact missCluster_form h1
    · exact h

theorem promoteMisses_form {s : State} (h : s.wf = true) : (promoteMisses s).wf = true :=
  foldl_form (foldl_form (promoteBridge_form h) fun _ ⟨_, _⟩ h1 => promoteCluster_form h1) fun _ ⟨_, _⟩ h1 =>
    promoteCore_form h1

theorem noteAbsent_form {s : State} {pasid : BitVec 20} {page : Nat} {w : Waiter} (h : s.wf = true) :
    (noteAbsent s pasid page w).wf = true := by
  unfold noteAbsent
  split
  · exact h
  · exact setCore_form h

theorem fill_form {st : State} {pasid : BitVec 20} {va : DWord} {r : FillResponse} (h : st.wf = true) :
    (fill st pasid va r).wf = true := by
  unfold fill
  refine ite_form (promoteMisses_form (answerBridge_form (installBridge_form h))) ?_
  exact foldl_form (promoteMisses_form (dropBridgeMisses_form (foldl_form (foldl_form h fun _ _ h1 =>
    dropCoreMisses_form h1) fun _ _ h1 => dropClusterMisses_form h1))) fun _ _ h1 => noteAbsent_form h1

theorem pageNotices_form {st : State} {pasid : BitVec 20} {page : Nat} {ok : Bool} (h : st.wf = true) :
    (pageNotices st pasid page ok).wf = true :=
  update_form h

theorem pageRelease_form {st : State} {pasid : BitVec 20} {page : Nat} {ok : Bool} (h : st.wf = true) :
    (pageRelease st pasid page ok).wf = true :=
  update_form h

theorem dropEntries_form {st : State} {p : TlbEntry → Bool} (h : st.wf = true) : (dropEntries st p).wf = true :=
  update_form h

theorem pushTranslated_form {st : State} {l : List TlbEntry} (h : st.wf = true) : (pushTranslated st l).wf = true :=
  foldl_form (foldl_form h fun _ ⟨_, _⟩ h1 => foldl_form h1 fun _ _ h2 => stashPush_form h2) fun _ ⟨_, _⟩ h1 =>
    foldl_form (foldl_form h1 fun _ _ h2 => pushLine_form _ _ _ h2) fun _ _ h2 => dropPartial_form h2

theorem settleAll_form {st : State} (h : st.wf = true) : (settleAll st).wf = true :=
  update_form h

theorem invalidate_form {st : State} {p : TlbEntry → Bool} (h : st.wf = true) : Opt Form (invalidate st p) :=
  opt_ite .none (.some (dropEntries_form (pushTranslated_form (settleAll_form h))))

theorem hostOwns_form {st : State} {line : Nat} (h : st.wf = true) : (hostOwns st line).wf = true :=
  ite_form (ite_form (update_form h) h) (update_form h)

theorem hostWrite_form {st : State} {pa : Nat} {data : List Byte} (h : st.wf = true) : (hostWrite st pa data).wf = true := by
  unfold hostWrite
  refine ite_form (queueWrite_form h) ?_
  refine foldl_form (memory_form h (Memory.wf_foldl (fun m p hm => ?_) _ _)) fun s line hs => ?_
  · split
    · exact hm
    · exact Memory.wf_memSet _ _ _ hm
  · exact wakeWords_form (update_form (stampHome_form (hostOwns_form hs)))

theorem hostRead_form {st : State} {pa n : Nat} (h : st.wf = true) : (hostRead st pa n).wf = true := by
  unfold hostRead
  refine ite_form (update_form h) ?_
  refine ite_form (update_form h) ?_
  refine ite_form ?_ ?_
  · refine update_form (foldl_form h fun _ _ h1 => update_form ?_)
    split
    · exact combineLine_form h1
    · exact h1
  · refine update_form (foldl_form h fun _ _ h1 => update_form ?_)
    split
    · exact combineLine_form h1
    · exact h1

theorem execTranslationFill_form {pasid : BitVec 20} {va : BitVec 64} {resp : FillResponse} {st : State}
    (h : st.wf = true) : Next (execTranslationFill pasid va resp st) :=
  next_ite (.next (fill_form h)) .fault

theorem execPrgResponse_form {pasid : BitVec 20} {page : BitVec 64} {ok : Bool} {st : State} (h : st.wf = true) :
    Next (execPrgResponse pasid page ok st) :=
  next_ite (.next (nextPageRequest_form (pageRelease_form (pageNotices_form (update_form h))))) .fault

theorem execAtsInvalidation_form {pasid : BitVec 20} {base : BitVec 64} {bytes : Nat} {st : State} (h : st.wf = true) :
    Next (execAtsInvalidation pasid base bytes st) := by
  unfold execAtsInvalidation
  split
  · rename_i e
    have h1 := of_some e (invalidate_form h)
    exact .next (update_form h1)
  · exact .fault

theorem execClockAgeing_form {st : State} (h : st.wf = true) : Next (execClockAgeing st) :=
  .next (foldl_form h fun _ _ h1 => setCore_form h1)

theorem execClusterLineEviction_form {cl : BitVec 5} {line : Nat} {st : State} (h : st.wf = true) :
    Next (execClusterLineEviction cl line st) :=
  next_ite (.next (dropLine_form _ _ _ h)) .fault

theorem execPartialEviction_form {cl : BitVec 5} {line : Nat} {st : State} (h : st.wf = true) :
    Next (execPartialEviction cl line st) := by
  unfold execPartialEviction
  split
  · exact .next (dropPartial_form h)
  · exact .fault

theorem execBridgeEviction_form {line : Nat} {st : State} (h : st.wf = true) : Next (execBridgeEviction line st) :=
  next_ite (.next (evictHome_form h)) .fault

theorem execHostSnoop_form {line : Nat} {kind : SnoopKind} {st : State} (h : st.wf = true) :
    Next (execHostSnoop line kind st) := by
  unfold execHostSnoop
  refine next_ite ?_ ?_
  · refine next_ite (.next (update_form h)) ?_
    split
    · exact .next (combineLine_form h)
    · split
      · exact .next (update_form h)
      · exact .next (update_form h)
  · split
    · split
      · exact .next (update_form h)
      · exact .next h
    · exact .next (wakeWords_form (setHome_form (update_form h)))

theorem execUncorrectableError_form {line : Nat} {st : State} (h : st.wf = true) : Next (execUncorrectableError line st) :=
  .next (update_form h)

theorem spoilL1_form {s : State} {core line : Nat} (h : s.wf = true) : (spoilL1 s core line).wf = true := by
  unfold spoilL1
  dsimp only
  split
  · exact setCore_form h
  · exact h

theorem spoilCluster_form {s : State} {k line : Nat} (h : s.wf = true) : (spoilCluster s k line).wf = true :=
  setCluster_form h

theorem spoilName_form {s : State} {k key : Nat} (h : s.wf = true) : (spoilName s k key).wf = true := by
  unfold spoilName
  dsimp only
  split
  · exact setCluster_form h
  · exact h

theorem spoilStash_form {s : State} {core key : Nat} (h : s.wf = true) : (spoilStash s core key).wf = true := by
  unfold spoilStash
  dsimp only
  split
  · exact setCore_form h
  · exact h

theorem spoilTlb_form {s : State} {core : Nat} {vi : BitVec 10} {va : DWord} (h : s.wf = true) :
    (spoilTlb s core vi va).wf = true :=
  ite_form (setCore_form h) (ite_form (setCluster_form h) (update_form h))

/-! ## Sys2Proof/Machine/Exceptions.lean -/

theorem monitorPass_form {s : State} {t : Nat} (h : s.wf = true) : (monitorPass s t).wf = true :=
  ite_form (setThread_form h) h

theorem deliverStoreFault_form {st : State} {t : Nat} (h : st.wf = true) : (deliverStoreFault st t).wf = true :=
  trapThread_form (setCore_form (memory_form h (Memory.wf_foldl (fun _ _ => Memory.wf_memPutNat _ _ _ _) _ _)))

theorem deliverPosted_form {st : State} {t : Nat} {p : Posted} (h : st.wf = true) : (deliverPosted st t p).wf = true :=
  trapThread_form (setThread_form h)

theorem deliverPluck_form {st : State} {t : Nat} (h : st.wf = true) : (deliverPluck st t).wf = true :=
  setThread_form (abandon_form h)

theorem emptySlot_form {st : State} {t : Nat} (h : st.wf = true) : (emptySlot st t).wf = true :=
  update_form (setThread_form (ite_form (ite_form (unholdPorts_form (forgetNotes_form h)) (setCore_form
    (unholdPorts_form (forgetNotes_form h)))) (setCore_form (ite_form (unholdPorts_form (forgetNotes_form h))
    (setCore_form (unholdPorts_form (forgetNotes_form h)))))))

theorem serviceTrap_form {c : Cause} {n : BitVec 12} {next : Bool} {st : State} (h : st.wf = true) :
    Next (serviceTrap c n next st) :=
  .next (takeTrap_form h)

theorem execIllegalInstr_form {w : BitVec 32} {st : State} (h : st.wf = true) : Next (execIllegalInstr w st) :=
  .next (takeTrap_form h)

theorem execMcall_form {n : BitVec 12} {st : State} (h : st.wf = true) : Next (execMcall n st) :=
  finish_form (bind_form (needMode_form h) fun _ _ => .error h)

theorem execXret_form {st : State} (h : st.wf = true) : Next (execXret st) := by
  unfold execXret
  exact finish_form (bind_form (needMode_form h) fun _ _ => .ok (ite_form (emptySlot_form h) (returnFromTrap_form h)))

theorem execUpret_form {st : State} (h : st.wf = true) : Next (execUpret st) := by
  unfold execUpret
  refine finish_form ?_
  refine bind_form (require_form (illegalOperand_form h)) fun _ _ => ?_
  refine bind_form (readP_form h) fun _ _ => ?_
  refine bind_form (readP_form h) fun _ _ => ?_
  refine bind_form (require_form (misaligned_form h)) fun _ _ => ?_
  refine bind_form (require_form h) fun _ _ => ?_
  refine bind_form (require_form h) fun _ _ => ?_
  refine bind_form (waitFor_form h) fun _ _ => ?_
  refine ends_ite (.ok (completeAt_form (setTh_form (ite_form (setTh_form h) (fillFrame_form (setTh_form h)))))) ?_
  refine bind_form (frameReadable_form h) fun _ _ => ?_
  exact .ok (completeAt_form (setTh_form (ite_form (setTh_form h) (fillFrame_form (setTh_form h)))))

theorem execPlret_form {st : State} (h : st.wf = true) : Next (execPlret st) := by
  unfold execPlret
  refine finish_form ?_
  refine bind_form (require_form (illegalOperand_form h)) fun _ _ => ?_
  exact bind_form (waitFor_form h) fun _ _ => .ok (completeAt_form (setTh_form h))

theorem execHalt_form {st : State} (h : st.wf = true) : Next (execHalt st) :=
  finish_form (bind_form (needMode_form h) fun _ _ => .ok (setTh_form (complete_form h)))

theorem resumeSlots_form {st : State} {core : Nat} {mask : BitVec 8} (h : st.wf = true) :
    (resumeSlots st core mask).wf = true :=
  foldl_form h fun _ _ h1 => ite_form (setThread_form h1) h1

theorem execSlotResume_form {core : BitVec 9} {mask : BitVec 8} {st : State} (h : st.wf = true) :
    Next (execSlotResume core mask st) :=
  .next (resumeSlots_form h)

theorem execStoreFaultDelivery_form {t : BitVec 12} {st : State} (h : st.wf = true) : Next (execStoreFaultDelivery t st) := by
  unfold execStoreFaultDelivery
  split
  · exact .next (deliverStoreFault_form h)
  · exact .fault

theorem execPostedCauseDelivery_form {t : BitVec 12} {st : State} (h : st.wf = true) : Next (execPostedCauseDelivery t st) := by
  unfold execPostedCauseDelivery
  split
  · exact .next (deliverPosted_form h)
  · exact .fault

theorem execPluckDelivery_form {t : BitVec 12} {st : State} (h : st.wf = true) : Next (execPluckDelivery t st) := by
  unfold execPluckDelivery
  split
  · exact .next (deliverPluck_form h)
  · exact .fault

theorem execMachineCheck_form {t : BitVec 12} {structureNo entry : BitVec 8} {st : State} (h : st.wf = true) :
    Next (execMachineCheck t structureNo entry st) :=
  next_ite (.next (trapThread_form h)) .fault

/-! ## Sys2Proof/Machine/Fetch.lean -/

theorem fetch_form {s : State} (h : s.wf = true) : FetchedForm (fetch s) := by
  unfold fetch
  dsimp only
  split
  · rename_i e
    have h1 := of_error e (resolve_form h)
    exact h1
  · rename_i e
    have h1 := of_error e (resolve_form h)
    exact h1
  · rename_i e
    have h1 := of_okFst e (resolve_form h)
    split
    · rename_i e1
      have h2 := of_okFst e1 (readNear_form h1)
      exact h1
    · rename_i e1
      have h2 := of_error e1 (readNear_form h1)
      exact h1
    · rename_i e1
      have h2 := of_error e1 (readNear_form h1)
      exact h1

/-! ## Sys2Proof/Machine/Copy.lean -/

theorem readSpan_form {who : Who} {scope n : Nat} {s : State} {a : DWord} {n1 : Nat} (h : s.wf = true) :
    Ends BadForm FormFst (readSpan who scope n s a n1) := by
  unfold readSpan
  split
  · exact okFst_form h
  · refine ends_ite ?_ ?_
    · exact okFst_form h
    · exact bindFst_form (agentRead_form h) fun _ _ h1 => bindFst_form (readSpan_form h1) fun _ _ h2 => okFst_form h2

theorem checkSpan_form {who : Who} {scope n : Nat} {s : State} {a : DWord} {n1 : Nat} (h : s.wf = true) :
    Ends BadForm Form (checkSpan who scope n s a n1) := by
  unfold checkSpan
  split
  · exact .ok h
  · refine ends_ite (.ok h) ?_
    exact bindFst_form (resolve_form h) fun _ _ h1 => ends_ite (.error h1) (ends_ite (.error h1) (checkSpan_form h1))

theorem writeLines_form {who : Who} {scope : Nat} {row : Bool} {n : Nat} {s : State} {a : DWord} {n1 n2 n3 : Nat}
    (h : s.wf = true) : Ends BadForm Form (writeLines who scope row n s a n1 n2 n3) := by
  unfold writeLines
  split
  · exact .ok h
  · exact ends_ite (.ok h) (bind_form (agentWrite_form h) fun _ h1 => writeLines_form h1)

theorem readAll_form {s : State} {who : Who} {va : DWord} {n scope : Nat} (h : s.wf = true) :
    Ends BadForm FormFst (readAll s who va n scope) :=
  readSpan_form h

theorem wholly_form {s : State} {x : Mem State} (h : s.wf = true) (hx : Ends BadForm Form x) :
    Ends BadForm Form (wholly s x) := by
  unfold wholly
  split
  · exact .error h
  · exact hx

theorem writeAll_form {s : State} {who : Who} {va : DWord} {n data mask scope : Nat} {row : Bool} (h : s.wf = true) :
    Ends BadForm Form (writeAll s who va n data mask scope row) :=
  bind_form (checkSpan_form h) fun _ h1 => wholly_form h1 (writeLines_form h1)

theorem convertPiece_form {s : State} {r : CopyReq} {f g : Nat} {a : DWord} {o n : Nat} (h : s.wf = true) :
    Ends BadForm FormFst (convertPiece s r f g a o n) :=
  bindFst_form (readAll_form h) fun _ _ h1 => okFst_form h1

theorem copyPiece_form {s : State} {r : CopyReq} (h : s.wf = true) : Ends BadForm FormFst (copyPiece s r) := by
  unfold copyPiece
  dsimp only
  split
  · exact bindFst_form (readAll_form h) fun _ _ h1 => bind_form (writeAll_form h1) fun _ h2 => okFst_form h2
  · exact bindFst_form (convertPiece_form h) fun _ ⟨_, _⟩ h1 => bind_form (writeAll_form h1) fun _ h2 => okFst_form h2

theorem copyTail_form {n : Nat} {s : State} {r : CopyReq} {n1 : Nat} (h : s.wf = true) : (copyTail n s r n1).1.wf = true := by
  unfold copyTail
  split
  · exact h
  · refine fst_ite h ?_
    dsimp only
    split
    · rename_i e
      have h1 := of_someFst e (opt_ite (toOption_form (copyPiece_form (update_form h))) .none)
      exact copyTail_form h1
    · exact copyTail_form (update_form h)

theorem dropRequest_form {s : State} {k id : Nat} (h : s.wf = true) : (dropRequest s k id).wf = true :=
  setCluster_form h

theorem endRequest_form {s : State} {k : Nat} {r : CopyReq} (h : s.wf = true) : (endRequest s k r).wf = true :=
  updRef_form (dropRequest_form h)

theorem failRequest_form {s : State} {k : Nat} {r : CopyReq} {c : Cause} {va : DWord} (h : s.wf = true) :
    (failRequest s k r c va).wf = true := by
  unfold failRequest
  refine updRef_form (dropRequest_form ?_)
  exact fst_ite (x := (s, r)) h (copyTail_form h)

theorem runRequest_form {k n : Nat} {s : State} {r : CopyReq} (h : s.wf = true) : CopyEndForm (runRequest k n s r) := by
  unfold runRequest
  split
  · exact h
  · dsimp only
    split
    · exact updRef_form (dropRequest_form h)
    · refine copyEnd_ite h ?_
      refine copyEnd_ite (failRequest_form h) ?_
      refine copyEnd_ite (endRequest_form h) ?_
      split
      · rename_i e
        have h1 := of_okFst e (copyPiece_form h)
        exact runRequest_form (setCluster_form h1)
      · rename_i e
        have h1 := of_error e (copyPiece_form h)
        exact h1
      · rename_i e
        have h1 := of_error e (copyPiece_form h)
        exact copyEnd_ite (setCluster_form h1) (failRequest_form h1)

theorem copyTurn_form {s : State} {k idx : Nat} (h : s.wf = true) : (copyTurn s k idx).wf = true := by
  unfold copyTurn
  split
  · exact h
  · refine ite_form h ?_
    split
    · rename_i e
      have h1 := of_okFst e (copyPiece_form h)
      exact setCluster_form h1
    · rename_i e
      have h1 := of_error e (copyPiece_form h)
      exact h1
    · rename_i e
      have h1 := of_error e (copyPiece_form h)
      exact h

theorem pushRequest_form {s : State} {r : CopyReq} (h : s.wf = true) : (pushRequest s r).wf = true :=
  setTh_form (update_form (setCore_form h))

theorem readQuad_form {s : State} {r : BitVec 5} {t : BitVec 1} (h : s.wf = true) : Ends StopForm Free (readQuad s r t) := by
  unfold readQuad
  refine bind_form (readT_form h) fun _ _ => ?_
  refine bind_form (readT_form h) fun _ _ => ?_
  exact bind_form (readT_form h) fun _ _ => bind_form (readT_form h) fun _ _ => .ok trivial

theorem copyRequest_form {s : State} {q : BitVec 5} {t : BitVec 1} {bd bs : BitVec 3} (h : s.wf = true) :
    Ends StopForm Free (copyRequest s q t bd bs) := by
  unfold copyRequest
  refine bind_form (readQuad_form h) fun _ _ => ?_
  refine bind_form (readB_form h) fun _ _ => ?_
  exact bind_form (readB_form h) fun _ _ => bind_form (require_form (illegalOperand_form h)) fun _ _ => .ok trivial

theorem tensorRequest_form {s : State} {l : Line} (h : s.wf = true) : Ends StopForm Free (tensorRequest s l) :=
  ends_ite (.ok trivial) (.error (illegalOperand_form h))

theorem copyFaultCheck_form {s : State} (h : s.wf = true) : Ends StopForm Free (copyFaultCheck s) :=
  require_form h

theorem joinCluster_form {s : State} (h : s.wf = true) : (joinCluster s).wf = true :=
  raiseClock_form h

theorem execCopy_form {a : BitVec 5} {s : BitVec 1} {bd bs : BitVec 3} {st : State} (h : st.wf = true) :
    Next (execCopy a s bd bs st) := by
  unfold execCopy
  refine finish_form ?_
  refine bind_form (copyRequest_form h) fun _ _ => ?_
  exact bind_form (waitFor_form h) fun _ _ => .ok (complete_form (pushRequest_form h))

theorem execCopyNb_form {r a : BitVec 5} {s : BitVec 1} {bd bs : BitVec 3} {st : State} (h : st.wf = true) :
    Next (execCopyNb r a s bd bs st) := by
  unfold execCopyNb
  refine finish_form ?_
  refine bind_form (copyRequest_form h) fun _ _ => ?_
  refine ends_ite ?_ ?_
  · exact bind_form (writeX_form h) fun _ h1 => .ok (complete_form (pushRequest_form h1))
  · exact bind_form (writeX_form h) fun _ h1 => .ok (complete_form h1)

theorem execTcopy_form {a : BitVec 5} {s : BitVec 1} {st : State} (h : st.wf = true) : Next (execTcopy a s st) := by
  unfold execTcopy
  refine finishKeeping_form ?_
  refine bind_form (readT_form h) fun _ _ => ?_
  refine bind_form (require_form (illegalOperand_form h)) fun _ _ => ?_
  refine bind_form (require_form h) fun _ _ => ?_
  refine bind_form (require_form h) fun _ _ => ?_
  refine bind_form (tensorRequest_form h) fun _ _ => ?_
  exact bind_form (waitFor_form h) fun _ _ => .ok (completeReading_form (pushRequest_form h))

theorem execCseal_form {d : BitVec 5} {st : State} (h : st.wf = true) : Next (execCseal d st) := by
  unfold execCseal
  refine finish_form ?_
  refine bind_form (waitFor_form h) fun _ _ => ?_
  exact bind_form (writeX_form h) fun _ h1 => .ok (complete_form (setTh_form h1))

theorem execCwait_form {n : BitVec 5} {st : State} (h : st.wf = true) : Next (execCwait n st) := by
  unfold execCwait
  refine finish_form ?_
  refine bind_form (waitFor_form h) fun _ _ => ?_
  exact bind_form (copyFaultCheck_form h) fun _ _ => .ok (complete_form (joinCluster_form (setTh_form h)))

theorem execCpoll_form {d a : BitVec 5} {s : BitVec 1} {st : State} (h : st.wf = true) : Next (execCpoll d a s st) := by
  unfold execCpoll
  refine finishKeeping_form ?_
  refine bind_form (readT_form h) fun _ _ => ?_
  refine ends_ite ?_ (bind_form (writeX_form h) fun _ h1 => .ok (completeReading_form h1))
  refine bind_form (copyFaultCheck_form h) fun _ _ => ?_
  exact bind_form (writeX_form h) fun _ h1 => .ok (completeReading_form (joinCluster_form h1))

theorem execCopyDispatch_form {core : BitVec 9} {st : State} (h : st.wf = true) : Next (execCopyDispatch core st) := by
  unfold execCopyDispatch
  dsimp only
  split
  · refine next_ite ?_ ?_
    · exact .next (handLines_form (setCluster_form (setCore_form (askCluster_form (releasePush_form h)))))
    · exact .fault
  · exact .fault

theorem execCopyRequestEnd_form {cl : BitVec 5} {idx : Nat} {st : State} (h : st.wf = true) :
    Next (execCopyRequestEnd cl idx st) := by
  unfold execCopyRequestEnd
  split
  · split
    · rename_i e
      have h1 := of_copyEnd e (runRequest_form h)
      exact .next h1
    · rename_i e
      have h1 := of_copyEnd e (runRequest_form h)
      exact next_ite .fault (.next h1)
  · exact .fault

theorem execBatchFinish_form {t : BitVec 12} {st : State} (h : st.wf = true) : Next (execBatchFinish t st) := by
  unfold execBatchFinish
  split
  · exact .next (updRef_form h)
  · exact .fault

/-! ## Sys2Proof/Machine/Car.lean -/

theorem setCarStore_form {st : State} {n : Nat} {c : CarStore} (h : st.wf = true) : (setCarStore st n c).wf = true :=
  update_form h

theorem setCount_form {st : State} {c : CarStore} {set w count state : Nat} (h : st.wf = true) :
    (setCount st c set w count state).wf = true := memory_form h fun hm => Memory.wf_memPutNat _ _ _ _ (Memory.wf_memPutNat _ _ _ _ hm)

theorem carRef_form {st : State} {c : CarStore} {n : DWord} (h : st.wf = true) : Ends Free Form (carRef st c n) := by
  unfold carRef
  refine map_form (I := Free) (ends_ite (.error trivial) ?_) fun ⟨_, _, _⟩ _ => setCount_form h
  split
  · exact .ok trivial
  · exact .error trivial

theorem carRel_form {st : State} {k : Nat} {c : CarStore} {n : DWord} (h : st.wf = true) :
    Ends Free Form (carRel st k c n) := by
  unfold carRel
  refine map_form (free_form _) fun ⟨_, _, _⟩ _ => ?_
  exact ite_form h (ite_form (setCount_form h) (memory_form (setCount_form h) (Memory.wf_memPutNat _ _ _ _)))

theorem dropRef_form {st : State} {k : Nat} {c : CarStore} {n : DWord} (h : st.wf = true) : (dropRef st k c n).wf = true :=
  getD_form (toOption_form (carRel_form h)) h

theorem refChildren_form {st : State} {c : CarStore} {as : List DWord} (h : st.wf = true) :
    Ends Free Form (refChildren st c as) := by
  unfold refChildren
  split
  · exact .ok h
  · split
    · rename_i e
      have h1 := of_ok e (carRef_form h)
      exact refChildren_form h1
    · exact .error trivial

theorem carFind_form {st : State} {k : Nat} {node : Bool} {l : Line} (h : st.wf = true) : FoundForm (carFind st k node l) := by
  unfold carFind
  refine found_ite (update_form h) ?_
  refine found_ite trivial ?_
  split
  · exact trivial
  · split
    · exact setCarStore_form h
    · exact trivial

theorem setSlotState_form {st : State} {c : CarStore} {set w state : Nat} (h : st.wf = true) :
    (setSlotState st c set w state).wf = true := memory_form h (Memory.wf_memPutNat _ _ _ _)

theorem pendSlot_form {st : State} {c : CarStore} {w : Nat} {node : Bool} {l : Line} (h : st.wf = true) :
    (pendSlot st c w node l).wf = true := memory_form h fun hm =>
    Memory.wf_memWrite _ _ _ _ _ (Memory.wf_memPutNat _ _ _ _ (Memory.wf_memPutNat _ _ _ _ (Memory.wf_memPutNat _ _ _ _ hm)))

theorem liveNow_form {st : State} {k set w : Nat} {col : Bool} (h : st.wf = true) : (liveNow st k set w col).wf = true :=
  ite_form (setCarStore_form (setCount_form h)) (setCount_form h)

theorem undoSlot_form {st : State} {k set w : Nat} {taken : List DWord} (h : st.wf = true) :
    (undoSlot st k set w taken).wf = true :=
  setSlotState_form (foldl_form h fun _ _ h1 => dropRef_form h1)

theorem lookupOrAllocate_form {st : State} {k : Nat} {node : Bool} {l : Line} (h : st.wf = true) :
    LookupForm (lookupOrAllocate st k node l) := by
  unfold lookupOrAllocate
  dsimp only
  split
  · exact trivial
  · rename_i e
    have h1 := of_found e (carFind_form h)
    exact h1
  · exact setCount_form h
  · split
    · exact setSlotState_form (pendSlot_form h)
    · rename_i e1
      have h1 := of_ok (I := Form) e1 (ends_ite (refChildren_form (pendSlot_form h)) (.ok (pendSlot_form h)))
      exact liveNow_form h1

theorem carRead_form {st : State} {cl k : Nat} {n : DWord} (h : st.wf = true) : Ends Free FormFst (carRead st cl k n) := by
  unfold carRead
  refine ends_ite (.error trivial) ?_
  split
  · exact ends_ite (.error trivial) (okFst_form (setCluster_form (ite_form (makeRoom_form h) h)))
  · split
    · exact ends_ite (okFst_form (update_form h)) (.error trivial)
    · exact .error trivial
  · exact .error trivial

theorem dropName_form {st : State} {p : Nat → Bool} (h : st.wf = true) : (dropName st p).wf = true :=
  update_form h

theorem readName_form {st : State} {a : BitVec 5} (h : st.wf = true) : Ends StopForm Free (readName st a) :=
  bind_form (readP_form h) fun _ _ => bind_form (readP_form h) fun _ _ => .ok trivial

theorem readLinePair_form {st : State} {v : BitVec 6} (h : st.wf = true) : Ends StopForm Free (readLinePair st v) :=
  bind_form (readV_form h) fun _ _ => bind_form (readV_form h) fun _ _ => .ok trivial

theorem permissionOpen_form {st : State} (h : st.wf = true) : StopForm (permissionOpen st) :=
  update_form h

theorem carRight_form {st : State} {wr : Bool} (h : st.wf = true) : Ends StopForm Free (carRight st wr) :=
  bind_form (require_form (permissionOpen_form h)) fun _ _ => .ok trivial

theorem nameStop_form {st : State} {c : Cause} {n : DWord} (h : st.wf = true) : StopForm (nameStop st c n) :=
  stop_ite (update_form h) h

theorem nameResult_form {st : State} {a : BitVec 5} {n : DWord} {col : Bool} (h : st.wf = true) :
    Ends StopForm Form (nameResult st a n col) := by
  unfold nameResult
  refine bind_form (writeX_form h) fun _ h1 => ?_
  exact bind_form (writeX_form h1) fun _ h2 => .ok (complete_form (ite_form (setTh_form h2) h2))

theorem pendingStep_form {st : State} {a : BitVec 5} {k set w j : Nat} {col : Bool} (h : st.wf = true) :
    Ends StopForm Form (pendingStep st a k set w j col) := by
  unfold pendingStep
  dsimp only
  split
  · exact nameResult_form (liveNow_form h)
  · split
    · rename_i e
      have h1 := of_ok e (carRef_form h)
      exact .error (setTh_form h1)
    · exact .error (nameStop_form (undoSlot_form h))

theorem carLookup_form {node : Bool} {v : BitVec 6} {a : BitVec 5} {st : State} (h : st.wf = true) :
    Next (carLookup node v a st) := by
  unfold carLookup
  refine finish_form ?_
  split
  · exact pendingStep_form h
  · refine bind_form (readLinePair_form h) fun l _ => ?_
    extract_lets th named
    have hnamed : ∀ k, Ends StopForm Form (named k) := by
      intro k
      refine bind_form (destFree_form h) fun _ _ => ?_
      have hl := lookupOrAllocate_form (k := k) (node := node) (l := l) h
      split
      · exact .error (setTh_form (pendSlot_form h))
      · split
        · exact .error (setTh_form h)
        · rename_i e
          exact .error (of_lookup e hl)
        · rename_i e
          exact nameResult_form (of_lookup e hl)
    split
    · exact hnamed _
    · exact bind_form (carRight_form h) fun k _ => hnamed k

theorem execCnld_form {v : BitVec 6} {r : BitVec 5} {st : State} (h : st.wf = true) : Next (execCnld v r st) := by
  unfold execCnld
  refine finish_form ?_
  refine bind_form (readName_form h) fun _ _ => ?_
  refine bind_form (carRight_form h) fun _ _ => ?_
  refine bind_form (waitFor_form h) fun _ _ => ?_
  refine ends_ite ?_ ?_
  · refine bindFst_form (okFst_form h) fun _ _ h1 => ?_
    exact bind_form (writeV_form h1) fun _ h2 => bind_form (writeV_form h2) fun _ h3 => .ok (complete_form h3)
  · split
    · rename_i e
      have h1 := of_ok e (carRead_form h)
      refine bindFst_form (.ok h1) fun _ _ h2 => ?_
      exact bind_form (writeV_form h2) fun _ h3 => bind_form (writeV_form h3) fun _ h4 => .ok (complete_form h4)
    · refine bindFst_form (.error (nameStop_form h)) fun _ _ h1 => ?_
      exact bind_form (writeV_form h1) fun _ h2 => bind_form (writeV_form h2) fun _ h3 => .ok (complete_form h3)

theorem execCref_form {r : BitVec 5} {st : State} (h : st.wf = true) : Next (execCref r st) := by
  unfold execCref
  refine finish_form ?_
  refine bind_form (readName_form h) fun _ _ => ?_
  refine bind_form (carRight_form h) fun _ _ => ?_
  refine ends_ite (.ok (complete_form h)) ?_
  split
  · rename_i e
    have h1 := of_ok e (carRef_form h)
    exact .ok (complete_form h1)
  · exact .error (nameStop_form h)

theorem execCrel_form {r : BitVec 5} {st : State} (h : st.wf = true) : Next (execCrel r st) := by
  unfold execCrel
  refine finish_form ?_
  refine bind_form (readName_form h) fun _ _ => ?_
  refine bind_form (carRight_form h) fun _ _ => ?_
  refine ends_ite (.ok (complete_form h)) ?_
  split
  · rename_i e
    have h1 := of_ok e (carRel_form h)
    exact .ok (complete_form h1)
  · exact .error (nameStop_form h)

theorem execCstat_form {r : BitVec 5} {st : State} (h : st.wf = true) : Next (execCstat r st) := by
  unfold execCstat
  refine finish_form ?_
  refine bind_form (readName_form h) fun _ _ => ?_
  refine bind_form (carRight_form h) fun _ _ => ?_
  refine bind_form (destFree_form h) fun _ _ => ?_
  refine ends_ite ?_ ?_
  · refine bind_form (I := Free) (.ok trivial) fun ⟨_, _⟩ _ => ?_
    exact bind_form (writeX_form h) fun _ h1 => bind_form (writeX_form h1) fun _ h2 => .ok (complete_form h2)
  · split
    · refine bind_form (I := Free) (.ok trivial) fun ⟨_, _⟩ _ => ?_
      exact bind_form (writeX_form h) fun _ h1 => bind_form (writeX_form h1) fun _ h2 => .ok (complete_form h2)
    · refine bind_form (I := Free) (.error (nameStop_form h)) fun ⟨_, _⟩ _ => ?_
      exact bind_form (writeX_form h) fun _ h1 => bind_form (writeX_form h1) fun _ h2 => .ok (complete_form h2)

theorem execReclaimStep_form {st : State} (h : st.wf = true) : Next (execReclaimStep st) := by
  unfold execReclaimStep
  split
  · refine next_ite (.next (update_form h)) ?_
    exact .next (setCount_form (dropName_form (ite_form (foldl_form (update_form h) fun _ _ h1 => dropRef_form h1)
      (update_form h))))
  · exact .fault

/-! ## Sys2Proof/Machine/Geometry.lean -/

theorem rotateLine_form {st : State} {o : EngineOp} {i : Nat} (h : st.wf = true) : (rotateLine st o i).wf = true := by
  unfold rotateLine
  split
  · exact h
  · refine ite_form (setCore_form (writeThere_form (ite_form (poison_form h) h))) ?_
    refine ite_form ?_ ?_
    · exact setCore_form (writeThere_form (ite_form (poison_form h) h))
    · exact writeThere_form (ite_form (poison_form h) h)

theorem rotateRest_form {st : State} {o : EngineOp} (h : st.wf = true) : (rotateRest st o).wf = true :=
  foldl_form h fun _ _ h1 => rotateLine_form h1

/-! ## Sys2Proof/Machine/Leases.lean -/

theorem setEngine_form {st : State} {e : Nat} {x : Engine} (h : st.wf = true) : (setEngine st e x).wf = true :=
  update_form h

theorem setQueue_form {st : State} {q : Nat} {l : List LeaseReq} (h : st.wf = true) : (setQueue st q l).wf = true :=
  update_form h

theorem updLease_form {st : State} {r e : Nat} {f : Lease → Lease} (h : st.wf = true) : (updLease st r e f).wf = true :=
  updRef_form h

theorem postLease_form {st : State} {r e ev : Nat} (h : st.wf = true) : (postLease st r e ev).wf = true :=
  ite_form (updRef_form h) h

theorem leaseEvicted_form {st : State} {e : Nat} (h : st.wf = true) : StopForm (leaseEvicted st e) :=
  h

theorem placeOf_form {st : State} {who : Who} {va : DWord} {key : Nat} (h : st.wf = true) :
    Ends BadForm FormFst (placeOf st who va key) := by
  unfold placeOf
  refine ends_ite ?_ ?_
  · exact classify_form h
  · exact ends_ite (ends_ite (okFst_form h) (.error h)) (ends_ite (okFst_form h) (.error h))

theorem stopOp_form {st : State} {r e : Nat} {o : EngineOp} {c : Cause} {va : DWord} (h : st.wf = true) :
    (stopOp st r e o c va).wf = true :=
  postLease_form (updLease_form h)

theorem nameStep_form {st : State} {o : EngineOp} {i : Nat} {stopping : Bool} (h : st.wf = true) :
    Ends BadForm FormFst (nameStep st o i stopping) := by
  unfold nameStep
  extract_lets va place o'
  have hp : Ends BadForm FormFst place := by
    unfold place
    have hp := placeOf_form (who := o.who) (va := va) (key := o.nameKey) h
    split
    · rename_i e
      have h1 : BadForm (.wait _) := of_error e hp
      exact ends_ite (okFst_form h1) (.error h1)
    · exact hp
  have hw := bind_form hp fun x hx =>
    writeBytes_form (who := o.who) (va := va) (p := x.2) (n := 8) (data := o.name.setWidth 512) (mask := byteMask 8) (scope := 2)
      (whole := false) hx
  split
  · rename_i e
    have h1 := of_ok e hw
    exact okFst_form h1
  · rename_i e
    have h1 := of_error e hw
    exact .error h1
  · exact okFst_form h

theorem settleIngest_form {st : State} {r e : Nat} {goesOn : Bool} (h : st.wf = true) :
    (settleIngest st r e goesOn).wf = true := by
  unfold settleIngest
  split
  · refine ite_form ?_ h
    split
    · rename_i e1
      have h1 := of_okFst e1 (nameStep_form h)
      dsimp only
      split
      · exact stopOp_form (updLease_form h1)
      · exact updLease_form h1
    · rename_i e1
      have h1 := of_error e1 (nameStep_form h)
      exact h
  · exact h

theorem settleRotate_form {st : State} {r e : Nat} (h : st.wf = true) : (settleRotate st r e).wf = true := by
  unfold settleRotate
  split
  · exact ite_form (updLease_form (rotateRest_form h)) h
  · exact h

theorem settleStep_form {st : State} {r e : Nat} {goesOn : Bool} (h : st.wf = true) : (settleStep st r e goesOn).wf = true :=
  settleRotate_form (settleIngest_form h)

theorem dropRoot_form {st : State} {o : EngineOp} (h : st.wf = true) : (dropRoot st o).wf = true :=
  ite_form (dropRef_form h) h

theorem dropOp_form {st : State} {o : EngineOp} (h : st.wf = true) : (dropOp st o).wf = true :=
  ite_form (setCore_form (forgetAgent_form (dropRoot_form h))) (forgetAgent_form (dropRoot_form h))

theorem leaveQueues_form {st : State} {r e : Nat} (h : st.wf = true) : (leaveQueues st r e).wf = true :=
  update_form h

theorem freeLease_form {st : State} {r e : Nat} (h : st.wf = true) : (freeLease st r e).wf = true := by
  unfold freeLease
  dsimp only
  split
  · exact h
  · exact updLease_form h
  · exact updLease_form (leaveQueues_form h)
  · exact updLease_form (setEngine_form (foldl_form (settleStep_form h) fun _ _ h1 => dropOp_form h1))
  · exact updLease_form (setEngine_form (foldl_form (settleStep_form h) fun _ _ h1 => dropOp_form h1))
  · exact updLease_form (setEngine_form (foldl_form (settleStep_form h) fun _ _ h1 => dropOp_form h1))

theorem parkLeases_form {st : State} {r : Nat} (h : st.wf = true) : (parkLeases st r).wf = true := by
  unfold parkLeases
  refine foldl_form h fun _ _ h1 => ?_
  dsimp only
  split
  · exact updLease_form (settleStep_form h1)
  · exact updLease_form h1
  · exact setEngine_form h1
  · exact h1

theorem unparkLeases_form {st : State} {r : Nat} (h : st.wf = true) : (unparkLeases st r).wf = true := by
  unfold unparkLeases
  refine foldl_form h fun _ _ h1 => ?_
  dsimp only
  split
  · exact setEngine_form h1
  · exact updLease_form h1
  · exact h1

theorem overdue_form {st : State} {r e : Nat} (h : st.wf = true) : (overdue st r e).wf = true :=
  updRef_form h

theorem evict_form {st : State} {engine : Nat} {handoff : Bool} (h : st.wf = true) : (evict st engine handoff).wf = true := by
  unfold evict
  split
  · exact h
  · exact postLease_form (setEngine_form (updLease_form (foldl_form (settleIngest_form (overdue_form h)) fun _ _ h1 =>
      dropOp_form h1)))

theorem setMyLease_form {st : State} {e : BitVec 2} {l : Lease} (h : st.wf = true) : (setMyLease st e l).wf = true :=
  setTh_form h

theorem execLease_form {e : BitVec 2} {a b : BitVec 5} {st : State} (h : st.wf = true) : Next (execLease e a b st) := by
  unfold execLease
  refine finishKeeping_form ?_
  refine bind_form (require_form (illegalOperand_form h)) fun _ _ => ?_
  refine bind_form (readP_form h) fun _ _ => ?_
  refine bind_form (readP_form h) fun _ _ => ?_
  refine bind_form (require_form (illegalOperand_form h)) fun _ _ => ?_
  refine bind_form (require_form (illegalOperand_form h)) fun _ _ => ?_
  refine bind_form (waitFor_form h) fun _ _ => ?_
  exact .ok (completeReading_form (setQueue_form (update_form (setMyLease_form h))))

theorem execLrenew_form {e : BitVec 2} {a : BitVec 5} {st : State} (h : st.wf = true) : Next (execLrenew e a st) := by
  unfold execLrenew
  refine finishKeeping_form ?_
  refine bind_form (require_form (illegalOperand_form h)) fun _ _ => ?_
  refine bind_form (require_form (leaseEvicted_form h)) fun _ _ => ?_
  exact bind_form (readP_form h) fun _ _ => .ok (completeReading_form (setMyLease_form h))

theorem execLfree_form {e : BitVec 2} {st : State} (h : st.wf = true) : Next (execLfree e st) :=
  finish_form (.ok (complete_form (freeLease_form h)))

theorem execLstat_form {e : BitVec 2} {d c : BitVec 5} {st : State} (h : st.wf = true) : Next (execLstat e d c st) := by
  unfold execLstat
  refine finish_form ?_
  exact bind_form (writeX_form h) fun _ h1 => .ok (complete_form (ite_form (joinCluster_form (setTh_form h1)) h1))

theorem execLwait_form {e : BitVec 2} {d a : BitVec 5} {st : State} (h : st.wf = true) : Next (execLwait e d a st) := by
  unfold execLwait
  refine finishKeeping_form ?_
  dsimp only
  split
  · exact bind_form (writeX_form h) fun _ h1 => .ok (completeReading_form h1)
  · exact bind_form (waitFor_form h) fun _ _ => bind_form (writeX_form h) fun _ h1 => .ok (completeReading_form h1)
  · refine bind_form (readP_form h) fun _ _ => ?_
    refine ends_ite ?_ ?_
    · exact .error (ite_form h (setTh_form h))
    · exact bind_form (writeX_form h) fun _ h1 => .ok (completeReading_form h1)

theorem execLwaitTimeout_form {t : BitVec 12} {e : BitVec 2} {st : State} (h : st.wf = true) :
    Next (execLwaitTimeout t e st) := by
  unfold execLwaitTimeout
  dsimp only
  split
  · exact next_ite (.next (setThread_form h)) .fault
  · exact .fault

theorem execEget_form {e : BitVec 2} {d k : BitVec 5} {st : State} (h : st.wf = true) : Next (execEget e d k st) := by
  unfold execEget
  refine finish_form ?_
  refine ends_ite ?_ ?_
  · exact bind_form (I := Form) (.ok h) fun _ h1 => .ok (complete_form h1)
  · exact bind_form (launch_form h) fun _ h1 => .ok (complete_form h1)

theorem execEwait_form {e : BitVec 2} {d : BitVec 5} {st : State} (h : st.wf = true) : Next (execEwait e d st) := by
  unfold execEwait
  refine finish_form ?_
  refine bind_form (require_form (leaseEvicted_form h)) fun _ _ => ?_
  refine bind_form (waitFor_form h) fun _ _ => ?_
  exact bind_form (writeX_form h) fun _ h1 => .ok (complete_form (joinCluster_form (setTh_form h1)))

theorem execLeaseGrant_form {queue : Nat} {st : State} (h : st.wf = true) : Next (execLeaseGrant queue st) := by
  unfold execLeaseGrant
  split
  · exact .fault
  · dsimp only
    split
    · exact .next (updLease_form (update_form (setEngine_form (setQueue_form h))))
    · exact next_ite (.next (updLease_form (update_form (setEngine_form (setQueue_form h))))) .fault
    · exact .fault

theorem execEngineWakeDone_form {engine : Nat} {st : State} (h : st.wf = true) : Next (execEngineWakeDone engine st) := by
  unfold execEngineWakeDone
  dsimp only
  split
  · exact .next (setEngine_form h)
  · exact .next (setEngine_form h)
  · refine next_ite ?_ ?_
    · exact .next (updLease_form (overdue_form (setEngine_form h)))
    · exact .next (postLease_form (updLease_form (overdue_form (setEngine_form h))))
  · refine next_ite ?_ ?_
    · exact .next (updLease_form (overdue_form (setEngine_form h)))
    · exact .next (postLease_form (updLease_form (overdue_form (setEngine_form h))))
  · exact .next (postLease_form (updLease_form (setEngine_form h)))
  · exact .fault

theorem execLeaseTermExpiry_form {t : BitVec 12} {e : BitVec 2} {st : State} (h : st.wf = true) :
    Next (execLeaseTermExpiry t e st) :=
  next_ite (.next (updLease_form h)) .fault

theorem execForcedEviction_form {engine : Nat} {st : State} (h : st.wf = true) : Next (execForcedEviction engine st) := by
  unfold execForcedEviction
  split
  · exact .next (evict_form h)
  · exact .fault

theorem execEnginePowerOff_form {engine : Nat} {st : State} (h : st.wf = true) : Next (execEnginePowerOff engine st) :=
  next_ite (.next (setEngine_form h)) .fault

/-! ## Sys2Proof/Machine/Engines.lean -/

theorem stopOpen_form {α : Type} {I : α → Prop} {st : State} {c : Cause} (h : st.wf = true) :
    Ends BadForm I (stopOpen (α := α) st c) :=
  .error (update_form h)

theorem fetchRows_form {who : Who} {f n : Nat} {s : State} {as : List DWord} (h : s.wf = true) :
    Ends BadForm FormFst (fetchRows who f n s as) := by
  unfold fetchRows
  split
  · exact okFst_form h
  · refine bindFst_form (readAll_form h) fun _ _ h1 => ?_
    exact bindFst_form (fetchRows_form h1) fun _ ⟨_, _⟩ h2 => okFst_form h2

theorem writeRows_form {st : State} {who : Who} {rows : List (DWord × Nat × Nat × Nat)} (h : st.wf = true) :
    Ends BadForm Form (writeRows st who rows) := by
  unfold writeRows
  refine bind_form (I := Form) (foldlM_form h fun _ ⟨_, _, _, _⟩ h1 => checkSpan_form h1) fun _ h1 => ?_
  exact wholly_form h1 (foldlM_form h1 fun _ ⟨_, _, _, _⟩ h2 => writeLines_form h2)

theorem fetchPlane_form {st : State} {o : EngineOp} {base : DWord} {j : Nat} (h : st.wf = true) :
    Ends BadForm FormFst (fetchPlane st o base j) :=
  bindFst_form (fetchRows_form h) fun _ ⟨_, _⟩ h1 => okFst_form h1

theorem fetchGroup_form {st : State} {o : EngineOp} {base : DWord} {j g : Nat} (h : st.wf = true) :
    Ends BadForm FormFst (fetchGroup st o base j g) :=
  bindFst_form (fetchRows_form h) fun _ ⟨_, _⟩ h1 => okFst_form h1

theorem setDrn_form {st : State} {engine : Nat} {b : Bool} (h : st.wf = true) : (setDrn st engine b).wf = true := by
  unfold setDrn
  split
  · exact updLease_form h
  · exact h

theorem loadPlane_form {st : State} {engine : Nat} {o : EngineOp} {base : DWord} {j : Nat} (h : st.wf = true) :
    Ends BadForm FormFst (loadPlane st engine o base j) :=
  ends_ite (okFst_form h) (bindFst_form (fetchPlane_form h) fun _ ⟨_, _⟩ h1 => okFst_form (setEngine_form h1))

theorem loadBeside_form {before : State × EngineOp} {x : Mem (State × EngineOp)} (h : before.1.wf = true)
    (hx : Ends BadForm FormFst x) : (loadBeside before x).1.wf = true := by
  cases hx with
  | ok hx => exact hx
  | error => exact h

theorem productStep_form {st : State} {engine : Nat} {o : EngineOp} {abase bbase : DWord} {n : Nat} (h : st.wf = true) :
    Ends BadForm FormFst (productStep st engine o abase bbase n) := by
  unfold productStep
  refine bindFst_form (loadPlane_form h) fun _ _ h1 => ?_
  refine bindFst_form (fetchGroup_form h1) fun _ ⟨_, _⟩ h2 => ?_
  exact .ok (fst_ite (loadBeside_form (fst_form (setEngine_form (update_form (ite_form (setDrn_form h2) h2))))
    (loadPlane_form (setEngine_form (update_form (ite_form (setDrn_form h2) h2))))) (fst_form (setEngine_form (update_form
    (ite_form (setDrn_form h2) h2)))))

theorem putLocal_form {st : State} {cl core off n data mask : Nat} (h : st.wf = true) :
    (putLocal st cl core off n data mask).wf = true :=
  foldl_form h fun _ _ h1 => writeThere_form h1

theorem drainStep_form {st : State} {engine : Nat} {o : EngineOp} {g : Nat} (h : st.wf = true) :
    Ends BadForm FormFst (drainStep st engine o g) := by
  unfold drainStep
  dsimp only
  split
  · exact .error h
  · exact okFst_form (setDrn_form (foldlFst_form h fun _ _ _ h1 => fst_form (putLocal_form h1)))

theorem drainWake_form {st : State} {o : EngineOp} (h : st.wf = true) : (drainWake st o).wf = true := by
  unfold drainWake
  dsimp only
  split
  · exact ite_form (update_form h) h
  · exact h

theorem rotateTest_form {st : State} {o : EngineOp} (h : st.wf = true) : Ends BadForm Free (rotateTest st o) := by
  unfold rotateTest
  refine bind_form (I := Free) ?_ fun _ _ => ?_
  · dsimp only
    split
    · exact stopOpen_form h
    · split
      · exact .error h
      · split
        · exact .error h
        · exact .ok trivial
  dsimp only
  split
  · exact stopOpen_form h
  · split
    · exact .error h
    · split
      · exact .error h
      · exact .ok trivial

theorem rotateStep_form {st : State} {o : EngineOp} (h : st.wf = true) : Ends BadForm Form (rotateStep st o) :=
  ends_ite (bind_form (rotateTest_form h) fun _ _ => .ok (rotateRest_form h)) (.ok (rotateRest_form h))

theorem rotateProduct_form {st : State} {engine : Nat} {o : EngineOp} {n : Nat} (h : st.wf = true) :
    Ends BadForm FormFst (rotateProduct st engine o n) :=
  productStep_form h

theorem fetchResidues_form {st : State} {o : EngineOp} {j : Nat} (h : st.wf = true) :
    Ends BadForm FormFst (fetchResidues st o j) :=
  bindFst_form (fetchRows_form h) fun _ ⟨_, _⟩ h1 => okFst_form h1

theorem loadResidues_form {st : State} {engine : Nat} {o : EngineOp} {i : Nat} (h : st.wf = true) :
    Ends BadForm FormFst (loadResidues st engine o i) := by
  unfold loadResidues
  refine ends_ite ?_ ?_
  · exact okFst_form h
  · exact bindFst_form (fetchResidues_form h) fun _ ⟨_, _⟩ h1 => okFst_form (setEngine_form h1)

theorem residueStep_form {st : State} {engine : Nat} {o : EngineOp} {n : Nat} (h : st.wf = true) :
    Ends BadForm FormFst (residueStep st engine o n) := by
  unfold residueStep
  refine bindFst_form (loadResidues_form h) fun _ _ h1 => ?_
  refine bindFst_form (fetchRows_form h1) fun _ ⟨_, _⟩ h2 => ?_
  exact .ok (fst_ite (loadBeside_form (fst_form (setEngine_form (ite_form (setDrn_form h2) h2))) (loadResidues_form
    (setEngine_form (ite_form (setDrn_form h2) h2)))) (fst_form (setEngine_form (ite_form (setDrn_form h2) h2))))

theorem convertStep_form {st : State} {engine : Nat} {o : EngineOp} {g : Nat} (h : st.wf = true) :
    Ends BadForm FormFst (convertStep st engine o g) :=
  bind_form (writeRows_form h) fun _ h1 => okFst_form (setDrn_form h1)

theorem gconvStep_form {st : State} {o : EngineOp} {n : Nat} (h : st.wf = true) : Ends BadForm FormFst (gconvStep st o n) :=
  bindFst_form (readAll_form h) fun _ _ h1 => bind_form (writeRows_form h1) fun _ h2 => okFst_form h2

theorem gatherRun_form {o : EngineOp} {n : Nat} {s : State} {n1 : Nat} (h : s.wf = true) :
    Ends BadForm FormFst (gatherRun o n s n1) := by
  unfold gatherRun
  split
  · exact okFst_form h
  · refine bindFst_form (readAll_form h) fun _ _ h1 => ?_
    exact bindFst_form (readAll_form h1) fun _ _ h2 => bindFst_form (gatherRun_form h2) fun _ _ h3 => okFst_form h3

theorem ggathStep_form {st : State} {o : EngineOp} {n : Nat} (h : st.wf = true) : Ends BadForm Form (ggathStep st o n) :=
  bindFst_form (gatherRun_form h) fun _ _ h1 => writeRows_form h1

theorem walkLeaf_form {st : State} {cl k i n : Nat} {a : DWord} (h : st.wf = true) :
    Ends Free FormFst (walkLeaf st cl k i n a) := by
  unfold walkLeaf
  split
  · exact ends_ite (okFst_form h) (carRead_form h)
  · exact ends_ite (okFst_form h) (bindFst_form (carRead_form h) fun _ _ h1 => walkLeaf_form h1)

theorem gcopyStep_form {st : State} {o : EngineOp} {i : Nat} (h : st.wf = true) : Ends BadForm Form (gcopyStep st o i) := by
  unfold gcopyStep
  refine ends_ite (stopOpen_form h) ?_
  split
  · exact stopOpen_form h
  · rename_i e
    have h1 := of_okFst e (walkLeaf_form h)
    exact writeRows_form h1

theorem digestStep_form {st : State} {o : EngineOp} {n : Nat} (h : st.wf = true) :
    Ends BadForm FormFst (digestStep st o n) := by
  unfold digestStep
  refine bindFst_form (readAll_form h) fun _ _ h1 => ?_
  exact ends_ite (okFst_form h1) (bind_form (writeRows_form h1) fun _ h2 => okFst_form h2)

theorem ingestStep_form {st : State} {o : EngineOp} {i : Nat} (h : st.wf = true) :
    Ends BadForm FormFst (ingestStep st o i) := by
  unfold ingestStep
  refine ends_ite (stopOpen_form h) (bindFst_form (resolve_form h) fun _ _ h1 => ?_)
  refine ends_ite (.error h1) (bindFst_form (agentRead_form h1) fun st l h2 => ?_)
  have hl := lookupOrAllocate_form (k := o.store) (node := (ecAt o.ec 0).getLsbD 0) (l := l) h2
  dsimp only
  split
  · exact .error h2
  · rename_i e
    exact stopOpen_form (of_lookup e hl)
  · rename_i e
    have h3 := of_lookup e hl
    exact okFst_form (ite_form (updRef_form h3) h3)

theorem reduceStep_form {st : State} {o : EngineOp} {c : Nat} (h : st.wf = true) :
    Ends BadForm FormFst (reduceStep st o c) := by
  unfold reduceStep
  refine ends_ite (stopOpen_form h) ?_
  refine ends_ite (stopOpen_form h) ?_
  refine bindFst_form (readAll_form h) fun _ _ h1 => ?_
  refine ends_ite ?_ ?_
  · refine bind_form (I := Free) (.error h1) fun _ _ => ?_
    dsimp only
    split
    · exact .error h1
    · exact bind_form (writeAll_form h1) fun _ h2 => okFst_form (update_form h2)
  · dsimp only
    split
    · exact .error h1
    · exact bind_form (writeAll_form h1) fun _ h2 => okFst_form (update_form h2)

theorem opStep_form {st : State} {engine : Nat} {o : EngineOp} (h : st.wf = true) :
    Ends BadForm FormFst (opStep st engine o) := by
  unfold opStep
  extract_lets n x done plain
  have hdone {r} (hr : Ends BadForm FormFst r) : Ends BadForm FormFst (done r) := map_form hr fun _ h1 => h1
  have hplain {r} (hr : Ends BadForm Form r) : Ends BadForm FormFst (plain r) := hdone (map_form hr fun _ h1 => h1)
  split
  · exact hdone (bindFst_form (fetchPlane_form h) fun _ _ h1 => okFst_form (setEngine_form h1))
  · exact hplain (.ok (setEngine_form h))
  · exact hplain (.ok (setEngine_form (setDrn_form h)))
  · exact hdone (bindFst_form (fetchGroup_form h) fun _ _ h1 => okFst_form (setEngine_form h1))
  · exact hdone (productStep_form h)
  · exact ends_ite (hplain (rotateStep_form h)) (hdone (rotateProduct_form h))
  · exact hdone (drainStep_form h)
  · exact hdone (bindFst_form (fetchResidues_form h) fun _ _ h1 => okFst_form (setEngine_form h1))
  · exact hdone (residueStep_form h)
  · exact hdone (convertStep_form h)
  · exact hdone (gconvStep_form h)
  · exact hplain (ggathStep_form h)
  · exact hplain (gcopyStep_form h)
  · exact hdone (digestStep_form h)
  · exact ends_ite (nameStep_form h) (map_form (ingestStep_form h) fun _ h1 => h1)
  · exact hdone (reduceStep_form h)

theorem setHeadOp_form {st : State} {r e : Nat} {o : EngineOp} (h : st.wf = true) : (setHeadOp st r e o).wf = true :=
  updLease_form h

theorem completeOp_form {st : State} {r e : Nat} {o : EngineOp} (h : st.wf = true) : (completeOp st r e o).wf = true := by
  unfold completeOp
  dsimp only
  split
  · exact setCore_form (updLease_form h)
  · exact drainWake_form (updLease_form h)
  · exact dropRoot_form (updLease_form h)
  · exact updLease_form h

theorem engineTurn_form {st : State} {engine r e : Nat} {o : EngineOp} (h : st.wf = true) :
    Opt Form (engineTurn st engine r e o) := by
  unfold engineTurn
  refine opt_ite (opt_ite (.some (completeOp_form h)) .none) ?_
  split
  · rename_i e1
    have h1 := of_error e1 (opStep_form h)
    exact opt_ite .none (.some h1)
  · rename_i e1
    have h1 := of_error e1 (opStep_form h)
    exact .some (stopOp_form h1)
  · rename_i e1
    have h1 := of_okFst e1 (opStep_form h)
    dsimp only
    split
    · exact .some (stopOp_form (updLease_form (setHeadOp_form h1)))
    · exact .some (ite_form (completeOp_form (updLease_form (setHeadOp_form h1))) (updLease_form (setHeadOp_form h1)))

theorem openSlot_form {st : State} {e : BitVec 2} {kind : Option Nat} (h : st.wf = true) :
    Ends StopForm Free (openSlot st e kind) := by
  unfold openSlot
  refine bind_form (waitFor_form h) fun _ _ => ?_
  refine bind_form (require_form (illegalOperand_form h)) fun _ _ => ?_
  refine bind_form (require_form (leaseEvicted_form h)) fun _ _ => ?_
  split
  · exact require_form (illegalOperand_form h)
  · exact .ok trivial

theorem opRoom_form {st : State} {e : BitVec 2} (h : st.wf = true) : Ends StopForm Free (opRoom st e) :=
  bind_form (waitFor_form h) fun _ _ => waitFor_form h

theorem enqueueOp_form {st : State} {e : BitVec 2} {scope : Nat} {o : EngineOp} (h : st.wf = true) :
    (enqueueOp st e scope o).wf = true :=
  setMyLease_form (update_form (askCluster_form (releasePush_form h)))

theorem engineOp_form {e : BitVec 2} {k : Nat} {kind : EngineKind} {prep : State → List Word → Eff (Word × Word)}
    {rs : List (BitVec 5)} {st : State} (hprep : ∀ s ec, s.wf = true → Ends StopForm Free (prep s ec)) (h : st.wf = true) :
    Next (engineOp e k kind prep rs st) := by
  unfold engineOp
  refine finishKeeping_form ?_
  refine bind_form (openSlot_form h) fun _ _ => ?_
  refine bind_form (hprep _ _ h) fun ⟨_, _⟩ _ => ?_
  exact bind_form (opRoom_form h) fun _ _ => .ok (completeReading_form (enqueueOp_form h))

theorem geometry_form {ok : List Word → Bool} {st : State} {ec : List Word} (h : st.wf = true) :
    Ends StopForm Free (geometry ok st ec) :=
  bind_form (require_form (illegalOperand_form h)) fun _ _ => .ok trivial

theorem geometryX_form {a : BitVec 5} {ok : List Word → Nat → Bool} {st : State} {ec : List Word} (h : st.wf = true) :
    Ends StopForm Free (geometryX a ok st ec) :=
  bind_form (readP_form h) fun _ _ => bind_form (require_form (illegalOperand_form h)) fun _ _ => .ok trivial

theorem allReduce_form {e : BitVec 2} {a : BitVec 5} {st : State} (h : st.wf = true) : Next (allReduce e a st) := by
  unfold allReduce
  refine finishKeeping_form ?_
  refine bind_form (openSlot_form h) fun _ _ => ?_
  refine bind_form (readP_form h) fun _ _ => ?_
  refine bind_form (require_form (illegalOperand_form h)) fun _ _ => ?_
  refine bind_form (require_form (illegalOperand_form h)) fun _ _ => ?_
  exact bind_form (opRoom_form h) fun _ _ => .ok (completeReading_form (update_form (enqueueOp_form h)))

theorem execEcfg_form {e : BitVec 2} {a k : BitVec 5} {st : State} (h : st.wf = true) : Next (execEcfg e a k st) := by
  unfold execEcfg
  refine next_ite ?_ ?_
  · split
    · exact next_ite (allReduce_form h) (.next (completeReading_form h))
    · rename_i e1
      have h1 := of_error e1 (readP_form h)
      exact finish_form (.error h1)
  · refine finish_form ?_
    exact bind_form (readP_form h) fun _ _ => .ok (completeReading_form (ite_form (setMyLease_form h) h))

theorem execMlds_form {e : BitVec 2} {a : BitVec 5} {st : State} (h : st.wf = true) : Next (execMlds e a st) :=
  engineOp_form (fun _ _ h1 => geometryX_form h1) h

theorem execMswap_form {e : BitVec 2} {st : State} (h : st.wf = true) : Next (execMswap e st) :=
  engineOp_form (fun _ _ h1 => geometry_form h1) h

theorem execMstream_form {e : BitVec 2} {a : BitVec 5} {st : State} (h : st.wf = true) : Next (execMstream e a st) :=
  engineOp_form (fun _ _ h1 => geometryX_form h1) h

theorem execMtile_form {e : BitVec 2} {st : State} (h : st.wf = true) : Next (execMtile e st) :=
  engineOp_form (fun _ _ h1 => geometry_form h1) h

theorem execMrot_form {e : BitVec 2} {st : State} (h : st.wf = true) : Next (execMrot e st) := by
  unfold execMrot
  refine finish_form ?_
  refine bind_form (openSlot_form h) fun _ _ => ?_
  refine bind_form (require_form (illegalOperand_form h)) fun _ _ => ?_
  exact bind_form (opRoom_form h) fun _ _ => .ok (complete_form (setMyLease_form (enqueueOp_form h)))

theorem execMdrain_form {e : BitVec 2} {a b : BitVec 5} {st : State} (h : st.wf = true) : Next (execMdrain e a b st) :=
  engineOp_form (fun _ _ h1 => bind_form (readP_form h1) fun _ _ => bind_form (readP_form h1) fun _ _ => bind_form
    (require_form (illegalOperand_form h1)) fun _ _ => .ok trivial) h

theorem execMzero_form {e : BitVec 2} {a : BitVec 5} {st : State} (h : st.wf = true) : Next (execMzero e a st) :=
  engineOp_form (fun _ _ h1 => geometryX_form h1) h

theorem execMresume_form {e : BitVec 2} {st : State} (h : st.wf = true) : Next (execMresume e st) := by
  unfold execMresume
  refine finish_form ?_
  refine bind_form (openSlot_form h) fun _ _ => ?_
  refine bind_form (require_form (illegalOperand_form h)) fun _ _ => ?_
  refine bind_form (waitFor_form h) fun _ _ => ?_
  exact .ok (complete_form (setMyLease_form (askCluster_form (releasePush_form h))))

theorem execRlds_form {e : BitVec 2} {a : BitVec 5} {st : State} (h : st.wf = true) : Next (execRlds e a st) :=
  engineOp_form (fun _ _ h1 => geometryX_form h1) h

theorem execRtile_form {e : BitVec 2} {a : BitVec 5} {st : State} (h : st.wf = true) : Next (execRtile e a st) :=
  engineOp_form (fun _ _ h1 => geometryX_form h1) h

theorem execRconv_form {e : BitVec 2} {st : State} (h : st.wf = true) : Next (execRconv e st) :=
  engineOp_form (fun _ _ h1 => geometry_form h1) h

theorem execGconv_form {e : BitVec 2} {st : State} (h : st.wf = true) : Next (execGconv e st) :=
  engineOp_form (fun _ _ h1 => geometry_form h1) h

theorem execGgath_form {e : BitVec 2} {st : State} (h : st.wf = true) : Next (execGgath e st) :=
  engineOp_form (fun _ _ h1 => bind_form (require_form (illegalOperand_form h1)) fun _ _ => bind_form (require_form
    (misaligned_form h1)) fun _ _ => bind_form (require_form (misaligned_form h1)) fun _ _ => bind_form (require_form
    (misaligned_form h1)) fun _ _ => .ok trivial) h

theorem execGcopy_form {e : BitVec 2} {st : State} (h : st.wf = true) : Next (execGcopy e st) := by
  unfold execGcopy
  refine finish_form ?_
  refine bind_form (openSlot_form h) fun _ _ => ?_
  refine bind_form (carRight_form h) fun _ _ => ?_
  refine bind_form (require_form (misaligned_form h)) fun _ _ => ?_
  refine bind_form (opRoom_form h) fun _ _ => ?_
  refine bindFst_form (atIssue_form (loadBytes_form h)) fun _ _ h1 => ?_
  refine bind_form (require_form (illegalOperand_form (acquire_form h1))) fun _ _ => ?_
  refine ends_ite ?_ ?_
  · exact bind_form (I := Form) (.ok (acquire_form h1)) fun _ h2 => .ok (complete_form (enqueueOp_form h2))
  · split
    · rename_i e1
      have h2 := of_ok e1 (carRef_form (acquire_form h1))
      exact bind_form (I := Form) (.ok h2) fun _ h3 => .ok (complete_form (enqueueOp_form h3))
    · refine bind_form (I := Form) (.error (nameStop_form (acquire_form h1))) fun _ h2 => ?_
      exact .ok (complete_form (enqueueOp_form h2))

theorem execHdigest_form {e : BitVec 2} {st : State} (h : st.wf = true) : Next (execHdigest e st) :=
  engineOp_form (fun _ _ h1 => geometry_form h1) h

theorem execHingest_form {e : BitVec 2} {st : State} (h : st.wf = true) : Next (execHingest e st) := by
  unfold execHingest
  refine finish_form ?_
  refine bind_form (openSlot_form h) fun _ _ => ?_
  refine bind_form (require_form (illegalOperand_form h)) fun _ _ => ?_
  refine bind_form (carRight_form h) fun _ _ => ?_
  refine bind_form (require_form (misaligned_form h)) fun _ _ => ?_
  refine bind_form (require_form (misaligned_form h)) fun _ _ => ?_
  exact bind_form (opRoom_form h) fun _ _ => .ok (complete_form (enqueueOp_form h))

theorem engineWork_form {st : State} {engine : Nat} (h : st.wf = true) : (engineWork st engine).wf = true := by
  unfold engineWork
  dsimp only
  split
  · split
    · refine ite_form h ?_
      split
      · exact ite_form (updLease_form (loadBeside_form h (loadPlane_form h))) h
      · exact ite_form (updLease_form (loadBeside_form h (loadResidues_form h))) h
      · refine ite_form ?_ (ite_form (updLease_form (loadBeside_form h (loadPlane_form h))) h)
        refine ite_form ?_ h
        exact updLease_form (loadBeside_form h (ends_ite (bind_form (rotateTest_form h) fun _ _ => okFst_form
          (rotateLine_form h)) (okFst_form (rotateLine_form h))))
      · exact h
    · exact h
  · exact h

theorem execEngineStep_form {engine : Nat} {st : State} (h : st.wf = true) : Next (execEngineStep engine st) := by
  unfold execEngineStep
  dsimp only
  split
  · split
    · refine next_ite ?_ .fault
      split
      · rename_i e
        have h1 := of_some e (engineTurn_form h)
        exact .next h1
      · exact .fault
    · exact .fault
  · exact .fault

/-! ## Sys2Proof/Machine/Tasks.lean -/

theorem answer_form {st : State} {tag : Nat} {v : Word} {clock : Nat} (h : st.wf = true) :
    (answer st tag v clock).wf = true :=
  update_form h

theorem askFor_form {st : State} {d : BitVec 5} (h : st.wf = true) : Ends StopForm Form (askFor st d) :=
  launch_form h

theorem releaseTo_form {st : State} {core : Nat} (h : st.wf = true) : Ends StopForm Form (releaseTo st core) :=
  release_form h

theorem setMessages_form {st : State} {core head : Nat} {ms : List Message} (h : st.wf = true) :
    (setMessages st core head ms).wf = true := memory_form (setCore_form (foldl_form h fun _ _ h => ite_form (poison_form h) h)) fun _ =>
    Memory.wf_foldl (fun _ _ => Memory.wf_memPutNat _ _ _ _) _ _ (mem_of_wf h)

theorem acceptMessage_form {st : State} {core : Nat} {m : Message} (h : st.wf = true) :
    (acceptMessage st core m).wf = true := by
  unfold acceptMessage
  exact ite_form (setCore_form h) (memory_form (setCore_form h) (Memory.wf_memPutNat _ _ _ _))

theorem removeMessage_form {st : State} {core i : Nat} (h : st.wf = true) : (removeMessage st core i).wf = true :=
  setMessages_form h

theorem receive_form {waits : Bool} {v a : BitVec 5} {st : State} (h : st.wf = true) : Next (receive waits v a st) := by
  unfold receive
  refine finish_form ?_
  dsimp only
  split
  · exact bind_form (waitFor_form h) fun _ _ => bind_form (writeX_form h) fun _ h1 => .ok (complete_form h1)
  · refine bind_form (require_form (update_form h)) fun _ _ => ?_
    refine bind_form (writeV_form h) fun _ h1 => ?_
    exact bind_form (writeX_form h1) fun _ h2 => .ok (complete_form (raiseClock_form (removeMessage_form h2)))

theorem postMessage_form {st : State} {t : Word} {m : VWord} {tag : Option Nat} (h : st.wf = true) :
    (postMessage st t m tag).wf = true :=
  update_form h

theorem markFree_form {before s : State} {ts : List Nat} (h : s.wf = true) : (markFree before s ts).wf = true :=
  foldl_form h fun _ _ h1 => ite_form h1 (update_form (setThread_form h1))

theorem endSteps_form {st : State} (h : st.wf = true) : Ends StopForm Form (endSteps st) := by
  unfold endSteps
  refine ends_ite ?_ ?_
  · refine bind_form (I := Form) (.ok h) fun _ h1 => ?_
    refine bind_form (waitFor_form h1) fun _ _ => ?_
    refine bind_form (require_form h1) fun _ _ => ?_
    refine bind_form (waitFor_form h1) fun _ _ => ?_
    refine bind_form (waitFor_form h1) fun _ _ => ?_
    refine bind_form (waitFor_form h1) fun _ _ => ?_
    exact .ok (update_form (releasePush_form (leaveReservation_form (foldl_form h1 fun _ _ h2 => freeLease_form h2))))
  · refine bind_form (waitFor_form h) fun _ _ => ?_
    refine bind_form (I := Form) (.ok (setTh_form (setTh_form h))) fun _ h1 => ?_
    refine bind_form (waitFor_form h1) fun _ _ => ?_
    refine bind_form (require_form h1) fun _ _ => ?_
    refine bind_form (waitFor_form h1) fun _ _ => ?_
    refine bind_form (waitFor_form h1) fun _ _ => ?_
    refine bind_form (waitFor_form h1) fun _ _ => ?_
    exact .ok (update_form (releasePush_form (leaveReservation_form (foldl_form h1 fun _ _ h2 => freeLease_form h2))))

theorem execCallat_form {d a : BitVec 5} {b : BitVec 3} {s t : BitVec 1} {st : State} (h : st.wf = true) :
    Next (execCallat d a b s t st) := by
  unfold execCallat
  refine finishKeeping_form ?_
  refine bind_form (readT_form h) fun _ _ => ?_
  refine bind_form (readB_form h) fun _ _ => ?_
  refine bind_form (require_form (illegalOperand_form h)) fun _ _ => ?_
  refine bind_form (require_form (illegalOperand_form h)) fun _ _ => ?_
  refine bind_form (require_form (illegalOperand_form h)) fun _ _ => ?_
  refine bind_form (require_form (misaligned_form h)) fun _ _ => ?_
  refine bind_form (readP_form h) fun _ _ => ?_
  refine bind_form (readP_form h) fun _ _ => ?_
  refine bind_form (readP_form h) fun _ _ => ?_
  refine bind_form (readP_form h) fun _ _ => ?_
  refine bind_form (releaseTo_form h) fun _ h1 => ?_
  exact bind_form (askFor_form h1) fun _ h2 => .ok (completeReading_form (update_form h2))

theorem execSend_form {a v : BitVec 5} {s : BitVec 1} {st : State} (h : st.wf = true) : Next (execSend a v s st) := by
  unfold execSend
  refine finishKeeping_form ?_
  split
  · exact .ok (completeReading_form h)
  · exact .error h
  · exact .error h
  · refine bind_form (readT_form h) fun _ _ => ?_
    refine bind_form (require_form (illegalOperand_form h)) fun _ _ => ?_
    refine bind_form (require_form h) fun _ _ => ?_
    refine bind_form (readV_form h) fun _ _ => ?_
    exact bind_form (releaseTo_form h) fun _ h1 => .error (setTh_form (postMessage_form h1))

theorem execSendRetry_form {t : BitVec 12} {st : State} (h : st.wf = true) : Next (execSendRetry t st) := by
  unfold execSendRetry
  dsimp only
  split
  · exact .next (setThread_form (update_form h))
  · exact .fault

theorem execSendnb_form {d a v : BitVec 5} {s : BitVec 1} {st : State} (h : st.wf = true) : Next (execSendnb d a v s st) := by
  unfold execSendnb
  refine finishKeeping_form ?_
  refine bind_form (readT_form h) fun _ _ => ?_
  refine bind_form (require_form (illegalOperand_form h)) fun _ _ => ?_
  refine bind_form (readV_form h) fun _ _ => ?_
  refine bind_form (releaseTo_form h) fun _ h1 => ?_
  exact bind_form (askFor_form h1) fun _ h2 => .ok (completeReading_form (update_form (postMessage_form h2)))

theorem execMessageArrival_form {idx : Nat} {st : State} (h : st.wf = true) : Next (execMessageArrival idx st) := by
  unfold execMessageArrival
  split
  · exact .fault
  · refine next_ite .fault ?_
    dsimp only
    split
    · exact .next (answer_form (ite_form (acceptMessage_form (update_form h)) (update_form h)))
    · refine next_ite (.next (setThread_form (ite_form (acceptMessage_form (update_form h)) (update_form h)))) ?_
      split
      · refine next_ite ?_ ?_
        · exact .next (setThread_form (ite_form (acceptMessage_form (update_form h)) (update_form h)))
        · exact .next (setThread_form (update_form h))
      · exact .next (ite_form (acceptMessage_form (update_form h)) (update_form h))

theorem execReply_form {a : BitVec 5} {s : BitVec 1} {st : State} (h : st.wf = true) : Next (execReply a s st) := by
  unfold execReply
  refine finishKeeping_form ?_
  split
  · exact .error (illegalOperand_form h)
  · refine bind_form (readT_form h) fun _ _ => ?_
    exact bind_form (endSteps_form h) fun _ h1 => .ok (emptySlot_form (answer_form (popPort_form h1)))

theorem execWakest_form {a b : BitVec 5} {s t : BitVec 1} {st : State} (h : st.wf = true) : Next (execWakest a b s t st) := by
  unfold execWakest
  refine finishKeeping_form ?_
  refine bind_form (readT_form h) fun _ _ => ?_
  refine bind_form (readT_form h) fun _ _ => ?_
  split
  · exact .error (illegalOperand_form h)
  · refine bind_form (require_form (illegalOperand_form h)) fun _ _ => ?_
    exact bind_form (release_form h) fun _ h1 => .ok (completeReading_form (update_form h1))

theorem execTexit_form {st : State} (h : st.wf = true) : Next (execTexit st) :=
  finish_form (bind_form (endSteps_form h) fun _ h1 => .ok (emptySlot_form h1))

theorem execCallatArrival_form {idx : Nat} {st : State} (h : st.wf = true) : Next (execCallatArrival idx st) := by
  unfold execCallatArrival
  split
  · exact .fault
  · refine next_ite (.next (answer_form (update_form h))) ?_
    refine next_ite ?_ ?_
    · exact .next (answer_form (update_form h))
    · exact next_ite (.next (answer_form (update_form h))) (.next (setCore_form (update_form h)))

theorem execTaskQueueStart_form {core : BitVec 9} {st : State} (h : st.wf = true) : Next (execTaskQueueStart core st) := by
  unfold execTaskQueueStart
  dsimp only
  split
  · exact .next (setThread_form (update_form (raiseClock_form (setCore_form h))))
  · exact .fault

theorem execRput_form {i a v : BitVec 5} {st : State} (h : st.wf = true) : Next (execRput i a v st) := by
  unfold execRput
  refine finishKeeping_form ?_
  refine bind_form (needMode_form h) fun _ _ => ?_
  refine bind_form (readP_form h) fun _ _ => ?_
  refine bind_form (readP_form h) fun _ _ => ?_
  refine bind_form (require_form (illegalOperand_form h)) fun _ _ => ?_
  exact bind_form (waitFor_form h) fun _ _ => .ok (completeReading_form (ite_form h (setThread_form h)))

/-! ## Sys2Proof/Machine/Barriers.lean -/

theorem setBarrier_form {st : State} {cl n : Nat} {b : Barrier} (h : st.wf = true) : (setBarrier st cl n b).wf = true :=
  setCluster_form h

theorem barrierWord_form {st : State} {w : Word} {ownOnly : Bool} (h : st.wf = true) :
    Ends StopForm Free (barrierWord st w ownOnly) :=
  bind_form (require_form (illegalOperand_form h)) fun _ _ => .ok trivial

theorem barrierFault_form {st : State} {w : Word} (h : st.wf = true) : StopForm (barrierFault st w) :=
  h

theorem sendArrival_form {st : State} {r : Nat} {a : Arrival} (h : st.wf = true) : (sendArrival st r a).wf = true := by
  unfold sendArrival
  refine setBarrier_form (setCluster_form (ite_form ?_ (updRef_form ?_)))
  · split
    · exact releasePush_form h
    · exact h
  · split
    · exact releasePush_form h
    · exact h

theorem sendNext_form {st : State} {r : Nat} (h : st.wf = true) : Opt Form (sendNext st r) := by
  unfold sendNext
  split
  · exact opt_ite (.some (sendArrival_form (updRef_form h))) .none
  · exact .none

theorem askBarrier_form {st : State} {w : Word} {n : Nat} {put : Barrier → Barrier} (h : st.wf = true) :
    Ends StopForm Form (askBarrier st w n put) :=
  bind_form (require_form (barrierFault_form h)) fun _ _ => .error (setTh_form (setBarrier_form h))

theorem endExpect_form {st : State} {t : Nat} (h : st.wf = true) : (endExpect st t).wf = true := by
  have hs := completeReading_storage { st with cur := t } [(st.thread t).ir.extractLsb' 16 5, (st.thread t).ir.extractLsb' 11 5]
  refine (wf_of_storage (s := st) ?_).trans h
  simp only [storage, Prod.mk.injEq] at hs ⊢
  exact ⟨hs.1, hs.2.1, rfl, hs.2.2.2⟩

theorem phaseNotice_form {st : State} {cl n : Nat} {phase : BitVec 16} (h : st.wf = true) :
    (phaseNotice st cl n phase).wf = true :=
  update_form h

theorem barrierCycle_form {st : State} {cl n : Nat} (h : st.wf = true) : (barrierCycle st cl n).wf = true := by
  unfold barrierCycle
  refine ite_form ?_ ?_
  · exact phaseNotice_form (foldl_form (foldl_form (foldl_form (foldl_form (foldl_form (setBarrier_form h) fun _ _ h1 =>
      setThread_form h1) fun _ _ h1 => updRef_form h1) fun _ ⟨_, _⟩ h1 => endExpect_form h1) fun _ ⟨_, _⟩ h1 =>
      setThread_form h1) fun _ _ h1 => setThread_form h1)
  · exact foldl_form (foldl_form (foldl_form (foldl_form (foldl_form (setBarrier_form h) fun _ _ h1 => setThread_form h1)
      fun _ _ h1 => updRef_form h1) fun _ ⟨_, _⟩ h1 => endExpect_form h1) fun _ ⟨_, _⟩ h1 => setThread_form h1) fun _ _ h1
      => setThread_form h1

theorem execArrive_form {a b : BitVec 5} {s t : BitVec 1} {c : BitVec 3} {o : BitVec 2} {st : State} (h : st.wf = true) :
    Next (execArrive a b s t c o st) := by
  unfold execArrive
  refine finishKeeping_form ?_
  refine bind_form (readT_form h) fun _ _ => ?_
  refine bind_form (readT_form h) fun _ _ => ?_
  refine bind_form (barrierWord_form h) fun ⟨_, _⟩ _ => ?_
  refine bind_form (require_form (illegalOperand_form h)) fun _ _ => ?_
  exact .ok (ite_form (getD_form (sendNext_form (setTh_form (completeReading_form (ite_form (performLoads_form h) h))))
    (setTh_form (completeReading_form (ite_form (performLoads_form h) h)))) (setTh_form (completeReading_form (ite_form
    (performLoads_form h) h))))

theorem execExpect_form {a b : BitVec 5} {s t : BitVec 1} {st : State} (h : st.wf = true) : Next (execExpect a b s t st) := by
  unfold execExpect
  refine finishKeeping_form ?_
  split
  · exact .error h
  · refine bind_form (readT_form h) fun _ _ => ?_
    refine bind_form (readT_form h) fun _ _ => ?_
    refine bind_form (barrierWord_form h) fun ⟨_, _⟩ _ => ?_
    refine bind_form (require_form (illegalOperand_form h)) fun _ _ => ?_
    exact bind_form (require_form (barrierFault_form h)) fun _ _ => askBarrier_form h

theorem execBwait_form {d a b : BitVec 5} {s t : BitVec 1} {c : BitVec 3} {st : State} (h : st.wf = true) :
    Next (execBwait d a b s t c st) := by
  unfold execBwait
  refine finishKeeping_form ?_
  split
  · exact .error h
  · refine bind_form (readT_form h) fun _ _ => ?_
    refine bind_form (readT_form h) fun _ _ => ?_
    refine bind_form (barrierWord_form h) fun ⟨_, _⟩ _ => ?_
    refine bind_form (require_form (barrierFault_form h)) fun _ _ => ?_
    split
    · exact bind_form (writeX_form h) fun _ h1 => .ok (joinCluster_form (completeReading_form h1))
    · exact bind_form (waitFor_form h) fun _ _ => askBarrier_form h

theorem execBtest_form {d a : BitVec 5} {s : BitVec 1} {st : State} (h : st.wf = true) : Next (execBtest d a s st) := by
  unfold execBtest
  refine finishKeeping_form ?_
  split
  · exact .error h
  · refine bind_form (readT_form h) fun _ _ => ?_
    refine bind_form (barrierWord_form h) fun ⟨_, _⟩ _ => ?_
    refine bind_form (require_form (barrierFault_form h)) fun _ _ => ?_
    split
    · exact bind_form (writeX_form h) fun _ h1 => .ok (completeReading_form h1)
    · exact askBarrier_form h

theorem execDeferredArrival_form {t : BitVec 12} {st : State} (h : st.wf = true) : Next (execDeferredArrival t st) := by
  unfold execDeferredArrival
  split
  · rename_i e
    have hs := of_some e (findSome_form (fun _ => sendNext_form h) _)
    exact .next hs
  · exact .fault

theorem execBarrierCycle_form {cl : BitVec 5} {n : BitVec 4} {st : State} (h : st.wf = true) :
    Next (execBarrierCycle cl n st) :=
  next_ite .fault (.next (barrierCycle_form h))

/-! ## Sys2Proof/Machine/ScalarInt.lean -/

theorem alu2_form {f : Word → Word → Word} {d a b : BitVec 5} {s t : BitVec 1} {st : State} (h : st.wf = true) :
    Next (alu2 f d a b s t st) := by
  unfold alu2
  refine finishKeeping_form ?_
  refine bind_form (readT_form h) fun _ _ => ?_
  exact bind_form (readT_form h) fun _ _ => bind_form (writeX_form h) fun _ h1 => .ok (completeReading_form h1)

theorem alu1_form {f : Word → Word} {d a : BitVec 5} {s : BitVec 1} {st : State} (h : st.wf = true) :
    Next (alu1 f d a s st) := by
  unfold alu1
  refine finishKeeping_form ?_
  exact bind_form (readT_form h) fun _ _ => bind_form (writeX_form h) fun _ h1 => .ok (completeReading_form h1)

theorem alu0_form {x : Word} {d : BitVec 5} {st : State} (h : st.wf = true) : Next (alu0 x d st) :=
  finish_form (bind_form (writeX_form h) fun _ h1 => .ok (complete_form h1))

theorem execCmov_form {d a b : BitVec 5} {s t : BitVec 1} {st : State} (h : st.wf = true) : Next (execCmov d a b s t st) := by
  unfold execCmov
  refine finishKeeping_form ?_
  refine bind_form (readT_form h) fun _ _ => ?_
  refine bind_form (readT_form h) fun _ _ => ?_
  refine ends_ite ?_ ?_
  · exact bind_form (I := Form) (.ok h) fun _ h1 => .ok (completeReading_form h1)
  · exact bind_form (writeX_form h) fun _ h1 => .ok (completeReading_form h1)

theorem execIns_form {d a b : BitVec 5} {s t : BitVec 1} {st : State} (h : st.wf = true) : Next (execIns d a b s t st) := by
  unfold execIns
  refine finishKeeping_form ?_
  refine bind_form (readT_form h) fun _ _ => ?_
  refine bind_form (readT_form h) fun _ _ => ?_
  exact bind_form (readP_form h) fun _ _ => bind_form (writeX_form h) fun _ h1 => .ok (completeReading_form h1)

theorem execNop_form {hd : BitVec 26} {st : State} (h : st.wf = true) : Next (execNop hd st) :=
  .next (complete_form h)

/-! ## Sys2Proof/Machine/BaseRegs.lean -/

theorem execBset_form {d : BitVec 3} {a b : BitVec 5} {s t : BitVec 1} {st : State} (h : st.wf = true) :
    Next (execBset d a b s t st) := by
  unfold execBset
  refine finishKeeping_form ?_
  refine bind_form (readT_form h) fun _ _ => ?_
  exact bind_form (readT_form h) fun _ _ => bind_form (writeB_form h) fun _ h1 => .ok (completeReading_form h1)

theorem execBgetLo_form {d : BitVec 5} {a : BitVec 3} {s : BitVec 1} {st : State} (h : st.wf = true) :
    Next (execBgetLo d a s st) := by
  unfold execBgetLo
  exact finish_form (bind_form (readB_form h) fun _ _ => bind_form (writeX_form h) fun _ h1 => .ok (complete_form h1))

theorem execBgetHi_form {d : BitVec 5} {a : BitVec 3} {s : BitVec 1} {st : State} (h : st.wf = true) :
    Next (execBgetHi d a s st) := by
  unfold execBgetHi
  exact finish_form (bind_form (readB_form h) fun _ _ => bind_form (writeX_form h) fun _ h1 => .ok (complete_form h1))

theorem execBadd_form {d a : BitVec 3} {b : BitVec 5} {s t : BitVec 1} {st : State} (h : st.wf = true) :
    Next (execBadd d a b s t st) := by
  unfold execBadd
  refine finishKeeping_form ?_
  refine bind_form (readB_form h) fun _ _ => ?_
  exact bind_form (readT_form h) fun _ _ => bind_form (writeB_form h) fun _ h1 => .ok (completeReading_form h1)

theorem execBmov_form {d a : BitVec 3} {s : BitVec 1} {st : State} (h : st.wf = true) : Next (execBmov d a s st) := by
  unfold execBmov
  exact finish_form (bind_form (readB_form h) fun _ _ => bind_form (writeB_form h) fun _ h1 => .ok (complete_form h1))

theorem execBaddi_form {d a : BitVec 3} {s : BitVec 1} {i : BitVec 15} {st : State} (h : st.wf = true) :
    Next (execBaddi d a s i st) := by
  unfold execBaddi
  exact finish_form (bind_form (readB_form h) fun _ _ => bind_form (writeB_form h) fun _ h1 => .ok (complete_form h1))

theorem execBlea_form {d : BitVec 3} {i : BitVec 21} {st : State} (h : st.wf = true) : Next (execBlea d i st) :=
  finish_form (bind_form (writeB_form h) fun _ h1 => .ok (complete_form h1))

/-! ## Sys2Proof/Machine/Branch.lean -/

theorem branch2_form {taken : Word → Word → Bool} {a b : BitVec 5} {i : BitVec 13} {st : State} (h : st.wf = true) :
    Next (branch2 taken a b i st) := by
  unfold branch2
  refine finish_form ?_
  refine bind_form (readP_form h) fun _ _ => ?_
  exact bind_form (readP_form h) fun _ _ => .ok (completeAt_form (foldl_form h fun _ _ h1 => popPort_form h1))

theorem branchBit_form {want : Bool} {a n : BitVec 5} {i : BitVec 13} {st : State} (h : st.wf = true) :
    Next (branchBit want a n i st) := by
  unfold branchBit
  refine finish_form ?_
  exact bind_form (readP_form h) fun _ _ => .ok (completeAt_form (foldl_form h fun _ _ h1 => popPort_form h1))

theorem callTo_form {st : State} {target : DWord} {kind : BitVec 2} (h : st.wf = true) :
    Ends StopForm Form (callTo st target kind) :=
  bind_form (spillIfNeeded_form h) fun _ h1 => .ok (completeAt_form (rotateIn_form h1))

theorem execLoop_form {a : BitVec 5} {i : BitVec 13} {st : State} (h : st.wf = true) : Next (execLoop a i st) := by
  unfold execLoop
  refine finish_form ?_
  exact bind_form (readP_form h) fun _ _ => bind_form (writeX_form h) fun _ h1 => .ok (completeAt_form h1)

theorem execJ_form {i : BitVec 26} {st : State} (h : st.wf = true) : Next (execJ i st) :=
  .next (completeAt_form h)

theorem execJb_form {b : BitVec 3} {t : BitVec 1} {st : State} (h : st.wf = true) : Next (execJb b t st) := by
  unfold execJb
  refine finish_form ?_
  refine bind_form (readB_form h) fun _ _ => ?_
  exact bind_form (require_form (misaligned_form h)) fun _ _ => .ok (completeAt_form h)

theorem execCall_form {i : BitVec 26} {st : State} (h : st.wf = true) : Next (execCall i st) :=
  finish_form (bind_form (require_form (illegalOperand_form h)) fun _ _ => callTo_form h)

theorem execCallb_form {b : BitVec 3} {t : BitVec 1} {st : State} (h : st.wf = true) : Next (execCallb b t st) := by
  unfold execCallb
  refine finish_form ?_
  refine bind_form (require_form (illegalOperand_form h)) fun _ _ => ?_
  exact bind_form (readB_form h) fun _ _ => bind_form (require_form (misaligned_form h)) fun _ _ => callTo_form h

theorem execRet_form {st : State} (h : st.wf = true) : Next (execRet st) := by
  unfold execRet
  refine finish_form ?_
  refine bind_form (require_form (illegalOperand_form h)) fun _ _ => ?_
  refine bind_form (require_form h) fun _ _ => ?_
  refine bind_form (waitFor_form h) fun _ _ => ?_
  refine ends_ite (.ok (completeAt_form (setTh_form h))) ?_
  refine bind_form (require_form h) fun _ _ => ?_
  exact bind_form (frameReadable_form h) fun _ _ => .ok (completeAt_form (setTh_form (fillFrame_form h)))

/-! ## Sys2Proof/Machine/Float.lean -/

theorem fp2_form {f : Nat → Nat → Nat × Raised} {d a b : BitVec 5} {s t : BitVec 1} {st : State} (h : st.wf = true) :
    Next (fp2 f d a b s t st) := by
  unfold fp2
  refine finishKeeping_form ?_
  refine bind_form (readT_form h) fun _ _ => ?_
  refine bind_form (readT_form h) fun _ _ => ?_
  exact bind_form (writeX_form h) fun _ h1 => .ok (completeReading_form (raise_form h1))

theorem fp1_form {f : Word → Word × Raised} {d a : BitVec 5} {s : BitVec 1} {st : State} (h : st.wf = true) :
    Next (fp1 f d a s st) := by
  unfold fp1
  refine finishKeeping_form ?_
  refine bind_form (readT_form h) fun _ _ => ?_
  exact bind_form (writeX_form h) fun _ h1 => .ok (completeReading_form (raise_form h1))

theorem execFma_form {d a b : BitVec 5} {s t : BitVec 1} {st : State} (h : st.wf = true) : Next (execFma d a b s t st) := by
  unfold execFma
  refine finishKeeping_form ?_
  refine bind_form (readT_form h) fun _ _ => ?_
  refine bind_form (readT_form h) fun _ _ => ?_
  refine bind_form (readP_form h) fun _ _ => ?_
  exact bind_form (writeX_form h) fun _ h1 => .ok (completeReading_form (raise_form h1))

/-! ## Sys2Proof/Machine/Preempt.lean -/

theorem putLine_form {st : State} {cl addr : Nat} {x : Line} (h : st.wf = true) : (putLine st cl addr x).wf = true :=
  raiseCluster_form (wakeWords_form (setHome_form (mergeLine_form (takeLine_form h))))

theorem putLines_form {st : State} {cl addr n n1 : Nat} (h : st.wf = true) : (putLines st cl addr n n1).wf = true := by
  unfold putLines
  split
  · exact h
  · exact putLines_form (putLine_form h)

theorem putSealed_form {st : State} {cl addr ctx nonce : Nat} {x : Line} (h : st.wf = true) :
    (putSealed st cl addr ctx nonce x).wf = true :=
  update_form (putLine_form h)

theorem putBody_form {st : State} {cl addr ctx counter owner n n1 n2 : Nat} (h : st.wf = true) :
    (putBody st cl addr ctx counter owner n n1 n2).wf = true := by
  unfold putBody
  split
  · exact h
  · exact putBody_form (putSealed_form h)

theorem putImage_form {st : State} {core ctx kind owner header body lines v : Nat} (h : st.wf = true) :
    (putImage st core ctx kind owner header body lines v).wf = true :=
  putBody_form (update_form (putLine_form (setCore_form h)))

theorem setStaging_form {st : State} {t : Nat} {isProtected : Bool} (h : st.wf = true) :
    (setStaging st t isProtected).wf = true := memory_form h (Memory.wf_foldl (fun _ _ => Memory.wf_memSet _ _ _) _ _)

theorem setBlock_form {st : State} {key : Nat} {b : Block} (h : st.wf = true) : (setBlock st key b).wf = true :=
  update_form h

theorem dropRequests_form {st : State} {key : Nat} (h : st.wf = true) : (dropRequests st key).wf = true :=
  update_form h

theorem bankOut_form {st : State} {core off addr lines : Nat} (h : st.wf = true) :
    (bankOut st core off addr lines).wf = true :=
  carryErrors_form (putLines_form h)

theorem bankIn_form {st : State} {core off lines v : Nat} (h : st.wf = true) : (bankIn st core off lines v).wf = true :=
  memory_form h (Memory.wf_memPutNat _ _ _ _)

theorem writePent_form {st : State} {core n : Nat} {v : DWord} (h : st.wf = true) : (writePent st core n v).wf = true :=
  ite_form h (setCore_form h)

theorem saveCore_form {st : State} {b : Block} {vi ctx : Nat} {banks : BitVec 14} {core : Nat} (h : st.wf = true) :
    (saveCore st b vi ctx banks core).wf = true :=
  foldl_form h fun _ _ h1 => ite_form h1 (ite_form (bankOut_form h1) (bankIn_form (carryErrors_form (putImage_form h1))))

theorem clearCore_form {st : State} {b : Block} {ctx : Nat} {banks : BitVec 14} {core : Nat} (h : st.wf = true) :
    (clearCore st b ctx banks core).1.wf = true :=
  foldlFst_form h fun _ _ ⟨_, _⟩ h1 => fst_ite (fst_form (setCore_form h1)) h1

theorem askSave_form {st : State} {key t : Nat} (h : st.wf = true) : (askSave st key t).wf = true :=
  setCore_form h

theorem finishDisplace_form {st : State} {key : Nat} (h : st.wf = true) : (finishDisplace st key).wf = true := by
  unfold finishDisplace
  split
  · exact h
  · refine ite_form h ?_
    split
    · exact h
    · refine update_form (setCluster_form (markFree_form (setBlock_form (foldl_form ?_ fun s x hs => ?_))))
      · exact fst_ite (x := (_, [])) (foldl_form (dropRequests_form h) fun _ _ h => saveCore_form h)
          (foldlFst_form (x := (_, [])) (foldl_form (dropRequests_form h) fun _ _ h => saveCore_form h) fun _ _ _ hs => clearCore_form hs)
      · exact memory_form (setBarrier_form hs) fun _ => Memory.wf_foldl (fun _ _ => Memory.wf_memSet _ _ _) _ _ (mem_of_wf hs)

theorem startDisplace_form {st : State} {key : Nat} (h : st.wf = true) : (startDisplace st key).wf = true := by
  unfold startDisplace
  split
  · exact h
  · exact finishDisplace_form (foldl_form (setBlock_form (dropRequests_form h)) fun _ _ h1 => askSave_form h1)

theorem enterRefused_form {st : State} {t : Nat} {vi : BitVec 10} {cause : Cause} {tval : DWord} (h : st.wf = true) :
    (enterRefused st t vi cause tval).wf = true :=
  setThread_form (update_form (setCore_form h))

theorem giveEntries_form {st : State} {b : Block} {give : Bool} (h : st.wf = true) : (giveEntries st b give).wf = true :=
  foldl_form h fun _ ⟨_, _, _⟩ h1 => ite_form (writePent_form h1) (ite_form (setCore_form h1) h1)

theorem refuseReplace_form {st : State} {key : Nat} {restored : List (Nat × Nat)} (h : st.wf = true) :
    (refuseReplace st key restored).wf = true := by
  unfold refuseReplace
  split
  · exact h
  · exact update_form (markFree_form (setBlock_form (ite_form (update_form (setCluster_form (foldl_form (giveEntries_form
      (foldl_form (foldl_form (update_form (dropRequests_form h)) fun _ ⟨_, _⟩ h1 => bankIn_form h1) fun _ _ h1 =>
      emptySlot_form (update_form (setCore_form (parkLeases_form (abandon_form h1)))))) fun _ ⟨_, _⟩ h1 => setBarrier_form
      h1))) (setCluster_form (foldl_form (giveEntries_form (foldl_form (foldl_form (update_form (dropRequests_form h)) fun
      _ ⟨_, _⟩ h1 => bankIn_form h1) fun _ _ h1 => emptySlot_form (update_form (setCore_form (parkLeases_form
      (abandon_form h1)))))) fun _ ⟨_, _⟩ h1 => setBarrier_form h1)))))

theorem restorePart_form {st : State} {b : Block} {base : Nat} {x : Nat × Nat} (h : st.wf = true) :
    Ends Free Form (restorePart st b base x) := by
  unfold restorePart
  refine ends_ite (.ok (ite_form h (carryErrors_form (bankIn_form h)))) ?_
  split
  · exact .ok (bankIn_form h)
  · exact .error trivial

theorem restoreParts_form {b : Block} {base : Nat} {x x1 : List (Nat × Nat)} {s : State} (h : s.wf = true) :
    (restoreParts b base x x1 s).1.wf = true := by
  unfold restoreParts
  split
  · exact h
  · split
    · rename_i e
      have h1 := of_ok e (restorePart_form h)
      exact restoreParts_form h1
    · exact h

theorem replaceBlock_form {st : State} {key : Nat} (h : st.wf = true) : (replaceBlock st key).wf = true := by
  unfold replaceBlock
  split
  · exact h
  · split
    · exact h
    · dsimp only
      split
      · exact enterRefused_form (refuseReplace_form (restoreParts_form (setBlock_form (giveEntries_form (setCluster_form
          (foldl_form h fun _ ⟨_, _⟩ h1 => setBarrier_form h1))))))
      · exact foldl_form (restoreParts_form (setBlock_form (giveEntries_form (setCluster_form (foldl_form h fun _ ⟨_, _⟩
          h1 => setBarrier_form h1))))) fun _ _ h1 => setCore_form h1

theorem dropRequest1_form {st : State} {c : Nat} (h : st.wf = true) : (dropRequest1 st c).wf = true :=
  setCore_form h

theorem startRequest_form {st : State} {c : Nat} (h : st.wf = true) : (startRequest st c).wf = true :=
  setCore_form h

theorem stopIssue_form {st : State} {t : Nat} (h : st.wf = true) : (stopIssue st t).wf = true := by
  unfold stopIssue
  refine parkLeases_form ?_
  split
  · exact setThread_form (abandon_form h)
  · exact setThread_form (abandon_form h)
  · exact setThread_form (abandon_form h)
  · exact setThread_form (abandon_form h)
  · exact abandon_form h

theorem cancelLeaving_form {st : State} {key : Nat} (h : st.wf = true) : (cancelLeaving st key).wf = true := by
  unfold cancelLeaving
  split
  · exact h
  · exact foldl_form (setBlock_form (dropRequests_form h)) fun _ _ h1 => setCore_form h1

theorem saveThread_form {st : State} {t : Nat} (h : st.wf = true) : (saveThread st t).wf = true :=
  emptySlot_form (update_form (setCore_form (setStaging_form (ite_form (putLines_form h) (putImage_form h)))))

theorem execPreemptSave_form {core : BitVec 9} {st : State} (h : st.wf = true) : Next (execPreemptSave core st) := by
  unfold execPreemptSave
  dsimp only
  split
  · refine next_ite .fault ?_
    refine next_ite ?_ ?_
    · refine .next ?_
      split
      · exact finishDisplace_form (dropRequest1_form h)
      · exact dropRequest1_form h
    · refine next_ite .fault ?_
      refine next_ite ?_ (.next (startRequest_form (stopIssue_form h)))
      refine .next ?_
      split
      · exact cancelLeaving_form (dropRequest1_form h)
      · exact dropRequest1_form h
  · exact .fault

theorem execPreemptSaveDone_form {core : BitVec 9} {st : State} (h : st.wf = true) : Next (execPreemptSaveDone core st) := by
  unfold execPreemptSaveDone
  dsimp only
  split
  · refine next_ite .fault ?_
    refine next_ite .fault ?_
    refine .next ?_
    split
    · exact finishDisplace_form (dropRequest1_form (ite_form (saveThread_form h) h))
    · exact dropRequest1_form (ite_form (saveThread_form h) h)
  · exact .fault

theorem refuseRestore_form {st : State} {c : Nat} {p : Preempt} {r : Nat} {e : Cause × DWord} (h : st.wf = true) :
    (refuseRestore st c p r e).wf = true := by
  unfold refuseRestore
  refine enterRefused_form ?_
  split
  · split
    · exact refuseReplace_form (dropRequest1_form h)
    · exact dropRequest1_form h
  · exact dropRequest1_form h

theorem execPreemptRestore_form {core : BitVec 9} {st : State} (h : st.wf = true) : Next (execPreemptRestore core st) := by
  unfold execPreemptRestore
  dsimp only
  split
  · refine next_ite .fault ?_
    split
    · exact .next (dropRequest1_form h)
    · refine next_ite .fault ?_
      split
      · exact .next (refuseRestore_form h)
      · exact .next (startRequest_form h)
  · exact .fault

theorem execPreemptRestoreDone_form {core : BitVec 9} {st : State} (h : st.wf = true) :
    Next (execPreemptRestoreDone core st) := by
  unfold execPreemptRestoreDone
  dsimp only
  split
  · refine next_ite .fault ?_
    split
    · refine .next ?_
      split
      · exact finishDisplace_form (markFree_form (dropRequest1_form h))
      · exact markFree_form (dropRequest1_form h)
    · split
      · exact .next (refuseRestore_form h)
      · refine next_ite .fault ?_
        refine .next ?_
        split
        · refine ite_form ?_ ?_
          · exact askSave_form (ite_form (trapThread_form (update_form (unparkLeases_form (setThread_form (update_form
              (setCore_form (setStaging_form (dropRequest1_form h)))))))) (unparkLeases_form (setThread_form
              (update_form (setCore_form (setStaging_form (dropRequest1_form h)))))))
          · refine ite_form ?_ ?_
            · exact trapThread_form (update_form (unparkLeases_form (setThread_form (update_form (setCore_form
                (setStaging_form (dropRequest1_form h)))))))
            · exact unparkLeases_form (setThread_form (update_form (setCore_form (setStaging_form (dropRequest1_form
                h)))))
        · refine ite_form ?_ ?_
          · exact trapThread_form (update_form (unparkLeases_form (setThread_form (update_form (setCore_form
              (setStaging_form (dropRequest1_form h)))))))
          · exact unparkLeases_form (setThread_form (update_form (setCore_form (setStaging_form (dropRequest1_form
              h)))))
  · exact .fault

theorem cutThread_form {st : State} {r : Nat} (h : st.wf = true) : (cutThread st r).wf = true := by
  unfold cutThread
  exact updRef_form (cutReserved_form (setCore_form (setCluster_form (foldl_form (ite_form (abandon_form h) h) fun _ _ h1
    => freeLease_form h1))))

theorem stopTask_form {st : State} {t : Nat} (h : st.wf = true) : (stopTask st t).wf = true :=
  emptySlot_form (cutThread_form h)

theorem endBlock_form {st : State} {key : Nat} {code : Word} {issuer : Option Nat} (h : st.wf = true) :
    (endBlock st key code issuer).wf = true := by
  unfold endBlock
  split
  · exact h
  · dsimp only
    split
    · exact update_form (markFree_form (setBlock_form (dropRequests_form (foldl_form (foldl_form h fun _ _ h1 =>
        update_form (cutThread_form h1)) fun _ _ h1 => ite_form (setThread_form (cutThread_form h1)) (ite_form
        (setThread_form h1) (stopTask_form h1))))))
    · exact markFree_form (setBlock_form (dropRequests_form (foldl_form (foldl_form h fun _ _ h1 => update_form
        (cutThread_form h1)) fun _ _ h1 => ite_form (setThread_form (cutThread_form h1)) (ite_form (setThread_form h1)
        (stopTask_form h1)))))

theorem execBlockEnd_form {t : BitVec 12} {st : State} (h : st.wf = true) : Next (execBlockEnd t st) := by
  unfold execBlockEnd
  split
  · exact next_ite (.next (endBlock_form h)) .fault
  · exact .fault

/-! ## Sys2Proof/Machine/Launch.lean -/

theorem schedResolve_form {st : State} {who : Who} {k : Right} {va : DWord} (h : st.wf = true) :
    Ends BadForm FormFst (schedResolve st who k va) := by
  unfold schedResolve
  refine ends_ite (.error h) ?_
  split
  · refine ends_ite ?_ ?_
    · exact badEntry_form (clearNote_form (update_form h))
    · exact ends_ite (classify_form (clearNote_form (update_form h))) (.error (clearNote_form (update_form h)))
  · refine ends_ite ?_ (.error (missBridge_form h))
    split
    · rename_i e
      have h1 := of_pair e (pageRequest_form h)
      exact .error (clearNote_form h1)
    · rename_i e
      have h1 := of_pair e (pageRequest_form h)
      exact .error h1

theorem schedRead_form {st : State} {who : Who} {va : DWord} {n : Nat} (h : st.wf = true) :
    Ends BadForm FormFst (schedRead st who va n) := by
  unfold schedRead
  refine bindFst_form (schedResolve_form h) fun _ _ h1 => ?_
  refine ends_ite ?_ ?_
  · refine .error ?_
    split
    · exact combineLine_form h1
    · exact h1
  · split
    · exact okFst_form h1
    · refine okFst_form (fetchLine_form ?_)
      split
      · exact combineLine_form h1
      · exact h1
    · exact okFst_form (fetchLine_form h1)
    · refine okFst_form ?_
      split
      · exact combineLine_form h1
      · exact h1

theorem schedWrite_form {st : State} {who : Who} {va : DWord} {v : Word} {clock : Nat} (h : st.wf = true) :
    Ends BadForm FormFst (schedWrite st who va v clock) := by
  unfold schedWrite
  refine bindFst_form (schedResolve_form h) fun _ _ h1 => ?_
  dsimp only
  split
  · exact okFst_form (queueWrite_form h1)
  · exact ends_ite (.error h1) (okFst_form (homeMerge_form _ _ _ _ _ _ h1))
  · exact ends_ite (.error h1) (okFst_form (homeMerge_form _ _ _ _ _ _ h1))
  · exact okFst_form (writeThere_form h1)

theorem setLaunch_form {st : State} {n : Nat} {l : Launch} (h : st.wf = true) : (setLaunch st n l).wf = true :=
  update_form h

theorem leaveVi_form {st : State} {vi n : Nat} (h : st.wf = true) : (leaveVi st vi n).wf = true :=
  setVi_form h

theorem passDue_form {st : State} (h : st.wf = true) : (passDue st).wf = true :=
  update_form h

theorem failLaunch_form {st : State} {n : Nat} {l : Launch} {code : Word} (h : st.wf = true) :
    (failLaunch st n l code).wf = true :=
  leaveVi_form (setLaunch_form (unregister_form h))

theorem execEnqueue_form {vi : BitVec 10} {record : List (BitVec 8)} {st : State} (h : st.wf = true) :
    Next (execEnqueue vi record st) :=
  next_ite .fault (next_ite (.next (enqueueLine_form h)) (.next (refuseRecord_form h)))

theorem readStop_form {n : Nat} {l : Launch} {code : Word} {b : Bad} (h : BadForm b) : (readStop n l code b).wf = true := by
  unfold readStop
  split
  · exact h
  · exact ite_form (setLaunch_form h) (failLaunch_form h)

theorem readTables_form {st : State} {n : Nat} {l : Launch} (h : st.wf = true) : (readTables st n l).wf = true := by
  unfold readTables
  refine ite_form (leaveVi_form (setLaunch_form h)) ?_
  split
  · rename_i e
    have h1 := of_error e (schedRead_form h)
    exact readStop_form h1
  · rename_i e
    have h1 := of_okFst e (schedRead_form h)
    refine ite_form (failLaunch_form h1) ?_
    split
    · rename_i e1
      have h2 := of_error e1 (schedRead_form h1)
      exact readStop_form h2
    · rename_i e1
      have h2 := of_okFst e1 (schedRead_form h1)
      exact ite_form (failLaunch_form h2) (passDue_form (setLaunch_form h2))

theorem execDependencyCheck_form {vi : BitVec 10} {st : State} (h : st.wf = true) : Next (execDependencyCheck vi st) := by
  unfold execDependencyCheck
  split
  · refine next_ite .fault ?_
    refine next_ite (.next (failLaunch_form h)) ?_
    refine next_ite (.next (readTables_form h)) ?_
    split
    · rename_i e
      have h1 := of_error e (schedRead_form h)
      exact .next (readStop_form h1)
    · rename_i e
      have h1 := of_okFst e (schedRead_form h)
      refine next_ite (.next (readTables_form (setLaunch_form h1))) ?_
      split
      · rename_i e1
        have h2 := of_error e1 (schedResolve_form h1)
        exact .next h1
      · rename_i e1
        have h2 := of_okFst e1 (schedResolve_form h1)
        exact next_ite (.next (setWatchers_form h2)) (.next h2)
  · exact .fault

theorem settleQueues_form {st : State} (h : st.wf = true) : (settleQueues st).wf = true :=
  update_form h

theorem placeBlock_form {st : State} {vi n : Nat} {l : Launch} {cl : Nat} {seats : List Nat} (h : st.wf = true) :
    (placeBlock st vi n l cl seats).wf = true := by
  unfold placeBlock
  refine ite_form ?_ ?_
  · exact update_form (leaveVi_form (setLaunch_form (foldl_form (update_form (setBlock_form h)) fun _ _ h1 =>
      setBarrier_form h1)))
  · exact setCluster_form (setLaunch_form (foldl_form (update_form (setBlock_form h)) fun _ _ h1 => setBarrier_form h1))

theorem reserve_form {st : State} {vi : Nat} {l : Launch} (h : st.wf = true) : (reserve st vi l).wf = true := by
  unfold reserve
  refine ite_form h ?_
  dsimp only
  split
  · exact setCluster_form h
  · exact h

theorem displaceNext_form {st : State} {l : Launch} {mine : Reserved} (h : st.wf = true) :
    (displaceNext st l mine).wf = true := by
  unfold displaceNext
  refine ite_form h ?_
  split
  · exact h
  · refine ite_form h ?_
    dsimp only
    split
    · exact startDisplace_form h
    · exact h

theorem serveQueue_form {cls n : Nat} {s : State} {n1 n2 : Nat} (h : s.wf = true) : (serveQueue cls n s n1 n2).1.wf = true := by
  unfold serveQueue
  split
  · exact h
  · refine fst_ite h ?_
    split
    · exact h
    · refine fst_ite h ?_
      split
      · exact fst_ite (fst_form (serveQueue_form (replaceBlock_form h))) (fst_form (displaceNext_form h))
      · split
        · exact fst_form (serveQueue_form (placeBlock_form h))
        · exact fst_form (displaceNext_form (reserve_form h))

theorem ringTurn_form {st : State} {cls vi : Nat} (h : st.wf = true) : (ringTurn st cls vi).1.wf = true := by
  unfold ringTurn
  exact fst_ite h (update_form (setVi_form (serveQueue_form h)))

theorem placementPass_form {st : State} (h : st.wf = true) : (placementPass st).wf = true := by
  unfold placementPass
  extract_lets began m began'
  have hb : began'.wf = true := settleQueues_form h
  split
  rename_i e
  have hs := of_pair e (foldlFst_form hb fun s b c hs => foldlFst_form hs fun s b vi hs => by
    split
    rename_i e
    exact of_pair e (ringTurn_form hs))
  exact ite_form (passDue_form (settleQueues_form hs)) (settleQueues_form hs)

theorem execPlacementPass_form {st : State} (h : st.wf = true) : Next (execPlacementPass st) :=
  next_ite (.next (placementPass_form h)) .fault

theorem execBudgetSample_form {st : State} (h : st.wf = true) : Next (execBudgetSample st) := by
  unfold execBudgetSample
  refine next_ite ?_ ?_
  · exact .next (ite_form (passDue_form (settleQueues_form (update_form h))) (settleQueues_form (update_form h)))
  · exact .fault

theorem execPeriodStart_form {st : State} (h : st.wf = true) : Next (execPeriodStart st) :=
  next_ite (.next (passDue_form (update_form h))) .fault

theorem execStageStart_form {launch block tile : Nat} {st : State} (h : st.wf = true) :
    Next (execStageStart launch block tile st) := by
  unfold execStageStart
  dsimp only
  split
  · split
    · exact next_ite .fault (.next (setThread_form (raiseClock_form (setBlock_form (update_form h)))))
    · exact .fault
  · exact .fault

theorem wakeStage_form {st : State} {key tile stage clock : Nat} (h : st.wf = true) :
    (wakeStage st key tile stage clock).wf = true := by
  unfold wakeStage
  split
  · exact ite_form h (setBlock_form h)
  · exact h

theorem execWakestWakeupArrival_form {idx : Nat} {st : State} (h : st.wf = true) : Next (execWakestWakeupArrival idx st) := by
  unfold execWakestWakeupArrival
  split
  · exact .next (wakeStage_form (update_form h))
  · exact .fault

theorem execMdrainWakeup_form {idx : Nat} {st : State} (h : st.wf = true) : Next (execMdrainWakeup idx st) := by
  unfold execMdrainWakeup
  split
  · dsimp only
    split
    · refine next_ite (.next (update_form h)) ?_
      split
      · exact .next (wakeStage_form (update_form h))
      · exact .next (update_form h)
    · exact .next (update_form h)
  · exact .fault

theorem execBlockCompletion_form {launch block : Nat} {st : State} (h : st.wf = true) :
    Next (execBlockCompletion launch block st) := by
  unfold execBlockCompletion
  dsimp only
  split
  · refine next_ite .fault ?_
    exact .next (passDue_form (update_form (setLaunch_form (setCluster_form (ite_form (dropRequests_form h) (foldl_form
      (dropRequests_form h) fun _ _ h1 => setBarrier_form h1))))))
  · exact .fault

theorem closeLaunch_form {st : State} {n : Nat} {l : Launch} (h : st.wf = true) : (closeLaunch st n l).wf = true :=
  setVi_form (setLaunch_form h)

theorem wakeAll_form {st : State} {key c : Nat} (h : st.wf = true) : (wakeAll st key c).wf = true :=
  foldl_form (update_form (setWatchers_form h)) fun _ _ h1 => endWaita_form h1

theorem execLaunchCompletion_form {launch : Nat} {st : State} (h : st.wf = true) : Next (execLaunchCompletion launch st) := by
  unfold execLaunchCompletion
  split
  · refine next_ite .fault ?_
    refine next_ite (.next (closeLaunch_form h)) ?_
    split
    · rename_i e
      have h1 := of_okFst e (schedWrite_form h)
      exact .next (closeLaunch_form (ite_form (wakeAll_form h1) h1))
    · rename_i e
      have h1 := of_error e (schedWrite_form h)
      exact .next h1
    · rename_i e
      have h1 := of_error e (schedWrite_form h)
      exact .next (ite_form (setLaunch_form h1) (closeLaunch_form h1))
  · exact .fault

theorem writeQcfg_form {st : State} {vi : Nat} {value : Word} (h : st.wf = true) : (writeQcfg st vi value).wf = true := by
  unfold writeQcfg
  refine ite_form h ?_
  refine settleQueues_form (ite_form (setVi_form h) (foldl_form (setVi_form h) fun _ _ h1 => ?_))
  split
  · exact ite_form (failLaunch_form h1) h1
  · exact h1

theorem execViQcfgWrite_form {vi : BitVec 10} {value : BitVec 32} {st : State} (h : st.wf = true) :
    Next (execViQcfgWrite vi value st) :=
  next_ite (.next (writeQcfg_form h)) .fault

theorem writeSavebase_form {st : State} {vi : Nat} {value : DWord} (h : st.wf = true) :
    (writeSavebase st vi value).wf = true :=
  ite_form (passDue_form (update_form (setVi_form h))) (update_form (setVi_form h))

theorem execSavebaseWrite_form {vi : BitVec 10} {value : BitVec 64} {st : State} (h : st.wf = true) :
    Next (execSavebaseWrite vi value st) :=
  .next (writeSavebase_form h)

/-! ## Sys2Proof/Machine/Power.lean -/

theorem setRail_form {st : State} {row k : Nat} (h : st.wf = true) : (setRail st row k).wf = true :=
  update_form h

theorem lowerRail_form {st : State} {row : Nat} (h : st.wf = true) : (lowerRail st row).wf = true :=
  setRail_form h

theorem setController_form {st : State} {core : Nat} {div : BitVec 3} (h : st.wf = true) :
    (setController st core div).wf = true :=
  ite_form h (setCore_form h)

theorem writePwr_form {st : State} {core : Nat} {value : Word} (h : st.wf = true) : (writePwr st core value).wf = true :=
  ite_form h (ite_form (lowerRail_form (setCore_form h)) (ite_form (setCore_form h) (setCore_form h)))

theorem execCoPwrWrite_form {core : BitVec 9} {value : BitVec 32} {st : State} (h : st.wf = true) :
    Next (execCoPwrWrite core value st) :=
  .next (writePwr_form h)

theorem execEffChange_form {core : BitVec 9} {st : State} (h : st.wf = true) : Next (execEffChange core st) :=
  next_ite .fault (.next (lowerRail_form (setCore_form h)))

theorem execRailRise_form {row : BitVec 5} {st : State} (h : st.wf = true) : Next (execRailRise row st) :=
  next_ite (.next (setRail_form h)) .fault

theorem execCoreSwitchReady_form {core : BitVec 9} {st : State} (h : st.wf = true) : Next (execCoreSwitchReady core st) :=
  next_ite (.next (setCore_form h)) .fault

theorem setRemoved_form {st : State} {row : Nat} {rmv : BitVec 8} (h : st.wf = true) : (setRemoved st row rmv).wf = true :=
  foldl_form h fun _ _ h1 => setCore_form h1

theorem execSlotRemoval_form {row : BitVec 5} {st : State} (h : st.wf = true) : Next (execSlotRemoval row st) := by
  unfold execSlotRemoval
  dsimp only
  split
  · exact .next (setRemoved_form h)
  · exact .next (update_form h)

theorem execSlotReturn_form {row : BitVec 5} {st : State} (h : st.wf = true) : Next (execSlotReturn row st) := by
  unfold execSlotReturn
  dsimp only
  split
  · exact .next (update_form (setRemoved_form h))
  · exact .fault

theorem engageCapo_form {st : State} {why : BitVec 2} (h : st.wf = true) : (engageCapo st why).wf = true :=
  update_form h

theorem execFirmwareHeartbeat_form {onTime : Bool} {st : State} (h : st.wf = true) :
    Next (execFirmwareHeartbeat onTime st) := by
  unfold execFirmwareHeartbeat
  refine next_ite .fault ?_
  exact next_ite (.next (engageCapo_form (update_form h))) (next_ite (.next (update_form h)) (.next (update_form h)))

theorem execHeartbeatMissed_form {st : State} (h : st.wf = true) : Next (execHeartbeatMissed st) :=
  next_ite (.next (engageCapo_form h)) .fault

theorem execFirmwareImageSwitch_form {st : State} (h : st.wf = true) : Next (execFirmwareImageSwitch st) :=
  .next (engageCapo_form (update_form h))

theorem newTemperature_form {st : State} {die : BitVec 1} {t : BitVec 8} (h : st.wf = true) :
    (newTemperature st die t).wf = true :=
  ite_form (update_form h) h

theorem settleDie_form {st : State} {die : BitVec 1} (h : st.wf = true) : (settleDie st die).wf = true := by
  unfold settleDie
  refine foldl_form h fun _ ⟨_, _⟩ h1 => ?_
  dsimp only
  split
  · exact ite_form (settleStep_form h1) h1
  · exact h1

theorem execThermalTrip_form {die : BitVec 1} {st : State} (h : st.wf = true) : Next (execThermalTrip die st) :=
  .next (update_form (settleDie_form h))

theorem execThermalRecovery_form {die : BitVec 1} {st : State} (h : st.wf = true) : Next (execThermalRecovery die st) :=
  next_ite (.next (update_form h)) .fault

theorem setWidthOf_form {st : State} {p : Nat} {w : BitVec 2} (h : st.wf = true) : (setWidthOf st p w).wf = true :=
  update_form h

theorem setShed_form {st : State} {p : Nat} {b : Bool} (h : st.wf = true) : (setShed st p b).wf = true :=
  update_form h

theorem beginRetrain_form {st : State} {p : Nat} (h : st.wf = true) : (beginRetrain st p).wf = true :=
  ite_form h (setShed_form h)

theorem execLaneShed_form {port : BitVec 1} {width : BitVec 2} {st : State} (h : st.wf = true) :
    Next (execLaneShed port width st) :=
  next_ite .fault (.next (update_form (setShed_form (setWidthOf_form h))))

theorem cutStore_form {s : State} {core i : Nat} (h : s.wf = true) : (cutStore s core i).wf = true := by
  unfold cutStore
  split
  · split
    · refine setCore_form (ite_form ?_ (update_form h))
      split
      · rename_i e1
        have h1 := of_ok e1 (performEntry_form (update_form h))
        exact h1
      · rename_i e1
        have h1 := of_error e1 (performEntry_form (update_form h))
        exact update_form h
    · exact h
  · exact h

theorem cutStores_form {st : State} (h : st.wf = true) : (cutStores st).wf = true :=
  foldl_form h fun _ ⟨_, _⟩ h1 => foldl_form h1 fun _ _ h2 => cutStore_form h2

theorem cutReservation_form {st : State} {r : Nat} (h : st.wf = true) : (cutReservation st r).wf = true := by
  unfold cutReservation
  split
  · exact ite_form (updRef_form (leaveQueue_form h)) h
  · exact h

theorem cutPeer_form {st : State} (h : st.wf = true) : (cutPeer st).wf = true :=
  foldl_form (foldl_form (setWatchers_form h) fun _ _ h1 => endWaita_form h1) fun _ _ h1 => cutReservation_form h1

theorem execPortDown_form {port : BitVec 1} {st : State} (h : st.wf = true) : Next (execPortDown port st) := by
  unfold execPortDown
  refine next_ite .fault ?_
  exact .next (ite_form (cutPeer_form (setShed_form (setWidthOf_form (cutStores_form h)))) (setShed_form
    (setWidthOf_form h)))

theorem execPortUp_form {port : BitVec 1} {width : BitVec 2} {st : State} (h : st.wf = true) :
    Next (execPortUp port width st) :=
  next_ite .fault (.next (setWidthOf_form (ite_form (update_form h) h)))

/-! ## Sys2Proof/Machine/ModuleRegs.lean -/

theorem recallHost_form {st : State} {x : Span} (h : st.wf = true) : (recallHost st x).wf = true :=
  update_form h

theorem writeCarcfg_form {st : State} {n : Nat} {v : DWord} (h : st.wf = true) : (writeCarcfg st n v).wf = true := by
  unfold writeCarcfg
  refine ite_form (ite_form h (setCarStore_form h)) ?_
  refine ite_form h ?_
  refine ite_form ?_ ?_
  · exact ite_form (setCarStore_form (recallHost_form h)) h
  · exact ite_form (setCarStore_form h) (setCarStore_form h)

theorem execCarInit_form {store : BitVec 2} {value : BitVec 64} {st : State} (h : st.wf = true) :
    Next (execCarInit store value st) :=
  next_ite (.next (writeCarcfg_form h)) .fault

theorem execCarStoreEnable_form {store : BitVec 2} {value : BitVec 64} {st : State} (h : st.wf = true) :
    Next (execCarStoreEnable store value st) :=
  next_ite (.next (writeCarcfg_form h)) .fault

theorem execCarStoreDisable_form {store : BitVec 2} {value : BitVec 64} {st : State} (h : st.wf = true) :
    Next (execCarStoreDisable store value st) :=
  next_ite (.next (writeCarcfg_form h)) .fault

theorem execCarDirectoryClearDone_form {store : BitVec 2} {st : State} (h : st.wf = true) :
    Next (execCarDirectoryClearDone store st) := by
  unfold execCarDirectoryClearDone
  exact next_ite (.next (setCarStore_form (memory_form h (Memory.wf_filter _ _)))) .fault

theorem cutLease_form {st : State} {n r e : Nat} (h : st.wf = true) : (cutLease st n r e).wf = true := by
  unfold cutLease
  refine ite_form h ?_
  dsimp only
  split
  · refine ite_form ?_ ?_
    · exact stopOp_form (update_form (updLease_form (settleIngest_form h)))
    · exact updLease_form (settleIngest_form h)
  · exact updLease_form (settleIngest_form h)

theorem execCarDisableDone_form {store : BitVec 2} {st : State} (h : st.wf = true) : Next (execCarDisableDone store st) := by
  unfold execCarDisableDone
  refine next_ite ?_ .fault
  exact .next (setCarStore_form (dropName_form (update_form (foldl_form h fun _ _ h1 => foldl_form h1 fun _ _ h2 =>
    cutLease_form h2))))

theorem writeCarstat_form {st : State} {n : Nat} {v : DWord} (h : st.wf = true) : (writeCarstat st n v).wf = true :=
  setCarStore_form h

theorem setCrcfg_form {st : State} {n : Nat} {w : Word} (h : st.wf = true) : (setCrcfg st n w).wf = true :=
  update_form h

theorem writeCrbase_form {st : State} {n : Nat} {v : DWord} (h : st.wf = true) : (writeCrbase st n v).wf = true :=
  ite_form (update_form h) h

theorem writeCrcfg_form {st : State} {n : Nat} {v : Word} (h : st.wf = true) : (writeCrcfg st n v).wf = true := by
  unfold writeCrcfg
  refine ite_form ?_ ?_
  · exact ite_form h (setCrcfg_form h)
  · exact ite_form h (ite_form (setCrcfg_form (recallHost_form h)) (setCrcfg_form h))

theorem execCrangeEnable_form {n : BitVec 4} {value : BitVec 32} {st : State} (h : st.wf = true) :
    Next (execCrangeEnable n value st) :=
  next_ite (.next (writeCrcfg_form h)) .fault

theorem execCrangeDisable_form {n : BitVec 4} {value : BitVec 32} {st : State} (h : st.wf = true) :
    Next (execCrangeDisable n value st) :=
  next_ite (.next (writeCrcfg_form h)) .fault

theorem execCrangeDisableDone_form {n : BitVec 4} {st : State} (h : st.wf = true) : Next (execCrangeDisableDone n st) :=
  next_ite (.next (setCrcfg_form (foldl_form h fun _ _ h1 => combineLine_form h1))) .fault

theorem setBstash_form {st : State} {core n : Nat} {v : DWord} (h : st.wf = true) : (setBstash st core n v).wf = true :=
  setCore_form h

theorem writeBstash_form {st : State} {core n : Nat} {v : DWord} (h : st.wf = true) : (writeBstash st core n v).wf = true :=
  ite_form (ite_form h (setBstash_form h)) (ite_form h (ite_form (setBstash_form h) (setBstash_form h)))

theorem execStashMap_form {core : BitVec 9} {bank : BitVec 4} {value : BitVec 64} {st : State} (h : st.wf = true) :
    Next (execStashMap core bank value st) :=
  next_ite (.next (writeBstash_form h)) .fault

theorem execStashUnmap_form {core : BitVec 9} {bank : BitVec 4} {value : BitVec 64} {st : State} (h : st.wf = true) :
    Next (execStashUnmap core bank value st) :=
  next_ite (.next (writeBstash_form h)) .fault

theorem freeBank_form {st : State} {core bank : Nat} (h : st.wf = true) : (freeBank st core bank).wf = true :=
  memory_form h (Memory.wf_memPutNat _ _ _ _)

theorem wakeBank_form {st : State} {core n : Nat} (h : st.wf = true) : (wakeBank st core n).wf = true :=
  foldl_form (setParked_form h) fun _ _ h1 => feWake_form h1

theorem execStashUnmapDone_form {core : BitVec 9} {bank : BitVec 4} {st : State} (h : st.wf = true) :
    Next (execStashUnmapDone core bank st) :=
  next_ite (.next (freeBank_form (setBstash_form (setCore_form (wakeBank_form (stashPushAll_form h)))))) .fault

theorem splitCluster_form {st : State} {k : Nat} {scratch : BitVec 4} (h : st.wf = true) :
    (splitCluster st k scratch).wf = true := by
  have hs : (splitCluster st k scratch).wf = true := by
    unfold splitCluster
    have h1 := foldl_form (f := fun st p => dropPartial st k p.1) (l := ((pushAll st k).cluster k).partials)
      (pushAll_form st k h) fun _ _ h => dropPartial_form h
    exact wf_of_parts h1 (Memory.wf_filter _ _ (mem_of_wf h1)) ((empty_of_wf h1).filter _) rfl rfl
  exact hs

theorem writeCcfg_form {st : State} {k : Nat} {w : Word} (h : st.wf = true) : (writeCcfg st k w).wf = true :=
  ite_form h (setCluster_form (ite_form (splitCluster_form h) h))

theorem execCcfgWrite_form {cl : BitVec 5} {value : BitVec 32} {st : State} (h : st.wf = true) :
    Next (execCcfgWrite cl value st) :=
  .next (writeCcfg_form h)

theorem writeBarcfg_form {st : State} {k n : Nat} {w : Word} (h : st.wf = true) : (writeBarcfg st k n w).wf = true :=
  ite_form h (setBarrier_form h)

theorem execBarrierInit_form {cl : BitVec 5} {n : BitVec 4} {value : BitVec 32} {st : State} (h : st.wf = true) :
    Next (execBarrierInit cl n value st) :=
  .next (writeBarcfg_form h)

/-! ## Sys2Proof/Machine/Protect.lean -/

theorem answerHost_form {st : State} {l : List Byte} (h : st.wf = true) : (answerHost st l).wf = true :=
  update_form h

theorem refuseHost_form {st : State} (h : st.wf = true) : (refuseHost st).wf = true :=
  update_form h

theorem eraseContexts_form {st : State} (h : st.wf = true) : (eraseContexts st).wf = true :=
  update_form (foldl_form h fun _ ⟨_, _⟩ h1 => ite_form h1 (endBlock_form h1))

theorem setTdisp_form {st : State} {t : Tdisp} (h : st.wf = true) : (setTdisp st t).wf = true :=
  update_form h

theorem execLockInterfaceRequest_form {st : State} (h : st.wf = true) : Next (execLockInterfaceRequest st) := by
  unfold execLockInterfaceRequest
  refine next_ite ?_ ?_
  · exact .fault
  · exact next_ite (.next (answerHost_form (update_form (update_form (setTdisp_form h))))) (.next (refuseHost_form h))

theorem execStartInterfaceRequest_form {nonce : BitVec 256} {st : State} (h : st.wf = true) :
    Next (execStartInterfaceRequest nonce st) :=
  next_ite (.next (answerHost_form (setTdisp_form h))) (.next (refuseHost_form h))

theorem execStopInterfaceRequest_form {st : State} (h : st.wf = true) : Next (execStopInterfaceRequest st) :=
  .next (answerHost_form (update_form (setTdisp_form (ite_form (eraseContexts_form h) h))))

theorem setProfile_form {st : State} {p : BitVec 2} (h : st.wf = true) : (setProfile st p).wf = true :=
  ite_form h (update_form h)

theorem setLocked_form {st : State} {item : Nat} {v : DWord} (h : st.wf = true) : (setLocked st item v).wf = true := by
  unfold setLocked
  split
  · exact update_form h
  · exact update_form h
  · exact update_form h
  · exact setProfile_form h
  · exact update_form h

theorem writeLocked_form {st : State} {item : Nat} {v : DWord} (h : st.wf = true) : (writeLocked st item v).wf = true := by
  unfold writeLocked
  split
  · exact setLocked_form h
  · exact refuseHost_form (setTdisp_form (eraseContexts_form h))
  · exact refuseHost_form (setTdisp_form (eraseContexts_form h))
  · exact refuseHost_form h

theorem execLockedSetWrite_form {item : Nat} {value : BitVec 64} {st : State} (h : st.wf = true) :
    Next (execLockedSetWrite item value st) :=
  next_ite (.next (writeLocked_form h)) .fault

theorem execProfileSelect_form {value : BitVec 32} {st : State} (h : st.wf = true) : Next (execProfileSelect value st) :=
  next_ite (.next (writeLocked_form h)) .fault

theorem execGetDeviceInterfaceReport_form {st : State} (h : st.wf = true) : Next (execGetDeviceInterfaceReport st) :=
  next_ite (.next (answerHost_form h)) (.next (refuseHost_form h))

theorem execGetCertificate_form {slot : Nat} {st : State} (h : st.wf = true) : Next (execGetCertificate slot st) :=
  .next (answerHost_form h)

theorem writeScrub_form {st : State} {v : Word} (h : st.wf = true) : (writeScrub st v).wf = true :=
  ite_form h (update_form h)

theorem writeScraddr_form {st : State} {v : DWord} (h : st.wf = true) : (writeScraddr st v).wf = true :=
  update_form h

theorem execScrubGo_form {value : BitVec 32} {st : State} (h : st.wf = true) : Next (execScrubGo value st) :=
  next_ite (.next (writeScrub_form h)) .fault

theorem execPageRetire_form {value : BitVec 32} {st : State} (h : st.wf = true) : Next (execPageRetire value st) :=
  next_ite (.next (writeScrub_form h)) .fault

theorem sweepTo_form {st : State} {pa : Nat} (h : st.wf = true) : (sweepTo st pa).wf = true :=
  ite_form h (update_form h)

theorem bridgeWrite_form {st : State} {pa : Nat} {l : List Byte} (h : st.wf = true) : (bridgeWrite st pa l).wf = true :=
  foldl_form h fun _ _ h1 => homeMerge_form _ _ _ _ _ _ h1

theorem execScrubSweepEnd_form {st : State} (h : st.wf = true) : Next (execScrubSweepEnd st) :=
  next_ite (.next (update_form (bridgeWrite_form (sweepTo_form h)))) .fault

/-! ## Sys2Proof/Machine/SysRegs.lean -/

theorem spAdvance_form {st : State} {core : Nat} (h : st.wf = true) : (spAdvance st core).wf = true :=
  ite_form (setCore_form h) h

theorem writePreempt_form {st : State} {core : Nat} {w : Word} (h : st.wf = true) : (writePreempt st core w).wf = true :=
  ite_form h (setCore_form h)

theorem coreWrite_form {st : State} {core slot b : Nat} {v : DWord} (h : st.wf = true) :
    (coreWrite st core slot b v).wf = true := by
  unfold coreWrite
  refine ite_form h ?_
  refine ite_form (setCore_form h) ?_
  refine ite_form (setCore_form h) ?_
  refine ite_form (setCore_form h) ?_
  refine ite_form (setCore_form h) ?_
  refine ite_form (resumeSlots_form h) ?_
  refine ite_form (writePreempt_form h) ?_
  refine ite_form (writePwr_form h) ?_
  refine ite_form (setCore_form h) ?_
  refine ite_form (writeBstash_form h) ?_
  refine ite_form (setCore_form h) ?_
  refine ite_form (setCore_form h) ?_
  exact ite_form (setCore_form h) (ite_form (setCore_form h) (ite_form (writePent_form h) (setCore_form h)))

theorem moduleWrite_form {st : State} {b : Nat} {v : DWord} (h : st.wf = true) : (moduleWrite st b v).wf = true := by
  unfold moduleWrite
  refine ite_form h ?_
  refine ite_form (writeCarcfg_form h) ?_
  refine ite_form (writeCarstat_form h) ?_
  refine ite_form (writeCrbase_form h) ?_
  refine ite_form (writeCrcfg_form h) ?_
  exact ite_form h (ite_form (ite_form (update_form h) h) (ite_form (writeScrub_form h) (writeScraddr_form h)))

theorem writeBlkend_form {st : State} {t : Nat} {w : Word} (h : st.wf = true) : (writeBlkend st t w).wf = true := by
  unfold writeBlkend
  split
  · exact ite_form (endBlock_form h) h
  · exact h

theorem viWrite_form {st : State} {t b : Nat} {v : DWord} (h : st.wf = true) : (viWrite st t b v).wf = true := by
  unfold viWrite
  refine ite_form (setVi_form h) ?_
  refine ite_form (setVi_form h) ?_
  refine ite_form (setVi_form h) ?_
  refine ite_form (setVi_form h) ?_
  refine ite_form (writeQcfg_form h) ?_
  refine ite_form ?_ ?_
  · exact setVi_form h
  · exact ite_form (writeSavebase_form h) (ite_form (writeBlkend_form h) (ite_form (setVi_form h) h))

theorem sysWrite_form {st : State} {t b : Nat} {v : DWord} (h : st.wf = true) : (sysWrite st t b v).wf = true := by
  unfold sysWrite
  refine ite_form (setThread_form h) ?_
  refine ite_form (coreWrite_form h) ?_
  exact ite_form (writeCcfg_form h) (ite_form (writeBarcfg_form h) (ite_form (moduleWrite_form h) (viWrite_form h)))

theorem afterAccess_form {st : State} {t b : Nat} (h : st.wf = true) : (afterAccess st t b).wf = true :=
  ite_form (spAdvance_form h) h

theorem openReg_form {st : State} {n : BitVec 12} {reads writes : Bool} (h : st.wf = true) :
    Ends StopForm Free (openReg st n reads writes) := by
  unfold openReg
  split
  · exact .error (illegalOperand_form h)
  · refine bind_form (require_form (illegalOperand_form h)) fun _ _ => ?_
    exact bind_form (needMode_form h) fun _ _ => bind_form (needMode_form h) fun _ _ => .ok trivial

theorem execSysrd_form {d : BitVec 5} {n : BitVec 12} {st : State} (h : st.wf = true) : Next (execSysrd d n st) := by
  unfold execSysrd
  refine finish_form ?_
  refine bind_form (openReg_form h) fun _ _ => ?_
  exact bind_form (writeX_form h) fun _ h1 => .ok (complete_form (afterAccess_form h1))

theorem stagedWrite_form {st : State} {r : SysReg} {n : BitVec 12} {x : Word} (h : st.wf = true) :
    (stagedWrite st r n x).wf = true := by
  unfold stagedWrite
  refine ite_form (sysWrite_form h) ?_
  refine ite_form (setTh_form h) ?_
  split
  · exact ite_form (sysWrite_form (setTh_form h)) (sysWrite_form h)
  · exact sysWrite_form h

theorem execSyswr_form {a : BitVec 5} {n : BitVec 12} {st : State} (h : st.wf = true) : Next (execSyswr a n st) := by
  unfold execSyswr
  refine finishKeeping_form ?_
  refine bind_form (openReg_form h) fun _ _ => ?_
  exact bind_form (readP_form h) fun _ _ => .ok (completeReading_form (afterAccess_form (stagedWrite_form h)))

theorem setFields_form {f : Word → Word → Word} {d a : BitVec 5} {n : BitVec 12} {st : State} (h : st.wf = true) :
    Next (setFields f d a n st) := by
  unfold setFields
  refine finishKeeping_form ?_
  refine bind_form (openReg_form h) fun _ _ => ?_
  refine bind_form (readP_form h) fun _ _ => ?_
  exact bind_form (writeX_form h) fun _ h1 => .ok (completeReading_form (afterAccess_form (sysWrite_form h1)))

theorem pasidOperand_form {st : State} {a : BitVec 5} (h : st.wf = true) : Ends StopForm Free (pasidOperand st a) := by
  unfold pasidOperand
  refine bind_form (needMode_form h) fun _ _ => ?_
  exact bind_form (readP_form h) fun _ _ => bind_form (require_form (illegalOperand_form h)) fun _ _ => .ok trivial

theorem invalidateOr_form {st : State} {p : TlbEntry → Bool} (h : st.wf = true) : Ends StopForm Form (invalidateOr st p) := by
  unfold invalidateOr
  split
  · rename_i e
    have h1 := of_some e (invalidate_form h)
    exact .ok h1
  · exact .error h

theorem execTlbinvPg_form {a : BitVec 5} {g : BitVec 3} {st : State} (h : st.wf = true) : Next (execTlbinvPg a g st) := by
  unfold execTlbinvPg
  refine finishKeeping_form ?_
  refine bind_form (pasidOperand_form h) fun _ _ => ?_
  exact bind_form (readB_form h) fun _ _ => bind_form (invalidateOr_form h) fun _ h1 => .ok (completeReading_form h1)

theorem execTlbinvAs_form {a : BitVec 5} {st : State} (h : st.wf = true) : Next (execTlbinvAs a st) := by
  unfold execTlbinvAs
  refine finishKeeping_form ?_
  refine bind_form (pasidOperand_form h) fun _ _ => ?_
  exact bind_form (invalidateOr_form h) fun _ h1 => .ok (completeReading_form h1)

theorem execTlbinvAll_form {st : State} (h : st.wf = true) : Next (execTlbinvAll st) := by
  unfold execTlbinvAll
  refine finish_form ?_
  exact bind_form (needMode_form h) fun _ _ => bind_form (invalidateOr_form h) fun _ h1 => .ok (complete_form h1)

theorem hostRegWrite_form {st : State} {b : Nat} {v : DWord} (h : st.wf = true) : (hostRegWrite st b v).wf = true := by
  unfold hostRegWrite
  refine ite_form ?_ ?_
  · exact writeLocked_form h
  · exact ite_form (writeLocked_form h) (ite_form (writeScrub_form h) (ite_form (writeScraddr_form h) h))

theorem execRegisterWrite_form {agent : Writer} {num : BitVec 12} {value : BitVec 64} {st : State} (h : st.wf = true) :
    Next (execRegisterWrite agent num value st) := by
  unfold execRegisterWrite
  split
  · exact .fault
  · refine next_ite .fault ?_
    split
    · exact .next (hostRegWrite_form h)
    · split
      · exact .next h
      · exact next_ite (.next (sysWrite_form h)) .fault

/-! ## Sys2Proof/Machine/HostAccess.lean -/

theorem bar0WriteWord_form {st : State} {off : Nat} {w : Word} (h : st.wf = true) : (bar0WriteWord st off w).wf = true := by
  unfold bar0WriteWord
  refine ite_form ?_ h
  split
  · exact hostRegWrite_form h
  · exact h

theorem bar0Write_form {st : State} {off : Nat} {data : List Byte} (h : st.wf = true) : (bar0Write st off data).wf = true := by
  unfold bar0Write
  refine ite_form h ?_
  refine ite_form (bar0WriteWord_form h) ?_
  refine ite_form ?_ h
  split
  · exact ite_form (hostRegWrite_form h) (bar0WriteWord_form (bar0WriteWord_form h))
  · exact bar0WriteWord_form h

theorem execHostRead_form {pa : BitVec 64} {n : Nat} {st : State} (h : st.wf = true) : Next (execHostRead pa n st) :=
  next_ite .fault (next_ite (.next (answerHost_form h)) (.next (hostRead_form h)))

theorem execHostWrite_form {pa : BitVec 64} {data : List (BitVec 8)} {st : State} (h : st.wf = true) :
    Next (execHostWrite pa data st) :=
  next_ite .fault (next_ite (.next (bar0Write_form h)) (.next (hostWrite_form h)))

theorem answerPeer_form {st : State} {l : List Byte} (h : st.wf = true) : (answerPeer st l).wf = true :=
  update_form h

theorem refusePeer_form {st : State} {c : Cause} (h : st.wf = true) : (refusePeer st c).wf = true :=
  update_form h

theorem peerLearns_form {st : State} {line : Nat} (h : st.wf = true) : (peerLearns st line).wf = true :=
  update_form h

theorem peerPerform_form {st : State} {pa n : Nat} {f : Nat → Option Nat} {reads : Bool} (h : st.wf = true) :
    (peerPerform st pa n f reads).wf = true := by
  unfold peerPerform
  refine ite_form (refusePeer_form h) ?_
  refine answerPeer_form (peerLearns_form ?_)
  split
  · exact homeMerge_form _ _ _ _ _ _ (ite_form (fetchLine_form h) h)
  · exact ite_form (fetchLine_form h) h

theorem peerFullEmpty_form {st : State} {pa : Nat} {op : BitVec 3} {x : BitVec 32} (h : st.wf = true) :
    (peerFullEmpty st pa op x).wf = true := by
  unfold peerFullEmpty
  refine ite_form (refusePeer_form h) ?_
  dsimp only
  split
  · exact answerPeer_form (peerLearns_form (fetchLine_form h))
  · exact answerPeer_form (peerLearns_form (ite_form (fetchLine_form h) (setFe_form _ _ _ _ (homeMerge_form _ _ _ _ _ _
      (fetchLine_form h)))))

theorem execPeerAccessArrival_form {access : PeerAccess} {st : State} (h : st.wf = true) :
    Next (execPeerAccessArrival access st) := by
  unfold execPeerAccessArrival
  dsimp only
  split
  · refine next_ite .fault ?_
    split
    · exact .next (refusePeer_form h)
    · refine .next (peerPerform_form ?_)
      split
      · exact combineLine_form h
      · exact h
  · refine next_ite .fault ?_
    split
    · exact .next (refusePeer_form h)
    · exact .next (peerPerform_form h)
  · refine next_ite .fault ?_
    split
    · refine .next (peerPerform_form ?_)
      split
      · exact combineLine_form h
      · exact h
    · exact .next (refusePeer_form h)
    · exact .next (refusePeer_form h)
  · refine next_ite .fault ?_
    split
    · exact .next (refusePeer_form h)
    · exact .next (peerPerform_form h)
  · refine next_ite .fault ?_
    split
    · exact .next (refusePeer_form h)
    · exact .next (peerFullEmpty_form h)
  · exact next_ite (.next (update_form h)) .fault

theorem execPowerOnReset_form {st : State} (h : st.wf = true) : Next (execPowerOnReset st) :=
  .next (wf_of_parts (s := st) h (Memory.wf_filter _ _ (mem_of_wf h)) .nil rfl rfl)

theorem loadMonitor_wf {m : List Host.Cell} {core : Nat} (h : Memory.wf m = true) : Memory.wf (loadMonitor m core) = true := by
  unfold loadMonitor
  exact Memory.wf_foldl (fun _ _ => Memory.wf_memSet _ _ _) _ _ h

theorem bringUp_form {st : State} (h : st.wf = true) : (bringUp st).wf = true := by
  have hm (l) := Memory.wf_foldl (f := loadMonitor) (fun _ _ => loadMonitor_wf) l st.mem
  unfold bringUp
  generalize List.range Config.cores = l
  split
  · exact h
  · exact wf_of_parts h (mem_of_wf (s := st) h) .nil rfl rfl
  · exact h
  · exact memory_form (s := st) h (hm l)
  · exact h

/-! ## Sys2Proof/Machine/Vector.lean -/

theorem vec2_form {t : Nat} {f : VWord → VWord → Nat → Nat × Raised} {v a b : BitVec 6} {q : BitVec 3} {st : State}
    (h : st.wf = true) : Next (vec2 t f v a b q st) := by
  unfold vec2
  refine finish_form ?_
  refine bind_form (readV_form h) fun _ _ => ?_
  exact bind_form (readV_form h) fun _ _ => bind_form (writeV_form h) fun _ h1 => .ok (complete_form (raise_form h1))

theorem vec1_form {t : Nat} {f : Nat → Nat × Raised} {v a : BitVec 6} {q : BitVec 3} {st : State} (h : st.wf = true) :
    Next (vec1 t f v a q st) := by
  unfold vec1
  refine finish_form ?_
  exact bind_form (readV_form h) fun _ _ => bind_form (writeV_form h) fun _ h1 => .ok (complete_form (raise_form h1))

theorem vecCompare_form {t : Nat} {f : Nat → Nat → Bool × Raised} {p : BitVec 3} {a b : BitVec 6} {q : BitVec 3}
    {st : State} (h : st.wf = true) : Next (vecCompare t f p a b q st) := by
  unfold vecCompare
  refine finish_form ?_
  refine bind_form (readV_form h) fun _ _ => ?_
  exact bind_form (readV_form h) fun _ _ => .ok (complete_form (setTh_form (raise_form h)))

theorem vecReduce_form {t : Nat} {f : List Nat → Nat} {v a : BitVec 6} {q : BitVec 3} {st : State} (h : st.wf = true) :
    Next (vecReduce t f v a q st) := by
  unfold vecReduce
  exact finish_form (bind_form (readV_form h) fun _ _ => bind_form (writeV_form h) fun _ h1 => .ok (complete_form h1))

theorem vecSum_form {t : Nat} {v a : BitVec 6} {q : BitVec 3} {st : State} (h : st.wf = true) : Next (vecSum t v a q st) := by
  unfold vecSum
  refine finish_form ?_
  exact bind_form (readV_form h) fun _ _ => bind_form (writeV_form h) fun _ h1 => .ok (complete_form (raise_form h1))

theorem vecBroadcast_form {t : Nat} {v : BitVec 6} {r : BitVec 5} {q : BitVec 3} {st : State} (h : st.wf = true) :
    Next (vecBroadcast t v r q st) := by
  unfold vecBroadcast
  refine finishKeeping_form ?_
  exact bind_form (readP_form h) fun _ _ => bind_form (writeV_form h) fun _ h1 => .ok (completeReading_form h1)

theorem vecExtract_form {t : Nat} {n : BitVec 5} {a : BitVec 6} {r : BitVec 5} {st : State} (h : st.wf = true) :
    Next (vecExtract t n a r st) := by
  unfold vecExtract
  exact finish_form (bind_form (readV_form h) fun _ _ => bind_form (writeX_form h) fun _ h1 => .ok (complete_form h1))

theorem vecInsert_form {t : Nat} {v : BitVec 6} {n r : BitVec 5} {st : State} (h : st.wf = true) :
    Next (vecInsert t v n r st) := by
  unfold vecInsert
  refine finishKeeping_form ?_
  exact bind_form (readP_form h) fun _ _ => bind_form (writeV_form h) fun _ h1 => .ok (completeReading_form h1)

theorem setPredicate_form {d : BitVec 3} {x : Word} {st : State} (h : st.wf = true) : Next (setPredicate d x st) :=
  .next (complete_form (setTh_form h))

theorem readGroup_form {st : State} {v n : Nat} (h : st.wf = true) : Ends StopForm Free (readGroup st v n) := by
  unfold readGroup
  split
  · exact .ok trivial
  · exact bind_form (readV_form h) fun _ _ => bind_form (readGroup_form h) fun _ _ => .ok trivial

theorem writeGroup_form {st : State} {v : Nat} {x : List VWord} (h : st.wf = true) :
    Ends StopForm Form (writeGroup st v x) := by
  unfold writeGroup
  split
  · exact .ok h
  · exact bind_form (writeV_form h) fun _ h1 => writeGroup_form h1

theorem vecConvert_form {ns nd : Nat} {v a : BitVec 6} {r q dt ty : BitVec 3} {st : State} (h : st.wf = true) :
    Next (vecConvert ns nd v a r q dt ty st) := by
  unfold vecConvert
  refine finish_form ?_
  refine bind_form (readGroup_form h) fun _ _ => ?_
  refine bind_form (waitFor_form h) fun _ _ => ?_
  exact bind_form (writeGroup_form h) fun _ h1 => .ok (complete_form (raise_form h1))

theorem execVfmaF16_form {v a b : BitVec 6} {q : BitVec 3} {st : State} (h : st.wf = true) : Next (execVfmaF16 v a b q st) := by
  unfold execVfmaF16
  refine finish_form ?_
  refine bind_form (readV_form h) fun _ _ => ?_
  refine bind_form (readV_form h) fun _ _ => ?_
  exact bind_form (readV_form h) fun _ _ => bind_form (writeV_form h) fun _ h1 => .ok (complete_form (raise_form h1))

theorem execVfmaBf16_form {v a b : BitVec 6} {q : BitVec 3} {st : State} (h : st.wf = true) :
    Next (execVfmaBf16 v a b q st) := by
  unfold execVfmaBf16
  refine finish_form ?_
  refine bind_form (readV_form h) fun _ _ => ?_
  refine bind_form (readV_form h) fun _ _ => ?_
  exact bind_form (readV_form h) fun _ _ => bind_form (writeV_form h) fun _ h1 => .ok (complete_form (raise_form h1))

theorem execVfmaF32_form {v a b : BitVec 6} {q : BitVec 3} {st : State} (h : st.wf = true) : Next (execVfmaF32 v a b q st) := by
  unfold execVfmaF32
  refine finish_form ?_
  refine bind_form (readV_form h) fun _ _ => ?_
  refine bind_form (readV_form h) fun _ _ => ?_
  exact bind_form (readV_form h) fun _ _ => bind_form (writeV_form h) fun _ h1 => .ok (complete_form (raise_form h1))

/-! ## Sys2Proof/Machine/VecMem.lean -/

theorem blockAddress_form {st : State} {g : BitVec 3} {x : BitVec 5} {i : BitVec 6} (h : st.wf = true) :
    Ends StopForm Free (blockAddress st g x i) :=
  bind_form (readP_form h) fun _ _ => bind_form (readB_form h) fun _ _ => .ok trivial

theorem blockLoad_form {v : BitVec 6} {ea : DWord} {x : BitVec 5} {q : BitVec 3} {st : State} (h : st.wf = true) :
    Ends StopForm Form (blockLoad v ea x q st) := by
  unfold blockLoad
  extract_lets act
  refine bind_form (destFree_form h) fun _ _ => ?_
  refine ends_ite (.ok (completeReading_form h)) ?_
  refine bind_form (aligned_form h) fun _ _ => ?_
  extract_lets _
  refine bindFst_form (atIssue_form ?_) fun s l hs => ?_
  · extract_lets _
    refine bindFst_form (resolve_form h) fun s p hs => ?_
    have hl := settleLoads_form (core := (me st).core) (line := p.line) hs
    dsimp only
    generalize forward _ _ _ _ _ _ = f
    match f with
    | .waits => exact .error hl
    | .bytes _ false => exact .error hl
    | .bytes _ true => exact ends_ite (okFst_form hl) (.error hl)
    | .nothing => exact readNear_form hl
  · exact bind_form (launch_form hs) fun _ hs => .ok (completeReading_form hs)

theorem blockStore_form {v : BitVec 6} {ea : DWord} {x : BitVec 5} {q : BitVec 3} {st : State} (h : st.wf = true) :
    Ends StopForm Form (blockStore v ea x q st) := by
  unfold blockStore
  refine bind_form (readV_form h) fun _ _ => ?_
  refine ends_ite ?_ ?_
  · exact .ok (completeReading_form h)
  · exact bind_form (aligned_form h) fun _ _ => bind_form (buffer_form h) fun _ h1 => .ok (completeReading_form h1)

theorem elementsAligned_form {st : State} {addr : Nat → DWord} {ks : List Nat} (h : st.wf = true) :
    Ends StopForm Free (elementsAligned st addr ks) := by
  unfold elementsAligned
  split
  · exact .ok trivial
  · exact bind_form (aligned_form h) fun _ _ => elementsAligned_form h

theorem elementLoads_form {addr : Nat → DWord} {ks : List Nat} {s : State} (h : s.wf = true) :
    Ends BadForm FormFst (elementLoads addr ks s) := by
  unfold elementLoads
  split
  · exact okFst_form h
  · refine bindFst_form (loadBytes_form h) fun _ _ h1 => ?_
    exact bindFst_form (elementLoads_form h1) fun _ _ h2 => okFst_form h2

theorem elementsLoad_form {v : BitVec 6} {addr : Nat → DWord} {q : BitVec 3} {read : List (BitVec 5)} {st : State}
    (h : st.wf = true) : Ends StopForm Form (elementsLoad v addr q read st) := by
  unfold elementsLoad
  refine bind_form (elementsAligned_form h) fun _ _ => ?_
  refine bind_form (destFree_form h) fun _ _ => ?_
  refine bindFst_form (atIssue_form (elementLoads_form h)) fun _ _ h1 => ?_
  exact bind_form (launch_form h1) fun _ h2 => .ok (completeReading_form h2)

theorem elementStores_form {d : VWord} {addr : Nat → DWord} {ks : List Nat} {s : State} (h : s.wf = true) :
    Ends StopForm Form (elementStores d addr ks s) := by
  unfold elementStores
  split
  · exact .ok h
  · exact bind_form (buffer_form (setTh_form h)) fun _ h1 => elementStores_form h1

theorem elementsStore_form {v : BitVec 6} {addr : Nat → DWord} {q : BitVec 3} {read : List (BitVec 5)} {st : State}
    (h : st.wf = true) : Ends StopForm Form (elementsStore v addr q read st) := by
  unfold elementsStore
  refine bind_form (readV_form h) fun _ _ => ?_
  refine bind_form (elementsAligned_form h) fun _ _ => ?_
  exact bind_form (elementStores_form h) fun _ h1 => .ok (completeReading_form h1)

theorem viewChecks_form {st : State} {w : View} {v : BitVec 6} {ea : DWord} (h : st.wf = true) :
    Ends StopForm Free (viewChecks st w v ea) := by
  unfold viewChecks
  refine bind_form (require_form (misaligned_form h)) fun _ _ => ?_
  exact bind_form (require_form (illegalOperand_form h)) fun _ _ => require_form (illegalOperand_form h)

theorem viewLoad_form {w : View} {v : BitVec 6} {ea : DWord} {x : BitVec 5} {q : BitVec 3} {st : State}
    (h : st.wf = true) : Ends StopForm Form (viewLoad w v ea x q st) := by
  unfold viewLoad
  refine bind_form (viewChecks_form h) fun _ _ => ?_
  refine bind_form (destFree_form h) fun _ _ => ?_
  extract_lets act
  refine ends_ite (.ok (completeReading_form h)) ?_
  refine bindFst_form (atIssue_form ?_) fun s l hs => ?_
  · extract_lets _
    refine bindFst_form (resolve_form h) fun s p hs => ?_
    have hl := settleLoads_form (core := (me st).core) (line := p.line) hs
    dsimp only
    generalize forward _ _ _ _ _ _ = f
    match f with
    | .waits => exact .error hl
    | .bytes _ false => exact .error hl
    | .bytes _ true => exact okFst_form hl
    | .nothing =>
      exact bindFst_form (readThere_form hl) fun s _ hs => ends_ite (.error hs) (okFst_form hs)
  · exact bind_form (launch_form hs) fun _ hs => .ok (completeReading_form hs)

theorem viewStore_form {w : View} {v : BitVec 6} {ea : DWord} {x : BitVec 5} {q : BitVec 3} {st : State}
    (h : st.wf = true) : Ends StopForm Form (viewStore w v ea x q st) := by
  unfold viewStore
  refine bind_form (viewChecks_form h) fun _ _ => ?_
  refine bind_form (readGroup_form h) fun _ _ => ?_
  refine bind_form (require_form (illegalOperand_form h)) fun _ _ => ?_
  refine ends_ite ?_ ?_
  · exact .ok (completeReading_form h)
  · exact bind_form (buffer_form h) fun _ h1 => .ok (completeReading_form (raise_form h1))

theorem execVld_form {v : BitVec 6} {g : BitVec 3} {x : BitVec 5} {q : BitVec 3} {i : BitVec 6} {st : State}
    (h : st.wf = true) : Next (execVld v g x q i st) :=
  finishKeeping_form (bind_form (blockAddress_form h) fun _ _ => blockLoad_form h)

theorem execVst_form {v : BitVec 6} {g : BitVec 3} {x : BitVec 5} {q : BitVec 3} {i : BitVec 6} {st : State}
    (h : st.wf = true) : Next (execVst v g x q i st) :=
  finishKeeping_form (bind_form (blockAddress_form h) fun _ _ => blockStore_form h)

theorem execVlds_form {v : BitVec 6} {g : BitVec 3} {x : BitVec 5} {q : BitVec 3} {i : BitVec 6} {st : State}
    (h : st.wf = true) : Next (execVlds v g x q i st) := by
  unfold execVlds
  refine finishKeeping_form ?_
  exact bind_form (readP_form h) fun _ _ => bind_form (readB_form h) fun _ _ => elementsLoad_form h

theorem execVsts_form {v : BitVec 6} {g : BitVec 3} {x : BitVec 5} {q : BitVec 3} {i : BitVec 6} {st : State}
    (h : st.wf = true) : Next (execVsts v g x q i st) := by
  unfold execVsts
  refine finishKeeping_form ?_
  exact bind_form (readP_form h) fun _ _ => bind_form (readB_form h) fun _ _ => elementsStore_form h

theorem execVgath_form {v : BitVec 6} {g : BitVec 3} {x : BitVec 5} {q : BitVec 3} {i : BitVec 6} {st : State}
    (h : st.wf = true) : Next (execVgath v g x q i st) :=
  finish_form (bind_form (readV_form h) fun _ _ => bind_form (readB_form h) fun _ _ => elementsLoad_form h)

theorem execVscat_form {v : BitVec 6} {g : BitVec 3} {x : BitVec 5} {q : BitVec 3} {i : BitVec 6} {st : State}
    (h : st.wf = true) : Next (execVscat v g x q i st) :=
  finish_form (bind_form (readV_form h) fun _ _ => bind_form (readB_form h) fun _ _ => elementsStore_form h)

theorem execVldb_form {v : BitVec 6} {g : BitVec 3} {x : BitVec 5} {q : BitVec 3} {i : BitVec 6} {st : State}
    (h : st.wf = true) : Next (execVldb v g x q i st) := by
  unfold execVldb
  refine finishKeeping_form ?_
  refine bind_form (blockAddress_form h) fun _ _ => ?_
  split
  · exact viewLoad_form h
  · exact blockLoad_form h

theorem execVstb_form {v : BitVec 6} {g : BitVec 3} {x : BitVec 5} {q : BitVec 3} {i : BitVec 6} {st : State}
    (h : st.wf = true) : Next (execVstb v g x q i st) := by
  unfold execVstb
  refine finishKeeping_form ?_
  refine bind_form (blockAddress_form h) fun _ _ => ?_
  split
  · exact viewStore_form h
  · exact blockStore_form h

/-! ## Sys2Proof/Machine/Dispatch.lean -/

theorem exec_form {i : Instr} {s : State} (h : s.wf = true) : Next (exec i s) := by
  unfold exec
  split
  · exact execIllegalInstr_form h
  · exact execNop_form h
  · exact alu2_form h
  · exact alu2_form h
  · exact alu2_form h
  · exact alu2_form h
  · exact alu2_form h
  · exact alu2_form h
  · exact alu2_form h
  · exact alu2_form h
  · exact alu2_form h
  · exact alu2_form h
  · exact alu1_form h
  · exact alu1_form h
  · exact alu1_form h
  · exact alu2_form h
  · exact alu2_form h
  · exact alu2_form h
  · exact alu2_form h
  · exact alu2_form h
  · exact alu2_form h
  · exact alu2_form h
  · exact alu2_form h
  · exact alu2_form h
  · exact alu2_form h
  · exact alu2_form h
  · exact alu2_form h
  · exact alu2_form h
  · exact alu2_form h
  · exact execCmov_form h
  · exact alu1_form h
  · exact alu1_form h
  · exact alu1_form h
  · exact alu1_form h
  · exact alu1_form h
  · exact alu2_form h
  · exact alu2_form h
  · exact execIns_form h
  · exact alu1_form h
  · exact alu1_form h
  · exact alu1_form h
  · exact alu1_form h
  · exact alu1_form h
  · exact alu1_form h
  · exact alu0_form h
  · exact alu0_form h
  · exact constForm_form h
  · exact constForm_form h
  · exact constForm_form h
  · exact constForm_form h
  · exact constForm_form h
  · exact constForm_form h
  · exact constForm_form h
  · exact constForm_form h
  · exact constForm_form h
  · exact execBset_form h
  · exact execBgetLo_form h
  · exact execBgetHi_form h
  · exact execBadd_form h
  · exact execBmov_form h
  · exact execBaddi_form h
  · exact execBlea_form h
  · exact execLdb_form h
  · exact execStb_form h
  · exact branch2_form h
  · exact branch2_form h
  · exact branch2_form h
  · exact branch2_form h
  · exact branch2_form h
  · exact branch2_form h
  · exact branchBit_form h
  · exact branchBit_form h
  · exact execLoop_form h
  · exact execJ_form h
  · exact execCall_form h
  · exact execCallb_form h
  · exact execJb_form h
  · exact execRet_form h
  · exact execCallat_form h
  · exact execWindowSpill_form h
  · exact execWindowFill_form h
  · exact fp2_form h
  · exact fp2_form h
  · exact fp2_form h
  · exact execFma_form h
  · exact fp2_form h
  · exact fp1_form h
  · exact fp2_form h
  · exact fp2_form h
  · exact fp2_form h
  · exact fp2_form h
  · exact fp2_form h
  · exact fp1_form h
  · exact fp1_form h
  · exact fp1_form h
  · exact load_form h
  · exact load_form h
  · exact load_form h
  · exact load_form h
  · exact load_form h
  · exact load_form h
  · exact store_form h
  · exact store_form h
  · exact store_form h
  · exact store_form h
  · exact execLda_form h
  · exact execStl_form h
  · exact amo_form h
  · exact amo_form h
  · exact amo_form h
  · exact amo_form h
  · exact amo_form h
  · exact amo_form h
  · exact amo_form h
  · exact amo_form h
  · exact amo_form h
  · exact execAmocas_form h
  · exact execAmofadd_form h
  · exact execCswap_form h
  · exact reduce_form h
  · exact reduce_form h
  · exact reduce_form h
  · exact reduce_form h
  · exact reduce_form h
  · exact reduce_form h
  · exact reduce_form h
  · exact feLoad_form h
  · exact feStore_form h
  · exact feLoad_form h
  · exact feStore_form h
  · exact execFeget_form h
  · exact execFeRetry_form h
  · exact execFeWake_form h
  · exact execLrw_form h
  · exact execSch_form h
  · exact execRsvx_form h
  · exact execReservationExpiry_form h
  · exact execWaita_form h
  · exact execWakea_form h
  · exact execWaitaDeadline_form h
  · exact execWaitaPoll_form h
  · exact execCflush_form h
  · exact execCinvl_form h
  · exact execCpref_form h
  · exact execCzero_form h
  · exact execFence_form h
  · exact execSdrain_form h
  · exact presenceSet_form h
  · exact presenceSet_form h
  · exact execPtest_form h
  · exact execPwait_form h
  · exact execProducerArrival_form h
  · exact execStoreDrain_form h
  · exact vec2_form h
  · exact vec2_form h
  · exact vec2_form h
  · exact vec2_form h
  · exact vec2_form h
  · exact vec2_form h
  · exact vec2_form h
  · exact vec2_form h
  · exact vec2_form h
  · exact vec2_form h
  · exact vec2_form h
  · exact vec2_form h
  · exact vec2_form h
  · exact vec2_form h
  · exact vec2_form h
  · exact vec2_form h
  · exact vec2_form h
  · exact vec2_form h
  · exact vec2_form h
  · exact vec2_form h
  · exact vec2_form h
  · exact vec2_form h
  · exact vec2_form h
  · exact vec2_form h
  · exact vec2_form h
  · exact vec2_form h
  · exact vec2_form h
  · exact vec2_form h
  · exact vec2_form h
  · exact vec2_form h
  · exact vec2_form h
  · exact vec2_form h
  · exact vec2_form h
  · exact vec1_form h
  · exact vec1_form h
  · exact vec1_form h
  · exact vec1_form h
  · exact vec1_form h
  · exact vec1_form h
  · exact vec1_form h
  · exact vec1_form h
  · exact vec1_form h
  · exact vec1_form h
  · exact vec1_form h
  · exact vec1_form h
  · exact vec2_form h
  · exact vec2_form h
  · exact vec2_form h
  · exact vecCompare_form h
  · exact vecCompare_form h
  · exact vecCompare_form h
  · exact vecCompare_form h
  · exact vecCompare_form h
  · exact vecCompare_form h
  · exact vecCompare_form h
  · exact vecCompare_form h
  · exact vecCompare_form h
  · exact vecCompare_form h
  · exact vecCompare_form h
  · exact vecCompare_form h
  · exact vecCompare_form h
  · exact vecCompare_form h
  · exact vecCompare_form h
  · exact vecCompare_form h
  · exact vecCompare_form h
  · exact vecCompare_form h
  · exact vecReduce_form h
  · exact vecReduce_form h
  · exact vecReduce_form h
  · exact vecReduce_form h
  · exact vecReduce_form h
  · exact vecReduce_form h
  · exact vecReduce_form h
  · exact vecReduce_form h
  · exact vecReduce_form h
  · exact vec2_form h
  · exact vec2_form h
  · exact vec2_form h
  · exact vec2_form h
  · exact vec2_form h
  · exact vec2_form h
  · exact vec2_form h
  · exact vec2_form h
  · exact vec2_form h
  · exact execVfmaF16_form h
  · exact execVfmaBf16_form h
  · exact execVfmaF32_form h
  · exact vec2_form h
  · exact vec2_form h
  · exact vec2_form h
  · exact vec2_form h
  · exact vec2_form h
  · exact vec2_form h
  · exact vec2_form h
  · exact vec2_form h
  · exact vec2_form h
  · exact vec1_form h
  · exact vec1_form h
  · exact vec1_form h
  · exact vecCompare_form h
  · exact vecCompare_form h
  · exact vecCompare_form h
  · exact vecCompare_form h
  · exact vecCompare_form h
  · exact vecCompare_form h
  · exact vecCompare_form h
  · exact vecCompare_form h
  · exact vecCompare_form h
  · exact vecCompare_form h
  · exact vecCompare_form h
  · exact vecCompare_form h
  · exact vecCompare_form h
  · exact vecCompare_form h
  · exact vecCompare_form h
  · exact vecSum_form h
  · exact vecSum_form h
  · exact vecSum_form h
  · exact vecBroadcast_form h
  · exact vecBroadcast_form h
  · exact vecBroadcast_form h
  · exact vecExtract_form h
  · exact vecExtract_form h
  · exact vecExtract_form h
  · exact vecInsert_form h
  · exact vecInsert_form h
  · exact vecInsert_form h
  · exact setPredicate_form h
  · exact setPredicate_form h
  · exact setPredicate_form h
  · exact setPredicate_form h
  · exact alu0_form h
  · exact alu0_form h
  · exact vecConvert_form h
  · exact vecConvert_form h
  · exact vecConvert_form h
  · exact execVld_form h
  · exact execVst_form h
  · exact execVlds_form h
  · exact execVsts_form h
  · exact execVgath_form h
  · exact execVscat_form h
  · exact execVldb_form h
  · exact execVstb_form h
  · exact execLease_form h
  · exact execLrenew_form h
  · exact execLfree_form h
  · exact execLstat_form h
  · exact execLwait_form h
  · exact execLwaitTimeout_form h
  · exact execEcfg_form h
  · exact allReduce_form h
  · exact execEget_form h
  · exact execEwait_form h
  · exact execMlds_form h
  · exact execMswap_form h
  · exact execMstream_form h
  · exact execMtile_form h
  · exact execMrot_form h
  · exact execMdrain_form h
  · exact execMzero_form h
  · exact execMresume_form h
  · exact execRlds_form h
  · exact execRtile_form h
  · exact execRconv_form h
  · exact execGconv_form h
  · exact execGgath_form h
  · exact execGcopy_form h
  · exact execHdigest_form h
  · exact execHingest_form h
  · exact execLeaseGrant_form h
  · exact execEngineWakeDone_form h
  · exact execLeaseTermExpiry_form h
  · exact execForcedEviction_form h
  · exact execEngineStep_form h
  · exact execEnginePowerOff_form h
  · exact execCopy_form h
  · exact execCopyNb_form h
  · exact execTcopy_form h
  · exact execCseal_form h
  · exact execCwait_form h
  · exact execCpoll_form h
  · exact execCopyDispatch_form h
  · exact execCopyRequestEnd_form h
  · exact execBatchFinish_form h
  · exact carLookup_form h
  · exact carLookup_form h
  · exact execCnld_form h
  · exact execCref_form h
  · exact execCrel_form h
  · exact execCstat_form h
  · exact execReclaimStep_form h
  · exact execSend_form h
  · exact execSendRetry_form h
  · exact execSendnb_form h
  · exact receive_form h
  · exact receive_form h
  · exact execMessageArrival_form h
  · exact execReply_form h
  · exact execWakest_form h
  · exact execTexit_form h
  · exact execCallatArrival_form h
  · exact execTaskQueueStart_form h
  · exact execArrive_form h
  · exact execExpect_form h
  · exact execBwait_form h
  · exact execBtest_form h
  · exact execDeferredArrival_form h
  · exact execBarrierCycle_form h
  · exact serviceTrap_form h
  · exact execMcall_form h
  · exact execXret_form h
  · exact execUpret_form h
  · exact execPlret_form h
  · exact execSysrd_form h
  · exact execSyswr_form h
  · exact setFields_form h
  · exact setFields_form h
  · exact execHalt_form h
  · exact execTlbinvPg_form h
  · exact execTlbinvAs_form h
  · exact execTlbinvAll_form h
  · exact execRput_form h
  · exact serviceTrap_form h
  · exact execStoreFaultDelivery_form h
  · exact execPostedCauseDelivery_form h
  · exact execPluckDelivery_form h
  · exact execMachineCheck_form h
  · exact execUncorrectableError_form h
  · exact execTranslationFill_form h
  · exact execPrgResponse_form h
  · exact execAtsInvalidation_form h
  · exact execClockAgeing_form h
  · exact execClusterLineEviction_form h
  · exact execPartialEviction_form h
  · exact execBridgeEviction_form h
  · exact execHostSnoop_form h
  · exact execHostRead_form h
  · exact execHostWrite_form h
  · exact execHostWake_form h
  · exact execEnqueue_form h
  · exact execDependencyCheck_form h
  · exact execPlacementPass_form h
  · exact execBudgetSample_form h
  · exact execPeriodStart_form h
  · exact execStageStart_form h
  · exact execMdrainWakeup_form h
  · exact execBlockCompletion_form h
  · exact execLaunchCompletion_form h
  · exact execPreemptSave_form h
  · exact execPreemptRestore_form h
  · exact execBlockEnd_form h
  · exact execSlotResume_form h
  · exact execViQcfgWrite_form h
  · exact execSavebaseWrite_form h
  · exact execCarInit_form h
  · exact execCarDirectoryClearDone_form h
  · exact execCarStoreEnable_form h
  · exact execCarStoreDisable_form h
  · exact execCarDisableDone_form h
  · exact execCrangeEnable_form h
  · exact execCrangeDisable_form h
  · exact execCrangeDisableDone_form h
  · exact execStashMap_form h
  · exact execStashUnmap_form h
  · exact execStashUnmapDone_form h
  · exact execCcfgWrite_form h
  · exact execBarrierInit_form h
  · exact execCoPwrWrite_form h
  · exact execEffChange_form h
  · exact execRailRise_form h
  · exact execCoreSwitchReady_form h
  · exact execSlotRemoval_form h
  · exact execSlotReturn_form h
  · exact execFirmwareHeartbeat_form h
  · exact execHeartbeatMissed_form h
  · exact execFirmwareImageSwitch_form h
  · exact execThermalTrip_form h
  · exact execThermalRecovery_form h
  · exact execProfileSelect_form h
  · exact execLaneShed_form h
  · exact execPortDown_form h
  · exact execPortUp_form h
  · exact execLockInterfaceRequest_form h
  · exact execStartInterfaceRequest_form h
  · exact execStopInterfaceRequest_form h
  · exact execLockedSetWrite_form h
  · exact execGetDeviceInterfaceReport_form h
  · exact execGetCertificate_form h
  · exact execScrubGo_form h
  · exact execPageRetire_form h
  · exact execScrubSweepEnd_form h
  · exact execPowerOnReset_form h
  · exact execRegisterWrite_form h
  · exact execPeerAccessArrival_form h
  · exact execWakestWakeupArrival_form h
  · exact execPreemptSaveDone_form h
  · exact execPreemptRestoreDone_form h

/-! ## Sys2Proof/Machine/Step.lean -/

theorem execWord_form {w : Word} {s : State} (h : s.wf = true) : Next (execWord w s) := by
  unfold execWord
  split
  · exact exec_form h
  · exact exec_form h

theorem issue_form {s : State} {t : Nat} (h : s.wf = true) (ht : t < 4096) : Next (issue s t) := by
  unfold issue
  have hc := cur_form h ht
  extract_lets s'
  refine next_ite (.next hc) (next_ite (execWord_form hc) ?_)
  split
  · exact .next (deliverStoreFault_form hc)
  · exact .next (deliverPosted_form hc)
  · exact .next (deliverPluck_form hc)
  · exact .next hc
  · exact .next (stopTask_form hc)
  · have hf := fetch_form hc
    split
    · rename_i e
      exact execWord_form (setTh_form (of_fetched e hf))
    · rename_i e
      exact .next (of_fetched e hf)
    · rename_i e
      exact .next (takeTrap_form (of_fetched e hf))

theorem runTurn_form {s : State} {u : Turn} (h : s.wf = true) (hu : TurnForm u) : Next (runTurn s u) := by
  cases u with
  | issue t => exact issue_form h (hu t rfl)
  | event => exact exec_form h
  | elapse => exact .next (update_form h)
  | dropL1 => exact .next (setCore_form h)
  | copyLine => exact .next (copyTurn_form h)
  | sendStore => exact .next (getD_form (sendStore_form h) h)
  | landStore => exact .next (getD_form (landStore_form h) h)
  | engineWork => exact .next (engineWork_form h)
  | performLoad => exact .next (performLoad_form h)
  | badL1 => exact .next (spoilL1_form h)
  | badCluster => exact .next (spoilCluster_form h)
  | badName => exact .next (spoilName_form h)
  | badStash => exact .next (spoilStash_form h)
  | badTlb => exact .next (spoilTlb_form h)
  | retrain => exact .next (beginRetrain_form h)
  | controller => exact .next (setController_form h)
  | lowerRail => exact .next (lowerRail_form h)
  | monitorPass => exact .next (monitorPass_form h)
  | sweepTo => exact .next (sweepTo_form h)
  | bringUp => exact .next (bringUp_form h)
  | temperature => exact .next (newTemperature_form h)

theorem firstEvent_form {s : State} {x : List Instr} (h : s.wf = true) : Opt Form (firstEvent s x) := by
  unfold firstEvent
  split
  · exact .none
  · split
    · rename_i e
      have h1 := of_next e (exec_form h)
      exact .some h1
    · exact firstEvent_form h

theorem background_form {s : State} {t : Nat} (h : s.wf = true) : Opt Form (background s t) := by
  unfold background
  exact orElse_form (firstEvent_form h) (findSome_form (fun _ => landStore_form h) _)

theorem step_form {s : State} (h : s.wf = true) : Next (step s) := by
  unfold step
  split
  · rename_i e
    obtain ⟨hs, hu⟩ := pop_form h e
    exact runTurn_form hs hu
  · have hi := issue_form h (cur_of_wf h)
    refine next_ite ?_ hi
    split
    · rename_i e
      have hb := of_some e (background_form h)
      exact .next hb
    · exact hi

/-- Settles O56: a step is a turn or the issue of a slot, and every operation either is made of keeps the form. -/
theorem stepKeepsForm : Obligations.StepKeepsForm := by
  intro s t hs ht
  exact of_next ht (step_form hs)

end Sys2Proof.StepForm
end

section
/-!
SUPPORT. The number that some bytes hold, what an access leaves of the slots and cores, and what an access to a core's local store
does.
-/

namespace Sys2Proof.Laws

open Machine Spec

/-! ## The number that some bytes hold (R6) -/

theorem memNat_lt (m : List Host.Cell) (k n : Nat) : memNat m k n < 256 ^ n := by
  induction n generalizing k with
  | zero => simp [memNat]
  | succ n ih =>
    have hb := (memByte m k).isLt
    have hr := ih (k + 1)
    simp only [memNat, Nat.pow_succ]
    omega

/-- The first of some bytes hold the low part of the number. -/
theorem memNat_mod (m : List Host.Cell) (k : Nat) {j n : Nat} (h : j ≤ n) : memNat m k n % 256 ^ j = memNat m k j := by
  induction j generalizing k n with
  | zero => simp [memNat, Nat.mod_one]
  | succ j ih =>
    obtain ⟨n, rfl⟩ : ∃ n', n = n' + 1 := ⟨n - 1, by omega⟩
    have hb := (memByte m k).isLt
    simp only [memNat]
    rw [Nat.pow_succ', Nat.mod_mul, ← ih (k + 1) (Nat.le_of_succ_le_succ h)]
    have h1 : ((memByte m k).toNat + 256 * memNat m (k + 1) n) % 256 = (memByte m k).toNat := by omega
    have h2 : ((memByte m k).toNat + 256 * memNat m (k + 1) n) / 256 = memNat m (k + 1) n := by omega
    rw [h1, h2]

/-- Bytes that are the bytes of a number hold that number. -/
theorem memNat_of_bytes {m : List Host.Cell} {k n x : Nat} (h : ∀ i < n, memByte m (k + i) = BitVec.ofNat 8 (x / 256 ^ i)) :
    memNat m k n = x % 256 ^ n := by
  induction n generalizing k x with
  | zero => simp [memNat, Nat.mod_one]
  | succ n ih =>
    have h0 := h 0 (Nat.zero_lt_succ n)
    have hs : memNat m (k + 1) n = x / 256 % 256 ^ n := ih fun i hi => by
      have := h (i + 1) (Nat.succ_lt_succ hi)
      rwa [Nat.pow_succ', ← Nat.div_div_eq_div_mul, show k + (i + 1) = k + 1 + i by omega] at this
    simp only [Nat.add_zero, Nat.pow_zero, Nat.div_one] at h0
    rw [memNat, h0, hs, Nat.pow_succ', Nat.mod_mul, BitVec.toNat_ofNat]

/-- Memory that is the same at the bytes holds the same number there. -/
theorem memNat_congr {m m' : List Host.Cell} {k n : Nat} (h : ∀ i < n, memByte m' (k + i) = memByte m (k + i)) :
    memNat m' k n = memNat m k n := by
  induction n generalizing k with
  | zero => rfl
  | succ n ih =>
    have h0 := h 0 (Nat.zero_lt_succ n)
    have hs := ih (k := k + 1) fun i hi => by
      have := h (i + 1) (Nat.succ_lt_succ hi)
      rwa [show k + (i + 1) = k + 1 + i by omega] at this
    simp only [Nat.add_zero] at h0
    rw [memNat, memNat, h0, hs]

theorem pow_256_le {n : Nat} (h : n ≤ 64) : 256 ^ n ≤ 2 ^ 512 := by
  rw [show (256 : Nat) = 2 ^ 8 by rfl, ← Nat.pow_mul]
  exact Nat.pow_le_pow_right (by decide) (by omega)

/-- A byte put below a line that has room for it. -/
theorem shiftLeft_or_toNat {w : Nat} (x : BitVec w) (b : Byte) (hw : 8 ≤ w) (h : x.toNat * 2 ^ 8 < 2 ^ w) :
    ((x <<< 8) ||| b.setWidth w).toNat = b.toNat + 256 * x.toNat := by
  rw [BitVec.toNat_or, BitVec.toNat_shiftLeft, BitVec.toNat_setWidth_of_le hw, Nat.shiftLeft_eq, Nat.mod_eq_of_lt h,
    ← Nat.shiftLeft_eq, ← Nat.shiftLeft_add_eq_or_of_lt b.isLt, Nat.shiftLeft_eq]
  omega

/-- A line's bytes, read from memory, are the number that they hold. -/
theorem memRead_toNat (m : List Host.Cell) (k : Nat) {n : Nat} (h : n ≤ 64) : (memRead m k n).toNat = memNat m k n := by
  induction n generalizing k with
  | zero => simp [memRead, memNat]
  | succ n ih =>
    have hr : memNat m (k + 1) n * 2 ^ 8 < 256 ^ (n + 1) := by
      have := memNat_lt m (k + 1) n
      rw [Nat.pow_succ]
      omega
    have ih := ih (k + 1) (by omega)
    rw [memRead, shiftLeft_or_toNat _ _ (by decide) (ih ▸ Nat.lt_of_lt_of_le hr (pow_256_le h)), ih, memNat]

theorem byteMask_toNat {n : Nat} (h : n ≤ 64) : (byteMask n).toNat = 2 ^ (8 * n) - 1 := by
  have hlt : 2 ^ (8 * n) - 1 < 2 ^ (8 * n) := Nat.sub_lt (Nat.two_pow_pos _) Nat.one_pos
  rw [byteMask, BitVec.toNat_ofNat, Nat.mod_eq_of_lt]
  exact Nat.lt_of_lt_of_le hlt (Nat.pow_le_pow_right (by decide) (by omega))

theorem and_byteMask_toNat (x : Line) {n : Nat} (h : n ≤ 64) : (x &&& byteMask n).toNat = x.toNat % 256 ^ n := by
  rw [BitVec.toNat_and, byteMask_toNat h, Nat.and_two_pow_sub_one_eq_mod, Nat.pow_mul]

/-- The low bytes of a longer read. -/
theorem memRead_and_byteMask (m : List Host.Cell) (k : Nat) {j n : Nat} (hj : j ≤ n) (hn : n ≤ 64) :
    (memRead m k n &&& byteMask j).toNat = memNat m k j := by
  rw [and_byteMask_toNat _ (by omega), memRead_toNat m k hn, memNat_mod m k hj]

/-- A whole byte that a write covers takes the byte of the data. -/
theorem mixByte_byteMask (old : Byte) {i n : Nat} (data : Line) (hi : i < n) (hn : n ≤ 64) :
    mixByte old i data (byteMask n) = BitVec.ofNat 8 (data.toNat / 256 ^ i) := by
  have hm : ((byteMask n) >>> (8 * i)).setWidth 8 = BitVec.allOnes 8 := by
    apply BitVec.eq_of_getLsbD_eq
    intro j hj
    rw [BitVec.getLsbD_allOnes]
    have : 8 * i + j < 8 * n := by omega
    rw [BitVec.getLsbD_setWidth, BitVec.getLsbD_ushiftRight, BitVec.getLsbD, byteMask_toNat hn, Nat.testBit_two_pow_sub_one]
    simp [hj, this]
  rw [mixByte, hm, BitVec.not_allOnes, BitVec.and_zero, BitVec.zero_or, BitVec.and_allOnes]
  apply BitVec.eq_of_toNat_eq
  simp [BitVec.toNat_setWidth, Nat.shiftRight_eq_div_pow, Nat.pow_mul]

/-- A write of whole bytes leaves its data. -/
theorem memByte_memWrite_byteMask (m : List Host.Cell) (k : Nat) {i n : Nat} (data : Line) (hi : i < n) (hn : n ≤ 64) :
    memByte (memWrite m k n data (byteMask n)) (k + i) = BitVec.ofNat 8 (data.toNat / 256 ^ i) := by
  rw [memByte_memWrite_inside n m k i data _ hi, mixByte_byteMask _ _ hi hn]

theorem memNat_memWrite (m : List Host.Cell) (k : Nat) {n : Nat} (data : Line) (hn : n ≤ 64) :
    memNat (memWrite m k n data (byteMask n)) k n = data.toNat % 256 ^ n :=
  memNat_of_bytes fun _ hi => memByte_memWrite_byteMask m k data hi hn

/-! ## What an access leaves of the slots and cores -/

/-- A thread but for its producers, what it has heard and what its slot waits for. -/
def settled (th : Thread) : Thread := { th with producers := [], heard := 0, wait := .idle }

/-- From s to t cores and virtual interfaces are the same, and no slot has done more than hear, wake, or perform its loads. -/
structure Calm (s t : State) : Prop where
  cur : t.cur = s.cur
  cores : t.cores = s.cores
  vis : t.vis = s.vis
  settled : ∀ u, settled (t.thread u) = settled (s.thread u)

namespace Calm

theorem refl (s : State) : Calm s s := ⟨rfl, rfl, rfl, fun _ => rfl⟩

theorem trans {s t u : State} (h : Calm s t) (k : Calm t u) : Calm s u :=
  ⟨k.cur.trans h.cur, k.cores.trans h.cores, k.vis.trans h.vis, fun i => (k.settled i).trans (h.settled i)⟩

/-- A change beside the slots, the cores and the virtual interfaces. -/
theorem of_eq {s t : State} (hcur : t.cur = s.cur) (hthreads : t.threads = s.threads) (hcores : t.cores = s.cores)
    (hvis : t.vis = s.vis) : Calm s t :=
  ⟨hcur, hcores, hvis, fun u => by simp only [State.thread, hthreads]⟩

theorem setThread {s : State} {u : Nat} {th : Thread} (h : Laws.settled th = Laws.settled (s.thread u)) : Calm s (s.setThread u th) := by
  refine ⟨rfl, rfl, rfl, fun i => ?_⟩
  by_cases hi : i = u
  · rw [hi, State.thread_setThread_same, h]
  · rw [State.thread_setThread_other _ _ hi]

theorem foldl {α : Type} {f : State → α → State} (hf : ∀ s a, Calm s (f s a)) (l : List α) (s : State) : Calm s (l.foldl f s) := by
  induction l generalizing s with
  | nil => exact refl s
  | cons a l ih => exact (hf s a).trans (ih _)

section
variable {s t : State} (h : Calm s t)
include h

theorem core (c : Nat) : t.core c = s.core c := by simp only [State.core, h.cores]
theorem viOf (v : Nat) : t.viOf v = s.viOf v := by simp only [State.viOf, h.vis]
theorem myCore : t.myCore = s.myCore := by simp only [State.myCore, h.cur]
theorem present (u : Nat) : (t.thread u).present = (s.thread u).present := (congrArg Thread.present (h.settled u) :)
theorem vi (u : Nat) : (t.thread u).vi = (s.thread u).vi := (congrArg Thread.vi (h.settled u) :)
theorem th_settled : Laws.settled t.th = Laws.settled s.th := by rw [State.th, State.th, h.cur, h.settled]
theorem pc : t.th.pc = s.th.pc := (congrArg Thread.pc h.th_settled :)
theorem cwp : t.th.cwp = s.th.cwp := (congrArg Thread.cwp h.th_settled :)

theorem sealOf (u : Nat) : Machine.sealOf t u = Machine.sealOf s u := by simp only [Machine.sealOf, h.core]

/-- The issuing thread accesses as before. -/
theorem me : Machine.me t = Machine.me s := by
  have ht := h.settled s.cur
  have hc := congrArg Thread.cls ht
  have hv := congrArg Thread.vi ht
  have hm := congrArg Thread.mode ht
  simp only [Laws.settled] at hc hv hm
  simp only [Machine.me, whoThread, h.cur, h.sealOf, hc, hv, hm]

/-- A byte of a local store is reached as before. -/
theorem localReach (who : Who) (c off : Nat) : Machine.localReach t who c off = Machine.localReach s who c off := by
  simp only [Machine.localReach, viOnCore, running, monitorOnly, ctxOf, bankOpen, h.core, h.present, h.vi]

/-- Registers await producers as before. -/
theorem refBusy (r : RegRef) : Machine.refBusy t.th r = Machine.refBusy s.th r := by
  have ht := h.th_settled
  cases r with
  | scalar p => exact congrArg (fun th => (lookD th.scal p {}).busy) ht
  | vec n => exact congrArg (fun th => (lookD th.vec n {}).busy) ht
  | base n => exact congrArg (fun th => (lookD th.base n {}).busy) ht

theorem toDest (d : BitVec 5) (pair : Bool) (v : Nat) : Machine.toDest t d pair v = Machine.toDest s d pair v := by
  simp only [Machine.toDest, scalarRef, h.cwp]

theorem destRefs (d : BitVec 5) (pair : Bool) : Machine.destRefs t d pair = Machine.destRefs s d pair := by
  simp only [Machine.destRefs, scalarRef, h.cwp]

theorem unawaited {rs : List RegRef} (hu : Unawaited s rs) : Unawaited t rs := fun r hr => (h.refBusy r).trans (hu r hr)
end

end Calm

theorem settleWhere_calm (s : State) (core : Nat) (test : Late → Bool) : Calm s (settleWhere s core test) := by
  unfold settleWhere
  refine Calm.foldl (fun s i => ?_) _ s
  dsimp only
  split
  · exact Calm.setThread rfl
  · exact Calm.refl s

theorem settleLoads_calm (s : State) (core line : Nat) : Calm s (settleLoads s core line) := settleWhere_calm s core _
theorem settleCore_calm (s : State) (core : Nat) : Calm s (settleCore s core) := settleWhere_calm s core _

theorem hear_calm (s : State) (who : Who) (c : Nat) : Calm s (hear s who c) := by
  unfold hear
  split
  · exact Calm.setThread rfl
  · exact Calm.refl s

theorem raisePlace_calm (s : State) (place c : Nat) : Calm s (raisePlace s place c) := by
  unfold raisePlace
  split
  · exact Calm.of_eq rfl rfl rfl rfl
  · exact Calm.of_eq rfl rfl rfl rfl

theorem setWatchers_calm (s : State) (place : Nat) (l : List Sleeper) : Calm s (setWatchers s place l) := by
  unfold setWatchers
  split
  · exact Calm.of_eq rfl rfl rfl rfl
  · exact Calm.of_eq rfl rfl rfl rfl

theorem setParked_calm (s : State) (place : Nat) (l : List Sleeper) : Calm s (setParked s place l) := by
  unfold setParked
  split
  · exact Calm.of_eq rfl rfl rfl rfl
  · exact Calm.of_eq rfl rfl rfl rfl

theorem endWaita_calm (s : State) (t : Nat) (code : BitVec 32) (c : Nat) : Calm s (endWaita s t code c) := by
  unfold endWaita
  split
  · exact Calm.setThread rfl
  · exact Calm.refl s

theorem wakeWords_calm (s : State) (place : Nat) (keys : List Nat) (c : Nat) : Calm s (wakeWords s place keys c) := by
  unfold wakeWords
  dsimp only
  split
  · exact Calm.refl s
  · exact (setWatchers_calm ..).trans (Calm.foldl (fun s (w : Sleeper) => endWaita_calm s w.thread 0 c) _ _)

theorem setFe_calm (s : State) (place w : Nat) (full : Bool) : Calm s (setFe s place w full) := by
  unfold setFe
  split
  · exact Calm.refl s
  · exact Calm.of_eq rfl rfl rfl rfl

theorem settleWhere_storage (s : State) (core : Nat) (test : Late → Bool) : storage (settleWhere s core test) = storage s := by
  unfold settleWhere
  refine storage_foldl (fun s i => ?_) _ s
  dsimp only
  split <;> rfl

@[simp] theorem settleLoads_storage (s : State) (core line : Nat) : storage (settleLoads s core line) = storage s :=
  settleWhere_storage s core _
@[simp] theorem settleCore_storage (s : State) (core : Nat) : storage (settleCore s core) = storage s := settleWhere_storage s core _

@[simp] theorem setParked_storage (s : State) (place : Nat) (l : List Sleeper) : storage (setParked s place l) = storage s := by
  unfold setParked; split <;> rfl

theorem mem_of_storage {s t : State} (h : storage t = storage s) : t.mem = s.mem := congrArg (·.1) h
theorem empty_of_storage {s t : State} (h : storage t = storage s) : t.empty = s.empty := congrArg (·.2.1) h

/-- Loads that are performed change nothing beside threads. -/
theorem settleWhere_elsewhere (s : State) (core : Nat) (test : Late → Bool) :
    (settleWhere s core test).clusters = s.clusters ∧ (settleWhere s core test).bridge = s.bridge := by
  unfold settleWhere
  generalize List.range 8 = l
  induction l generalizing s with
  | nil => exact ⟨rfl, rfl⟩
  | cons i l ih =>
    rw [List.foldl_cons]
    refine ⟨(ih _).1.trans ?_, (ih _).2.trans ?_⟩ <;> (dsimp only; split <;> rfl)

theorem settleWhere_cluster (s : State) (core : Nat) (test : Late → Bool) (k : Nat) :
    (settleWhere s core test).cluster k = s.cluster k := by
  rw [State.cluster, State.cluster, (settleWhere_elsewhere s core test).1]

/-! ## A write at a place without write times -/

theorem writeThere_calm (s : State) (place key n : Nat) (data mask : Line) (c : Nat) : Calm s (writeThere s place key n data mask c) :=
  (Calm.of_eq (s := s) (t := { s with mem := memWrite s.mem key n data mask }) rfl rfl rfl rfl).trans
    ((raisePlace_calm _ place c).trans (wakeWords_calm ..))

theorem writeThere_mem (s : State) (place key n : Nat) (data mask : Line) (c : Nat) :
    (writeThere s place key n data mask c).mem = memWrite s.mem key n data mask :=
  mem_of_storage (s := { s with mem := memWrite s.mem key n data mask }) ((wakeWords_storage ..).trans (raisePlace_storage ..))

theorem writeThere_empty (s : State) (place key n : Nat) (data mask : Line) (c : Nat) :
    (writeThere s place key n data mask c).empty = s.empty :=
  empty_of_storage (s := { s with mem := memWrite s.mem key n data mask }) ((wakeWords_storage ..).trans (raisePlace_storage ..))

/-! ## Where an address of a local window leads -/

/-- An address that the window of core c's local store decodes, and that the requester reaches, leads there. -/
theorem resolve_local {s : State} {who : Who} {va : DWord} {c off : Nat} (k : Right)
    (hw : windowOff (s.viOf who.vi.toNat).lswin va = some (c * 2 ^ 18 + off)) (hc : c < 512) (ho : off < 2 ^ 18)
    (hr : localReach s who c off = true) : resolve s who k va = .ok (s, .localStore c off) := by
  have h1 : (c * 2 ^ 18 + off) / 2 ^ 18 = c := by omega
  have h2 : (c * 2 ^ 18 + off) % 2 ^ 18 = off := by omega
  have h3 : c * 2 ^ 18 + off < 2 ^ 27 := by omega
  simp only [resolve, hw, h1, h2, h3, hr, and_self, if_true]

theorem localKey_mod (c off : Nat) : localKey c off % 64 = off % 64 := by
  unfold localKey
  omega

theorem forward_of_empty {s : State} {who : Who} (va : DWord) (p : Place) (n : Nat) (need : Line)
    (h : (s.core who.core).buffer = []) : forward s who va p n need = .nothing := by
  unfold forward
  rw [h]
  rfl

theorem bufferTouches_of_empty {s : State} {who : Who} (va : DWord) (p : Place) (n : Nat) (h : (s.core who.core).buffer = []) :
    bufferTouches s who va p n = false := by
  unfold bufferTouches
  rw [h]
  rfl

/-- The state in which an access to core c's local store is performed at issue: every load of the issuing thread's core has been
performed, and the thread has heard of the clock there. -/
def reached (s : State) (c : Nat) : State := hear (settleCore s s.myCore) (me s) (s.cluster (clusterOf c)).clock

theorem told_calm (s : State) (c off : Nat) : Calm s (told s c off) := (settleLoads_calm ..).trans (hear_calm ..)
theorem reached_calm (s : State) (c : Nat) : Calm s (reached s c) := (settleCore_calm ..).trans (hear_calm ..)
theorem told_storage (s : State) (c off : Nat) : storage (told s c off) = storage s :=
  (hear_storage ..).trans (settleLoads_storage ..)
theorem reached_storage (s : State) (c : Nat) : storage (reached s c) = storage s := (hear_storage ..).trans (settleCore_storage ..)

theorem hear_bridge (s : State) (who : Who) (c : Nat) : (hear s who c).bridge = s.bridge := by
  unfold hear
  split <;> rfl

theorem clockAt_local (s : State) (c off : Nat) : clockAt s (Place.localStore c off).seat = (s.cluster (clusterOf c)).clock := by
  simp [clockAt, Place.seat]

/-- A read of a line of a local store that is not bad. -/
theorem readThere_local {s : State} {c off : Nat} (who : Who) (va : DWord)
    (hp : s.bridge.poisoned.contains (localKey c off / 64) = false) :
    readThere s who va (.localStore c off) =
      .ok (hear s who (s.cluster (clusterOf c)).clock, memRead s.mem (localKey c off) (64 - off % 64)) := by
  have hm : (hear s who (s.cluster (clusterOf c)).clock).mem = s.mem := mem_of_storage (hear_storage ..)
  unfold readThere
  simp only [clockAt_local]
  rw [hear_bridge, hm, show (Place.localStore c off).line = localKey c off / 64 from rfl, hp, show (Place.localStore c off).byte = off % 64 from localKey_mod c off]
  rfl

section
variable {s : State} {ea : DWord} {c off n : Nat} (h : LocalAccess s ea c off n)
include h

theorem localAccess_fits : off % 64 + n ≤ 64 := h.2.2.2.1

/-- The access leads to the local store in every state that calmly follows. -/
theorem localAccess_resolve {t : State} (ht : Calm s t) (k : Right) : resolve t (me s) k ea = .ok (t, .localStore c off) := by
  obtain ⟨hw, hc, ho, _, hr, _⟩ := h
  exact resolve_local k (by rw [ht.viOf]; exact hw) hc ho (by rw [ht.localReach]; exact hr)

/-- The bytes that a read of the place gives. -/
theorem localAccess_bytes : (memRead s.mem (localKey c off) (64 - off % 64) &&& byteMask n).toNat = memNat s.mem (localKey c off) n :=
  memRead_and_byteMask _ _ (by have := localAccess_fits h; omega) (by omega)

/-- No store of the core is buffered. -/
theorem localAccess_buffer {t : State} (ht : Calm s t) : (t.core (me s).core).buffer = [] := by
  obtain ⟨_, _, _, _, _, hb, _⟩ := h
  rw [ht.core]
  exact hb

/-- A read of the place after some loads of the core have been performed. -/
theorem localAccess_readThere (core : Nat) (test : Late → Bool) :
    readThere (settleWhere s core test) (me s) ea (.localStore c off) =
      .ok (hear (settleWhere s core test) (me s) (s.cluster (clusterOf c)).clock, memRead s.mem (localKey c off) (64 - off % 64)) := by
  obtain ⟨_, _, _, _, _, _, hp⟩ := h
  rw [readThere_local _ _ (by rw [(settleWhere_elsewhere s core test).2]; exact hp), settleWhere_cluster,
    mem_of_storage (settleWhere_storage s core test)]

/-- A load gives the bytes there. -/
theorem localAccess_load {scope : Nat} (hs : scope ≤ 2) :
    loadBytes s (me s) ea n scope = .ok (told s c off, memRead s.mem (localKey c off) (64 - off % 64) &&& byteMask n) := by
  have hb := localAccess_buffer h (settleLoads_calm s (me s).core (localKey c off / 64))
  have hread : readNear (settleLoads s (me s).core (localKey c off / 64)) (me s) ea (.localStore c off) n =
      .ok (told s c off, memRead s.mem (localKey c off) (64 - off % 64)) :=
    localAccess_readThere h (me s).core (fun l => l.place.line == localKey c off / 64)
  unfold loadBytes
  rw [localAccess_resolve h (Calm.refl s)]
  simp only [bind, Except.bind, forward_of_empty _ _ _ _ hb, Place.line, Place.key, hs, if_true]
  rw [hread]
  rfl

/-- Such a load is performed and tested at issue (R27). -/
theorem localAccess_lateLoad {t : State} (ht : Calm s t) (w ext : Nat) : lateLoad t ea w ext = none := by
  unfold lateLoad
  rw [ht.me, localAccess_resolve h ht]

/-- An update gives the number there and writes what it makes of it. -/
theorem localAccess_update (scope : Nat) {u : Update} {x : Nat} (hu : u.f (memNat s.mem (localKey c off) n) = some x) :
    updateAt s (me s) ea n scope u =
      .ok (writeOut (reached s c) (me s) (.localStore c off) n (BitVec.ofNat 512 x) (byteMask n), memNat s.mem (localKey c off) n) := by
  have hb := localAccess_buffer h (settleCore_calm s (me s).core)
  have hread : readThere (settleCore s (me s).core) (me s) ea (.localStore c off) =
      .ok (reached s c, memRead s.mem (localKey c off) (64 - off % 64)) :=
    localAccess_readThere h (me s).core (fun _ => true)
  unfold updateAt
  rw [localAccess_resolve h (Calm.refl s)]
  simp only [bind, Except.bind, bufferTouches_of_empty _ _ _ hb, hread, localAccess_bytes h, hu, Bool.false_eq_true, if_false]
  rfl

/-- An attempt of a full/empty instruction that has to wait changes nothing. -/
theorem localAccess_attempt_fails (hn : n = 4) (k : Right) (scope : Nat) {act : FeAct}
    (ha : act (feFull s.empty (localKey c off / 4)) = none) :
    feAttempt s (me s) ea k scope act = .ok (reached s c, none) := by
  subst hn
  have hb := localAccess_buffer h (settleCore_calm s (me s).core)
  have hread : readThere (settleCore s (me s).core) (me s) ea (.localStore c off) =
      .ok (reached s c, memRead s.mem (localKey c off) (64 - off % 64)) :=
    localAccess_readThere h (me s).core (fun _ => true)
  have he : (reached s c).empty = s.empty := empty_of_storage (reached_storage s c)
  unfold feAttempt
  rw [localAccess_resolve h (Calm.refl s)]
  simp only [bind, Except.bind, bufferTouches_of_empty _ _ _ hb, hread, Place.key, he, ha, Bool.false_eq_true, if_false]
  rfl

/-- What an attempt that need not wait leaves: it writes the word, where it writes one, and sets the bit. -/
def attempted (s : State) (c off : Nat) (w : Option Word) (b : Bool) : State :=
  setFe (if w.isSome then writeOut (reached s c) (me s) (.localStore c off) 4 ((w.getD 0).setWidth 512) (byteMask 4)
    else raisePlace (reached s c) (Place.localStore c off).seat ((me s).clock (reached s c)))
    (Place.localStore c off).seat (localKey c off / 4) b

theorem localAccess_attempt (hn : n = 4) (k : Right) (scope : Nat) {act : FeAct} {w : Option Word} {b : Bool}
    (ha : act (feFull s.empty (localKey c off / 4)) = some (w, b)) :
    ∃ old : Word, feAttempt s (me s) ea k scope act =
      .ok (attempted s c off w b, some (old, feFull s.empty (localKey c off / 4))) := by
  subst hn
  have hb := localAccess_buffer h (settleCore_calm s (me s).core)
  have hread : readThere (settleCore s (me s).core) (me s) ea (.localStore c off) =
      .ok (reached s c, memRead s.mem (localKey c off) (64 - off % 64)) :=
    localAccess_readThere h (me s).core (fun _ => true)
  have he : (reached s c).empty = s.empty := empty_of_storage (reached_storage s c)
  refine ⟨(memRead s.mem (localKey c off) (64 - off % 64)).setWidth 32, ?_⟩
  unfold feAttempt
  rw [localAccess_resolve h (Calm.refl s)]
  simp only [bind, Except.bind, bufferTouches_of_empty _ _ _ hb, hread, Place.key, he, ha, Bool.false_eq_true, if_false]
  rfl

end

/-! ## What an access writes to a local store -/

theorem writeOut_local (s : State) (who : Who) (c off n : Nat) (data mask : Line) :
    writeOut s who (.localStore c off) n data mask =
      writeThere s (Place.localStore c off).seat (localKey c off) n data mask (who.clock s) := rfl

theorem writeOut_local_calm (s : State) (who : Who) (c off n : Nat) (data mask : Line) :
    Calm s (writeOut s who (.localStore c off) n data mask) := writeThere_calm ..

theorem writeOut_local_mem (s : State) (who : Who) (c off n : Nat) (data mask : Line) :
    (writeOut s who (.localStore c off) n data mask).mem = memWrite s.mem (localKey c off) n data mask := writeThere_mem ..

theorem writeOut_local_empty (s : State) (who : Who) (c off n : Nat) (data mask : Line) :
    (writeOut s who (.localStore c off) n data mask).empty = s.empty := writeThere_empty ..

section
variable (s : State) (c off : Nat) (w : Option Word) (b : Bool)

theorem attempted_calm : Calm s (attempted s c off w b) := by
  refine (reached_calm s c).trans (Calm.trans ?_ (setFe_calm ..))
  split
  · exact writeOut_local_calm ..
  · exact raisePlace_calm ..

theorem attempted_bit : feFull (attempted s c off w b).empty (localKey c off / 4) = b := setFe_full ..

theorem attempted_bit_other {v : Nat} (h : v ≠ localKey c off / 4) :
    feFull (attempted s c off w b).empty v = feFull s.empty v := by
  rw [attempted, setFe_full_other _ _ _ h, ← empty_of_storage (reached_storage s c)]
  split
  · rw [writeOut_local_empty]
  · rw [empty_of_storage (raisePlace_storage ..)]

theorem attempted_none_mem : (attempted s c off none b).mem = s.mem := by
  rw [attempted, setFe_mem, if_neg (by simp), mem_of_storage (raisePlace_storage ..), mem_of_storage (reached_storage s c)]

theorem attempted_some_mem (v : Word) :
    (attempted s c off (some v) b).mem = memWrite s.mem (localKey c off) 4 (v.setWidth 512) (byteMask 4) := by
  rw [attempted, setFe_mem, if_pos Option.isSome_some, writeOut_local_mem, mem_of_storage (reached_storage s c)]
  rfl
end

/-! ## The parts that memory instructions share -/

theorem address_of_addressed {s : State} {x : BitVec 5} {g : BitVec 3} {imm : Int} {ea : DWord} (h : Addressed s x g imm ea)
    (z : BitVec 1) : address s x g z imm = .ok ea := by
  obtain ⟨i, b, hi, hb, rfl⟩ := h
  simp only [address, readT_of_source hi, readB_of_source hb, bind, Except.bind, effAddr]

theorem aligned_of_mod {s : State} {ea : DWord} {n : Nat} (h : ea.toNat % n = 0) : aligned s ea n = .ok () := by
  simp only [aligned, h, beq_self_eq_true, require_true]

theorem destFree_of_unawaited {s : State} {rs : List RegRef} (h : Unawaited s rs) : destFree s rs = .ok () := by
  have : rs.any (refBusy s.th) = false := List.any_eq_false.2 fun r hr => by simp [h r hr]
  simp only [destFree, this, Bool.not_false, waitFor_true]

theorem releaseIf_relaxed (scope : Nat) (s : State) : releaseIf 0 scope s = .ok s := rfl
theorem acquireIf_relaxed (s : State) : acquireIf 0 s = s := rfl

theorem toDest_reg {s : State} {d : BitVec 5} {pair : Bool} {v : Nat} {l : Landing} (h : l ∈ toDest s d pair v) :
    l.reg ∈ destRefs s d pair := by
  cases pair <;> simp only [toDest, destRefs, Bool.false_eq_true, if_false, if_true, List.mem_append, List.mem_map] at h ⊢
  · obtain ⟨r, hr, rfl⟩ := h
    exact hr
  · rcases h with ⟨r, hr, rfl⟩ | ⟨r, hr, rfl⟩
    · exact .inl hr
    · exact .inr hr

/-- A producer whose registers await none is on its way. -/
theorem launch_of_unawaited {s : State} {p : Producer} (h : Unawaited s (p.landings.map (·.reg))) : launch s p = .ok (launched s p) := by
  have hany : p.landings.any (fun l => refBusy s.th l.reg) = false :=
    List.any_eq_false.2 fun l hl => by simp [h l.reg (List.mem_map_of_mem hl)]
  unfold launch launched
  rw [hany, if_neg Bool.false_ne_true]
  split <;> rfl

/-- A value on its way to a destination that awaits none. -/
theorem launch_toDest {s t : State} {d : BitVec 5} {pair : Bool} (hc : Calm s t) (h : Unawaited s (destRefs s d pair)) (v : Nat) :
    launch t { landings := toDest t d pair v } = .ok (launched t { landings := toDest s d pair v }) := by
  rw [hc.toDest]
  refine launch_of_unawaited fun r hr => ?_
  obtain ⟨l, hl, rfl⟩ := List.mem_map.1 hr
  exact hc.unawaited h _ (toDest_reg hl)

theorem claim_pc (th : Thread) (r : RegRef) : (claim th r).pc = th.pc := by cases r <;> rfl

theorem launched_storage (s : State) (p : Producer) : storage (launched s p) = storage s := by
  unfold launched
  split <;> rfl

theorem launched_pc (s : State) (p : Producer) : (launched s p).th.pc = s.th.pc := by
  unfold launched
  split
  · rfl
  · rw [State.th_setTh]
    generalize s.th = th
    induction p.landings generalizing th with
    | nil => rfl
    | cons l ls ih => exact (ih _).trans (claim_pc th l.reg)

theorem retired_storage (s : State) (rs : List (BitVec 5)) (pc : DWord) : storage (retired s rs pc) = storage s :=
  (rfl : _ = storage (rs.foldl popPort s)).trans (storage_foldl popPort_storage rs s)

theorem retired_pc (s : State) (rs : List (BitVec 5)) (pc : DWord) : (retired s rs pc).th.pc = pc := by
  simp [retired]

theorem retired_producers (s : State) (rs : List (BitVec 5)) (pc : DWord) : (retired s rs pc).th.producers = s.th.producers := by
  simp [retired, popPorts_th]

end Sys2Proof.Laws
end

section
/-!
PROOF of O12. Loads, atomics and full/empty instructions in a core's local store, each through its access (`localAccess_load`,
`localAccess_update`, `localAccess_attempt`).
-/

namespace Sys2Proof.LocalStore

open Machine Spec Laws

/-! ## Loads (R222) -/

theorem load_local {s : State} {n ext : Nat} {pair : Bool} {d x : BitVec 5} {g : BitVec 3} {z : BitVec 1} {i : BitVec 12}
    {ea : DWord} {c off : Nat} (ha : Addressed s x g (i.toInt * n) ea) (hm : ea.toNat % n = 0) (h : LocalAccess s ea c off n)
    (hd : Unawaited s (destRefs s d pair)) :
    load n pair ext d x g z i s = .next (retired (launched (told s c off)
      { landings := toDest s d pair (loadValue ext (memNat s.mem (localKey c off) n)) }) [x] (s.th.pc + 4)) := by
  have hc := told_calm s c off
  simp only [load, address_of_addressed ha, aligned_of_mod hm, destFree_of_unawaited hd, localAccess_load h (Nat.le_refl 2), atIssue,
    localAccess_lateLoad h hc, launch_toDest hc hd, localAccess_bytes h, bind, Except.bind, finishKeeping_ok, completeReading_eq,
    launched_pc, hc.pc]

/-- A narrow value sign-extended, as R222 says it. -/
theorem loadValue_signed {w : Nat} (hw : 0 < w) (v : Nat) : loadValue w v = ((BitVec.ofNat w v).signExtend 32 : Word).toNat := by
  have h2 := Nat.two_pow_pred_add_two_pow_pred hw
  rw [loadValue, if_neg (by omega), BitVec.signExtend, BitVec.toNat_ofInt, BitVec.toInt_eq_toNat_cond, BitVec.toNat_ofNat, extend,
    unsigned, signed]
  by_cases hv : v % 2 ^ w < 2 ^ (w - 1)
  · rw [if_pos hv, if_pos (by omega)]
    norm_cast
  · rw [if_neg hv, if_neg (by omega)]
    norm_cast

theorem loads_local : ∀ s d x g z i c off, ∀ e ∈ loadForms, ∀ ea, Addressed s x g (i.toInt * e.2.1) ea → ea.toNat % e.2.1 = 0 →
    LocalAccess s ea c off e.2.1 → Unawaited s (destRefs s d e.2.2.1) →
    exec (e.1 d x g z i) s = .next (retired (launched (told s c off)
      { landings := toDest s d e.2.2.1 (e.2.2.2.1 (memNat s.mem (localKey c off) e.2.1)) }) [x] (s.th.pc + 4)) := by
  intro s d x g z i c off e he ea ha hm h hd
  simp only [loadForms, List.mem_cons, List.not_mem_nil, or_false] at he
  rcases he with rfl | rfl | rfl | rfl | rfl | rfl
  · exact (load_local ha hm h hd).trans (by rw [loadValue_signed (by decide)])
  · exact load_local ha hm h hd
  · exact (load_local ha hm h hd).trans (by rw [loadValue_signed (by decide)])
  · exact load_local ha hm h hd
  · exact load_local ha hm h hd
  · exact load_local ha hm h hd

/-! ## Atomics (R232, R233) -/

theorem amo_local {s : State} {f : Nat → Nat → Nat → Nat} {cr : Option Nat} {d x : BitVec 5} {g : BitVec 3} {z : BitVec 1}
    {scope : BitVec 3} {ea : DWord} {v : Word} {c off : Nat} (ha : Addressed s x g 0 ea) (hv : Source s d 0 v)
    (hm : ea.toNat % 4 = 0) (h : LocalAccess s ea c off 4) (hd : Unawaited s (destRefs s d false)) :
    ∃ t, Calm s t ∧
      t.mem = memWrite s.mem (localKey c off) 4 (BitVec.ofNat 512 (f 32 (memNat s.mem (localKey c off) 4) v.toNat % 2 ^ 32)) (byteMask 4) ∧
      t.empty = s.empty ∧
      amo f cr d x g z scope 0 0 s = .next (retired (launched t
        { landings := toDest s d false (memNat s.mem (localKey c off) 4) }) [x] (s.th.pc + 4)) := by
  generalize hx : f 32 (memNat s.mem (localKey c off) 4) v.toNat % 2 ^ 32 = y
  generalize ht : writeOut (reached s c) (me s) (.localStore c off) 4 (BitVec.ofNat 512 y) (byteMask 4) = t
  have hc : Calm s t := ht ▸ (reached_calm s c).trans (writeOut_local_calm ..)
  refine ⟨t, hc, ?_, ?_, ?_⟩
  · rw [← ht, writeOut_local_mem, mem_of_storage (reached_storage s c)]
  · rw [← ht, writeOut_local_empty, empty_of_storage (reached_storage s c)]
  · have hu := localAccess_update h scope.toNat
      (u := { f := fun m => some (f 32 m v.toNat % 2 ^ 32), cr := cr.map (fun o => (o, crFormats o false, v.toNat)) }) (congrArg some hx)
    rw [ht] at hu
    have hw : waitFor (!(destRefs s d false).any (refBusy s.th)) s = .ok () := destFree_of_unawaited hd
    simp only [amo, address_of_addressed ha, readPair, readP_of_source hv, aligned_of_mod hm, hw, releaseIf_relaxed, hu, atIssue,
      acquireIf_relaxed, launch_toDest hc hd, bind, Except.bind, finishKeeping_ok, completeReading_eq, launched_pc, hc.pc,
      show ((0 : BitVec 1) == 1) = false from rfl, Bool.false_eq_true, if_false]

/-- The old word is on its way to rd. -/
theorem launched_toDest_mem {s t : State} {d : BitVec 5} {v : Nat} (hd : d ≠ 0) :
    ∃ p ∈ (launched t { landings := toDest s d false v }).th.producers,
      p.landings = [{ reg := .scalar (scalarPlace s.th.cwp d.toNat), value := BitVec.ofNat 256 v }] := by
  have hl : toDest s d false v = [{ reg := .scalar (scalarPlace s.th.cwp d.toNat), value := BitVec.ofNat 256 v }] := by
    simp only [toDest, scalarRef, if_neg hd, Bool.false_eq_true, if_false, List.map_cons, List.map_nil]
  refine ⟨{ landings := toDest s d false v }, ?_, hl⟩
  simp [launched, hl]

/-- What a relaxed AMO of one word leaves. -/
theorem amo_effect {s : State} {f : Nat → Nat → Nat → Nat} {cr : Option Nat} {d x : BitVec 5} {g : BitVec 3} {z : BitVec 1}
    {scope : BitVec 3} {ea : DWord} {v : Word} {c off : Nat} (ha : Addressed s x g 0 ea) (hv : Source s d 0 v)
    (hm : ea.toNat % 4 = 0) (h : LocalAccess s ea c off 4) (hd : Unawaited s (destRefs s d false)) :
    ∃ t, amo f cr d x g z scope 0 0 s = .next t ∧
      memNat t.mem (localKey c off) 4 = f 32 (memNat s.mem (localKey c off) 4) v.toNat % 2 ^ 32 ∧
      SameMemoryBut s t (localKey c off) 4 ∧ t.empty = s.empty ∧
      (d ≠ 0 → ∃ p ∈ t.th.producers, p.landings =
        [{ reg := .scalar (scalarPlace s.th.cwp d.toNat), value := BitVec.ofNat 256 (memNat s.mem (localKey c off) 4) }]) := by
  obtain ⟨t, _, hmem, hempty, ht⟩ := amo_local (f := f) (cr := cr) (z := z) (scope := scope) ha hv hm h hd
  have hs := (retired_storage (launched t { landings := toDest s d false (memNat s.mem (localKey c off) 4) }) [x] (s.th.pc + 4)).trans
    (launched_storage ..)
  refine ⟨_, ht, ?_, ?_, ?_, fun hz => ?_⟩
  · rw [mem_of_storage hs, hmem, memNat_memWrite _ _ _ (by decide), BitVec.toNat_ofNat]
    generalize f 32 _ _ = y
    omega
  · intro j hj
    rw [mem_of_storage hs, hmem, memByte_memWrite_outside _ _ _ _ _ _ (by omega)]
  · rw [empty_of_storage hs, hempty]
  · rw [retired_producers]
    exact launched_toDest_mem hz

theorem amos_local : ∀ s d x g z c i off, ∀ e ∈ amoForms, ∀ ea v, Addressed s x g 0 ea → Source s d 0 v → ea.toNat % 4 = 0 →
    LocalAccess s ea i off 4 → Unawaited s (destRefs s d false) →
    ∃ t, exec (e.1 d x g z c 0 0) s = .next t ∧
      memNat t.mem (localKey i off) 4 = e.2.1 32 (memNat s.mem (localKey i off) 4) v.toNat % 2 ^ 32 ∧
      SameMemoryBut s t (localKey i off) 4 ∧ t.empty = s.empty ∧
      (d ≠ 0 → ∃ p ∈ t.th.producers, p.landings =
        [{ reg := .scalar (scalarPlace s.th.cwp d.toNat), value := BitVec.ofNat 256 (memNat s.mem (localKey i off) 4) }]) := by
  intro s d x g z c i off e he ea v ha hv hm h hd
  simp only [amoForms, List.mem_cons, List.not_mem_nil, or_false] at he
  rcases he with rfl | rfl | rfl | rfl | rfl | rfl | rfl | rfl | rfl
  all_goals
    dsimp only [exec]
    exact amo_effect ha hv hm h hd

/-! ## Full/empty instructions (R228) -/

/-- A full/empty instruction that is not waiting for another try makes an attempt. -/
theorem feWait_of_attempts {s : State} (h : Attempts s) (ea : DWord) (scope : Nat) (k : Right) (kind : BitVec 2) (act : FeAct)
    (fin : State → Word → Eff State) :
    feWait ea scope k kind act fin s = (atIssue true (feAttempt s (me s) ea k scope act) >>= fun x =>
      match x.2 with
      | some (old, _) => fin x.1 old
      | none => feFailed x.1 ea scope k kind) := by
  obtain ⟨hgap, hparked⟩ := h
  unfold feWait
  split
  · exact absurd ‹_› (hgap _)
  · exact absurd ‹_› (hparked _)
  · rfl

/-- After an attempt that fails the slot waits, for the gap or parked: the thread is where it was, and so is memory. -/
theorem feFailed_waits {s t : State} {ea : DWord} {c off n : Nat} (h : LocalAccess s ea c off n) (hc : Calm s t) (scope : Nat)
    (k : Right) (kind : BitVec 2) :
    ∃ u, feFailed t ea scope k kind = .error (.stall u) ∧ u.th.pc = s.th.pc ∧ storage u = storage t := by
  unfold feFailed
  dsimp only
  split
  · exact ⟨_, rfl, by rw [State.th_setTh]; exact hc.pc, rfl⟩
  · rw [hc.me, localAccess_resolve h hc]
    simp only [atIssue, bind, Except.bind]
    generalize (if (stashBank t (me t) ea).isSome then t.myCluster + 1 else registry _ t.myCluster scope) = place
    split
    · exact ⟨_, rfl, by rw [State.th_setTh]; exact (hc.trans (setParked_calm ..)).pc, setParked_storage ..⟩
    · exact ⟨_, rfl, by rw [State.th_setTh]; exact hc.pc, rfl⟩

section
variable {s : State} {d x : BitVec 5} {g : BitVec 3} {z : BitVec 1} {scope : BitVec 3} {f : BitVec 4} {ea : DWord} {c off : Nat}
  (ha : Addressed s x g (f.toNat * 4) ea) (hm : ea.toNat % 4 = 0) (h : LocalAccess s ea c off 4) (hw : Attempts s)
include ha hm h hw

/-- LDFE of a full word leaves it empty and goes on. -/
theorem ldfe_full (hd : Unawaited s (destRefs s d false)) (hfull : feFull s.empty (localKey c off / 4) = true) :
    ∃ t, exec (.ldfe d x g z scope 0 f) s = .next t ∧ feFull t.empty (localKey c off / 4) = false ∧
      (∀ w, w ≠ localKey c off / 4 → feFull t.empty w = feFull s.empty w) ∧ t.mem = s.mem ∧ t.th.pc = s.th.pc + 4 := by
  have hc := attempted_calm s c off none false
  obtain ⟨old, hatt⟩ := localAccess_attempt h rfl .modify scope.toNat (act := fun full => if full then some (none, !true) else none)
    (w := none) (b := false) (by rw [hfull]; rfl)
  have hs := (retired_storage (launched (attempted s c off none false) { landings := toDest s d false old.toNat }) [x]
    (s.th.pc + 4)).trans (launched_storage ..)
  have hexec : exec (.ldfe d x g z scope 0 f) s =
      .next (retired (launched (attempted s c off none false) { landings := toDest s d false old.toNat }) [x] (s.th.pc + 4)) := by
    change feLoad .modify 0 true d x g z scope 0 f s = _
    simp only [feLoad, address_of_addressed ha, aligned_of_mod hm, destFree_of_unawaited hd, feWait_of_attempts hw, hatt, atIssue,
      acquireIf_relaxed, launch_toDest hc hd, bind, Except.bind, finishKeeping_ok, completeReading_eq, launched_pc, hc.pc]
  refine ⟨_, hexec, ?_, fun w hne => ?_, ?_, retired_pc _ _ _⟩
  · rw [empty_of_storage hs, attempted_bit]
  · rw [empty_of_storage hs, attempted_bit_other _ _ _ _ _ hne]
  · rw [mem_of_storage hs, attempted_none_mem]

/-- LDFE of an empty word waits. -/
theorem ldfe_empty (hd : Unawaited s (destRefs s d false)) (hempty : feFull s.empty (localKey c off / 4) = false) :
    ∃ t, exec (.ldfe d x g z scope 0 f) s = .next t ∧ t.th.stalled = true ∧ t.th.pc = s.th.pc ∧ t.mem = s.mem ∧
      t.empty = s.empty := by
  have hatt := localAccess_attempt_fails h rfl .modify scope.toNat (act := fun full => if full then some (none, !true) else none)
    (by rw [hempty]; rfl)
  obtain ⟨u, hu, hpc, hs⟩ := feFailed_waits h (reached_calm s c) scope.toNat .modify 0
  have hs : storage (holdSlot (holdPorts u [x])) = storage s :=
    (holdSlot_storage _).trans ((holdPorts_storage ..).trans (hs.trans (reached_storage s c)))
  have hth : (holdPorts u [x]).th = u.th := by
    unfold holdPorts
    dsimp only
    split <;> rfl
  refine ⟨holdSlot (holdPorts u [x]), ?_, ?_, ?_, mem_of_storage hs, empty_of_storage hs⟩
  · change feLoad .modify 0 true d x g z scope 0 f s = _
    simp only [feLoad, address_of_addressed ha, aligned_of_mod hm, destFree_of_unawaited hd, feWait_of_attempts hw, hatt, atIssue, hu,
      bind, Except.bind, finishKeeping_stall]
  · rw [holdSlot, State.th_setTh]
  · rw [holdSlot, State.th_setTh, hth, hpc]

/-- STFE of an empty word writes it and leaves it full. -/
theorem stfe_empty {v : Word} (hv : Source s d (sameBefore x d) v) (hempty : feFull s.empty (localKey c off / 4) = false) :
    ∃ t, exec (.stfe d x g z scope 0 f) s = .next t ∧ feFull t.empty (localKey c off / 4) = true ∧
      (∀ w, w ≠ localKey c off / 4 → feFull t.empty w = feFull s.empty w) ∧
      memNat t.mem (localKey c off) 4 = v.toNat ∧ SameMemoryBut s t (localKey c off) 4 ∧ t.th.pc = s.th.pc + 4 := by
  have hc := attempted_calm s c off (some v) true
  obtain ⟨old, hatt⟩ := localAccess_attempt h rfl .modify scope.toNat
    (act := fun full => if full && true then none else some (some v, true)) (w := some v) (b := true) (by rw [hempty]; rfl)
  have hs := retired_storage (attempted s c off (some v) true) [x, d] (s.th.pc + 4)
  have hexec : exec (.stfe d x g z scope 0 f) s = .next (retired (attempted s c off (some v) true) [x, d] (s.th.pc + 4)) := by
    change feStore true d x g z scope 0 f s = _
    simp only [feStore, address_of_addressed ha, earlierReads_one, readP_of_source hv, aligned_of_mod hm, releaseIf_relaxed,
      feWait_of_attempts hw, hatt, atIssue, bind, Except.bind, finishKeeping_ok, completeReading_eq, hc.pc]
  refine ⟨_, hexec, ?_, fun w hne => ?_, ?_, fun j hj => ?_, retired_pc _ _ _⟩
  · rw [empty_of_storage hs, attempted_bit]
  · rw [empty_of_storage hs, attempted_bit_other _ _ _ _ _ hne]
  · rw [mem_of_storage hs, attempted_some_mem, memNat_memWrite _ _ _ (by decide), BitVec.toNat_setWidth_of_le (by decide)]
    exact Nat.mod_eq_of_lt v.isLt
  · rw [mem_of_storage hs, attempted_some_mem, memByte_memWrite_outside _ _ _ _ _ _ (by omega)]

end

/-- Settles O12: each access resolves to the core's local store, where it is performed at issue. -/
theorem localStoreEffects : Obligations.LocalStoreEffects :=
  ⟨loads_local, amos_local,
    fun _ _ _ _ _ _ _ _ _ _ ha hm h hw hd => ⟨ldfe_full ha hm h hw hd, ldfe_empty ha hm h hw hd⟩,
    fun _ _ _ _ _ _ _ _ _ _ _ ha hm h hw hv hempty => stfe_empty ha hm h hw hv hempty⟩

end Sys2Proof.LocalStore
end

section
/-!
SUPPORT. Memory whose storage is as it was reads as before.
-/

namespace Sys2Proof.Laws

open Machine Spec

theorem sameMemory_of_storage {s t : State} (h : storage t = storage s) : SameMemory s t :=
  ⟨fun _ => by rw [mem_of_storage h], fun _ => by rw [empty_of_storage h]⟩

end Sys2Proof.Laws
end

section
/-!
PROOF of O16. The head of a store buffer is performed where its window leads (`performEntry_local`); a producer's landings fill its
registers and touch nothing else of its thread (`landed`).
-/

namespace Sys2Proof.Arrival

open Machine Spec Laws

/-! ## The entry leaves the buffer (R223) -/

/-- The entry is gone from its core's buffer, and storage is as it was. -/
theorem popEntry_frame (s : State) (core i : Nat) :
    ((popEntry s core i).core core).buffer = removeAt (s.core core).buffer i ∧ storage (popEntry s core i) = storage s := by
  unfold popEntry
  dsimp only
  generalize List.range 8 = slots
  generalize hu : s.setCore core _ = u
  obtain ⟨hb, hs⟩ : (u.core core).buffer = removeAt (s.core core).buffer i ∧ storage u = storage s := by
    rw [← hu, State.core_setCore_same]
    exact ⟨rfl, rfl⟩
  rw [← hb, ← hs]
  clear hu hb hs
  induction slots generalizing u with
  | nil => exact ⟨rfl, rfl⟩
  | cons j slots ih =>
    obtain ⟨hb, hs⟩ := ih _
    rw [List.foldl_cons]
    refine ⟨hb.trans ?_, hs.trans ?_⟩ <;> (split <;> rfl)

/-! ## The entry is performed (R93) -/

section
variable {s : State} {core : Nat} {e : StoreEntry} {c off : Nat}

/-- A plain store that has not set out is performed in the local store its window leads to. -/
theorem performEntry_local (hkind : e.kind = .plain) (hfixed : e.fixedAt = none) (haway : e.away = none) (hcut : e.cut = false)
    (hmask : e.mask = byteMask e.n) (hw : windowOff (s.viOf e.vi.toNat).lswin e.va = some (c * 2 ^ 18 + off)) (hc : c < 512)
    (ho : off < 2 ^ 18) (hr : localReach s (entryWho core e) c off = true) :
    performEntry s core e = .ok (writeOut s (entryWho core e) (.localStore c off) e.n e.data (byteMask e.n)) := by
  have hres := resolve_local (who := entryWho core e) .write hw hc ho hr
  simp only [performEntry, hcut, hkind, performStore, haway, hfixed, hres, bind, Except.bind, performAt, writeBytes, hmask,
    BitVec.and_self, Bool.false_eq_true, if_false]

/-- The oldest entry drains once it is performed and leaves the buffer. -/
theorem storeDrain_of_performed {core : BitVec 9} {t : State} {rest : List StoreEntry}
    (hbuf : (s.core core.toNat).buffer = e :: rest) (haway : e.away = none) (hheld : drainHeld s core.toNat = false)
    (hp : performEntry s core.toNat e = .ok t) :
    exec (.storeDrain core) s = .next (handLines (popEntry t core.toNat 0) core.toNat) := by
  have hnext : nextEntry s core.toNat = some (0, e) := by simp [nextEntry, hbuf, findIdxFrom, haway]
  have hmay : mayPerform s core.toNat 0 e = true := by simp [mayPerform]
  change execStoreDrain core s = _
  simp only [execStoreDrain, drainHead, hnext, hmay, hheld, drainEntry, hp, Bool.not_false, Bool.and_self, if_true]

end

theorem storeDrain_local : ∀ s (core : BitVec 9) e rest c off, (s.core core.toNat).buffer = e :: rest → e.kind = .plain →
    e.fixedAt = none → e.feBit = none → e.rel = false → e.away = none → e.cut = false → e.n ≤ 8 → e.mask = byteMask e.n →
    windowOff (s.viOf e.vi.toNat).lswin e.va = some (c * 2 ^ 18 + off) → c < 512 → off < 2 ^ 18 →
    localReach s (entryWho core.toNat e) c off = true → drainHeld s core.toNat = false →
    ∃ t, exec (.storeDrain core) s = .next (handLines t core.toNat) ∧ (t.core core.toNat).buffer = rest ∧
      (∀ i < e.n, memByte t.mem (localKey c off + i) = BitVec.ofNat 8 (e.data.toNat / 2 ^ (8 * i))) ∧
      SameMemoryBut s t (localKey c off) e.n ∧ t.empty = s.empty := by
  intro s core e rest c off hbuf hkind hfixed _ _ haway hcut hn hmask hw hc ho hr hheld
  have hp := performEntry_local hkind hfixed haway hcut hmask hw hc ho hr
  generalize hu : writeOut s (entryWho core.toNat e) (.localStore c off) e.n e.data (byteMask e.n) = u at hp
  have hcalm : Calm s u := hu ▸ writeOut_local_calm ..
  obtain ⟨hb, hs⟩ := popEntry_frame u core.toNat 0
  have hmem : (popEntry u core.toNat 0).mem = memWrite s.mem (localKey c off) e.n e.data (byteMask e.n) := by
    rw [mem_of_storage hs, ← hu, writeOut_local_mem]
  refine ⟨_, storeDrain_of_performed hbuf haway hheld hp, ?_, fun i hi => ?_, fun j hj => ?_, ?_⟩
  · rw [hb, hcalm.core, hbuf]
    rfl
  · rw [hmem, memByte_memWrite_byteMask _ _ _ hi (by omega), Nat.pow_mul]
  · rw [hmem, memByte_memWrite_outside _ _ _ _ _ _ (by omega)]
  · rw [empty_of_storage hs, ← hu, writeOut_local_empty]

/-! ## A producer arrives (R104) -/

/-- A landing changes nothing of its thread but a register. -/
theorem land_frame (th : Thread) (l : Landing) : (land th l).fflags = th.fflags ∧ (land th l).producers = th.producers := by
  unfold land
  split <;> exact ⟨rfl, rfl⟩

theorem foldl_land_frame (ls : List Landing) (th : Thread) :
    (ls.foldl land th).fflags = th.fflags ∧ (ls.foldl land th).producers = th.producers := by
  induction ls generalizing th with
  | nil => exact ⟨rfl, rfl⟩
  | cons l ls ih =>
    obtain ⟨hf, hp⟩ := ih (land th l)
    obtain ⟨hlf, hlp⟩ := land_frame th l
    exact ⟨hf.trans hlf, hp.trans hlp⟩

/-- A whole value that lands in a scalar register fills it. -/
theorem land_scalar (th : Thread) (place : Nat) (v : BitVec 256) :
    lookD (land th { reg := .scalar place, value := v }).scal place {} =
      { val := BitVec.ofNat 32 v.toNat, full := true, busy := false } := by
  have hones : (BitVec.allOnes 256).setWidth 32 = BitVec.allOnes 32 := by decide
  simp only [land, lookD_put_same, hones, BitVec.not_allOnes, BitVec.and_zero, BitVec.zero_or, BitVec.and_allOnes]
  rfl

/-- The thread once producer k has landed. -/
def landed (th : Thread) (k : Nat) (p : Producer) : Thread :=
  let th := p.landings.foldl land { th with producers := removeAt th.producers k }
  { th with fflags := th.fflags ||| p.flags }

/-- A producer that is ready arrives: its thread has it landed, and storage is as it was. -/
theorem arrive_ready {s : State} {n k : Nat} {p : Producer} (hk : (s.thread n).producers[k]? = some p) (hready : p.ready = true)
    (hgeom : p.geom = none) :
    ∃ t, arrive s n k = some t ∧ t.thread n = landed (s.thread n) k p ∧ storage t = storage s := by
  unfold arrive
  simp only [hk, hready, hgeom, if_true]
  refine ⟨_, rfl, State.thread_setThread_same _ _ _, ?_⟩
  split <;> rfl

theorem producerArrival_lands : ∀ s (n : BitVec 12) k p, (s.thread n.toNat).producers[k]? = some p → p.ready = true →
    p.geom = none → ∃ t, exec (.producerArrival n k) s = .next t ∧
      (t.thread n.toNat).fflags = (s.thread n.toNat).fflags ||| p.flags ∧ SameMemory s t ∧
      (t.thread n.toNat).producers = (s.thread n.toNat).producers.take k ++ (s.thread n.toNat).producers.drop (k + 1) ∧
      ∀ place v, p.landings = [{ reg := .scalar place, value := v }] →
        lookD (t.thread n.toNat).scal place {} = { val := BitVec.ofNat 32 v.toNat, full := true, busy := false } := by
  intro s n k p hk hready hgeom
  obtain ⟨t, ht, hth, hs⟩ := arrive_ready hk hready hgeom
  obtain ⟨hflags, hproducers⟩ := foldl_land_frame p.landings
    { s.thread n.toNat with producers := removeAt (s.thread n.toNat).producers k }
  have hexec : exec (.producerArrival n k) s = .next t := by
    change execProducerArrival n k s = _
    rw [execProducerArrival, ht]
  refine ⟨t, hexec, ?_, sameMemory_of_storage hs, ?_, fun place v hl => ?_⟩
  · rw [hth]
    exact congrArg (· ||| p.flags) hflags
  · rw [hth]
    exact hproducers
  · rw [hth, landed, hl]
    exact land_scalar _ place v

/-- Settles O16: the head of the buffer is performed in the local store and leaves; a producer lands. -/
theorem arrivalsAndDrains : Obligations.ArrivalsAndDrains := ⟨storeDrain_local, producerArrival_lands⟩

end Sys2Proof.Arrival
end

section
/-!
SUPPORT. Destinations after an acquire and after waits have ended, the registration pools, and the queues of reserved lines.
-/

namespace Sys2Proof.Laws

open Machine Spec

/-! ## Destinations and the clock -/

/-- A calm change leaves a destination as ready as it was. -/
theorem Calm.accepts {s t : State} (h : Calm s t) {d : BitVec 5} (ha : Accepts s d) : Accepts t d := by
  have hscal : t.th.scal = s.th.scal := (congrArg Thread.scal h.th_settled :)
  unfold Accepts at ha ⊢
  simpa only [h.myCore, h.core, Thread.scalar, hscal, h.cwp] using ha

/-- A clock that is raised leaves a core's ports and segment. -/
theorem raiseClock_core (s : State) (core c j : Nat) :
    ((raiseClock s core c).core j).ports = (s.core j).ports ∧ ((raiseClock s core c).core j).rseg = (s.core j).rseg := by
  unfold raiseClock
  by_cases h : j = core
  · rw [h, State.core_setCore_same]
    exact ⟨rfl, rfl⟩
  · rw [State.core_setCore_other _ _ h]
    exact ⟨rfl, rfl⟩

/-- An acquire leaves a destination as ready as it was. -/
theorem acquireIf_accepts {s : State} {d : BitVec 5} (h : Accepts s d) (r : BitVec 2) : Accepts (acquireIf r s) d := by
  unfold acquireIf
  split
  · have hports := fun c j => (raiseClock_core s s.myCore c j).1
    have hrseg := fun c j => (raiseClock_core s s.myCore c j).2
    unfold Accepts at h ⊢
    have hcur (c : Nat) : (raiseClock s s.myCore c).myCore = s.myCore := rfl
    have hth (c : Nat) : (raiseClock s s.myCore c).th = s.th := rfl
    simpa only [acquire, hcur, hth, hports, hrseg] using h
  · exact h

theorem acquireIf_pc (s : State) (r : BitVec 2) : (acquireIf r s).th.pc = s.th.pc := by
  unfold acquireIf
  split <;> rfl

/-- A release that need not wait is made. -/
theorem releaseIf_of_mayRelease {s : State} {r : BitVec 2} (h : MayRelease s r) (scope : Nat) :
    releaseIf r scope s = .ok (ordered s r scope) := by
  unfold releaseIf ordered releases
  split
  · next hr =>
    obtain ⟨hbuf, hcopies⟩ := h hr
    have hdrained : drained s s.cur = true := List.all_eq_true.2 fun e he => by simpa using hbuf e he
    simp only [release, hdrained, hcopies, Bool.and_self, waitFor_true, bind, Except.bind]
    rfl
  · rfl

/-! ## Registration pools (R241) -/

theorem watchersAt_setWatchers (s : State) (place : Nat) (l : List Sleeper) : watchersAt (setWatchers s place l) place = l := by
  unfold watchersAt setWatchers
  split
  · rfl
  · rw [State.cluster_setCluster_same]

theorem setWatchers_thread (s : State) (place : Nat) (l : List Sleeper) (u : Nat) :
    (setWatchers s place l).thread u = s.thread u := by
  unfold setWatchers
  split <;> rfl

theorem setWatchers_notices (s : State) (place : Nat) (l : List Sleeper) :
    (setWatchers s place l).bridge.notices = s.bridge.notices := by
  unfold setWatchers
  split <;> rfl

theorem watchersAt_congr {s t : State} (hc : t.clusters = s.clusters) (hb : t.bridge = s.bridge) (place : Nat) :
    watchersAt t place = watchersAt s place := by
  simp only [watchersAt, State.cluster, hc, hb]

theorem watchersAt_setTh (s : State) (th : Thread) (place : Nat) : watchersAt (s.setTh th) place = watchersAt s place := rfl

/-! ## Waits that end (R241) -/

/-- An ended wait changes one slot alone. -/
theorem endWaita_elsewhere (s : State) (t : Nat) (code : BitVec 32) (c : Nat) :
    (endWaita s t code c).clusters = s.clusters ∧ (endWaita s t code c).bridge = s.bridge := by
  unfold endWaita
  split <;> exact ⟨rfl, rfl⟩

theorem endWaita_wait (s : State) {t : Nat} (ht : t < 4096) (code : BitVec 32) (c : Nat) :
    ((endWaita s t code c).thread t).wait = .waitaDone code := by
  rw [endWaita, if_pos (show t < Config.threads from ht), State.thread_setThread_same]

theorem endWaita_other (s : State) {t u : Nat} (h : u ≠ t) (code : BitVec 32) (c : Nat) :
    (endWaita s t code c).thread u = s.thread u := by
  unfold endWaita
  split
  · exact State.thread_setThread_other _ _ h
  · rfl

/-- The waits of some waiters end with code 0, by an event whose time the state says. -/
def wakeAll (clock : State → Nat) (l : List Sleeper) (s : State) : State :=
  l.foldl (fun s w => endWaita s w.thread 0 (clock s)) s

theorem wakeAll_calm (clock : State → Nat) (l : List Sleeper) (s : State) : Calm s (wakeAll clock l s) :=
  Calm.foldl (fun s (w : Sleeper) => endWaita_calm s w.thread 0 (clock s)) l s

theorem wakeAll_storage (clock : State → Nat) (l : List Sleeper) (s : State) : storage (wakeAll clock l s) = storage s :=
  storage_foldl (fun s (w : Sleeper) => endWaita_storage s w.thread 0 (clock s)) l s

theorem wakeAll_elsewhere (clock : State → Nat) (l : List Sleeper) (s : State) :
    (wakeAll clock l s).clusters = s.clusters ∧ (wakeAll clock l s).bridge = s.bridge := by
  induction l generalizing s with
  | nil => exact ⟨rfl, rfl⟩
  | cons w l ih =>
    obtain ⟨hc, hb⟩ := endWaita_elsewhere s w.thread 0 (clock s)
    exact ⟨(ih _).1.trans hc, (ih _).2.trans hb⟩

theorem wakeAll_other (clock : State → Nat) {l : List Sleeper} {u : Nat} (h : ∀ w ∈ l, w.thread ≠ u) (s : State) :
    (wakeAll clock l s).thread u = s.thread u := by
  induction l generalizing s with
  | nil => rfl
  | cons w l ih =>
    exact (ih (fun v hv => h v (List.mem_cons_of_mem _ hv)) _).trans (endWaita_other s (h w List.mem_cons_self).symm 0 _)

theorem wakeAll_wait (clock : State → Nat) {l : List Sleeper} {w : Sleeper} (hw : w ∈ l) (ht : w.thread < 4096) (s : State) :
    ((wakeAll clock l s).thread w.thread).wait = .waitaDone 0 := by
  induction l generalizing s w with
  | nil => exact absurd hw List.not_mem_nil
  | cons v l ih =>
    by_cases hl : ∃ x ∈ l, x.thread = w.thread
    · obtain ⟨x, hx, he⟩ := hl
      rw [← he] at ht ⊢
      exact ih hx ht _
    · have hv : v.thread = w.thread := by
        rcases List.mem_cons.1 hw with rfl | hw
        · rfl
        · exact absurd ⟨w, hw, rfl⟩ hl
      have hother := wakeAll_other clock (u := w.thread) (fun x hx he => hl ⟨x, hx, he⟩) (endWaita s v.thread 0 (clock s))
      rw [wakeAll, List.foldl_cons, ← wakeAll, hother, hv, endWaita_wait _ ht]

/-- Waiters of a pool leave it and their waits end. -/
def wakeFrom (clock : State → Nat) (s : State) (place : Nat) (l : List Sleeper) : State :=
  wakeAll clock l (setWatchers s place ((watchersAt s place).filter (fun w => !l.contains w)))

section
variable (clock : State → Nat) (s : State) (place : Nat) (l : List Sleeper)

theorem wakeFrom_calm : Calm s (wakeFrom clock s place l) := (setWatchers_calm ..).trans (wakeAll_calm ..)

theorem wakeFrom_storage : storage (wakeFrom clock s place l) = storage s := (wakeAll_storage ..).trans (setWatchers_storage ..)

theorem wakeFrom_watchers : watchersAt (wakeFrom clock s place l) place = (watchersAt s place).filter (fun w => !l.contains w) := by
  obtain ⟨hc, hb⟩ := wakeAll_elsewhere clock l (setWatchers s place ((watchersAt s place).filter (fun w => !l.contains w)))
  rw [wakeFrom, watchersAt_congr hc hb, watchersAt_setWatchers]

theorem wakeFrom_notices : (wakeFrom clock s place l).bridge.notices = s.bridge.notices := by
  rw [wakeFrom, (wakeAll_elsewhere ..).2, setWatchers_notices]

theorem wakeFrom_other {u : Nat} (h : ∀ w ∈ l, w.thread ≠ u) : (wakeFrom clock s place l).thread u = s.thread u := by
  rw [wakeFrom, wakeAll_other _ h, setWatchers_thread]

theorem wakeFrom_wait {w : Sleeper} (hw : w ∈ l) (ht : w.thread < 4096) :
    ((wakeFrom clock s place l).thread w.thread).wait = .waitaDone 0 := wakeAll_wait clock hw ht _

/-- A waiter that was woken is in the pool no more. -/
theorem not_mem_wakeFrom {w : Sleeper} (hw : w ∈ l) : w ∉ watchersAt (wakeFrom clock s place l) place := by
  rw [wakeFrom_watchers]
  intro h
  have := (List.mem_filter.1 h).2
  simp [hw] at this
end

/-! ## The queues of reserved lines (R236 to R238) -/

theorem rsvQueue_setRsvQueue (s : State) (place line : Nat) (q : RsvQueue) : rsvQueue (setRsvQueue s place line q) place line = q := by
  by_cases hp : place = 0 <;> by_cases hq : q = {} <;> simp [rsvQueue, setRsvQueue, hp, hq]

theorem setRsvQueue_threads (s : State) (place line : Nat) (q : RsvQueue) :
    (setRsvQueue s place line q).threads = s.threads ∧ (setRsvQueue s place line q).saved = s.saved := by
  unfold setRsvQueue
  dsimp only
  split <;> exact ⟨rfl, rfl⟩

/-- References name the same threads where slots and saved threads are the same. -/
theorem byRef_congr {s t : State} (h : t.threads = s.threads ∧ t.saved = s.saved) (r : Nat) : t.byRef r = s.byRef r := by
  obtain ⟨ht, hs⟩ := h
  rw [State.byRef, State.byRef, State.live, State.live, State.thread, State.thread, ht, hs]

theorem live_congr {s t : State} (h : t.threads = s.threads) (r : Nat) : t.live r = s.live r := by
  simp only [State.live, State.thread, h]

/-- A grant changes no thread. -/
theorem grantNext_threads (s : State) (place line : Nat) :
    (grantNext s place line).threads = s.threads ∧ (grantNext s place line).saved = s.saved := by
  unfold grantNext
  dsimp only
  split
  · exact ⟨rfl, rfl⟩
  · split
    · exact setRsvQueue_threads ..
    · exact ⟨rfl, rfl⟩

/-- After a grant the line is held as before, or by one that waited. -/
theorem grantNext_holder (s : State) (place line : Nat) {h : Nat × Option Nat}
    (hh : (rsvQueue (grantNext s place line) place line).holder = some h) :
    (rsvQueue s place line).holder = some h ∨ h.1 ∈ (rsvQueue s place line).waiters := by
  unfold grantNext at hh
  dsimp only at hh
  split at hh
  · exact .inl hh
  · split at hh
    · next t ht =>
      rw [grantTo, rsvQueue_setRsvQueue] at hh
      obtain rfl := Option.some.inj hh
      exact .inr (List.mem_of_find?_eq_some ht)
    · exact .inl hh

/-- A queue without a thread, whether it held the line or waited for it. -/
def queueWithout (q : RsvQueue) (r : Nat) : RsvQueue :=
  { holder := if q.holder.any (fun h => h.1 == r) then none else q.holder, waiters := q.waiters.filter (· != r) }

theorem queueWithout_holder {q : RsvQueue} {r : Nat} {h : Nat × Option Nat} (hh : (queueWithout q r).holder = some h) : h.1 ≠ r := by
  rw [queueWithout] at hh
  dsimp only at hh
  split at hh
  · exact absurd hh (by simp)
  · next hn =>
    rintro rfl
    exact hn (by simp [hh])

theorem queueWithout_waiters {q : RsvQueue} {r t : Nat} (h : t ∈ (queueWithout q r).waiters) : t ≠ r := by
  simpa using (List.mem_filter.1 h).2

/-- A thread that has left a queue, before the line goes on. -/
def departed (s : State) (place line r : Nat) : State :=
  (setRsvQueue s place line (queueWithout (rsvQueue s place line) r)).updRef r (fun th => { th with rsv := .free })

theorem leaveQueue_eq (s : State) (place line r : Nat) : leaveQueue s place line r = grantNext (departed s place line r) place line := rfl

section
variable {s : State} {place line r : Nat} (h : s.live r = true)
include h

/-- A change of a thread in its slot. -/
theorem updRef_live (f : Thread → Thread) : s.updRef r f = s.setThread (r % 4096) (f (s.thread (r % 4096))) := if_pos h

theorem setRsvQueue_live (q : RsvQueue) : (setRsvQueue s place line q).live r = true :=
  (live_congr (setRsvQueue_threads s place line q).1 r).trans h

theorem departed_queue : rsvQueue (departed s place line r) place line = queueWithout (rsvQueue s place line) r := by
  rw [departed, updRef_live (setRsvQueue_live h _)]
  exact rsvQueue_setRsvQueue ..

theorem departed_free : ((departed s place line r).byRef r).rsv = .free := by
  have hl := setRsvQueue_live (place := place) (line := line) h (queueWithout (rsvQueue s place line) r)
  rw [departed, updRef_live hl, State.byRef, if_pos, State.thread_setThread_same]
  rw [State.live, State.thread_setThread_same]
  exact hl

/-- A thread that leaves a queue has no reservation. -/
theorem leaveQueue_free : ((leaveQueue s place line r).byRef r).rsv = .free := by
  rw [leaveQueue_eq, byRef_congr (grantNext_threads ..), departed_free h]

/-- A thread that leaves a queue does not hold the line. -/
theorem leaveQueue_holder {k : Nat × Option Nat} (hk : (rsvQueue (leaveQueue s place line r) place line).holder = some k) :
    k.1 ≠ r := by
  rw [leaveQueue_eq] at hk
  have hnext := grantNext_holder _ _ _ hk
  rw [departed_queue h] at hnext
  exact hnext.elim queueWithout_holder queueWithout_waiters
end

end Sys2Proof.Laws
end

section
/-!
PROOF of O21. WAITA by what its word and deadline answer (`waita_answers`, `waita_sleeps`, `waita_polls`), WAKEA and the host's wake
by the waits they end (`wakeFrom`), and the events that end waits and holds.
-/

namespace Sys2Proof.AddressWaits

open Machine Spec Laws

/-! ## WAITA (R240, R242) -/

/-- What a WAITA does once it has read its word. -/
def waitaRest (s : State) (d x : BitVec 5) (c : BitVec 3) (r : BitVec 2) (p : Place) (place : Nat) (v want : Word) : Eff State :=
  match waitaNow s p v want with
  | some code => writeX (acquireIf r s) d code >>= fun t => .ok (completeReading t [x, d])
  | none =>
    if poolRoom (watchersAt s place) place p.key then
      .error (.stall ((setWatchers s place (watchersAt s place ++
        [{ thread := s.cur, key := p.key, kind := 3, sys := c == 4 }])).setTh { s.th with wait := .waitaAsleep }))
    else .error (.stall (s.setTh { s.th with wait := .waitaPolling }))

section
variable {s s1 s2 : State} {d x : BitVec 5} {g : BitVec 3} {z : BitVec 1} {c : BitVec 3} {r : BitVec 2} {f : BitVec 4} {ea : DWord}
  {want v : Word} {p : Place} {place : Nat}

theorem waita_reads (ha : Addressed s x g (f.toNat * 4) ea) (hm : ea.toNat % 4 = 0) (hs : Source s d (sameBefore x d) want)
    (hd : Unawaited s (destRefs s d false)) (hi : s.th.wait = .idle) (hp : rsvPlace s ea .read c.toNat = .ok (s1, p, place))
    (hv : placeWord s1 ea p c.toNat = .ok (s2, v)) :
    exec (.waita d x g z c r f) s = finishKeeping [x, d] (waitaRest s2 d x c r p place v want) := by
  change execWaita d x g z c r f s = _
  simp only [execWaita, hi, address_of_addressed ha, earlierReads_one, readP_of_source hs, aligned_of_mod hm,
    destFree_of_unawaited hd, hp, hv, bind, Except.bind]
  rfl

theorem waitaRest_answers {code : Word} (hn : waitaNow s p v want = some code) (hd : Accepts s d) :
    finishKeeping [x, d] (waitaRest s d x c r p place v want) =
      .next (retired (delivered (acquireIf r s) d code) [x, d] (s.th.pc + 4)) := by
  simp only [waitaRest, hn, writeX_of_accepts (acquireIf_accepts hd r), bind, Except.bind, finishKeeping_ok, completeReading_eq,
    delivered_pc, acquireIf_pc]

end

/-- A slot that waits with its ports kept has its thread as it was, and so are the pools. -/
theorem holdPorts_frame (s : State) (rs : List (BitVec 5)) :
    (holdPorts s rs).th = s.th ∧ (holdPorts s rs).clusters = s.clusters ∧ (holdPorts s rs).bridge = s.bridge := by
  unfold holdPorts
  dsimp only
  split <;> exact ⟨rfl, rfl, rfl⟩

theorem waitaRest_waits {t : State} {rs : List (BitVec 5)} {y : Eff State} (hy : y = .error (.stall t)) :
    ∃ u, finishKeeping rs y = .next u ∧ u.th.wait = t.th.wait ∧ u.th.stalled = true ∧
      ∀ place, watchersAt u place = watchersAt t place := by
  obtain ⟨hth, hc, hb⟩ := holdPorts_frame t rs
  refine ⟨holdSlot (holdPorts t rs), by rw [hy, finishKeeping_stall], ?_, ?_, fun place => watchersAt_congr hc hb place⟩
  · rw [holdSlot, State.th_setTh, hth]
  · rw [holdSlot, State.th_setTh]

section
variable {s : State} {p : Place} {v want : Word}

theorem waitaNow_differs (h : v ≠ want) : waitaNow s p v want = some 1 := if_pos h

theorem waitaNow_late (h : v = want) (hd : s.th.waitdl ≠ 0) (hl : s.th.waitdl ≤ placeCounter s p) :
    waitaNow s p v want = some 2 := by
  rw [waitaNow, if_neg (not_not.2 h), if_pos ⟨hd, hl⟩]

theorem waitaNow_waits (h : v = want) (hd : s.th.waitdl = 0 ∨ placeCounter s p < s.th.waitdl) : waitaNow s p v want = none := by
  rw [waitaNow, if_neg (not_not.2 h), if_neg]
  rintro ⟨hne, hle⟩
  exact hd.elim hne fun hlt => absurd hle (BitVec.not_le.2 hlt)

variable {d x : BitVec 5} {c : BitVec 3} {r : BitVec 2} {place : Nat}

/-- A wait that finds room is registered. -/
theorem waitaRest_sleeps (hn : waitaNow s p v want = none) (hr : poolRoom (watchersAt s place) place p.key = true) :
    ∃ t, finishKeeping [x, d] (waitaRest s d x c r p place v want) = .next t ∧ t.th.wait = .waitaAsleep ∧ t.th.stalled = true ∧
      { thread := s.cur, key := p.key, kind := 3, sys := c == 4 : Sleeper } ∈ watchersAt t place := by
  obtain ⟨t, ht, hw, hst, hpool⟩ := waitaRest_waits (rs := [x, d]) (y := waitaRest s d x c r p place v want)
    (by rw [waitaRest, hn]; exact if_pos hr)
  refine ⟨t, ht, hw.trans (by rw [State.th_setTh]), hst, ?_⟩
  rw [hpool, watchersAt_setTh, watchersAt_setWatchers]
  exact List.mem_append_right _ List.mem_cons_self

/-- A wait that finds none will poll. -/
theorem waitaRest_polls (hn : waitaNow s p v want = none) (hr : poolRoom (watchersAt s place) place p.key = false) :
    ∃ t, finishKeeping [x, d] (waitaRest s d x c r p place v want) = .next t ∧ t.th.wait = .waitaPolling ∧ t.th.stalled = true := by
  obtain ⟨t, ht, hw, hst, _⟩ := waitaRest_waits (rs := [x, d]) (y := waitaRest s d x c r p place v want)
    (by rw [waitaRest, hn]; exact if_neg (by simp [hr]))
  exact ⟨t, ht, hw.trans (by rw [State.th_setTh]), hst⟩
end

theorem waita_results : ∀ s d x g z c r (f : BitVec 4) ea want s1 p place s2 v, Addressed s x g (f.toNat * 4) ea →
    ea.toNat % 4 = 0 → Source s d (sameBefore x d) want → Unawaited s (destRefs s d false) → s.th.wait = .idle →
    rsvPlace s ea .read c.toNat = .ok (s1, p, place) → placeWord s1 ea p c.toNat = .ok (s2, v) →
    (v ≠ want → Accepts s2 d →
      exec (.waita d x g z c r f) s = .next (retired (delivered (acquireIf r s2) d 1) [x, d] (s2.th.pc + 4))) ∧
    (v = want → s2.th.waitdl ≠ 0 → s2.th.waitdl ≤ placeCounter s2 p → Accepts s2 d →
      exec (.waita d x g z c r f) s = .next (retired (delivered (acquireIf r s2) d 2) [x, d] (s2.th.pc + 4))) ∧
    (v = want → (s2.th.waitdl = 0 ∨ placeCounter s2 p < s2.th.waitdl) →
      (poolRoom (watchersAt s2 place) place p.key = true →
        ∃ t, exec (.waita d x g z c r f) s = .next t ∧ t.th.wait = .waitaAsleep ∧ t.th.stalled = true ∧
          { thread := s2.cur, key := p.key, kind := 3, sys := c == 4 : Sleeper } ∈ watchersAt t place) ∧
      (poolRoom (watchersAt s2 place) place p.key = false →
        ∃ t, exec (.waita d x g z c r f) s = .next t ∧ t.th.wait = .waitaPolling ∧ t.th.stalled = true)) := by
  intro s d x g z c r f ea want s1 p place s2 v ha hm hs hd hi hp hv
  rw [waita_reads ha hm hs hd hi hp hv]
  exact ⟨fun h hacc => waitaRest_answers (waitaNow_differs h) hacc,
    fun h hdl hl hacc => waitaRest_answers (waitaNow_late h hdl hl) hacc,
    fun h hdl => ⟨waitaRest_sleeps (waitaNow_waits h hdl), waitaRest_polls (waitaNow_waits h hdl)⟩⟩

/-- A wait that has ended writes its code. -/
theorem waita_done : ∀ s d x g z c r (f : BitVec 4) code ea, s.th.wait = .waitaDone code → Addressed s x g (f.toNat * 4) ea →
    Accepts s d →
    exec (.waita d x g z c r f) s = .next (retired (delivered (acquireIf r s) d code) [x, d] (s.th.pc + 4)) := by
  intro s d x g z c r f code ea hi ha hd
  change execWaita d x g z c r f s = _
  simp only [execWaita, hi, address_of_addressed ha, writeX_of_accepts (acquireIf_accepts hd r), bind, Except.bind,
    finishKeeping_ok, completeReading_eq, delivered_pc, acquireIf_pc]

/-! ## The counter at a place (R2, R423) -/

theorem placeCounter_here (s : State) (p : Place) (h : ∀ k, p ≠ .peer k) : placeCounter s p = BitVec.ofNat 64 s.pitch := by
  cases p with
  | peer k => exact absurd rfl (h k)
  | _ => rfl

theorem placeCounter_peer (s : State) (k : Nat) (hup : linkDown s.module = false) (hsince : s.module.linkSince + 10000 ≤ s.pitch) :
    ∃ d : Int, -32 ≤ d ∧ d ≤ 32 ∧ placeCounter s (.peer k) = BitVec.ofInt 64 (s.pitch + d) := by
  have hm := Nat.mod_lt (Config.peerPitch s.pitch) (show 0 < 65 by decide)
  refine ⟨(Config.peerPitch s.pitch % 65 : Nat) - 32, by omega, by omega, ?_⟩
  have hfree : ¬ (linkDown s.module = true ∨ s.pitch < s.module.linkSince + 10000) := by
    rw [hup]
    simpa using hsince
  change peerCounter s = _
  rw [peerCounter, if_neg hfree, ← BitVec.ofInt_natCast]
  congr 1
  omega

/-! ## WAKEA (R240, R242) -/

/-- The host is told of a word at scope `.S`. -/
def noticed (s : State) (c : BitVec 3) (key : Nat) : State :=
  if c = 4 then { s with bridge := { s.bridge with notices := s.bridge.notices ++ [key] } } else s

theorem noticed_calm (s : State) (c : BitVec 3) (key : Nat) : Calm s (noticed s c key) := by
  unfold noticed
  split <;> exact Calm.of_eq rfl rfl rfl rfl

theorem noticed_frame (s : State) (c : BitVec 3) (key : Nat) :
    (noticed s c key).mem = s.mem ∧ (noticed s c key).threads = s.threads ∧
      (∀ place, watchersAt (noticed s c key) place = watchersAt s place) ∧
      (noticed s c key).bridge.notices = if c = 4 then s.bridge.notices ++ [key] else s.bridge.notices := by
  unfold noticed
  split <;> exact ⟨rfl, rfl, fun _ => rfl, rfl⟩

/-- The state once a WAKEA has ended its waits. -/
def awoken (s : State) (place key : Nat) (n : Word) (c : BitVec 3) : State :=
  noticed (wakeFrom (fun t => (t.core t.myCore).clock) s place (wokenBy s place key n)) c key

section
variable (s : State) (place key : Nat) (n : Word) (c : BitVec 3)

theorem awoken_calm : Calm s (awoken s place key n c) := (wakeFrom_calm ..).trans (noticed_calm ..)

theorem awoken_mem : (awoken s place key n c).mem = s.mem := (noticed_frame ..).1.trans (mem_of_storage (wakeFrom_storage ..))

theorem awoken_watchers :
    watchersAt (awoken s place key n c) place = (watchersAt s place).filter (fun w => !(wokenBy s place key n).contains w) :=
  ((noticed_frame ..).2.2.1 place).trans (wakeFrom_watchers ..)

theorem awoken_notices : (awoken s place key n c).bridge.notices = if c = 4 then s.bridge.notices ++ [key] else s.bridge.notices := by
  obtain ⟨_, _, _, hn⟩ := noticed_frame (wakeFrom (fun t => (t.core t.myCore).clock) s place (wokenBy s place key n)) c key
  rw [awoken, hn, wakeFrom_notices]

theorem awoken_thread (u : Nat) : (awoken s place key n c).thread u =
    (wakeFrom (fun t => (t.core t.myCore).clock) s place (wokenBy s place key n)).thread u := by
  rw [awoken, State.thread, (noticed_frame ..).2.1]
  rfl
end

theorem wakea_results : ∀ s d x g z c r (f : BitVec 4) ea n s1 p place s2, Addressed s x g (f.toNat * 4) ea → ea.toNat % 4 = 0 →
    Source s d (sameBefore x d) n → Unawaited s (destRefs s d false) → rsvPlace s ea .read c.toNat = .ok (s1, p, place) →
    MayRelease s1 r → s2 = ordered s1 r c.toNat → (∀ w ∈ wokenBy s2 place p.key n, w.thread ≠ s2.cur) → Accepts s2 d →
    ∃ t, exec (.wakea d x g z c r f) s =
        .next (retired (delivered t d (BitVec.ofNat 32 (wokenBy s2 place p.key n).length)) [x] (t.th.pc + 4)) ∧ t.mem = s2.mem ∧
      t.th.pc = s2.th.pc ∧ watchersAt t place = (watchersAt s2 place).filter (fun w => !(wokenBy s2 place p.key n).contains w) ∧
      (∀ w ∈ wokenBy s2 place p.key n, w.thread < 4096 → (t.thread w.thread).wait = .waitaDone 0) ∧
      (∀ u, (∀ w ∈ wokenBy s2 place p.key n, w.thread ≠ u) → t.thread u = s2.thread u) ∧
      t.bridge.notices = (if c = 4 then s2.bridge.notices ++ [p.key] else s2.bridge.notices) := by
  rintro s d x g z c r f ea n s1 p place s2 ha hm hs hd hp hr rfl _ hacc
  generalize ht : awoken (ordered s1 r c.toNat) place p.key n c = t
  have hcalm : Calm (ordered s1 r c.toNat) t := ht ▸ awoken_calm ..
  have hexec : exec (.wakea d x g z c r f) s = .next (retired (delivered t d
      (BitVec.ofNat 32 (wokenBy (ordered s1 r c.toNat) place p.key n).length)) [x] (t.th.pc + 4)) := by
    have hw := writeX_of_accepts (hcalm.accepts hacc) (BitVec.ofNat 32 (wokenBy (ordered s1 r c.toNat) place p.key n).length)
    rw [← delivered_pc t d (BitVec.ofNat 32 (wokenBy (ordered s1 r c.toNat) place p.key n).length), ← completeReading_eq]
    rw [← ht] at hw ⊢
    change execWakea d x g z c r f s = _
    simp only [execWakea, address_of_addressed ha, earlierReads_one, readP_of_source hs, aligned_of_mod hm, destFree_of_unawaited hd,
      hp, releaseIf_of_mayRelease hr, bind, Except.bind]
    exact congrArg (fun y => finishKeeping [x] (y >>= fun t => .ok (completeReading t [x]))) hw
  refine ⟨t, hexec, ?_, hcalm.pc, ?_, fun w hw hlt => ?_, fun u hu => ?_, ?_⟩ <;> subst ht
  · exact awoken_mem ..
  · exact awoken_watchers ..
  · rw [awoken_thread]
    exact wakeFrom_wait _ _ _ _ hw hlt
  · rw [awoken_thread, wakeFrom_other _ _ _ _ hu]
  · exact awoken_notices ..

/-! ## Events (R238, R241, R242) -/

/-- A hold that has reached its limit ends. -/
theorem reservationExpiry_leaves : ∀ s (n : BitVec 12) r p l, (s.refsOf n.toNat).find? (holdOver s) = some r →
    (s.byRef r).rsv = .holds p l ∨ (s.byRef r).rsv = .awaits p l → exec (.reservationExpiry n) s = .next (leaveQueue s p l r) := by
  intro s n r p l hr hq
  change execReservationExpiry n s = _
  rcases hq with hq | hq <;> simp only [execReservationExpiry, hr, hq]

/-- A sleeping WAITA whose deadline has come ends with code 2. -/
theorem waitaDeadline_ends : ∀ s (n : BitVec 12), (s.thread n.toNat).wait = .waitaAsleep → (s.thread n.toNat).waitdl ≠ 0 →
    (s.thread n.toNat).waitdl ≤ (if sleepsAtPeer s n.toNat then peerCounter s else BitVec.ofNat 64 s.pitch) →
    ∃ t, exec (.waitaDeadline n) s = .next t ∧ (t.thread n.toNat).wait = .waitaDone 2 ∧ SameMemory s t := by
  intro s n hi hd hl
  exact ⟨_, if_pos ⟨hi, hd, hl⟩, endWaita_wait _ n.isLt 2 0, sameMemory_of_storage (endWaita_storage ..)⟩

theorem waitaPoll_goes_on : ∀ s (n : BitVec 12), (s.thread n.toNat).wait = .waitaPolling →
    exec (.waitaPoll n) s = .next (s.setThread n.toNat { s.thread n.toNat with wait := .idle }) :=
  fun _ _ hi => if_pos hi

/-- The waiters a host's wake reaches. -/
def hostWoken (s : State) (pa : BitVec 64) (n : BitVec 32) : List Sleeper :=
  let here := (watchersAt s 0).filter (fun w => w.key == pa.toNat && w.sys)
  if n = 0 then here else here.take n.toNat

/-- The oldest waiter of system scope on the word is among those that wake, whatever the count. -/
theorem mem_hostWoken {s : State} {pa : BitVec 64} (n : BitVec 32) {w : Sleeper}
    (h : (watchersAt s 0).find? (fun x => x.key == pa.toNat && x.sys) = some w) : w ∈ hostWoken s pa n := by
  rw [← List.head?_filter, List.head?_eq_some_iff] at h
  obtain ⟨rest, hrest⟩ := h
  rw [hostWoken, hrest]
  split
  · exact List.mem_cons_self
  · next hn =>
    have hpos : n.toNat ≠ 0 := fun h0 => hn (BitVec.eq_of_toNat_eq h0)
    obtain ⟨m, hm⟩ := Nat.exists_eq_succ_of_ne_zero hpos
    rw [hm, List.take_succ_cons]
    exact List.mem_cons_self

theorem hostWake_results : ∀ s (pa : BitVec 64) (n : BitVec 32), ∃ t, exec (.hostWake pa n) s = .next t ∧ SameMemory s t ∧
    (n = 0 → ∀ w ∈ watchersAt t 0, ¬ (w.key = pa.toNat ∧ w.sys = true)) ∧
    ∀ w, (watchersAt s 0).find? (fun x => x.key == pa.toNat && x.sys) = some w → w.thread < 4096 →
      w ∉ watchersAt t 0 ∧ (t.thread w.thread).wait = .waitaDone 0 := by
  intro s pa n
  refine ⟨wakeFrom (fun t => t.bridge.hostClock) s 0 (hostWoken s pa n), rfl, sameMemory_of_storage (wakeFrom_storage ..), ?_,
    fun w hw hlt => ?_⟩
  · rintro rfl w hw ⟨hkey, hsys⟩
    have hmem : w ∈ watchersAt s 0 := List.mem_of_mem_filter (wakeFrom_watchers _ s 0 _ ▸ hw)
    have hwoken : w ∈ hostWoken s pa 0 := List.mem_filter.2 ⟨hmem, by simp [hkey, hsys]⟩
    exact not_mem_wakeFrom _ _ _ _ hwoken hw
  · exact ⟨not_mem_wakeFrom _ _ _ _ (mem_hostWoken n hw), wakeFrom_wait _ _ _ _ (mem_hostWoken n hw) hlt⟩

/-- Settles O21: a WAITA by what its word and deadline answer, the wakes by the waits they end, a hold's end by the queue that the
thread leaves. -/
theorem addressWaits : Obligations.AddressWaits :=
  ⟨⟨waita_results, waita_done, placeCounter_here, placeCounter_peer, wakea_results⟩,
    reservationExpiry_leaves, fun _ _ _ _ h => ⟨leaveQueue_free h, fun _ hk => leaveQueue_holder h hk⟩,
    waitaDeadline_ends, waitaPoll_goes_on, hostWake_results⟩

end Sys2Proof.AddressWaits
end

section
/-!
PROOF of O27. The system registers: the right to a register (`openReg`), what a write under its field access keeps, and each
instruction by the register's width.
-/

namespace Sys2Proof.SystemRegisters

open Machine Spec Laws

/-! ## The right to a register (R315) -/

/-- Every mode covers U (R7). -/
theorem covers_u (mode : Mode) : mode.covers .u = true := decide_eq_true (Nat.zero_le _)

theorem covers_s_of_ne_u {mode : Mode} (h : mode ≠ .u) : mode.covers .s = true := by
  cases mode with
  | u => exact absurd rfl h
  | s => rfl
  | m => rfl

/-- The request of PRIV_INSTR, with the instruction word. -/
def privTrap (s : State) : TrapReq := { cause := .privInstr, tval := s.th.ir.setWidth 64 }

section
variable {s : State} {n : BitVec 12} {r : SysReg} (hr : sysReg n.toNat = some r)
include hr

/-- A register that may be accessed so at all is open to a mode that covers its rights. -/
theorem openReg_eq (reads : Bool) {writes : Bool} (hw : writes = true → r.write.isSome = true) : openReg s n reads writes =
    if s.th.mode.covers (if reads then r.read else .u) = true ∧ s.th.mode.covers (if writes then r.write.getD .u else .u) = true
    then .ok r else .error (.trap s (privTrap s)) := by
  have hpass : (!writes || r.write.isSome) = true := by
    cases writes with
    | false => rfl
    | true => exact hw rfl
  simp only [openReg, hr, hpass, require_true, bind, Except.bind, needMode]
  cases s.th.mode.covers (if reads then r.read else .u) with
  | false => rfl
  | true => cases s.th.mode.covers (if writes then r.write.getD .u else .u) <;> rfl

theorem openReg_read (hread : s.th.mode.covers r.read = true) : openReg s n true false = .ok r :=
  (openReg_eq (writes := false) hr true (fun h => absurd h Bool.false_ne_true)).trans (if_pos ⟨hread, covers_u _⟩)

theorem openReg_read_low (hread : s.th.mode.covers r.read = false) : openReg s n true false = .error (.trap s (privTrap s)) :=
  (openReg_eq (writes := false) hr true (fun h => absurd h Bool.false_ne_true)).trans (if_neg (by simp [hread]))

theorem openReg_unwritable (hw : r.write = none) (reads : Bool) : openReg s n reads true = .error (illegalOperand s) := by
  simp only [openReg, hr, hw, Option.isSome_none, Bool.not_true, Bool.or_false, require_false, bind, Except.bind]

variable {low : Mode} (hw : r.write = some low)
include hw

theorem openReg_write (hlow : s.th.mode.covers low = true) : openReg s n false true = .ok r :=
  (openReg_eq hr false fun _ => by simp [hw]).trans (if_pos ⟨covers_u _, by simpa [hw] using hlow⟩)

theorem openReg_write_low (hlow : s.th.mode.covers low = false) : openReg s n false true = .error (.trap s (privTrap s)) :=
  (openReg_eq hr false fun _ => by simp [hw]).trans (if_neg (by simp [hw, hlow]))

theorem openReg_both (hread : s.th.mode.covers r.read = true) (hlow : s.th.mode.covers low = true) : openReg s n true true = .ok r :=
  (openReg_eq hr true fun _ => by simp [hw]).trans (if_pos ⟨hread, by simpa [hw] using hlow⟩)

theorem openReg_both_low (hlow : s.th.mode.covers r.read = false ∨ s.th.mode.covers low = false) :
    openReg s n true true = .error (.trap s (privTrap s)) := by
  refine (openReg_eq hr true fun _ => by simp [hw]).trans (if_neg ?_)
  rcases hlow with h | h
  · simp [h]
  · simp [hw, h]

end

theorem openReg_unknown {s : State} {n : BitVec 12} (hr : sysReg n.toNat = none) (reads writes : Bool) :
    openReg s n reads writes = .error (illegalOperand s) := by
  simp only [openReg, hr]

/-! ## Halves of a value (R316) -/

theorem halfOf_low (x : DWord) : halfOf x false = x.setWidth 32 := rfl

theorem halfOf_high (x : DWord) : halfOf x true = x.extractLsb' 32 32 := by
  refine BitVec.eq_of_getLsbD_eq fun i hi => ?_
  simp [halfOf, hi]

theorem and_setWidth_setWidth (x m : DWord) {w : Nat} (h : (m.setWidth w).setWidth 64 = m) :
    ((x &&& m).setWidth w).setWidth 64 = x &&& m := by
  rw [BitVec.setWidth_and, BitVec.setWidth_and, h]
  refine BitVec.eq_of_getLsbD_eq fun i hi => ?_
  have hm := congrArg (·.getLsbD i) h
  simp only [BitVec.getLsbD_setWidth, BitVec.getLsbD_and, hi, decide_true, Bool.true_and] at hm ⊢
  rw [← hm]
  cases decide (i < w) <;> simp

/-- What SYSSET or SYSCLR writes: of the register's RW fields, the half named takes its new value and the other half its old one
(R316). -/
def newFields (f : Word → Word → Word) (r : SysReg) (n : BitVec 12) (x : DWord) (m : Word) : DWord :=
  (if r.odd n then f (halfOf x (r.odd n)) m ++ halfOf (x &&& r.rw) false
    else halfOf (x &&& r.rw) true ++ f (halfOf x (r.odd n)) m) &&& r.rw

section
variable (f : Word → Word → Word) {r : SysReg} {n : BitVec 12} (x : DWord) (m : Word)

theorem odd_of_narrow (h : r.wide = false) : r.odd n = false := by rw [SysReg.odd, h, Bool.false_and]
theorem odd_of_even (h : n.toNat = r.base) : r.odd n = false := by simp [SysReg.odd, h]
theorem odd_of_wide (hw : r.wide = true) (h : n.toNat ≠ r.base) : r.odd n = true := by simp [SysReg.odd, hw, h]

theorem getLsbD_halves (hi lo : Word) (i : Nat) : (hi ++ lo : DWord).getLsbD i = if i < 32 then lo.getLsbD i else hi.getLsbD (i - 32) :=
  BitVec.getLsbD_append

theorem newFields_low (h : r.odd n = false) : (newFields f r n x m).setWidth 32 = f (x.setWidth 32) m &&& r.rw.setWidth 32 := by
  rw [newFields, h, if_neg Bool.false_ne_true, halfOf_low, BitVec.setWidth_and]
  congr 1
  refine BitVec.eq_of_getLsbD_eq fun i hi => ?_
  rw [BitVec.getLsbD_setWidth, getLsbD_halves, if_pos hi, decide_eq_true hi, Bool.true_and]

/-- A half of RW fields beside a new half, under the RW fields, is that half of the whole value. -/
theorem newFields_even (h : r.odd n = false) : newFields f r n x m = (x.extractLsb' 32 32 ++ f (x.setWidth 32) m) &&& r.rw := by
  rw [newFields, h, if_neg Bool.false_ne_true, halfOf_high, halfOf_low]
  refine BitVec.eq_of_getLsbD_eq fun i hi => ?_
  rw [BitVec.getLsbD_and, BitVec.getLsbD_and, getLsbD_halves, getLsbD_halves]
  split
  · rfl
  · rw [BitVec.getLsbD_extractLsb', BitVec.getLsbD_extractLsb', BitVec.getLsbD_and, show 32 + (i - 32) = i by omega]
    cases r.rw.getLsbD i <;> simp

theorem newFields_odd (h : r.odd n = true) : newFields f r n x m = (f (x.extractLsb' 32 32) m ++ x.setWidth 32) &&& r.rw := by
  rw [newFields, h, if_pos rfl, halfOf_high, halfOf_low]
  refine BitVec.eq_of_getLsbD_eq fun i hi => ?_
  rw [BitVec.getLsbD_and, BitVec.getLsbD_and, getLsbD_halves, getLsbD_halves]
  split
  · rw [BitVec.getLsbD_setWidth, BitVec.getLsbD_setWidth, BitVec.getLsbD_and]
    cases r.rw.getLsbD i <;> simp
  · rfl

end

/-! ## What an access does besides (R23) -/

theorem afterAccess_other {b : Nat} (h : b ≠ 0x149) (st : State) (t : Nat) : afterAccess st t b = st := if_neg h

theorem afterAccess_spmap (st : State) (t : Nat) : afterAccess st t 0x149 = spAdvance st (coreOf t) := rfl

theorem spAdvance_selected {s : State} {core : Nat} (h : (s.core core).spsel.getLsbD 31 = true) :
    ∃ sel, spAdvance s core = s.setCore core { s.core core with spsel := sel } ∧
      sel.toNat / 128 = (s.core core).spsel.toNat / 128 ∧ sel.toNat % 128 = ((s.core core).spsel.toNat % 128 + 1) % 128 := by
  refine ⟨_, if_pos h, ?_⟩
  have hlt := (s.core core).spsel.isLt
  rw [BitVec.toNat_ofNat, Nat.mod_eq_of_lt (by omega)]
  constructor <;> omega

theorem spAdvance_th (s : State) (core : Nat) : (spAdvance s core).th = s.th := by
  unfold spAdvance
  dsimp only
  split <;> rfl

/-- A write of the map word selected touches no thread. -/
theorem sysWrite_spmap_th (s : State) (t : Nat) (v : DWord) : (sysWrite s t 0x149 v).th = s.th := rfl

theorem delivered_cur (s : State) (d : BitVec 5) (v : Word) : (delivered s d v).cur = s.cur := by
  unfold delivered
  split
  · rfl
  · split
    · split <;> rfl
    · rfl

/-! ## The instructions (R315) -/

section
variable {s : State} {n : BitVec 12} {r : SysReg} (hr : sysReg n.toNat = some r)
include hr

/-- A read gives the half named. -/
theorem sysrd_completes (hread : s.th.mode.covers r.read = true) {d : BitVec 5} (hd : Accepts s d) :
    exec (.sysrd d n) s = .next (complete (afterAccess (delivered s d (halfOf (sysValue s s.cur r.base) (r.odd n))) s.cur r.base)) := by
  change execSysrd d n s = _
  simp only [execSysrd, openReg_read hr hread, writeX_of_accepts hd, bind, Except.bind, finish_ok, delivered_cur]

section
variable {low : Mode} (hw : r.write = some low) (hlow : s.th.mode.covers low = true) {a : BitVec 5} {x : Word} (hx : Source s a 0 x)
include hw hlow hx

theorem syswr_completes : exec (.syswr a n) s =
    .next (retired (afterAccess (stagedWrite s r n x) s.cur r.base) [a] ((afterAccess (stagedWrite s r n x) s.cur r.base).th.pc + 4)) := by
  change execSyswr a n s = _
  simp only [execSyswr, openReg_write hr hw hlow, readP_of_source hx, bind, Except.bind, finishKeeping_ok, completeReading_eq]

/-- The state before SYSSET or SYSCLR completes: the old half is delivered, the new fields are written. -/
def fieldsSet (s : State) (f : Word → Word → Word) (r : SysReg) (d : BitVec 5) (n : BitVec 12) (x : Word) : State :=
  afterAccess (sysWrite (delivered s d (halfOf (sysValue s s.cur r.base) (r.odd n))) s.cur r.base
    (newFields f r n (sysValue s s.cur r.base) x)) s.cur r.base

theorem setFields_completes (hread : s.th.mode.covers r.read = true) (f : Word → Word → Word) {d : BitVec 5} (hd : Accepts s d) :
    setFields f d a n s = .next (retired (fieldsSet s f r d n x) [a] ((fieldsSet s f r d n x).th.pc + 4)) := by
  simp only [setFields, openReg_both hr hw hread hlow, readP_of_source hx, writeX_of_accepts hd, bind, Except.bind,
    finishKeeping_ok, completeReading_eq, delivered_cur, fieldsSet, newFields]

end
end

section
variable {s : State} {n : BitVec 12} {r : SysReg} (hr : sysReg n.toNat = some r) (hb : r.base ≠ 0x149)
include hr hb

/-- A read of a register whose accesses do nothing besides. -/
theorem sysrd_gives (hread : s.th.mode.covers r.read = true) {half : Word}
    (hhalf : half = halfOf (sysValue s s.cur r.base) (r.odd n)) (d : BitVec 5) (hd : Accepts s d) :
    exec (.sysrd d n) s = .next (retired (delivered s d half) [] (s.th.pc + 4)) := by
  rw [sysrd_completes hr hread hd, afterAccess_other hb, complete_eq, delivered_pc, hhalf]

section
variable {low : Mode} (hw : r.write = some low) (hlow : s.th.mode.covers low = true) {a : BitVec 5} {x : Word} (hx : Source s a 0 x)
include hw hlow hx

theorem syswr_writes {t : State} (ht : stagedWrite s r n x = t) : exec (.syswr a n) s = .next (retired t [a] (t.th.pc + 4)) := by
  rw [syswr_completes hr hw hlow hx, afterAccess_other hb, ht]

theorem setFields_writes (hread : s.th.mode.covers r.read = true) {half : Word}
    (hhalf : half = halfOf (sysValue s s.cur r.base) (r.odd n)) (f : Word → Word → Word) {d : BitVec 5} (hd : Accepts s d) :
    ∃ t, setFields f d a n s = .next (retired t [a] (t.th.pc + 4)) ∧
      t = sysWrite (delivered s d half) s.cur r.base (newFields f r n (sysValue s s.cur r.base) x) :=
  ⟨_, setFields_completes hr hw hlow hx hread f hd, by rw [fieldsSet, afterAccess_other hb, hhalf]⟩

end
end

/-! ## The instructions without the right (R315) -/

section
variable {s t : State} {n : BitVec 12} {q : TrapReq}

theorem sysrd_traps (h : openReg s n true false = .error (.trap t q)) (d : BitVec 5) : exec (.sysrd d n) s = .next (takeTrap t q) := by
  change execSysrd d n s = _
  simp only [execSysrd, h, bind, Except.bind, finish_trap]

theorem syswr_traps (h : openReg s n false true = .error (.trap t q)) (a : BitVec 5) : exec (.syswr a n) s = .next (takeTrap t q) := by
  change execSyswr a n s = _
  simp only [execSyswr, h, bind, Except.bind, finishKeeping_trap]

theorem setFields_traps (h : openReg s n true true = .error (.trap t q)) (d a : BitVec 5) :
    ∀ i ∈ [Instr.sysset d a n, .sysclr d a n], exec i s = .next (takeTrap t q) := by
  have hf (f : Word → Word → Word) : setFields f d a n s = .next (takeTrap t q) := by
    simp only [setFields, h, bind, Except.bind, finishKeeping_trap]
  intro i hi
  simp only [List.mem_cons, List.not_mem_nil, or_false] at hi
  rcases hi with rfl | rfl
  · exact hf (fun x m => x ||| m)
  · exact hf (fun x m => x &&& ~~~m)

end

/-! ## The write of a SYSWR (R316) -/

section
variable {s : State} {n : BitVec 12} {r : SysReg} {x : Word}

theorem stagedWrite_narrow (h : r.wide = false) : stagedWrite s r n x = sysWrite s s.cur r.base (x.setWidth 64) := by
  simp only [stagedWrite, h, Bool.not_false, if_true]

theorem stagedWrite_even (h : r.wide = true) (he : n.toNat = r.base) :
    stagedWrite s r n x = s.setTh { s.th with staged := some (n, x) } := by
  simp only [stagedWrite, h, he, Bool.not_true, Bool.false_eq_true, if_false, if_true]

theorem stagedWrite_odd (h : r.wide = true) (ho : n.toNat = r.base + 1) {m : BitVec 12} {lo : Word}
    (hst : s.th.staged = some (m, lo)) (hm : m.toNat = r.base) :
    stagedWrite s r n x = sysWrite (s.setTh { s.th with staged := none }) s.cur r.base (x ++ lo) := by
  have hne : n.toNat ≠ r.base := by omega
  simp only [stagedWrite, h, hne, hst, hm, Bool.not_true, Bool.false_eq_true, if_false, if_true]

/-- With no even word of the register staged, the low half of the RW fields is written back. -/
theorem stagedWrite_odd_alone (h : r.wide = true) (ho : n.toNat = r.base + 1)
    (hst : ∀ m lo, s.th.staged = some (m, lo) → m.toNat ≠ r.base) :
    stagedWrite s r n x = sysWrite s s.cur r.base (x ++ (sysValue s s.cur r.base &&& r.rw).setWidth 32) := by
  have hne : n.toNat ≠ r.base := by omega
  simp only [stagedWrite, h, hne, Bool.not_true, Bool.false_eq_true, if_false, halfOf_low]
  split
  · next m lo hsome => rw [if_neg (hst m lo hsome)]
  · rfl

end

/-! ## CO_SPMAP_DATA (R23) -/

/-- The row of CO_SPMAP_DATA (R317). -/
def spmapData : SysReg := { base := 0x149, wide := false, read := .s, write := some .s, rw := 0xFFFFFFFF }

theorem sysReg_spmapData : sysReg (0x149 : BitVec 12).toNat = some spmapData := by decide

theorem and_low_word (w : Word) : w.setWidth 64 &&& (0xFFFFFFFF : DWord) = w.setWidth 64 := by
  have h := and_setWidth_setWidth (w.setWidth 64) 0xFFFFFFFF (w := 32) (by decide)
  rw [← h, BitVec.setWidth_and, BitVec.setWidth_setWidth_of_le _ (by decide), BitVec.setWidth_eq,
    show BitVec.setWidth 32 (0xFFFFFFFF : DWord) = BitVec.allOnes 32 by decide, BitVec.and_allOnes]

/-- All bits of a map word are RW. -/
theorem newFields_spmapData (f : Word → Word → Word) (x : DWord) (m : Word) :
    newFields f spmapData 0x149 x m = (f (x.setWidth 32) m).setWidth 64 := by
  have h : ((newFields f spmapData 0x149 x m).setWidth 32).setWidth 64 = newFields f spmapData 0x149 x m :=
    and_setWidth_setWidth _ 0xFFFFFFFF (by decide)
  rw [← h, newFields_low f x m (odd_of_narrow rfl), show spmapData.rw.setWidth 32 = BitVec.allOnes 32 by decide, BitVec.and_allOnes]

section
variable {s : State} (hs : s.th.mode ≠ .u)
include hs

theorem sysrd_spmapData (d : BitVec 5) (hd : Accepts s d) : exec (.sysrd d 0x149) s =
    .next (retired (spAdvance (delivered s d ((sysValue s s.cur 0x149).setWidth 32)) s.myCore) [] (s.th.pc + 4)) := by
  rw [sysrd_completes sysReg_spmapData (covers_s_of_ne_u hs) hd, complete_eq]
  change Host.Outcome.next (retired (spAdvance _ _) [] ((spAdvance _ _).th.pc + 4)) = _
  rw [spAdvance_th, delivered_pc]
  rfl

section
variable {a : BitVec 5} {x : Word} (hx : Source s a 0 x)
include hx

theorem syswr_spmapData : exec (.syswr a 0x149) s =
    .next (retired (spAdvance (sysWrite s s.cur 0x149 (x.setWidth 64)) s.myCore) [a] (s.th.pc + 4)) := by
  rw [syswr_completes sysReg_spmapData rfl (covers_s_of_ne_u hs) hx, stagedWrite_narrow rfl]
  change Host.Outcome.next (retired (spAdvance _ _) [a] ((spAdvance _ _).th.pc + 4)) = _
  rw [spAdvance_th]
  rfl

theorem setFields_spmapData (f : Word → Word → Word) {d : BitVec 5} (hd : Accepts s d) : setFields f d a 0x149 s =
    .next (retired (spAdvance (sysWrite (delivered s d ((sysValue s s.cur 0x149).setWidth 32)) s.cur 0x149
      ((f ((sysValue s s.cur 0x149).setWidth 32) x).setWidth 64)) s.myCore) [a] (s.th.pc + 4)) := by
  have hset : fieldsSet s f spmapData d 0x149 x = spAdvance (sysWrite (delivered s d ((sysValue s s.cur 0x149).setWidth 32)) s.cur 0x149
      ((f ((sysValue s s.cur 0x149).setWidth 32) x).setWidth 64)) s.myCore := by
    rw [fieldsSet, newFields_spmapData]
    rfl
  rw [setFields_completes sysReg_spmapData rfl (covers_s_of_ne_u hs) hx (covers_s_of_ne_u hs) f hd, hset, spAdvance_th,
    sysWrite_spmap_th, delivered_pc]

end
end

/-! ## What the registers of a thread keep -/

section
variable (th : Thread) (t : Nat) (v : DWord)

/-- A register of the thread kept as 64 bits holds what is written to its RW fields. -/
theorem thWrite_keeps_dword : ∀ n ∈ [0x008, 0x00C, 0x00E, 0x010, 0x012, 0x062],
    thValue (thWrite th n v) t n = some (v &&& thFields n) := by
  intro n hn
  simp only [List.mem_cons, List.not_mem_nil, or_false] at hn
  rcases hn with rfl | rfl | rfl | rfl | rfl | rfl <;> rfl

/-- So does one kept in w bits, beyond which it has no RW field. -/
theorem thWrite_keeps_field : ∀ e ∈ [(32, 0x00A), (15, 0x020), (15, 0x021), (15, 0x022), (24, 0x060), (20, 0x061), (20, 0x064)],
    thValue (thWrite th e.2 v) t e.2 = some (v &&& thFields e.2) := by
  intro e he
  have hfits : ((thFields e.2).setWidth e.1).setWidth 64 = thFields e.2 := by
    revert e
    decide
  have hkeeps : thValue (thWrite th e.2 v) t e.2 = some (((v &&& thFields e.2).setWidth e.1).setWidth 64) := by
    simp only [List.mem_cons, List.not_mem_nil, or_false] at he
    rcases he with rfl | rfl | rfl | rfl | rfl | rfl | rfl <;> rfl
  rw [hkeeps, and_setWidth_setWidth _ _ hfits]

end

/-- Settles O27: each access goes through `openReg`, then reads, writes or stages by the register's width. -/
theorem systemRegisterResults : Obligations.SystemRegisterResults := by
  refine ⟨?narrow, ?staged, ⟨?halves, ?odd, ?spmap, ?advance⟩, ?rights, ?kept⟩
  case narrow =>
    intro s n r hr hn hb hread
    have hold : BitVec.ofNat 32 (sysValue s s.cur r.base).toNat = halfOf (sysValue s s.cur r.base) (r.odd n) := by
      rw [odd_of_narrow hn, halfOf_low, BitVec.ofNat_toNat]
    refine ⟨sysrd_gives hr hb hread hold, fun low hw hlow a x hx => ⟨syswr_writes hr hb hw hlow hx (stagedWrite_narrow hn), ?_⟩⟩
    intro d hd e he
    have hset (f : Word → Word → Word) := setFields_writes hr hb hw hlow hx hread hold f hd
    have hfields (f : Word → Word → Word) := newFields_low f (sysValue s s.cur r.base) x (odd_of_narrow (n := n) hn)
    simp only [List.mem_cons, List.not_mem_nil, or_false] at he
    rw [BitVec.ofNat_toNat] at hset he ⊢
    rcases he with rfl | rfl
    · obtain ⟨t, hexec, ht⟩ := hset (fun x m => x ||| m)
      exact ⟨t, _, hexec, ht, hfields _⟩
    · obtain ⟨t, hexec, ht⟩ := hset (fun x m => x &&& ~~~m)
      exact ⟨t, _, hexec, ht, hfields _⟩
  case staged =>
    intro s n r low a x hr hwide hb hw hlow hx
    refine ⟨fun he => ?_, fun m lo ho hst hm => syswr_writes hr hb hw hlow hx (stagedWrite_odd hwide ho hst hm)⟩
    rw [syswr_writes hr hb hw hlow hx (stagedWrite_even hwide he), th_setTh_pc]
  case halves =>
    intro s n r half hr hwide hb hread hhalf
    have hold : half = halfOf (sysValue s s.cur r.base) (r.odd n) := by
      rw [hhalf]
      split
      · next he => rw [odd_of_even he, halfOf_low]
      · next ho => rw [odd_of_wide hwide ho, halfOf_high]
    have hnew (f : Word → Word → Word) (x : Word) : newFields f r n (sysValue s s.cur r.base) x =
        (if n.toNat = r.base then (sysValue s s.cur r.base).extractLsb' 32 32 ++ f half x
          else f half x ++ (sysValue s s.cur r.base).setWidth 32) &&& r.rw := by
      split
      · next he => rw [newFields_even _ _ _ (odd_of_even he), hhalf, if_pos he]
      · next ho => rw [newFields_odd _ _ _ (odd_of_wide hwide ho), hhalf, if_neg ho]
    refine ⟨sysrd_gives hr hb hread hold, fun low hw hlow a x d hx hd e he => ?_⟩
    have hset (f : Word → Word → Word) := setFields_writes hr hb hw hlow hx hread hold f hd
    simp only [List.mem_cons, List.not_mem_nil, or_false] at he
    rcases he with rfl | rfl
    · obtain ⟨t, hexec, ht⟩ := hset (fun x m => x ||| m)
      exact ⟨t, hexec, by rw [ht, hnew]⟩
    · obtain ⟨t, hexec, ht⟩ := hset (fun x m => x &&& ~~~m)
      exact ⟨t, hexec, by rw [ht, hnew]⟩
  case odd =>
    intro s n r low a x hr hwide hb hw hlow hx ho hst
    exact syswr_writes hr hb hw hlow hx (stagedWrite_odd_alone hwide ho hst)
  case spmap =>
    intro s hs old hold
    rw [BitVec.ofNat_toNat] at hold
    subst hold
    refine ⟨sysrd_spmapData hs, fun a x hx => ⟨syswr_spmapData hs hx, fun d hd e he => ?_⟩⟩
    simp only [List.mem_cons, List.not_mem_nil, or_false] at he
    rcases he with rfl | rfl
    · exact setFields_spmapData hs hx (fun x m => x ||| m) hd
    · exact setFields_spmapData hs hx (fun x m => x &&& ~~~m) hd
  case advance => exact fun s core h => spAdvance_selected h
  case rights =>
    intro s d a n
    refine ⟨fun hr => ?_, fun r hr hw => ?_, fun r hr => ⟨fun hread => sysrd_traps (openReg_read_low hr hread) d, fun low hw =>
      ⟨fun hlow => syswr_traps (openReg_write_low hr hw hlow) a, fun h => setFields_traps (openReg_both_low hr hw h) d a⟩⟩⟩
    · exact List.forall_mem_cons.2 ⟨sysrd_traps (openReg_unknown hr true false) d,
        List.forall_mem_cons.2 ⟨syswr_traps (openReg_unknown hr false true) a, setFields_traps (openReg_unknown hr true true) d a⟩⟩
    · exact List.forall_mem_cons.2 ⟨syswr_traps (openReg_unwritable hr hw false) a,
        setFields_traps (openReg_unwritable hr hw true) d a⟩
  case kept =>
    intro th t v e he
    have hfields : e.2 = thFields e.1 := by
      revert e
      decide
    have hkind : e.1 ∈ [0x008, 0x00C, 0x00E, 0x010, 0x012, 0x062] ∨
        ∃ w, (w, e.1) ∈ [(32, 0x00A), (15, 0x020), (15, 0x021), (15, 0x022), (24, 0x060), (20, 0x061), (20, 0x064)] := by
      simp only [List.mem_cons, List.not_mem_nil, or_false] at he
      rcases he with rfl | rfl | rfl | rfl | rfl | rfl | rfl | rfl | rfl | rfl | rfl | rfl | rfl <;> simp
    rw [hfields]
    rcases hkind with hd | ⟨w, hf⟩
    · exact thWrite_keeps_dword th t v _ hd
    · exact thWrite_keeps_field th t v _ hf

end Sys2Proof.SystemRegisters
end

section
/-!
SUPPORT. What a line's home leaves of the rest of the module, which operations on lines leave the TLBs of every level, and tables
whose entries have been changed one by one.
-/

namespace Sys2Proof.Laws

open Machine Spec

/-! ## Tables -/

theorem mem_of_look {α : Type} {m : AMap α} {k : Nat} {v : α} (h : look m k = some v) : (k, v) ∈ m := by
  induction m with
  | nil => exact absurd h (by simp [look])
  | cons p rest ih =>
    obtain ⟨j, u⟩ := p
    rw [look] at h
    split at h
    · next hj =>
      subst hj
      rw [Option.some.inj h]
      exact List.mem_cons_self
    · exact List.mem_cons_of_mem _ (ih h)

/-- What is listed for a number is an entry of the table, or else the value of an unlisted one. -/
theorem mem_or_eq_of_lookD {α : Type} (m : AMap α) (k : Nat) (d : α) : (k, lookD m k d) ∈ m ∨ lookD m k d = d := by
  rw [lookD]
  cases h : look m k with
  | none => exact .inr rfl
  | some v => exact .inl (mem_of_look h)

theorem look_map {α : Type} (f : α → α) (m : AMap α) (k : Nat) : look (m.map (fun p => (p.1, f p.2))) k = (look m k).map f := by
  induction m with
  | nil => rfl
  | cons p rest ih =>
    obtain ⟨j, u⟩ := p
    simp only [List.map_cons, look]
    split
    · rfl
    · exact ih

/-- A change of every entry that would leave the value of an unlisted one. -/
theorem lookD_map {α : Type} (f : α → α) (m : AMap α) (k : Nat) {d : α} (h : f d = d) :
    lookD (m.map (fun p => (p.1, f p.2))) k d = f (lookD m k d) := by
  rw [lookD, lookD, look_map]
  cases look m k with
  | none => exact h.symm
  | some v => rfl

/-- A field that a change of every entry leaves. -/
theorem lookD_map_field {α β : Type} {f : α → α} (g : α → β) (h : ∀ x, g (f x) = g x) (m : AMap α) (k : Nat) (d : α) :
    g (lookD (m.map (fun p => (p.1, f p.2))) k d) = g (lookD m k d) := by
  rw [lookD, lookD, look_map]
  cases look m k with
  | none => rfl
  | some v => exact h v

/-- Entries kept by their numbers alone. -/
theorem look_filter {α : Type} (q : Nat → Bool) (m : AMap α) (k : Nat) :
    look (m.filter (fun p => q p.1)) k = if q k then look m k else none := by
  induction m with
  | nil => simp [look]
  | cons p rest ih =>
    obtain ⟨j, u⟩ := p
    by_cases hj : j = k
    · subst hj
      cases hq : q j <;> simp [look, hq, ih]
    · cases hq : q j <;> simp [look, hq, ih, hj]

/-! ## What a line's home leaves (R59, R62, R70) -/

/-- The bridge beside its lines: their homes, copies, seals and errors, the waiters on them, and the clocks of who asks for them. -/
def besideLines (b : Bridge) : Bridge :=
  { b with homes := [], memTime := [], hostHeld := [], held := [], seals := [], poisoned := [], watchers := [], hostClock := 0 }

/-- From s to t nothing of the cores, the clusters and the module has changed, and of the bridge no more than its lines. -/
structure LinesOnly (s t : State) : Prop where
  cores : t.cores = s.cores
  clusters : t.clusters = s.clusters
  module : t.module = s.module
  bridge : besideLines t.bridge = besideLines s.bridge

namespace LinesOnly

theorem refl (s : State) : LinesOnly s s := ⟨rfl, rfl, rfl, rfl⟩

theorem trans {s t u : State} (h : LinesOnly s t) (k : LinesOnly t u) : LinesOnly s u :=
  ⟨k.cores.trans h.cores, k.clusters.trans h.clusters, k.module.trans h.module, k.bridge.trans h.bridge⟩

theorem foldl {α : Type} {f : State → α → State} (hf : ∀ s a, LinesOnly s (f s a)) (l : List α) (s : State) :
    LinesOnly s (l.foldl f s) := by
  induction l generalizing s with
  | nil => exact refl s
  | cons a l ih => exact (hf s a).trans (ih _)

section
variable {s t : State} (h : LinesOnly s t)
include h

theorem core (c : Nat) : t.core c = s.core c := by rw [State.core, State.core, h.cores]
theorem cluster (k : Nat) : t.cluster k = s.cluster k := by rw [State.cluster, State.cluster, h.clusters]
theorem tlb : t.bridge.tlb = s.bridge.tlb := (congrArg Bridge.tlb h.bridge :)
theorem answer : t.bridge.answer = s.bridge.answer := (congrArg Bridge.answer h.bridge :)
theorem refusedHost : t.bridge.refusedHost = s.bridge.refusedHost := (congrArg Bridge.refusedHost h.bridge :)

end

end LinesOnly

theorem evictHome_linesOnly (s : State) (line : Nat) : LinesOnly s (evictHome s line) := ⟨rfl, rfl, rfl, rfl⟩

theorem setHome_linesOnly (s : State) (line : Nat) (h : HomeLine) : LinesOnly s (setHome s line h) := by
  unfold setHome
  dsimp only
  split
  · split <;> exact ⟨rfl, rfl, rfl, rfl⟩
  · exact ⟨rfl, rfl, rfl, rfl⟩

theorem stampHome_linesOnly (s : State) (line c : Nat) : LinesOnly s (stampHome s line c).1 := setHome_linesOnly ..

theorem fetchLine_linesOnly (s : State) (line : Nat) : LinesOnly s (fetchLine s line) := by
  unfold fetchLine
  dsimp only
  split
  · split <;> exact ⟨rfl, rfl, rfl, rfl⟩
  · split
    · exact LinesOnly.refl s
    · exact (⟨rfl, rfl, rfl, rfl⟩ : LinesOnly s { s with bridge := { s.bridge with held := put s.bridge.held line .shared } }).trans
        (setHome_linesOnly ..)

theorem takeLine_linesOnly (s : State) (line : Nat) : LinesOnly s (takeLine s line) := by
  unfold takeLine
  dsimp only
  split <;> exact ⟨rfl, rfl, rfl, rfl⟩

theorem poison_linesOnly (s : State) (line : Nat) : LinesOnly s (poison s line) := by
  unfold poison
  split <;> exact ⟨rfl, rfl, rfl, rfl⟩

theorem mergeLine_linesOnly (s : State) (ctx line : Nat) (data mask : Line) : LinesOnly s (mergeLine s ctx line data mask) := by
  unfold mergeLine
  dsimp only
  split <;> exact ⟨rfl, rfl, rfl, rfl⟩

theorem endWaita_linesOnly (s : State) (t : Nat) (code : BitVec 32) (c : Nat) : LinesOnly s (endWaita s t code c) := by
  unfold endWaita
  split <;> exact ⟨rfl, rfl, rfl, rfl⟩

theorem setWatchers_linesOnly (s : State) (l : List Sleeper) : LinesOnly s (setWatchers s 0 l) := ⟨rfl, rfl, rfl, rfl⟩

/-- Waiters on words at their home are woken. -/
theorem wakeWords_linesOnly (s : State) (keys : List Nat) (c : Nat) : LinesOnly s (wakeWords s 0 keys c) := by
  unfold wakeWords
  dsimp only
  split
  · exact LinesOnly.refl s
  · exact (setWatchers_linesOnly ..).trans
      (LinesOnly.foldl (fun s (w : Sleeper) => endWaita_linesOnly s w.thread 0 c) _ _)

theorem homeMerge_linesOnly (s : State) (ctx line : Nat) (data mask : Line) (c : Nat) :
    LinesOnly s (homeMerge s ctx line data mask c).1 :=
  (takeLine_linesOnly s line).trans ((mergeLine_linesOnly ..).trans ((stampHome_linesOnly ..).trans (wakeWords_linesOnly ..)))

theorem setFe_linesOnly (s : State) (place w : Nat) (full : Bool) : LinesOnly s (setFe s place w full) := by
  unfold setFe
  split
  · exact LinesOnly.refl s
  · exact ⟨rfl, rfl, rfl, rfl⟩

theorem carryFe_linesOnly (s : State) (line : Nat) (fe : BitVec 16) (bytes : BitVec 64) (feMask : BitVec 16) :
    LinesOnly s (carryFe s line fe bytes feMask) :=
  LinesOnly.foldl (fun s w => setFe_linesOnly s 0 (16 * line + w) (fe.getLsbD w)) _ s

/-! ## The TLBs of every level (R14) -/

/-- Every TLB of t has the entries it has in s. -/
structure SameTlbs (s t : State) : Prop where
  core : ∀ c, (t.core c).tlb = (s.core c).tlb
  cluster : ∀ k, (t.cluster k).tlb = (s.cluster k).tlb
  bridge : t.bridge.tlb = s.bridge.tlb

namespace SameTlbs

theorem refl (s : State) : SameTlbs s s := ⟨fun _ => rfl, fun _ => rfl, rfl⟩

theorem trans {s t u : State} (h : SameTlbs s t) (k : SameTlbs t u) : SameTlbs s u :=
  ⟨fun c => (k.core c).trans (h.core c), fun j => (k.cluster j).trans (h.cluster j), k.bridge.trans h.bridge⟩

theorem foldl {α : Type} {f : State → α → State} (hf : ∀ s a, SameTlbs s (f s a)) (l : List α) (s : State) :
    SameTlbs s (l.foldl f s) := by
  induction l generalizing s with
  | nil => exact refl s
  | cons a l ih => exact (hf s a).trans (ih _)

theorem of_linesOnly {s t : State} (h : LinesOnly s t) : SameTlbs s t :=
  ⟨fun c => by rw [h.core], fun k => by rw [h.cluster], h.tlb⟩

theorem setCore {s : State} {c : Nat} {x : Core} (h : x.tlb = (s.core c).tlb) : SameTlbs s (s.setCore c x) := by
  refine ⟨fun d => ?_, fun _ => rfl, rfl⟩
  by_cases hd : d = c
  · rw [hd, State.core_setCore_same, h]
  · rw [State.core_setCore_other _ _ hd]

theorem setCluster {s : State} {k : Nat} {x : Cluster} (h : x.tlb = (s.cluster k).tlb) : SameTlbs s (s.setCluster k x) := by
  refine ⟨fun _ => rfl, fun j => ?_, rfl⟩
  by_cases hj : j = k
  · rw [hj, State.cluster_setCluster_same, h]
  · rw [State.cluster_setCluster_other _ _ hj]

end SameTlbs

theorem raiseClock_sameTlbs (s : State) (core c : Nat) : SameTlbs s (raiseClock s core c) := SameTlbs.setCore rfl
theorem raiseCluster_sameTlbs (s : State) (k c : Nat) : SameTlbs s (raiseCluster s k c) := SameTlbs.setCluster rfl

theorem askCluster_sameTlbs (s : State) (core : Nat) : SameTlbs s (askCluster s core) :=
  (raiseCluster_sameTlbs ..).trans (raiseClock_sameTlbs ..)

theorem pushBytes_sameTlbs (s : State) (k ctx line : Nat) (data : Line) (bytes : BitVec 64) (fe feMask : BitVec 16) :
    SameTlbs s (pushBytes s k ctx line data bytes fe feMask) := by
  unfold pushBytes
  split
  · exact SameTlbs.refl s
  · exact (SameTlbs.of_linesOnly ((homeMerge_linesOnly ..).trans (carryFe_linesOnly ..))).trans (raiseCluster_sameTlbs ..)

theorem pushLine_sameTlbs (s : State) (k line : Nat) : SameTlbs s (pushLine s k line) := by
  unfold pushLine
  split
  · next l _ =>
    split
    · refine SameTlbs.trans ?_ (SameTlbs.setCluster rfl)
      refine SameTlbs.trans ?_ (pushBytes_sameTlbs ..)
      split
      · exact SameTlbs.of_linesOnly (poison_linesOnly ..)
      · exact SameTlbs.refl s
    · exact SameTlbs.refl s
  · exact SameTlbs.refl s

theorem dropLine_sameTlbs (s : State) (k line : Nat) : SameTlbs s (dropLine s k line) :=
  (pushLine_sameTlbs ..).trans (SameTlbs.setCluster rfl)

theorem sameContext_sameTlbs (s : State) (k ctx line : Nat) : SameTlbs s (sameContext s k ctx line) := by
  unfold sameContext
  split
  · split
    · exact SameTlbs.refl s
    · exact dropLine_sameTlbs ..
  · exact SameTlbs.refl s

theorem setWatchers_sameTlbs (s : State) (place : Nat) (l : List Sleeper) : SameTlbs s (setWatchers s place l) := by
  unfold setWatchers
  split
  · exact ⟨fun _ => rfl, fun _ => rfl, rfl⟩
  · exact SameTlbs.setCluster rfl

theorem wakeWords_sameTlbs (s : State) (place : Nat) (keys : List Nat) (c : Nat) : SameTlbs s (wakeWords s place keys c) := by
  unfold wakeWords
  dsimp only
  split
  · exact SameTlbs.refl s
  · exact (setWatchers_sameTlbs ..).trans
      (SameTlbs.foldl (fun s (w : Sleeper) => .of_linesOnly (endWaita_linesOnly s w.thread 0 c)) _ _)

theorem tellCluster_sameTlbs (s : State) (k line : Nat) (mask : Line) (fe feMask : BitVec 16) (c : Nat) :
    SameTlbs s (tellCluster s k line mask fe feMask c) :=
  (wakeWords_sameTlbs ..).trans ⟨fun _ => rfl, fun _ => rfl, rfl⟩

theorem stashPush_sameTlbs (s : State) (core key : Nat) : SameTlbs s (stashPush s core key) := by
  unfold stashPush
  split
  · next l _ =>
    split
    · exact SameTlbs.refl s
    · refine SameTlbs.trans ?_ (SameTlbs.setCore rfl)
      refine SameTlbs.trans ?_ (askCluster_sameTlbs ..)
      have hbefore : SameTlbs s (sameContext (askCluster (if l.bad then poison s (key / 16) else s) core) (clusterOf core) l.ctx
          (key / 16)) := by
        refine SameTlbs.trans ?_ (sameContext_sameTlbs ..)
        refine SameTlbs.trans ?_ (askCluster_sameTlbs ..)
        split
        · exact .of_linesOnly (poison_linesOnly ..)
        · exact SameTlbs.refl s
      refine hbefore.trans ?_
      generalize sameContext _ _ _ _ = u
      split
      · refine SameTlbs.trans ?_ (tellCluster_sameTlbs ..)
        refine SameTlbs.trans ?_ (pushLine_sameTlbs ..)
        exact SameTlbs.setCluster rfl
      · exact pushBytes_sameTlbs ..
  · exact SameTlbs.refl s

/-- Some clusters give up their partials of a line. -/
def takePartials (s : State) (line : Nat) (clusters : List Nat) : State :=
  clusters.foldl (fun s k => if (look (s.cluster k).partials line).isSome then
    s.setCluster k { s.cluster k with partials := del (s.cluster k).partials line } else s) s

/-- A combine takes partials from clusters, poisons the line where one had an error, and writes the line at its home, unless its
tag does not check (R75, R428). -/
theorem combineLine_cases (s : State) (n ctx line c : Nat) (clusters : List Nat) :
    ∃ u, (u = s ∨ u = poison s line) ∧ (combineLine s n ctx line c clusters = takePartials u line clusters ∨
      ∃ ctx' new, combineLine s n ctx line c clusters =
        (homeMerge (takePartials u line clusters) ctx' line new (BitVec.allOnes 512) c).1) := by
  unfold combineLine
  dsimp only
  split
  · refine ⟨_, ?_, .inr ⟨_, _, rfl⟩⟩
    split
    · exact .inr rfl
    · exact .inl rfl
  · refine ⟨_, ?_, .inl rfl⟩
    split
    · exact .inr rfl
    · exact .inl rfl

theorem takePartials_sameTlbs (s : State) (line : Nat) (clusters : List Nat) : SameTlbs s (takePartials s line clusters) := by
  refine SameTlbs.foldl (fun s k => ?_) clusters s
  split
  · exact SameTlbs.setCluster rfl
  · exact SameTlbs.refl s

theorem combineLine_sameTlbs (s : State) (n ctx line c : Nat) (clusters : List Nat) :
    SameTlbs s (combineLine s n ctx line c clusters) := by
  obtain ⟨u, hu, hcases⟩ := combineLine_cases s n ctx line c clusters
  have hsu : SameTlbs s (takePartials u line clusters) := by
    refine SameTlbs.trans ?_ (takePartials_sameTlbs ..)
    rcases hu with rfl | rfl
    · exact SameTlbs.refl u
    · exact .of_linesOnly (poison_linesOnly ..)
  rcases hcases with h | ⟨ctx', new, h⟩
  · rw [h]
    exact hsu
  · rw [h]
    exact hsu.trans (.of_linesOnly (homeMerge_linesOnly ..))

theorem dropPartial_sameTlbs (s : State) (k line : Nat) : SameTlbs s (dropPartial s k line) := by
  unfold dropPartial
  split
  · exact (combineLine_sameTlbs ..).trans (raiseCluster_sameTlbs ..)
  · exact SameTlbs.setCluster rfl

theorem settleAll_sameTlbs (s : State) : SameTlbs s (settleAll s) := ⟨fun _ => rfl, fun _ => rfl, rfl⟩

theorem pushTranslated_sameTlbs (s : State) (l : List TlbEntry) : SameTlbs s (pushTranslated s l) := by
  unfold pushTranslated
  refine SameTlbs.trans (SameTlbs.foldl (fun s p => ?_) _ _) (SameTlbs.foldl (fun s p => ?_) _ _)
  · exact SameTlbs.foldl (fun s key => stashPush_sameTlbs s p.1 key) _ s
  · exact (SameTlbs.foldl (fun s line => pushLine_sameTlbs s p.1 line) _ s).trans
      (SameTlbs.foldl (fun s line => dropPartial_sameTlbs s p.1 line) _ _)

end Sys2Proof.Laws
end

section
/-!
SUPPORT. A fill when no miss waits for an entry: what each level's answer keeps and installs, and who is noted where the page is
absent.
-/

namespace Sys2Proof.Fill

open Machine Spec Laws

/-! ## A part of the state written twice -/

theorem put_put {α : Type} (m : AMap α) (k : Nat) (v u : α) : put (put m k v) k u = put m k u := by
  induction m with
  | nil => simp [put]
  | cons p rest ih =>
    obtain ⟨j, w⟩ := p
    rcases Nat.lt_trichotomy k j with h | h | h
    · simp [put, h]
    · simp [put, h]
    · simp [put, ih, Nat.lt_asymm h, Nat.ne_of_gt h]

theorem setCore_setCore (s : State) (c : Nat) (x y : Core) : (s.setCore c x).setCore c y = s.setCore c y := by
  simp only [State.setCore, put_put]

theorem setCluster_setCluster (s : State) (k : Nat) (x y : Cluster) : (s.setCluster k x).setCluster k y = s.setCluster k y := by
  simp only [State.setCluster, put_put]

/-! ## No miss waits (R17) -/

theorem noMissWaits_core {s : State} (h : NoMissWaits s) (c : Nat) : (s.core c).missWaits = [] := by
  rcases mem_or_eq_of_lookD s.cores c {} with hm | hd
  · exact h.2.2 _ hm
  · rw [State.core, hd]

theorem noMissWaits_cluster {s : State} (h : NoMissWaits s) (k : Nat) : (s.cluster k).missWaits = [] := by
  rcases mem_or_eq_of_lookD s.clusters k {} with hm | hd
  · exact h.2.1 _ hm
  · rw [State.cluster, hd]

theorem noMissWaits_setCore {s : State} (h : NoMissWaits s) (c : Nat) {x : Core} (hx : x.missWaits = []) :
    NoMissWaits (s.setCore c x) := by
  refine ⟨h.1, h.2.1, fun p hp => ?_⟩
  rcases mem_put _ _ _ hp with rfl | hp
  · exact hx
  · exact h.2.2 p hp

theorem noMissWaits_setCluster {s : State} (h : NoMissWaits s) (k : Nat) {x : Cluster} (hx : x.missWaits = []) :
    NoMissWaits (s.setCluster k x) := by
  refine ⟨h.1, fun p hp => ?_, h.2.2⟩
  rcases mem_put _ _ _ hp with rfl | hp
  · exact hx
  · exact h.2.1 p hp

/-- A fold of steps that change nothing. -/
theorem foldl_eq_self {α : Type} {f : State → α → State} {s : State} {l : List α} (h : ∀ x ∈ l, f s x = s) : l.foldl f s = s :=
  List.foldlRecOn (motive := (· = s)) l f rfl fun _ hb x hx => hb ▸ h x hx

/-- Where no miss waits, none moves up. -/
theorem promoteMisses_of_noMissWaits {s : State} (h : NoMissWaits s) : promoteMisses s = s := by
  obtain ⟨hb, hk, hc⟩ := h
  have hbridge : promoteBridge s.bridge.missWaits.length s = s := by
    rw [hb]
    rfl
  have hclusters : s.clusters.foldl (fun s p => promoteCluster p.1 p.2.missWaits.length s) s = s :=
    foldl_eq_self fun p hp => by
      rw [hk p hp]
      rfl
  have hcores : s.cores.foldl (fun s p => promoteCore p.1 p.2.missWaits.length s) s = s :=
    foldl_eq_self fun p hp => by
      rw [hc p hp]
      rfl
  simp only [promoteMisses, hbridge, hclusters, hcores]

/-- A request has passed every level where no miss waits. -/
theorem passed_nil (m : Miss) : passed [] m = true := rfl

theorem coreMisses_eq {s : State} (h : NoMissWaits s) (c : Nat) (test : Miss → Bool) :
    coreMisses s c test = (s.core c).misses.filter test := by
  simp only [coreMisses, noMissWaits_cluster h, h.1, passed_nil, Bool.and_true]

theorem clusterMisses_eq {s : State} (h : NoMissWaits s) (k : Nat) (test : Miss → Bool) :
    clusterMisses s k test = (s.cluster k).misses.filter test := by
  simp only [clusterMisses, h.1, passed_nil, Bool.and_true]

/-! ## Installing an entry (R14) -/

/-- The entry installed last stays: a full set gives up the one used least recently. -/
theorem mem_tlbInstall (sets : Nat) {ways : Nat} (hways : 0 < ways) (l : List TlbEntry) (e : TlbEntry) : e ∈ tlbInstall sets ways l e := by
  unfold tlbInstall
  dsimp only
  generalize l.filter _ = rest
  generalize hset : (fun x : TlbEntry => (if sets = 1 then 0 else Config.tlbSet x.page % sets) ==
    (if sets = 1 then 0 else Config.tlbSet e.page % sets)) = inSet
  split
  · exact List.mem_cons_self
  · next hfull =>
    have he : inSet e = true := by simp [← hset]
    rw [List.filter_cons_of_pos he, List.length_cons] at hfull
    obtain ⟨x, hx⟩ := List.exists_mem_of_length_pos (show 0 < (rest.filter inSet).length by omega)
    obtain ⟨hx, hxs⟩ := List.mem_filter.1 hx
    rw [List.reverse_cons, List.eraseP_append_left hxs _ (List.mem_reverse.2 hx)]
    simp

theorem mem_tlbInstall_bridge (l : List TlbEntry) (e : TlbEntry) : e ∈ tlbInstall 4096 16 l e := mem_tlbInstall _ (by decide) l e
theorem mem_tlbInstall_cluster (l : List TlbEntry) (e : TlbEntry) : e ∈ tlbInstall 512 8 l e := mem_tlbInstall _ (by decide) l e
theorem mem_tlbInstall_core (l : List TlbEntry) (e : TlbEntry) : e ∈ tlbInstall 1 256 l e := mem_tlbInstall _ (by decide) l e

/-! ## A page that is there (R14) -/

/-- No miss waits for an entry, and no miss of a core has a prefetch among its waiters. -/
structure Plain (s : State) : Prop where
  noWaits : NoMissWaits s
  noPrefetch : ∀ c, ∀ m ∈ (s.core c).misses, ∀ w ∈ m.waiters, ∀ n a, w ≠ .prefetch n a

theorem prefetchOn_other (s : State) {w : Waiter} (h : ∀ n a, w ≠ .prefetch n a) : prefetchOn s w = s := by
  cases w with
  | prefetch n a => exact absurd rfl (h n a)
  | _ => rfl

/-- Taking misses from a core adds no prefetch. -/
theorem plain_setCore {s : State} (h : Plain s) (c : Nat) {x : Core} (hw : x.missWaits = [])
    (hm : ∀ m ∈ x.misses, m ∈ (s.core c).misses) : Plain (s.setCore c x) := by
  refine ⟨noMissWaits_setCore h.noWaits c hw, fun d m hd => ?_⟩
  by_cases hdc : d = c
  · subst hdc
    rw [State.core_setCore_same] at hd
    exact h.noPrefetch d m (hm m hd)
  · rw [State.core_setCore_other _ _ hdc] at hd
    exact h.noPrefetch d m hd

theorem plain_setCluster {s : State} (h : Plain s) (k : Nat) {x : Cluster} (hw : x.missWaits = []) : Plain (s.setCluster k x) :=
  ⟨noMissWaits_setCluster h.noWaits k hw, h.noPrefetch⟩

/-- From s to t an entry has gone to some cores and clusters: each has its misses as they were, or has the entry; and nothing is
forgotten. -/
structure Told (e : TlbEntry) (s t : State) : Prop where
  plain : Plain t
  storage : storage t = storage s
  bridge : t.bridge = s.bridge
  core : ∀ c, (t.core c).misses = (s.core c).misses ∨ e ∈ (t.core c).tlb
  coreKeeps : ∀ c, e ∈ (s.core c).tlb → e ∈ (t.core c).tlb
  clusterKeeps : ∀ k, e ∈ (s.cluster k).tlb → e ∈ (t.cluster k).tlb

/-- The core of which an entry answers a miss has it. -/
def CoreTold (e : TlbEntry) (s t : State) (c : Nat) : Prop := (s.core c).misses.any e.answers = true → e ∈ (t.core c).tlb

namespace Told

theorem refl {e : TlbEntry} {s : State} (h : Plain s) : Told e s s :=
  ⟨h, rfl, rfl, fun _ => .inl rfl, fun _ h => h, fun _ h => h⟩

theorem trans {e : TlbEntry} {s t u : State} (h : Told e s t) (k : Told e t u) : Told e s u := by
  refine ⟨k.plain, k.storage.trans h.storage, k.bridge.trans h.bridge, fun c => ?_, fun c hc => k.coreKeeps c (h.coreKeeps c hc),
    fun j hj => k.clusterKeeps j (h.clusterKeeps j hj)⟩
  rcases k.core c with hk | hk
  · rcases h.core c with hh | hh
    · exact .inl (hk.trans hh)
    · exact .inr (k.coreKeeps c hh)
  · exact .inr hk

theorem foldl {α : Type} {e : TlbEntry} {f : State → α → State} (hf : ∀ s a, Plain s → Told e s (f s a)) (l : List α) {s : State}
    (h : Plain s) : Told e s (l.foldl f s) := by
  induction l generalizing s with
  | nil => exact refl h
  | cons a l ih => exact (hf s a h).trans (ih (hf s a h).plain)

/-- What a later step tells a core, the whole tells it. -/
theorem coreTold {e : TlbEntry} {s t u : State} {c : Nat} (h : Told e s t) (hc : CoreTold e t u c) (k : Told e t u) :
    CoreTold e s u c := by
  intro hany
  rcases h.core c with hm | hm
  · exact hc (hm ▸ hany)
  · exact k.coreKeeps c hm

end Told

/-- A core after an entry has answered its misses l. -/
def answeredCore (x : Core) (e : TlbEntry) (l : List Miss) : Core :=
  { x with misses := x.misses.filter (fun m => !l.contains m), tlb := tlbInstall 1 256 x.tlb e, missWaits := served e x.missWaits }

/-- A core none of whose misses an entry answers is left alone. -/
theorem answerCore_of_none {s : State} (h : Plain s) {c : Nat} {e : TlbEntry} (hl : (s.core c).misses.filter e.answers = []) :
    answerCore s c e = s := by
  unfold answerCore
  rw [coreMisses_eq h.noWaits, hl]
  rfl

theorem answerCore_of_some {s : State} (h : Plain s) {c : Nat} {e : TlbEntry} (hl : (s.core c).misses.filter e.answers ≠ []) :
    answerCore s c e = s.setCore c (answeredCore (s.core c) e ((s.core c).misses.filter e.answers)) := by
  have hwaiters : ∀ w ∈ ((s.core c).misses.filter e.answers).flatMap (·.waiters), ∀ n a, w ≠ .prefetch n a := by
    intro w hw
    obtain ⟨m, hm, hw⟩ := List.mem_flatMap.1 hw
    exact h.noPrefetch c m (List.mem_filter.1 hm).1 w hw
  unfold answerCore
  rw [coreMisses_eq h.noWaits]
  generalize (s.core c).misses.filter e.answers = l at hl hwaiters ⊢
  rw [if_neg (by simpa using hl)]
  simp only [installCore, dropCoreMisses, setCore_setCore, State.core_setCore_same, noMissWaits_core h.noWaits, List.filter_nil,
    List.map_nil, List.append_nil]
  rw [foldl_eq_self fun w hw => prefetchOn_other _ (hwaiters w hw), answeredCore, noMissWaits_core h.noWaits]

/-- A core is told of an entry that has come from its cluster. -/
theorem answerCore_told {s : State} (h : Plain s) (c : Nat) (e : TlbEntry) :
    Told e s (answerCore s c e) ∧ CoreTold e s (answerCore s c e) c ∧ (answerCore s c e).clusters = s.clusters := by
  by_cases hl : (s.core c).misses.filter e.answers = []
  · rw [answerCore_of_none h hl]
    refine ⟨Told.refl h, fun hany => ?_, rfl⟩
    obtain ⟨m, hm, he⟩ := List.any_eq_true.1 hany
    exact absurd (List.mem_filter.2 ⟨hm, he⟩) (by simp [hl])
  · rw [answerCore_of_some h hl]
    generalize (s.core c).misses.filter e.answers = l
    have hnew : e ∈ (answeredCore (s.core c) e l).tlb := mem_tlbInstall_core _ e
    refine ⟨⟨?_, rfl, rfl, fun d => ?_, fun d hd => ?_, fun _ hk => hk⟩, fun _ => ?_, rfl⟩
    · refine plain_setCore h c ?_ fun m hm => List.mem_of_mem_filter hm
      rw [answeredCore, noMissWaits_core h.noWaits]
      rfl
    · by_cases hdc : d = c
      · subst hdc
        rw [State.core_setCore_same]
        exact .inr hnew
      · rw [State.core_setCore_other _ _ hdc]
        exact .inl rfl
    · by_cases hdc : d = c
      · subst hdc
        rw [State.core_setCore_same]
        exact hnew
      · rw [State.core_setCore_other _ _ hdc]
        exact hd
    · rw [State.core_setCore_same]
      exact hnew

/-- Where cores are told one after another, each is. -/
theorem foldl_answerCore {e : TlbEntry} (core : Nat → Nat) (l : List Nat) {s : State} (h : Plain s) :
    Told e s (l.foldl (fun s i => answerCore s (core i) e) s) ∧
      (∀ i ∈ l, CoreTold e s (l.foldl (fun s i => answerCore s (core i) e) s) (core i)) ∧
      (l.foldl (fun s i => answerCore s (core i) e) s).clusters = s.clusters := by
  induction l generalizing s with
  | nil => exact ⟨Told.refl h, by simp, rfl⟩
  | cons j l ih =>
    obtain ⟨hj, hcj, hkj⟩ := answerCore_told h (core j) e
    obtain ⟨hl, hcl, hkl⟩ := ih hj.plain
    refine ⟨hj.trans hl, fun i hi => ?_, hkl.trans hkj⟩
    rcases List.mem_cons.1 hi with rfl | hi
    · exact fun hany => hl.coreKeeps _ (hcj hany)
    · exact hj.coreTold (hcl i hi) hl

/-- A cluster after an entry has answered its misses l. -/
def answeredCluster (x : Cluster) (e : TlbEntry) (l : List Miss) : Cluster :=
  { x with misses := x.misses.filter (fun m => !l.contains m), tlb := tlbInstall 512 8 x.tlb e, missWaits := served e x.missWaits }

theorem answerCluster_of_none {s : State} (h : Plain s) {k : Nat} {e : TlbEntry} (hl : (s.cluster k).misses.filter e.answers = []) :
    answerCluster s k e = s := by
  unfold answerCluster
  rw [clusterMisses_eq h.noWaits, hl]
  rfl

theorem answerCluster_of_some {s : State} (h : Plain s) {k : Nat} {e : TlbEntry} (hl : (s.cluster k).misses.filter e.answers ≠ []) :
    answerCluster s k e = (List.range 16).foldl (fun s i => answerCore s (coreAt k i) e)
      (s.setCluster k (answeredCluster (s.cluster k) e ((s.cluster k).misses.filter e.answers))) := by
  unfold answerCluster
  rw [clusterMisses_eq h.noWaits]
  generalize (s.cluster k).misses.filter e.answers = l at hl ⊢
  rw [if_neg (by simpa using hl)]
  simp only [installCluster, dropClusterMisses, setCluster_setCluster, State.cluster_setCluster_same]
  rfl

/-- The cluster of which an entry answers a miss has it, and so have the cores of the cluster. -/
def ClusterTold (e : TlbEntry) (s t : State) (k : Nat) : Prop :=
  (s.cluster k).misses.any e.answers = true → e ∈ (t.cluster k).tlb ∧ ∀ i < 16, CoreTold e s t (coreAt k i)

/-- A cluster and its cores are told of an entry that has come from the bridge. -/
theorem answerCluster_told {s : State} (h : Plain s) (k : Nat) (e : TlbEntry) :
    Told e s (answerCluster s k e) ∧ ClusterTold e s (answerCluster s k e) k ∧
      ∀ j, j ≠ k → (answerCluster s k e).cluster j = s.cluster j := by
  by_cases hl : (s.cluster k).misses.filter e.answers = []
  · rw [answerCluster_of_none h hl]
    refine ⟨Told.refl h, fun hany => ?_, fun _ _ => rfl⟩
    obtain ⟨m, hm, he⟩ := List.any_eq_true.1 hany
    exact absurd (List.mem_filter.2 ⟨hm, he⟩) (by simp [hl])
  · rw [answerCluster_of_some h hl]
    generalize (s.cluster k).misses.filter e.answers = l
    generalize hu : s.setCluster k (answeredCluster (s.cluster k) e l) = u
    have hnew : e ∈ (u.cluster k).tlb := by
      rw [← hu, State.cluster_setCluster_same]
      exact mem_tlbInstall_cluster _ e
    have hother (j : Nat) (hj : j ≠ k) : u.cluster j = s.cluster j := by
      rw [← hu, State.cluster_setCluster_other _ _ hj]
    have hsu : Told e s u := by
      refine ⟨?_, hu ▸ rfl, hu ▸ rfl, fun c => .inl (hu ▸ rfl), fun c hc => hu ▸ hc, fun j hj => ?_⟩
      · rw [← hu]
        refine plain_setCluster h k ?_
        rw [answeredCluster, noMissWaits_cluster h.noWaits]
        rfl
      · by_cases hjk : j = k
        · rw [hjk]
          exact hnew
        · rw [hother j hjk]
          exact hj
    obtain ⟨hcores, htold, hclusters⟩ := foldl_answerCore (e := e) (coreAt k) (List.range 16) hsu.plain
    generalize (List.range 16).foldl _ u = t at hcores htold hclusters
    refine ⟨hsu.trans hcores, fun _ => ⟨hcores.clusterKeeps k hnew, fun i hi => ?_⟩, fun j hj => ?_⟩
    · exact hsu.coreTold (htold i (List.mem_range.2 hi)) hcores
    · rw [State.cluster, hclusters]
      exact hother j hj

/-- Where clusters are told one after another, each of them is. -/
theorem foldl_answerCluster {e : TlbEntry} (l : List Nat) {s : State} (h : Plain s) :
    Told e s (l.foldl (fun s k => answerCluster s k e) s) ∧
      ∀ k ∈ l, ClusterTold e s (l.foldl (fun s k => answerCluster s k e) s) k := by
  induction l generalizing s with
  | nil => exact ⟨Told.refl h, by simp⟩
  | cons j l ih =>
    obtain ⟨hj, hkj, hother⟩ := answerCluster_told h j e
    obtain ⟨hl, hkl⟩ := ih hj.plain
    refine ⟨hj.trans hl, fun k hk hany => ?_⟩
    by_cases hkjEq : k = j
    · subst hkjEq
      obtain ⟨he, hcores⟩ := hkj hany
      exact ⟨hl.clusterKeeps _ he, fun i hi hc => hl.coreKeeps _ (hcores i hi hc)⟩
    · have hk : k ∈ l := (List.mem_cons.1 hk).resolve_left hkjEq
      rw [← hother k hkjEq] at hany
      obtain ⟨he, hcores⟩ := hkl k hk hany
      exact ⟨he, fun i hi => hj.coreTold (hcores i hi) hl⟩

/-- The bridge has the entry it has been given, and its misses that the entry answers end. -/
def bridgeTold (s : State) (e : TlbEntry) : State :=
  { s with bridge := { s.bridge with tlb := tlbInstall 4096 16 s.bridge.tlb e, missWaits := served e s.bridge.missWaits,
                                     misses := s.bridge.misses.filter (fun m => !(s.bridge.misses.filter e.answers).contains m) } }

theorem answerBridge_eq (s : State) (e : TlbEntry) :
    answerBridge (installBridge s e) e = (s.clusters.map (·.1)).foldl (fun s k => answerCluster s k e) (bridgeTold s e) := rfl

theorem fill_present (s : State) (pasid : BitVec 20) (va : DWord) {r : FillResponse} (h : r.present = true) :
    fill s pasid va r = promoteMisses (answerBridge (installBridge s (filledEntry pasid va r)) (filledEntry pasid va r)) := by
  rw [fill, if_pos h]
  rfl

/-- A miss that an entry answers is none of those that are left. -/
theorem answers_of_mem_left {l : List Miss} {e : TlbEntry} {m : Miss} (h : m ∈ l.filter (fun m => !(l.filter e.answers).contains m)) :
    e.answers m = false := by
  obtain ⟨hm, hn⟩ := List.mem_filter.1 h
  rw [Bool.eq_false_iff]
  intro he
  simp [hm, he] at hn

/-- A cluster with a miss is listed. -/
theorem mem_clusters_of_any {s : State} {k : Nat} {p : Miss → Bool} (h : (s.cluster k).misses.any p = true) :
    k ∈ s.clusters.map (·.1) := by
  rcases mem_or_eq_of_lookD s.clusters k {} with hm | hd
  · exact List.mem_map_of_mem (f := (·.1)) hm
  · rw [State.cluster, hd] at h
    exact absurd h (by simp)

/-- A core with a miss is listed. -/
theorem mem_cores_of_mem {s : State} {c : Nat} {m : Miss} (h : m ∈ (s.core c).misses) : (c, s.core c) ∈ s.cores := by
  rcases mem_or_eq_of_lookD s.cores c {} with hm | hd
  · exact hm
  · rw [State.core, hd] at h
    exact absurd h List.not_mem_nil

/-- What the fill of a page that is there leaves. -/
theorem fill_of_present {s : State} {pasid : BitVec 20} {va : DWord} {r : FillResponse} (hw : NoMissWaits s) (hr : r.present = true)
    (hp : ∀ p ∈ s.cores, ∀ m ∈ p.2.misses, ∀ w ∈ m.waiters, ∀ n a, w ≠ .prefetch n a) :
    storage (fill s pasid va r) = storage s ∧ filledEntry pasid va r ∈ (fill s pasid va r).bridge.tlb ∧
      (∀ m ∈ (fill s pasid va r).bridge.misses, (filledEntry pasid va r).answers m = false) ∧
      ∀ k, ClusterTold (filledEntry pasid va r) s (fill s pasid va r) k := by
  rw [fill_present s pasid va hr, answerBridge_eq]
  generalize filledEntry pasid va r = e
  have hplain : Plain (bridgeTold s e) := by
    refine ⟨⟨?_, hw.2.1, hw.2.2⟩, fun c m hm => hp _ (mem_cores_of_mem hm) m hm⟩
    rw [bridgeTold, hw.1]
    rfl
  obtain ⟨htold, hclusters⟩ := foldl_answerCluster (e := e) (s.clusters.map (·.1)) hplain
  generalize (s.clusters.map (·.1)).foldl _ (bridgeTold s e) = t at htold hclusters
  rw [promoteMisses_of_noMissWaits htold.plain.noWaits]
  refine ⟨htold.storage, ?_, fun m hm => ?_, fun k hany => hclusters k (mem_clusters_of_any hany) hany⟩
  · rw [htold.bridge]
    exact mem_tlbInstall_bridge _ e
  · rw [htold.bridge] at hm
    exact answers_of_mem_left hm

/-! ## A page that is absent (R18) -/

/-- Misses are taken from some cores. -/
def coresWithout (f : Nat → List Miss) (l : List Nat) (s : State) : State := l.foldl (fun r c => dropCoreMisses r c (f c)) s

/-- Misses are taken from some clusters. -/
def clustersWithout (f : Nat → List Miss) (l : List Nat) (s : State) : State := l.foldl (fun r k => dropClusterMisses r k (f k)) s

/-- Misses that end leave storage and the bridge, and none waits if none did. -/
theorem coresWithout_frame (f : Nat → List Miss) (l : List Nat) {s : State} (h : NoMissWaits s) :
    NoMissWaits (coresWithout f l s) ∧ storage (coresWithout f l s) = storage s ∧ (coresWithout f l s).bridge = s.bridge := by
  induction l generalizing s with
  | nil => exact ⟨h, rfl, rfl⟩
  | cons c l ih => exact ih (noMissWaits_setCore h c (noMissWaits_core h c))

theorem clustersWithout_frame (f : Nat → List Miss) (l : List Nat) {s : State} (h : NoMissWaits s) :
    NoMissWaits (clustersWithout f l s) ∧ storage (clustersWithout f l s) = storage s ∧ (clustersWithout f l s).bridge = s.bridge := by
  induction l generalizing s with
  | nil => exact ⟨h, rfl, rfl⟩
  | cons k l ih => exact ih (noMissWaits_setCluster h k (noMissWaits_cluster h k))

/-- The misses of every level that a test names have ended. -/
def missesEnded (s : State) (test : Miss → Bool) : State :=
  dropBridgeMisses (clustersWithout (fun k => clusterMisses s k test) (s.clusters.map (·.1))
    (coresWithout (fun c => coreMisses s c test) (s.cores.map (·.1)) s)) (s.bridge.misses.filter test)

theorem missesEnded_frame {s : State} (h : NoMissWaits s) (test : Miss → Bool) :
    NoMissWaits (missesEnded s test) ∧ storage (missesEnded s test) = storage s ∧
      ∀ m ∈ (missesEnded s test).bridge.misses, test m = false := by
  obtain ⟨hwc, hsc, hbc⟩ := coresWithout_frame (fun c => coreMisses s c test) (s.cores.map (·.1)) h
  obtain ⟨hwk, hsk, hbk⟩ := clustersWithout_frame (fun k => clusterMisses s k test) (s.clusters.map (·.1)) hwc
  refine ⟨hwk, hsk.trans hsc, fun m hm => ?_⟩
  obtain ⟨hm, hn⟩ := List.mem_filter.1 hm
  rw [hbk, hbc] at hm
  rw [Bool.eq_false_iff]
  intro ht
  simp [hm, ht] at hn

theorem absentWaiters_fst (s : State) (test : Miss → Bool) : (absentWaiters s test).1 = missesEnded s test := rfl

/-- Who waits at a core for a page that is absent hears of it. -/
theorem mem_absentWaiters {s : State} (h : NoMissWaits s) {test : Miss → Bool} {c : Nat} {m : Miss} {w : Waiter}
    (hm : m ∈ (s.core c).misses) (ht : test m = true) (hw : w ∈ m.waiters) (hlevel : w.level = 0) : w ∈ (absentWaiters s test).2 := by
  refine List.mem_eraseDups.2 (List.mem_append_right _ (List.mem_flatMap.2 ⟨c, ?_, ?_⟩))
  · exact List.mem_map_of_mem (f := (·.1)) (mem_cores_of_mem hm)
  · rw [coreMisses_eq h]
    exact List.mem_filter.2 ⟨List.mem_flatMap.2 ⟨m, List.mem_filter.2 ⟨hm, ht⟩, hw⟩, by simp [hlevel]⟩

section
variable (pasid : BitVec 20) (page : Nat)

theorem noteAbsent_frame (s : State) (w : Waiter) :
    storage (noteAbsent s pasid page w) = storage s ∧ (noteAbsent s pasid page w).bridge = s.bridge ∧
      ∀ c, ∀ x ∈ (s.core c).absent, x ∈ ((noteAbsent s pasid page w).core c).absent := by
  unfold noteAbsent
  split
  · exact ⟨rfl, rfl, fun _ _ hx => hx⟩
  · refine ⟨rfl, rfl, fun c x hx => ?_⟩
    by_cases hc : c = w.home
    · subst hc
      rw [State.core_setCore_same]
      exact List.mem_append_left _ hx
    · rw [State.core_setCore_other _ _ hc]
      exact hx

theorem noteAbsent_notes (s : State) {w : Waiter} (h : ∀ n a, w ≠ .prefetch n a) :
    (w, pasid, page) ∈ ((noteAbsent s pasid page w).core w.home).absent := by
  unfold noteAbsent
  split
  · exact absurd rfl (h _ _)
  · rw [State.core_setCore_same]
    exact List.mem_append_right _ List.mem_cons_self

/-- Each of some waiters but a prefetch is noted at its core. -/
theorem foldl_noteAbsent (l : List Waiter) (s : State) :
    storage (l.foldl (fun s w => noteAbsent s pasid page w) s) = storage s ∧
      (l.foldl (fun s w => noteAbsent s pasid page w) s).bridge = s.bridge ∧
      (∀ c, ∀ x ∈ (s.core c).absent, x ∈ ((l.foldl (fun s w => noteAbsent s pasid page w) s).core c).absent) ∧
      ∀ w ∈ l, (∀ n a, w ≠ .prefetch n a) →
        (w, pasid, page) ∈ ((l.foldl (fun s w => noteAbsent s pasid page w) s).core w.home).absent := by
  induction l generalizing s with
  | nil => exact ⟨rfl, rfl, fun _ _ hx => hx, by simp⟩
  | cons v l ih =>
    obtain ⟨hs, hb, hk⟩ := noteAbsent_frame pasid page s v
    obtain ⟨hsl, hbl, hkl, hnl⟩ := ih (noteAbsent s pasid page v)
    refine ⟨hsl.trans hs, hbl.trans hb, fun c x hx => hkl c x (hk c x hx), fun w hw hn => ?_⟩
    rcases List.mem_cons.1 hw with rfl | hw
    · exact hkl _ _ (noteAbsent_notes pasid page s hn)
    · exact hnl w hw hn

end

/-- The misses of the page that a fill speaks of. -/
def onPage (pasid : BitVec 20) (va : DWord) (m : Miss) : Bool := m.pasid == pasid && m.page == pageOf va

theorem fill_absent {s : State} (pasid : BitVec 20) (va : DWord) {r : FillResponse} (hw : NoMissWaits s) (h : r.present = false) :
    fill s pasid va r = (absentWaiters s (onPage pasid va)).2.foldl (fun s w => noteAbsent s pasid (pageOf va) w)
      (missesEnded s (onPage pasid va)) := by
  rw [fill, if_neg (by simp [h])]
  change (absentWaiters s (onPage pasid va)).2.foldl _ (promoteMisses (missesEnded s (onPage pasid va))) = _
  rw [promoteMisses_of_noMissWaits (missesEnded_frame hw _).1]

/-- What the fill of a page that is absent leaves. -/
theorem fill_of_absent {s : State} {pasid : BitVec 20} {va : DWord} {r : FillResponse} (hw : NoMissWaits s) (hr : r.present = false) :
    storage (fill s pasid va r) = storage s ∧ (∀ m ∈ (fill s pasid va r).bridge.misses, onPage pasid va m = false) ∧
      ∀ c, ∀ m ∈ (s.core c).misses, onPage pasid va m = true → ∀ w ∈ m.waiters, w.level = 0 → (∀ n x, w ≠ .prefetch n x) →
        (w, pasid, pageOf va) ∈ ((fill s pasid va r).core w.home).absent := by
  obtain ⟨_, hstorage, hmisses⟩ := missesEnded_frame hw (onPage pasid va)
  obtain ⟨hs, hb, _, hnoted⟩ := foldl_noteAbsent pasid (pageOf va) (absentWaiters s (onPage pasid va)).2 (missesEnded s (onPage pasid va))
  rw [fill_absent pasid va hw hr]
  refine ⟨hs.trans hstorage, fun m hm => hmisses m (hb ▸ hm), fun c m hm ht w hwm hl hn => ?_⟩
  exact hnoted w (mem_absentWaiters hw hm ht hwm hl) hn

end Sys2Proof.Fill
end

section
/-!
PROOF of O29. Fills by what they leave of misses and TLBs; page responses, invalidations and evictions by the parts of the state they
change.
-/

namespace Sys2Proof.TranslationEvents

open Machine Spec Laws Fill

/-! ## Fills (R14, R18) -/

theorem onPage_iff {pasid : BitVec 20} {va : DWord} {m : Miss} : onPage pasid va m = true ↔ m.pasid = pasid ∧ m.page = pageOf va := by
  simp [onPage]

theorem translationFill_fills {s : State} {pasid : BitVec 20} {va : DWord} (resp : FillResponse)
    (h : s.bridge.misses.any (fun m => m.pasid == pasid && m.page == pageOf va) = true) :
    exec (.translationFill pasid va resp) s = .next (fill s pasid va resp) := if_pos h

/-! ## Page responses (R19, R382) -/

/-- The page request that has been answered is outstanding no more. -/
def pageAnswered (s : State) (pasid : BitVec 20) (page : Nat) : State :=
  { s with bridge := { s.bridge with pageRequests := s.bridge.pageRequests.filter (fun r => !(r.1 == pasid && r.2.1 == page)) } }

/-- What a page response leaves before a waiting fault sends its request. -/
def pageResponded (s : State) (pasid : BitVec 20) (page : Nat) (ok : Bool) : State :=
  pageRelease (pageNotices (pageAnswered s pasid page) pasid page ok) pasid page ok

theorem prgResponse_responds {s : State} {pasid : BitVec 20} {page : DWord} (ok : Bool)
    (h : s.bridge.pageRequests.any (fun r => r.1 == pasid && r.2.1 == pageOf page) = true) :
    exec (.prgResponse pasid page ok) s = .next (nextPageRequest (pageResponded s pasid (pageOf page) ok)) := if_pos h

/-- A waiting fault that sends its request changes the bridge alone, and there is none where none waits. -/
theorem nextPageRequest_frame (s : State) :
    storage (nextPageRequest s) = storage s ∧ (nextPageRequest s).threads = s.threads ∧
      (s.bridge.pageWaits = [] → nextPageRequest s = s) := by
  unfold nextPageRequest
  dsimp only
  split
  · next h =>
    refine ⟨?_, ?_, fun hnil => ?_⟩
    · split <;> rfl
    · split <;> rfl
    · rw [hnil] at h
      exact absurd h (by simp [firstInClass])
  · exact ⟨rfl, rfl, fun _ => rfl⟩

/-- The thread after a page response: one whose upcall waited on the page has a notice. -/
def pageTold (s : State) (pasid : BitVec 20) (page : Nat) (ok : Bool) (th : Thread) : Thread :=
  if (s.viOf th.vi.toNat).pasid == pasid then
    { th with awaited := th.awaited.filter (fun (a : BitVec 8 × Nat) => a.2 != page / 4096),
              noteFault := (th.noteFault ++ ((th.awaited.filter (fun (a : BitVec 8 × Nat) => a.2 == page / 4096)).take 1).map
                (fun (a : BitVec 8 × Nat) => a.1.setWidth 16 ||| (if ok then 0 else 0x8000))).take 8 }
  else th

theorem pageResponded_thread (s : State) (pasid : BitVec 20) (page : Nat) (ok : Bool) (n : Nat) :
    (pageResponded s pasid page ok).thread n = pageTold s pasid page ok (s.thread n) := by
  refine lookD_map (pageTold s pasid page ok) s.threads n ?_
  unfold pageTold
  split <;> rfl

/-! ## Invalidations (R20) -/

/-- An invalidation drops the entries a test names at every level, and no other. -/
theorem invalidate_tlbs {s : State} {p : TlbEntry → Bool} (h : storesAway s p = false) :
    ∃ t, invalidate s p = some t ∧ t.bridge.tlb = s.bridge.tlb.filter (fun e => !p e) ∧
      (∀ k, (t.cluster k).tlb = (s.cluster k).tlb.filter (fun e => !p e)) ∧
      ∀ c, (t.core c).tlb = (s.core c).tlb.filter (fun e => !p e) := by
  have hsame : SameTlbs s (pushTranslated (settleAll s) (entriesOf s p)) :=
    (settleAll_sameTlbs s).trans (pushTranslated_sameTlbs ..)
  refine ⟨dropEntries (pushTranslated (settleAll s) (entriesOf s p)) p, by rw [invalidate, h]; rfl, ?_⟩
  generalize pushTranslated (settleAll s) (entriesOf s p) = u at hsame
  refine ⟨?_, fun k => ?_, fun c => ?_⟩
  · rw [← hsame.bridge]
    rfl
  · rw [← hsame.cluster k]
    exact congrArg Cluster.tlb (lookD_map (fun x : Cluster => { x with tlb := x.tlb.filter (fun e => !p e) }) u.clusters k rfl)
  · rw [← hsame.core c]
    exact congrArg Core.tlb (lookD_map (fun x : Core => { x with tlb := x.tlb.filter (fun e => !p e) }) u.cores c rfl)

/-- A core that forgets some of the absences it has noted. -/
def absentWithout (mine : Waiter × BitVec 20 × Nat → Bool) (x : Core) : Core := { x with absent := x.absent.filter (fun y => !mine y) }

theorem atsInvalidation_tlbs {s : State} {pasid : BitVec 20} {base : DWord} {bytes : Nat}
    (h : storesAway s (meetsRange pasid base bytes) = false) :
    ∃ t, exec (.atsInvalidation pasid base bytes) s = .next t ∧
      t.bridge.tlb = s.bridge.tlb.filter (fun e => !meetsRange pasid base bytes e) ∧
      (∀ k, (t.cluster k).tlb = (s.cluster k).tlb.filter (fun e => !meetsRange pasid base bytes e)) ∧
      ∀ c, (t.core c).tlb = (s.core c).tlb.filter (fun e => !meetsRange pasid base bytes e) := by
  obtain ⟨u, hu, hbridge, hclusters, hcores⟩ := invalidate_tlbs h
  have hexec : exec (.atsInvalidation pasid base bytes) s = execAtsInvalidation pasid base bytes s := rfl
  rw [hexec, execAtsInvalidation, show invalidate s (fun e => e.pasid == pasid && decide (e.page < base.toNat + bytes) &&
      decide (base.toNat < e.page + pageBytes e.size)) = some u from hu]
  refine ⟨_, rfl, hbridge, hclusters, fun c => ?_⟩
  rw [← hcores c]
  exact lookD_map_field (f := absentWithout _) Core.tlb (fun _ => rfl) u.cores c {}

/-! ## Clocks (R60) -/

/-- The clocks of some cores advance by one tick. -/
def aged (l : List Nat) (s : State) : State := l.foldl (fun st c => st.setCore c { st.core c with clock := (st.core c).clock + 1 }) s

theorem aged_frame (l : List Nat) (s : State) : storage (aged l s) = storage s ∧ (aged l s).threads = s.threads := by
  induction l generalizing s with
  | nil => exact ⟨rfl, rfl⟩
  | cons c l ih => exact ih _

theorem aged_other {l : List Nat} {c : Nat} (h : c ∉ l) (s : State) : (aged l s).core c = s.core c := by
  induction l generalizing s with
  | nil => rfl
  | cons d l ih =>
    rw [List.mem_cons, not_or] at h
    exact (ih h.2 _).trans (State.core_setCore_other _ _ h.1)

theorem aged_clock {l : List Nat} (hl : l.Nodup) {c : Nat} (h : c ∈ l) (s : State) : ((aged l s).core c).clock = (s.core c).clock + 1 := by
  induction l generalizing s with
  | nil => exact absurd h List.not_mem_nil
  | cons d l ih =>
    obtain ⟨hd, hl⟩ := List.nodup_cons.1 hl
    by_cases hc : c = d
    · subst hc
      exact congrArg Core.clock ((aged_other hd _).trans (State.core_setCore_same ..))
    · have hother : ((s.setCore d { s.core d with clock := (s.core d).clock + 1 }).core c) = s.core c := State.core_setCore_other _ _ hc
      exact (ih hl ((List.mem_cons.1 h).resolve_left hc) _).trans (by rw [hother])

/-! ## Evictions (R63, R67, R75) -/

theorem pushBytes_mem {s : State} {line : Nat} (h : (ownLine s line && inCar s.module (64 * line)) = false) (k : Nat) (data : Line)
    (bytes : BitVec 64) (fe feMask : BitVec 16) :
    (pushBytes s k 0 line data bytes fe feMask).mem = memWrite s.mem (64 * line) 64 data (expandMask bytes) := by
  have hfe (l : List Nat) (u : State) : (l.foldl (fun s w => setFe s 0 (16 * line + w) (fe.getLsbD w)) u).mem = u.mem := by
    induction l generalizing u with
    | nil => rfl
    | cons w l ih => exact (ih _).trans (setFe_mem ..)
  rw [pushBytes, if_neg (by simp [h])]
  change (carryFe (homeMerge s 0 line data (expandMask bytes) (s.cluster k).clock).1 line fe bytes feMask).mem = _
  rw [carryFe, hfe, homeMerge_mem, mergeLine_mem, mem_of_storage (takeLine_storage ..)]

/-- A push of an open line outside the CAR stores writes its dirty bytes at home. -/
theorem pushLine_mem {s : State} {k line : Nat} {l : ClusterLine} (hl : look (s.cluster k).lines line = some l) (hctx : l.ctx = 0)
    (h : (ownLine s line && inCar s.module (64 * line)) = false) :
    (pushLine s k line).mem = if l.dirty then memWrite s.mem (64 * line) 64 l.data (expandMask l.byteMask) else s.mem := by
  have hpoison : ∀ u, u = s ∨ u = poison s line → u.mem = s.mem ∧ (ownLine u line && inCar u.module (64 * line)) = false := by
    rintro u (rfl | rfl)
    · exact ⟨rfl, h⟩
    · rw [ownLine, (poison_linesOnly s line).module]
      exact ⟨mem_of_storage (poison_storage ..), h⟩
  obtain ⟨hmem, hown⟩ := hpoison (if l.bad then poison s line else s) (by split <;> simp)
  unfold pushLine
  rw [hl]
  dsimp only
  split
  · rw [hctx]
    change (pushBytes _ _ _ _ _ _ _ _).mem = _
    rw [pushBytes_mem hown, hmem]
  · rfl

theorem dropLine_lines (s : State) (k line : Nat) : look ((dropLine s k line).cluster k).lines line = none := by
  unfold dropLine
  dsimp only
  rw [State.cluster_setCluster_same, look_del_same]

/-- A cluster that gives up its partial of a line has none. -/
theorem takePartials_one (s : State) (line k : Nat) : look ((takePartials s line [k]).cluster k).partials line = none := by
  simp only [takePartials, List.foldl_cons, List.foldl_nil]
  split
  · rw [State.cluster_setCluster_same, look_del_same]
  · next h => simpa using h

theorem dropPartial_partials {s : State} {k line n : Nat} (hn : inCrange s.module (64 * line) = some n) :
    look ((dropPartial s k line).cluster k).partials line = none := by
  have hcombined : look ((combineLine s n 0 line (s.cluster k).clock [k]).cluster k).partials line = none := by
    obtain ⟨u, _, h | ⟨ctx, new, h⟩⟩ := combineLine_cases s n 0 line (s.cluster k).clock [k]
    · rw [h, takePartials_one]
    · rw [h, (homeMerge_linesOnly ..).cluster, takePartials_one]
  unfold dropPartial
  rw [hn]
  dsimp only
  rw [raiseCluster, State.cluster_setCluster_same]
  exact hcombined

/-! ## Snoops (R71) -/

/-- A snoop of an open line of this module leaves the host a copy, and one that takes the line leaves it modified there. -/
theorem hostSnoop_own {s : State} {line : Nat} (kind : SnoopKind) (hown : ownRange s.module (64 * line) = true)
    (hcar : inCar s.module (64 * line) = false) (hrange : inCrange s.module (64 * line) = none) :
    ∃ x, exec (.hostSnoop line kind) s =
      .next { s with bridge := { s.bridge with hostHeld := put s.bridge.hostHeld line x } } ∧ (kind = .take → x = .modified) := by
  have hexec : exec (.hostSnoop line kind) s = execHostSnoop line kind s := rfl
  rw [hexec]
  unfold execHostSnoop
  dsimp only
  rw [if_pos hown, if_neg (by simp [hcar]), hrange]
  cases kind with
  | share => exact ⟨_, rfl, fun h => absurd h (by decide)⟩
  | take => exact ⟨_, rfl, fun _ => rfl⟩

/-- Settles O29: fills by `fill_of_present` and `fill_of_absent`; the other events by the parts of the state they change. -/
theorem translationAndCacheEvents : Obligations.TranslationAndCacheEvents := by
  refine ⟨⟨?fill, ?response, ?invalidation⟩, ?ageing, ?line, ?partials, ?bridge, ?snoop, ?error⟩
  case fill =>
    intro s pasid va resp h
    refine ⟨_, translationFill_fills resp h, fun hw hr => ?_, fun hw hr hp => ?_⟩
    · obtain ⟨hs, hm, hnoted⟩ := fill_of_absent (pasid := pasid) (va := va) hw hr
      refine ⟨sameMemory_of_storage hs, fun m hmem hpage => ?_, fun c m hmem hpasid hpage =>
        hnoted c m hmem (onPage_iff.2 ⟨hpasid, hpage⟩)⟩
      exact absurd (onPage_iff.2 hpage) (by simp [hm m hmem])
    · obtain ⟨hs, htlb, hm, htold⟩ := fill_of_present (pasid := pasid) (va := va) hw hr hp
      exact ⟨sameMemory_of_storage hs, htlb, hm, fun k hk => (htold k hk).1, fun k hk => (htold k hk).2⟩
  case response =>
    intro s pasid page ok h
    obtain ⟨hs, hthreads, hnone⟩ := nextPageRequest_frame (pageResponded s pasid (pageOf page) ok)
    refine ⟨_, prgResponse_responds ok h, sameMemory_of_storage (hs.trans rfl), fun hwaits => ?_, fun n hn => ?_⟩
    · rw [hnone hwaits]
      rfl
    · have hth : (nextPageRequest (pageResponded s pasid (pageOf page) ok)).thread n =
          pageTold s pasid (pageOf page) ok (s.thread n) := by
        rw [← pageResponded_thread, State.thread, State.thread, hthreads]
      rw [hth, pageTold, if_pos (beq_iff_eq.2 hn)]
      exact ⟨rfl, rfl⟩
  case invalidation => exact fun s pasid base bytes h => atsInvalidation_tlbs h
  case ageing =>
    intro s
    obtain ⟨hs, hthreads⟩ := aged_frame (List.range Config.cores) s
    exact ⟨aged (List.range Config.cores) s, rfl, sameMemory_of_storage hs, hthreads, fun c hc =>
      aged_clock List.nodup_range (List.mem_range.2 hc) s⟩
  case line =>
    intro s k line h
    refine ⟨dropLine s k.toNat line, if_pos h, dropLine_lines .., fun l hl hctx hown => ?_⟩
    exact pushLine_mem hl hctx hown
  case partials =>
    intro s k line x n hx hn
    refine ⟨dropPartial s k.toNat line, ?_, dropPartial_partials hn⟩
    have hexec : exec (.partialEviction k line) s = execPartialEviction k line s := rfl
    rw [hexec, execPartialEviction, hx, hn]
  case bridge =>
    intro s line h hh hown
    have htimes : homeTimes s line = h := by rw [homeTimes, hh]
    refine ⟨evictHome s line, if_pos (by simp [hh]), look_del_same _ _, ?_, sameMemory_of_storage (evictHome_storage ..)⟩
    rw [evictHome, htimes]
    exact lookD_put_same _ _ _ _
  case snoop =>
    intro s line kind hown hcar hrange
    obtain ⟨x, hexec, htake⟩ := hostSnoop_own kind hown hcar hrange
    refine ⟨_, hexec, by rw [look_put_same]; rfl, fun hk => by rw [look_put_same, htake hk], ⟨fun _ => rfl, fun _ => rfl⟩, rfl⟩
  case error =>
    intro s line
    refine ⟨_, rfl, ?_, ⟨fun _ => rfl, fun _ => rfl⟩, rfl⟩
    dsimp only
    split
    · next h => simpa using h
    · exact List.mem_append_right _ List.mem_cons_self

end Sys2Proof.TranslationEvents
end

section
/-!
SUPPORT. Bytes written one by one and bytes written into a line, and the bytes of a number.
-/

namespace Sys2Proof.Laws

open Machine Spec

/-! ## Bytes written one by one -/

section
variable {α : Type} (key : α → Nat) (val : α → Byte)

/-- Bytes written at keys that one key is none of. -/
theorem memByte_foldl_memSet_other {l : List α} {j : Nat} (h : ∀ i ∈ l, j ≠ key i) (m : List Host.Cell) :
    memByte (l.foldl (fun m i => memSet m (key i) (val i)) m) j = memByte m j := by
  induction l generalizing m with
  | nil => rfl
  | cons i l ih =>
    exact (ih (fun x hx => h x (List.mem_cons_of_mem _ hx)) _).trans (memByte_memSet_other m (val i) (h i List.mem_cons_self))

/-- Bytes written at keys that differ. -/
theorem memByte_foldl_memSet {l : List α} (hinj : ∀ i ∈ l, ∀ j ∈ l, key i = key j → i = j) {i : α} (hi : i ∈ l)
    (m : List Host.Cell) : memByte (l.foldl (fun m i => memSet m (key i) (val i)) m) (key i) = val i := by
  induction l generalizing m with
  | nil => exact absurd hi List.not_mem_nil
  | cons x l ih =>
    rw [List.foldl_cons]
    by_cases hl : i ∈ l
    · exact ih (fun a ha b hb => hinj a (List.mem_cons_of_mem _ ha) b (List.mem_cons_of_mem _ hb)) hl _
    · obtain rfl := (List.mem_cons.1 hi).resolve_right hl
      rw [memByte_foldl_memSet_other key val fun y hy he => hl (hinj i hi y (List.mem_cons_of_mem _ hy) he ▸ hy), memByte_memSet_same]

end

/-! ## The bytes of a number (R6) -/

theorem memNat_digit (m : List Host.Cell) (k : Nat) {i n : Nat} (h : i < n) :
    BitVec.ofNat 8 (memNat m k n / 256 ^ i) = memByte m (k + i) := by
  induction i generalizing k n with
  | zero =>
    obtain ⟨n, rfl⟩ : ∃ n', n = n' + 1 := ⟨n - 1, by omega⟩
    have hb := (memByte m k).isLt
    refine BitVec.eq_of_toNat_eq ?_
    simp only [memNat, BitVec.toNat_ofNat, Nat.pow_zero, Nat.div_one, Nat.add_zero]
    omega
  | succ i ih =>
    obtain ⟨n, rfl⟩ : ∃ n', n = n' + 1 := ⟨n - 1, by omega⟩
    have hb := (memByte m k).isLt
    rw [memNat, Nat.pow_succ', ← Nat.div_div_eq_div_mul,
      show ((memByte m k).toNat + 256 * memNat m (k + 1) n) / 256 = memNat m (k + 1) n by omega, ih (k + 1) (Nat.lt_of_succ_lt_succ h),
      show k + 1 + i = k + (i + 1) by omega]

theorem byteAt_eq (l : Line) (i : Nat) : byteAt l i = BitVec.ofNat 8 (l.toNat / 256 ^ i) := by
  refine BitVec.eq_of_toNat_eq ?_
  rw [byteAt, BitVec.toNat_setWidth, BitVec.toNat_ushiftRight, BitVec.toNat_ofNat, Nat.shiftRight_eq_div_pow, Nat.pow_mul]

/-- A byte of what has been read. -/
theorem byteAt_memRead (m : List Host.Cell) (k : Nat) {i n : Nat} (h : i < n) (hn : n ≤ 64) :
    byteAt (memRead m k n) i = memByte m (k + i) := by
  rw [byteAt_eq, memRead_toNat m k hn, memNat_digit m k h]

/-- A byte of a number made of bytes. -/
theorem ofLanes_digit (data : List Byte) (i : Nat) : BitVec.ofNat 8 (ofLanes 8 (data.map (·.toNat)) / 256 ^ i) = data.getD i 0 := by
  induction data generalizing i with
  | nil => simp [ofLanes]
  | cons b data ih =>
    have hb := b.isLt
    rw [List.map_cons, ofLanes]
    generalize ofLanes 8 (data.map (·.toNat)) = x at ih
    cases i with
    | zero =>
      refine BitVec.eq_of_toNat_eq ?_
      rw [BitVec.toNat_ofNat, Nat.pow_zero, Nat.div_one, List.getD_cons_zero]
      omega
    | succ i =>
      rw [show 256 ^ (i + 1) = 256 * 256 ^ i from Nat.pow_succ', ← Nat.div_div_eq_div_mul,
        show (b.toNat % 2 ^ 8 + 2 ^ 8 * x) / 256 = x by omega, ih, List.getD_cons_succ]

theorem ofLanes_lt (data : List Byte) : ofLanes 8 (data.map (·.toNat)) < 256 ^ data.length := by
  induction data with
  | nil => simp [ofLanes]
  | cons b data ih =>
    have hb := b.isLt
    rw [List.map_cons, ofLanes, List.length_cons, Nat.pow_succ']
    omega

/-! ## Bytes written into a line -/

/-- What a write shifted to a byte of a line stores there. -/
theorem mixByte_toByte (old : Byte) (data mask : Line) {o i : Nat} (h : o + i < 64) :
    mixByte old (o + i) (toByte data o) (toByte mask o) = mixByte old i data mask := by
  have hshift (x : Line) : (toByte x o >>> (8 * (o + i))).setWidth 8 = (x >>> (8 * i)).setWidth 8 := by
    refine BitVec.eq_of_getLsbD_eq fun j hj => ?_
    rw [BitVec.getLsbD_setWidth, BitVec.getLsbD_setWidth, BitVec.getLsbD_ushiftRight, BitVec.getLsbD_ushiftRight, toByte,
      BitVec.getLsbD_shiftLeft, show 8 * (o + i) + j - 8 * o = 8 * i + j by omega]
    simp only [show 8 * (o + i) + j < 512 by omega, show ¬ 8 * (o + i) + j < 8 * o by omega, decide_true, decide_false, Bool.not_false,
      Bool.true_and]
  rw [mixByte, mixByte, hshift, hshift]

/-- A byte that the mask leaves. -/
theorem mixByte_unmasked (old : Byte) (i : Nat) (data : Line) {mask : Line} (h : (mask >>> (8 * i)).setWidth 8 = (0 : Byte)) :
    mixByte old i data mask = old := by
  rw [mixByte, h, show ~~~(0 : Byte) = BitVec.allOnes 8 by decide, BitVec.and_allOnes]
  simp

theorem toByte_below (mask : Line) {o i : Nat} (h : i < o) : (toByte mask o >>> (8 * i)).setWidth 8 = (0 : Byte) := by
  refine BitVec.eq_of_getLsbD_eq fun j hj => ?_
  rw [BitVec.getLsbD_setWidth, BitVec.getLsbD_ushiftRight, toByte, BitVec.getLsbD_shiftLeft]
  simp [show 8 * i + j < 8 * o by omega]

theorem byteMask_above {n i : Nat} (hn : n ≤ 64) (h : n ≤ i) : (byteMask n >>> (8 * i)).setWidth 8 = (0 : Byte) := by
  refine BitVec.eq_of_getLsbD_eq fun j hj => ?_
  rw [BitVec.getLsbD_setWidth, BitVec.getLsbD_ushiftRight, BitVec.getLsbD, byteMask_toNat hn, Nat.testBit_two_pow_sub_one]
  simp [show ¬ 8 * i + j < 8 * n by omega]

section
variable (m : List Host.Cell) {pa n : Nat} (data : Line) (hfit : pa % 64 + n ≤ 64)
include hfit

/-- The n bytes at pa, written into their line. -/
theorem memByte_lineWrite_inside {i : Nat} (hi : i < n) :
    memByte (memWrite m (64 * (pa / 64)) 64 (toByte data (pa % 64)) (toByte (byteMask n) (pa % 64))) (pa + i) =
      BitVec.ofNat 8 (data.toNat / 256 ^ i) := by
  have hpa : pa + i = 64 * (pa / 64) + (pa % 64 + i) := by omega
  rw [hpa, memByte_memWrite_inside _ _ _ _ _ _ (by omega), mixByte_toByte _ _ _ (by omega), mixByte_byteMask _ _ hi (by omega)]

theorem memByte_lineWrite_outside {j : Nat} (hj : ¬ (pa ≤ j ∧ j < pa + n)) :
    memByte (memWrite m (64 * (pa / 64)) 64 (toByte data (pa % 64)) (toByte (byteMask n) (pa % 64))) j = memByte m j := by
  by_cases hline : 64 * (pa / 64) ≤ j ∧ j < 64 * (pa / 64) + 64
  · obtain ⟨o, rfl⟩ : ∃ o, j = 64 * (pa / 64) + o := ⟨j - 64 * (pa / 64), by omega⟩
    rw [memByte_memWrite_inside _ _ _ _ _ _ (by omega)]
    by_cases hlow : o < pa % 64
    · exact mixByte_unmasked _ _ _ (toByte_below _ hlow)
    · obtain ⟨i, rfl⟩ : ∃ i, o = pa % 64 + i := ⟨o - pa % 64, by omega⟩
      rw [mixByte_toByte _ _ _ (by omega)]
      exact mixByte_unmasked _ _ _ (byteMask_above (by omega) (by omega))
  · exact memByte_memWrite_outside _ _ _ _ _ _ (by omega)

end

end Sys2Proof.Laws
end

section
/-!
PROOF of O51. Host accesses line by line, accesses of the other module at their home, register writes by their writer, the steps of
the bring-up and the power-on reset.
-/

namespace Sys2Proof.HostAccesses

open Machine Spec Laws

/-! ## Host reads (R78) -/

/-- The host's clock set to a time. -/
def hostClockTo (s : State) (c : Nat) : State := { s with bridge := { s.bridge with hostClock := c } }

/-- The host learns of a line's write time. -/
def hostLearns (s : State) (line : Nat) : State := hostClockTo s (max s.bridge.hostClock (homeTimes s line).wts)

/-- The host learns of the write times of some lines. -/
def hostLearned (l : List Nat) (s : State) : State := l.foldl hostLearns s

theorem foldl_eq_hostLearned {f : State → Nat → State} {l : List Nat} {s : State}
    (h : ∀ st, ∀ line ∈ l, f st line = hostLearns st line) : l.foldl f s = hostLearned l s := List.foldl_ext _ _ _ h

theorem hostLearned_eq (l : List Nat) (s : State) :
    ∃ c, hostLearned l s = hostClockTo s c := by
  induction l generalizing s with
  | nil => exact ⟨s.bridge.hostClock, rfl⟩
  | cons line l ih =>
    obtain ⟨c, hc⟩ := ih (hostLearns s line)
    exact ⟨c, hc⟩

/-- A line of this module that neither a CAR store nor a range takes, or a line of another memory. -/
def OpenLine (m : Module) (l : Nat) : Prop := ownRange m (64 * l) = false ∨ (inCar m (64 * l) = false ∧ inCrange m (64 * l) = none)

theorem hostBarred_of_open {m : Module} {l : Nat} (h : OpenLine m l) (write : Bool) : hostBarred m write (64 * l) = false := by
  rcases h with h | ⟨hcar, hrange⟩
  · rw [hostBarred, h, Bool.false_and]
  · rw [hostBarred, hcar, hrange]
    simp

theorem rangeOf_open {m : Module} {l : Nat} (h : OpenLine m l) : (if ownRange m (64 * l) then inCrange m (64 * l) else none) = none := by
  rcases h with h | ⟨_, hrange⟩
  · rw [h]
    rfl
  · rw [hrange, ite_self]

/-- A host read of open lines without errors gives their bytes. -/
theorem hostRead_open {s : State} {pa n : Nat} (hbar : bar2Range s.module pa = false)
    (h : ∀ l ∈ linesOf pa n, l ∉ s.bridge.poisoned ∧ OpenLine s.module l) :
    ∃ c, hostRead s pa n = { s with bridge := { s.bridge with
      hostClock := c, refusedHost := false, answer := (List.range n).map (fun i => memByte s.mem (pa + i)) } } := by
  obtain ⟨c, hc⟩ := hostLearned_eq (linesOf pa n) s
  have hbarred : (linesOf pa n).any (fun l => hostBarred s.module false (64 * l)) = false :=
    List.any_eq_false.2 fun l hl => by simp [hostBarred_of_open (h l hl).2]
  have hclean : (linesOf pa n).any (fun l => s.bridge.poisoned.contains l) = false :=
    List.any_eq_false.2 fun l hl => by simpa using (h l hl).1
  refine ⟨c, ?_⟩
  unfold hostRead
  dsimp only
  rw [if_neg (by simp [hbar]), if_neg (by simp [hbarred])]
  rw [foldl_eq_hostLearned, hc]
  · exact if_neg (by simpa [hostClockTo] using hclean)
  · intro st line hl
    rw [rangeOf_open (h line hl).2]
    rfl

/-- A host read of a line in a CAR store is refused. -/
theorem hostRead_refused {s : State} {pa n : Nat} (hbar : bar2Range s.module pa = false)
    (h : ∃ l ∈ linesOf pa n, ownRange s.module (64 * l) = true ∧ inCar s.module (64 * l) = true) :
    hostRead s pa n = { s with bridge := { s.bridge with refusedHost := true } } := by
  obtain ⟨l, hl, hown, hcar⟩ := h
  have hbarred : (linesOf pa n).any (fun l => hostBarred s.module false (64 * l)) = true :=
    List.any_eq_true.2 ⟨l, hl, by simp [hostBarred, hown, hcar]⟩
  unfold hostRead
  dsimp only
  rw [if_neg (by simp [hbar]), if_pos hbarred]

theorem hostRead_exec {s : State} {pa : BitVec 64} (n : Nat) (hup : booted s = true) (hbar : bar0Range s.module pa.toNat = false) :
    exec (.hostRead pa n) s = .next (hostRead s pa.toNat n) := by
  change execHostRead pa n s = _
  simp only [execHostRead, hup, hbar, Bool.not_true, Bool.false_eq_true, if_false]

/-! ## Host writes (R37) -/

/-- A host write is stamped at the home of one of its lines, and the waiters on the words it writes there are woken. -/
def hostStamps (pa n : Nat) (s : State) (line : Nat) : State :=
  let (s, wts) := stampHome (hostOwns s line) line s.bridge.hostClock
  let s := hostClockTo s (max s.bridge.hostClock wts)
  wakeWords s 0 ((wordKeys pa n).filter (fun w => w / 16 == line)) wts

theorem hostOwns_frame (s : State) (line : Nat) : LinesOnly s (hostOwns s line) ∧ storage (hostOwns s line) = storage s := by
  unfold hostOwns
  dsimp only
  split
  · split
    · exact ⟨⟨rfl, rfl, rfl, rfl⟩, rfl⟩
    · exact ⟨LinesOnly.refl s, rfl⟩
  · exact ⟨⟨rfl, rfl, rfl, rfl⟩, rfl⟩

theorem hostStamps_frame (pa n : Nat) (s : State) (line : Nat) :
    LinesOnly s (hostStamps pa n s line) ∧ storage (hostStamps pa n s line) = storage s := by
  obtain ⟨howns, hs⟩ := hostOwns_frame s line
  have hclock (u : State) (c : Nat) : LinesOnly u (hostClockTo u c) := ⟨rfl, rfl, rfl, rfl⟩
  constructor
  · refine LinesOnly.trans ?_ (wakeWords_linesOnly ..)
    refine LinesOnly.trans ?_ (hclock _ _)
    exact howns.trans (stampHome_linesOnly ..)
  · refine (wakeWords_storage ..).trans ?_
    exact (stampHome_storage _ line s.bridge.hostClock).trans hs

/-- The bytes of a host write but for those in refused lines, the first of them byte k of the write. -/
def hostBytes (m : List Host.Cell) (pa k : Nat) (data : List Byte) (bad : List Nat) : List Host.Cell :=
  (data.zipIdx k).foldl (fun m p => if bad.contains ((pa + p.2) / 64) then m else memSet m (pa + p.2) p.1) m

/-- A byte after a host write: that of the data where the write reaches it and its line is not refused. -/
theorem memByte_hostBytes (m : List Host.Cell) (pa k : Nat) (data : List Byte) (bad : List Nat) (j : Nat) :
    memByte (hostBytes m pa k data bad) j =
      if pa + k ≤ j ∧ j < pa + k + data.length ∧ j / 64 ∉ bad then data.getD (j - (pa + k)) 0 else memByte m j := by
  induction data generalizing m k with
  | nil =>
    rw [if_neg fun h => Nat.lt_irrefl _ (Nat.lt_of_lt_of_le h.2.1 h.1)]
    rfl
  | cons b data ih =>
    have hcons : hostBytes m pa k (b :: data) bad =
        hostBytes (if bad.contains ((pa + k) / 64) then m else memSet m (pa + k) b) pa (k + 1) data bad := rfl
    rw [hcons, ih, List.length_cons]
    by_cases hj : j = pa + k
    · subst hj
      rw [if_neg (by omega)]
      by_cases hbad : (pa + k) / 64 ∈ bad
      · simp [hbad]
      · simp [hbad]
    · have hsame : memByte (if bad.contains ((pa + k) / 64) then m else memSet m (pa + k) b) j = memByte m j := by
        split
        · rfl
        · exact memByte_memSet_other m b hj
      rw [hsame]
      by_cases hin : pa + (k + 1) ≤ j ∧ j < pa + (k + 1) + data.length ∧ j / 64 ∉ bad
      · obtain ⟨hlow, hhigh, hbad⟩ := hin
        rw [if_pos ⟨hlow, hhigh, hbad⟩, if_pos ⟨by omega, by omega, hbad⟩, show j - (pa + k) = j - (pa + (k + 1)) + 1 by omega,
          List.getD_cons_succ]
      · rw [if_neg hin, if_neg fun h => hin ⟨by omega, by omega, h.2.2⟩]

/-- The lines of a host write that are refused. -/
def refusedLines (m : Module) (pa n : Nat) : List Nat := (linesOf pa n).filter (fun l => hostBarred m true (64 * l))

theorem hostWrite_eq {s : State} {pa : Nat} (data : List Byte) (hbar : bar2Range s.module pa = false) :
    hostWrite s pa data =
      ((linesOf pa data.length).filter (not ∘ fun l => hostBarred s.module true (64 * l))).foldl (hostStamps pa data.length)
        { s with mem := hostBytes s.mem pa 0 data (refusedLines s.module pa data.length),
                 bridge := { s.bridge with refusedHost := !(refusedLines s.module pa data.length).isEmpty } } := by
  unfold hostWrite
  dsimp only
  rw [if_neg (by simp [hbar]), List.partition_eq_filter_filter]
  rfl

/-- What a host write leaves: its bytes, and whether lines were refused. -/
theorem hostWrite_leaves {s : State} {pa : Nat} (data : List Byte) (hbar : bar2Range s.module pa = false) :
    (hostWrite s pa data).mem = hostBytes s.mem pa 0 data (refusedLines s.module pa data.length) ∧ (hostWrite s pa data).empty = s.empty ∧
      (hostWrite s pa data).bridge.refusedHost = !(refusedLines s.module pa data.length).isEmpty := by
  rw [hostWrite_eq data hbar]
  generalize (linesOf pa data.length).filter _ = good
  generalize hu : ({ s with mem := hostBytes s.mem pa 0 data _, bridge := _ } : State) = u
  have hframe := LinesOnly.foldl (fun s line => (hostStamps_frame pa data.length s line).1) good u
  have hs := storage_foldl (fun s line => (hostStamps_frame pa data.length s line).2) good u
  rw [mem_of_storage hs, empty_of_storage hs, hframe.refusedHost, ← hu]
  exact ⟨rfl, rfl, rfl⟩

theorem hostWrite_exec {s : State} {pa : BitVec 64} (data : List Byte) (hup : booted s = true)
    (hbar : bar0Range s.module pa.toNat = false) : exec (.hostWrite pa data) s = .next (hostWrite s pa.toNat data) := by
  change execHostWrite pa data s = _
  simp only [execHostWrite, hup, hbar, Bool.not_true, Bool.false_eq_true, if_false]

/-- No line is refused where all are open. -/
theorem refusedLines_of_open {m : Module} {pa n : Nat} (h : ∀ l ∈ linesOf pa n, OpenLine m l) : refusedLines m pa n = [] :=
  List.filter_eq_nil_iff.2 fun l hl => by simp [hostBarred_of_open (h l hl)]

/-- A line in a CAR store or a range is refused. -/
theorem mem_refusedLines {m : Module} {pa n l : Nat} (hl : l ∈ linesOf pa n) (hown : ownRange m (64 * l) = true)
    (h : inCar m (64 * l) = true ∨ (inCrange m (64 * l)).isSome = true) : l ∈ refusedLines m pa n := by
  refine List.mem_filter.2 ⟨hl, ?_⟩
  rcases h with h | h
  · simp [hostBarred, hown, h]
  · simp [hostBarred, hown, h]

/-! ## Accesses of the other module (R29, R77) -/

/-- The failure of an access of the other module to a CAR store. -/
theorem peerBar_car {m : Module} {pa : Nat} (h : inCar m pa = true) (inRange : Bool) : peerBar m pa inRange = some .permissionFault := by
  rw [peerBar, if_pos h]

theorem peerBar_open {m : Module} {pa : Nat} (hcar : inCar m pa = false) (hrange : inCrange m pa = none) (inRange : Bool) :
    peerBar m pa inRange = none := by
  simp [peerBar, hcar, hrange]

/-- The state in which an access of the other module is performed: its home has fetched a line that is read. -/
def peerFetched (s : State) (pa : Nat) (reads : Bool) : State := if reads then fetchLine s (pa / 64) else s

theorem peerFetched_storage (s : State) (pa : Nat) (reads : Bool) : storage (peerFetched s pa reads) = storage s := by
  unfold peerFetched
  split
  · exact fetchLine_storage ..
  · rfl

/-- The answer to an access of the other module: the old bytes where it reads. -/
def peerAnswer (s : State) (pa n : Nat) (reads : Bool) : List Byte :=
  if reads then (List.range n).map (fun i => memByte s.mem (pa + i)) else []

theorem answered_storage (s : State) (line : Nat) (l : List Byte) : storage (answerPeer (peerLearns s line) l) = storage s := rfl

/-- The number x written into n bytes by the other module. -/
def peerWrites (s : State) (pa n x : Nat) : State :=
  (homeMerge s 0 (pa / 64) (toByte (BitVec.ofNat 512 x) (pa % 64)) (toByte (byteMask n) (pa % 64)) s.bridge.peerClock).1

theorem peerWrites_mem (s : State) (pa n x : Nat) : (peerWrites s pa n x).mem =
    memWrite s.mem (64 * (pa / 64)) 64 (toByte (BitVec.ofNat 512 x) (pa % 64)) (toByte (byteMask n) (pa % 64)) := by
  rw [peerWrites, homeMerge_mem, mergeLine_mem, mem_of_storage (takeLine_storage ..)]

section
variable {s : State} {pa n : Nat} {reads : Bool} (hclean : (s.bridge.poisoned.contains (pa / 64) && reads) = false)
  (hfit : pa % 64 + n ≤ 64)
include hclean hfit

/-- An access of the other module is performed at its home: it answers the old bytes, and writes what its update makes of them. -/
theorem peerPerform_eq (f : Nat → Option Nat) :
    peerPerform s pa n f reads = answerPeer (peerLearns ((f (memNat s.mem pa n)).elim (peerFetched s pa reads)
      (peerWrites (peerFetched s pa reads) pa n)) (pa / 64)) (peerAnswer s pa n reads) := by
  have hmem : (peerFetched s pa reads).mem = s.mem := mem_of_storage (peerFetched_storage ..)
  have hanswer : (if reads then (List.range n).map (byteAt (memRead s.mem pa n)) else []) = peerAnswer s pa n reads := by
    unfold peerAnswer
    split
    · exact List.map_congr_left fun i hi => byteAt_memRead _ _ (List.mem_range.1 hi) (by omega)
    · rfl
  unfold peerPerform
  dsimp only
  rw [if_neg (by simpa using hclean), ← peerFetched, hmem, memRead_and_byteMask _ _ (Nat.le_refl n) (by omega), hanswer]
  cases f (memNat s.mem pa n) <;> rfl

/-- An access that only reads leaves memory as it was. -/
theorem peerPerform_reads {f : Nat → Option Nat} (hf : f (memNat s.mem pa n) = none) :
    storage (peerPerform s pa n f reads) = storage s ∧ (peerPerform s pa n f reads).bridge.answer = peerAnswer s pa n reads := by
  rw [peerPerform_eq hclean hfit, hf]
  exact ⟨(answered_storage ..).trans (peerFetched_storage s pa reads), rfl⟩

/-- An access that writes the number x leaves its bytes, and all others as they were. -/
theorem peerPerform_writes {f : Nat → Option Nat} {x : Nat} (hf : f (memNat s.mem pa n) = some x) (hx : x < 256 ^ n) :
    (∀ i < n, memByte (peerPerform s pa n f reads).mem (pa + i) = BitVec.ofNat 8 (x / 256 ^ i)) ∧
      SameMemoryBut s (peerPerform s pa n f reads) pa n ∧ (peerPerform s pa n f reads).bridge.answer = peerAnswer s pa n reads := by
  have hmem : (peerPerform s pa n f reads).mem =
      memWrite s.mem (64 * (pa / 64)) 64 (toByte (BitVec.ofNat 512 x) (pa % 64)) (toByte (byteMask n) (pa % 64)) := by
    rw [peerPerform_eq hclean hfit, hf, mem_of_storage (answered_storage ..), Option.elim_some, peerWrites_mem,
      mem_of_storage (peerFetched_storage ..)]
  have hword : (BitVec.ofNat 512 x).toNat = x := by
    rw [BitVec.toNat_ofNat, Nat.mod_eq_of_lt (Nat.lt_of_lt_of_le hx (pow_256_le (by omega)))]
  refine ⟨fun i hi => ?_, fun j hj => ?_, ?_⟩
  · rw [hmem, memByte_lineWrite_inside _ _ hfit hi, hword]
  · rw [hmem, memByte_lineWrite_outside _ _ hfit hj]
  · rw [peerPerform_eq hclean hfit, hf]
    rfl

end

section
variable {s : State} {pa : BitVec 64} (hown : ownRange s.module pa.toNat = true) (hbit : s.module.membase.getLsbD 2 = true)
  (hlink : linkDown s.module = false)
include hown hbit hlink

theorem peerLoad_car (hcar : inCar s.module pa.toNat = true) {n : Nat} (hfit : pa.toNat % 64 + n ≤ 64) :
    exec (.peerAccessArrival (.load pa n)) s = .next (refusePeer s .permissionFault) := by
  change execPeerAccessArrival (.load pa n) s = _
  simp only [execPeerAccessArrival, hown, hbit, hlink, hfit, peerBar_car hcar, decide_true, Bool.and_self, Bool.not_false, Bool.not_true,
    Bool.false_eq_true, if_false]

variable (hcar : inCar s.module pa.toNat = false) (hrange : inCrange s.module pa.toNat = none)
include hcar hrange

theorem peerLoad_performed {n : Nat} (hfit : pa.toNat % 64 + n ≤ 64) :
    exec (.peerAccessArrival (.load pa n)) s = .next (peerPerform s pa.toNat n (fun _ => none) true) := by
  change execPeerAccessArrival (.load pa n) s = _
  simp only [execPeerAccessArrival, hown, hbit, hlink, hfit, peerBar_open hcar hrange, hrange, decide_true, Bool.and_self, Bool.not_false,
    Bool.not_true, Bool.false_eq_true, if_false]

theorem peerStore_performed {data : List Byte} (hfit : pa.toNat % 64 + data.length ≤ 64) :
    exec (.peerAccessArrival (.store pa data)) s =
      .next (peerPerform s pa.toNat data.length (fun _ => some (ofLanes 8 (data.map (·.toNat)))) false) := by
  change execPeerAccessArrival (.store pa data) s = _
  simp only [execPeerAccessArrival, hown, hbit, hlink, hfit, peerBar_open hcar hrange, decide_true, Bool.and_self, Bool.not_false,
    Bool.not_true, Bool.false_eq_true, if_false]

theorem peerAdd_performed (hword : pa.toNat % 4 = 0) (x : DWord) :
    exec (.peerAccessArrival (.atomic pa 0 false x 0)) s =
      .next (peerPerform s pa.toNat 4 (fun m => some ((m + x.toNat % 2 ^ 32) % 2 ^ 32)) true) := by
  have hfit : pa.toNat % 64 + 4 ≤ 64 := by omega
  change execPeerAccessArrival (.atomic pa 0 false x 0) s = _
  simp only [execPeerAccessArrival, hown, hbit, hlink, hfit, hword, peerBar_open hcar hrange, hrange, decide_true, Bool.and_self,
    Bool.not_false, Bool.not_true, Bool.false_eq_true, if_false]
  rfl

end

/-! ## Register writes (R315, R404) -/

theorem hostRegWrite_dropped {b : Nat} (h : b ∉ [0x520, 0x5A2, 0x5C0, 0x5C2]) (s : State) (v : DWord) : hostRegWrite s b v = s := by
  simp only [List.mem_cons, List.not_mem_nil, or_false, not_or] at h
  obtain ⟨h1, h2, h3, h4⟩ := h
  rw [hostRegWrite, if_neg h1, if_neg h2, if_neg h3, if_neg h4]

section
variable {s : State} {n : BitVec 12} {r : SysReg} (hup : booted s = true) (hr : sysReg n.toNat = some r) (hb : r.base = n.toNat)
include hup hr hb

theorem registerWrite_host (v : DWord) : exec (.registerWrite .host n v) s = .next (hostRegWrite s r.base v) := by
  change execRegisterWrite .host n v s = _
  simp [execRegisterWrite, hr, hb, hup]

theorem registerWrite_device_none (hw : r.write = none) (v : DWord) : exec (.registerWrite .device n v) s = .next s := by
  change execRegisterWrite .device n v s = _
  simp [execRegisterWrite, hr, hb, hup, hw]

theorem registerWrite_device {low : Mode} (hw : r.write = some low) (hlow : s.th.mode.covers low = true)
    (hruns : slotRuns s s.cur = true) (v : DWord) : exec (.registerWrite .device n v) s = .next (sysWrite s s.cur r.base v) := by
  change execRegisterWrite .device n v s = _
  simp [execRegisterWrite, hr, hb, hup, hw, hlow, hruns]

end

/-! ## The bring-up and the power-on reset (R431) -/

theorem bank15Key_inj {c d o p : Nat} (ho : o < 0x4000) (hp : p < 0x4000) (h : bank15Key c o = bank15Key d p) : c = d ∧ o = p := by
  unfold bank15Key localKey at h
  omega

theorem loadMonitor_byte (m : List Host.Cell) (c : Nat) {i : Nat} (hi : i < 0x1000) :
    memByte (loadMonitor m c) (bank15Key c (0x3000 + i)) = Config.monitorByte i := by
  refine memByte_foldl_memSet (fun i => bank15Key c (0x3000 + i)) Config.monitorByte (fun x hx y hy h => ?_) (List.mem_range.2 hi) m
  have hx := List.mem_range.1 hx
  have hy := List.mem_range.1 hy
  have := (bank15Key_inj (by omega) (by omega) h).2
  omega

theorem loadMonitor_elsewhere (m : List Host.Cell) {c d i : Nat} (hd : c ≠ d) (hi : i < 0x1000) :
    memByte (loadMonitor m d) (bank15Key c (0x3000 + i)) = memByte m (bank15Key c (0x3000 + i)) := by
  refine memByte_foldl_memSet_other (fun i => bank15Key d (0x3000 + i)) Config.monitorByte (fun x hx h => ?_) m
  have hx := List.mem_range.1 hx
  exact hd (bank15Key_inj (by omega) (by omega) h).1

theorem loadMonitor_others (l : List Nat) {c i : Nat} (hc : c ∉ l) (hi : i < 0x1000) (m : List Host.Cell) :
    memByte (l.foldl loadMonitor m) (bank15Key c (0x3000 + i)) = memByte m (bank15Key c (0x3000 + i)) := by
  induction l generalizing m with
  | nil => rfl
  | cons d l ih =>
    rw [List.mem_cons, not_or] at hc
    rw [List.foldl_cons, ih hc.2, loadMonitor_elsewhere m hc.1 hi]

/-- Once the monitor has been loaded into some cores, its image stands in bank 15 of each. -/
theorem loadMonitor_bytes {l : List Nat} {c : Nat} (hc : c ∈ l) {i : Nat} (hi : i < 0x1000) (m : List Host.Cell) :
    memByte (l.foldl loadMonitor m) (bank15Key c (0x3000 + i)) = Config.monitorByte i := by
  induction l generalizing m with
  | nil => exact absurd hc List.not_mem_nil
  | cons d l ih =>
    rw [List.foldl_cons]
    by_cases hl : c ∈ l
    · exact ih hl _
    · obtain rfl := (List.mem_cons.1 hc).resolve_right hl
      rw [loadMonitor_others l hl hi, loadMonitor_byte m c hi]

/-- The state in which the monitor has been loaded and the cores reset. -/
def monitorLoaded (s : State) (l : List Nat) : State :=
  { s with mem := l.foldl loadMonitor s.mem, cores := [], threads := [], module := { s.module with rails := [], phase := .host } }

theorem monitorLoaded_bytes (s : State) {l : List Nat} {c : Nat} (hc : c ∈ l) {i : Nat} (hi : i < 0x1000) :
    memByte (monitorLoaded s l).mem (bank15Key c (0x3000 + i)) = Config.monitorByte i := loadMonitor_bytes hc hi s.mem

section
variable {s : State}

theorem bringUp_firmware (h : s.module.phase = .firmware) :
    bringUp s = { s with module := { s.module with lastBeat := s.pitch, phase := .memory } } := by
  simp only [bringUp, h]

theorem bringUp_memory (h : s.module.phase = .memory) :
    bringUp s = { s with empty := [], bridge := { s.bridge with seals := [] }, module := { s.module with phase := .link } } := by
  simp only [bringUp, h]

theorem bringUp_link (h : s.module.phase = .link) : bringUp s = { s with module := { s.module with phase := .monitor } } := by
  simp only [bringUp, h]

theorem bringUp_monitor (h : s.module.phase = .monitor) : bringUp s = monitorLoaded s (List.range Config.cores) := by
  simp only [bringUp, h, monitorLoaded]

end

theorem step_bringUp {s : State} {rest : List Turn} (h : s.agenda = .bringUp :: rest) :
    step s = .next (bringUp { s with agenda := rest }) := by
  rw [step, h]
  rfl

/-- The power-on reset keeps the bytes of other memory alone. -/
theorem powerOnReset_bytes (s : State) (k : Nat) :
    memByte (s.mem.filter (fun p => decide (p.1 < 2 ^ 64) && !ownRange s.module p.1)) k =
      if k < 2 ^ 64 ∧ ownRange s.module k = false then memByte s.mem k else 0 := by
  rw [memByte, lookD, look_filter (fun k => decide (k < 2 ^ 64) && !ownRange s.module k)]
  by_cases h : k < 2 ^ 64 ∧ ownRange s.module k = false
  · rw [if_pos h, if_pos (by simpa using h)]
    rfl
  · rw [if_neg h, if_neg (by simpa using h)]
    rfl

/-- Settles O51: host accesses by `hostRead_open` and `hostWrite_leaves`, those of the other module by `peerPerform_eq`, the steps of
the bring-up by its phases. -/
theorem hostResults : Obligations.HostResults := by
  refine ⟨?read, ?write, ?peer, ?register, ?bringUp, ?reset⟩
  case read =>
    intro s pa n hup hbar0 hbar2
    refine ⟨fun h => ?_, fun h => ?_⟩
    · obtain ⟨c, hc⟩ := hostRead_open hbar2 h
      exact ⟨_, hostRead_exec n hup hbar0, by rw [hc], by rw [hc], by rw [hc]; exact ⟨fun _ => rfl, fun _ => rfl⟩⟩
    · have hr := hostRead_refused hbar2 h
      exact ⟨_, hostRead_exec n hup hbar0, by rw [hr], by rw [hr], by rw [hr]; exact ⟨fun _ => rfl, fun _ => rfl⟩⟩
  case write =>
    intro s pa data hup hbar0 hbar2
    obtain ⟨hmem, hempty, hrefused⟩ := hostWrite_leaves data hbar2
    refine ⟨fun h => ?_, fun l hl hown hbarred => ?_⟩
    · rw [refusedLines_of_open h] at hmem hrefused
      refine ⟨_, hostWrite_exec data hup hbar0, hrefused, fun i hi => ?_, fun j hj => ?_, hempty⟩
      · rw [hmem, memByte_hostBytes, if_pos ⟨by omega, by omega, List.not_mem_nil⟩, show pa.toNat + i - (pa.toNat + 0) = i by omega]
      · rw [hmem, memByte_hostBytes, if_neg fun h => hj ⟨h.1, h.2.1⟩]
    · have hin := mem_refusedLines hl hown hbarred
      refine ⟨_, hostWrite_exec data hup hbar0, ?_, fun i hi => ?_⟩
      · rw [hrefused]
        simpa using List.ne_nil_of_mem hin
      · rw [hmem, memByte_hostBytes, if_neg fun h => h.2.2 (by rwa [show (64 * l + i) / 64 = l by omega])]
  case peer =>
    intro s pa hown hbit hlink
    refine ⟨fun hcar n hfit => peerLoad_car hown hbit hlink hcar hfit, fun hcar hrange hclean => ⟨fun n hfit => ?_, fun data hfit => ?_,
      fun x hword => ?_⟩⟩
    · obtain ⟨hs, hanswer⟩ := peerPerform_reads (f := fun _ => none) (reads := true) (by simpa using hclean) hfit rfl
      exact ⟨_, peerLoad_performed hown hbit hlink hcar hrange hfit, sameMemory_of_storage hs, hanswer⟩
    · obtain ⟨hbytes, hothers, _⟩ := peerPerform_writes (reads := false) (by simp) hfit
        (f := fun _ => some (ofLanes 8 (data.map (·.toNat)))) rfl (ofLanes_lt data)
      refine ⟨_, peerStore_performed hown hbit hlink hcar hrange hfit, fun i hi => ?_, hothers⟩
      rw [hbytes i hi, ofLanes_digit]
    · obtain ⟨hbytes, hothers, hanswer⟩ := peerPerform_writes (s := s) (reads := true) (by simpa using hclean)
        (show pa.toNat % 64 + 4 ≤ 64 by omega) (f := fun m => some ((m + x.toNat % 2 ^ 32) % 2 ^ 32)) rfl (Nat.mod_lt _ (by decide))
      refine ⟨_, peerAdd_performed hown hbit hlink hcar hrange hword x, ?_, hothers, hanswer⟩
      rw [memNat_of_bytes hbytes, Nat.add_mod_mod, show 256 ^ 4 = 2 ^ 32 from rfl, Nat.mod_mod]
  case register =>
    intro s n v r hup hr hb
    refine ⟨fun hw => registerWrite_device_none hup hr hb hw v, fun low hw hlow hruns => registerWrite_device hup hr hb hw hlow hruns v,
      fun hother => ?_⟩
    rw [registerWrite_host hup hr hb, hostRegWrite_dropped hother]
  case bringUp =>
    intro s rest h
    refine ⟨_, step_bringUp h, fun hp => ?_, fun hp => ?_, fun hp => ?_, fun hp => ?_⟩
    · rw [bringUp_firmware (s := { s with agenda := rest }) hp]
      exact ⟨rfl, rfl⟩
    · rw [bringUp_memory (s := { s with agenda := rest }) hp]
      exact ⟨rfl, fun _ => rfl, rfl⟩
    · rw [bringUp_link (s := { s with agenda := rest }) hp]
      exact ⟨rfl, fun _ => rfl, fun _ => rfl⟩
    · rw [bringUp_monitor (s := { s with agenda := rest }) hp]
      exact ⟨rfl, rfl, rfl, fun c hc i hi => monitorLoaded_bytes _ (List.mem_range.2 hc) hi⟩
  case reset => exact fun s => ⟨_, rfl, rfl, rfl, rfl, powerOnReset_bytes s⟩

end Sys2Proof.HostAccesses
end

section
/-!
SUPPORT. Numbers written to memory and read again, and operations on cached lines that leave the slots, the cores and the virtual
interfaces calm.
-/

namespace Sys2Proof.Laws

open Machine Spec

/-! ## Numbers in memory (R6) -/

theorem memGetNat_eq_memNat (m : List Host.Cell) (k n : Nat) : memGetNat m k n = memNat m k n := by
  induction n generalizing k with
  | zero => rfl
  | succ n ih => rw [memGetNat, memNat, ih]

theorem memGetNat_lt (m : List Host.Cell) (k n : Nat) : memGetNat m k n < 256 ^ n := memGetNat_eq_memNat m k n ▸ memNat_lt m k n

theorem memGetNat_congr {m m' : List Host.Cell} {k n : Nat} (h : ∀ i < n, memByte m' (k + i) = memByte m (k + i)) :
    memGetNat m' k n = memGetNat m k n := by
  rw [memGetNat_eq_memNat, memGetNat_eq_memNat, memNat_congr h]

/-- A number written is read again. -/
theorem memGetNat_memPutNat_same (m : List Host.Cell) (k n v : Nat) : memGetNat (memPutNat m k n v) k n = v % 256 ^ n := by
  rw [memGetNat_eq_memNat]
  exact memNat_of_bytes fun i hi => memByte_memPutNat_inside n m k i v hi

theorem memGetNat_memPutNat_apart (m : List Host.Cell) {k n j p : Nat} (v : Nat) (h : j + p ≤ k ∨ k + n ≤ j) :
    memGetNat (memPutNat m k n v) j p = memGetNat m j p :=
  memGetNat_congr fun i hi => memByte_memPutNat_outside n m k (j + i) v (by omega)

/-- Bytes that are the same are read as the same line. -/
theorem memRead_congr {m m' : List Host.Cell} {k n : Nat} (hn : n ≤ 64) (h : ∀ i < n, memByte m' (k + i) = memByte m (k + i)) :
    memRead m' k n = memRead m k n := by
  refine BitVec.eq_of_toNat_eq ?_
  rw [memRead_toNat m' k hn, memRead_toNat m k hn, memNat_congr h]

theorem memRead_memPutNat_apart (m : List Host.Cell) {k n j p : Nat} (v : Nat) (hp : p ≤ 64) (h : j + p ≤ k ∨ k + n ≤ j) :
    memRead (memPutNat m k n v) j p = memRead m j p :=
  memRead_congr hp fun i hi => memByte_memPutNat_outside n m k (j + i) v (by omega)

theorem byteMask_line : byteMask 64 = BitVec.allOnes 512 := by
  refine BitVec.eq_of_toNat_eq ?_
  rw [byteMask_toNat (le_refl 64), BitVec.toNat_allOnes]

/-- A line written is read again. -/
theorem memRead_memWrite_line (m : List Host.Cell) (k : Nat) (l : Line) :
    memRead (memWrite m k 64 l (BitVec.allOnes 512)) k 64 = l := by
  refine BitVec.eq_of_toNat_eq ?_
  rw [memRead_toNat _ k (le_refl 64), ← byteMask_line, memNat_memWrite m k l (le_refl 64), show (256 : Nat) = 2 ^ 8 by rfl,
    ← Nat.pow_mul, show 8 * 64 = 512 by rfl, BitVec.toNat_mod_cancel]

/-! ## Lines that a cluster cache gives up (R67, R75) -/

theorem Calm.ite {s t u : State} (c : Prop) [Decidable c] (ht : Calm s t) (hu : Calm s u) : Calm s (if c then t else u) := by
  split
  · exact ht
  · exact hu

theorem setCluster_calm (s : State) (k : Nat) (x : Cluster) : Calm s (s.setCluster k x) := Calm.of_eq rfl rfl rfl rfl

theorem poison_calm (s : State) (line : Nat) : Calm s (poison s line) := by
  unfold poison
  exact Calm.ite _ (Calm.refl s) (Calm.of_eq rfl rfl rfl rfl)

theorem setHome_calm (s : State) (line : Nat) (h : HomeLine) : Calm s (setHome s line h) := by
  unfold setHome
  dsimp only
  split
  · split <;> exact Calm.of_eq rfl rfl rfl rfl
  · exact Calm.of_eq rfl rfl rfl rfl

theorem takeLine_calm (s : State) (line : Nat) : Calm s (takeLine s line) := by
  unfold takeLine
  dsimp only
  split <;> exact Calm.of_eq rfl rfl rfl rfl

theorem mergeLine_calm (s : State) (ctx line : Nat) (data mask : Line) : Calm s (mergeLine s ctx line data mask) := by
  unfold mergeLine
  dsimp only
  split <;> exact Calm.of_eq rfl rfl rfl rfl

theorem homeMerge_calm (s : State) (ctx line : Nat) (data mask : Line) (c : Nat) : Calm s (homeMerge s ctx line data mask c).1 :=
  (takeLine_calm s line).trans ((mergeLine_calm ..).trans ((setHome_calm ..).trans (wakeWords_calm ..)))

theorem carryFe_calm (s : State) (line : Nat) (fe : BitVec 16) (bytes : BitVec 64) (feMask : BitVec 16) :
    Calm s (carryFe s line fe bytes feMask) :=
  Calm.foldl (fun s w => setFe_calm s 0 (16 * line + w) (fe.getLsbD w)) _ s

theorem pushBytes_calm (s : State) (k ctx line : Nat) (data : Line) (bytes : BitVec 64) (fe feMask : BitVec 16) :
    Calm s (pushBytes s k ctx line data bytes fe feMask) := by
  unfold pushBytes
  exact Calm.ite _ (Calm.refl s) ((homeMerge_calm ..).trans ((carryFe_calm ..).trans (setCluster_calm ..)))

theorem pushLine_calm (s : State) (k line : Nat) : Calm s (pushLine s k line) := by
  unfold pushLine
  split
  · refine Calm.ite _ (Calm.trans ?_ ((pushBytes_calm ..).trans (setCluster_calm ..))) (Calm.refl s)
    exact Calm.ite _ (poison_calm ..) (Calm.refl s)
  · exact Calm.refl s

theorem dropLine_calm (s : State) (k line : Nat) : Calm s (dropLine s k line) := (pushLine_calm s k line).trans (setCluster_calm ..)

theorem takePartials_calm (s : State) (line : Nat) (clusters : List Nat) : Calm s (takePartials s line clusters) :=
  Calm.foldl (fun s _ => Calm.ite _ (setCluster_calm s _ _) (Calm.refl s)) clusters s

theorem combineLine_calm (s : State) (n ctx line c : Nat) (clusters : List Nat) : Calm s (combineLine s n ctx line c clusters) := by
  obtain ⟨u, hu, hcases⟩ := combineLine_cases s n ctx line c clusters
  have hsu : Calm s (takePartials u line clusters) := by
    refine Calm.trans ?_ (takePartials_calm ..)
    rcases hu with rfl | rfl
    · exact Calm.refl u
    · exact poison_calm s line
  rcases hcases with h | ⟨ctx', new, h⟩
  · exact h ▸ hsu
  · exact h ▸ hsu.trans (homeMerge_calm ..)

theorem dropPartial_calm (s : State) (k line : Nat) : Calm s (dropPartial s k line) := by
  unfold dropPartial
  split
  · exact (combineLine_calm ..).trans (setCluster_calm ..)
  · exact setCluster_calm ..

theorem makeRoom_calm (s : State) (k : Nat) : Calm s (makeRoom s k) := by
  have hdrawn : Calm s { s with drawn := s.drawn + 1 } := Calm.of_eq rfl rfl rfl rfl
  unfold makeRoom
  dsimp only
  refine Calm.ite _ (Calm.refl s) (hdrawn.trans ?_)
  split
  · exact dropLine_calm ..
  · exact dropPartial_calm ..
  · exact setCluster_calm ..
  · exact Calm.refl _

end Sys2Proof.Laws
end

section
/-!
PROOF of O39. What a write to one slot of a directory leaves of it and of the others, what the search of a set has found
(`carFind_free`), and the CAR instructions by the end of their one operation.
-/

namespace Sys2Proof.CarStores

open Machine Spec Laws

/-! ## The slots of a directory (R31) -/

theorem carSlot_congr {s t : State} (h : t.mem = s.mem) (c : CarStore) (set w : Nat) : carSlot t c set w = carSlot s c set w := by
  simp only [carSlot, h]

theorem carSlot_count_lt (s : State) (c : CarStore) (set w : Nat) : (carSlot s c set w).count < 2 ^ 32 :=
  memGetNat_lt s.mem (c.entry set w + 32) 4

/-- COUNT and STATE of a slot written. -/
theorem carSlot_setCount (s : State) (c : CarStore) (set w : Nat) {count state : Nat} (hc : count < 2 ^ 32) (hs : state < 256) :
    carSlot (setCount s c set w count state) c set w = { carSlot s c set w with count := count, state := state } := by
  simp only [carSlot, setCount, CarStore.dataAt, CarSlot.mk.injEq]
  refine ⟨?dig, ?count, ?state, ?node, ?data⟩
  case dig => rw [memGetNat_memPutNat_apart _ _ (by omega), memGetNat_memPutNat_apart _ _ (by omega)]
  case count => rw [memGetNat_memPutNat_apart _ _ (by omega), memGetNat_memPutNat_same, Nat.mod_eq_of_lt (show count < 256 ^ 4 from hc)]
  case state => rw [memGetNat_memPutNat_same, Nat.mod_eq_of_lt (show state < 256 ^ 1 from hs)]
  case node => rw [memGetNat_memPutNat_apart _ _ (by omega), memGetNat_memPutNat_apart _ _ (by omega)]
  case data => rw [memRead_memPutNat_apart _ _ (by omega) (by omega), memRead_memPutNat_apart _ _ (by omega) (by omega)]

/-- Entries that differ lie in different lines. -/
theorem entry_apart {c : CarStore} {set w set' w' : Nat} (h : c.entry set' w' ≠ c.entry set w) :
    c.entry set' w' + 64 ≤ c.entry set w ∨ c.entry set w + 64 ≤ c.entry set' w' := by
  unfold CarStore.entry at h ⊢
  omega

/-- A slot's COUNT after COUNT and STATE of a slot have been written. -/
theorem carSlot_count_setCount (s : State) (c : CarStore) (set w set' w' : Nat) {count state : Nat} (hc : count < 2 ^ 32) :
    (carSlot (setCount s c set w count state) c set' w').count =
      if c.entry set' w' = c.entry set w then count else (carSlot s c set' w').count := by
  simp only [carSlot, setCount]
  split
  · next he => rw [he, memGetNat_memPutNat_apart _ _ (by omega), memGetNat_memPutNat_same, Nat.mod_eq_of_lt (show count < 256 ^ 4 from hc)]
  · next he =>
    have := entry_apart he
    rw [memGetNat_memPutNat_apart _ _ (by omega), memGetNat_memPutNat_apart _ _ (by omega)]

/-- A slot that is PENDING for a line holds it. -/
theorem carSlot_pendSlot_data (s : State) (c : CarStore) (w : Nat) (node : Bool) (l : Line) :
    (carSlot (pendSlot s c w node l) c (c.spot node l).set w).data = l := memRead_memWrite_line ..

theorem pendSlot_th (s : State) (c : CarStore) (w : Nat) (node : Bool) (l : Line) : (pendSlot s c w node l).th = s.th := rfl

theorem homeStore_congr {s t : State} {k : Nat} (h : carStore t k = carStore s k) : homeStore t k = homeStore s k := by
  simp only [homeStore, h]

/-! ## The search of a set (R44) -/

/-- A name gives back its generation and index (R39). -/
theorem carName_fields (gen : BitVec 8) {w index : Nat} (hw : w < 16) (hi : index < 2 ^ 52) :
    (carName gen w index).toNat % 2 ^ 52 = index ∧ (carName gen w index).toNat / 2 ^ 56 = gen.toNat := by
  have hg := gen.isLt
  have hlt : gen.toNat * 2 ^ 56 + w * 2 ^ 52 + index < 2 ^ 64 := by omega
  rw [carName, BitVec.toNat_ofNat, Nat.mod_eq_of_lt hlt]
  omega

/-- What the search of a line's set says: a slot that holds the line is one of the 16; the slot for a line that none holds is the
lowest FREE one, with whether a LIVE one has the line's digest. -/
def FoundTells (s : State) (k : Nat) (node : Bool) (l : Line) : Found → Prop
  | .hit w _ => w < 16
  | .free w col => w < 16 ∧ (carSlot s (homeStore s k) ((homeStore s k).spot node l).set w).state = 0 ∧
      (∀ v < w, (carSlot s (homeStore s k) ((homeStore s k).spot node l).set v).state ≠ 0) ∧
      (col = true ↔ ∃ v < 16, (carSlot s (homeStore s k) ((homeStore s k).spot node l).set v).state = 1 ∧
        (carSlot s (homeStore s k) ((homeStore s k).spot node l).set v).dig = lineDigest node l)
  | .refused .. | .pending => True

theorem carFind_tells (s : State) (k : Nat) (node : Bool) (l : Line) : FoundTells s k node l (carFind s k node l) := by
  unfold carFind
  dsimp only
  split
  · trivial
  split
  · trivial
  split
  · next w x hx =>
    obtain ⟨hmem, _⟩ := List.mem_filter.1 (List.mem_of_find?_eq_some hx)
    obtain ⟨v, hv, he⟩ := List.mem_map.1 hmem
    cases he
    exact List.mem_range.1 hv
  split
  · trivial
  · next w x hx =>
    rw [List.find?_map, Option.map_eq_some_iff] at hx
    obtain ⟨v, hv, he⟩ := hx
    cases he
    obtain ⟨hstate, hlt, hbelow⟩ := List.find?_range_eq_some.1 hv
    refine ⟨List.mem_range.1 hlt, by simpa using hstate, fun u hu => by simpa using hbelow u hu, ?_⟩
    simp [List.filter_eq_nil_iff, CarStore.spot]

section
variable {s : State} {k w : Nat} {node : Bool} {l : Line}

theorem carFind_hit {count : Nat} (h : carFind s k node l = .hit w count) : w < 16 := (h ▸ carFind_tells s k node l :)

theorem carFind_free {col : Bool} (h : carFind s k node l = .free w col) : FoundTells s k node l (.free w col) :=
  h ▸ carFind_tells s k node l

end

/-- The name that a lookup gives (R39, R44). -/
theorem lookupOrAllocate_named {s : State} {k : Nat} {node : Bool} {l : Line} {s1 : State} {n : DWord} {col : Bool}
    (h : lookupOrAllocate s k node l = .named s1 n col) :
    ∃ w < 16, n = carName (homeStore s k).gen w (digestIndex (lineDigest node l)) := by
  unfold lookupOrAllocate at h
  dsimp only at h
  split at h
  · cases h
  · cases h
  · next w count hf =>
    cases h
    exact ⟨w, carFind_hit hf, rfl⟩
  · next w c hf =>
    split at h
    · cases h
    · cases h
      exact ⟨w, (carFind_free hf).1, rfl⟩

theorem liveNow_coll (s : State) (k set w : Nat) (col : Bool) : (carStore (liveNow s k set w col) k).coll =
    if col = true ∧ (carStore s k).coll ≠ 0xFFFF then (carStore s k).coll + 1 else (carStore s k).coll := by
  cases col
  · rfl
  · have hcoll : (carStore (liveNow s k set w true) k).coll =
        if (carStore s k).coll = 0xFFFF then (carStore s k).coll else (carStore s k).coll + 1 := by
      simp only [liveNow, if_true, carStore, setCarStore, lookD_put_same]
    rw [hcoll]
    simp

theorem liveNow_mem (s : State) (k set w : Nat) (col : Bool) :
    (liveNow s k set w col).mem = (setCount s (homeStore s k) set w 1 1).mem := by
  cases col <;> rfl

/-- A leaf that no slot holds takes the slot found (R44). -/
theorem lookupOrAllocate_leaf {s : State} {k : Nat} {l : Line} {w : Nat} {col : Bool} (h : carFind s k false l = .free w col) :
    lookupOrAllocate s k false l = .named
      (liveNow (pendSlot s (homeStore s k) w false l) k ((homeStore s k).spot false l).set w col)
      (carName (homeStore s k).gen w (digestIndex (lineDigest false l))) col := by
  unfold lookupOrAllocate
  dsimp only
  rw [h]
  rfl

theorem carSlot_liveNow_pendSlot (s : State) (k w : Nat) (node : Bool) (l : Line) (col : Bool) :
    carSlot (liveNow (pendSlot s (homeStore s k) w node l) k ((homeStore s k).spot node l).set w col) (homeStore s k)
      ((homeStore s k).spot node l).set w =
    { carSlot (pendSlot s (homeStore s k) w node l) (homeStore s k) ((homeStore s k).spot node l).set w with count := 1, state := 1 } := by
  rw [carSlot_congr (liveNow_mem ..), homeStore_congr (s := s) rfl]
  exact carSlot_setCount _ _ _ _ (by decide) (by decide)

/-! ## The parts that CAR instructions share (R35, R292) -/

theorem readName_of_source {s : State} {r : BitVec 5} {lo hi : Word} (hlo : Source s r 0 lo) (hhi : Source s (r + 1) 0 hi) :
    readName s r = .ok (hi ++ lo) := by
  simp only [readName, readP_of_source hlo, readP_of_source hhi, bind, Except.bind]

theorem readLinePair_of_source {s : State} {v : BitVec 6} {lo hi : VWord} (hlo : VecSource s v.toNat lo)
    (hhi : VecSource s (v.toNat + 1) hi) : readLinePair s v = .ok (hi ++ lo) := by
  simp only [readLinePair, readV_of_source hlo, readV_of_source hhi, bind, Except.bind]

theorem carRight_of_right {s : State} {wr : Bool} {k : Nat} (h : CarRight s wr k) : carRight s wr = .ok k := by
  obtain ⟨hk, hbit, hen, hctx⟩ := h
  have hmay : (if wr then (s.viOf s.th.vi.toNat).carperm.getLsbD 1 else (s.viOf s.th.vi.toNat).carperm.getLsbD 0) = true := by
    cases wr <;> exact hbit
  simp only [carRight, hk, hmay, hen, hctx, beq_self_eq_true, Bool.and_self, require_true, bind, Except.bind]

theorem nameStop_stale (s : State) (n : DWord) : nameStop s .carStaleName n = .trap s { cause := .carStaleName, tval := n } := rfl

theorem nameStop_uncorrectable (s : State) (n : DWord) : nameStop s .memUncorrectable n =
    .trap { s with drawn := s.drawn + 1 } { cause := .memUncorrectable, tval := Config.openTval s.drawn } := rfl

/-! ## CLKL and CLKN (R44, R45) -/

/-- A name delivered to its pair. -/
def nameDelivered (s : State) (d : BitVec 5) (n : DWord) : State :=
  delivered (delivered s d (n.setWidth 32)) (d + 1) ((n >>> 32).setWidth 32)

/-- The state in which CLKL or CLKN has given a name, and has posted CAR_COLLISION where another line has its digest (R45). -/
def nameGiven (s : State) (d : BitVec 5) (n : DWord) (col : Bool) : State :=
  let s := nameDelivered s d n
  if col then s.setTh { s.th with posted := s.th.posted ++ [{ cause := .carCollision, tval := n }] } else s

theorem nameGiven_pc (s : State) (d : BitVec 5) (n : DWord) (col : Bool) : (nameGiven s d n col).th.pc = s.th.pc := by
  cases col <;> simp [nameGiven, nameDelivered]

theorem nameResult_completes {s : State} {d : BitVec 5} {n : DWord} (hlo : Accepts s d)
    (hhi : Accepts (delivered s d (n.setWidth 32)) (d + 1)) (col : Bool) :
    finish (nameResult s d n col) = .next (retired (nameGiven s d n col) [] (s.th.pc + 4)) := by
  rw [← nameGiven_pc s d n col, ← complete_eq]
  simp only [nameResult, writeX_of_accepts hlo, writeX_of_accepts hhi, bind, Except.bind, finish_ok, nameGiven, nameDelivered]

section
variable {s : State} {v : BitVec 6} {d : BitVec 5} {lo hi : VWord} {k : Nat} (hidle : s.th.wait = .idle)
  (hlo : VecSource s v.toNat lo) (hhi : VecSource s (v.toNat + 1) hi) (hright : CarRight s true k)
  (hdest : Unawaited s (destRefs s d true))
include hidle hlo hhi hright hdest

/-- A node that no slot holds becomes PENDING in the slot found. -/
theorem carLookup_pends {w : Nat} {col : Bool} (hf : carFind s k true (hi ++ lo) = .free w col) :
    carLookup true v d s = .next (holdSlot ((pendSlot s (homeStore s k) w true (hi ++ lo)).setTh
      { s.th with wait := .carPending k ((homeStore s k).spot true (hi ++ lo)).set w 0 col })) := by
  simp only [carLookup, hidle, readLinePair_of_source hlo hhi, carRight_of_right hright, destFree_of_unawaited hdest, bind, Except.bind,
    hf, finish_stall]
  rw [pendSlot_th]

variable {node : Bool} (hnot : node = true → ∀ w col, carFind s k true (hi ++ lo) ≠ .free w col)
include hnot

/-- A lookup of one operation that fails traps. -/
theorem carLookup_fails {s1 : State} {c : Cause} {x : DWord} (h : lookupOrAllocate s k node (hi ++ lo) = .failed s1 c x) :
    carLookup node v d s = .next (takeTrap s1 { cause := c, tval := x }) := by
  simp only [carLookup, hidle, readLinePair_of_source hlo hhi, carRight_of_right hright, destFree_of_unawaited hdest, bind, Except.bind]
  split
  · next hf => exact absurd hf (hnot rfl _ _)
  · simp only [h, finish_trap]

/-- A lookup of one operation that gives a name ends with it. -/
theorem carLookup_names {s1 : State} {n : DWord} {col : Bool} (h : lookupOrAllocate s k node (hi ++ lo) = .named s1 n col) :
    carLookup node v d s = finish (nameResult s1 d n col) := by
  simp only [carLookup, hidle, readLinePair_of_source hlo hhi, carRight_of_right hright, destFree_of_unawaited hdest, bind, Except.bind]
  split
  · next hf => exact absurd hf (hnot rfl _ _)
  · rw [h]

end

/-- A CLKN whose slot is PENDING goes on with its children. -/
theorem carLookup_pending {s : State} {v : BitVec 6} {d : BitVec 5} {k set w j : Nat} {col : Bool}
    (h : s.th.wait = .carPending k set w j col) : carLookup true v d s = finish (pendingStep s d k set w j col) := by
  simp only [carLookup, h]

section
variable {s : State} {d : BitVec 5} {k set w j : Nat} {col : Bool}

theorem pendingStep_child {n : DWord} {s1 : State} (hn : (children (carSlot s (homeStore s k) set w).data)[j]? = some n)
    (h : carRef s (homeStore s k) n = .ok s1) :
    pendingStep s d k set w j col = .error (.stall (s1.setTh { s1.th with wait := .carPending k set w (j + 1) col })) := by
  simp only [pendingStep, hn, h]

theorem pendingStep_stale {n : DWord} (hn : (children (carSlot s (homeStore s k) set w).data)[j]? = some n)
    (h : carRef s (homeStore s k) n = .error .carStaleName) :
    pendingStep s d k set w j col = .error (.trap (undoSlot s k set w ((children (carSlot s (homeStore s k) set w).data).take j))
      { cause := .carStaleName, tval := n }) := by
  simp only [pendingStep, hn, h, nameStop_stale]

theorem pendingStep_last (hn : (children (carSlot s (homeStore s k) set w).data)[j]? = none) :
    pendingStep s d k set w j col = nameResult (liveNow s k set w col) d
      (carName (homeStore s k).gen w (digestIndex (carSlot s (homeStore s k) set w).dig)) col := by
  simp only [pendingStep, hn]

end

/-! ## References (R47, R48) -/

theorem namedSlot_slot {s : State} {c : CarStore} {n : DWord} {set w : Nat} {x : CarSlot} (h : namedSlot s c n = .ok (set, w, x)) :
    x = carSlot s c set w := by
  unfold namedSlot at h
  dsimp only at h
  split at h
  · cases h
  · unfold liveSlot at h
    dsimp only at h
    split at h
    · next y hy =>
      split at hy
      · cases hy
        cases h
        rfl
      · cases hy
    · cases h

theorem carRef_error {s : State} {c : CarStore} {n : DWord} {e : Cause} (h : namedSlot s c n = .error e) : carRef s c n = .error e := by
  rw [carRef, h]
  rfl

theorem carRel_error {s : State} {k : Nat} {c : CarStore} {n : DWord} {e : Cause} (h : namedSlot s c n = .error e) :
    carRel s k c n = .error e := by
  rw [carRel, h]
  rfl

theorem countUp_eq (n : Nat) : countUp n = if n = 0xFFFFFFFF then n else n + 1 := by
  rfl

theorem countUp_lt {n : Nat} (h : n < 2 ^ 32) : countUp n < 2 ^ 32 := by
  rw [countUp_eq]
  split <;> omega

/-- The state in which a slot of store k has become DYING. -/
def dying (s : State) (k : Nat) (c : CarStore) (set w : Nat) : State :=
  { s with mem := memPutNat (setCount s c set w 0 2).mem (c.entry set w + 40) 8 (Config.linkField s.drawn).toNat, drawn := s.drawn + 1,
           bridge := { s.bridge with reclaim := s.bridge.reclaim ++ [(k, set, w)] } }

/-- The LINK field of a slot lies beside its COUNT and STATE. -/
theorem carSlot_dying (s : State) (k : Nat) (c : CarStore) (set w : Nat) :
    (carSlot (dying s k c set w) c set w).count = 0 ∧ (carSlot (dying s k c set w) c set w).state = 2 := by
  have hslot : carSlot (setCount s c set w 0 2) c set w = _ := carSlot_setCount s c set w (by decide) (by decide)
  exact ⟨(memGetNat_memPutNat_apart _ _ (by omega)).trans (congrArg CarSlot.count hslot),
    (memGetNat_memPutNat_apart _ _ (by omega)).trans (congrArg CarSlot.state hslot)⟩

section
variable {s : State} {c : CarStore} {n : DWord} {set w : Nat} {x : CarSlot} (h : namedSlot s c n = .ok (set, w, x))
include h

/-- A reference taken: the count goes up, where it has not saturated. -/
theorem carRef_slot : ∃ s1, carRef s c n = .ok s1 ∧
    (carSlot s1 c set w).count = (if x.count = 0xFFFFFFFF then x.count else x.count + 1) ∧ (carSlot s1 c set w).state = 1 := by
  have hlt : x.count < 2 ^ 32 := namedSlot_slot h ▸ carSlot_count_lt s c set w
  refine ⟨setCount s c set w (countUp x.count) 1, by rw [carRef, h]; rfl, ?_⟩
  rw [carSlot_setCount _ _ _ _ (countUp_lt hlt) (by decide)]
  exact ⟨countUp_eq x.count, rfl⟩

/-- A reference of several released. -/
theorem carRel_several (k : Nat) (hmany : 1 < x.count) (hmax : x.count ≠ 0xFFFFFFFF) :
    ∃ s1, carRel s k c n = .ok s1 ∧ (carSlot s1 c set w).count = x.count - 1 ∧ (carSlot s1 c set w).state = 1 := by
  have hlt : x.count < 2 ^ 32 := namedSlot_slot h ▸ carSlot_count_lt s c set w
  have hrel : carRel s k c n = .ok (setCount s c set w (x.count - 1) 1) := by
    rw [carRel, h, Except.map]
    dsimp only
    rw [countMax, if_neg hmax, if_pos hmany]
  refine ⟨_, hrel, ?_⟩
  rw [carSlot_setCount _ _ _ _ (by omega) (by decide)]
  exact ⟨rfl, rfl⟩

/-- The last reference released: the slot is DYING and joins the reclaim queue. -/
theorem carRel_last (k : Nat) (hlast : x.count ≤ 1) : carRel s k c n = .ok (dying s k c set w) := by
  have hmax : x.count ≠ countMax := by unfold countMax; omega
  rw [carRel, h, Except.map]
  dsimp only
  rw [if_neg hmax, if_neg (by omega)]
  rfl

end

theorem dropRef_error {s : State} {k : Nat} {c : CarStore} {n : DWord} {e : Cause} (h : namedSlot s c n = .error e) :
    dropRef s k c n = s := by
  rw [dropRef, carRel_error h]
  rfl

theorem dropRef_ok {s s1 : State} {k : Nat} {c : CarStore} {n : DWord} (h : carRel s k c n = .ok s1) : dropRef s k c n = s1 := by
  rw [dropRef, h]
  rfl

section
variable {s : State} {r : BitVec 5} {lo hi : Word} {k : Nat} (hlo : Source s r 0 lo) (hhi : Source s (r + 1) 0 hi)
  (hright : CarRight s true k)
include hlo hhi hright

/-- CREF and CREL of the null name do nothing (R39). -/
theorem reference_null (hn : hi ++ lo = (0 : DWord)) : ∀ i ∈ [Instr.cref r, .crel r], exec i s = .next (retired s [] (s.th.pc + 4)) := by
  intro i hi
  simp only [List.mem_cons, List.not_mem_nil, or_false] at hi
  obtain rfl | rfl := hi
  · change execCref r s = _
    simp only [execCref, readName_of_source hlo hhi, carRight_of_right hright, bind, Except.bind, hn, if_true, finish_ok, complete_eq]
  · change execCrel r s = _
    simp only [execCrel, readName_of_source hlo hhi, carRight_of_right hright, bind, Except.bind, hn, if_true, finish_ok, complete_eq]

variable (hn : hi ++ lo ≠ (0 : DWord))
include hn

theorem cref_ok {s1 : State} (h : carRef s (carStore s k) (hi ++ lo) = .ok s1) :
    exec (.cref r) s = .next (retired s1 [] (s1.th.pc + 4)) := by
  change execCref r s = _
  simp only [execCref, readName_of_source hlo hhi, carRight_of_right hright, bind, Except.bind, hn, if_false, h, finish_ok, complete_eq]

theorem crel_ok {s1 : State} (h : carRel s k (carStore s k) (hi ++ lo) = .ok s1) :
    exec (.crel r) s = .next (retired s1 [] (s1.th.pc + 4)) := by
  change execCrel r s = _
  simp only [execCrel, readName_of_source hlo hhi, carRight_of_right hright, bind, Except.bind, hn, if_false, h, finish_ok, complete_eq]

/-- A name without a slot stops CREF and CREL. -/
theorem reference_stops {e : Cause} (h : namedSlot s (carStore s k) (hi ++ lo) = .error e) :
    ∀ i ∈ [Instr.cref r, .crel r], exec i s = finish (.error (nameStop s e (hi ++ lo))) := by
  intro i hi
  simp only [List.mem_cons, List.not_mem_nil, or_false] at hi
  obtain rfl | rfl := hi
  · change execCref r s = _
    simp only [execCref, readName_of_source hlo hhi, carRight_of_right hright, bind, Except.bind, hn, if_false, carRef_error h]
  · change execCrel r s = _
    simp only [execCrel, readName_of_source hlo hhi, carRight_of_right hright, bind, Except.bind, hn, if_false, carRel_error h]

end

/-! ## CNLD (R54) -/

/-- A calm change leaves a vector register. -/
theorem vecReg_of_calm {s t : State} (h : Calm s t) (n : Nat) : t.th.vecReg n = s.th.vecReg n := by
  have hvec : t.th.vec = s.th.vec := (congrArg Thread.vec h.th_settled :)
  simp only [Thread.vecReg, hvec]

/-- A read by name leaves the slots as they were but for those that it wakes. -/
theorem carRead_calm {s s1 : State} {cl k : Nat} {n : DWord} {l : Line} (h : carRead s cl k n = .ok (s1, l)) : Calm s s1 := by
  unfold carRead at h
  dsimp only at h
  split at h
  · cases h
  split at h
  · split at h
    · cases h
    · cases h
      exact (Calm.ite _ (makeRoom_calm s cl) (Calm.refl s)).trans (setCluster_calm ..)
  · split at h
    · split at h
      · cases h
        exact Calm.of_eq rfl rfl rfl rfl
      · cases h
    · cases h
  · cases h

theorem vecDelivered_vecReg_other (s : State) {v u : Nat} (x : VWord) (h : u ≠ v) :
    (vecDelivered s v x).th.vecReg u = s.th.vecReg u := by
  simp [vecDelivered, Thread.setVec, Thread.vecReg, lookD_put_other _ _ _ h]

section
variable {s : State} {v : BitVec 6} {r : BitVec 5} {lo hi : Word} {k : Nat} (hlo : Source s r 0 lo) (hhi : Source s (r + 1) 0 hi)
  (hright : CarRight s false k) (hv : (s.th.vecReg v.toNat).busy = false) (hw : (s.th.vecReg (v.toNat + 1)).busy = false)
include hlo hhi hright hv hw

theorem cnld_null (hn : hi ++ lo = (0 : DWord)) : exec (.cnld v r) s =
    .next (retired (vecDelivered (vecDelivered s v.toNat 0) (v.toNat + 1) 0) [] (s.th.pc + 4)) := by
  have hw' : ((vecDelivered s v.toNat 0).th.vecReg (v.toNat + 1)).busy = false := by
    rw [vecDelivered_vecReg_other _ _ (by omega), hw]
  have hlow : (0 : Line).setWidth 256 = (0 : VWord) := by simp
  have hhigh : ((0 : Line) >>> 256).setWidth 256 = (0 : VWord) := by simp
  change execCnld v r s = _
  simp only [execCnld, readName_of_source hlo hhi, carRight_of_right hright, hv, hw, Bool.not_false, Bool.and_self, waitFor_true, bind,
    Except.bind, hn, if_true, pure, Except.pure, hlow, hhigh, writeV_of_accepts hv, writeV_of_accepts hw', finish_ok, complete_eq,
    vecDelivered_pc]

variable (hn : hi ++ lo ≠ (0 : DWord))
include hn

theorem cnld_stale (h : carRead s s.myCluster k (hi ++ lo) = .error .carStaleName) :
    exec (.cnld v r) s = .next (takeTrap s { cause := .carStaleName, tval := hi ++ lo }) := by
  change execCnld v r s = _
  simp only [execCnld, readName_of_source hlo hhi, carRight_of_right hright, hv, hw, Bool.not_false, Bool.and_self, waitFor_true, bind,
    Except.bind, hn, if_false, h, nameStop_stale, finish_trap]

theorem cnld_reads {s1 : State} {l : Line} (h : carRead s s.myCluster k (hi ++ lo) = .ok (s1, l)) : exec (.cnld v r) s =
    .next (retired (vecDelivered (vecDelivered s1 v.toNat (l.setWidth 256)) (v.toNat + 1) ((l >>> 256).setWidth 256)) []
      (s1.th.pc + 4)) := by
  have hcalm := carRead_calm h
  have hv' : (s1.th.vecReg v.toNat).busy = false := by rw [vecReg_of_calm hcalm, hv]
  have hw' : ((vecDelivered s1 v.toNat (l.setWidth 256)).th.vecReg (v.toNat + 1)).busy = false := by
    rw [vecDelivered_vecReg_other _ _ (by omega), vecReg_of_calm hcalm, hw]
  change execCnld v r s = _
  simp only [execCnld, readName_of_source hlo hhi, carRight_of_right hright, hv, hw, Bool.not_false, Bool.and_self, waitFor_true, bind,
    Except.bind, hn, if_false, h, writeV_of_accepts hv', writeV_of_accepts hw', finish_ok, complete_eq, vecDelivered_pc]

end

/-! ## CSTAT (R293) -/

/-- What CSTAT gives of a name. -/
def CstatGives (s : State) (k : Nat) (n : DWord) (a b : Word) : Prop :=
  (n = 0 ∧ a = 0 ∧ b = 0) ∨ (n ≠ 0 ∧ ∃ set w x, namedSlot s (carStore s k) n = .ok (set, w, x) ∧ a = BitVec.ofNat 32 x.count ∧
    b = BitVec.ofNat 32 ((if x.node then 1 else 0) + if x.count = 0xFFFFFFFF then 2 else 0))

theorem cstat_gives {s : State} {r : BitVec 5} {lo hi : Word} {k : Nat} {a b : Word} (hlo : Source s r 0 lo)
    (hhi : Source s (r + 1) 0 hi) (hright : CarRight s false k) (hdest : Unawaited s (destRefs s r true)) (ha : Accepts s r)
    (hb : Accepts (delivered s r a) (r + 1)) (h : CstatGives s k (hi ++ lo) a b) :
    exec (.cstat r) s = .next (retired (delivered (delivered s r a) (r + 1) b) [] (s.th.pc + 4)) := by
  change execCstat r s = _
  obtain ⟨hn, rfl, rfl⟩ | ⟨hn, set, w, x, hx, rfl, rfl⟩ := h
  · simp only [execCstat, readName_of_source hlo hhi, carRight_of_right hright, destFree_of_unawaited hdest, bind, Except.bind, hn, if_true,
      pure, Except.pure, writeX_of_accepts ha, writeX_of_accepts hb, finish_ok, complete_eq, delivered_pc]
  · simp only [execCstat, readName_of_source hlo hhi, carRight_of_right hright, destFree_of_unawaited hdest, bind, Except.bind, hn,
      if_false, hx, writeX_of_accepts ha, writeX_of_accepts hb, finish_ok, complete_eq, delivered_pc]
    rfl

/-! ## The reclaim walker (R49) -/

theorem dropName_mem (s : State) (p : Nat → Bool) : (dropName s p).mem = s.mem := rfl

/-- A cluster that has dropped a name. -/
def withoutName (key : Nat) (x : Cluster) : Cluster := { x with names := x.names.filter (fun y => !(y.1 == key)) }

theorem dropName_cluster (s : State) (key cl : Nat) : (dropName s (· == key)).cluster cl = withoutName key (s.cluster cl) :=
  lookD_map (withoutName key) s.clusters cl rfl

/-- No cluster cache holds a name that all have dropped. -/
theorem dropName_names (s : State) (key cl : Nat) : look ((dropName s (· == key)).cluster cl).names key = none := by
  rw [dropName_cluster, withoutName, look_filter (fun j => !(j == key))]
  simp

/-- The state in which the walker has taken the head of the reclaim queue. -/
def taken (s : State) (rest : List (Nat × Nat × Nat)) : State := { s with bridge := { s.bridge with reclaim := rest } }

/-- A slot freed, whose name every cluster cache drops. -/
def freed (s : State) (c : CarStore) (set w key : Nat) : State := setCount (dropName s (· == key)) c set w 0 0

theorem freed_slot (s : State) (c : CarStore) (set w key : Nat) :
    (carSlot (freed s c set w key) c set w).count = 0 ∧ (carSlot (freed s c set w key) c set w).state = 0 := by
  rw [freed, carSlot_setCount _ _ _ _ (by decide) (by decide)]
  exact ⟨rfl, rfl⟩

theorem freed_count (s : State) (c : CarStore) (set w key set' w' : Nat) : (carSlot (freed s c set w key) c set' w').count =
    if c.entry set' w' = c.entry set w then 0 else (carSlot s c set' w').count := by
  rw [freed, carSlot_count_setCount _ _ _ _ _ _ (by decide), carSlot_congr (dropName_mem ..)]

theorem freed_names (s : State) (c : CarStore) (set w key cl : Nat) : look ((freed s c set w key).cluster cl).names key = none :=
  dropName_names s key cl

section
variable {s : State} {k set w : Nat} {rest : List (Nat × Nat × Nat)} {c : CarStore} (hq : s.bridge.reclaim = (k, set, w) :: rest)
  (hc : c = carStore s k) (hen : c.en = true) (hentry : c.entry set w / 64 ∉ s.bridge.poisoned)
include hq hc hen hentry

/-- A leaf is freed. -/
theorem reclaimStep_leaf (hleaf : (carSlot s c set w).node = false) : exec .reclaimStep s =
    .next (freed (taken s rest) c set w (nameKey k (carName c.gen w (digestIndex (carSlot s c set w).dig)))) := by
  subst hc
  change execReclaimStep s = _
  simp [execReclaimStep, hq, hen, hentry, hleaf, freed, taken]

/-- A node is freed once the references to its children have been released, in ascending order. -/
theorem reclaimStep_node (hnode : (carSlot s c set w).node = true) (hdata : c.dataAt set w / 64 ∉ s.bridge.poisoned) :
    exec .reclaimStep s = .next (freed ((children (carSlot s c set w).data).foldl (fun s n => dropRef s k c n) (taken s rest)) c set w
      (nameKey k (carName c.gen w (digestIndex (carSlot s c set w).dig)))) := by
  subst hc
  change execReclaimStep s = _
  simp [execReclaimStep, hq, hen, hentry, hnode, slotPoisoned, hdata, freed, taken]

end

/-! ## The obligation -/

/-- Settles O39, clause by clause: lookups by `carLookup_names` and `carLookup_pends`, a PENDING node by `pendingStep`'s cases,
names and the slot found by `carFind_free`, references by `namedSlot`, and the walker by `reclaimStep_node`. -/
theorem carResults : Obligations.CarResults := by
  refine ⟨?lookup, ?pending, ?name, ?found, liveNow_coll, ?cnld, ?reference, ?count, ?cstat, ?drop, ?reclaim⟩
  case lookup =>
    intro s v d lo hi k hidle hlo hhi hright hdest
    have hleaf : false = true → ∀ w col, carFind s k true (hi ++ lo) ≠ .free w col := fun h => absurd h Bool.false_ne_true
    refine ⟨fun s1 c x => carLookup_fails hidle hlo hhi hright hdest hleaf, ?collision, fun s1 n ha hb => ⟨fun h => ?leaf, ?node⟩,
      fun w col => carLookup_pends hidle hlo hhi hright hdest⟩
    case collision =>
      rintro s1 n _ ha hb h rfl
      exact (carLookup_names hidle hlo hhi hright hdest hleaf h).trans (nameResult_completes ha hb true)
    case leaf => exact (carLookup_names hidle hlo hhi hright hdest hleaf h).trans (nameResult_completes ha hb false)
    case node =>
      intro w count hf h
      have hnode : true = true → ∀ w col, carFind s k true (hi ++ lo) ≠ .free w col := fun _ _ _ he => nomatch hf.symm.trans he
      exact (carLookup_names hidle hlo hhi hright hdest hnode h).trans (nameResult_completes ha hb false)
  case pending =>
    intro s v d k set w j col hwait
    have hexec : exec (.clkn v d) s = finish (pendingStep s d k set w j col) := carLookup_pending hwait
    refine ⟨fun n s1 hn h => ?child, fun n hn h => ?stale, ?collision, ?plain⟩
    case child => rw [hexec, pendingStep_child hn h, finish_stall]
    case stale => rw [hexec, pendingStep_stale hn (carRef_error h), finish_trap]
    case collision =>
      rintro _ _ _ hn rfl rfl rfl ha hb rfl
      rw [hexec, pendingStep_last hn]
      exact nameResult_completes ha hb true
    case plain =>
      rintro _ _ hn rfl rfl rfl ha hb
      rw [hexec, pendingStep_last hn]
      exact nameResult_completes ha hb false
  case name =>
    intro s k node l s1 n col h
    obtain ⟨w, hw, rfl⟩ := lookupOrAllocate_named h
    exact carName_fields _ hw (Nat.mod_lt _ (by decide))
  case found =>
    intro s k node l w col h
    obtain ⟨_, hfree, hlowest, hcol⟩ := carFind_free h
    refine ⟨hfree, hlowest, hcol, ?_⟩
    rintro rfl
    refine ⟨_, lookupOrAllocate_leaf h, ?_⟩
    rw [carSlot_liveNow_pendSlot]
    exact ⟨rfl, rfl, carSlot_pendSlot_data ..⟩
  case cnld =>
    intro s v r lo hi k hlo hhi hright hv hw
    exact ⟨cnld_null hlo hhi hright hv hw, cnld_stale hlo hhi hright hv hw, fun s1 l hn => cnld_reads hlo hhi hright hv hw hn⟩
  case reference =>
    intro s r lo hi k hlo hhi hright
    refine ⟨reference_null hlo hhi hright, fun hn => ⟨fun s1 => cref_ok hlo hhi hright hn, fun s1 => crel_ok hlo hhi hright hn,
      fun i hi => ⟨fun h => ?_, fun h => ?_⟩⟩⟩
    · rw [reference_stops hlo hhi hright hn h i hi, nameStop_stale, finish_trap]
    · rw [reference_stops hlo hhi hright hn h i hi, nameStop_uncorrectable, finish_trap]
  case count =>
    intro s c n w x k set h
    exact ⟨carRef_slot h, carRel_several h k, fun hlast =>
      ⟨_, carRel_last h k hlast, (carSlot_dying s k c set w).1, (carSlot_dying s k c set w).2, rfl⟩⟩
  case cstat => exact fun s r lo hi k a b hlo hhi hright hdest ha hb h => cstat_gives hlo hhi hright hdest ha hb h
  case drop => exact fun s k c n => ⟨fun e => dropRef_error, fun s1 => dropRef_ok⟩
  case reclaim =>
    intro s k set w rest c hq hc hen hentry
    refine ⟨fun hleaf => ?_, ?_⟩
    · exact ⟨_, reclaimStep_leaf hq hc hen hentry hleaf, rfl, (freed_slot ..).1, (freed_slot ..).2, freed_names _ _ _ _ _⟩
    · rintro _ hnode hdata rfl
      exact ⟨_, reclaimStep_node hq hc hen hentry hnode hdata, rfl, (freed_slot ..).1, (freed_slot ..).2, freed_count _ _ _ _ _,
        freed_names _ _ _ _ _⟩

end Sys2Proof.CarStores
end

section
/-!
PROOF of O48. A write of each declaring register by what the register held before it, and the events that end the work it starts.
-/

namespace Sys2Proof.Declarations

open Machine Spec Laws

/-! ## EN and BUSY of a declaring register -/

theorem getLsbD_literal {w i : Nat} (k : Nat) (h : i < w) : (BitVec.ofNat w k).getLsbD i = k.testBit i := by
  rw [BitVec.getLsbD_ofNat, decide_eq_true h, Bool.true_and]

section
variable {w : Nat} (hw : 2 ≤ w) (x : BitVec w)
include hw

/-- The bits of a register that is neither enabled nor busy. -/
theorem low_bits_clear (h : x &&& 3 = 0) : x.getLsbD 0 = false ∧ x.getLsbD 1 = false := by
  have hbit (i : Nat) (hi : i < w) (h3 : Nat.testBit 3 i = true) : x.getLsbD i = false := by
    have hand : (x &&& 3).getLsbD i = false := (congrArg (fun y : BitVec w => y.getLsbD i) h).trans BitVec.getLsbD_zero
    rwa [BitVec.getLsbD_and, show (3 : BitVec w).getLsbD i = true from (getLsbD_literal 3 hi).trans h3, Bool.and_true] at hand
  exact ⟨hbit 0 (by omega) (by decide), hbit 1 (by omega) (by decide)⟩

/-- EN cleared, with BUSY set. -/
theorem disabling_bits : ((x &&& ~~~1) ||| 2).getLsbD 0 = false ∧ ((x &&& ~~~1) ||| 2).getLsbD 1 = true := by
  have hen : (1 : BitVec w).getLsbD 0 = true := getLsbD_literal 1 (by omega)
  have hother : (2 : BitVec w).getLsbD 0 = false := getLsbD_literal 2 (by omega)
  have hbusy : (2 : BitVec w).getLsbD 1 = true := getLsbD_literal 2 (by omega)
  constructor
  · rw [BitVec.getLsbD_or, BitVec.getLsbD_and, BitVec.getLsbD_not, hen, hother, Bool.not_true, Bool.and_false, Bool.and_false,
      Bool.or_false]
  · rw [BitVec.getLsbD_or, hbusy, Bool.or_true]

/-- BUSY cleared. -/
theorem busy_cleared : (x &&& ~~~2).getLsbD 1 = false := by
  have hbusy : (2 : BitVec w).getLsbD 1 = true := getLsbD_literal 2 (by omega)
  rw [BitVec.getLsbD_and, BitVec.getLsbD_not, hbusy, Bool.not_true, Bool.and_false, Bool.and_false]

end

/-! ## CAR stores (R30 to R33) -/

theorem carStore_setCarStore (s : State) (n : Nat) (c : CarStore) : carStore (setCarStore s n c) n = c := lookD_put_same ..

/-- The fields of a write of MD_CARCFG to a store that is not enabled (R30). -/
def declared (c : CarStore) (v : DWord) : CarStore :=
  { c with pbase := v.extractLsb' 30 34, gen := v.extractLsb' 8 8, log2 := v.extractLsb' 4 4 }

section
variable {s : State} {n : BitVec 2} {v : DWord} (hen : (carStore s n.toNat).en = false) (hbusy : (carStore s n.toNat).dbusy = false)
include hen hbusy

/-- INIT starts to clear the range written with it (R32). -/
theorem carInit_starts (hinit : v.getLsbD 3 = true) (hv : v.getLsbD 0 = false) (hidle : (carStore s n.toNat).ibusy = false) :
    exec (.carInit n v) s = .next (setCarStore s n.toNat { declared (carStore s n.toNat) v with
      ibusy := true, clearBase := v.extractLsb' 30 34, clearLog := v.extractLsb' 4 4 }) := by
  change execCarInit n v s = _
  simp only [execCarInit, writeCarcfg, hen, hbusy, hinit, hv, hidle, declared, Bool.or_false, Bool.and_self, Bool.false_and,
    Bool.not_false, Bool.false_eq_true, if_false, if_true]

/-- EN takes effect where R30 allows it. -/
theorem carStoreEnable_enables (hv : v.getLsbD 0 = true)
    (hmay : carMayEnable s.module n.toNat (declared (carStore s n.toNat) v) = true) :
    exec (.carStoreEnable n v) s = .next (setCarStore (recallHost s (declared (carStore s n.toNat) v).span) n.toNat
      { declared (carStore s n.toNat) v with
        en := true, homeBase := v.extractLsb' 30 34, homeGen := v.extractLsb' 8 8, homeLog := v.extractLsb' 4 4 }) := by
  rw [declared] at hmay
  change execCarStoreEnable n v s = _
  rw [execCarStoreEnable, if_pos hv]
  unfold writeCarcfg
  dsimp only
  rw [if_neg (by simp [hen]), if_neg (by simp [hbusy]), if_pos hv, if_pos hmay]
  rfl

end

/-- EN cleared starts the disable (R33). -/
theorem carStoreDisable_starts {s : State} {n : BitVec 2} {v : DWord} (hen : (carStore s n.toNat).en = true) (hv : v.getLsbD 0 = false) :
    exec (.carStoreDisable n v) s = .next (setCarStore s n.toNat { carStore s n.toNat with en := false, dbusy := true }) := by
  change execCarStoreDisable n v s = _
  simp only [execCarStoreDisable, writeCarcfg, hen, hv, Bool.not_false, Bool.and_self, if_true, Bool.false_eq_true, if_false]

/-- No host holds a line of a range that has been recalled (R37). -/
theorem recallHost_held {s : State} {x : Span} {l : Nat × Moesi} (h : l ∈ (recallHost s x).bridge.hostHeld) :
    ¬ (x.1 ≤ 64 * l.1 ∧ 64 * l.1 < x.1 + x.2) := by
  obtain ⟨_, hout⟩ := List.mem_filter.1 h
  simpa [Span.has, imp_iff_not_or] using hout

/-- Memory without the bytes of some keys. -/
theorem memByte_filter (q : Nat → Bool) (m : List Host.Cell) (k : Nat) :
    memByte (m.filter (fun p => q p.1)) k = if q k then memByte m k else 0 := by
  rw [memByte, lookD, look_filter q]
  split <;> rfl

/-- Memory without the directory entries of a range: of each 2 KiB set the first half. -/
def cleared (m : List Host.Cell) (base len : Nat) : List Host.Cell :=
  m.filter (fun p => !(Span.has (base, len) p.1 && decide ((p.1 - base) % 2048 < 1024)))

theorem memByte_cleared (m : List Host.Cell) (base len k : Nat) : memByte (cleared m base len) k =
    if base ≤ k ∧ k < base + len ∧ (k - base) % 2048 < 1024 then 0 else memByte m k := by
  rw [cleared, memByte_filter (fun j => !(Span.has (base, len) j && decide ((j - base) % 2048 < 1024)))]
  by_cases h : base ≤ k ∧ k < base + len ∧ (k - base) % 2048 < 1024
  · rw [if_pos h, if_neg (by simp [Span.has, h])]
  · rw [if_neg h, if_pos]
    simpa [Span.has, imp_iff_not_or, or_assoc] using h

theorem carDirectoryClearDone_clears {s : State} {n : BitVec 2} (h : (carStore s n.toNat).ibusy = true) :
    exec (.carDirectoryClearDone n) s = .next (setCarStore { s with
      mem := cleared s.mem ((carStore s n.toNat).clearBase.toNat * 2 ^ 30) (2 ^ (30 + (carStore s n.toNat).clearLog.toNat)) } n.toNat
      { carStore s n.toNat with ibusy := false }) := by
  change execCarDirectoryClearDone n s = _
  unfold execCarDirectoryClearDone
  dsimp only
  rw [if_pos h]
  rfl

/-- A disable ends: no line of the store waits to be reclaimed (R33). -/
theorem carDisableDone_ends {s : State} {n : BitVec 2} (hbusy : (carStore s n.toNat).dbusy = true)
    (hdone : carUnderway s n.toNat = false) : ∃ t, exec (.carDisableDone n) s = .next t ∧ (carStore t n.toNat).dbusy = false ∧
      ∀ x ∈ t.bridge.reclaim, x.1 ≠ n.toNat := by
  change ∃ t, execCarDisableDone n s = .next t ∧ _
  simp only [execCarDisableDone, hbusy, hdone, Bool.not_false, Bool.and_self, if_true]
  refine ⟨_, rfl, ?_, fun x hx => ?_⟩
  · rw [carStore_setCarStore]
  · simpa using (List.mem_filter.1 hx).2

/-! ## Commutative ranges (R73) -/

theorem crcfgOf_setCrcfg (s : State) (n : Nat) (w : Word) : crcfgOf (setCrcfg s n w) n = w := lookD_put_same ..

section
variable {s : State} {n : BitVec 4} {v : Word}

theorem crangeEnable_enables (hold : crcfgOf s n.toNat &&& 3 = 0) (hv : v.getLsbD 0 = true)
    (hmay : crMayEnable s.module n.toNat (v &&& 0x0FFFFFF1) = true) :
    exec (.crangeEnable n v) s = .next (setCrcfg (recallHost s (crSpan (lookD s.module.crbase n.toNat 0) (v &&& 0x0FFFFFF1))) n.toNat
      (v &&& 0x0FFFFFF1)) := by
  obtain ⟨hen, hbusy⟩ := low_bits_clear (by decide) _ hold
  have hv' : (v &&& 0x0FFFFFF1).getLsbD 0 = true := by rw [BitVec.getLsbD_and, hv]; rfl
  change execCrangeEnable n v s = _
  simp only [execCrangeEnable, writeCrcfg, hen, hbusy, hv, hv', hmay, Bool.and_self, Bool.false_eq_true, if_false, if_true]

theorem crangeDisable_starts (hold : (crcfgOf s n.toNat).getLsbD 0 = true) (hv : v.getLsbD 0 = false) :
    exec (.crangeDisable n v) s = .next (setCrcfg s n.toNat ((crcfgOf s n.toNat &&& ~~~1) ||| 2)) := by
  have hv' : (v &&& 0x0FFFFFF1).getLsbD 0 = false := by rw [BitVec.getLsbD_and, hv, Bool.false_and]
  change execCrangeDisable n v s = _
  simp only [execCrangeDisable, writeCrcfg, hold, hv, hv', Bool.not_false, Bool.and_self, Bool.false_eq_true, if_false, if_true]

end

/-- A range that is busy ends its disable. -/
theorem crangeDisableDone_ends {s : State} {n : BitVec 4} (hbusy : (crcfgOf s n.toNat).getLsbD 1 = true) :
    ∃ t, exec (.crangeDisableDone n) s = .next t ∧ crcfgOf t n.toNat = crcfgOf s n.toNat &&& ~~~2 := by
  change ∃ t, execCrangeDisableDone n s = .next t ∧ _
  simp only [execCrangeDisableDone, hbusy, if_true]
  exact ⟨_, rfl, crcfgOf_setCrcfg ..⟩

/-! ## Stash banks (R96) -/

theorem bstashOf_setBstash (s : State) (c n : Nat) (v : DWord) : bstashOf (setBstash s c n v) c n = v := by
  simp [bstashOf, setBstash]

section
variable {s : State} {c : BitVec 9} {b : BitVec 4} {v : DWord}

/-- A bank is mapped where no other bank maps the same addresses. -/
theorem stashMap_maps (hv : v.getLsbD 0 = true) (hb : b.toNat < 14) (hold : bstashOf s c.toNat b.toNat &&& 3 = 0)
    (hfree : ∀ p ∈ (s.core c.toNat).bstash, p.1 ≠ b.toNat → p.2 ≠ v &&& 0xFFFFFFFFFFFFFFF1) :
    exec (.stashMap c b v) s = .next (setBstash s c.toNat b.toNat (v &&& 0xFFFFFFFFFFFFFFF1)) := by
  obtain ⟨hen, hbusy⟩ := low_bits_clear (by decide) _ hold
  have hnone : (s.core c.toNat).bstash.any (fun p => p.1 != b.toNat && p.2 == v &&& 0xFFFFFFFFFFFFFFF1) = false :=
    List.any_eq_false.2 fun p hp => by simpa using hfree p hp
  change execStashMap c b v s = _
  simp only [execStashMap, writeBstash, hv, hb, decide_true, hen, hbusy, hnone, Bool.and_self, Bool.and_false, Bool.false_eq_true, if_false,
    if_true]

theorem stashUnmap_starts (hold : (bstashOf s c.toNat b.toNat).getLsbD 0 = true) (hv : v.getLsbD 0 = false) :
    exec (.stashUnmap c b v) s = .next (setBstash s c.toNat b.toNat ((bstashOf s c.toNat b.toNat &&& ~~~1) ||| 2)) := by
  have hv' : (v &&& 0xFFFFFFFFFFFFFFF1).getLsbD 0 = false := by rw [BitVec.getLsbD_and, hv, Bool.false_and]
  change execStashUnmap c b v s = _
  simp only [execStashUnmap, writeBstash, hold, hv, hv', Bool.not_false, Bool.and_self, Bool.false_eq_true, if_false, if_true]

end

theorem freeBank_core (s : State) (core bank c : Nat) : (freeBank s core bank).core c = s.core c := by
  unfold freeBank State.core
  rfl

/-- What the end of an unmapping leaves of its core: the bank's register without BUSY, and no line of the bank. -/
theorem stashUnmapDone_ends {s : State} {c : BitVec 9} {b : BitVec 4} (h : (bstashOf s c.toNat b.toNat).getLsbD 1 = true) :
    ∃ t, exec (.stashUnmapDone c b) s = .next t ∧ bstashOf t c.toNat b.toNat = bstashOf s c.toNat b.toNat &&& ~~~2 ∧
      ∀ p ∈ (t.core c.toNat).stash, p.1 % 16 ≠ b.toNat := by
  change ∃ t, execStashUnmapDone c b s = .next t ∧ _
  simp only [execStashUnmapDone, h, if_true]
  refine ⟨_, rfl, ?_, fun p hp => ?_⟩
  · rw [bstashOf, freeBank_core]
    exact bstashOf_setBstash ..
  · rw [freeBank_core, setBstash, State.core_setCore_same, State.core_setCore_same] at hp
    simpa using (List.mem_filter.1 hp).2

/-! ## Cluster memory (R58) -/

section
variable {s : State} {k : Nat} {w : Word}

theorem ccfgWrite_writes (s : State) (k : BitVec 5) (w : Word) : exec (.ccfgWrite k w) s = .next (writeCcfg s k.toNat w) := rfl

/-- A split that no value or resident block forbids (R58). -/
def SplitAllowed (s : State) (k : Nat) (w : Word) : Prop :=
  w.extractLsb' 8 8 ≠ (0 : BitVec 8) ∧ (w.extractLsb' 8 8).toNat ≤ 64 ∧ (w.extractLsb' 0 4).toNat ≤ 8 ∧
    (w.extractLsb' 0 4 = (s.cluster k).scratch ∨ residentBlocks s k = [])

theorem writeCcfg_refused (h : w.extractLsb' 8 8 = (0 : BitVec 8) ∨ 64 < (w.extractLsb' 8 8).toNat ∨ 8 < (w.extractLsb' 0 4).toNat ∨
    (w.extractLsb' 0 4 ≠ (s.cluster k).scratch ∧ residentBlocks s k ≠ [])) : writeCcfg s k w = s := by
  unfold writeCcfg
  dsimp only
  exact if_pos (by simpa using h)

theorem writeCcfg_allowed (h : SplitAllowed s k w) : writeCcfg s k w =
    let t := if w.extractLsb' 0 4 = (s.cluster k).scratch then s else splitCluster s k (w.extractLsb' 0 4)
    t.setCluster k { t.cluster k with lease := w.extractLsb' 8 8 } := by
  obtain ⟨hzero, hlease, hscratch, hsplit⟩ := h
  unfold writeCcfg
  dsimp only
  rw [if_neg]
  · by_cases hsame : w.extractLsb' 0 4 = (s.cluster k).scratch
    · rw [if_pos hsame, if_neg (by simp [hsame])]
    · rw [if_neg hsame, if_pos (by simp [hsame])]
  · simp only [not_or]
    refine ⟨hzero, by omega, by omega, ?_⟩
    rcases hsplit with h | h <;> simp [h]

end

/-- The cluster after a new split holds no line. -/
theorem splitCluster_cluster (s : State) (k : Nat) (x : BitVec 4) :
    ((splitCluster s k x).cluster k).scratch = x ∧ ((splitCluster s k x).cluster k).lines = [] := by
  unfold splitCluster
  dsimp only
  generalize List.foldl _ (pushAll s k) _ = t
  exact ⟨congrArg Cluster.scratch (State.cluster_setCluster_same t k _), congrArg Cluster.lines (State.cluster_setCluster_same t k _)⟩

/-- The scratch of a new split reads zero. -/
theorem splitCluster_scratch (s : State) (k : Nat) (x : BitVec 4) {o : Nat} (h : o < 2 ^ 22) :
    memByte (splitCluster s k x).mem (scratchKey k o) = 0 := by
  unfold splitCluster
  dsimp only
  rw [memByte_filter (fun j => !Span.has (scratchKey k 0, 2 ^ 22) j), if_neg]
  simpa [Span.has, scratchKey] using h

/-! ## Barriers (R306) -/

theorem barrierAt_setBarrier (s : State) (k n : Nat) (b : Barrier) : barrierAt (setBarrier s k n b) k n = b := by
  simp [barrierAt, setBarrier]

/-- A count other than 0 is taken, and INIT zeroes the rest. -/
theorem writeBarcfg_counts {s : State} {k n : Nat} {w : Word} (h : w.toNat % 1024 ≠ 0) :
    writeBarcfg s k n w = setBarrier s k n (if w.getLsbD 31 then
      { barrierAt s k n with count := w.extractLsb' 0 10, phase := 0, arr := 0, bal := 0 }
      else { barrierAt s k n with count := w.extractLsb' 0 10 }) := by
  have hcount : w.extractLsb' 0 10 ≠ (0 : BitVec 10) := fun h0 => h (by simpa using congrArg BitVec.toNat h0)
  unfold writeBarcfg
  dsimp only
  rw [if_neg hcount]

/-! ## The obligation -/

/-- Settles O48: what each write leaves of its register (`carStoreEnable_enables` and the like), and what the end of its work does. -/
theorem declarationResults : Obligations.DeclarationResults := by
  refine ⟨?declare, ?clear, ?disable, fun s n hbusy hdone => carDisableDone_ends hbusy hdone, ?rangeEnable, ?rangeDisable, ?rangeDone,
    ?bankMap, ?bankUnmap, ?bankDone, ?split, ?barrier⟩
  case declare =>
    intro s n v hen hbusy
    refine ⟨fun hinit hv hidle => ⟨_, carInit_starts hen hbusy hinit hv hidle, sameMemory_of_storage rfl, ?_⟩,
      fun hv hmay => ⟨_, carStoreEnable_enables hen hbusy hv hmay, ?_⟩⟩
    · rw [carStore_setCarStore]
      exact ⟨rfl, rfl, rfl⟩
    · rw [carStore_setCarStore]
      exact ⟨rfl, rfl, rfl, sameMemory_of_storage rfl, fun l => recallHost_held⟩
  case clear =>
    intro s n hbusy
    exact ⟨_, carDirectoryClearDone_clears hbusy, by rw [carStore_setCarStore], memByte_cleared _ _ _⟩
  case disable =>
    exact fun s n v hen hv => ⟨_, carStoreDisable_starts hen hv, carStore_setCarStore _ _ _, sameMemory_of_storage rfl⟩
  case rangeEnable =>
    exact fun s n v hold hv hmay => ⟨_, crangeEnable_enables hold hv hmay, crcfgOf_setCrcfg _ _ _, sameMemory_of_storage rfl⟩
  case rangeDisable =>
    intro s n v hold hv
    obtain ⟨hen, hbusy⟩ := disabling_bits (by decide) (crcfgOf s n.toNat)
    exact ⟨_, crangeDisable_starts hold hv, by rwa [crcfgOf_setCrcfg], by rwa [crcfgOf_setCrcfg], sameMemory_of_storage rfl⟩
  case rangeDone =>
    intro s n hbusy
    obtain ⟨t, ht, hregister⟩ := crangeDisableDone_ends hbusy
    exact ⟨t, ht, hregister ▸ busy_cleared (by decide) _⟩
  case bankMap =>
    exact fun s c b v hv hb hold hfree => ⟨_, stashMap_maps hv hb hold hfree, bstashOf_setBstash _ _ _ _, sameMemory_of_storage rfl⟩
  case bankUnmap =>
    intro s c b v hold hv
    obtain ⟨hen, hbusy⟩ := disabling_bits (by decide) (bstashOf s c.toNat b.toNat)
    exact ⟨_, stashUnmap_starts hold hv, by rwa [bstashOf_setBstash], by rwa [bstashOf_setBstash], sameMemory_of_storage rfl⟩
  case bankDone =>
    intro s c b hbusy
    obtain ⟨t, ht, hregister, hlines⟩ := stashUnmapDone_ends hbusy
    exact ⟨t, ht, hregister ▸ busy_cleared (by decide) _, hlines⟩
  case split =>
    rintro s k w _ _ rfl rfl
    rw [ccfgWrite_writes]
    refine ⟨fun h => by rw [writeCcfg_refused h], fun hzero hlease hsame hscratch => ?_, fun hzero hlease hother hscratch hempty =>
      ⟨_, rfl, ?_⟩⟩
    · rw [writeCcfg_allowed ⟨hzero, hlease, hscratch, .inl hsame⟩, if_pos hsame]
    · obtain ⟨hcluster, hlines⟩ := splitCluster_cluster s k.toNat (w.extractLsb' 0 4)
      rw [writeCcfg_allowed ⟨hzero, hlease, hscratch, .inr hempty⟩, if_neg hother, State.cluster_setCluster_same]
      exact ⟨hcluster, rfl, hlines, fun o ho => splitCluster_scratch s k.toNat _ ho⟩
  case barrier =>
    intro s k n w hw
    refine ⟨writeBarcfg s k.toNat n.toNat w, rfl, ?_⟩
    have hcount : (w.extractLsb' 0 10).toNat = w.toNat % 1024 := by simp
    rw [writeBarcfg_counts hw, barrierAt_setBarrier]
    refine ⟨?_, fun hinit => ?_, fun _ => rfl, fun _ => rfl⟩
    · split <;> exact hcount
    · rw [if_pos hinit]
      exact ⟨rfl, rfl, rfl⟩

end Sys2Proof.Declarations
end

section
/-!
PROOF of O57. At reset no table lists anything, so each part of the state has the value of an unlisted one.
-/

namespace Sys2Proof.ResetLeaves

open Machine Spec

theorem reset_thread (t : Nat) : State.reset.thread t = Thread.reset (t % 8) := rfl
theorem reset_memByte (k : Nat) : memByte State.reset.mem k = 0 := rfl
theorem reset_feFull (w : Nat) : feFull State.reset.empty w = true := rfl
theorem reset_viOf (v : Nat) : State.reset.viOf v = {} := rfl
theorem reset_portWidth (p : Nat) : portWidth State.reset.module p = 3 := rfl

/-- Settles O57: slots, memory, virtual interfaces and ports are unlisted at reset, and the module has its fields' own values. -/
theorem resetState : Obligations.ResetState := by
  refine ⟨?form, fun t => ?slot, fun t => ?window, fun k => ⟨reset_memByte k, reset_feFull k⟩, rfl, rfl, fun v => ?interface,
    reset_portWidth⟩
  case form => decide
  case slot => rw [reset_thread]; exact ⟨rfl, rfl⟩
  case window => rw [reset_thread]; exact ⟨rfl, rfl, rfl, rfl, rfl⟩
  case interface => rw [reset_viOf]; exact ⟨rfl, rfl, rfl⟩

end Sys2Proof.ResetLeaves
end

section
/-!
SUPPORT. The bits of a line: masks, merged lines, lines read from memory, and the lines that carry given bytes.
-/

namespace Sys2Proof.Laws

open Machine Spec

/-! ## Masks -/

/-- A bit of a sum of digits of w bits. -/
theorem testBit_sum_digits {w : Nat} {f : Nat → Nat} (hf : ∀ i, f i < 2 ^ w) {n k j : Nat} (hk : k < n) (hj : j < w) :
    (((List.range n).map (fun i => f i * 2 ^ (w * i))).sum).testBit (w * k + j) = (f k).testBit j := by
  have hlt (m : Nat) : ((List.range m).map (fun i => f i * 2 ^ (w * i))).sum < 2 ^ (w * m) := by
    induction m with
    | zero => simp
    | succ m ih =>
      rw [List.range_succ, List.map_append, List.sum_append]
      have hdigit : f m * 2 ^ (w * m) + 2 ^ (w * m) ≤ 2 ^ (w * (m + 1)) := by
        rw [Nat.mul_succ, Nat.pow_add, Nat.mul_comm (2 ^ (w * m)), ← Nat.succ_mul]
        exact Nat.mul_le_mul_right _ (hf m)
      simp only [List.map_cons, List.map_nil, List.sum_cons, List.sum_nil, Nat.add_zero]
      omega
  induction n with
  | zero => exact absurd hk (Nat.not_lt_zero k)
  | succ n ih =>
    rw [List.range_succ, List.map_append, List.sum_append]
    simp only [List.map_cons, List.map_nil, List.sum_cons, List.sum_nil, Nat.add_zero]
    rw [Nat.add_comm, Nat.mul_comm (f n), Nat.testBit_two_pow_mul_add _ (hlt n)]
    rcases Nat.lt_or_eq_of_le (Nat.le_of_lt_succ hk) with h | rfl
    · have hstep : w * (k + 1) ≤ w * n := Nat.mul_le_mul_left w h
      rw [Nat.mul_succ] at hstep
      rw [if_pos (by omega), ih h]
    · rw [if_neg (by omega), Nat.add_sub_cancel_left]

/-- A bit of the mask of some bytes is that of its byte. -/
theorem getLsbD_expandMask (m : BitVec 64) {i j : Nat} (hi : i < 64) (hj : j < 8) : (expandMask m).getLsbD (8 * i + j) = m.getLsbD i := by
  have hform : (fun i => if m.getLsbD i then 255 * 2 ^ (8 * i) else 0) = fun i => (if m.getLsbD i then 255 else 0) * 2 ^ (8 * i) := by
    funext i
    split <;> simp
  rw [expandMask, hform, BitVec.getLsbD_ofNat, testBit_sum_digits (fun i => by split <;> decide) hi hj]
  simp only [show 8 * i + j < 512 by omega, decide_true, Bool.true_and]
  cases m.getLsbD i with
  | false => simp
  | true => simpa [Nat.testBit_two_pow_sub_one] using (Nat.testBit_two_pow_sub_one 8 j).trans (decide_eq_true hj)

/-- A byte is among those of a mask where any bit of it is. -/
theorem getLsbD_bytesOf (mask : Line) {i : Nat} (hi : i < 64) : (bytesOf mask).getLsbD i = decide ((mask >>> (8 * i)).setWidth 8 ≠ (0 : Byte)) := by
  have hform : (fun i => if (mask >>> (8 * i)).setWidth 8 = (0 : Byte) then 0 else 2 ^ i) =
      fun i => (if (mask >>> (8 * i)).setWidth 8 = (0 : Byte) then 0 else 1) * 2 ^ (1 * i) := by
    funext i
    split <;> simp
  have hbit := testBit_sum_digits (w := 1) (f := fun i => if (mask >>> (8 * i)).setWidth 8 = (0 : Byte) then 0 else 1)
    (fun i => by split <;> decide) hi Nat.one_pos
  rw [Nat.add_zero, Nat.one_mul] at hbit
  rw [bytesOf, hform, BitVec.getLsbD_ofNat, hbit]
  by_cases h : (mask >>> (8 * i)).setWidth 8 = (0 : Byte)
  · rw [if_pos h, decide_eq_false (not_not.2 h)]
    simp
  · rw [if_neg h, decide_eq_true h]
    simp [hi]

theorem getLsbD_byteMask {n : Nat} (hn : n ≤ 64) (i : Nat) : (byteMask n).getLsbD i = decide (i < 8 * n) := by
  rw [BitVec.getLsbD, byteMask_toNat hn, Nat.testBit_two_pow_sub_one]

/-- The bytes that n bytes from byte o need are among some bytes where each of them is. -/
theorem needOf_covered {o n : Nat} {b : BitVec 64} (h : ∀ j < n, b.getLsbD (o + j) = true) : needOf o n &&& ~~~b = 0 := by
  refine BitVec.eq_of_getLsbD_eq fun i hi => ?_
  rw [BitVec.getLsbD_and, BitVec.getLsbD_not, needOf, BitVec.getLsbD_ofNat, Nat.testBit_mul_two_pow, Nat.testBit_two_pow_sub_one,
    show (0 : BitVec 64).getLsbD i = false from BitVec.getLsbD_zero]
  by_cases hin : o ≤ i ∧ i - o < n
  · have hb := h (i - o) hin.2
    rw [show o + (i - o) = i by omega] at hb
    simp [hb]
  · rw [not_and] at hin
    by_cases hle : o ≤ i
    · simp [hin hle]
    · simp [hle]

/-! ## Merged lines -/

theorem getLsbD_mergeBits (old new mask : Line) {i : Nat} (hi : i < 512) :
    (mergeBits old new mask).getLsbD i = if mask.getLsbD i then new.getLsbD i else old.getLsbD i := by
  rw [mergeBits, BitVec.getLsbD_or, BitVec.getLsbD_and, BitVec.getLsbD_and, BitVec.getLsbD_not]
  cases mask.getLsbD i <;> simp [hi]

/-- Lines are equal where their bits, byte by byte, are. -/
theorem line_ext {x y : Line} (h : ∀ i < 64, ∀ j < 8, x.getLsbD (8 * i + j) = y.getLsbD (8 * i + j)) : x = y := by
  refine BitVec.eq_of_getLsbD_eq fun i hi => ?_
  rw [← Nat.div_add_mod i 8]
  exact h _ (by omega) _ (Nat.mod_lt _ (by decide))

/-- No bytes merged leave the line. -/
theorem mergeBits_none (old new : Line) : mergeBits old new (expandMask 0) = old := line_ext fun i hi j hj => by
  rw [getLsbD_mergeBits _ _ _ (by omega), getLsbD_expandMask _ hi hj, show (0 : BitVec 64).getLsbD i = false from BitVec.getLsbD_zero]
  rfl

/-- Bytes merged once more change nothing. -/
theorem mergeBits_again (old new mask : Line) : mergeBits old (mergeBits old new mask) mask = mergeBits old new mask :=
  line_ext fun i hi j hj => by
    rw [getLsbD_mergeBits _ _ _ (by omega), getLsbD_mergeBits _ _ _ (by omega)]
    split <;> rfl

/-! ## Lines in memory -/

/-- A bit of a line read from memory is that of its byte. -/
theorem getLsbD_memRead (m : List Host.Cell) (k : Nat) {i j n : Nat} (hi : i < n) (hn : n ≤ 64) (hj : j < 8) :
    (memRead m k n).getLsbD (8 * i + j) = (memByte m (k + i)).getLsbD j := by
  rw [← byteAt_memRead m k hi hn, byteAt, BitVec.getLsbD_setWidth, BitVec.getLsbD_ushiftRight]
  simp [hj]

/-- A write into a line merges its bits. -/
theorem memRead_memWrite (m : List Host.Cell) (k : Nat) (data mask : Line) :
    memRead (memWrite m k 64 data mask) k 64 = mergeBits (memRead m k 64) data mask := line_ext fun i hi j hj => by
  rw [getLsbD_memRead _ _ hi (by decide) hj, memByte_memWrite_inside _ _ _ _ _ _ hi, getLsbD_mergeBits _ _ _ (by omega),
    getLsbD_memRead _ _ hi (by decide) hj, mixByte]
  simp only [BitVec.getLsbD_or, BitVec.getLsbD_and, BitVec.getLsbD_not, BitVec.getLsbD_setWidth, BitVec.getLsbD_ushiftRight]
  cases mask.getLsbD (8 * i + j) <;> simp [hj]

theorem memRead_memWrite_apart (m : List Host.Cell) {a b : Nat} (data mask : Line) (h : a ≠ b) :
    memRead (memWrite m (64 * a) 64 data mask) (64 * b) 64 = memRead m (64 * b) 64 :=
  memRead_congr (by decide) fun i hi => memByte_memWrite_outside _ _ _ _ _ _ (by omega)

/-! ## Lines that carry given bytes -/

/-- The n bytes of a line from byte o are the low bytes of v. -/
def Carries (o n : Nat) (v l : Line) : Prop := ∀ i < 8 * n, l.getLsbD (8 * o + i) = v.getLsbD i

section
variable {o n : Nat} {v l : Line} (hfit : o + n ≤ 64)
include hfit

/-- Those bytes, cut out of the line. -/
theorem Carries.bytes (h : Carries o n v l) : fromByte l o &&& byteMask n = v &&& byteMask n := by
  refine BitVec.eq_of_getLsbD_eq fun i hi => ?_
  rw [BitVec.getLsbD_and, BitVec.getLsbD_and, getLsbD_byteMask (by omega), fromByte, BitVec.getLsbD_ushiftRight]
  by_cases hin : i < 8 * n
  · rw [h i hin]
  · simp [hin]

/-- Those bytes, read from the memory of the line. -/
theorem Carries.memRead {m : List Host.Cell} {line : Nat} (h : Carries o n v (memRead m (64 * line) 64)) :
    Machine.memRead m (64 * line + o) n = v &&& byteMask n := by
  refine BitVec.eq_of_getLsbD_eq fun i _ => ?_
  rw [BitVec.getLsbD_and, getLsbD_byteMask (by omega)]
  by_cases hin : i < 8 * n
  · have hj : i % 8 < 8 := Nat.mod_lt _ (by decide)
    have hbit := h i hin
    rw [show 8 * o + i = 8 * (o + i / 8) + i % 8 by omega, getLsbD_memRead _ _ (by omega) (by decide) hj, ← Nat.add_assoc,
      ← getLsbD_memRead _ _ (show i / 8 < n by omega) (by omega) hj, Nat.div_add_mod] at hbit
    simp [hbit, hin]
  · rw [BitVec.getLsbD, memRead_toNat _ _ (by omega), Nat.testBit_lt_two_pow]
    · simp [hin]
    · refine Nat.lt_of_lt_of_le (memNat_lt _ _ n) ?_
      rw [show 256 = 2 ^ 8 from rfl, ← Nat.pow_mul]
      exact Nat.pow_le_pow_right (by decide) (by omega)

/-- A line whose bytes were written there carries them, whatever it was. -/
theorem carries_write (old : Line) : Carries o n v (mergeBits old (toByte v o) (toByte (byteMask n) o)) := fun i hi => by
  have hshift (x : Line) : (toByte x o).getLsbD (8 * o + i) = x.getLsbD i := by
    rw [toByte, BitVec.getLsbD_shiftLeft]
    simp [show 8 * o + i < 512 by omega]
  rw [getLsbD_mergeBits _ _ _ (by omega), hshift, hshift, getLsbD_byteMask (by omega)]
  simp [hi]

/-- A line carries the bytes that another has among those merged into it. -/
theorem Carries.merged {old : Line} {b : BitVec 64} (h : Carries o n v l) (hb : ∀ j < n, b.getLsbD (o + j) = true) :
    Carries o n v (mergeBits old l (expandMask b)) := fun i hi => by
  have hmask : (expandMask b).getLsbD (8 * o + i) = true := by
    rw [show 8 * o + i = 8 * (o + i / 8) + i % 8 by omega, getLsbD_expandMask _ (by omega) (Nat.mod_lt _ (by decide))]
    exact hb _ (by omega)
  rw [getLsbD_mergeBits _ _ _ (by omega), hmask, if_pos rfl, h i hi]

/-- The bytes of a write. -/
theorem bytesOf_write {j : Nat} (hj : j < n) : (bytesOf (toByte (byteMask n) o)).getLsbD (o + j) = true := by
  rw [getLsbD_bytesOf _ (by omega)]
  refine decide_eq_true fun h => ?_
  have hbit := congrArg (·.getLsbD 0) h
  simp only [BitVec.getLsbD_setWidth, BitVec.getLsbD_ushiftRight, toByte, BitVec.getLsbD_shiftLeft,
    show 8 * (o + j) + 0 - 8 * o = 8 * j by omega, getLsbD_byteMask (show n ≤ 64 by omega)] at hbit
  simp [show 8 * (o + j) < 512 by omega, show ¬ 8 * (o + j) < 8 * o by omega, hj] at hbit

end

end Sys2Proof.Laws
end

section
/-!
SUPPORT. Which operations leave a line as its home and one cluster hold it: clocks, the homes, pushes and evictions of other lines.
-/

namespace Sys2Proof.Laws

open Machine Spec

/-! ## The errors of lines (R428) -/

theorem setHome_poisoned (s : State) (line : Nat) (h : HomeLine) : (setHome s line h).bridge.poisoned = s.bridge.poisoned := by
  unfold setHome
  dsimp only
  split
  · split <;> rfl
  · rfl

theorem fetchLine_poisoned (s : State) (line : Nat) : (fetchLine s line).bridge.poisoned = s.bridge.poisoned := by
  unfold fetchLine
  dsimp only
  split
  · split <;> rfl
  · split
    · rfl
    · exact setHome_poisoned ..

theorem takeLine_poisoned (s : State) (line : Nat) : (takeLine s line).bridge.poisoned = s.bridge.poisoned := by
  unfold takeLine
  dsimp only
  split <;> rfl

theorem mergeLine_poisoned (s : State) (ctx line : Nat) (data mask : Line) :
    (mergeLine s ctx line data mask).bridge.poisoned = s.bridge.poisoned := by
  unfold mergeLine
  dsimp only
  split <;> rfl

theorem setWatchers_poisoned (s : State) (place : Nat) (l : List Sleeper) :
    (setWatchers s place l).bridge.poisoned = s.bridge.poisoned := by
  unfold setWatchers
  split <;> rfl

theorem wakeWords_poisoned (s : State) (place : Nat) (keys : List Nat) (c : Nat) :
    (wakeWords s place keys c).bridge.poisoned = s.bridge.poisoned := by
  unfold wakeWords
  dsimp only
  split
  · rfl
  · exact (congrArg Bridge.poisoned (wakeAll_elsewhere (fun _ => c) _ _).2 :).trans (setWatchers_poisoned ..)

theorem homeMerge_poisoned (s : State) (ctx line : Nat) (data mask : Line) (c : Nat) :
    (homeMerge s ctx line data mask c).1.bridge.poisoned = s.bridge.poisoned :=
  (wakeWords_poisoned ..).trans ((setHome_poisoned ..).trans ((mergeLine_poisoned ..).trans (takeLine_poisoned s line)))

theorem setFe_poisoned (s : State) (place w : Nat) (full : Bool) : (setFe s place w full).bridge.poisoned = s.bridge.poisoned := by
  unfold setFe
  split <;> rfl

/-- Full/empty bits are set one by one. -/
theorem foldl_setFe_poisoned (place line : Nat) (fe : BitVec 16) (l : List Nat) (s : State) :
    (l.foldl (fun s w => setFe s place (16 * line + w) (fe.getLsbD w)) s).bridge.poisoned = s.bridge.poisoned := by
  induction l generalizing s with
  | nil => rfl
  | cons w l ih => exact (ih _).trans (setFe_poisoned ..)

theorem carryFe_poisoned (s : State) (line : Nat) (fe : BitVec 16) (bytes : BitVec 64) (feMask : BitVec 16) :
    (carryFe s line fe bytes feMask).bridge.poisoned = s.bridge.poisoned := foldl_setFe_poisoned ..

/-- An error in one line leaves the others as they were. -/
theorem poison_other (s : State) {line other : Nat} (h : other ≠ line) :
    (poison s other).bridge.poisoned.contains line = s.bridge.poisoned.contains line := by
  unfold poison
  split
  · rfl
  · simp [List.contains_eq_mem, Ne.symm h]

/-! ## A line that is kept -/

/-- From s to t the module's registers are the same, and a line at its home has the same bytes, and an error or none as before. -/
structure SameHome (line : Nat) (s t : State) : Prop where
  module : t.module = s.module
  bytes : lineBytes t line = lineBytes s line
  sound : t.bridge.poisoned.contains line = s.bridge.poisoned.contains line

namespace SameHome

variable {line : Nat} {s t u : State}

theorem refl (s : State) : SameHome line s s := ⟨rfl, rfl, rfl⟩

theorem trans (h : SameHome line s t) (k : SameHome line t u) : SameHome line s u :=
  ⟨k.module.trans h.module, k.bytes.trans h.bytes, k.sound.trans h.sound⟩

theorem of_eq (hmodule : t.module = s.module) (hmem : t.mem = s.mem) (hpoisoned : t.bridge.poisoned = s.bridge.poisoned) :
    SameHome line s t := ⟨hmodule, by rw [lineBytes, lineBytes, hmem], by rw [hpoisoned]⟩

end SameHome

/-- The home has the line as before, and so has cluster k. -/
structure KeepsLine (line k : Nat) (s t : State) : Prop extends SameHome line s t where
  copy : look (t.cluster k).lines line = look (s.cluster k).lines line

namespace KeepsLine

variable {line k : Nat} {s t u : State}

theorem refl (s : State) : KeepsLine line k s s := ⟨.refl s, rfl⟩

theorem trans (h : KeepsLine line k s t) (j : KeepsLine line k t u) : KeepsLine line k s u :=
  ⟨h.toSameHome.trans j.toSameHome, j.copy.trans h.copy⟩

theorem of_linesOnly (h : LinesOnly s t) (hbytes : lineBytes t line = lineBytes s line)
    (hsound : t.bridge.poisoned.contains line = s.bridge.poisoned.contains line) : KeepsLine line k s t :=
  ⟨⟨h.module, hbytes, hsound⟩, by rw [h.cluster]⟩

theorem setCore (c : Nat) (y : Core) : KeepsLine line k s (s.setCore c y) := ⟨.of_eq rfl rfl rfl, rfl⟩

theorem setCluster {j : Nat} {x : Cluster} (h : look x.lines line = look (s.cluster j).lines line) :
    KeepsLine line k s (s.setCluster j x) := by
  refine ⟨.of_eq rfl rfl rfl, ?_⟩
  by_cases hk : k = j
  · rw [hk, State.cluster_setCluster_same, h]
  · rw [State.cluster_setCluster_other _ _ hk]

theorem ite (c : Prop) [Decidable c] (ht : KeepsLine line k s t) (hu : KeepsLine line k s u) :
    KeepsLine line k s (if c then t else u) := by
  split
  · exact ht
  · exact hu

theorem foldl {α : Type} {f : State → α → State} (hf : ∀ s a, KeepsLine line k s (f s a)) (l : List α) (s : State) :
    KeepsLine line k s (l.foldl f s) := by
  induction l generalizing s with
  | nil => exact refl s
  | cons a l ih => exact (hf s a).trans (ih _)

end KeepsLine

section
variable {line k : Nat} (s : State)

theorem raiseClock_keepsLine (core c : Nat) : KeepsLine line k s (raiseClock s core c) := .setCore _ _
theorem raiseCluster_keepsLine (j c : Nat) : KeepsLine line k s (raiseCluster s j c) := .setCluster rfl
theorem askCluster_keepsLine (core : Nat) : KeepsLine line k s (askCluster s core) :=
  (raiseCluster_keepsLine ..).trans (raiseClock_keepsLine ..)
theorem ask_keepsLine (w : Who) : KeepsLine line k s (w.ask s) := .ite _ (askCluster_keepsLine s _) (.refl s)
theorem raise_keepsLine (w : Who) (c : Nat) : KeepsLine line k s (w.raise s c) :=
  .ite _ (raiseClock_keepsLine s _ _) (raiseCluster_keepsLine s _ _)

theorem setHome_keepsLine (other : Nat) (h : HomeLine) : KeepsLine line k s (setHome s other h) :=
  .of_linesOnly (setHome_linesOnly ..) (by rw [lineBytes, lineBytes, mem_of_storage (setHome_storage ..)])
    (by rw [setHome_poisoned])

theorem fetchLine_keepsLine (other : Nat) : KeepsLine line k s (fetchLine s other) :=
  .of_linesOnly (fetchLine_linesOnly ..) (by rw [lineBytes, lineBytes, mem_of_storage (fetchLine_storage ..)])
    (by rw [fetchLine_poisoned])

theorem takeLine_keepsLine (other : Nat) : KeepsLine line k s (takeLine s other) :=
  .of_linesOnly (takeLine_linesOnly ..) (by rw [lineBytes, lineBytes, mem_of_storage (takeLine_storage ..)])
    (by rw [takeLine_poisoned])

theorem setWatchers_keepsLine (place : Nat) (l : List Sleeper) : KeepsLine line k s (setWatchers s place l) := by
  unfold setWatchers
  exact .ite _ ⟨.of_eq rfl rfl rfl, rfl⟩ (.setCluster rfl)

theorem wakeWords_keepsLine (place : Nat) (keys : List Nat) (c : Nat) : KeepsLine line k s (wakeWords s place keys c) := by
  unfold wakeWords
  refine .ite _ (.refl s) ((setWatchers_keepsLine ..).trans (.foldl (fun s (w : Sleeper) => ?_) _ _))
  unfold endWaita
  exact .ite _ ⟨.of_eq rfl rfl rfl, rfl⟩ (.refl s)

theorem tellCluster_keepsLine (j other : Nat) (mask : Line) (fe feMask : BitVec 16) (c : Nat) :
    KeepsLine line k s (tellCluster s j other mask fe feMask c) :=
  (wakeWords_keepsLine ..).trans ⟨.of_eq rfl rfl rfl, rfl⟩

theorem setFe_keepsLine (place w : Nat) (full : Bool) : KeepsLine line k s (setFe s place w full) := by
  unfold setFe
  exact .ite _ (.refl s) ⟨.of_eq rfl rfl rfl, rfl⟩

theorem carryFe_keepsLine (other : Nat) (fe : BitVec 16) (bytes : BitVec 64) (feMask : BitVec 16) :
    KeepsLine line k s (carryFe s other fe bytes feMask) :=
  .foldl (fun s _ => setFe_keepsLine s _ _ _) _ s

theorem takePartials_keepsLine (other : Nat) (clusters : List Nat) : KeepsLine line k s (takePartials s other clusters) := by
  refine .foldl (fun s j => ?_) clusters s
  split
  · exact .setCluster rfl
  · exact .refl s

/-! ## Other lines go home (R67, R75) -/

variable {other : Nat} (hne : other ≠ line)
include hne

theorem poison_keepsLine : KeepsLine line k s (poison s other) :=
  .of_linesOnly (poison_linesOnly ..) (by rw [lineBytes, lineBytes, mem_of_storage (poison_storage ..)]) (poison_other s hne)

theorem mergeLine_bytes_other (ctx : Nat) (data mask : Line) :
    lineBytes (mergeLine s ctx other data mask) line = lineBytes s line := by
  unfold mergeLine
  dsimp only
  split
  · exact memRead_memWrite_apart _ _ _ hne
  · exact memRead_memWrite_apart _ _ _ hne

theorem homeMerge_keepsLine (ctx : Nat) (data mask : Line) (c : Nat) : KeepsLine line k s (homeMerge s ctx other data mask c).1 := by
  refine .of_linesOnly (homeMerge_linesOnly ..) ?_ (by rw [homeMerge_poisoned])
  calc lineBytes (homeMerge s ctx other data mask c).1 line
    _ = lineBytes (mergeLine (takeLine s other) ctx other data mask) line := by rw [lineBytes, lineBytes, homeMerge_mem]
    _ = lineBytes (takeLine s other) line := mergeLine_bytes_other _ hne ctx data mask
    _ = lineBytes s line := (takeLine_keepsLine (k := k) s other).bytes

theorem pushBytes_keepsLine (j ctx : Nat) (data : Line) (bytes : BitVec 64) (fe feMask : BitVec 16) :
    KeepsLine line k s (pushBytes s j ctx other data bytes fe feMask) :=
  .ite _ (.refl s) ((homeMerge_keepsLine s hne ..).trans ((carryFe_keepsLine ..).trans (raiseCluster_keepsLine ..)))

theorem pushLine_keepsLine (j : Nat) : KeepsLine line k s (pushLine s j other) := by
  unfold pushLine
  split
  · refine .ite _ (.trans ?_ ((pushBytes_keepsLine _ hne ..).trans (.setCluster ?_))) (.refl s)
    · exact .ite _ (poison_keepsLine s hne) (.refl s)
    · exact look_put_other _ _ (Ne.symm hne)
  · exact .refl s

theorem dropLine_keepsLine (j : Nat) : KeepsLine line k s (dropLine s j other) :=
  (pushLine_keepsLine s hne j).trans (.setCluster (look_del_other _ (Ne.symm hne)))

theorem combineLine_keepsLine (n ctx c : Nat) (clusters : List Nat) :
    KeepsLine line k s (combineLine s n ctx other c clusters) := by
  obtain ⟨u, hu, hcases⟩ := combineLine_cases s n ctx other c clusters
  have hsu : KeepsLine line k s (takePartials u other clusters) := by
    refine .trans ?_ (takePartials_keepsLine ..)
    rcases hu with rfl | rfl
    · exact .refl u
    · exact poison_keepsLine s hne
  rcases hcases with h | ⟨ctx', new, h⟩
  · exact h ▸ hsu
  · exact h ▸ hsu.trans (homeMerge_keepsLine _ hne ..)

end

/-! ## A full cluster cache (R58) -/

theorem look_ne_none_of_mem {α : Type} {m : AMap α} {p : Nat × α} (h : p ∈ m) : look m p.1 ≠ none := by
  induction m with
  | nil => exact absurd h List.not_mem_nil
  | cons q rest ih =>
    obtain ⟨j, u⟩ := q
    rw [look]
    split
    · exact Option.some_ne_none _
    · next hj =>
      rcases List.mem_cons.1 h with rfl | hrest
      · exact absurd rfl hj
      · exact ih hrest

/-- A partial that is given up leaves a line that no range has. -/
theorem dropPartial_keepsLine {s : State} {line : Nat} (hrange : inCrange s.module (64 * line) = none) (k j other : Nat) :
    KeepsLine line k s (dropPartial s j other) := by
  unfold dropPartial
  split
  · next n hn =>
    have hne : other ≠ line := fun h => by
      rw [h, hrange] at hn
      exact Option.some_ne_none n hn.symm
    exact (combineLine_keepsLine s hne ..).trans (raiseCluster_keepsLine ..)
  · exact .setCluster rfl

/-- A line that a cluster has no copy of, and no range, is not what its cache gives up. -/
theorem makeRoom_keepsLine {s : State} {line k : Nat} (hrange : inCrange s.module (64 * line) = none)
    (hnone : look (s.cluster k).lines line = none) : KeepsLine line k s (makeRoom s k) := by
  have hdrawn : KeepsLine line k s { s with drawn := s.drawn + 1 } := ⟨.of_eq rfl rfl rfl, rfl⟩
  unfold makeRoom
  dsimp only
  refine .ite _ (.refl s) (hdrawn.trans ?_)
  split
  · next v hv =>
    have hne : v.1 ≠ line := fun h => look_ne_none_of_mem (List.mem_of_getElem? hv) (h ▸ hnone)
    exact dropLine_keepsLine _ hne k
  · exact dropPartial_keepsLine (s := { s with drawn := s.drawn + 1 }) hrange ..
  · exact .setCluster rfl
  · exact .refl _

end Sys2Proof.Laws
end

section
/-!
PROOF of O60, its part about copies. What a cluster makes of a line (`seen`), and the reads that give it: grants, L1 fills, reads at
the home.
-/

namespace Sys2Proof.StoredBytes

open Machine Spec Laws

/-! ## A line as a cluster sees it -/

/-- A line's bytes at its home, with those that cluster k has written and not yet pushed. -/
def seen (s : State) (k line : Nat) : Line :=
  mergeBits (lineBytes s line) (lineAt s k line).data (expandMask (lineAt s k line).byteMask)

/-- A line that nothing but its home and its copies answers for: it has no error, and no range or CAR store has it. -/
structure ClearLine (s : State) (line : Nat) : Prop where
  sound : s.bridge.poisoned.contains line = false
  range : inCrange s.module (64 * line) = none
  car : inCar s.module (64 * line) = false

/-- Cluster k makes n bytes of the line from byte o those of v, and so does its copy, where it has one, which is sound and open. -/
structure Fresh (o n : Nat) (v : Line) (s : State) (k line : Nat) : Prop where
  seen : Carries o n v (seen s k line)
  copy : ∀ l, look (s.cluster k).lines line = some l → l.ctx = 0 ∧ l.bad = false ∧ Carries o n v l.data

section
variable {s t : State} {k line : Nat}

theorem clearLine_of_sameHome (h : SameHome line s t) (hc : ClearLine s line) : ClearLine t line :=
  ⟨h.sound.trans hc.sound, by rw [h.module]; exact hc.range, by rw [h.module]; exact hc.car⟩

theorem lineAt_of_some {l : ClusterLine} (h : look (s.cluster k).lines line = some l) : lineAt s k line = l := by
  rw [lineAt, lookD, h]
  rfl

theorem lineAt_of_none (h : look (s.cluster k).lines line = none) : lineAt s k line = { data := 0, fe := 0, wts := 0, rts := 0 } := by
  rw [lineAt, lookD, h]
  rfl

theorem lineAt_of_keepsLine (h : KeepsLine line k s t) : lineAt t k line = lineAt s k line := by
  rw [lineAt, lineAt, lookD, lookD, h.copy]

theorem seen_of_keepsLine (h : KeepsLine line k s t) : seen t k line = seen s k line := by
  rw [seen, seen, lineAt_of_keepsLine h, h.bytes]

theorem seen_of_none (h : look (s.cluster k).lines line = none) : seen s k line = lineBytes s line := by
  rw [seen, lineAt_of_none h]
  exact mergeBits_none _ _

/-- A clean copy has no byte to merge. -/
theorem byteMask_of_clean {l : ClusterLine} (h : l.dirty = false) : l.byteMask = 0 := by
  simp only [ClusterLine.dirty, Bool.or_eq_false_iff, bne_eq_false_iff_eq] at h
  exact h.1

/-- A cluster without a dirty copy sees the bytes of the home. -/
theorem seen_of_clean (h : ∀ l, look (s.cluster k).lines line = some l → l.dirty = false) : seen s k line = lineBytes s line := by
  cases hl : look (s.cluster k).lines line with
  | none => exact seen_of_none hl
  | some l =>
    rw [seen, lineAt_of_some hl, byteMask_of_clean (h l hl)]
    exact mergeBits_none _ _

theorem fresh_of_keepsLine {o n : Nat} {v : Line} (h : KeepsLine line k s t) (hf : Fresh o n v s k line) : Fresh o n v t k line :=
  ⟨by rw [seen_of_keepsLine h]; exact hf.seen, fun l hl => hf.copy l (h.copy ▸ hl)⟩

/-- A line whose copy is open stays in its cache. -/
theorem sameContext_open (h : ∀ l, look (s.cluster k).lines line = some l → l.ctx = 0) : sameContext s k 0 line = s := by
  unfold sameContext
  split
  · next l hl => rw [if_pos (h l hl)]
  · rfl

/-! ## Grants of the home (R61) -/

/-- A line enters its cluster's cache. -/
theorem enterLine_enters (hrange : inCrange s.module (64 * line) = none) (l : ClusterLine) :
    SameHome line s (enterLine s k line l) ∧ (enterLine s k line l).cores = s.cores ∧
      look ((enterLine s k line l).cluster k).lines line = some l := by
  have hroom : SameHome line s (if (look (s.cluster k).lines line).isNone then makeRoom s k else s) ∧
      (if (look (s.cluster k).lines line).isNone then makeRoom s k else s).cores = s.cores := by
    split
    · next hnone => exact ⟨(makeRoom_keepsLine hrange (Option.isNone_iff_eq_none.1 hnone)).toSameHome, (makeRoom_calm s k).cores⟩
    · exact ⟨.refl s, rfl⟩
  unfold enterLine
  dsimp only
  exact ⟨hroom.1.trans (.of_eq rfl rfl rfl), hroom.2, by rw [State.cluster_setCluster_same, look_put_same]⟩

theorem readBar_clear (h : ClearLine s line) : readBar s 0 line = none := by
  rw [readBar, h.sound]
  rfl

/-- A grant gives the cluster a copy of what it sees. A copy that it had keeps its context and its written bytes, and is bad only
where it was bad and dirty. -/
theorem grantHome_grants (h : ClearLine s line) (c : Nat) (cover : BitVec 64) :
    ∃ u l, grantHome s k 0 line c cover = .ok u ∧ SameHome line s u ∧ u.cores = s.cores ∧
      look (u.cluster k).lines line = some l ∧ l.data = seen s k line ∧ l.byteMask = (lineAt s k line).byteMask ∧
      l.ctx = (lineAt s k line).ctx ∧ l.bad = ((lineAt s k line).bad && (lineAt s k line).dirty) := by
  unfold grantHome
  dsimp only
  rw [readBar_clear h, ite_self]
  dsimp only
  generalize hu : setHome (fetchLine s line) line _ = u
  have hkeeps : KeepsLine line k s u := hu ▸ (fetchLine_keepsLine s line).trans (setHome_keepsLine ..)
  have hcores : u.cores = s.cores := hu ▸ ((fetchLine_linesOnly s line).trans (setHome_linesOnly ..)).cores
  have hclear := clearLine_of_sameHome hkeeps.toSameHome h
  have hbytes : (homeBytes u 0 line).getD 0 = lineBytes s line := hkeeps.bytes
  rw [hbytes]
  cases hl : look (s.cluster k).lines line with
  | none =>
    obtain ⟨hhome, henter, hlook⟩ := enterLine_enters (k := k) hclear.range
      { data := lineBytes s line, fe := feLine u.empty line, wts := (homeTimes (fetchLine s line) line).wts,
        rts := max (c + (s.cluster k).lease.toNat) (homeTimes (fetchLine s line) line).wts, granted := (s.cluster k).leaseFloor, ctx := 0 }
    refine ⟨_, _, rfl, hkeeps.toSameHome.trans hhome, henter.trans hcores, hlook, (seen_of_none hl).symm, ?_⟩
    rw [lineAt_of_none hl]
    exact ⟨rfl, rfl, rfl⟩
  | some l =>
    obtain ⟨hhome, henter, hlook⟩ := enterLine_enters (k := k) hclear.range
      { l with data := mergeBits (lineBytes s line) l.data (expandMask l.byteMask),
               fe := (feLine u.empty line &&& ~~~l.feMask) ||| (l.fe &&& l.feMask), wts := (homeTimes (fetchLine s line) line).wts,
               rts := max (c + (s.cluster k).lease.toNat) (homeTimes (fetchLine s line) line).wts, part := none, bad := l.bad && l.dirty }
    refine ⟨_, _, rfl, hkeeps.toSameHome.trans hhome, henter.trans hcores, hlook, ?_⟩
    rw [seen, lineAt_of_some hl]
    exact ⟨rfl, rfl, rfl, rfl⟩

end

section
variable {o n : Nat} {v : Line} {s : State} {k line : Nat} (hclear : ClearLine s line)
include hclear

/-- A grant of a line whose bytes the cluster sees right leaves its copy right. -/
theorem grantHome_fresh (hseen : Carries o n v (seen s k line))
    (hcopy : ∀ l, look (s.cluster k).lines line = some l → l.ctx = 0 ∧ (l.bad && l.dirty) = false) (c : Nat) (cover : BitVec 64) :
    ∃ u, grantHome s k 0 line c cover = .ok u ∧ SameHome line s u ∧ Fresh o n v u k line ∧ Carries o n v (lineAt u k line).data := by
  obtain ⟨u, l, hu, hhome, _, hl, hdata, hmask, hctx, hbad⟩ := grantHome_grants (k := k) hclear c cover
  have hbefore : (lineAt s k line).ctx = 0 ∧ ((lineAt s k line).bad && (lineAt s k line).dirty) = false := by
    cases hold : look (s.cluster k).lines line with
    | none => rw [lineAt_of_none hold]; exact ⟨rfl, rfl⟩
    | some m => rw [lineAt_of_some hold]; exact hcopy m hold
  have hafter : seen u k line = seen s k line := by
    rw [seen, lineAt_of_some hl, hdata, hmask, hhome.bytes]
    exact mergeBits_again _ _ _
  refine ⟨u, hu, hhome, ⟨by rw [hafter]; exact hseen, fun m hm => ?_⟩, by rw [lineAt_of_some hl, hdata]; exact hseen⟩
  obtain rfl := Option.some.inj (hl.symm.trans hm)
  exact ⟨hctx.trans hbefore.1, hbad.trans hbefore.2, by rw [hdata]; exact hseen⟩

/-! ## Reads of copies (R61) -/

/-- A read of the cluster's copy gives the bytes. -/
theorem clusterRead_gives (hf : Fresh o n v s k line) (c : Nat) (need : BitVec 64) :
    ∃ u l, clusterRead s k 0 line c need = .ok (u, l) ∧ Carries o n v l.data := by
  have hkeeps : KeepsLine line k s (raiseCluster s k c) := raiseCluster_keepsLine ..
  have hf' := fresh_of_keepsLine hkeeps hf
  have hgood : clusterBad (raiseCluster s k c) k line c need = false := by
    unfold clusterBad
    cases hl : look ((raiseCluster s k c).cluster k).lines line with
    | none => rfl
    | some l => simp [(hf'.copy l hl).2.1]
  unfold clusterRead
  rw [sameContext_open fun l hl => (hf.copy l hl).1]
  dsimp only
  rw [hgood]
  generalize raiseCluster s k c = t at hkeeps hf'
  obtain ⟨u, hu, _, _, hdata⟩ := grantHome_fresh (clearLine_of_sameHome hkeeps.toSameHome hclear) hf'.seen
    (fun l hl => ⟨(hf'.copy l hl).1, by rw [(hf'.copy l hl).2.1]; rfl⟩) c 0
  cases hl : look (t.cluster k).lines line with
  | none => exact ⟨u, _, by simp only [hu]; rfl, hdata⟩
  | some l =>
    by_cases hserves : l.serves c need = true
    · exact ⟨t, l, by simp only [hserves]; rfl, (hf'.copy l hl).2.2⟩
    · exact ⟨u, _, by simp only [hserves, hu]; rfl, hdata⟩

end

section
variable {o n : Nat} {v : Line} {s : State} {core line : Nat} (hclear : ClearLine s line) (hf : Fresh o n v s (clusterOf core) line)
include hclear hf

/-- A copy that a core asks of its cluster has the bytes. -/
theorem l1Fill_gives (need : BitVec 64) : ∃ u m, l1Fill s core 0 line need = .ok (u, m) ∧ Carries o n v m.data := by
  obtain ⟨u, l, hu, hl⟩ := clusterRead_gives hclear hf (s.core core).clock need
  unfold l1Fill
  dsimp only
  rw [hu]
  exact ⟨_, _, rfl, hl⟩

/-- A load gives the bytes where the core's own copy, if its lease has not passed, has them. -/
theorem l1Read_gives (need : BitVec 64)
    (hl1 : ∀ m, look (s.core core).l1 line = some m → (s.core core).clock ≤ leaseEnd m.rts m.part need → m.ctx = 0 →
      m.bad = false ∧ Carries o n v m.data) :
    ∃ u m, l1Read s core 0 line need = .ok (u, m) ∧ Carries o n v m.data := by
  unfold l1Read
  dsimp only
  split
  · next m hm =>
    split
    · next h =>
      obtain ⟨hgood, hdata⟩ := hl1 m hm h.1 h.2
      rw [hgood]
      exact ⟨s, m, rfl, hdata⟩
    · exact l1Fill_gives hclear hf need
  · exact l1Fill_gives hclear hf need

end

/-! ## Reads at the home (R66) -/

section
variable {s : State} {k line : Nat}

/-- A clean copy has nothing to push. -/
theorem pushLine_clean {l : ClusterLine} (hl : look (s.cluster k).lines line = some l) (hclean : l.dirty = false) :
    pushLine s k line = s := by
  rw [pushLine, hl]
  exact if_neg (by simp [hclean])

/-- A push of a dirty copy changes the line and its copy alone. -/
theorem pushLine_dirty {l : ClusterLine} (hl : look (s.cluster k).lines line = some l) (hdirty : l.dirty = true) (hbad : l.bad = false) :
    ∃ u : State, pushLine s k line = u.setCluster k { u.cluster k with
        lines := put (u.cluster k).lines line { l with byteMask := 0, coreMask := 0, feMask := 0 } } ∧
      u.module = s.module ∧ u.cores = s.cores ∧ u.bridge.poisoned = s.bridge.poisoned := by
  refine ⟨pushBytes s k l.ctx line l.data l.byteMask l.fe l.feMask, ?_, ?_⟩
  · rw [pushLine, hl]
    dsimp only
    rw [if_pos hdirty, hbad, if_neg Bool.false_ne_true]
  · unfold pushBytes
    split
    · exact ⟨rfl, rfl, rfl⟩
    · have hlines := (homeMerge_linesOnly s l.ctx line l.data (expandMask l.byteMask) (s.cluster k).clock).trans
        (carryFe_linesOnly _ line l.fe l.byteMask l.feMask)
      exact ⟨hlines.module, hlines.cores, (carryFe_poisoned ..).trans (homeMerge_poisoned ..)⟩

/-- A push brings home what the cluster sees, and leaves its copy clean. -/
theorem pushLine_brings (hclear : ClearLine s line)
    (hcopy : ∀ l, look (s.cluster k).lines line = some l → l.ctx = 0 ∧ (l.bad = false ∨ l.dirty = false)) :
    ClearLine (pushLine s k line) line ∧ (pushLine s k line).cores = s.cores ∧ lineBytes (pushLine s k line) line = seen s k line ∧
      ∀ l, look ((pushLine s k line).cluster k).lines line = some l → l.ctx = 0 ∧ l.dirty = false := by
  cases hl : look (s.cluster k).lines line with
  | none =>
    have heq : pushLine s k line = s := by rw [pushLine, hl]
    rw [heq]
    exact ⟨hclear, rfl, (seen_of_none hl).symm, fun l h => absurd (hl.symm.trans h) nofun⟩
  | some l =>
    obtain ⟨hctx, hsound⟩ := hcopy l hl
    cases hdirty : l.dirty with
    | false =>
      rw [pushLine_clean hl hdirty]
      refine ⟨hclear, rfl, (seen_of_clean fun m hm => ?_).symm, fun m hm => ?_⟩
      · obtain rfl := Option.some.inj (hl.symm.trans hm)
        exact hdirty
      · obtain rfl := Option.some.inj (hl.symm.trans hm)
        exact ⟨hctx, hdirty⟩
    | true =>
      have hbad : l.bad = false := hsound.resolve_right (by simp [hdirty])
      have hmem := TranslationEvents.pushLine_mem hl hctx (by rw [hclear.car, Bool.and_false])
      obtain ⟨u, heq, hmodule, hcores, hpoisoned⟩ := pushLine_dirty hl hdirty hbad
      rw [hdirty, if_pos rfl] at hmem
      refine ⟨⟨?_, ?_, ?_⟩, ?_, ?_, fun m hm => ?_⟩
      · rw [heq, State.setCluster_bridge, hpoisoned, hclear.sound]
      · rw [heq, State.setCluster_module, hmodule, hclear.range]
      · rw [heq, State.setCluster_module, hmodule, hclear.car]
      · rw [heq, ← hcores]
        rfl
      · rw [lineBytes, hmem, memRead_memWrite, seen, lineAt_of_some hl, lineBytes]
      · rw [heq, State.cluster_setCluster_same, look_put_same] at hm
        obtain rfl := Option.some.inj hm
        exact ⟨hctx, rfl⟩

/-- A copy of another context leaves the cache before a read of the line, which the cluster sees as before. -/
theorem sameContext_leaves (hclear : ClearLine s line)
    (hcopy : ∀ l, look (s.cluster k).lines line = some l → (l.ctx = 0 ∧ l.bad = false) ∨ l.dirty = false) :
    ClearLine (sameContext s k 0 line) line ∧ seen (sameContext s k 0 line) k line = seen s k line ∧
      ∀ l, look ((sameContext s k 0 line).cluster k).lines line = some l → l.ctx = 0 ∧ (l.bad = false ∨ l.dirty = false) := by
  cases hl : look (s.cluster k).lines line with
  | none =>
    rw [sameContext_open fun l h => absurd (hl.symm.trans h) nofun]
    exact ⟨hclear, rfl, fun l h => absurd (hl.symm.trans h) nofun⟩
  | some l =>
    by_cases hctx : l.ctx = 0
    · rw [sameContext_open fun m hm => Option.some.inj (hl.symm.trans hm) ▸ hctx]
      refine ⟨hclear, rfl, fun m hm => ?_⟩
      obtain rfl := Option.some.inj (hl.symm.trans hm)
      exact ⟨hctx, (hcopy l hl).imp_left And.right⟩
    · have hclean : l.dirty = false := (hcopy l hl).resolve_left fun h => hctx h.1
      have hdrop : sameContext s k 0 line = dropLine s k line := by
        rw [sameContext, hl]
        exact if_neg hctx
      have hnone := TranslationEvents.dropLine_lines s k line
      have hhome : SameHome line s (dropLine s k line) := by
        rw [dropLine, pushLine_clean hl hclean]
        exact .of_eq rfl rfl rfl
      rw [hdrop]
      refine ⟨clearLine_of_sameHome hhome hclear, ?_, fun m hm => absurd (hnone.symm.trans hm) nofun⟩
      rw [seen_of_none hnone, hhome.bytes, seen_of_clean fun m hm => Option.some.inj (hl.symm.trans hm) ▸ hclean]

end

/-- A read at the home gives the bytes that the cluster sees. -/
theorem homeRead_gives {o n : Nat} {v : Line} {s : State} {w : Who} {line : Nat} (hown : w.own = true) (hctx : w.ctx = 0)
    (hw : w.cluster = clusterOf w.core) (hclear : ClearLine s line) (hseen : Carries o n v (seen s w.cluster line))
    (hcopy : ∀ l, look (s.cluster w.cluster).lines line = some l → (l.ctx = 0 ∧ l.bad = false) ∨ l.dirty = false) :
    ∃ u l, homeRead s w line = .ok (u, l) ∧ Carries o n v l := by
  have hask : KeepsLine line w.cluster s (w.ask s) := ask_keepsLine s w
  obtain ⟨hclear, hsame, hcopy⟩ := sameContext_leaves (clearLine_of_sameHome hask.toSameHome hclear)
    (fun l hl => hcopy l (hask.copy ▸ hl))
  obtain ⟨hclear, _, hbytes, hcopy⟩ := pushLine_brings hclear hcopy
  rw [hsame, seen_of_keepsLine hask] at hbytes
  unfold homeRead
  dsimp only
  rw [hctx]
  generalize pushLine (sameContext (w.ask s) w.cluster 0 line) w.cluster line = t at hclear hbytes hcopy
  have hseen' : Carries o n v (seen t w.cluster line) := by
    rw [seen_of_clean fun l hl => (hcopy l hl).2, hbytes]
    exact hseen
  obtain ⟨u, hu, hhome, hfresh, _⟩ := grantHome_fresh hclear hseen' (fun l hl => ⟨(hcopy l hl).1, by rw [(hcopy l hl).2, Bool.and_false]⟩)
    (w.clock t) 0
  have hline : (homeBytes u 0 line).getD 0 = seen s w.cluster line := hhome.bytes.trans hbytes
  have hkeeps : KeepsLine line w.cluster u (l1Drop (w.raise u (homeTimes u line).wts) w.core line) :=
    (raise_keepsLine ..).trans (.setCore _ _)
  obtain ⟨x, m, hx, _⟩ := l1Fill_gives (clearLine_of_sameHome (hhome.trans hkeeps.toSameHome) hclear)
    (hw ▸ fresh_of_keepsLine hkeeps hfresh) (BitVec.allOnes 64)
  refine ⟨x, _, ?_, hseen⟩
  simp only [hu, bind, Except.bind, hown, if_true, hline, hx]

end Sys2Proof.StoredBytes
end

section
/-!
PROOF of O60, its part about loads. An access that is translated changes TLBs alone (`resolve_tlbsOnly`), and so a load reads what
its place gives (`loadsThere_reads`).
-/

namespace Sys2Proof.StoredBytes

open Machine Spec Laws

/-! ## Translation (R14, R18) -/

/-- A core and a cluster but for their TLBs, and a core but for the absences it has noted. -/
def coreBeside (y : Core) : Core := { y with tlb := [], absent := [] }
def clusterBeside (x : Cluster) : Cluster := { x with tlb := [] }

/-- From s to t no more has changed than TLBs, and the absences of pages that cores have noted. -/
structure TlbsOnly (s t : State) : Prop where
  core : ∀ c, coreBeside (t.core c) = coreBeside (s.core c)
  cluster : ∀ k, clusterBeside (t.cluster k) = clusterBeside (s.cluster k)
  mem : t.mem = s.mem
  module : t.module = s.module
  poisoned : t.bridge.poisoned = s.bridge.poisoned

namespace TlbsOnly

variable {s t u : State}

theorem refl (s : State) : TlbsOnly s s := ⟨fun _ => rfl, fun _ => rfl, rfl, rfl, rfl⟩

theorem trans (h : TlbsOnly s t) (k : TlbsOnly t u) : TlbsOnly s u :=
  ⟨fun c => (k.core c).trans (h.core c), fun j => (k.cluster j).trans (h.cluster j), k.mem.trans h.mem, k.module.trans h.module,
    k.poisoned.trans h.poisoned⟩

theorem setCore {c : Nat} {y : Core} (h : coreBeside y = coreBeside (s.core c)) : TlbsOnly s (s.setCore c y) := by
  refine ⟨fun d => ?_, fun _ => rfl, rfl, rfl, rfl⟩
  by_cases hd : d = c
  · rw [hd, State.core_setCore_same, h]
  · rw [State.core_setCore_other _ _ hd]

theorem setCluster {k : Nat} {x : Cluster} (h : clusterBeside x = clusterBeside (s.cluster k)) : TlbsOnly s (s.setCluster k x) := by
  refine ⟨fun _ => rfl, fun j => ?_, rfl, rfl, rfl⟩
  by_cases hj : j = k
  · rw [hj, State.cluster_setCluster_same, h]
  · rw [State.cluster_setCluster_other _ _ hj]

end TlbsOnly

section
variable {s t : State}

theorem outerFind_tlbsOnly {k : Nat} {pasid : BitVec 20} {va : DWord} {e : Option TlbEntry} (h : outerFind s k pasid va = (t, e)) :
    TlbsOnly s t := by
  have hbridge (l : List TlbEntry) : TlbsOnly s { s with bridge := { s.bridge with tlb := l } } :=
    ⟨fun _ => rfl, fun _ => rfl, rfl, rfl, rfl⟩
  unfold outerFind at h
  split at h
  · obtain ⟨rfl, _⟩ := Prod.mk.inj h
    exact .setCluster rfl
  · split at h
    · obtain ⟨rfl, _⟩ := Prod.mk.inj h
      exact .refl s
    · split at h
      · obtain ⟨rfl, _⟩ := Prod.mk.inj h
        exact (hbridge _).trans (.setCluster rfl)
      · obtain ⟨rfl, _⟩ := Prod.mk.inj h
        exact .refl s

theorem tlbWalk_tlbsOnly {w : Who} {va : DWord} {e : TlbEntry} (h : tlbWalk s w va = (t, some e)) : TlbsOnly s t := by
  unfold tlbWalk at h
  dsimp only at h
  split at h
  · split at h
    · obtain ⟨rfl, _⟩ := Prod.mk.inj h
      exact .setCore rfl
    · split at h
      · exact absurd (Prod.mk.inj h).2 nofun
      · split at h
        · next u _ hu =>
          obtain ⟨rfl, _⟩ := Prod.mk.inj h
          exact (outerFind_tlbsOnly hu).trans (.setCore rfl)
        · exact absurd (Prod.mk.inj h).2 nofun
  · split at h
    · next hu =>
      obtain ⟨rfl, _⟩ := Prod.mk.inj h
      exact outerFind_tlbsOnly hu
    · exact absurd (Prod.mk.inj h).2 nofun

theorem clearNote_tlbsOnly (s : State) (core : Nat) (key : Waiter × BitVec 20 × Nat) : TlbsOnly s (clearNote s core key) := by
  unfold clearNote
  dsimp only
  split
  · exact .setCore rfl
  · exact .refl s

/-- A translation with an error is lost, and the access with it. -/
theorem badEntry_ne_ok {α : Type} (s : State) (w : Who) (k : Right) (va : DWord) (e : TlbEntry) (x : α) : badEntry s w k va e ≠ .ok x := by
  unfold badEntry
  dsimp only
  split <;> split <;> exact nofun

theorem translate_tlbsOnly {w : Who} {k : Right} {va : DWord} {pa : Nat} (h : Machine.translate s w k va = .ok (t, pa)) : TlbsOnly s t := by
  unfold Machine.translate at h
  dsimp only at h
  split at h
  · exact absurd h nofun
  · split at h
    · split at h
      · split at h
        · exact absurd h nofun
        · split at h <;> exact absurd h nofun
      · exact absurd h nofun
    · next u e hu =>
      split at h
      · exact absurd h (badEntry_ne_ok _ _ _ _ _ _)
      · split at h
        · exact absurd h nofun
        · split at h
          · exact absurd h nofun
          · obtain ⟨rfl, _⟩ := Prod.mk.inj (Except.ok.inj h)
            exact (tlbWalk_tlbsOnly hu).trans (clearNote_tlbsOnly ..)

theorem classify_same {va : DWord} {pa : Nat} {p : Place} (h : Machine.classify s va pa = .ok (t, p)) : t = s := by
  unfold Machine.classify at h
  dsimp only at h
  split at h
  · split at h
    · exact absurd h nofun
    · exact (Prod.mk.inj (Except.ok.inj h)).1.symm
  · split at h
    · split at h
      · exact absurd h nofun
      · split at h
        · exact absurd h nofun
        · exact (Prod.mk.inj (Except.ok.inj h)).1.symm
    · split at h
      · exact (Prod.mk.inj (Except.ok.inj h)).1.symm
      · split at h
        · exact absurd h nofun
        · exact (Prod.mk.inj (Except.ok.inj h)).1.symm

/-- An access that finds its place changes TLBs alone. -/
theorem resolve_tlbsOnly {w : Who} {k : Right} {va : DWord} {p : Place} (h : resolve s w k va = .ok (t, p)) : TlbsOnly s t := by
  unfold resolve at h
  dsimp only at h
  split at h
  · split at h
    · obtain ⟨rfl, _⟩ := Prod.mk.inj (Except.ok.inj h)
      exact .refl s
    · exact absurd h nofun
  · split at h
    · split at h
      · obtain ⟨rfl, _⟩ := Prod.mk.inj (Except.ok.inj h)
        exact .refl s
      · exact absurd h nofun
    · split at h
      · cases htr : Machine.translate s w k va with
        | error b => rw [htr] at h; exact absurd h nofun
        | ok x =>
          rw [htr] at h
          rw [classify_same h]
          exact translate_tlbsOnly htr
      · exact absurd h nofun

/-- Loads that are performed change threads alone. -/
theorem settleWhere_tlbsOnly (s : State) (core : Nat) (test : Late → Bool) : TlbsOnly s (settleWhere s core test) := by
  have hmodule : (settleWhere s core test).module = s.module := by
    unfold settleWhere
    generalize List.range 8 = l
    induction l generalizing s with
    | nil => rfl
    | cons i l ih =>
      refine (ih _).trans ?_
      dsimp only
      split <;> rfl
  have hcalm := settleWhere_calm s core test
  obtain ⟨_, hbridge⟩ := settleWhere_elsewhere s core test
  exact ⟨fun c => by rw [hcalm.core], fun k => by rw [settleWhere_cluster], mem_of_storage (settleWhere_storage ..), hmodule,
    by rw [hbridge]⟩

section
variable (h : TlbsOnly s t)
include h

theorem keepsLine_of_tlbsOnly (line k : Nat) : KeepsLine line k s t :=
  ⟨.of_eq h.module h.mem h.poisoned, congrArg (fun l => look l line) (congrArg Cluster.lines (h.cluster k) :)⟩

theorem stashBank_of_tlbsOnly (w : Who) (va : DWord) : stashBank t w va = stashBank s w va := by
  have hbanks : (t.core w.core).bstash = (s.core w.core).bstash := (congrArg Core.bstash (h.core w.core) :)
  rw [stashBank, stashBank, hbanks]

theorem l1_of_tlbsOnly (c : Nat) : (t.core c).l1 = (s.core c).l1 := (congrArg Core.l1 (h.core c) :)
theorem clock_of_tlbsOnly (c : Nat) : (t.core c).clock = (s.core c).clock := (congrArg Core.clock (h.core c) :)

end
end

/-! ## Loads (R222) -/

/-- A place in the memory of this module or of the host, outside the commutative ranges. -/
def InMemory (m : Module) (p : Place) : Prop := (∃ pa, p = .own pa ∨ p = .host pa) ∧ inCrange m p.key = none

theorem rangeAt_inMemory {s : State} {p : Place} (h : InMemory s.module p) : rangeAt s p = none := by
  obtain ⟨⟨pa, rfl | rfl⟩, hrange⟩ := h
  · exact hrange
  · rfl

section
variable {t : State} {w : Who} {va : DWord} {p : Place} {n : Nat} (h : LoadsThere t w va p n) (hp : InMemory t.module p)
include h hp

/-- A load reads at its place, in a state that differs from that of its issue in TLBs alone. -/
theorem loadsThere_reads : ∃ u, TlbsOnly t u ∧
    (∀ {scope : Nat} {x m}, scope ≤ 2 → l1Read u w.core 0 p.line (needOf p.byte n) = .ok (x, m) →
      loadBytes t w va n scope = .ok (x, fromByte m.data p.byte &&& byteMask n)) ∧
    ∀ {scope : Nat} {x l}, 3 ≤ scope → homeRead u w p.line = .ok (x, l) →
      loadBytes t w va n scope = .ok (x, fromByte l p.byte &&& byteMask n) := by
  obtain ⟨hown, hctx, _, _, hstash, t1, hres, hfor⟩ := h
  have hsame : TlbsOnly t (settleLoads t1 w.core p.line) := (resolve_tlbsOnly hres).trans (settleWhere_tlbsOnly ..)
  have hstash' : stashBank (settleLoads t1 w.core p.line) w va = none := (stashBank_of_tlbsOnly hsame w va).trans hstash
  have hrange : rangeAt (settleLoads t1 w.core p.line) p = none := rangeAt_inMemory (by rw [hsame.module]; exact hp)
  obtain ⟨⟨pa, hpa⟩, _⟩ := hp
  refine ⟨_, hsame, fun {_ _ _} hscope hread => ?_, fun {scope _ _} hscope hread => ?_⟩
  · have hnear : readNear (settleLoads t1 w.core p.line) w va p n = (do
        let (s, l) ← ofCause (settleLoads t1 w.core p.line) va (l1Read (settleLoads t1 w.core p.line) w.core w.ctx p.line (needOf p.byte n))
        return (s, fromByte l.data p.byte)) := by
      rcases hpa with rfl | rfl <;> simp only [readNear, hrange, hstash', hown, if_true]
    unfold loadBytes
    rw [hres]
    simp only [bind, Except.bind, hfor, if_pos hscope, hnear, hctx, hread, ofCause]
    rfl
  · have hfar : readFar (settleLoads t1 w.core p.line) w va p = (do
        let (s, l) ← ofCause (settleLoads t1 w.core p.line) va (homeRead (settleLoads t1 w.core p.line) w p.line)
        return (s, fromByte l p.byte)) := by
      rcases hpa with rfl | rfl <;> simp only [readFar, hrange, hstash', Option.isSome_none, Bool.false_eq_true, if_false]
    unfold loadBytes
    rw [hres]
    simp only [bind, Except.bind, hfor, if_neg (show ¬ scope ≤ 2 by omega), hfar, hread, ofCause]
    rfl

end

end Sys2Proof.StoredBytes
end

section
/-!
PROOF of O60, its part about stores: what one leaves (`Stored`), and that of scope up to `.L`, whose bytes stand in the cluster's copy
(`clusterWrite_stores`).
-/

namespace Sys2Proof.StoredBytes

open Machine Spec Laws

/-! ## What a store leaves (R60, R62, R66) -/

/-- A core and its cluster make n bytes of a sound line from byte o those of v. -/
structure Stands (o n : Nat) (v : Line) (core line : Nat) (t : State) : Prop where
  clear : ClearLine t line
  fresh : Fresh o n v t (clusterOf core) line
  own : ∀ m, look (t.core core).l1 line = some m → m.bad = false ∧ Carries o n v m.data

/-- From s to t those bytes have come to stand there, and the core's store buffer is as it was. -/
structure Stored (o n : Nat) (v : Line) (core line : Nat) (s t : State) : Prop extends Stands o n v core line t where
  buffer : (t.core core).buffer = (s.core core).buffer

/-- The copy of a core, where it has one, becomes what it is given. -/
theorem l1Merge_core (s : State) (core ctx line : Nat) (data : Line) (fe : BitVec 16) (wts : Nat) (part : Option (Nat × BitVec 64)) :
    ((l1Merge s core ctx line data fe wts part).core core).buffer = (s.core core).buffer ∧
      ∀ m, look ((l1Merge s core ctx line data fe wts part).core core).l1 line = some m → m.bad = false ∧ m.data = data := by
  unfold l1Merge
  dsimp only
  split
  · rw [State.core_setCore_same]
    refine ⟨rfl, fun m hm => ?_⟩
    rw [look_put_same] at hm
    obtain rfl := Option.some.inj hm
    exact ⟨rfl, rfl⟩
  · next hnone => exact ⟨rfl, fun m hm => absurd (Option.isSome_of_eq_some hm) hnone⟩

theorem l1Merge_keepsLine {line k : Nat} (s : State) (core ctx other : Nat) (data : Line) (fe : BitVec 16) (wts : Nat)
    (part : Option (Nat × BitVec 64)) : KeepsLine line k s (l1Merge s core ctx other data fe wts part) :=
  .ite _ (.setCore _ _) (.refl s)

theorem raiseClock_buffer (s : State) (core c j : Nat) : ((raiseClock s core c).core j).buffer = (s.core j).buffer := by
  unfold raiseClock
  by_cases h : j = core
  · rw [h, State.core_setCore_same]
  · rw [State.core_setCore_other _ _ h]

theorem raise_buffer (s : State) (w : Who) (c j : Nat) : ((w.raise s c).core j).buffer = (s.core j).buffer := by
  unfold Who.raise
  split
  · exact raiseClock_buffer ..
  · rfl

theorem ask_buffer (s : State) (w : Who) (j : Nat) : ((w.ask s).core j).buffer = (s.core j).buffer := by
  unfold Who.ask
  split
  · exact raiseClock_buffer ..
  · rfl

theorem tellCluster_cores (s : State) (k line : Nat) (mask : Line) (fe feMask : BitVec 16) (c : Nat) :
    (tellCluster s k line mask fe feMask c).cores = s.cores := (wakeWords_calm s (k + 1) _ c).cores

/-! ## In the cluster's copy (R62) -/

/-- A cluster's copy after a write of a core with clock c. -/
def copyWritten (l : ClusterLine) (core c : Nat) (data mask : Line) (fe feMask : BitVec 16) : ClusterLine :=
  let wts := max (max l.wts l.granted) c + 1
  { l.written core data mask fe feMask with
    wts := wts, rts := max l.rts wts, granted := wts, since := if l.dirty then l.since else wts,
    part := if l.part.isNone && decide (wts ≤ l.rts) then none
      else some ((l.part.map (·.1)).getD l.rts, l.byteMask ||| bytesOf mask) }

/-- A state whose cluster has a copy of a line, once the copy has been written. -/
def lineWritten (s : State) (w : Who) (line c : Nat) (data mask : Line) (fe feMask : BitVec 16) : State :=
  let l := copyWritten (lineAt s w.cluster line) w.core c data mask fe feMask
  let s := s.setCluster w.cluster { s.cluster w.cluster with lines := put (s.cluster w.cluster).lines line l }
  let s := w.raise s (max (s.cluster w.cluster).clock l.wts)
  tellCluster (if !w.own then s else if l.bad then l1Drop s w.core line else l1Merge s w.core w.ctx line l.data l.fe l.wts l.part)
    w.cluster line mask fe feMask l.wts

/-- A write in a cluster finds a copy or fetches one, and then writes it. -/
theorem clusterWrite_eq (s : State) (w : Who) (line : Nat) (data mask : Line) (fe feMask : BitVec 16) :
    clusterWrite s w line data mask fe feMask =
      ((fun u : State => if (look (u.cluster w.cluster).lines line).isSome then .ok u
        else grantHome u w.cluster w.ctx line (w.clock s) (bytesOf mask))
          (raiseCluster (sameContext s w.cluster w.ctx line) w.cluster (w.clock s)) >>=
        fun t => .ok (lineWritten t w line (w.clock s) data mask fe feMask)) := by
  unfold clusterWrite
  dsimp only
  split <;> rfl

section
variable {o n : Nat} {v : Line} (hfit : o + n ≤ 64) {s : State} {w : Who} (hown : w.own = true) (hctx : w.ctx = 0)
  (hw : w.cluster = clusterOf w.core) {line : Nat} (hclear : ClearLine s line)

section
include hfit hown hctx hw hclear

/-- A copy that has been written carries the bytes, for its cluster and for the core. -/
theorem lineWritten_stores {l : ClusterLine} (hl : look (s.cluster w.cluster).lines line = some l) (hlctx : l.ctx = 0)
    (hbad : l.bad = false) (c : Nat) :
    Stored o n v w.core line s (lineWritten s w line c (toByte v o) (toByte (byteMask n) o) 0 0) ∧
      ∃ l, look ((lineWritten s w line c (toByte v o) (toByte (byteMask n) o) 0 0).cluster w.cluster).lines line = some l ∧
        Carries o n v l.data ∧ ∀ j < n, l.byteMask.getLsbD (o + j) = true := by
  have hdata : Carries o n v (copyWritten l w.core c (toByte v o) (toByte (byteMask n) o) 0 0).data := carries_write hfit l.data
  have hmask : ∀ j < n, (copyWritten l w.core c (toByte v o) (toByte (byteMask n) o) 0 0).byteMask.getLsbD (o + j) = true := fun j hj => by
    have hbytes := bytesOf_write hfit hj
    simp only [copyWritten, ClusterLine.written, BitVec.getLsbD_or, hbytes, Bool.or_true]
  have hlctx' : (copyWritten l w.core c (toByte v o) (toByte (byteMask n) o) 0 0).ctx = 0 := hlctx
  have hbad' : (copyWritten l w.core c (toByte v o) (toByte (byteMask n) o) 0 0).bad = false := hbad
  unfold lineWritten
  rw [lineAt_of_some hl]
  generalize copyWritten l w.core c (toByte v o) (toByte (byteMask n) o) 0 0 = m at hdata hmask hlctx' hbad'
  dsimp only
  rw [hown, hctx, hbad', Bool.not_true, if_neg Bool.false_ne_true, if_neg Bool.false_ne_true]
  generalize hput : s.setCluster w.cluster _ = x
  generalize hr : w.raise x _ = r
  have hlook : look (x.cluster w.cluster).lines line = some m := by
    rw [← hput, State.cluster_setCluster_same, look_put_same]
  have hhome : SameHome line s x := hput ▸ .of_eq rfl rfl rfl
  have hkeeps : KeepsLine line w.cluster x (tellCluster (l1Merge r w.core 0 line m.data m.fe m.wts m.part) w.cluster line
      (toByte (byteMask n) o) 0 0 m.wts) :=
    (hr ▸ raise_keepsLine x w _).trans ((l1Merge_keepsLine ..).trans (tellCluster_keepsLine ..))
  have hfresh : Fresh o n v x w.cluster line := by
    refine ⟨?_, fun y hy => ?_⟩
    · rw [seen, lineAt_of_some hlook]
      exact hdata.merged hfit hmask
    · obtain rfl := Option.some.inj (hlook.symm.trans hy)
      exact ⟨hlctx', hbad', hdata⟩
  have hcore : (tellCluster (l1Merge r w.core 0 line m.data m.fe m.wts m.part) w.cluster line (toByte (byteMask n) o) 0 0 m.wts).core w.core =
      (l1Merge r w.core 0 line m.data m.fe m.wts m.part).core w.core := by
    rw [State.core, tellCluster_cores, State.core]
  obtain ⟨hbuffer, hl1⟩ := l1Merge_core r w.core 0 line m.data m.fe m.wts m.part
  have hbefore : (r.core w.core).buffer = (s.core w.core).buffer := by
    rw [← hr, raise_buffer, ← hput]
    rfl
  refine ⟨⟨⟨clearLine_of_sameHome (hhome.trans hkeeps.toSameHome) hclear, hw ▸ fresh_of_keepsLine hkeeps hfresh, ?_⟩, ?_⟩,
    m, hkeeps.copy.trans hlook, hdata, hmask⟩
  · rw [hcore]
    exact fun y hy => ⟨(hl1 y hy).1, by rw [(hl1 y hy).2]; exact hdata⟩
  · rw [hcore, hbuffer, hbefore]

end

variable (hcopy : ∀ l, look (s.cluster w.cluster).lines line = some l → l.ctx = 0 ∧ l.bad = false)

section
include hclear hcopy

/-- The copy that a write meets: the one that is there, or one that the home grants. -/
theorem copy_for_write (c : Nat) (cover : BitVec 64) :
    ∃ t l, (if (look (s.cluster w.cluster).lines line).isSome then .ok s else grantHome s w.cluster 0 line c cover) = .ok t ∧
      SameHome line s t ∧ t.cores = s.cores ∧ look (t.cluster w.cluster).lines line = some l ∧ l.ctx = 0 ∧ l.bad = false := by
  cases hl : look (s.cluster w.cluster).lines line with
  | none =>
    obtain ⟨u, l, hu, hhome, hcores, hlook, _, _, hlctx, hbad⟩ := grantHome_grants (k := w.cluster) hclear c cover
    rw [lineAt_of_none hl] at hlctx hbad
    exact ⟨u, l, hu, hhome, hcores, hlook, hlctx, hbad⟩
  | some l => exact ⟨s, l, rfl, .refl s, rfl, hl, hcopy l hl⟩

end

section
include hfit hown hctx hw hclear hcopy

/-- A write of scope up to `.L` stands in the cluster's copy, whose written bytes are among those not yet pushed. -/
theorem clusterWrite_stores : ∃ u, clusterWrite s w line (toByte v o) (toByte (byteMask n) o) 0 0 = .ok u ∧
    Stored o n v w.core line s u ∧ ∃ l, look (u.cluster w.cluster).lines line = some l ∧ Carries o n v l.data ∧
      ∀ j < n, l.byteMask.getLsbD (o + j) = true := by
  have hopen : sameContext s w.cluster 0 line = s := sameContext_open fun l hl => (hcopy l hl).1
  have hraise : KeepsLine line w.cluster s (raiseCluster s w.cluster (w.clock s)) := raiseCluster_keepsLine ..
  obtain ⟨t, l, ht, hhome, hcores, hl, hlctx, hbad⟩ := copy_for_write (w := w) (clearLine_of_sameHome hraise.toSameHome hclear)
    (fun l hl => hcopy l (hraise.copy ▸ hl)) (w.clock s) (bytesOf (toByte (byteMask n) o))
  obtain ⟨hstored, hnear⟩ := lineWritten_stores (v := v) hfit hown hctx hw
    (clearLine_of_sameHome (hraise.toSameHome.trans hhome) hclear) hl hlctx hbad (w.clock s)
  have hbuffer : (t.core w.core).buffer = (s.core w.core).buffer := by
    rw [State.core, hcores]
    rfl
  refine ⟨_, ?_, ⟨hstored.toStands, hstored.buffer.trans hbuffer⟩, hnear⟩
  rw [clusterWrite_eq, hctx, hopen]
  exact congrArg (fun y : Except Cause State => y >>= fun t => .ok (lineWritten t w line (w.clock s) _ _ 0 0)) ht

end

end

end Sys2Proof.StoredBytes
end

section
/-!
PROOF of O60, its part about stores of scope `.D` and `.S`: their bytes stand at the home (`homeWrite_stores`), whose reply brings them
to the copies of core and cluster.
-/

namespace Sys2Proof.StoredBytes

open Machine Spec Laws

/-! ## At the home (R62, R66) -/

/-- From s to t cores are the same, n bytes of the line from byte o are those of v at its home, and cluster k's copy, where it has
one, is open and clean. -/
structure AtHome (o n : Nat) (v : Line) (k line : Nat) (s t : State) : Prop where
  clear : ClearLine t line
  cores : t.cores = s.cores
  bytes : Carries o n v (lineBytes t line)
  copy : ∀ l, look (t.cluster k).lines line = some l → l.ctx = 0 ∧ l.dirty = false

theorem foldl_setFe_cores (place line : Nat) (fe : BitVec 16) (l : List Nat) (s : State) :
    (l.foldl (fun s w => setFe s place (16 * line + w) (fe.getLsbD w)) s).cores = s.cores :=
  (Calm.foldl (fun s w => setFe_calm s place (16 * line + w) (fe.getLsbD w)) l s).cores

section
variable {o n : Nat} {v : Line} {s t u : State} {k line : Nat}

theorem atHome_of_keepsLine (h : AtHome o n v k line s t) (hk : KeepsLine line k t u) (hc : u.cores = t.cores) :
    AtHome o n v k line s u :=
  ⟨clearLine_of_sameHome hk.toSameHome h.clear, hc.trans h.cores, by rw [hk.bytes]; exact h.bytes, fun l hl => h.copy l (hk.copy ▸ hl)⟩

variable (hfit : o + n ≤ 64)
include hfit

/-- A write merged at the home, past a cluster whose copy is clean. -/
theorem homeMerge_atHome (hclear : ClearLine s line)
    (hcopy : ∀ l, look (s.cluster k).lines line = some l → l.ctx = 0 ∧ l.dirty = false) (c : Nat) :
    AtHome o n v k line s (homeMerge s 0 line (toByte v o) (toByte (byteMask n) o) c).1 := by
  have hlines := homeMerge_linesOnly s 0 line (toByte v o) (toByte (byteMask n) o) c
  refine ⟨⟨?_, ?_, ?_⟩, hlines.cores, ?_, fun l hl => hcopy l ?_⟩
  · rw [homeMerge_poisoned, hclear.sound]
  · rw [hlines.module, hclear.range]
  · rw [hlines.module, hclear.car]
  · rw [lineBytes, homeMerge_mem, mergeLine_mem, memRead_memWrite]
    exact carries_write hfit _
  · rwa [hlines.cluster] at hl

/-- A write into a dirty copy that goes home at once. -/
theorem pushLine_atHome {l : ClusterLine} (hclear : ClearLine s line) (hctx : l.ctx = 0) (hbad : l.bad = false) (core : Nat) :
    AtHome o n v k line s (pushLine (s.setCluster k { s.cluster k with
      lines := put (s.cluster k).lines line (l.written core (toByte v o) (toByte (byteMask n) o) 0 0) }) k line) := by
  generalize hm : l.written core (toByte v o) (toByte (byteMask n) o) 0 0 = m
  have hdata : Carries o n v m.data := hm ▸ carries_write hfit l.data
  have hmask : ∀ j < n, m.byteMask.getLsbD (o + j) = true := fun j hj => by
    rw [← hm, ClusterLine.written, BitVec.getLsbD_or, bytesOf_write hfit hj, Bool.or_true]
  have hmctx : m.ctx = 0 := hm ▸ hctx
  have hmbad : m.bad = false := hm ▸ hbad
  generalize hu : s.setCluster k _ = u
  have hlook : look (u.cluster k).lines line = some m := by rw [← hu, State.cluster_setCluster_same, look_put_same]
  have hhome : SameHome line s u := hu ▸ .of_eq rfl rfl rfl
  obtain ⟨hclear', hcores, hbytes, hcopy⟩ := pushLine_brings (k := k) (clearLine_of_sameHome hhome hclear) fun x hx => by
    obtain rfl := Option.some.inj (hlook.symm.trans hx)
    exact ⟨hmctx, .inl hmbad⟩
  refine ⟨hclear', hcores.trans (hu ▸ rfl), ?_, hcopy⟩
  rw [hbytes, seen, lineAt_of_some hlook]
  exact hdata.merged hfit hmask

end

section
variable {o n : Nat} {v : Line} {s : State} {line : Nat} (hclear : ClearLine s line) (hbytes : Carries o n v (lineBytes s line))
include hclear hbytes

/-- What the home has is brought to a core and to the copy of its cluster. -/
theorem reply_stores {core : Nat} {x : Cluster} (hx : ∀ l, look x.lines line = some l →
      l.ctx = 0 ∧ l.bad = false ∧ l.dirty = false ∧ l.data = lineBytes s line) (fe : BitVec 16) (wts : Nat) :
    Stored o n v core line s (l1Merge (s.setCluster (clusterOf core) x) core 0 line (lineBytes s line) fe wts none) ∧
      Carries o n v (lineBytes (l1Merge (s.setCluster (clusterOf core) x) core 0 line (lineBytes s line) fe wts none) line) := by
  generalize hu : s.setCluster (clusterOf core) x = u
  have hcluster : u.cluster (clusterOf core) = x := by rw [← hu, State.cluster_setCluster_same]
  have hhome : SameHome line s u := hu ▸ .of_eq rfl rfl rfl
  have hkeeps : KeepsLine line (clusterOf core) u (l1Merge u core 0 line (lineBytes s line) fe wts none) := l1Merge_keepsLine ..
  have hfresh : Fresh o n v u (clusterOf core) line := by
    refine ⟨?_, fun l hl => ?_⟩
    · rw [seen_of_clean fun l hl => (hx l (hcluster ▸ hl)).2.2.1, hhome.bytes]
      exact hbytes
    · obtain ⟨hctx, hbad, _, hdata⟩ := hx l (hcluster ▸ hl)
      exact ⟨hctx, hbad, by rw [hdata]; exact hbytes⟩
  obtain ⟨hbuffer, hl1⟩ := l1Merge_core u core 0 line (lineBytes s line) fe wts none
  refine ⟨⟨⟨clearLine_of_sameHome (hhome.trans hkeeps.toSameHome) hclear, fresh_of_keepsLine hkeeps hfresh, fun m hm => ?_⟩, ?_⟩, ?_⟩
  · obtain ⟨hbad, hdata⟩ := hl1 m hm
    exact ⟨hbad, by rw [hdata]; exact hbytes⟩
  · rw [hbuffer, ← hu]
    rfl
  · rw [(hhome.trans hkeeps.toSameHome).bytes]
    exact hbytes

end

section
variable {o n : Nat} {v : Line} {s t : State} {w : Who} {line : Nat} (hown : w.own = true) (hctx : w.ctx = 0)
  (hw : w.cluster = clusterOf w.core)
include hown hctx hw

/-- The reply of a home that has the bytes brings them to the copies on its path. -/
theorem homeReply_stores (h : AtHome o n v w.cluster line s t) :
    Stored o n v w.core line s (homeReply t w line) ∧ Carries o n v (lineBytes (homeReply t w line) line) := by
  have hraise : KeepsLine line w.cluster t (w.raise t (homeTimes t line).wts) := raise_keepsLine ..
  have hbuffer : ((w.raise t (homeTimes t line).wts).core w.core).buffer = (s.core w.core).buffer := by
    rw [raise_buffer, State.core, h.cores]
    rfl
  have hclear := clearLine_of_sameHome hraise.toSameHome h.clear
  have hbytes : Carries o n v (lineBytes (w.raise t (homeTimes t line).wts) line) := by
    rw [hraise.bytes]
    exact h.bytes
  unfold homeReply
  dsimp only
  rw [hctx, readBar_clear hclear, hown, hw]
  generalize w.raise t (homeTimes t line).wts = r at hraise hbuffer hclear hbytes
  have hreply {x : Cluster} (hx : ∀ l, look x.lines line = some l →
      l.ctx = 0 ∧ l.bad = false ∧ l.dirty = false ∧ l.data = lineBytes r line) :
      Stored o n v w.core line s (l1Merge (r.setCluster (clusterOf w.core) x) w.core 0 line (lineBytes r line)
        (feLine r.empty line) (homeTimes t line).wts none) ∧
      Carries o n v (lineBytes (l1Merge (r.setCluster (clusterOf w.core) x) w.core 0 line (lineBytes r line)
        (feLine r.empty line) (homeTimes t line).wts none) line) := by
    obtain ⟨hstored, hhome⟩ := reply_stores (core := w.core) hclear hbytes hx (feLine r.empty line) (homeTimes t line).wts
    exact ⟨⟨hstored.toStands, hstored.buffer.trans hbuffer⟩, hhome⟩
  cases hl : look (r.cluster (clusterOf w.core)).lines line with
  | none =>
    refine hreply fun l h => ?_
    dsimp only at h
    split at h <;> exact nomatch hl.symm.trans h
  | some l =>
    refine hreply fun m hm => ?_
    obtain ⟨hlctx, hclean⟩ := h.copy l (hraise.copy ▸ hw ▸ hl)
    rw [look_put_same] at hm
    obtain rfl := Option.some.inj hm
    exact ⟨hlctx, rfl, hclean, rfl⟩

variable (hfit : o + n ≤ 64) (hclear : ClearLine s line)
  (hcopy : ∀ l, look (s.cluster w.cluster).lines line = some l → l.ctx = 0 ∧ l.bad = false)
include hfit hclear hcopy

/-- A write of scope `.D` or wider stands at the home. -/
theorem homeWrite_stores :
    Stored o n v w.core line s (homeWrite s w line (toByte v o) (toByte (byteMask n) o) 0 0) ∧
      Carries o n v (lineBytes (homeWrite s w line (toByte v o) (toByte (byteMask n) o) 0 0) line) := by
  have hask : KeepsLine line w.cluster s (w.ask s) := ask_keepsLine s w
  have hclear' := clearLine_of_sameHome hask.toSameHome hclear
  have hcopy' : ∀ l, look ((w.ask s).cluster w.cluster).lines line = some l → l.ctx = 0 ∧ l.bad = false :=
    fun l hl => hcopy l (hask.copy ▸ hl)
  have hbuffer := ask_buffer s w w.core
  unfold homeWrite
  dsimp only
  rw [hctx, sameContext_open fun l hl => (hcopy' l hl).1]
  generalize w.ask s = t at hclear' hcopy' hbuffer
  have hdone {u : State} (h : AtHome o n v w.cluster line t u) :
      Stored o n v w.core line s (homeReply u w line) ∧ Carries o n v (lineBytes (homeReply u w line) line) := by
    obtain ⟨hstored, hhome⟩ := homeReply_stores hown hctx hw h
    exact ⟨⟨hstored.toStands, hstored.buffer.trans hbuffer⟩, hhome⟩
  have halone (hclean : ∀ l, look (t.cluster w.cluster).lines line = some l → l.ctx = 0 ∧ l.dirty = false) (ws : List Nat) :=
    atHome_of_keepsLine (homeMerge_atHome (v := v) hfit hclear' hclean (w.clock t))
      (.foldl (fun s x => setFe_keepsLine s 0 (16 * line + x) ((0 : BitVec 16).getLsbD x)) ws _) (foldl_setFe_cores ..)
  split
  · next l hl =>
    obtain ⟨hlctx, hbad⟩ := hcopy' l hl
    split
    · exact hdone (atHome_of_keepsLine (pushLine_atHome hfit hclear' hlctx hbad w.core) (tellCluster_keepsLine ..) (tellCluster_cores ..))
    · next hclean =>
      refine hdone (halone (fun x hx => ?_) _)
      obtain rfl := Option.some.inj (hl.symm.trans hx)
      exact ⟨hlctx, by simpa using hclean⟩
  · next hnone => exact hdone (halone (fun x hx => absurd (hnone.symm.trans hx) nofun) _)

end

end Sys2Proof.StoredBytes
end

section
/-!
PROOF of O60, its end: the drain (`storeDrain_stores`), the loads that follow (`nearLoad_gives`, `farLoad_gives`), and the statement.
-/

namespace Sys2Proof.StoredBytes

open Machine Spec Laws

/-! ## The drain (R60, R223) -/

/-- A commutative range has a line or has none of it. -/
theorem inCrange_line (m : Module) (pa : Nat) : inCrange m (64 * (pa / 64)) = inCrange m pa := by
  have hcovers (n : Nat) : crCovers m n (64 * (pa / 64)) = crCovers m n pa := by
    unfold crCovers
    dsimp only
    exact congrArg₂ (· && ·) (decide_eq_decide.2 (by omega)) (decide_eq_decide.2 (by omega))
  unfold inCrange
  simp only [hcovers]

/-- An entry leaves the buffer, and no line is changed, nor any copy of a core. -/
theorem popEntry_copies (s : State) (core i : Nat) (line k c : Nat) :
    KeepsLine line k s (popEntry s core i) ∧ ((popEntry s core i).core c).l1 = (s.core c).l1 := by
  unfold popEntry
  dsimp only
  generalize hu : s.setCore core _ = u
  have hkeeps : KeepsLine line k s u := hu ▸ .setCore _ _
  have hl1 : (u.core c).l1 = (s.core c).l1 := by
    rw [← hu]
    by_cases h : c = core
    · rw [h, State.core_setCore_same]
    · rw [State.core_setCore_other _ _ h]
  refine List.foldlRecOn (motive := fun t : State => KeepsLine line k s t ∧ (t.core c).l1 = (s.core c).l1) _ _ ⟨hkeeps, hl1⟩
    fun t ⟨ht, htl1⟩ j _ => ?_
  split
  · exact ⟨ht, htl1⟩
  · exact ⟨ht.trans ⟨.of_eq rfl rfl rfl, rfl⟩, htl1⟩

section
variable {s s1 : State} {core : Nat} {e : StoreEntry} {p : Place} (hkind : e.kind = .plain) (hfixed : e.fixedAt = none)
  (hfe : e.feBit = none) (haway : e.away = none) (hcut : e.cut = false) (hmask : e.mask = byteMask e.n)
  (hres : resolve s (entryWho core e) .write e.va = .ok (s1, p)) (hp : InMemory s1.module p)
  (hstash : stashBank s1 (entryWho core e) e.va = none) (hpoison : s1.bridge.poisoned.contains p.line = false)
include hkind hfixed hfe haway hcut hmask hres hp hstash hpoison

/-- A plain store is a write of its line, at its scope. -/
theorem performEntry_inMemory : performEntry s core e =
    if e.scope.toNat ≤ 2 then
      ofCause s1 e.va (clusterWrite s1 (entryWho core e) p.line (toByte e.data p.byte) (toByte (byteMask e.n) p.byte) 0 0)
    else if (toByte (byteMask e.n) p.byte != BitVec.allOnes 512 && (homeBytes s1 e.ctx p.line).isNone) = true then
      ofCause s1 e.va (.error .sealFail)
    else .ok (homeWrite s1 (entryWho core e) p.line (toByte e.data p.byte) (toByte (byteMask e.n) p.byte) 0 0) := by
  have hrange := rangeAt_inMemory hp
  obtain ⟨⟨pa, hpa⟩, _⟩ := hp
  have hat : performAt s1 (entryWho core e) e p =
      lineWrite s1 (entryWho core e) e.va p (toByte e.data p.byte) (toByte (byteMask e.n) p.byte) 0 0 e.scope.toNat := by
    rcases hpa with rfl | rfl <;>
      simp only [performAt, hfe, writeBytes, hrange, hmask, BitVec.and_self, Option.isSome_none, Bool.false_eq_true, if_false]
  simp only [performEntry, hcut, hkind, performStore, haway, hfixed, hres, bind, Except.bind, hat, lineWrite, hstash, hpoison,
    Bool.false_eq_true, if_false]
  rfl

variable (hctx : e.ctx = 0) (hfit : p.byte + e.n ≤ 64) (hclear : ClearLine s1 p.line)
  (hcopy : ∀ l, look (s1.cluster (clusterOf core)).lines p.line = some l → l.ctx = 0 ∧ l.bad = false)
include hctx hfit hclear hcopy

/-- It stands in the cluster's copy at a scope up to `.L`, and at the home at a wider one. -/
theorem performEntry_stores : ∃ t, performEntry s core e = .ok t ∧ Stored p.byte e.n e.data core p.line s1 t ∧
    (e.scope.toNat ≤ 2 → ∃ l, look (t.cluster (clusterOf core)).lines p.line = some l ∧ Carries p.byte e.n e.data l.data ∧
      ∀ j < e.n, l.byteMask.getLsbD (p.byte + j) = true) ∧
    (3 ≤ e.scope.toNat → Carries p.byte e.n e.data (lineBytes t p.line)) := by
  rw [performEntry_inMemory hkind hfixed hfe haway hcut hmask hres hp hstash hpoison]
  by_cases hscope : e.scope.toNat ≤ 2
  · obtain ⟨t, hwrite, hstored, hcluster⟩ := clusterWrite_stores (v := e.data) (w := entryWho core e) hfit rfl hctx rfl hclear hcopy
    rw [if_pos hscope, hwrite]
    exact ⟨t, rfl, hstored, fun _ => hcluster, fun h => by omega⟩
  · obtain ⟨hstored, hhome⟩ := homeWrite_stores (v := e.data) (w := entryWho core e) rfl hctx rfl hfit hclear hcopy
    have hopen : (homeBytes s1 e.ctx p.line).isNone = false := by
      rw [hctx]
      rfl
    rw [if_neg hscope, hopen, Bool.and_false, if_neg Bool.false_ne_true]
    exact ⟨_, rfl, hstored, fun h => absurd h hscope, fun _ => hhome⟩

/-- Once it has drained, core and cluster have its bytes, and one entry fewer waits. -/
theorem storeDrain_stores {rest : List StoreEntry} {c : BitVec 9} (hc : c.toNat = core) (hbuf : (s.core core).buffer = e :: rest)
    (hheld : drainHeld s core = false) : ∃ t, exec (.storeDrain c) s = .next (handLines t core) ∧
      Stands p.byte e.n e.data core p.line t ∧ (t.core core).buffer = removeAt (s1.core core).buffer 0 ∧
      (e.scope.toNat ≤ 2 → ∃ l, look (t.cluster (clusterOf core)).lines p.line = some l ∧ Carries p.byte e.n e.data l.data ∧
        ∀ j < e.n, l.byteMask.getLsbD (p.byte + j) = true) ∧
      (3 ≤ e.scope.toNat → Carries p.byte e.n e.data (lineBytes t p.line)) := by
  subst hc
  obtain ⟨t, hperform, hstored, hnear, hhome⟩ := performEntry_stores hkind hfixed hfe haway hcut hmask hres hp hstash hpoison hctx hfit
    hclear hcopy
  obtain ⟨hkeeps, hl1⟩ := popEntry_copies t c.toNat 0 p.line (clusterOf c.toNat) c.toNat
  refine ⟨_, Arrival.storeDrain_of_performed hbuf haway hheld hperform, ⟨clearLine_of_sameHome hkeeps.toSameHome hstored.clear,
    fresh_of_keepsLine hkeeps hstored.fresh, fun m hm => hstored.own m (hl1 ▸ hm)⟩, ?_, fun h => ?_, fun h => ?_⟩
  · rw [(Arrival.popEntry_frame t c.toNat 0).1, hstored.buffer]
  · rw [hkeeps.copy]
    exact hnear h
  · rw [hkeeps.bytes]
    exact hhome h

end

/-! ## The loads that follow (R61, R222) -/

section
variable {o n : Nat} {v : Line} {t : State} {w : Who} {va : DWord} {p : Place} {scope : Nat} (hfit : p.byte + n ≤ 64)
  (hclear : ClearLine t p.line) (hload : LoadsThere t w va p n) (hp : InMemory t.module p)
include hfit hclear hload hp

/-- A load of scope up to `.L` gives the bytes that its cluster sees, where no copy of its core stands in the way. -/
theorem nearLoad_gives (hscope : scope ≤ 2) (hf : Fresh p.byte n v t w.cluster p.line)
    (hl1 : (∀ m, look (t.core w.core).l1 p.line = some m → m.bad = false ∧ Carries p.byte n v m.data) ∨
      L1Past t w.core p.line (needOf p.byte n)) :
    ∃ u, loadBytes t w va n scope = .ok (u, v &&& byteMask n) := by
  obtain ⟨u, hu, hnear, _⟩ := loadsThere_reads hload hp
  obtain ⟨_, _, _, hw, _⟩ := hload
  have hkeeps := keepsLine_of_tlbsOnly hu p.line w.cluster
  obtain ⟨x, m, hread, hm⟩ := l1Read_gives (clearLine_of_sameHome hkeeps.toSameHome hclear) (hw ▸ fresh_of_keepsLine hkeeps hf)
    (needOf p.byte n) fun m hm hlease _ => by
      rw [l1_of_tlbsOnly hu] at hm
      rw [clock_of_tlbsOnly hu] at hlease
      exact hl1.elim (fun h => h m hm) fun h => absurd (h m hm) (by omega)
  exact ⟨x, by rw [hnear hscope hread, hm.bytes hfit]⟩

/-- A load of scope `.D` or `.S` gives the bytes that its cluster sees. -/
theorem farLoad_gives (hscope : 3 ≤ scope) (hseen : Carries p.byte n v (seen t w.cluster p.line))
    (hcopy : ∀ l, look (t.cluster w.cluster).lines p.line = some l → (l.ctx = 0 ∧ l.bad = false) ∨ l.dirty = false) :
    ∃ u, loadBytes t w va n scope = .ok (u, v &&& byteMask n) := by
  obtain ⟨u, hu, _, hfar⟩ := loadsThere_reads hload hp
  obtain ⟨hown, hctx, _, hw, _⟩ := hload
  have hkeeps := keepsLine_of_tlbsOnly hu p.line w.cluster
  obtain ⟨x, l, hread, hl⟩ := homeRead_gives hown hctx hw (clearLine_of_sameHome hkeeps.toSameHome hclear)
    (by rw [seen_of_keepsLine hkeeps]; exact hseen) (fun l hl => hcopy l (hkeeps.copy ▸ hl))
  exact ⟨x, by rw [hfar hscope hread, hl.bytes hfit]⟩

end

/-- Settles O60: a drained store is in its cluster's copy or at its home, and each read that the statement names gives the bytes
that its cluster makes of the two. -/
theorem storedBytesAreLoaded : Obligations.StoredBytesAreLoaded := by
  intro s core e rest s1 p k need hk hneed hbuf hkind hfixed hfe _ haway hcut hctx hmask hheld hres hpa hfit hrange hcar hstash hpoison
    hcopies
  subst hk hneed
  have hline : inCrange s1.module (64 * p.line) = none := (inCrange_line _ _).trans hrange
  obtain ⟨t, hdrain, ⟨hclear, hfresh, hown⟩, hbuffer, hnear, hhome⟩ := storeDrain_stores hkind hfixed hfe haway hcut hmask hres
    ⟨hpa, hrange⟩ hstash hpoison hctx hfit ⟨hpoison, hline, hcar⟩ hcopies rfl hbuf hheld
  have hmemory : InMemory t.module p := ⟨hpa, (inCrange_line _ _).symm.trans hclear.range⟩
  refine ⟨t, hdrain, hbuffer, fun h => ?copied, fun h => ?home, fun w va scope hload hw hbeside => ?near,
    fun w va scope hload h hscope hclean => ?far⟩
  case copied =>
    obtain ⟨l, hl, hdata, hwritten⟩ := hnear h
    exact ⟨l, hl, needOf_covered hwritten, hdata.bytes hfit⟩
  case home =>
    have hkey : 64 * p.line + p.byte = p.key := Nat.div_add_mod ..
    rw [← hkey]
    exact (hhome h).memRead hfit
  case near =>
    rw [← hw] at hfresh
    by_cases hscope : 3 ≤ scope
    · exact farLoad_gives hfit hclear hload hmemory hscope hfresh.seen fun l hl => .inl ⟨(hfresh.copy l hl).1, (hfresh.copy l hl).2.1⟩
    · refine nearLoad_gives hfit hclear hload hmemory (by omega) hfresh ?_
      rcases hbeside with hcore | hfar | hpast
      · rw [hcore]
        exact .inl hown
      · exact absurd hfar hscope
      · exact .inr hpast
  case far =>
    refine farLoad_gives hfit hclear hload hmemory hscope ?_ fun l hl => .inr (hclean l hl)
    rw [seen_of_clean hclean]
    exact hhome h

end Sys2Proof.StoredBytes
end

section
/-!
PROOF of O18, which fails as it is stated (`not_atomicResults`): its first clause takes the size bit p as a number. What atomics do
for a size bit stands before: `amos_complete` and `amocas_completes`, `amofadd_outside_ranges` and `amofadd_in_range`, and
`cswap_completes`. Each goes by its operands (`readPair_of_source`), the release its order asks for, its update, and the old value on
its way after the acquire (`launch_acquireIf`).
-/

namespace Sys2Proof.Atomics

open Machine Spec Laws

/-! ## The parts that atomics share -/

theorem readPair_of_source {s : State} {d : BitVec 5} {k v : Nat} {pair : Bool} (h : PairSource s d k pair v) :
    readPair s d pair k = .ok v := by
  obtain ⟨lo, hlo, h⟩ := h
  cases pair with
  | false =>
    subst h
    simp only [readPair, readP_of_source hlo, bind, Except.bind, Bool.false_eq_true, if_false]
  | true =>
    obtain ⟨hi, hhi, rfl⟩ := h
    simp only [readPair, readP_of_source hlo, readP_of_source hhi, bind, Except.bind, if_true]

theorem acquireIf_th (s : State) (r : BitVec 2) : (acquireIf r s).th = s.th := by
  unfold acquireIf
  split <;> rfl

/-- The registers of values on their way to a destination are the destination's. -/
theorem unawaited_toDest {s : State} {d : BitVec 5} {pair : Bool} (h : Unawaited s (destRefs s d pair)) (v : Nat) :
    Unawaited s ((toDest s d pair v).map (·.reg)) := by
  intro r hr
  obtain ⟨l, hl, rfl⟩ := List.mem_map.1 hr
  exact h _ (toDest_reg hl)

/-- An acquire does not hold back the old value of the atomic that makes it. -/
theorem launch_acquireIf {s : State} {p : Producer} (h : Unawaited s (p.landings.map (·.reg))) (r : BitVec 2) :
    launch (acquireIf r s) p = .ok (launched (acquireIf r s) p) :=
  launch_of_unawaited fun x hx => by rw [acquireIf_th, h x hx]

/-- An atomic completes once its old value is on its way. -/
theorem completeReading_launched (s : State) (r : BitVec 2) (p : Producer) (x : BitVec 5) :
    completeReading (launched (acquireIf r s) p) [x] = retired (launched (acquireIf r s) p) [x] (s.th.pc + 4) := by
  rw [completeReading_eq, launched_pc, acquireIf_pc]

/-- Whether AMOFADD finds its word in a commutative range. -/
def sumInRange (s : State) (ea : DWord) : Bool :=
  match resolve s (me s) .modify ea with
  | .ok (_, .own pa) => (inCrange s.module pa).isSome
  | _ => false

theorem sumInRange_of_none {s : State} {ea : DWord}
    (h : ∀ s2 pa, resolve s (me s) .modify ea = .ok (s2, .own pa) → inCrange s.module pa = none) : sumInRange s ea = false := by
  unfold sumInRange
  split
  · next s2 pa hp => rw [h s2 pa hp]; rfl
  · rfl

theorem sumInRange_of_some {s s2 : State} {ea : DWord} {pa : Nat} (hp : resolve s (me s) .modify ea = .ok (s2, .own pa))
    (h : (inCrange s.module pa).isSome = true) : sumInRange s ea = true := by
  rw [sumInRange, hp]
  exact h

/-- What AMOFADD brings: in a range the partial's value, elsewhere the old value, quiet, with the flags of the sum. -/
def sumProducer (s : State) (ea : DWord) (d : BitVec 5) (m v : Nat) : Producer :=
  { landings := toDest s d false (if !sumInRange s ea && (decodeElem 11 m).1.isNaN then quieten 11 m else m),
    flags := if sumInRange s ea then 0 else (floatSum m v).2.word }

section
variable {s s1 : State} {d x : BitVec 5} {g : BitVec 3} {z : BitVec 1} {c : BitVec 3} {r : BitVec 2} {ea : DWord} {m : Nat}
  (ha : Addressed s x g 0 ea) (hr : MayRelease s r)
include ha hr

/-! ## One operand, or a word compared (R233) -/

theorem amo_completes {f : Nat → Nat → Nat → Nat} {cr : Option Nat} {p : BitVec 1} {v : Nat} (hv : PairSource s d 0 (p == 1) v)
    (hm : ea.toNat % (if p == 1 then 8 else 4) = 0) (hd : Unawaited s (destRefs s d (p == 1)))
    (hu : updateAt (ordered s r c.toNat) (me (ordered s r c.toNat)) ea (if p == 1 then 8 else 4) c.toNat
      { f := fun m => some (f (if p == 1 then 64 else 32) m v % 2 ^ (if p == 1 then 64 else 32)),
        cr := cr.map (fun o => (o, crFormats o (p == 1), v)) } = .ok (s1, m))
    (hd1 : Unawaited s1 (destRefs s1 d (p == 1))) :
    amo f cr d x g z c r p s =
      .next (retired (launched (acquireIf r s1) { landings := toDest s1 d (p == 1) m }) [x] (s1.th.pc + 4)) := by
  have hw : waitFor (!(destRefs s d (p == 1)).any (refBusy s.th)) s = .ok () := destFree_of_unawaited hd
  have hbits : 8 * (if p == 1 then 8 else 4) = if p == 1 then 64 else 32 := by split <;> rfl
  simp only [amo, address_of_addressed ha, readPair_of_source hv, aligned_of_mod hm, hw, releaseIf_of_mayRelease hr, hbits, hu, atIssue,
    launch_acquireIf (p := { landings := toDest s1 d (p == 1) m }) (unawaited_toDest hd1 m), bind, Except.bind,
    finishKeeping_ok, completeReading_launched]

theorem amocas_completes {p : BitVec 1} {want new : Nat} (hw : PairSource s d 0 (p == 1) want)
    (hn : PairSource s (d + if p = 1 then 2 else 1) 0 (p == 1) new) (hm : ea.toNat % (if p = 1 then 8 else 4) = 0)
    (hd : Unawaited s (destRefs s d (p == 1)))
    (hu : updateAt (ordered s r c.toNat) (me (ordered s r c.toNat)) ea (if p = 1 then 8 else 4) c.toNat
      { f := fun m => if m = want then some new else none } = .ok (s1, m))
    (hd1 : Unawaited s1 (destRefs s1 d (p == 1))) :
    exec (.amocas d x g z c r p) s =
      .next (retired (launched (acquireIf r s1) { landings := toDest s1 d (p == 1) m }) [x] (s1.th.pc + 4)) := by
  change execAmocas d x g z c r p s = _
  simp only [execAmocas, address_of_addressed ha, readPair_of_source hw, readPair_of_source hn, aligned_of_mod hm,
    destFree_of_unawaited hd, releaseIf_of_mayRelease hr, hu, atIssue,
    launch_acquireIf (p := { landings := toDest s1 d (p == 1) m }) (unawaited_toDest hd1 m), bind, Except.bind, finishKeeping_ok,
    completeReading_launched]

/-! ## The sum of floats (R234) -/

theorem amofadd_completes {v : Word} (hv : Source s d 0 v) (hm : ea.toNat % 4 = 0) (hd : Unawaited s (destRefs s d false))
    (hu : updateAt (ordered s r c.toNat) (me (ordered s r c.toNat)) ea 4 c.toNat
      { f := fun m => some (floatSum m v.toNat).1, cr := some (0, [1], v.toNat) } = .ok (s1, m))
    (hd1 : Unawaited s1 (destRefs s1 d false)) :
    exec (.amofadd d x g z c r) s =
      .next (retired (launched (acquireIf r s1) (sumProducer s1 ea d m v.toNat)) [x] (s1.th.pc + 4)) := by
  have hsource : PairSource s d 0 false v.toNat := ⟨v, hv, rfl⟩
  have hlaunch := launch_acquireIf (p := sumProducer s1 ea d m v.toNat) (unawaited_toDest hd1 _) r
  rw [← completeReading_launched]
  change execAmofadd d x g z c r s = _
  simp only [execAmofadd, address_of_addressed ha, readPair_of_source hsource, aligned_of_mod hm, destFree_of_unawaited hd,
    releaseIf_of_mayRelease hr, hu, atIssue, bind, Except.bind]
  exact congrArg (fun y : Eff State => finishKeeping [x] (y >>= fun t => .ok (completeReading t [x]))) hlaunch

/-- Outside the ranges the old value comes quiet, with the flags of the sum. -/
theorem amofadd_outside_ranges {v : Word} (hv : Source s d 0 v) (hm : ea.toNat % 4 = 0) (hd : Unawaited s (destRefs s d false))
    (hu : updateAt (ordered s r c.toNat) (me (ordered s r c.toNat)) ea 4 c.toNat
      { f := fun m => some (floatSum m v.toNat).1, cr := some (0, [1], v.toNat) } = .ok (s1, m))
    (hd1 : Unawaited s1 (destRefs s1 d false))
    (hout : ∀ s2 pa, resolve s1 (me s1) .modify ea = .ok (s2, .own pa) → inCrange s1.module pa = none) :
    exec (.amofadd d x g z c r) s =
      .next (retired (launched (acquireIf r s1) {
        landings := toDest s1 d false (if isNaNCode 11 m then quieten 11 m else m), flags := (floatSum m v.toNat).2.word }) [x]
        (s1.th.pc + 4)) := by
  rw [amofadd_completes ha hr hv hm hd hu hd1, sumProducer, sumInRange_of_none hout]
  rfl

/-- In a range it is the partial's value, without flags. -/
theorem amofadd_in_range {v : Word} (hv : Source s d 0 v) (hm : ea.toNat % 4 = 0) (hd : Unawaited s (destRefs s d false))
    (hu : updateAt (ordered s r c.toNat) (me (ordered s r c.toNat)) ea 4 c.toNat
      { f := fun m => some (floatSum m v.toNat).1, cr := some (0, [1], v.toNat) } = .ok (s1, m))
    (hd1 : Unawaited s1 (destRefs s1 d false)) {s2 : State} {pa : Nat} (hplace : resolve s1 (me s1) .modify ea = .ok (s2, .own pa))
    (hin : (inCrange s1.module pa).isSome = true) :
    exec (.amofadd d x g z c r) s =
      .next (retired (launched (acquireIf r s1) { landings := toDest s1 d false m }) [x] (s1.th.pc + 4)) := by
  rw [amofadd_completes ha hr hv hm hd hu hd1, sumProducer, sumInRange_of_some hplace hin]
  rfl

/-! ## Root records (R51, R294) -/

theorem cswap_completes {w0 w1 n0 n1 : Nat} (hw0 : PairSource s d 0 true w0) (hw1 : PairSource s (d + 2) 0 true w1)
    (hn0 : PairSource s (d + 4) 0 true n0) (hn1 : PairSource s (d + 4 + 2) 0 true n1) (hm : ea.toNat % 16 = 0)
    (hd : Unawaited s (destRefs s d true ++ destRefs s (d + 2) true))
    (hu : updateAt (ordered s r c.toNat) (me (ordered s r c.toNat)) ea 16 c.toNat
      { f := cswapValue (w0 + 2 ^ 64 * w1) (n0 + 2 ^ 64 * n1) } = .ok (s1, m))
    (hd1 : Unawaited s1 (destRefs s1 d true ++ destRefs s1 (d + 2) true)) :
    exec (.cswap d x g z c r) s =
      .next (retired (launched (acquireIf r s1) { landings := toDest s1 d true (m % 2 ^ 64) ++ toDest s1 (d + 2) true (m / 2 ^ 64) }) [x]
        (s1.th.pc + 4)) := by
  have hregs : Unawaited s1 ((toDest s1 d true (m % 2 ^ 64) ++ toDest s1 (d + 2) true (m / 2 ^ 64)).map (·.reg)) := by
    intro x hx
    rw [List.map_append, List.mem_append] at hx
    exact hx.elim
      (unawaited_toDest (fun y hy => hd1 y (List.mem_append_left _ hy)) _ x)
      (unawaited_toDest (fun y hy => hd1 y (List.mem_append_right _ hy)) _ x)
  have hlaunch := launch_acquireIf (p := { landings := toDest s1 d true (m % 2 ^ 64) ++ toDest s1 (d + 2) true (m / 2 ^ 64) }) hregs r
  change execCswap d x g z c r s = _
  simp only [execCswap, address_of_addressed ha, readPair_of_source hw0, readPair_of_source hw1, readPair_of_source hn0,
    readPair_of_source hn1, aligned_of_mod hm, destFree_of_unawaited hd, releaseIf_of_mayRelease hr, hu, atIssue,
    hlaunch, bind, Except.bind, finishKeeping_ok, completeReading_launched]

end

/-- The forms of one operand are AMOs with their effects. -/
theorem amoForms_exec : ∀ s d x g z c r p, ∀ e ∈ amoForms, exec (e.1 d x g z c r p) s = amo e.2.1 e.2.2 d x g z c r p s := by
  intro s d x g z c r p e he
  simp only [amoForms, List.mem_cons, List.not_mem_nil, or_false] at he
  rcases he with rfl | rfl | rfl | rfl | rfl | rfl | rfl | rfl | rfl
  all_goals
    dsimp only [exec]
    rfl

/-- The first clause of O18, of a size bit. -/
theorem amos_complete : ∀ s d x g z c r (p : BitVec 1), ∀ e ∈ amoForms, ∀ ea v s1 m, Addressed s x g 0 ea →
    PairSource s d 0 (p == 1) v → ea.toNat % (if p == 1 then 8 else 4) = 0 → Unawaited s (destRefs s d (p == 1)) →
    MayRelease s r →
    updateAt (ordered s r c.toNat) (me (ordered s r c.toNat)) ea (if p == 1 then 8 else 4) c.toNat
      { f := fun m => some (e.2.1 (if p == 1 then 64 else 32) m v % 2 ^ (if p == 1 then 64 else 32)),
        cr := e.2.2.map (fun o => (o, crFormats o (p == 1), v)) } = .ok (s1, m) →
    Unawaited s1 (destRefs s1 d (p == 1)) →
    exec (e.1 d x g z c r p) s =
      .next (retired (launched (acquireIf r s1) { landings := toDest s1 d (p == 1) m }) [x] (s1.th.pc + 4)) := by
  intro s d x g z c r p e he ea v s1 m ha hv hm hd hr hu hd1
  exact (amoForms_exec s d x g z c r p e he).trans (amo_completes ha hr hv hm hd hu hd1)

/-! ## The counterexample -/

/-- After reset, with the address 0x1040 of the core's own local store in `b1`. -/
noncomputable def atWord : State :=
  (State.reset.withFetchWord 32 0).setTh ((State.reset.withFetchWord 32 0).th.setBase 1 { val := 0x1040 })

theorem addressed_atWord : Addressed atWord 0 1 0 0x1040 := by
  refine ⟨0, 0x1040, ?_, ?_, by decide⟩
  · unfold Source
    decide +kernel
  · unfold BaseSource
    decide +kernel

theorem localAccess_atWord {n : Nat} (hn : n ≤ 64) : LocalAccess atWord 0x1040 0 0x1040 n := by
  have hfits : 0x1040 % 64 + n ≤ 64 := by omega
  have hother : windowOff (atWord.viOf atWord.th.vi.toNat).lswin 0x1040 = some (0 * 2 ^ 18 + 0x1040) ∧
      localReach atWord (me atWord) 0 0x1040 = true ∧ (atWord.core atWord.myCore).buffer = [] ∧
      atWord.bridge.poisoned.contains (localKey 0 0x1040 / 64) = false := by decide +kernel
  obtain ⟨hwindow, hreach, hbuffer, hsound⟩ := hother
  exact ⟨hwindow, by decide, by decide, hfits, hreach, hbuffer, hsound⟩

/-- `a0` and the register after it are 0. -/
theorem pairSource_atWord (pair : Bool) : PairSource atWord 8 0 pair 0 := by
  have hlo : Source atWord 8 0 0 := by
    unfold Source
    decide +kernel
  have hhi : Source atWord (8 + 1) 0 0 := by
    unfold Source
    decide +kernel
  cases pair with
  | false => exact ⟨0, hlo, rfl⟩
  | true => exact ⟨0, hlo, 0, hhi, rfl⟩

theorem unawaited_atWord (pair : Bool) : Unawaited atWord (destRefs atWord 8 pair) := by
  unfold Unawaited
  revert pair
  decide +kernel

/-- What the addition of 0 to n bytes at the address leaves, before the old value sets out. -/
noncomputable def addedZero (n : Nat) : State :=
  writeOut (reached atWord 0) (me atWord) (.localStore 0 0x1040) n
    (BitVec.ofNat 512 ((memNat atWord.mem (localKey 0 0x1040) n + 0) % 2 ^ (8 * n))) (byteMask n)

theorem addedZero_calm (n : Nat) : Calm atWord (addedZero n) := (reached_calm atWord 0).trans (writeOut_local_calm ..)

theorem unawaited_addedZero (n : Nat) (pair : Bool) : Unawaited (addedZero n) (destRefs (addedZero n) 8 pair) := by
  rw [(addedZero_calm n).destRefs]
  exact (addedZero_calm n).unawaited (unawaited_atWord pair)

theorem update_atWord {n : Nat} (hn : n ≤ 64) (cr : Option (Nat × List Nat × Nat)) :
    updateAt (ordered atWord 0 2) (me (ordered atWord 0 2)) 0x1040 n 2 { f := fun m => some ((m + 0) % 2 ^ (8 * n)), cr := cr } =
      .ok (addedZero n, memNat atWord.mem (localKey 0 0x1040) n) :=
  localAccess_update (localAccess_atWord hn) 2 rfl

/-- Refutes O18: its first clause takes p as a number, tests it for 1, and hands it to the instruction as a bit. At p = 3 it speaks
of an update of 4 bytes whose old value goes to one register, while the instruction's bit is 1: AMOADD then updates 8 bytes, whose
old value goes to two. -/
theorem not_atomicResults : ¬ Obligations.AtomicResults := by
  unfold Obligations.AtomicResults
  rintro ⟨hforms, _⟩
  have hmem : (.amoadd, fun _ m x => m + x, some 0) ∈ amoForms := List.mem_cons_self
  have hrelaxed : MayRelease atWord 0 := fun h => absurd h (by decide)
  have hword := hforms atWord 8 0 1 0 2 0 3 _ hmem 0x1040 0 _ _ addressed_atWord (pairSource_atWord false) (by decide)
    (unawaited_atWord false) hrelaxed (update_atWord (n := 4) (by decide) _) (unawaited_addedZero 4 false)
  have hpair := amos_complete atWord 8 0 1 0 2 0 1 _ hmem 0x1040 0 _ _ addressed_atWord (pairSource_atWord true) (by decide)
    (unawaited_atWord true) hrelaxed (update_atWord (n := 8) (by decide) _) (unawaited_addedZero 8 true)
  have hsame := congrArg (fun t => t.th.producers.map (·.landings.length)) (Host.Outcome.next.inj (hword.symm.trans hpair))
  revert hsame
  decide +kernel

end Sys2Proof.Atomics
end

section
/-!
PROOF of O38, its part about what a release leaves: the copy FIFOs and the requests in progress stay as they are while lines go home
and a reserved line goes on (R67, R72, R237).
-/

namespace Sys2Proof.Copies

open Machine Spec Laws

/-- From s to t every core's copy FIFO and every cluster's requests in progress are the same. -/
structure KeepsCopies (s t : State) : Prop where
  fifo : ∀ c, (t.core c).copies = (s.core c).copies
  engine : ∀ k, (t.cluster k).copies = (s.cluster k).copies

namespace KeepsCopies

variable {s t u : State}

theorem refl (s : State) : KeepsCopies s s := ⟨fun _ => rfl, fun _ => rfl⟩

theorem trans (h : KeepsCopies s t) (k : KeepsCopies t u) : KeepsCopies s u :=
  ⟨fun c => (k.fifo c).trans (h.fifo c), fun j => (k.engine j).trans (h.engine j)⟩

theorem of_eq (hcores : t.cores = s.cores) (hclusters : t.clusters = s.clusters) : KeepsCopies s t :=
  ⟨fun c => by rw [State.core, State.core, hcores], fun k => by rw [State.cluster, State.cluster, hclusters]⟩

theorem of_linesOnly (h : LinesOnly s t) : KeepsCopies s t := of_eq h.cores h.clusters

theorem setCore {c : Nat} {x : Core} (h : x.copies = (s.core c).copies) : KeepsCopies s (s.setCore c x) := by
  refine ⟨fun d => ?_, fun _ => rfl⟩
  by_cases hd : d = c
  · rw [hd, State.core_setCore_same, h]
  · rw [State.core_setCore_other _ _ hd]

theorem setCluster {k : Nat} {x : Cluster} (h : x.copies = (s.cluster k).copies) : KeepsCopies s (s.setCluster k x) := by
  refine ⟨fun _ => rfl, fun j => ?_⟩
  by_cases hj : j = k
  · rw [hj, State.cluster_setCluster_same, h]
  · rw [State.cluster_setCluster_other _ _ hj]

theorem ite (c : Prop) [Decidable c] (ht : KeepsCopies s t) (hu : KeepsCopies s u) : KeepsCopies s (if c then t else u) := by
  split
  · exact ht
  · exact hu

theorem foldl {α : Type} {f : State → α → State} (hf : ∀ s a, KeepsCopies s (f s a)) (l : List α) (s : State) :
    KeepsCopies s (l.foldl f s) := by
  induction l generalizing s with
  | nil => exact refl s
  | cons a l ih => exact (hf s a).trans (ih _)

end KeepsCopies

section
variable (s : State)

/-! ## Lines that go home (R66, R67) -/

theorem raiseClock_keepsCopies (core c : Nat) : KeepsCopies s (raiseClock s core c) := .setCore rfl
theorem raiseCluster_keepsCopies (k c : Nat) : KeepsCopies s (raiseCluster s k c) := .setCluster rfl
theorem askCluster_keepsCopies (core : Nat) : KeepsCopies s (askCluster s core) :=
  (raiseCluster_keepsCopies ..).trans (raiseClock_keepsCopies ..)

theorem pushBytes_keepsCopies (k ctx line : Nat) (data : Line) (bytes : BitVec 64) (fe feMask : BitVec 16) :
    KeepsCopies s (pushBytes s k ctx line data bytes fe feMask) :=
  .ite _ (.refl s) ((KeepsCopies.of_linesOnly ((homeMerge_linesOnly ..).trans (carryFe_linesOnly ..))).trans (raiseCluster_keepsCopies ..))

theorem pushLine_keepsCopies (k line : Nat) : KeepsCopies s (pushLine s k line) := by
  unfold pushLine
  split
  · refine .ite _ (.trans ?_ ((pushBytes_keepsCopies ..).trans (.setCluster rfl))) (.refl s)
    exact .ite _ (.of_linesOnly (poison_linesOnly ..)) (.refl s)
  · exact .refl s

theorem pushCore_keepsCopies (core : Nat) : KeepsCopies s (pushCore s core) :=
  (askCluster_keepsCopies s core).trans
    ((KeepsCopies.foldl (fun s line => pushLine_keepsCopies s (clusterOf core) line) _ _).trans (askCluster_keepsCopies ..))

theorem sameContext_keepsCopies (k ctx line : Nat) : KeepsCopies s (sameContext s k ctx line) := by
  unfold sameContext
  split
  · exact .ite _ (.refl s) ((pushLine_keepsCopies ..).trans (.setCluster rfl))
  · exact .refl s

theorem setWatchers_keepsCopies (place : Nat) (l : List Sleeper) : KeepsCopies s (setWatchers s place l) :=
  .ite _ (.of_eq rfl rfl) (.setCluster rfl)

theorem wakeWords_keepsCopies (place : Nat) (keys : List Nat) (c : Nat) : KeepsCopies s (wakeWords s place keys c) :=
  .ite _ (.refl s) ((setWatchers_keepsCopies ..).trans
    (.foldl (fun s (w : Sleeper) => .of_linesOnly (endWaita_linesOnly s w.thread 0 c)) _ _))

theorem tellCluster_keepsCopies (k line : Nat) (mask : Line) (fe feMask : BitVec 16) (c : Nat) :
    KeepsCopies s (tellCluster s k line mask fe feMask c) :=
  (wakeWords_keepsCopies ..).trans (.of_eq rfl rfl)

/-! ## Releases (R72, R221) -/

theorem stashPush_keepsCopies (core key : Nat) : KeepsCopies s (stashPush s core key) := by
  unfold stashPush
  split
  · next l _ =>
    have hbefore : KeepsCopies s (sameContext (askCluster (if l.bad then poison s (key / 16) else s) core) (clusterOf core) l.ctx
        (key / 16)) :=
      (KeepsCopies.ite _ (.of_linesOnly (poison_linesOnly ..)) (.refl s)).trans
        ((askCluster_keepsCopies ..).trans (sameContext_keepsCopies ..))
    split
    · exact .refl s
    · refine .trans (.trans (hbefore.trans ?_) (askCluster_keepsCopies ..)) (.setCore rfl)
      generalize sameContext _ _ _ _ = u
      split
      · refine .trans (.trans ?_ (pushLine_keepsCopies ..)) (tellCluster_keepsCopies ..)
        exact .setCluster rfl
      · exact pushBytes_keepsCopies ..
  · exact .refl s

theorem stashPushAll_keepsCopies (core : Nat) (bank : Option Nat) : KeepsCopies s (stashPushAll s core bank) :=
  .foldl (fun s (p : Nat × StashLine) => stashPush_keepsCopies s core p.1) _ s

theorem releasePush_keepsCopies (core scope : Nat) : KeepsCopies s (releasePush s core scope) := by
  have hstash : KeepsCopies s (if 2 ≤ scope then stashPushAll s core none else s) :=
    .ite _ (stashPushAll_keepsCopies ..) (.refl s)
  exact .ite _ (hstash.trans (pushCore_keepsCopies ..)) hstash

/-! ## Reserved lines that go on (R237, R238, R391) -/

theorem setRsvQueue_keepsCopies (place line : Nat) (q : RsvQueue) : KeepsCopies s (setRsvQueue s place line q) :=
  .ite _ (.of_eq rfl rfl) (.setCluster rfl)

theorem updRef_keepsCopies (r : Nat) (f : Thread → Thread) : KeepsCopies s (s.updRef r f) := by
  refine .ite _ (.of_eq rfl rfl) ?_
  split
  · exact .of_eq rfl rfl
  · exact .refl s

theorem grantNext_keepsCopies (place line : Nat) : KeepsCopies s (grantNext s place line) := by
  refine .ite _ (.refl s) ?_
  split
  · exact setRsvQueue_keepsCopies ..
  · exact .refl s

theorem leaveQueue_keepsCopies (place line r : Nat) : KeepsCopies s (leaveQueue s place line r) :=
  (setRsvQueue_keepsCopies ..).trans ((updRef_keepsCopies ..).trans (grantNext_keepsCopies ..))

theorem rsvTold_keepsCopies (place c : Nat) : KeepsCopies s (rsvTold s place c) := .ite _ (.of_eq rfl rfl) (.setCluster rfl)

theorem handOn_keepsCopies (place line r : Nat) : KeepsCopies s (handOn s place line r) :=
  (releasePush_keepsCopies ..).trans ((rsvTold_keepsCopies ..).trans (leaveQueue_keepsCopies ..))

theorem handLines_keepsCopies (core : Nat) : KeepsCopies s (handLines s core) := by
  refine .ite _ (.refl s) (.trans (.setCore ?_) (.foldl (fun s (h : Nat × Nat × Nat) => ?_) _ _))
  · rfl
  · exact .ite _ (handOn_keepsCopies s h.2.1 h.2.2 h.1) (.refl s)

end

end Sys2Proof.Copies
end

section
/-!
PROOF of O38, its part about instructions: COPY, COPY_NB and TCOPY (R80, R81, R85), CSEAL, CWAIT and CPOLL (R88 to R90). Each goes by
its request or its batch, and by what `pushRequest` and the joins leave of the thread.
-/

namespace Sys2Proof.Copies

open Machine Spec Laws

/-! ## A register that takes a result -/

section
variable {s : State} {d : BitVec 5} (hz : d ≠ 0) (hp : isPort d = false)
include hz hp

theorem accepts_register (hb : (s.th.scalar d).busy = false) : Accepts s d := by
  rw [Accepts, if_neg hz, if_neg (by simp [hp])]
  exact hb

theorem delivered_register (v : Word) : delivered s d v = s.setTh (s.th.setScalar d { s.th.scalar d with val := v }) := by
  rw [delivered, if_neg hz, if_neg (by simp [hp])]

/-- The register holds the result that it has taken, and nothing but the register has changed in its thread. -/
theorem delivered_register_th (v : Word) : (delivered s d v).th = s.th.setScalar d { s.th.scalar d with val := v } := by
  rw [delivered_register hz hp, State.th_setTh]

end

theorem scalar_setScalar_same (th : Thread) (d : BitVec 5) (c : Machine.Cell 32) : (th.setScalar d c).scalar d = c := lookD_put_same ..

theorem retired_th (s : State) (pc : DWord) : (retired s [] pc).th = { s.th with pc := pc, stalled := false, wait := .idle } :=
  State.th_setTh ..

/-! ## A request that is queued (R81, R88) -/

section
variable (s : State) (r : CopyReq)

theorem pushRequest_th : (pushRequest s r).th =
    { s.th with openBatch := { s.th.openBatch with issued := s.th.openBatch.issued + 1, pluck := s.th.openBatch.pluck || r.pluck } } :=
  State.th_setTh ..

theorem pushRequest_pc : (pushRequest s r).th.pc = s.th.pc := by rw [pushRequest_th]

/-- The request is the last of its core's FIFO. -/
theorem pushRequest_fifo : ((pushRequest s r).core s.myCore).copies = (s.core s.myCore).copies ++ [r] :=
  congrArg Core.copies (State.core_setCore_same s s.myCore _)

end

theorem fifoRoom_of_lt {s : State} (h : (s.core s.myCore).copies.length < 16) : fifoRoom s = true := decide_eq_true h
theorem fifoRoom_of_le {s : State} (h : 16 ≤ (s.core s.myCore).copies.length) : fifoRoom s = false :=
  decide_eq_false (Nat.not_lt.2 h)

/-! ## COPY (R80, R288) -/

/-- The four words and the two bases of a COPY. -/
structure CopyOperands (s : State) (q : BitVec 5) (bd bs : BitVec 3) (w0 w1 w2 w3 : Word) (src dst : DWord) : Prop where
  word0 : Source s q 0 w0
  word1 : Source s (q + 1) 0 w1
  word2 : Source s (q + 2) 0 w2
  word3 : Source s (q + 3) 0 w3
  srcBase : BaseSource s bs src
  dstBase : BaseSource s bd dst

/-- The request of R80's table. -/
def wordsRequest (s : State) (w0 w1 w2 w3 : Word) (src dst : DWord) : CopyReq :=
  { newRequest s w3 with src := src + w0.setWidth 64, dst := dst + w1.setWidth 64, len := w2.toNat }

section
variable {s : State} {q : BitVec 5} {z : BitVec 1} {bd bs : BitVec 3} {w0 w1 w2 w3 : Word} {src dst : DWord}
  (h : CopyOperands s q bd bs w0 w1 w2 w3 src dst)
include h

theorem readQuad_words : readQuad s q z = .ok [w0, w1, w2, w3] := by
  simp only [readQuad, readT_of_source h.word0, readT_of_source h.word1, readT_of_source h.word2, readT_of_source h.word3, bind,
    Except.bind]

theorem copyRequest_eq : copyRequest s q z bd bs =
    if controlOk w3 then .ok (wordsRequest s w0 w1 w2 w3 src dst) else .error (illegalOperand s) := by
  simp only [copyRequest, readQuad_words h, readB_of_source h.srcBase, readB_of_source h.dstBase, bind, Except.bind,
    List.getD_cons_succ, List.getD_cons_zero, require]
  cases controlOk w3
  · rfl
  · rfl

theorem copyRequest_ok (hc : controlOk w3 = true) : copyRequest s q z bd bs = .ok (wordsRequest s w0 w1 w2 w3 src dst) := by
  rw [copyRequest_eq h, if_pos hc]

theorem copyRequest_bad (hc : controlOk w3 = false) : copyRequest s q z bd bs = .error (illegalOperand s) := by
  rw [copyRequest_eq h, if_neg (by simp [hc])]

theorem copy_queues (hc : controlOk w3 = true) (hroom : (s.core s.myCore).copies.length < 16) :
    exec (.copy q z bd bs) s = .next (retired (pushRequest s (wordsRequest s w0 w1 w2 w3 src dst)) [] (s.th.pc + 4)) := by
  change execCopy q z bd bs s = _
  simp only [execCopy, copyRequest_ok h hc, fifoRoom_of_lt hroom, waitFor_true, bind, Except.bind, finish_ok, complete_eq,
    pushRequest_pc]

theorem copy_holds (hc : controlOk w3 = true) (hfull : 16 ≤ (s.core s.myCore).copies.length) :
    exec (.copy q z bd bs) s = .next (holdSlot s) := by
  change execCopy q z bd bs s = _
  simp only [execCopy, copyRequest_ok h hc, fifoRoom_of_le hfull, waitFor_false, bind, Except.bind, finish_stall]

theorem copy_traps (hc : controlOk w3 = false) :
    exec (.copy q z bd bs) s = .next (takeTrap s { cause := .illegalOperand, tval := s.th.ir.setWidth 64 }) := by
  change execCopy q z bd bs s = _
  simp only [execCopy, copyRequest_bad h hc, bind, Except.bind, illegalOperand, finish_trap]

theorem copyNb_queues {d : BitVec 5} (hd : Accepts s d) (hc : controlOk w3 = true) (hroom : (s.core s.myCore).copies.length < 16) :
    exec (.copyNb d q z bd bs) s =
      .next (retired (pushRequest (delivered s d 0) (wordsRequest s w0 w1 w2 w3 src dst)) [] (s.th.pc + 4)) := by
  change execCopyNb d q z bd bs s = _
  simp only [execCopyNb, copyRequest_ok h hc, fifoRoom_of_lt hroom, if_true, writeX_of_accepts hd, bind, Except.bind, finish_ok,
    complete_eq, pushRequest_pc, delivered_pc]

theorem copyNb_turned_away {d : BitVec 5} (hd : Accepts s d) (hc : controlOk w3 = true)
    (hfull : 16 ≤ (s.core s.myCore).copies.length) :
    exec (.copyNb d q z bd bs) s = .next (retired (delivered s d 1) [] (s.th.pc + 4)) := by
  change execCopyNb d q z bd bs s = _
  simp only [execCopyNb, copyRequest_ok h hc, fifoRoom_of_le hfull, Bool.false_eq_true, if_false, writeX_of_accepts hd, bind,
    Except.bind, finish_ok, complete_eq, delivered_pc]

end

/-! ## TCOPY (R85, R289) -/

/-- The number that bytes hold, from those before an offset and those from there on. -/
theorem memNat_append (m : List Host.Cell) (k j n : Nat) : memNat m k (j + n) = memNat m k j + 256 ^ j * memNat m (k + j) n := by
  induction j generalizing k with
  | zero => simp [memNat]
  | succ j ih =>
    rw [Nat.succ_add, memNat, memNat, ih (k + 1), show k + 1 + j = k + (j + 1) by omega, Nat.pow_succ']
    ring

/-- Eight bytes of a line at an offset. -/
theorem lineField (m : List Host.Cell) (k : Nat) {i : Nat} (h : i + 8 ≤ 64) :
    (memRead m k 64 >>> (8 * i)).toNat % 2 ^ (8 * 8) = memGetNat m (k + i) 8 := by
  have hline : memNat m k 64 = memNat m k i + 256 ^ i * memNat m (k + i) (64 - i) := by
    rw [← memNat_append, Nat.add_sub_cancel' (by omega)]
  calc (memRead m k 64 >>> (8 * i)).toNat % 2 ^ (8 * 8)
    _ = memNat m k 64 / 256 ^ i % 256 ^ 8 := by
      rw [BitVec.toNat_ushiftRight, Nat.shiftRight_eq_div_pow, memRead_toNat _ _ (Nat.le_refl _), Nat.pow_mul, Nat.pow_mul]
    _ = memNat m (k + i) (64 - i) % 256 ^ 8 := by
      rw [hline, Nat.add_mul_div_left _ _ (Nat.pow_pos (by decide)), Nat.div_eq_of_lt (memNat_lt m k i), Nat.zero_add]
    _ = memGetNat m (k + i) 8 := by rw [memNat_mod _ _ (by omega), memGetNat_eq_memNat]

/-- The request of a layout record is a tensor's, from the record's first 16 bytes. -/
theorem tensorRequest_ends {s : State} {l : Line} {r : CopyReq} (h : tensorRequest s l = .ok r) :
    r.tensor = true ∧ r.src = BitVec.ofNat 64 ((l >>> (8 * 0)).toNat % 2 ^ (8 * 8)) ∧
      r.dst = BitVec.ofNat 64 ((l >>> (8 * 8)).toNat % 2 ^ (8 * 8)) := by
  unfold tensorRequest at h
  dsimp only at h
  split at h
  · obtain rfl := Except.ok.inj h
    exact ⟨rfl, rfl, rfl⟩
  · exact nomatch h

theorem tensorRequest_addresses {s : State} {m : List Host.Cell} {k : Nat} {r : CopyReq}
    (h : tensorRequest s (memRead m k 64) = .ok r) :
    r.tensor = true ∧ r.src.toNat = memGetNat m k 8 ∧ r.dst.toNat = memGetNat m (k + 8) 8 := by
  obtain ⟨htensor, hsrc, hdst⟩ := tensorRequest_ends h
  have hfit (j : Nat) : memGetNat m j 8 % 2 ^ 64 = memGetNat m j 8 := Nat.mod_eq_of_lt (memGetNat_lt m j 8)
  rw [lineField m k (by decide), Nat.add_zero] at hsrc
  rw [lineField m k (by decide)] at hdst
  rw [hsrc, hdst, BitVec.toNat_ofNat, BitVec.toNat_ofNat, hfit, hfit]
  exact ⟨htensor, rfl, rfl⟩

section
variable {s : State} {a : BitVec 5} {z : BitVec 1} {o : Word} (ho : Source s a 0 o) (halign : o.toNat % 64 = 0)
  (hbank : o.toNat + 64 ≤ 0x38000)
include ho halign hbank

/-- The record lies in a bank that is closed to the thread (R411). -/
theorem tcopy_closed (hopen : bankOpen s (me s) s.myCore (o.toNat / 0x4000) = false) :
    exec (.tcopy a z) s = .next (takeTrap s { cause := .lsWindowFault, tval := windowAddr s s.th.vi s.myCore o.toNat }) := by
  change execTcopy a z s = _
  simp only [execTcopy, readT_of_source ho, halign, beq_self_eq_true, decide_eq_true hbank, Bool.and_self, require_true, hopen,
    require_false, bind, Except.bind, finishKeeping_trap]

variable (hopen : bankOpen s (me s) s.myCore (o.toNat / 0x4000) = true)
include hopen

/-- The record lies in a line with an uncorrectable error (R428). -/
theorem tcopy_poisoned (hbad : localKey s.myCore o.toNat / 64 ∈ s.bridge.poisoned) :
    exec (.tcopy a z) s = .next (takeTrap s { cause := .memUncorrectable, tval := windowAddr s s.th.vi s.myCore o.toNat }) := by
  change execTcopy a z s = _
  simp only [execTcopy, readT_of_source ho, halign, beq_self_eq_true, decide_eq_true hbank, Bool.and_self, require_true, hopen,
    List.contains_iff_mem.2 hbad, Bool.not_true, require_false, bind, Except.bind, finishKeeping_trap]

theorem tcopy_queues {r : CopyReq} (hgood : localKey s.myCore o.toNat / 64 ∉ s.bridge.poisoned)
    (hroom : (s.core s.myCore).copies.length < 16)
    (hr : tensorRequest s (memRead s.mem (localKey s.myCore o.toNat) 64) = .ok r) :
    exec (.tcopy a z) s = .next (retired (pushRequest s r) [a] (s.th.pc + 4)) := by
  have hsound : s.bridge.poisoned.contains (localKey s.myCore o.toNat / 64) = false := by simpa using hgood
  change execTcopy a z s = _
  simp only [execTcopy, readT_of_source ho, halign, beq_self_eq_true, decide_eq_true hbank, Bool.and_self, require_true, hopen,
    hsound, Bool.not_false, hr, fifoRoom_of_lt hroom, waitFor_true, bind, Except.bind, finishKeeping_ok, completeReading_eq,
    pushRequest_pc]

end

/-! ## CSEAL (R88, R290) -/

theorem cseal_seals {s : State} {d : BitVec 5} (hd : Accepts s d) (hroom : s.th.sealed.length < 16) :
    exec (.cseal d) s = .next (retired ((delivered s d (s.th.openBatch.number.setWidth 32)).setTh
      (sealBatch (delivered s d (s.th.openBatch.number.setWidth 32)).th)) [] (s.th.pc + 4)) := by
  change execCseal d s = _
  simp only [execCseal, decide_eq_true hroom, waitFor_true, writeX_of_accepts hd, bind, Except.bind, finish_ok, complete_eq,
    State.th_setTh, sealBatch, delivered_pc]

/-! ## Joins with the engines (R149) -/

theorem joinLease_leases (th : Thread) (k e : Nat) :
    lookD (joinLease th k).leases e {} = if e = k then { lookD th.leases e {} with done := [] } else lookD th.leases e {} := by
  split
  · next h =>
    subst h
    exact lookD_put_same ..
  · next h => exact lookD_put_other _ _ _ h

theorem joinLease_fflags (th : Thread) (k : Nat) :
    (joinLease th k).fflags = th.fflags ||| ffOf (lookD th.leases k {}).flags := rfl

/-- The join of a thread with some of its leases. -/
def joinEach (th : Thread) (l : AMap Lease) : Thread := l.foldl (fun th x => joinLease th x.1) th

theorem joinLeases_eq (th : Thread) : joinLeases th = joinEach th th.leases := rfl

theorem joinEach_pc (l : AMap Lease) (th : Thread) : (joinEach th l).pc = th.pc := by
  induction l generalizing th with
  | nil => rfl
  | cons x l ih => exact ih _

/-- A lease that is joined, or has nothing to join, has no completed operation after. -/
theorem joinEach_done (l : AMap Lease) (th : Thread) (e : Nat)
    (h : (∃ x ∈ l, x.1 = e) ∨ (lookD th.leases e {}).done = []) : (lookD (joinEach th l).leases e {}).done = [] := by
  induction l generalizing th with
  | nil => exact h.resolve_left (by simp)
  | cons x l ih =>
    refine ih (joinLease th x.1) ?_
    rw [joinLease_leases]
    by_cases hx : e = x.1
    · exact .inr (by rw [if_pos hx])
    · rw [if_neg hx]
      refine h.imp_left ?_
      rintro ⟨y, hy, rfl⟩
      exact ⟨y, (List.mem_cons.1 hy).resolve_left (fun h => hx (congrArg Prod.fst h)), rfl⟩

/-- A join takes no flag away. -/
theorem joinEach_keeps (l : AMap Lease) (th : Thread) {f : BitVec 11} (h : th.fflags ||| f = th.fflags) :
    (joinEach th l).fflags ||| f = (joinEach th l).fflags := by
  induction l generalizing th with
  | nil => exact h
  | cons x l ih =>
    refine ih (joinLease th x.1) ?_
    rw [joinLease_fflags, BitVec.or_assoc, BitVec.or_comm _ f, ← BitVec.or_assoc, h]

/-- The flags of a lease that is joined are ORed into the thread's. -/
theorem joinEach_takes (l : AMap Lease) (th : Thread) (e : Nat) (h : ∃ x ∈ l, x.1 = e) :
    (joinEach th l).fflags ||| ffOf (lookD th.leases e {}).flags = (joinEach th l).fflags := by
  induction l generalizing th with
  | nil => obtain ⟨x, hx, _⟩ := h; exact absurd hx List.not_mem_nil
  | cons x l ih =>
    obtain ⟨y, hy, rfl⟩ := h
    by_cases hx : y.1 = x.1
    · refine joinEach_keeps l (joinLease th x.1) ?_
      rw [joinLease_fflags, hx, BitVec.or_assoc, BitVec.or_self]
    · have hjoin := ih (joinLease th x.1) ⟨y, (List.mem_cons.1 hy).resolve_left (fun h => hx (congrArg Prod.fst h)), rfl⟩
      rwa [joinLease_leases, if_neg hx] at hjoin

theorem joinLeases_joins (th : Thread) (e : Nat) : (lookD (joinLeases th).leases e {}).done = [] ∧
    (joinLeases th).fflags ||| ffOf (lookD th.leases e {}).flags = (joinLeases th).fflags := by
  rw [joinLeases_eq]
  rcases mem_or_eq_of_lookD th.leases e {} with hlisted | hnone
  · exact ⟨joinEach_done _ _ _ (.inl ⟨_, hlisted, rfl⟩), joinEach_takes _ _ _ ⟨_, hlisted, rfl⟩⟩
  · refine ⟨joinEach_done _ _ _ (.inr (by rw [hnone])), ?_⟩
    rw [hnone, show ffOf (({} : Lease).flags) = 0#11 by decide, BitVec.or_zero]

/-! ## CWAIT and CPOLL (R89, R290) -/

theorem joinCluster_th (s : State) : (joinCluster s).th = s.th := rfl

theorem copyFaultCheck_passes {s : State} (h : s.th.cfault.v = false ∨ batchFinished s.th s.th.cfault.batch = false) :
    copyFaultCheck s = .ok () := by
  rw [copyFaultCheck]
  rcases h with h | h <;> simp [h]

theorem copyFaultCheck_traps {s : State} (hv : s.th.cfault.v = true) (hf : batchFinished s.th s.th.cfault.batch = true) :
    copyFaultCheck s = .error (.trap s { cause := .copyFault, tval := s.th.cfaddr }) := by
  simp [copyFaultCheck, hv, hf]

section
variable {s : State} {n : BitVec 5} (hn : s.th.sealed.length ≤ n.toNat)
include hn

theorem cwait_joins (h : s.th.cfault.v = false ∨ batchFinished s.th s.th.cfault.batch = false) :
    exec (.cwait n) s = .next (retired (joinCluster (s.setTh (joinLeases s.th))) [] (s.th.pc + 4)) := by
  change execCwait n s = _
  simp only [execCwait, decide_eq_true hn, waitFor_true, copyFaultCheck_passes h, bind, Except.bind, finish_ok, complete_eq,
    joinCluster_th, State.th_setTh, joinLeases_eq, joinEach_pc]

theorem cwait_traps (hv : s.th.cfault.v = true) (hf : batchFinished s.th s.th.cfault.batch = true) :
    exec (.cwait n) s = .next (takeTrap s { cause := .copyFault, tval := s.th.cfaddr }) := by
  change execCwait n s = _
  simp only [execCwait, decide_eq_true hn, waitFor_true, copyFaultCheck_traps hv hf, bind, Except.bind, finish_trap]

end

section
variable {s : State} {d a : BitVec 5} {z : BitVec 1} {b : Word} (hb : Source s a 0 b) (hd : Accepts s d)
include hb hd

theorem cpoll_finished (hf : batchFinished s.th (b.setWidth 16) = true) (hv : s.th.cfault.v = false) :
    exec (.cpoll d a z) s = .next (retired (joinCluster (delivered s d 1)) [a] (s.th.pc + 4)) := by
  change execCpoll d a z s = _
  simp only [execCpoll, readT_of_source hb, hf, if_true, copyFaultCheck_passes (.inl hv), writeX_of_accepts hd, bind, Except.bind,
    finishKeeping_ok, completeReading_eq, joinCluster_th, delivered_pc]

theorem cpoll_unfinished (hf : batchFinished s.th (b.setWidth 16) = false) :
    exec (.cpoll d a z) s = .next (retired (delivered s d 0) [a] (s.th.pc + 4)) := by
  change execCpoll d a z s = _
  simp only [execCpoll, readT_of_source hb, hf, Bool.false_eq_true, if_false, writeX_of_accepts hd, bind, Except.bind,
    finishKeeping_ok, completeReading_eq, delivered_pc]

end

end Sys2Proof.Copies
end

section
/-!
PROOF of O38, its part about the copy engine and the obligation: the head that is dispatched next (R81, R82), the ends of a request (R87,
R91) and of a batch (R88).
-/

namespace Sys2Proof.Copies

open Machine Spec Laws

/-! ## The head that comes first (R81) -/

section
variable {α : Type} (cls : α → Nat)

/-- The one of R17's order so far, and the next waiting thing. -/
def earlier (best : Option α) (x : α) : Option α :=
  match best with
  | some y => if cls x < cls y then some x else best
  | none => some x

theorem firstInClass_eq (l : List α) : firstInClass cls l = l.foldl (earlier cls) none := rfl

theorem earlier_some (y x : α) : ∃ z, earlier cls (some y) x = some z ∧ cls z ≤ cls y ∧ cls z ≤ cls x := by
  by_cases h : cls x < cls y
  · exact ⟨x, if_pos h, Nat.le_of_lt h, Nat.le_refl _⟩
  · exact ⟨y, if_neg h, Nat.le_refl _, Nat.le_of_not_lt h⟩

theorem foldl_earlier (l : List α) (y : α) : ∃ z, l.foldl (earlier cls) (some y) = some z ∧ ∀ x ∈ y :: l, cls z ≤ cls x := by
  induction l generalizing y with
  | nil => exact ⟨y, rfl, by simp⟩
  | cons x l ih =>
    obtain ⟨w, hw, hy, hx⟩ := earlier_some cls y x
    obtain ⟨z, hz, hleast⟩ := ih w
    obtain ⟨hzw, hrest⟩ := List.forall_mem_cons.1 hleast
    refine ⟨z, by rw [List.foldl_cons, hw, hz], ?_⟩
    exact List.forall_mem_cons.2 ⟨Nat.le_trans hzw hy, List.forall_mem_cons.2 ⟨Nat.le_trans hzw hx, hrest⟩⟩

/-- The first in R17's order is of the least class. -/
theorem firstInClass_least {l : List α} {y : α} (h : firstInClass cls l = some y) : ∀ x ∈ l, cls y ≤ cls x := by
  rw [firstInClass_eq] at h
  cases l with
  | nil => exact nomatch h
  | cons a l =>
    obtain ⟨z, hz, hleast⟩ := foldl_earlier cls l a
    obtain rfl : y = z := Option.some.inj (h.symm.trans hz)
    exact hleast

end

/-- The heads of a cluster's FIFOs whose stores have drained, by their cores' indices. -/
def drainedHeads (s : State) (k : Nat) : List (Nat × CopyReq) :=
  (List.range 16).filterMap (fun i => ((s.core (coreAt k i)).copies.head?.filter (fun r => r.after == 0)).map (fun r => (i, r)))

theorem mem_drainedHeads {s : State} {k i : Nat} {r : CopyReq} :
    (i, r) ∈ drainedHeads s k ↔ i < 16 ∧ (s.core (coreAt k i)).copies.head? = some r ∧ r.after = 0 := by
  simp [drainedHeads, List.mem_filterMap, Option.filter_eq_some_iff]

/-- The head that is taken next is one that has drained, of the least class. -/
theorem nextCopyCore_least {s : State} {k i : Nat} {r : CopyReq} (h : nextCopyCore s k = some (i, r)) :
    (i, r) ∈ drainedHeads s k ∧ ∀ x ∈ drainedHeads s k, r.cls ≤ x.2.cls := by
  unfold nextCopyCore at h
  obtain ⟨y, hy, hpick⟩ := Option.bind_eq_some_iff.1 h
  have hleast := firstInClass_least _ hy
  have hmine : (i, r) ∈ (drainedHeads s k).filter (fun x => x.2.cls == y.2.cls) := by
    dsimp only at hpick
    rw [Option.orElse_eq_or] at hpick
    rcases Option.or_eq_some_iff.1 hpick with hfound | ⟨_, hfirst⟩
    · exact List.mem_of_find?_eq_some hfound
    · exact List.mem_of_head? hfirst
  obtain ⟨hmem, hcls⟩ := List.mem_filter.1 hmine
  have hcls : r.cls = y.2.cls := by simpa using hcls
  exact ⟨hmem, fun x hx => hcls ▸ hleast x hx⟩

/-! ## Dispatch (R82) -/

/-- The state once the pushes are made that a dispatch waits for, with the clock of the core learnt by the cluster. -/
def caughtUp (s : State) (core : Nat) (r : CopyReq) : State := askCluster (releasePush s core r.place) core

theorem caughtUp_keepsCopies (s : State) (core : Nat) (r : CopyReq) : KeepsCopies s (caughtUp s core r) :=
  (releasePush_keepsCopies ..).trans (askCluster_keepsCopies ..)

/-- A request with the formats of its dispatch, and the address at which it breaks the conditions of R87. -/
def withFormats (s : State) (r : CopyReq) : CopyReq :=
  let r := { r with fmts := bankFormats s }
  { r with bad := if r.fmts.isEmpty then none else ((List.range r.rows).find? (r.breaks s)).map (fun n => (r.row_ n).1) }

/-- The head of a core's FIFO goes to its cluster's engine, after which the core of index i is passed by. -/
def movedHead (s : State) (core i : Nat) (r : CopyReq) : State :=
  let s := s.setCore core { s.core core with copies := (s.core core).copies.drop 1 }
  let x := s.cluster (clusterOf core)
  s.setCluster (clusterOf core) { x with copies := x.copies ++ [r], copyNext := put x.copyNext r.cls.toNat ((i + 1) % 16) }

theorem movedHead_fifo (s : State) (core i : Nat) (r : CopyReq) :
    ((movedHead s core i r).core core).copies = (s.core core).copies.drop 1 :=
  congrArg Core.copies (State.core_setCore_same s core _)

theorem movedHead_engine (s : State) (core i : Nat) (r : CopyReq) :
    ((movedHead s core i r).cluster (clusterOf core)).copies = (s.cluster (clusterOf core)).copies ++ [r] :=
  congrArg Cluster.copies (State.cluster_setCluster_same ..)

theorem copyDispatch_moves {s : State} {core : BitVec 9} {i : Nat} {r : CopyReq}
    (hnext : nextCopyCore s (clusterOf core.toNat) = some (i, r)) (hcore : coreAt (clusterOf core.toNat) i = core.toNat)
    (hroom : (s.cluster (clusterOf core.toNat)).copies.length < 64) : exec (.copyDispatch core) s =
      .next (handLines (movedHead (caughtUp s core.toNat r) core.toNat i (withFormats (caughtUp s core.toNat r) r)) core.toNat) := by
  change execCopyDispatch core s = _
  simp only [execCopyDispatch, hnext]
  exact if_pos ⟨hcore, hroom⟩

/-- The head leaves its FIFO and is the last of its cluster's requests in progress. -/
theorem copyDispatch_dispatches {s : State} {core : BitVec 9} {k i : Nat} {r : CopyReq} {rest : List CopyReq}
    (hk : k = clusterOf core.toNat) (hcore : coreAt k i = core.toNat) (hnext : nextCopyCore s k = some (i, r))
    (hfifo : (s.core core.toNat).copies = r :: rest) (hroom : (s.cluster k).copies.length < 64) :
    ∃ t, exec (.copyDispatch core) s = .next t ∧ (t.core core.toNat).copies = rest ∧
      (t.cluster k).copies.map (fun x => x.id) = (s.cluster k).copies.map (fun x => x.id) ++ [r.id] := by
  subst hk
  refine ⟨_, copyDispatch_moves hnext hcore hroom, ?fifo, ?engine⟩
  case fifo => rw [(handLines_keepsCopies ..).fifo, movedHead_fifo, (caughtUp_keepsCopies ..).fifo, hfifo, List.drop_one, List.tail_cons]
  case engine =>
    rw [(handLines_keepsCopies ..).engine, movedHead_engine, (caughtUp_keepsCopies ..).engine, List.map_append]
    rfl

/-! ## The end of a request (R87, R91) -/

theorem updRef_storage (s : State) (r : Nat) (f : Thread → Thread) : storage (s.updRef r f) = storage s := by
  unfold State.updRef
  split
  · rfl
  · split <;> rfl

section
variable (s : State) (k : Nat)

/-- A request that is dropped is in progress no more, whatever its thread records. -/
theorem dropRequest_gone (id r : Nat) (f : Thread → Thread) :
    ∀ x ∈ (((dropRequest s k id).updRef r f).cluster k).copies, x.id ≠ id := by
  rw [(updRef_keepsCopies ..).engine, dropRequest, State.cluster_setCluster_same]
  intro x hx
  simpa using (List.mem_filter.1 hx).2

theorem dropRequest_updRef_storage (id r : Nat) (f : Thread → Thread) : storage ((dropRequest s k id).updRef r f) = storage s :=
  updRef_storage ..

theorem dropRequest_updRef_thread {r : Nat} (h : s.live r = true) (id : Nat) (f : Thread → Thread) :
    ((dropRequest s k id).updRef r f).thread (r % 4096) = f (s.thread (r % 4096)) := by
  rw [updRef_live (s := dropRequest s k id) h, State.thread_setThread_same]
  rfl

/-- A request in progress as it stands after a piece. -/
def advanced (r : CopyReq) : State :=
  s.setCluster k { s.cluster k with copies := (s.cluster k).copies.map (fun x => if x.id = r.id then r else x) }

variable {s k} {r : CopyReq} (n : Nat)

theorem runRequest_breaks {va : DWord} (h : r.bad = some va) : runRequest k (n + 1) s r =
    .ended ((dropRequest s k r.id).updRef r.thread (fun th => recordCopy (endInBatch th r) r .illegalOperand va 0)) := by
  simp only [runRequest, h]

variable (hbad : r.bad = none) (hheld : r.held = none) (hrefused : r.refused = false)
include hbad hheld hrefused

theorem runRequest_ends (h : r.rows ≤ r.row) : runRequest k (n + 1) s r = .ended (endRequest s k r) := by
  simp only [runRequest, hbad, hheld, hrefused, Option.isSome_none, Bool.false_eq_true, if_false, if_pos h]

theorem runRequest_moves {s1 : State} {r1 : CopyReq} (h : r.row < r.rows) (hpiece : copyPiece s r = .ok (s1, r1)) :
    runRequest k (n + 1) s r = runRequest k n (advanced s1 k r1) r1 := by
  simp only [runRequest, hbad, hheld, hrefused, Option.isSome_none, Bool.false_eq_true, if_false, if_neg (Nat.not_le.2 h), hpiece,
    advanced]

end

section
variable {s : State} {k : BitVec 5} {i : Nat} {r : CopyReq} (hr : (s.cluster k.toNat).copies[i]? = some r)
include hr

theorem copyRequestEnd_of_ended {t : State} (h : runRequest k.toNat (r.pieces + 1 + 1) s r = .ended t) :
    exec (.copyRequestEnd k i) s = .next t := by
  change execCopyRequestEnd k i s = _
  simp only [execCopyRequestEnd, hr, h]

/-- A request without a byte ends. -/
theorem copyRequestEnd_empty (hbad : r.bad = none) (hheld : r.held = none) (hrefused : r.refused = false) (htensor : r.tensor = false)
    (hlen : r.len = 0) : exec (.copyRequestEnd k i) s = .next (endRequest s k.toNat r) := by
  have hrows : r.rows = 0 := by simp [CopyReq.rows, htensor, hlen]
  exact copyRequestEnd_of_ended hr (runRequest_ends _ hbad hheld hrefused (hrows ▸ Nat.zero_le _))

/-- A request ends with its last piece. -/
theorem copyRequestEnd_last {s1 : State} {r1 : CopyReq} (hbad : r.bad = none) (hheld : r.held = none) (hrefused : r.refused = false)
    (hrow : r.row < r.rows) (hpiece : copyPiece s r = .ok (s1, r1)) (hlast : r1.rows ≤ r1.row) (hbad1 : r1.bad = none)
    (hheld1 : r1.held = none) (hrefused1 : r1.refused = false) :
    exec (.copyRequestEnd k i) s = .next (endRequest (advanced s1 k.toNat r1) k.toNat r1) :=
  copyRequestEnd_of_ended hr
    ((runRequest_moves _ hbad hheld hrefused hrow hpiece).trans (runRequest_ends _ hbad1 hheld1 hrefused1 hlast))

/-- A request that breaks the conditions of R87 fails. -/
theorem copyRequestEnd_breaks {va : DWord} (h : r.bad = some va) : exec (.copyRequestEnd k i) s =
    .next ((dropRequest s k.toNat r.id).updRef r.thread (fun th => recordCopy (endInBatch th r) r .illegalOperand va 0)) :=
  copyRequestEnd_of_ended hr (runRequest_breaks _ h)

end

/-- The first failure of a thread is recorded (R91). -/
theorem recordCopy_first {th : Thread} {r : CopyReq} (hloose : r.loose = false) (hv : th.cfault.v = false) (c : Cause) (va : DWord)
    (done : Nat) : (recordCopy (endInBatch th r) r c va done).cfault.v = true ∧
      (recordCopy (endInBatch th r) r c va done).cfault.cause = c.code ∧
      (recordCopy (endInBatch th r) r c va done).cfault.batch = r.batch ∧ (recordCopy (endInBatch th r) r c va done).cfaddr = va := by
  have hkeeps : (endInBatch th r).cfault = th.cfault := by
    unfold endInBatch
    split <;> rfl
  rw [recordCopy, if_neg (by simp [hloose]), if_neg (by simp [hkeeps, hv])]
  exact ⟨rfl, rfl, rfl, rfl⟩

/-! ## The end of a batch (R88) -/

theorem refOf_mod (s : State) (n : BitVec 12) : s.refOf n.toNat % 4096 = n.toNat := by
  have := n.isLt
  rw [State.refOf]
  omega

theorem live_refOf {s : State} {n : BitVec 12} (h : (s.thread n.toNat).present = true) : s.live (s.refOf n.toNat) = true := by
  have hdiv : s.refOf n.toNat / 4096 = (s.thread n.toNat).uid := by
    have := n.isLt
    rw [State.refOf]
    omega
  rw [State.live, refOf_mod, hdiv, h, Bool.true_and, beq_self_eq_true]

theorem finishBatch_oldest {th : Thread} {b : Batch} {rest : List Batch} (h : th.sealed = b :: rest) (hended : b.ended = b.issued) :
    finishBatch th = some { th with sealed := rest, fflags := th.fflags ||| b.flags,
                                    noteBatch := if b.pluck then some b.number else th.noteBatch } := by
  simp only [finishBatch, h, if_pos hended]

theorem batchFinish_finishes {s : State} {n : BitVec 12} {b : Batch} {rest : List Batch} (hpresent : (s.thread n.toNat).present = true)
    (hsealed : (s.thread n.toNat).sealed = b :: rest) (hended : b.ended = b.issued) :
    exec (.batchFinish n) s = .next (s.setThread n.toNat { s.thread n.toNat with
      sealed := rest, fflags := (s.thread n.toNat).fflags ||| b.flags,
      noteBatch := if b.pluck then some b.number else (s.thread n.toNat).noteBatch }) := by
  have hlive := live_refOf hpresent
  have hfinish := finishBatch_oldest hsealed hended
  have href : s.byRef (s.refOf n.toNat) = s.thread n.toNat := by rw [State.byRef, if_pos hlive, refOf_mod]
  have hfirst : (s.refsOf n.toNat).find? (fun r => (finishBatch (s.byRef r)).isSome) = some (s.refOf n.toNat) :=
    List.find?_cons_of_pos (by rw [href, hfinish]; rfl)
  change execBatchFinish n s = _
  simp only [execBatchFinish, hfirst, updRef_live hlive, refOf_mod, hfinish, Option.getD_some]

/-! ## The obligation -/

/-- Settles O38: the instructions by the request or the batch that each makes (`copy_queues`, `tcopy_queues`, `cseal_seals` and the
like), the joins by `joinLeases_joins`, and the engine's events by `nextCopyCore_least`, what a release leaves, and how a request
ends. -/
theorem copyResults : Obligations.CopyResults := by
  refine ⟨⟨?copy, ?tcopy, ?record, ?close, ?wait, joinLeases_joins, ?poll⟩, ?next, ?dispatch, ?ends, ?batch⟩
  case copy =>
    intro s q z bd bs w0 w1 w2 w3 src dst h0 h1 h2 h3 hs hd
    have h : CopyOperands s q bd bs w0 w1 w2 w3 src dst := ⟨h0, h1, h2, h3, hs, hd⟩
    refine ⟨fun hc hroom => ⟨?queued, ?queuedNb⟩,
      fun hc hfull => ⟨copy_holds h hc hfull, fun d hd => copyNb_turned_away h hd hc hfull⟩, copy_traps h⟩
    case queued =>
      refine ⟨_, wordsRequest s w0 w1 w2 w3 src dst, copy_queues h hc hroom, retired_pc .., ?_, pushRequest_fifo ..,
        rfl, rfl, rfl, rfl, rfl, rfl, rfl, sameMemory_of_storage rfl⟩
      rw [retired_th, pushRequest_th]
    case queuedNb =>
      intro d hz hp hb
      refine ⟨_, wordsRequest s w0 w1 w2 w3 src dst, copyNb_queues h (accepts_register hz hp hb) hc hroom, retired_pc .., ?rd, ?fifo,
        rfl, rfl, rfl⟩
      case rd =>
        rw [retired_th, pushRequest_th, delivered_register_th hz hp]
        exact congrArg Machine.Cell.val (scalar_setScalar_same ..)
      case fifo =>
        rw [delivered_register hz hp]
        exact pushRequest_fifo ..
  case tcopy =>
    intro s a z o r ho halign hbank hopen hgood hroom hr
    exact ⟨tcopy_queues ho halign hbank hopen hgood hroom hr, tensorRequest_addresses hr⟩
  case record =>
    exact fun s a z o ho halign hbank => ⟨tcopy_closed ho halign hbank, tcopy_poisoned ho halign hbank⟩
  case close =>
    intro s d hz hp hb hroom
    have hstorage (v : Word) : storage (delivered s d v) = storage s := by
      rw [delivered_register hz hp]
      rfl
    refine ⟨_, cseal_seals (accepts_register hz hp hb) hroom, retired_pc .., ?_⟩
    rw [retired_th, State.th_setTh, delivered_register_th hz hp]
    exact ⟨congrArg Machine.Cell.val (scalar_setScalar_same ..), rfl, rfl, sameMemory_of_storage (hstorage _)⟩
  case wait => exact fun s n hn => ⟨cwait_joins hn, cwait_traps hn⟩
  case poll => exact fun s d a z b hb hd => ⟨cpoll_finished hb hd, cpoll_unfinished hb hd⟩
  case next =>
    intro s k i r h
    obtain ⟨hmem, hleast⟩ := nextCopyCore_least h
    obtain ⟨_, hhead, hafter⟩ := mem_drainedHeads.1 hmem
    exact ⟨hafter, hhead, fun j hj x hx hx0 => hleast (j, x) (mem_drainedHeads.2 ⟨hj, hx, hx0⟩)⟩
  case dispatch => exact fun s core k i r rest hk hcore hnext hfifo hroom => copyDispatch_dispatches hk hcore hnext hfifo hroom
  case ends =>
    intro s k i r hr hlive hloose
    refine ⟨?empty, ?last, ?breaks⟩
    case empty =>
      intro hbad hheld hrefused htensor hlen
      exact ⟨_, copyRequestEnd_empty hr hbad hheld hrefused htensor hlen, dropRequest_gone _ _ _ _ _,
        dropRequest_updRef_thread _ _ hlive _ _, sameMemory_of_storage (dropRequest_updRef_storage ..)⟩
    case last =>
      intro s1 r1 hbad hheld hrefused hrow hpiece hlast hid hbad1 hheld1 hrefused1
      exact ⟨_, copyRequestEnd_last hr hbad hheld hrefused hrow hpiece hlast hbad1 hheld1 hrefused1,
        hid ▸ dropRequest_gone _ _ _ _ _, mem_of_storage (dropRequest_updRef_storage ..)⟩
    case breaks =>
      intro va hbad hv
      refine ⟨_, copyRequestEnd_breaks hr hbad, ?_⟩
      rw [dropRequest_updRef_thread _ _ hlive]
      obtain ⟨hvalid, hcause, hbatch, haddr⟩ := recordCopy_first hloose hv .illegalOperand va 0
      exact ⟨hvalid, hcause, hbatch, haddr, sameMemory_of_storage (dropRequest_updRef_storage ..)⟩
  case batch => exact fun s n b rest hpresent hsealed hended => batchFinish_finishes hpresent hsealed hended

end Sys2Proof.Copies
end

section
/-!
PROOF of O13. Each constant form is one operation on a register and a word of its window (`constantForms_exec`); what the form does
follows from what reading the word gives (`constRead_unbound`, `constRead_past_end`, `constRead_loads`).
-/

namespace Sys2Proof.ConstantWindows

open Machine Spec Laws

/-! ## The word of a window (R103) -/

section
variable {s : State} {c : BitVec 2} {w : BitVec 14}

theorem constRead_unbound (h : (lookD s.th.cwsize c.toNat 0).getLsbD 31 = false) :
    constRead s c w = .error (.trap s { cause := .paramUnbound, tval := c.setWidth 64 }) := by
  simp only [constRead, h, Bool.not_false, if_true]

variable (hbound : (lookD s.th.cwsize c.toNat 0).getLsbD 31 = true)
include hbound

theorem constRead_past_end (h : (lookD s.th.cwsize c.toNat 0).toNat % 2 ^ 17 ≤ 4 * w.toNat) :
    constRead s c w = .ok (s.setTh { s.th with cwoob := true }, 0) := by
  simp only [constRead, hbound, Bool.not_true, Bool.false_eq_true, if_false, h, if_true]

theorem constRead_loads {s1 : State} {l : Line} (h : 4 * w.toNat < (lookD s.th.cwsize c.toNat 0).toNat % 2 ^ 17)
    (hl : loadBytes s (me s) (lookD s.th.cwbase c.toNat 0 + BitVec.ofNat 64 (4 * w.toNat)) 4 2 = .ok (s1, l)) :
    constRead s c w = .ok (s1, l.setWidth 32) := by
  simp only [constRead, hbound, Bool.not_true, Bool.false_eq_true, if_false, Nat.not_le.2 h, hl, atIssue, bind, Except.bind]

end

/-! ## The forms (R203) -/

theorem minSigned_eq : minSigned = fun x y : Word => if x.toInt ≤ y.toInt then x else y := by
  funext x y
  by_cases h : x.toInt ≤ y.toInt
  · simp [minSigned, BitVec.slt, h]
  · simp [minSigned, BitVec.slt, h, Int.not_le.1 h]

theorem maxSigned_eq : maxSigned = fun x y : Word => if x.toInt ≤ y.toInt then y else x := by
  funext x y
  rcases lt_trichotomy x.toInt y.toInt with h | h | h
  · simp [maxSigned, BitVec.slt, h, h.le]
  · simp [maxSigned, BitVec.slt, BitVec.eq_of_toInt_eq h]
  · simp [maxSigned, BitVec.slt, Int.not_le.2 h, Int.not_lt.2 h.le]

theorem boolWord_slt (x y : Word) : boolWord (x.slt y) = if x.toInt < y.toInt then 1 else 0 := by
  simp [boolWord, BitVec.slt]

/-- Each form is its operation on a register and a word of its window. -/
theorem constantForms_exec : ∀ e ∈ constantForms, ∀ s d a c w, exec (e.1 d a c w) s = constForm e.2 d a c w s := by
  intro e he s d a c w
  simp only [constantForms, List.mem_cons, List.not_mem_nil, or_false] at he
  rcases he with rfl | rfl | rfl | rfl | rfl | rfl | rfl | rfl | rfl
  iterate 6
    · rfl
  · change constForm minSigned d a c w s = _
    rw [minSigned_eq]
  · change constForm maxSigned d a c w s = _
    rw [maxSigned_eq]
  · change constForm (fun x y => boolWord (x.slt y)) d a c w s = _
    simp only [boolWord_slt]

section
variable {f : Word → Word → Word} {s s1 : State} {d a : BitVec 5} {c : BitVec 2} {w : BitVec 14} {x y : Word} (hx : Source s a 0 x)
include hx

theorem constForm_traps {r : TrapReq} (h : constRead s c w = .error (.trap s r)) : constForm f d a c w s = .next (takeTrap s r) := by
  simp only [constForm, readP_of_source hx, h, bind, Except.bind, finishKeeping_trap]

theorem constForm_completes (h : constRead s c w = .ok (s1, y)) (hd : Accepts s1 d) :
    constForm f d a c w s = .next (retired (delivered s1 d (f x y)) [a] (s1.th.pc + 4)) := by
  simp only [constForm, readP_of_source hx, h, writeX_of_accepts hd, trapIn, bind, Except.bind, finishKeeping_ok, completeReading_eq,
    delivered_pc]

end

/-- Settles O13: a form does what its operation makes of the word that its window gives. -/
theorem constantWindow : Obligations.ConstantWindow := by
  intro s d a c w x hx e he
  rw [constantForms_exec e he]
  refine ⟨fun hunbound => constForm_traps hx (constRead_unbound hunbound), ?pastEnd, ?inRange⟩
  case pastEnd =>
    intro hbound hend hd
    rw [constForm_completes hx (constRead_past_end hbound hend) hd, State.th_setTh]
  case inRange =>
    intro s1 l hbound hin hl hd
    rw [constForm_completes hx (constRead_loads hbound hin hl) hd, ← BitVec.ofNat_toNat]

end Sys2Proof.ConstantWindows
end

section
/-!
SUPPORT. The register window: the places of its registers, the 80-byte image of a frame in memory, and what a rotation, a spill and a
fill do and leave (R97 to R100).
-/

namespace Sys2Proof.Windows

open Machine Spec Laws

/-! ## Many entries of a table -/

section
variable {α β : Type} (key : β → Nat) (val : β → α)

/-- Entries made elsewhere leave a number's value. -/
theorem lookD_puts_other (l : List β) (m : AMap α) {k : Nat} (d : α) (h : ∀ x ∈ l, key x ≠ k) :
    lookD (l.foldl (fun m x => put m (key x) (val x)) m) k d = lookD m k d := by
  induction l generalizing m with
  | nil => rfl
  | cons x l ih =>
    obtain ⟨hx, hl⟩ := List.forall_mem_cons.1 h
    rw [List.foldl_cons, ih _ hl, lookD_put_other _ _ _ hx.symm]

/-- Of entries made under different numbers each is found. -/
theorem lookD_puts_mem {l : List β} (hl : (l.map key).Nodup) (m : AMap α) (d : α) {x : β} (hx : x ∈ l) :
    lookD (l.foldl (fun m x => put m (key x) (val x)) m) (key x) d = val x := by
  induction l generalizing m with
  | nil => exact nomatch hx
  | cons y l ih =>
    obtain ⟨hy, hl⟩ := List.nodup_cons.1 hl
    rcases List.mem_cons.1 hx with rfl | hx
    · rw [List.foldl_cons, lookD_puts_other key val l _ d fun z hz heq => hy (List.mem_map.2 ⟨z, hz, heq⟩), lookD_put_same]
    · exact ih hl _ hx

end

/-! ## The places of a frame's registers (R97) -/

/-- A ring position and the next one are different. -/
theorem next_ne (p : BitVec 3) : (p + 1).toNat ≠ p.toNat := by
  bv_omega

section
variable (th : Thread) {i : BitVec 5} (hi : i.toNat < 4)
include hi

/-- `a0` to `a3` stand first in the frame. -/
theorem scalar_a : th.scalar (8 + i) = lookD th.scal (16 * th.cwp.toNat + i.toNat) {} := by
  have hr : (8 + i).toNat = 8 + i.toNat := by bv_omega
  rw [Thread.scalar, scalarPlace, hr, if_pos (by omega), Nat.add_sub_cancel_left]

/-- `w8` to `w11` stand last in the frame. -/
theorem scalar_w8 : th.scalar (20 + i) = lookD th.scal (16 * th.cwp.toNat + 12 + i.toNat) {} := by
  have hr : (20 + i).toNat = 20 + i.toNat := by bv_omega
  rw [Thread.scalar, scalarPlace, hr, if_pos (by omega), show 20 + i.toNat - 8 = 12 + i.toNat by omega, Nat.add_assoc]

/-- `k0` to `k3` stand first in the next frame. -/
theorem scalar_k : th.scalar (28 + i) = lookD th.scal (16 * (th.cwp + 1).toNat + i.toNat) {} := by
  have hr : (28 + i).toNat = 28 + i.toNat := by bv_omega
  rw [Thread.scalar, scalarPlace, hr, if_neg (by omega), if_pos (by omega), Nat.add_sub_cancel_left]

end

/-- No producer awaits `k0` to `k3`. -/
theorem k_unawaited {th : Thread} (h : ∀ i < 4, (lookD th.scal (16 * (th.cwp + 1).toNat + i) {}).busy = false) :
    (List.range 4).any (fun i => (lookD th.scal (16 * (th.cwp + 1).toNat + i) {}).busy) = false :=
  List.any_eq_false.2 fun i hi => by rw [h i (List.mem_range.1 hi)]; exact Bool.false_ne_true

/-! ## The image of a frame (R99) -/

/-- Word i of a number that is kept in memory. -/
theorem memGetNat_word (m : List Host.Cell) (k : Nat) {i : Nat} (hi : i < 16) :
    BitVec.ofNat 32 (memGetNat m k 80 / 2 ^ (32 * i)) = BitVec.ofNat 32 (memNat m (k + 4 * i) 4) := by
  have hpow : 2 ^ (32 * i) = 256 ^ (4 * i) := by
    rw [show (256 : Nat) = 2 ^ 8 by rfl, ← Nat.pow_mul, ← Nat.mul_assoc]
  have hsplit : memNat m k 80 = memNat m k (4 * i) + 256 ^ (4 * i) * memNat m (k + 4 * i) (80 - 4 * i) := by
    rw [← Copies.memNat_append, Nat.add_sub_cancel' (by omega)]
  refine BitVec.eq_of_toNat_eq ?_
  calc (BitVec.ofNat 32 (memGetNat m k 80 / 2 ^ (32 * i))).toNat
    _ = memNat m k 80 / 256 ^ (4 * i) % 256 ^ 4 := by rw [BitVec.toNat_ofNat, memGetNat_eq_memNat, hpow]; rfl
    _ = memNat m (k + 4 * i) (80 - 4 * i) % 256 ^ 4 := by
      rw [hsplit, Nat.add_mul_div_left _ _ (Nat.pow_pos (by decide)), Nat.div_eq_of_lt (memNat_lt m k _), Nat.zero_add]
    _ = memNat m (k + 4 * i) 4 := memNat_mod m _ (by omega)
    _ = (BitVec.ofNat 32 (memNat m (k + 4 * i) 4)).toNat := by
      rw [BitVec.toNat_ofNat, Nat.mod_eq_of_lt (show _ < 2 ^ 32 from memNat_lt m _ 4)]

/-- The last n registers of an image leave every other place. -/
theorem loadFrame_other (scal : AMap (Machine.Cell 32)) (pos : BitVec 3) (image : Nat) {n k : Nat} (hn : n ≤ 16)
    (h : k < 16 * pos.toNat + (16 - n) ∨ 16 * pos.toNat + 16 ≤ k) : lookD (loadFrame scal pos image n) k {} = lookD scal k {} := by
  induction n generalizing scal with
  | zero => rfl
  | succ n ih =>
    rw [loadFrame, ih _ (by omega) (by omega), lookD_put_other _ _ _ (by omega)]

/-- Each of the last n registers of an image takes its word. -/
theorem loadFrame_val (scal : AMap (Machine.Cell 32)) (pos : BitVec 3) (image : Nat) {n i : Nat} (hn : n ≤ 16) (hi : i < 16)
    (h : 16 - n ≤ i) : (lookD (loadFrame scal pos image n) (16 * pos.toNat + i) {}).val = BitVec.ofNat 32 (image / 2 ^ (32 * i)) := by
  induction n generalizing scal with
  | zero => omega
  | succ n ih =>
    rw [loadFrame]
    by_cases heq : i = 15 - n
    · rw [loadFrame_other _ _ _ (by omega) (by omega), ← heq, lookD_put_same]
    · exact ih _ (by omega) (by omega)

/-! ## Spills and fills (R98, R100) -/

theorem setThread_withMem_cur (s : State) (m : List Host.Cell) (t : Nat) (x : Thread) :
    (({ s with mem := m } : State).setThread t x).cur = s.cur := rfl

theorem th_of_cur {s : State} {t : Nat} (h : s.cur = t) : s.th = s.thread t := congrArg s.thread h

section
variable (s : State) (t : Nat)

theorem spillFrame_thread :
    (spillFrame s t).thread t = { s.thread t with wsptr := (s.thread t).wsptr + 80, resident := (s.thread t).resident - 1 } :=
  State.thread_setThread_same ..

theorem spillFrame_cur : (spillFrame s t).cur = s.cur := setThread_withMem_cur ..

theorem spillFrame_mem : (spillFrame s t).mem =
    memPutNat s.mem (bank14Key (coreOf t) (s.thread t).wsptr.toNat) 80 (frameImage (s.thread t) (oldestPos (s.thread t))) := rfl

/-- A state whose memory is that of a spill differs in the image alone. -/
theorem sameMemoryBut_of_spill {u : State} (h : u.mem = (spillFrame s t).mem) :
    SameMemoryBut s u (bank14Key (coreOf t) (s.thread t).wsptr.toNat) 80 := by
  intro j hj
  rw [h, spillFrame_mem, memByte_memPutNat_outside _ _ _ _ _ (by omega)]

theorem fillFrame_wsptr : ((fillFrame s t).thread t).wsptr = (s.thread t).wsptr - 80 := by rw [fillFrame, State.thread_setThread_same]
theorem fillFrame_resident : ((fillFrame s t).thread t).resident = (s.thread t).resident + 1 := by
  rw [fillFrame, State.thread_setThread_same]
theorem fillFrame_cwp : ((fillFrame s t).thread t).cwp = (s.thread t).cwp := by rw [fillFrame, State.thread_setThread_same]
theorem fillFrame_inup : ((fillFrame s t).thread t).inup = (s.thread t).inup := by rw [fillFrame, State.thread_setThread_same]

variable {s t} (h : (s.thread t).resident = 1)
include h

theorem fillFrame_scal : ((fillFrame s t).thread t).scal =
    loadFrame (s.thread t).scal ((s.thread t).cwp - 1) (memGetNat s.mem (bank14Key (coreOf t) ((s.thread t).wsptr - 80).toNat) 80) 16 := by
  rw [fillFrame, State.thread_setThread_same, h]
  rfl

/-- The registers of the frame that is filled below the only resident one are the words of its image. -/
theorem fillFrame_val {i : Nat} (hi : i < 16) :
    (lookD ((fillFrame s t).thread t).scal (16 * ((s.thread t).cwp - 1).toNat + i) {}).val =
      BitVec.ofNat 32 (memNat s.mem (bank14Key (coreOf t) ((s.thread t).wsptr - 80).toNat + 4 * i) 4) := by
  rw [fillFrame_scal h, loadFrame_val _ _ _ (Nat.le_refl 16) hi (by omega), memGetNat_word _ _ hi]

/-- The fill leaves the registers of the resident frame. -/
theorem fillFrame_other {i : Nat} (hi : i < 16) :
    lookD ((fillFrame s t).thread t).scal (16 * (s.thread t).cwp.toNat + i) {} =
      lookD (s.thread t).scal (16 * (s.thread t).cwp.toNat + i) {} := by
  have hne := next_ne ((s.thread t).cwp - 1)
  rw [BitVec.sub_add_cancel] at hne
  rw [fillFrame_scal h, loadFrame_other _ _ _ (Nat.le_refl 16)]
  omega

end

/-! ## Rotations (R97) -/

/-- The registers that are fresh in a new frame are none of its `a0` to `a3`. -/
theorem freshen_a (scal : AMap (Machine.Cell 32)) (pos : BitVec 3) (drawn : Nat) {i : Nat} (hi : i < 4) :
    lookD (freshen scal pos drawn) (16 * pos.toNat + i) {} = lookD scal (16 * pos.toNat + i) {} := by
  have hne := next_ne pos
  rw [freshen, lookD_puts_other Prod.fst fun p : Nat × Nat => ({ val := Config.freshRegister (drawn + p.2) } : Machine.Cell 32)]
  intro p hp
  have hplace := List.fst_mem_of_mem_zipIdx hp
  rw [List.mem_append, List.mem_map, List.mem_map] at hplace
  rcases hplace with ⟨j, _, hj⟩ | ⟨j, hj, hp⟩
  · omega
  · have := List.mem_range.1 hj
    omega

section
variable (s : State) (info : FrameInfo)

theorem rotateIn_th : (rotateIn s info).th =
    { s.th with cwp := s.th.cwp + 1, resident := s.th.resident + 1, scal := freshen s.th.scal (s.th.cwp + 1) s.drawn,
                frames := put s.th.frames (s.th.cwp + 1).toNat info } :=
  State.th_setTh ..

theorem rotateIn_cwp : (rotateIn s info).th.cwp = s.th.cwp + 1 := by rw [rotateIn_th]
theorem rotateIn_resident : (rotateIn s info).th.resident = s.th.resident + 1 := by rw [rotateIn_th]
theorem rotateIn_wsptr : (rotateIn s info).th.wsptr = s.th.wsptr := by rw [rotateIn_th]
theorem rotateIn_scal : (rotateIn s info).th.scal = freshen s.th.scal (s.th.cwp + 1) s.drawn := by rw [rotateIn_th]

/-- The caller's `k0` to `k3` are the callee's `a0` to `a3`. -/
theorem rotateIn_a {i : BitVec 5} (hi : i.toNat < 4) : (rotateIn s info).th.scalar (8 + i) = s.th.scalar (28 + i) := by
  rw [scalar_a _ hi, scalar_k _ hi, rotateIn_scal, rotateIn_cwp, freshen_a _ _ _ hi]

theorem rotateIn_topFrame : topFrame (rotateIn s info).th = info := by
  rw [rotateIn_th]
  exact lookD_put_same ..

end

/-- A return has rotated the window back and goes on at a PC. -/
def returned (s : State) (pc : DWord) : State := completeAt (s.setTh (rotateOut s.th)) pc

section
variable (s : State) (pc : DWord)

theorem completeAt_th : (completeAt s pc).th = { s.th with pc := pc, stalled := false, wait := .idle } := State.th_setTh ..

theorem returned_pc : (returned s pc).th.pc = pc := by rw [returned, completeAt_th]
theorem returned_cwp : (returned s pc).th.cwp = s.th.cwp - 1 := by rw [returned, completeAt_th, State.th_setTh, rotateOut]
theorem returned_resident : (returned s pc).th.resident = s.th.resident - 1 := by
  rw [returned, completeAt_th, State.th_setTh, rotateOut]
theorem returned_wsptr : (returned s pc).th.wsptr = s.th.wsptr := by rw [returned, completeAt_th, State.th_setTh, rotateOut]
theorem returned_inup : (returned s pc).th.inup = s.th.inup := by rw [returned, completeAt_th, State.th_setTh, rotateOut]
theorem returned_scal : (returned s pc).th.scal = s.th.scal := by rw [returned, completeAt_th, State.th_setTh, rotateOut]

/-- The callee's `a0` to `a3` are the caller's `k0` to `k3` again. -/
theorem returned_k {i : BitVec 5} (hi : i.toNat < 4) : (returned s pc).th.scalar (28 + i) = s.th.scalar (8 + i) := by
  rw [scalar_k _ hi, scalar_a _ hi, returned_scal, returned_cwp, BitVec.sub_add_cancel]

end

/-- A return to a frame that is filled first. -/
theorem returned_fill {s : State} (h : s.th.resident = 1) (pc : DWord) :
    (returned (fillFrame s s.cur) pc).th.cwp = s.th.cwp - 1 ∧ (returned (fillFrame s s.cur) pc).th.resident = 1 ∧
    (returned (fillFrame s s.cur) pc).th.wsptr = s.th.wsptr - 80 ∧
    (returned (fillFrame s s.cur) pc).th.inup = s.th.inup ∧
    (∀ i : BitVec 5, i.toNat < 4 → (returned (fillFrame s s.cur) pc).th.scalar (28 + i) = s.th.scalar (8 + i)) ∧
    ∀ i < 16, (lookD (returned (fillFrame s s.cur) pc).th.scal (16 * (s.th.cwp - 1).toNat + i) {}).val =
      BitVec.ofNat 32 (memNat s.mem (bank14Key s.myCore (s.th.wsptr - 80).toNat + 4 * i) 4) := by
  have hcwp : (fillFrame s s.cur).th.cwp = s.th.cwp := fillFrame_cwp ..
  have hresident : (fillFrame s s.cur).th.resident = s.th.resident + 1 := fillFrame_resident ..
  refine ⟨by rw [returned_cwp, hcwp], by rw [returned_resident, hresident, h], (returned_wsptr ..).trans (fillFrame_wsptr ..),
    (returned_inup ..).trans (fillFrame_inup ..), fun i hi => ?kept, fun i hi => ?filled⟩
  case kept =>
    rw [returned_k _ _ hi, scalar_a _ hi, hcwp, scalar_a _ hi]
    exact fillFrame_other h (by omega)
  case filled =>
    rw [returned_scal]
    exact fillFrame_val h hi

end Sys2Proof.Windows
end

section
/-!
PROOF of O9. CALL and CALLB by what `spillIfNeeded` answers, RET by the checks that it makes in order, each through the rotation, the
spill or the fill that it ends with; the window spiller's events are the spill and the fill themselves.
-/

namespace Sys2Proof.Windows

open Machine Spec Laws

/-! ## Calls (R97, R98, R209) -/

/-- The window has rotated for a call of a kind, which goes on at its target. -/
def entered (s : State) (ret target : DWord) (kind : BitVec 2) : State := completeAt (rotateIn s { retPc := ret, kind := kind }) target

section
variable (s : State) (ret target : DWord) (kind : BitVec 2)

theorem entered_pc : (entered s ret target kind).th.pc = target := by rw [entered, completeAt_th]
theorem entered_cwp : (entered s ret target kind).th.cwp = s.th.cwp + 1 := by rw [entered, completeAt_th, rotateIn_cwp]
theorem entered_resident : (entered s ret target kind).th.resident = s.th.resident + 1 := by
  rw [entered, completeAt_th, rotateIn_resident]
theorem entered_wsptr : (entered s ret target kind).th.wsptr = s.th.wsptr := by rw [entered, completeAt_th, rotateIn_wsptr]
theorem entered_mem : (entered s ret target kind).mem = s.mem := rfl

theorem entered_topFrame : topFrame (entered s ret target kind).th = { retPc := ret, kind := kind } := by
  rw [entered, completeAt_th]
  exact rotateIn_topFrame ..

theorem entered_a {i : BitVec 5} (hi : i.toNat < 4) : (entered s ret target kind).th.scalar (8 + i) = s.th.scalar (28 + i) := by
  rw [entered, completeAt_th]
  exact rotateIn_a _ _ hi

theorem entered_called : Called s (entered s (s.th.pc + 4) target kind) kind :=
  ⟨entered_cwp .., entered_resident .., entered_topFrame .., fun _ hi => entered_a _ _ _ _ hi, entered_mem ..⟩

end

section
variable {s : State}

theorem spillIfNeeded_room (h : s.th.resident < 4) : spillIfNeeded s = .ok s := if_pos h

variable (h : 4 ≤ s.th.resident)
include h

theorem spillIfNeeded_overflows (hfits : spillFits s.th = false) :
    spillIfNeeded s = .error (.trap s { cause := .windowOverflow, tval := s.th.wsptr.setWidth 64 }) := by
  simp only [spillIfNeeded, Nat.not_lt.2 h, if_false, hfits, Bool.not_false, if_true]

variable (hfits : spillFits s.th = true)
include hfits

theorem spillIfNeeded_waits (hbusy : frameBusy s.th (oldestPos s.th) = true) : spillIfNeeded s = .error (.stall s) := by
  simp only [spillIfNeeded, Nat.not_lt.2 h, if_false, hfits, Bool.not_true, Bool.false_eq_true, hbusy, if_true]

theorem spillIfNeeded_spills (hbusy : frameBusy s.th (oldestPos s.th) = false) : spillIfNeeded s = .ok (spillFrame s s.cur) := by
  simp only [spillIfNeeded, Nat.not_lt.2 h, if_false, hfits, Bool.not_true, Bool.false_eq_true, hbusy]

end

/-- What a call does, by the spill that comes before it. -/
theorem callTo_eq (s : State) (target : DWord) (kind : BitVec 2) :
    callTo s target kind = spillIfNeeded s >>= fun u => .ok (entered u (s.th.pc + 4) target kind) := rfl

section
variable {s : State} (h : s.th.inpl = false)
include h

theorem call_calls (i : BitVec 26) : exec (.call i) s = finish (callTo s (s.th.pc + 4 * i.signExtend 64) 0) := by
  change execCall i s = _
  simp only [execCall, h, Bool.not_false, require_true, bind, Except.bind, pcRelative]

theorem callb_calls {b : BitVec 3} {x : DWord} (hb : BaseSource s b x) (hx : x.toNat % 4 = 0) (z : BitVec 1) :
    exec (.callb b z) s = finish (callTo s x 1) := by
  change execCallb b z s = _
  simp only [execCallb, h, readB_of_source hb, hx, Bool.not_false, beq_self_eq_true, require_true, bind, Except.bind]

end

/-- In a pluck handler there are no calls. -/
theorem calls_illegal_in_pluck {s : State} (h : s.th.inpl = true) (i : BitVec 26) (b : BitVec 3) (z : BitVec 1) :
    ∀ x ∈ [Instr.call i, .callb b z],
      exec x s = .next (takeTrap s { cause := .illegalOperand, tval := s.th.ir.setWidth 64 }) := by
  intro x hx
  simp only [List.mem_cons, List.not_mem_nil, or_false] at hx
  rcases hx with rfl | rfl
  · change execCall i s = _
    simp only [execCall, h, Bool.not_true, require_false, bind, Except.bind]
    rfl
  · change execCallb b z s = _
    simp only [execCallb, h, Bool.not_true, require_false, bind, Except.bind]
    rfl

section
variable {s : State} {j : Instr} {target : DWord} {kind : BitVec 2} (hj : exec j s = finish (callTo s target kind))
include hj

theorem call_rotates (h : s.th.resident < 4) : exec j s = .next (entered s (s.th.pc + 4) target kind) := by
  rw [hj, callTo_eq, spillIfNeeded_room h]
  rfl

variable (h : 4 ≤ s.th.resident)
include h

theorem call_overflows (hfits : spillFits s.th = false) :
    exec j s = .next (takeTrap s { cause := .windowOverflow, tval := s.th.wsptr.setWidth 64 }) := by
  rw [hj, callTo_eq, spillIfNeeded_overflows h hfits]
  rfl

variable (hfits : spillFits s.th = true)
include hfits

theorem call_waits (hbusy : frameBusy s.th (oldestPos s.th) = true) : exec j s = .next (holdSlot s) := by
  rw [hj, callTo_eq, spillIfNeeded_waits h hfits hbusy]
  rfl

theorem call_spills (hbusy : frameBusy s.th (oldestPos s.th) = false) :
    exec j s = .next (entered (spillFrame s s.cur) (s.th.pc + 4) target kind) := by
  rw [hj, callTo_eq, spillIfNeeded_spills h hfits hbusy]
  rfl

end

/-- A call that spills the oldest frame leaves as many frames resident. -/
theorem entered_spill {s : State} (h : 4 ≤ s.th.resident) (ret target : DWord) (kind : BitVec 2) :
    (entered (spillFrame s s.cur) ret target kind).th.wsptr = s.th.wsptr + 80 ∧
    (entered (spillFrame s s.cur) ret target kind).th.resident = s.th.resident ∧
    (entered (spillFrame s s.cur) ret target kind).th.cwp = s.th.cwp + 1 := by
  have hth : (spillFrame s s.cur).th = { s.th with wsptr := s.th.wsptr + 80, resident := s.th.resident - 1 } :=
    (th_of_cur (spillFrame_cur ..)).trans (spillFrame_thread ..)
  rw [entered_wsptr, entered_resident, entered_cwp, hth]
  exact ⟨rfl, Nat.sub_add_cancel (by omega), rfl⟩

/-! ## Returns (R98, R209) -/

theorem ret_illegal {s : State} (h : (topFrame s.th).kind = 3) :
    exec .ret s = .next (takeTrap s { cause := .illegalOperand, tval := s.th.ir.setWidth 64 }) := by
  change execRet s = _
  simp only [execRet, h, bne_self_eq_false, require_false, bind, Except.bind]
  rfl

section
variable {s : State} (hkind : (topFrame s.th).kind ≠ 3)
include hkind

theorem ret_underflows (h : s.th.resident ≤ 1) (hnone : spilledExist s.th = false) :
    exec .ret s = .next (takeTrap s { cause := .windowUnderflow, tval := s.th.wsptr.setWidth 64 }) := by
  change execRet s = _
  simp only [execRet, bne_iff_ne.2 hkind, Nat.not_lt.2 h, hnone, decide_false, Bool.or_self, require_true, require_false, bind,
    Except.bind, finish_trap]

variable (hframe : frameBusy s.th s.th.cwp = false)
  (hk : ∀ i < 4, (lookD s.th.scal (16 * (s.th.cwp + 1).toNat + i) {}).busy = false)
include hframe hk

theorem ret_rotates (h : 1 < s.th.resident) : exec .ret s = .next (returned s (topFrame s.th).retPc) := by
  change execRet s = _
  simp only [execRet, bne_iff_ne.2 hkind, h, hframe, k_unawaited hk, decide_true, Bool.true_or, Bool.not_false, Bool.and_self,
    require_true, waitFor_true, if_true, bind, Except.bind]
  rfl

variable (h : s.th.resident = 1) (hspilled : spilledExist s.th = true)
include h hspilled

theorem ret_bad_limits (hbad : windowBad s.th = true) :
    exec .ret s = .next (takeTrap s { cause := .windowOverflow, tval := s.th.wsptr.setWidth 64 }) := by
  change execRet s = _
  simp only [execRet, bne_iff_ne.2 hkind, h, hspilled, hframe, k_unawaited hk, hbad, Nat.lt_irrefl, decide_false, Bool.false_or,
    Bool.not_false, Bool.not_true, Bool.and_self, require_true, require_false, waitFor_true, if_false, bind, Except.bind, finish_trap]

variable (hgood : windowBad s.th = false)
include hgood

/-- With no older frame resident the return fills one, unless its image is bad. -/
theorem ret_checks_image : exec .ret s =
    finish (frameReadable s >>= fun _ => .ok (returned (fillFrame s s.cur) (topFrame s.th).retPc)) := by
  change execRet s = _
  simp only [execRet, bne_iff_ne.2 hkind, h, hspilled, hframe, k_unawaited hk, hgood, Nat.lt_irrefl, decide_false, Bool.false_or,
    Bool.not_false, Bool.and_self, require_true, waitFor_true, if_false, bind, Except.bind]
  rfl

end

section
variable {s : State}

theorem frameReadable_good (h : frameBad s s.cur = false) : frameReadable s = .ok () := by
  simp only [frameReadable, h, Bool.not_false, require_true]

theorem frameReadable_bad (h : frameBad s s.cur = true) : frameReadable s = .error (.trap s
    { cause := .memUncorrectable, tval := windowAddr s s.th.vi s.myCore (14 * 0x4000 + (s.th.wsptr - 80).toNat) }) := by
  simp only [frameReadable, h, Bool.not_true, require_false]
  rfl

end

/-! ## The window spiller (R98) -/

section
variable {s : State} {n : BitVec 12} (hpresent : (s.thread n.toNat).present = true) (hbubbles : hasBubbles s (coreOf n.toNat) = true)
include hpresent hbubbles

theorem windowSpill_spills (hres : (s.thread n.toNat).resident = 4) (hfits : spillFits (s.thread n.toNat) = true)
    (hbusy : frameBusy (s.thread n.toNat) (oldestPos (s.thread n.toNat)) = false) :
    exec (.windowSpill n) s = .next (spillFrame s n.toNat) := by
  change execWindowSpill n s = _
  simp only [execWindowSpill, hpresent, hbubbles, hres, hfits, hbusy, beq_self_eq_true, Bool.not_false, Bool.and_self, if_true]

theorem windowFill_fills (hres : (s.thread n.toNat).resident = 1) (hgood : windowBad (s.thread n.toNat) = false)
    (hspilled : spilledExist (s.thread n.toNat) = true) (himage : frameBad s n.toNat = false) :
    exec (.windowFill n) s = .next (fillFrame s n.toNat) := by
  change execWindowFill n s = _
  simp only [execWindowFill, hpresent, hbubbles, hres, hgood, hspilled, himage, Nat.one_lt_two, decide_true, Bool.not_false,
    Bool.and_self, if_true]

end

/-! ## The obligation -/

/-- Settles O9: calls by `call_rotates`, `call_spills` and the ways a spill fails; returns by `ret_rotates` and, with a fill first,
`returned_fill`; the spiller by the spill and the fill. -/
theorem windowRotations : Obligations.WindowRotations := by
  refine ⟨?calls, ?spills, ⟨?returns, ?underflow, ?upcallFrame, ?pluck⟩, ?spiller, ?filler⟩
  case calls =>
    intro s hp hroom
    exact ⟨fun i => ⟨_, call_rotates (call_calls hp i) hroom, entered_pc .., entered_called ..⟩,
      fun b z x hb hx => ⟨_, call_rotates (callb_calls hp hb hx z) hroom, entered_pc .., entered_called ..⟩⟩
  case spills =>
    intro s j target kind hp hfull hcall
    have hj : exec j s = finish (callTo s target kind) := by
      rcases hcall with ⟨i, rfl, rfl, rfl⟩ | ⟨b, z, rfl, hb, hx, rfl⟩
      · exact call_calls hp i
      · exact callb_calls hp hb hx z
    refine ⟨fun hfits hbusy => ?_, call_waits hj hfull, call_overflows hj hfull⟩
    obtain ⟨hwsptr, hresident, hcwp⟩ := entered_spill hfull (s.th.pc + 4) target kind
    exact ⟨_, call_spills hj hfull hfits hbusy, entered_pc .., hwsptr, hresident, hcwp, entered_topFrame ..,
      (entered_mem ..).trans (spillFrame_mem ..), sameMemoryBut_of_spill s s.cur (entered_mem ..)⟩
  case returns =>
    intro s hkind hframe hk
    refine ⟨?resident, ?filled, ?badImage, ret_bad_limits hkind hframe hk⟩
    case resident =>
      intro h
      exact ⟨_, ret_rotates hkind hframe hk h, returned_pc .., returned_cwp .., returned_resident ..,
        fun i hi => returned_k _ _ hi, rfl⟩
    case filled =>
      intro h hspilled hgood himage
      obtain ⟨hcwp, hresident, hwsptr, _, hk', hvals⟩ := returned_fill h (topFrame s.th).retPc
      refine ⟨_, ?_, returned_pc .., hcwp, hresident, hwsptr, rfl, hk', hvals⟩
      rw [ret_checks_image hkind hframe hk h hspilled hgood, frameReadable_good himage]
      rfl
    case badImage =>
      intro h hspilled hgood himage
      rw [ret_checks_image hkind hframe hk h hspilled hgood, frameReadable_bad himage]
      rfl
  case underflow => exact fun s hkind h hnone => ret_underflows hkind h hnone
  case upcallFrame => exact fun s => ret_illegal
  case pluck => exact fun s i b z h => calls_illegal_in_pluck h i b z
  case spiller =>
    intro s n hpresent hres hfits hbusy hbubbles
    refine ⟨_, windowSpill_spills hpresent hbubbles hres hfits hbusy, ?_, ?_, sameMemoryBut_of_spill s n.toNat rfl⟩
    · rw [spillFrame_thread]
    · rw [spillFrame_thread, hres]
  case filler =>
    intro s n hpresent hres hgood hspilled himage hbubbles
    exact ⟨_, windowFill_fills hpresent hbubbles hres hgood hspilled himage, fillFrame_wsptr ..,
      by rw [fillFrame_resident, hres], rfl, fun i hi => fillFrame_val hres hi⟩

end Sys2Proof.Windows
end

section
/-!
PROOF of O25. XRET by the mode that it issues in, UPRET by the checks that it makes in order and the return, with a fill first where the
caller's frame is spilled, PLRET by the registers that it restores.
-/

namespace Sys2Proof.Windows

open Machine Spec Laws

/-! ## XRET (R313, R377) -/

/-- The two high bits of TH_CAUSE, as the mode that XRET from S mode returns to. -/
theorem returnMode_from_s (cause : Word) :
    (Mode.ofCode (BitVec.ofNat 2 (cause.toNat / 2 ^ 30))).min .s = if cause.toNat / 2 ^ 30 = 0 then .u else .s := by
  have hcode : ∀ n < 4, (Mode.ofCode (BitVec.ofNat 2 n)).min .s = if n = 0 then .u else .s := by decide
  exact hcode _ (Nat.div_lt_of_lt_mul cause.isLt)

theorem unveil_epc (th : Thread) : th.unveil.epc = th.epc := by
  unfold Thread.unveil
  split <;> rfl

section
variable {s : State}

theorem xret_ends (h : s.th.mode ≠ .u) (hend : s.th.ends = true ∨ s.th.refusal = true) :
    exec .xret s = .next (emptySlot s s.cur) := by
  change execXret s = _
  simp only [execXret, needMode, SystemRegisters.covers_s_of_ne_u h, require_true, Bool.or_eq_true, hend, if_true, bind, Except.bind,
    finish_ok]

theorem xret_returns (h : s.th.mode ≠ .u) (hends : s.th.ends = false) (hrefusal : s.th.refusal = false) :
    exec .xret s = .next (returnFromTrap s) := by
  change execXret s = _
  simp only [execXret, needMode, SystemRegisters.covers_s_of_ne_u h, require_true, hends, hrefusal, Bool.or_self, Bool.false_eq_true,
    if_false, bind, Except.bind, finish_ok]

theorem returnFromTrap_storage (s : State) : storage (returnFromTrap s) = storage s := by
  unfold returnFromTrap
  dsimp only
  split <;> rfl

theorem returnFromTrap_m (h : s.th.mode = .m) : (returnFromTrap s).th =
    { s.th.release with
      pc := lookD (s.core s.myCore).mnepc (slotOf s.cur) 0,
      mode := Mode.ofCode (BitVec.ofNat 2 ((lookD (s.core s.myCore).mncause (slotOf s.cur) 0).toNat / 2 ^ 30)),
      plen := (lookD (s.core s.myCore).mncause (slotOf s.cur) 0).getLsbD 29 } := by
  simp only [returnFromTrap, h, beq_self_eq_true, if_true, State.th_setTh]

/-- From S mode: to U mode with the registers that were hidden from the executive, or to S mode. -/
theorem returnFromTrap_s (h : s.th.mode = .s) : (returnFromTrap s).th =
    { (if s.th.cause.toNat / 2 ^ 30 = 0 then s.th.unveil else s.th).release with
      pc := s.th.epc, mode := if s.th.cause.toNat / 2 ^ 30 = 0 then .u else .s, plen := s.th.cause.getLsbD 29 } := by
  have hm : (s.th.mode == Mode.m) = false := by rw [h]; rfl
  simp only [returnFromTrap, hm, Bool.false_eq_true, if_false, returnMode_from_s, State.th_setTh]
  split <;> rfl

end

/-! ## UPRET (R313, R380) -/

/-- The interrupted frame has its `k0` to `k3` again, kept in `w8` to `w11`, and the thread is in no upcall. -/
def upcallLeft (s : State) : State :=
  s.setTh { s.th with
    scal := (List.range 4).foldl (fun m i => put m (16 * s.th.cwp.toNat + i) (lookD s.th.scal (16 * s.th.cwp.toNat + 12 + i) {})) s.th.scal,
    inup := false }

section
variable (s : State)

theorem upcallLeft_cwp : (upcallLeft s).th.cwp = s.th.cwp := by rw [upcallLeft, State.th_setTh]
theorem upcallLeft_resident : (upcallLeft s).th.resident = s.th.resident := by rw [upcallLeft, State.th_setTh]
theorem upcallLeft_wsptr : (upcallLeft s).th.wsptr = s.th.wsptr := by rw [upcallLeft, State.th_setTh]
theorem upcallLeft_inup : (upcallLeft s).th.inup = false := by rw [upcallLeft, State.th_setTh]

theorem upcallLeft_scal : (upcallLeft s).th.scal =
    (List.range 4).foldl (fun m i => put m (16 * s.th.cwp.toNat + i) (lookD s.th.scal (16 * s.th.cwp.toNat + 12 + i) {})) s.th.scal := by
  rw [upcallLeft, State.th_setTh]

theorem upcallLeft_a {i : BitVec 5} (hi : i.toNat < 4) : (upcallLeft s).th.scalar (8 + i) = s.th.scalar (20 + i) := by
  have hdiff : ((List.range 4).map (fun i => 16 * s.th.cwp.toNat + i)).Nodup := List.nodup_range.map (add_right_injective _)
  rw [scalar_a _ hi, scalar_w8 _ hi, upcallLeft_cwp, upcallLeft_scal]
  exact lookD_puts_mem (fun i => 16 * s.th.cwp.toNat + i) (fun i => lookD s.th.scal (16 * s.th.cwp.toNat + 12 + i) {}) hdiff
    _ _ (List.mem_range.2 hi)

end

theorem upret_illegal {s : State} (h : s.th.inpl = true ∨ (topFrame s.th).kind ≠ 3) :
    exec .upret s = .next (takeTrap s { cause := .illegalOperand, tval := s.th.ir.setWidth 64 }) := by
  have hc : (!s.th.inpl && (topFrame s.th).kind == 3) = false := by
    rcases h with h | h
    · rw [h]; rfl
    · rw [beq_eq_false_iff_ne.2 h, Bool.and_false]
  change execUpret s = _
  simp only [execUpret, hc, require_false, bind, Except.bind]
  rfl

/-- An address is aligned as its low word is. -/
theorem pc_mod_four (hi lo : Word) : (hi ++ lo : DWord).toNat % 4 = lo.toNat % 4 := by
  rw [BitVec.toNat_append, ← Nat.shiftLeft_add_eq_or_of_lt lo.isLt, Nat.shiftLeft_eq]
  omega

theorem pc_aligned {hi lo : Word} (h : lo.toNat % 4 = 0) : ((hi ++ lo : DWord).toNat % 4 == 0) = true := by
  rw [pc_mod_four, h]
  rfl

theorem leaves_upcall {th : Thread} (hp : th.inpl = false) (hkind : (topFrame th).kind = 3) :
    (!th.inpl && (topFrame th).kind == 3) = true := by
  rw [hp, hkind]
  rfl

/-- No producer awaits a register that the return leaves or gives back. -/
theorem frames_unawaited {th : Thread} (hframe : frameBusy th th.cwp = false)
    (hk : ∀ i < 4, (lookD th.scal (16 * (th.cwp + 1).toNat + i) {}).busy = false) :
    (!frameBusy th th.cwp && !anyBusy th ((List.range 4).map (fun i => 16 * (th.cwp + 1).toNat + i))) = true := by
  have hfree : anyBusy th ((List.range 4).map (fun i => 16 * (th.cwp + 1).toNat + i)) = false :=
    (List.any_map ..).trans (k_unawaited hk)
  rw [hframe, hfree]
  rfl

section
variable {s : State} {lo hi : Word} (hp : s.th.inpl = false) (hkind : (topFrame s.th).kind = 3) (hlo : Source s 9 0 lo)
  (hhi : Source s 10 0 hi)
include hp hkind hlo hhi

theorem upret_misaligned (h : lo.toNat % 4 ≠ 0) :
    exec .upret s = .next (takeTrap s { cause := .misaligned, tval := hi ++ lo }) := by
  change execUpret s = _
  simp only [execUpret, leaves_upcall hp hkind, readP_of_source hlo, readP_of_source hhi, pc_mod_four, beq_eq_false_iff_ne.2 h,
    require_true, require_false, bind, Except.bind]
  rfl

variable (halign : lo.toNat % 4 = 0)
include halign

theorem upret_underflows (h : s.th.resident ≤ 1) (hnone : spilledExist s.th = false) :
    exec .upret s = .next (takeTrap s { cause := .windowUnderflow, tval := s.th.wsptr.setWidth 64 }) := by
  change execUpret s = _
  simp only [execUpret, leaves_upcall hp hkind, readP_of_source hlo, readP_of_source hhi, pc_aligned halign, Nat.not_lt.2 h, hnone,
    decide_false, Bool.or_self, require_true, require_false, bind, Except.bind, finish_trap]

theorem upret_bad_limits (h : s.th.resident = 1) (hspilled : spilledExist s.th = true) (hbad : windowBad s.th = true) :
    exec .upret s = .next (takeTrap s { cause := .windowOverflow, tval := s.th.wsptr.setWidth 64 }) := by
  change execUpret s = _
  simp only [execUpret, leaves_upcall hp hkind, readP_of_source hlo, readP_of_source hhi, pc_aligned halign, Nat.not_lt.2 h.le, hspilled,
    hbad, Bool.not_true, decide_false, Bool.false_or, require_true, require_false, bind, Except.bind, finish_trap]

variable (hframe : frameBusy s.th s.th.cwp = false)
  (hk : ∀ i < 4, (lookD s.th.scal (16 * (s.th.cwp + 1).toNat + i) {}).busy = false)
include hframe hk

theorem upret_rotates (h : 1 < s.th.resident) : exec .upret s = .next (returned (upcallLeft s) (hi ++ lo)) := by
  change execUpret s = _
  simp only [execUpret, leaves_upcall hp hkind, readP_of_source hlo, readP_of_source hhi, pc_aligned halign, h, frames_unawaited hframe hk,
    decide_true, Bool.true_or, require_true, waitFor_true, if_true, bind, Except.bind]
  rfl

/-- With no older frame resident the return fills one, unless its image is bad. -/
theorem upret_checks_image (h : s.th.resident = 1) (hspilled : spilledExist s.th = true) (hgood : windowBad s.th = false) :
    exec .upret s =
      finish (frameReadable s >>= fun _ => .ok (returned (fillFrame (upcallLeft s) (upcallLeft s).cur) (hi ++ lo))) := by
  change execUpret s = _
  simp only [execUpret, leaves_upcall hp hkind, readP_of_source hlo, readP_of_source hhi, pc_aligned halign, Nat.not_lt.2 h.le, hspilled,
    hgood, frames_unawaited hframe hk, decide_false, Bool.false_or, Bool.not_false, require_true, waitFor_true, if_false, bind, Except.bind]
  rfl

end

/-- A return from an upcall to a frame that is filled first. -/
theorem upcallLeft_fill {s : State} (h : s.th.resident = 1) (pc : DWord) :
    ∃ t, t = returned (fillFrame (upcallLeft s) (upcallLeft s).cur) pc ∧ t.th.pc = pc ∧ t.th.cwp = s.th.cwp - 1 ∧ t.th.resident = 1 ∧
      t.th.wsptr = s.th.wsptr - 80 ∧ t.th.inup = false ∧ SameMemory s t ∧
      (∀ i : BitVec 5, i.toNat < 4 → t.th.scalar (28 + i) = s.th.scalar (20 + i)) ∧
      ∀ i < 16, (lookD t.th.scal (16 * (s.th.cwp - 1).toNat + i) {}).val =
        BitVec.ofNat 32 (memNat s.mem (bank14Key s.myCore (s.th.wsptr - 80).toNat + 4 * i) 4) := by
  obtain ⟨hcwp, hresident, hwsptr, hinup, hk, hvals⟩ := returned_fill ((upcallLeft_resident s).trans h) pc
  rw [upcallLeft_cwp] at hcwp hvals
  rw [upcallLeft_wsptr] at hwsptr hvals
  rw [upcallLeft_inup] at hinup
  exact ⟨_, rfl, returned_pc .., hcwp, hresident, hwsptr, hinup, sameMemory_of_storage (s := s) rfl,
    fun i hi => (hk i hi).trans (upcallLeft_a s hi), hvals⟩

/-! ## PLRET (R389) -/

theorem plret_illegal {s : State} (h : s.th.inpl = false) :
    exec .plret s = .next (takeTrap s { cause := .illegalOperand, tval := s.th.ir.setWidth 64 }) := by
  change execPlret s = _
  simp only [execPlret, h, require_false, bind, Except.bind]
  rfl

/-- The thread after a pluck, with its `w8` to `w11` from their shadows. -/
def pluckLeft (th : Thread) : Thread :=
  { th with scal := ((w8Places th).zip th.shadow).foldl (fun m x => put m x.1 x.2) th.scal, inpl := false, plsrc := 0 }

theorem plret_returns {s : State} (h : s.th.inpl = true) (hfree : anyBusy s.th (w8Places s.th) = false) :
    exec .plret s = .next (completeAt (s.setTh (pluckLeft s.th)) s.th.plpc) := by
  change execPlret s = _
  simp only [execPlret, h, hfree, Bool.not_false, require_true, waitFor_true, bind, Except.bind]
  rfl

theorem w8Places_getElem? (th : Thread) {i : Nat} (hi : i < 4) : (w8Places th)[i]? = some (16 * th.cwp.toNat + 12 + i) := by
  rw [w8Places, List.getElem?_map, List.getElem?_range hi]
  rfl

theorem pluckLeft_w8 {th : Thread} (h : th.shadow.length = 4) {i : BitVec 5} (hi : i.toNat < 4) :
    th.shadow[i.toNat]? = some ((pluckLeft th).scalar (20 + i)) := by
  have hc := List.getElem?_eq_getElem (h ▸ hi : i.toNat < th.shadow.length)
  have hmem : (16 * th.cwp.toNat + 12 + i.toNat, th.shadow[i.toNat]) ∈ (w8Places th).zip th.shadow :=
    List.mem_of_getElem? (List.getElem?_zip_eq_some.2 ⟨w8Places_getElem? th hi, hc⟩)
  have hdiff : (((w8Places th).zip th.shadow).map Prod.fst).Nodup := by
    rw [List.map_fst_zip (by simp [w8Places, h])]
    exact List.nodup_range.map (add_right_injective _)
  rw [hc, scalar_w8 _ hi]
  exact congrArg some (lookD_puts_mem Prod.fst Prod.snd hdiff th.scal {} hmem).symm

/-! ## The obligation -/

/-- Settles O25: XRET by `returnFromTrap_s` and `returnFromTrap_m`, UPRET by `upret_rotates` and `upcallLeft_fill` and the ways it traps,
PLRET by `pluckLeft_w8`. -/
theorem handlerReturns : Obligations.HandlerReturns := by
  refine ⟨⟨?fromS, fun s => xret_ends, ?fromM⟩, ?rotates, ?checks, ?pluck, fun s => upret_illegal, fun s => plret_illegal⟩
  case fromS =>
    intro s hmode hends hrefusal
    refine ⟨_, xret_returns (by rw [hmode]; decide) hends hrefusal, ?_⟩
    rw [returnFromTrap_s hmode]
    refine ⟨rfl, rfl, rfl, ?scal, ?epc, sameMemory_of_storage (returnFromTrap_storage s)⟩
    case scal => split <;> rfl
    case epc =>
      split
      · exact unveil_epc s.th
      · rfl
  case fromM =>
    intro s hmode hends hrefusal
    refine ⟨_, xret_returns (by rw [hmode]; decide) hends hrefusal, ?_⟩
    rw [returnFromTrap_m hmode]
    exact ⟨rfl, rfl, rfl, sameMemory_of_storage (returnFromTrap_storage s)⟩
  case rotates =>
    intro s lo hi hp hkind hlo hhi halign h hframe hk
    refine ⟨_, upret_rotates hp hkind hlo hhi halign hframe hk h, returned_pc .., ?cwp, ?inup, fun i hi => ?kept,
      sameMemory_of_storage (s := s) rfl⟩
    case cwp => rw [returned_cwp, upcallLeft_cwp]
    case inup => rw [returned_inup, upcallLeft_inup]
    case kept => rw [returned_k _ _ hi, upcallLeft_a s hi]
  case checks =>
    intro s lo hi hp hkind hlo hhi
    refine ⟨upret_misaligned hp hkind hlo hhi, upret_underflows hp hkind hlo hhi, upret_bad_limits hp hkind hlo hhi, ?_⟩
    intro halign h hspilled hgood hframe hk
    rw [upret_checks_image hp hkind hlo hhi halign hframe hk h hspilled hgood]
    refine ⟨fun hbad => ?_, fun himage => ?_⟩
    · rw [frameReadable_bad hbad]
      rfl
    · rw [frameReadable_good himage]
      obtain ⟨t, rfl, ht⟩ := upcallLeft_fill h (hi ++ lo)
      exact ⟨_, rfl, ht⟩
  case pluck =>
    intro s h hfree hlen
    refine ⟨_, plret_returns h hfree, ?_⟩
    rw [completeAt_th, State.th_setTh]
    exact ⟨rfl, rfl, fun i hi => pluckLeft_w8 hlen hi, sameMemory_of_storage (s := s) rfl⟩

end Sys2Proof.Windows
end

section
/-!
PROOF of O10. Every FP32 form is one of three shapes: an operation on two sources (`floatForms_exec`), one on a single source, and
FMA, which reads rd as well. A shape whose sources give values and whose destination takes the result delivers the rounded result and
raises its flags (`fp2_completes`, `fp1_completes`, `fma_completes`).
-/

namespace Sys2Proof.ScalarFloats

open Machine Spec Laws

/-! ## Flags and truth values -/

@[simp] theorem raise_pc (s : State) (r : Raised) : (raise s r).th.pc = s.th.pc := th_setTh_pc ..

theorem compareWord_eq (r : Bool × Raised) : compareWord r = (r.1.toNat, r.2) := by
  obtain ⟨holds, flags⟩ := r
  cases holds <;> rfl

/-! ## The three shapes (R213 to R215) -/

section
variable {s : State} {d a b : BitVec 5} {z t : BitVec 1} {x y w : Word} (hx : Source s a 0 x) (hd : Accepts s d)
include hx hd

theorem fp1_completes (f : Word → Word × Raised) :
    fp1 f d a z s = .next (retired (raise (delivered s d (f x).1) (f x).2) [a] (s.th.pc + 4)) := by
  simp only [fp1, readT_of_source hx, writeX_of_accepts hd, bind, Except.bind, finishKeeping_ok, completeReading_eq, raise_pc,
    delivered_pc]

variable (hy : Source s b (sameBefore a b) y)
include hy

theorem fp2_completes (f : Nat → Nat → Nat × Raised) :
    fp2 f d a b z t s = .next (retired (raise (delivered s d (BitVec.ofNat 32 (f x.toNat y.toNat).1)) (f x.toNat y.toNat).2) [a, b]
      (s.th.pc + 4)) := by
  simp only [fp2, readT_of_source hx, earlierReads_one, readT_of_source hy, writeX_of_accepts hd, bind, Except.bind,
    finishKeeping_ok, completeReading_eq, raise_pc, delivered_pc]

theorem fma_completes (hw : Source s d (sameBefore a d + sameBefore b d) w) :
    execFma d a b z t s =
      .next (retired (raise (delivered s d (BitVec.ofNat 32 (fpFma 11 (fpMode s) (fpSat s) x.toNat y.toNat w.toNat).1))
        (fpFma 11 (fpMode s) (fpSat s) x.toNat y.toNat w.toNat).2) [a, b, d] (s.th.pc + 4)) := by
  simp only [execFma, readT_of_source hx, earlierReads_one, readT_of_source hy, earlierReads_two, readP_of_source hw,
    writeX_of_accepts hd, bind, Except.bind, finishKeeping_ok, completeReading_eq, raise_pc, delivered_pc]

end

/-! ## The forms of two registers -/

/-- Each form is its operation on two sources, under the rounding mode and SATN of TH_FPCR. -/
theorem floatForms_exec : ∀ e ∈ floatForms, ∀ s d a b z t,
    exec (e.1 d a b z t) s = fp2 (e.2 (fpMode s) (fpSat s)) d a b z t s := by
  intro e he s d a b z t
  simp only [floatForms, List.mem_cons, List.not_mem_nil, or_false] at he
  rcases he with rfl | rfl | rfl | rfl | rfl | rfl | rfl | rfl | rfl
  iterate 6
    · rfl
  iterate 3
    · simp only [← compareWord_eq]
      rfl

/-- Settles O10: forms of two registers by `floatForms_exec` and `fp2_completes`, FMA by `fma_completes`, the others by
`fp1_completes`. -/
theorem floatResults : Obligations.FloatResults := by
  refine ⟨?twoSources, ?fma, ?oneSource⟩
  case twoSources =>
    intro s d a b z t x y hx hy hd e he
    rw [floatForms_exec e he]
    exact fp2_completes hx hd hy _
  case fma =>
    intro s d a b z t x y w hx hy hw hd
    exact fma_completes hx hd hy hw
  case oneSource =>
    intro s d a z x hx hd
    exact ⟨fp1_completes hx hd _, fp1_completes hx hd _, fun q r => fp1_completes hx hd _, fun r => fp1_completes hx hd _⟩

end Sys2Proof.ScalarFloats
end

section
/-!
SUPPORT. What a change of a lease, of an engine or of a queue leaves, and the operations that keep every lease and every engine.
-/

namespace Sys2Proof.Laws

open Machine Spec

/-! ## A change of a lease (R158) -/

section
variable {s : State} {r : Nat} (h : s.live r = true)
include h

/-- The lease in a slot of a thread that is in its own slot. -/
theorem leaseOf_live (e : Nat) : leaseOf s r e = lookD (s.thread (r % 4096)).leases e {} := by rw [leaseOf, State.byRef, if_pos h]

/-- A change that leaves who is in the slot. -/
theorem live_updRef (f : Thread → Thread) (hp : ∀ th, (f th).present = th.present) (hu : ∀ th, (f th).uid = th.uid) :
    (s.updRef r f).live r = true := by
  rw [updRef_live h, State.live, State.thread_setThread_same, hp, hu]
  exact h

theorem live_updLease (e : Nat) (f : Lease → Lease) : (updLease s r e f).live r = true :=
  live_updRef h _ (fun _ => rfl) fun _ => rfl

theorem leaseOf_updLease (e : Nat) (f : Lease → Lease) : leaseOf (updLease s r e f) r e = f (leaseOf s r e) := by
  rw [leaseOf_live (live_updLease h e f), updLease, updRef_live h, State.thread_setThread_same, leaseOf_live h]
  exact lookD_put_same ..

theorem live_postLease (e ev : Nat) : (postLease s r e ev).live r = true := by
  unfold postLease
  split
  · exact live_updRef h _ (fun _ => rfl) fun _ => rfl
  · exact h

theorem leaseOf_postLease (e ev : Nat) : leaseOf (postLease s r e ev) r e = leaseOf s r e := by
  rw [leaseOf_live (live_postLease h e ev), leaseOf_live h]
  unfold postLease
  split
  · rw [updRef_live h, State.thread_setThread_same]
  · rfl

end

section
variable (s : State) (r e : Nat)

/-- A change of a thread changes neither the cores, nor the bridge, nor the module. -/
theorem updRef_elsewhere (f : Thread → Thread) :
    (s.updRef r f).cores = s.cores ∧ (s.updRef r f).bridge = s.bridge ∧ (s.updRef r f).module = s.module := by
  unfold State.updRef
  split
  · exact ⟨rfl, rfl, rfl⟩
  · split <;> exact ⟨rfl, rfl, rfl⟩

theorem engineAt_congr {s t : State} (h : t.module = s.module) (engine : Nat) : engineAt t engine = engineAt s engine := by
  rw [engineAt, engineAt, h]

@[simp] theorem engineAt_updLease (f : Lease → Lease) (engine : Nat) : engineAt (updLease s r e f) engine = engineAt s engine :=
  engineAt_congr (updRef_elsewhere ..).2.2 engine

@[simp] theorem updLease_storage (f : Lease → Lease) : storage (updLease s r e f) = storage s := Copies.updRef_storage ..

@[simp] theorem updLease_core (f : Lease → Lease) (c : Nat) : (updLease s r e f).core c = s.core c := by
  rw [State.core, State.core, updLease, (updRef_elsewhere ..).1]

@[simp] theorem updLease_bridge (f : Lease → Lease) : (updLease s r e f).bridge = s.bridge := (updRef_elsewhere ..).2.1

@[simp] theorem engineAt_postLease (ev engine : Nat) : engineAt (postLease s r e ev) engine = engineAt s engine := by
  unfold postLease
  split
  · exact engineAt_congr (updRef_elsewhere ..).2.2 engine
  · rfl

@[simp] theorem postLease_storage (ev : Nat) : storage (postLease s r e ev) = storage s := by
  unfold postLease
  split
  · exact Copies.updRef_storage ..
  · rfl

end

/-! ## A change of an engine, and of a queue -/

section
variable (s : State)

@[simp] theorem engineAt_setEngine (engine : Nat) (x : Engine) : engineAt (setEngine s engine x) engine = x := lookD_put_same ..
@[simp] theorem leaseOf_setEngine (engine : Nat) (x : Engine) (r e : Nat) : leaseOf (setEngine s engine x) r e = leaseOf s r e := rfl
@[simp] theorem setEngine_storage (engine : Nat) (x : Engine) : storage (setEngine s engine x) = storage s := rfl
@[simp] theorem queueAt_setQueue (q : Nat) (l : List LeaseReq) : queueAt (setQueue s q l) q = l := lookD_put_same ..

end

/-! ## Operations that keep the leases -/

/-- A thread's name and its leases. -/
def leaseView (th : Thread) : Bool × Nat × AMap Lease := (th.present, th.uid, th.leases)

/-- From s to t every slot has the same thread with the same leases, and the module is the same. -/
structure KeepsLeases (s t : State) : Prop where
  slot : ∀ u, leaseView (t.thread u) = leaseView (s.thread u)
  module : t.module = s.module

namespace KeepsLeases

theorem refl (s : State) : KeepsLeases s s := ⟨fun _ => rfl, rfl⟩

theorem trans {s t u : State} (h : KeepsLeases s t) (k : KeepsLeases t u) : KeepsLeases s u :=
  ⟨fun i => (k.slot i).trans (h.slot i), k.module.trans h.module⟩

theorem of_eq {s t : State} (hthreads : t.threads = s.threads) (hmodule : t.module = s.module) : KeepsLeases s t :=
  ⟨fun u => by rw [State.thread, State.thread, hthreads], hmodule⟩

theorem of_calm {s t : State} (h : Calm s t) (hmodule : t.module = s.module) : KeepsLeases s t :=
  ⟨fun u => (congrArg leaseView (h.settled u) :), hmodule⟩

theorem setThread {s : State} {u : Nat} {th : Thread} (h : leaseView th = leaseView (s.thread u)) : KeepsLeases s (s.setThread u th) := by
  refine ⟨fun i => ?_, rfl⟩
  by_cases hi : i = u
  · rw [hi, State.thread_setThread_same, h]
  · rw [State.thread_setThread_other _ _ hi]

theorem ite {s t u : State} (c : Prop) [Decidable c] (ht : KeepsLeases s t) (hu : KeepsLeases s u) :
    KeepsLeases s (if c then t else u) := by
  split
  · exact ht
  · exact hu

theorem foldl {α : Type} {f : State → α → State} (hf : ∀ s a, KeepsLeases s (f s a)) (l : List α) (s : State) :
    KeepsLeases s (l.foldl f s) := by
  induction l generalizing s with
  | nil => exact refl s
  | cons a l ih => exact (hf s a).trans (ih _)

section
variable {s t : State} (h : KeepsLeases s t)
include h

theorem live (r : Nat) : t.live r = s.live r := by
  have hslot := h.slot (r % 4096)
  have hpresent : (t.thread (r % 4096)).present = (s.thread (r % 4096)).present := congrArg (·.1) hslot
  have huid : (t.thread (r % 4096)).uid = (s.thread (r % 4096)).uid := congrArg (·.2.1) hslot
  rw [State.live, State.live, hpresent, huid]

theorem leaseOf {r : Nat} (hr : s.live r = true) (e : Nat) : Machine.leaseOf t r e = Machine.leaseOf s r e := by
  rw [leaseOf_live ((h.live r).trans hr), leaseOf_live hr]
  exact congrArg (fun v => lookD v.2.2 e {}) (h.slot (r % 4096))

theorem engineAt (engine : Nat) : Machine.engineAt t engine = Machine.engineAt s engine := engineAt_congr h.module engine

end

end KeepsLeases

/-- A release of a reference writes memory and the reclaim queue alone (R49). -/
theorem dropRef_elsewhere (s : State) (k : Nat) (c : CarStore) (n : DWord) :
    (dropRef s k c n).threads = s.threads ∧ (dropRef s k c n).module = s.module ∧ (dropRef s k c n).cores = s.cores := by
  unfold dropRef carRel
  cases namedSlot s c n with
  | error _ => exact ⟨rfl, rfl, rfl⟩
  | ok x =>
    obtain ⟨set, w, x⟩ := x
    simp only [Except.map, Except.toOption, Option.getD_some]
    split
    · exact ⟨rfl, rfl, rfl⟩
    · split <;> exact ⟨rfl, rfl, rfl⟩

theorem dropRoot_elsewhere (s : State) (o : EngineOp) :
    (dropRoot s o).threads = s.threads ∧ (dropRoot s o).module = s.module ∧ (dropRoot s o).cores = s.cores := by
  unfold dropRoot
  dsimp only
  split
  · exact dropRef_elsewhere ..
  · exact ⟨rfl, rfl, rfl⟩

theorem dropRoot_keepsLeases (s : State) (o : EngineOp) : KeepsLeases s (dropRoot s o) :=
  .of_eq (dropRoot_elsewhere s o).1 (dropRoot_elsewhere s o).2.1

/-- An operation without a root's name has no reference to release. -/
theorem dropRoot_unnamed (s : State) {o : EngineOp} (h : o.name = 0) : dropRoot s o = s := by
  simp [dropRoot, h]

theorem dropOp_keepsLeases (s : State) (o : EngineOp) : KeepsLeases s (dropOp s o) :=
  (dropRoot_keepsLeases s o).trans (.ite _ (.of_eq rfl rfl) (.of_eq rfl rfl))

theorem dropOp_storage (s : State) {o : EngineOp} (h : o.name = 0) : storage (dropOp s o) = storage s := by
  unfold dropOp
  dsimp only
  rw [dropRoot_unnamed s h]
  split <;> rfl

/-- What an LWAIT waits for does not touch the leases (R271). -/
theorem overdue_keepsLeases (s : State) {r : Nat} (hr : s.live r = true) (e : Nat) : KeepsLeases s (overdue s r e) := by
  rw [overdue, updRef_live hr]
  refine .setThread ?_
  split
  · split <;> rfl
  · rfl

theorem overdue_storage (s : State) (r e : Nat) : storage (overdue s r e) = storage s := Copies.updRef_storage ..

theorem overdue_pitch (s : State) {r : Nat} (hr : s.live r = true) (e : Nat) : (overdue s r e).pitch = s.pitch := by
  rw [overdue, updRef_live hr]
  rfl

end Sys2Proof.Laws
end

section
/-!
PROOF of O36. Every event of a lease changes the lease of a thread that is in its slot, an engine, and at most a queue; the lemmas on
those changes give its result.
-/

namespace Sys2Proof.LeaseEvents

open Machine Spec Laws

/-! ## Grants (R160) -/

/-- The state in which an engine of a queue has been granted to a request. -/
def granted (s : State) (queue : Nat) (x : LeaseReq) (engine : Nat) (p : EnginePower) : State :=
  let s := setQueue s queue ((queueAt s queue).filter (· != x))
  let s := setEngine s engine { power := p, holder := some (x.thread, x.slot), granted := s.serial }
  updLease { s with serial := s.serial + 1 } x.thread x.slot
    (fun l => { l with state := .waking, eng := BitVec.ofNat 8 (engine % 256) })

section
variable {s : State} {queue : Nat} {x : LeaseReq} (hx : queueHead s queue = some x)
include hx

/-- The head of a queue is of a thread in its slot. -/
theorem queueHead_live : s.live x.thread = true := by
  have hpass := List.find?_some hx
  simp only [passedOver, Bool.not_or, Bool.not_not, Bool.and_eq_true] at hpass
  exact hpass.1.1

theorem leaseGrant_handoff {engine : Nat} (he : engineIn s queue .stopping = some engine) :
    exec (.leaseGrant queue) s = .next (granted s queue x engine .handoff) := by
  change execLeaseGrant queue s = _
  simp only [execLeaseGrant, hx, he]
  rfl

theorem leaseGrant_wakes {engine : Nat} (hnone : engineIn s queue .stopping = none) (he : engineIn s queue .off = some engine)
    (hmay : mayWake s (x, queue) = true) : exec (.leaseGrant queue) s = .next (granted s queue x engine .waking) := by
  change execLeaseGrant queue s = _
  simp only [execLeaseGrant, hx, hnone, he, if_pos hmay]
  rfl

end

theorem granted_holds {s : State} {x : LeaseReq} (hlive : s.live x.thread = true) (queue engine : Nat) (p : EnginePower) :
    (engineAt (granted s queue x engine p) engine).power = p ∧
      (engineAt (granted s queue x engine p) engine).holder = some (x.thread, x.slot) ∧
      (leaseOf (granted s queue x engine p) x.thread x.slot).state = .waking ∧
      (leaseOf (granted s queue x engine p) x.thread x.slot).eng.toNat = engine % 256 ∧
      x ∉ queueAt (granted s queue x engine p) queue ∧ SameMemory s (granted s queue x engine p) := by
  unfold granted
  dsimp only
  generalize hu : setEngine (setQueue s queue ((queueAt s queue).filter (· != x))) engine _ = u
  have hulive : ({ u with serial := u.serial + 1 } : State).live x.thread = true := hu ▸ hlive
  have hengine : engineAt u engine = { power := p, holder := some (x.thread, x.slot), granted := s.serial } := by
    rw [← hu, engineAt_setEngine]
    rfl
  have hqueue : queueAt u queue = (queueAt s queue).filter (· != x) := hu ▸ queueAt_setQueue ..
  rw [leaseOf_updLease hulive, engineAt_updLease]
  refine ⟨congrArg Engine.power hengine, congrArg Engine.holder hengine, rfl, ?_, ?_, ?_⟩
  · rw [BitVec.toNat_ofNat]
    omega
  · rw [queueAt, updLease, (updRef_elsewhere ..).2.2]
    change x ∉ queueAt u queue
    rw [hqueue]
    simp
  · refine sameMemory_of_storage ((updLease_storage ..).trans ?_)
    rw [← hu]
    rfl

/-! ## The end of a waking (R159) -/

section
variable {s : State} {engine r e : Nat} (hholder : (engineAt s engine).holder = some (r, e)) (hlive : s.live r = true)
include hholder hlive

/-- A lease whose engine has woken, or has been handed to it, is HELD from now. -/
theorem engineWakeDone_wakes (hpower : (engineAt s engine).power = .waking ∨ (engineAt s engine).power = .handoff)
    (hpark : (leaseOf s r e).wakePark = false) :
    ∃ t, exec (.engineWakeDone engine) s = .next t ∧ (engineAt t engine).power = .ready ∧ (leaseOf t r e).state = .held ∧
      (leaseOf t r e).since = s.pitch ∧ SameMemory s t := by
  generalize hu : setEngine s engine { power := .ready, holder := (engineAt s engine).holder, granted := (engineAt s engine).granted } = u
  have hulive : u.live r = true := hu ▸ hlive
  have hkeeps := overdue_keepsLeases u hulive e
  have hover : (overdue u r e).live r = true := (hkeeps.live r).trans hulive
  have hlease : leaseOf (overdue u r e) r e = leaseOf s r e := (hkeeps.leaseOf hulive e).trans (hu ▸ leaseOf_setEngine ..)
  have hpitch : (overdue u r e).pitch = s.pitch := (overdue_pitch u hulive e).trans (hu ▸ rfl)
  refine ⟨postLease (updLease (overdue u r e) r e
    (fun l => { l with state := .held, used := 0, since := (overdue u r e).pitch })) r e 0, ?_, ?_, ?_, ?_, ?_⟩
  · have hparked : (leaseOf (overdue u r e) r e).wakePark = false := hlease ▸ hpark
    change execEngineWakeDone engine s = _
    unfold execEngineWakeDone
    dsimp only
    rcases hpower with hp | hp <;>
      simp only [hp, hholder] <;> rw [← hholder, hu, hparked] <;> rfl
  · rw [engineAt_postLease, engineAt_updLease, hkeeps.engineAt, ← hu, engineAt_setEngine]
  · rw [leaseOf_postLease (live_updLease hover ..), leaseOf_updLease hover]
  · rw [leaseOf_postLease (live_updLease hover ..), leaseOf_updLease hover]
    exact hpitch
  · refine sameMemory_of_storage ?_
    rw [postLease_storage, updLease_storage, overdue_storage, ← hu, setEngine_storage]

/-- A parked lease that returns is HELD from now. -/
theorem engineWakeDone_unparks (hpower : (engineAt s engine).power = .unparking) :
    ∃ t, exec (.engineWakeDone engine) s = .next t ∧ (engineAt t engine).power = .ready ∧ (leaseOf t r e).state = .held ∧
      (leaseOf t r e).since = s.pitch ∧ SameMemory s t := by
  generalize hu : setEngine s engine { engineAt s engine with power := .ready } = u
  have hulive : u.live r = true := hu ▸ hlive
  refine ⟨postLease (updLease u r e (fun l => { l with state := .held, since := u.pitch })) r e 0, ?_, ?_, ?_, ?_, ?_⟩
  · change execEngineWakeDone engine s = _
    unfold execEngineWakeDone
    dsimp only
    simp only [hpower, hholder, ← hu]
  · rw [engineAt_postLease, engineAt_updLease, ← hu, engineAt_setEngine]
  · rw [leaseOf_postLease (live_updLease hulive ..), leaseOf_updLease hulive]
  · rw [leaseOf_postLease (live_updLease hulive ..), leaseOf_updLease hulive, ← hu]
    rfl
  · refine sameMemory_of_storage ?_
    rw [postLease_storage, updLease_storage, ← hu, setEngine_storage]

end

/-! ## Evictions (R162, R163) -/

/-- Operations without a name leave no line of HINGEST to complete. -/
theorem settleIngest_unnamed {s : State} {r e : Nat} (h : ∀ o ∈ (leaseOf s r e).ops, o.name = 0) (goesOn : Bool) :
    settleIngest s r e goesOn = s := by
  unfold settleIngest
  cases ho : (leaseOf s r e).ops.head? with
  | none => rfl
  | some o => simp [h o (List.mem_of_head? ho)]

theorem foldl_dropOp_storage {ops : List EngineOp} (h : ∀ o ∈ ops, o.name = 0) (s : State) : storage (ops.foldl dropOp s) = storage s := by
  induction ops generalizing s with
  | nil => rfl
  | cons o ops ih =>
    rw [List.foldl_cons, ih fun x hx => h x (List.mem_cons_of_mem _ hx)]
    exact dropOp_storage s (h o List.mem_cons_self)

theorem evict_evicts {s : State} {engine r e : Nat} (hholder : (engineAt s engine).holder = some (r, e)) (hlive : s.live r = true)
    (hnames : ∀ o ∈ (leaseOf s r e).ops, o.name = 0) (handoff : Bool) :
    (leaseOf (evict s engine handoff) r e).state = .evicted ∧ (leaseOf (evict s engine handoff) r e).ev = true ∧
      (leaseOf (evict s engine handoff) r e).ops = [] ∧ (engineAt (evict s engine handoff) engine).holder = none ∧
      (engineAt (evict s engine handoff) engine).power = (if handoff then .stopping else .evicting) ∧
      SameMemory s (evict s engine handoff) := by
  have hover := overdue_keepsLeases s hlive e
  have hops : (leaseOf (overdue s r e) r e).ops = (leaseOf s r e).ops := by rw [hover.leaseOf hlive]
  generalize hu : (leaseOf s r e).ops.foldl dropOp (overdue s r e) = u
  have hulive : u.live r = true := by rw [← hu, (KeepsLeases.foldl dropOp_keepsLeases _ _).live, hover.live, hlive]
  have hevict : evict s engine handoff = postLease (setEngine (updLease u r e (fun l =>
      { l with state := .evicted, ev := true, done := [], ops := [], wakePark := false })) engine
      { power := if handoff then .stopping else .evicting }) r e 1 := by
    unfold evict
    simp only [hholder, settleIngest_unnamed (hops ▸ hnames), hops, hu]
  have hset (x : Engine) (f : Lease → Lease) : (setEngine (updLease u r e f) engine x).live r = true := live_updLease hulive e f
  rw [hevict, leaseOf_postLease (hset ..), leaseOf_setEngine, leaseOf_updLease hulive, engineAt_postLease, engineAt_setEngine]
  refine ⟨rfl, rfl, rfl, rfl, rfl, sameMemory_of_storage ?_⟩
  rw [postLease_storage, setEngine_storage, updLease_storage, ← hu, foldl_dropOp_storage hnames, overdue_storage]

/-! ## The obligation -/

/-- Settles O36: a grant by `granted_holds`, the end of a waking by `engineWakeDone_wakes` and `engineWakeDone_unparks`, an eviction
by `evict_evicts`. -/
theorem leaseEvents : Obligations.LeaseEvents := by
  refine ⟨?grant, ?wake, ?term, ?eviction, ?off⟩
  case grant =>
    intro s queue x engine p hx hcase
    obtain ⟨he, rfl⟩ | ⟨hnone, he, hmay, rfl⟩ := hcase
    · exact ⟨_, leaseGrant_handoff hx he, granted_holds (queueHead_live hx) ..⟩
    · exact ⟨_, leaseGrant_wakes hx hnone he hmay, granted_holds (queueHead_live hx) ..⟩
  case wake =>
    intro s engine r e hholder hlive hpower hpark
    by_cases hunpark : (engineAt s engine).power = .unparking
    · exact engineWakeDone_unparks hholder hlive hunpark
    · exact engineWakeDone_wakes hholder hlive (hpower.imp_right (·.resolve_right hunpark)) (hpark.resolve_right hunpark)
  case term =>
    intro s n e l hl hpresent hheld hovd hterm hover
    have hlive := Copies.live_refOf hpresent
    refine ⟨updLease s (s.refOf n.toNat) e.toNat (fun l => { l with ovd := true }), ?_, ?_, sameMemory_of_storage (updLease_storage ..)⟩
    · change execLeaseTermExpiry n e s = _
      simp only [execLeaseTermExpiry, ← hl, hheld, hovd, hover, ne_eq, hterm, not_false_eq_true, Bool.not_false, and_self, if_true]
    · rw [leaseOf_updLease hlive, hl]
  case eviction =>
    intro s engine r e handoff hholder hlive hevict hnames
    refine ⟨evict s engine handoff, ?_, evict_evicts hholder hlive hnames handoff⟩
    change execForcedEviction engine s = _
    rw [execForcedEviction, hevict]
  case off =>
    intro s engine hpower
    change execEnginePowerOff engine s = _
    refine if_pos (hpower.imp_right fun ⟨hstop, hqueue⟩ => ⟨hstop, ?_⟩)
    rw [hqueue, Option.isNone_none]

end Sys2Proof.LeaseEvents
end

section
/-!
SUPPORT. What a step of an engine leaves of its lease, whatever the operation (R264 to R266), and what remains of a state along a
list of changes of which one sets it.
-/

namespace Sys2Proof.EngineSteps

open Machine Spec Laws

/-! ## Changes one after another -/

section
variable {α σ β : Type} {f : σ → α → σ} {view : σ → β} {l : List α} {Inv : σ → Prop}

/-- What every change leaves. -/
theorem foldl_view (hinv : ∀ s, Inv s → ∀ y ∈ l, Inv (f s y)) (hview : ∀ s, Inv s → ∀ y ∈ l, view (f s y) = view s) {s : σ}
    (hs : Inv s) : view (l.foldl f s) = view s := by
  induction l generalizing s with
  | nil => rfl
  | cons y l ih =>
    rw [List.foldl_cons, ih (fun s hs z hz => hinv s hs z (List.mem_cons_of_mem _ hz))
      (fun s hs z hz => hview s hs z (List.mem_cons_of_mem _ hz)) (hinv s hs y List.mem_cons_self)]
    exact hview s hs y List.mem_cons_self

theorem foldl_keeps (hinv : ∀ s, Inv s → ∀ y ∈ l, Inv (f s y)) {s : σ} (hs : Inv s) : Inv (l.foldl f s) := by
  induction l generalizing s with
  | nil => exact hs
  | cons y l ih => exact ih (fun s hs z hz => hinv s hs z (List.mem_cons_of_mem _ hz)) (hinv s hs y List.mem_cons_self)

/-- What one change sets and every other leaves. -/
theorem foldl_at {x : α} {g : β → β} (hinv : ∀ s, Inv s → ∀ y ∈ l, Inv (f s y)) (hset : ∀ s, Inv s → view (f s x) = g (view s))
    (hview : ∀ s, Inv s → ∀ y ∈ l, y ≠ x → view (f s y) = view s) (hnodup : l.Nodup) (hx : x ∈ l) {s : σ} (hs : Inv s) :
    view (l.foldl f s) = g (view s) := by
  induction l generalizing s with
  | nil => exact absurd hx List.not_mem_nil
  | cons y l ih =>
    obtain ⟨hy, hnodup⟩ := List.nodup_cons.1 hnodup
    have hinv' : ∀ s, Inv s → ∀ z ∈ l, Inv (f s z) := fun s hs z hz => hinv s hs z (List.mem_cons_of_mem _ hz)
    have hnext := hinv s hs y List.mem_cons_self
    rw [List.foldl_cons]
    by_cases hyx : y = x
    · subst hyx
      rw [foldl_view hinv' (fun s hs z hz => hview s hs z (List.mem_cons_of_mem _ hz) fun h => hy (h ▸ hz)) hnext]
      exact hset s hs
    · rw [ih hinv' (fun s hs z hz => hview s hs z (List.mem_cons_of_mem _ hz)) hnodup
        ((List.mem_cons.1 hx).resolve_left (Ne.symm hyx)) hnext, hview s hs y List.mem_cons_self hyx]

end

/-! ## The queue of a lease (R263) -/

/-- From s to u the lease's operations, running and completed, are the same. -/
structure SameQueue (s u : State) (r e : Nat) : Prop where
  live : u.live r = true
  ops : (leaseOf u r e).ops = (leaseOf s r e).ops
  done : (leaseOf u r e).done = (leaseOf s r e).done

section
variable {s u : State} {engine r e : Nat} {o : EngineOp} {rest : List EngineOp}

theorem AtWork.holder (h : AtWork s engine r e o rest) : (engineAt s engine).holder = some (r, e) := by
  obtain ⟨_, hholder, _⟩ := h
  exact hholder

theorem AtWork.live (h : AtWork s engine r e o rest) : s.live r = true := by
  obtain ⟨_, _, hlive, _⟩ := h
  exact hlive

theorem AtWork.ops (h : AtWork s engine r e o rest) : (leaseOf s r e).ops = o :: rest := by
  obtain ⟨_, _, _, _, _, hops, _⟩ := h
  exact hops

theorem AtWork.sameQueue (h : AtWork s engine r e o rest) : SameQueue s s r e := ⟨AtWork.live h, rfl, rfl⟩

theorem SameQueue.setEngine (h : SameQueue s u r e) (engine : Nat) (x : Engine) : SameQueue s (setEngine u engine x) r e :=
  ⟨h.live, h.ops, h.done⟩

theorem SameQueue.drawing (h : SameQueue s u r e) (n : Nat) : SameQueue s { u with drawn := n } r e := ⟨h.live, h.ops, h.done⟩

theorem SameQueue.drn (h : SameQueue s u r e) (b : Bool) : SameQueue s (updLease u r e (fun l => { l with drn := b })) r e :=
  ⟨live_updLease h.live .., by rw [leaseOf_updLease h.live]; exact h.ops, by rw [leaseOf_updLease h.live]; exact h.done⟩

theorem SameQueue.keeps {v : State} (h : SameQueue s u r e) (hk : KeepsLeases u v) : SameQueue s v r e := by
  refine ⟨(hk.live r).trans h.live, ?_, ?_⟩
  · rw [hk.leaseOf h.live, h.ops]
  · rw [hk.leaseOf h.live, h.done]

/-- DRN of an engine's operation is that of the lease that holds it. -/
theorem setDrn_held (h : (engineAt s engine).holder = some (r, e)) (b : Bool) :
    setDrn s engine b = updLease s r e (fun l => { l with drn := b }) := by
  rw [setDrn, h]

end

/-! ## The end of a step (R266) -/

theorem recordStep_frame (l : Lease) (o : EngineOp) :
    (recordStep l o).ops = l.ops ∧ (recordStep l o).done = l.done ∧ (recordStep l o).drn = l.drn := by
  unfold recordStep
  split
  · split <;> exact ⟨rfl, rfl, rfl⟩
  · split <;> exact ⟨rfl, rfl, rfl⟩

theorem startOp_frame (l : Lease) : (startOp l).ops = l.ops ∧ (startOp l).done = l.done ∧ (startOp l).drn = l.drn := by
  unfold startOp
  split
  · split <;> exact ⟨rfl, rfl, rfl⟩
  · exact ⟨rfl, rfl, rfl⟩

/-- The state in which a step has left its operation as o, first in its queue. -/
def stepped (u : State) (r e : Nat) (o : EngineOp) : State := updLease (setHeadOp u r e o) r e (fun l => recordStep l o)

/-- The state in which the first operation has left its queue, completed. -/
def popped (s : State) (r e : Nat) (o : EngineOp) : State :=
  updLease s r e (fun l => startOp { l with ops := l.ops.drop 1, done := l.done ++ [(o.id, o.flags)] })

section
variable (s : State) (r e : Nat) (o : EngineOp)

theorem stepped_module : (stepped s r e o).module = s.module := ((updRef_elsewhere ..).2.2).trans (updRef_elsewhere ..).2.2
theorem stepped_storage : storage (stepped s r e o) = storage s := (updLease_storage ..).trans (updLease_storage ..)
theorem stepped_bridge : (stepped s r e o).bridge = s.bridge := (updLease_bridge ..).trans (updLease_bridge ..)
theorem stepped_core (c : Nat) : (stepped s r e o).core c = s.core c := (updLease_core ..).trans (updLease_core ..)

theorem opReady_stepped (o' : EngineOp) : opReady (stepped s r e o) o' = opReady s o' := by simp only [opReady, stepped_core]

/-- A completed operation changes no lease but that which it leaves. -/
theorem completeOp_keepsLeases : KeepsLeases (popped s r e o) (completeOp s r e o) := by
  unfold completeOp
  split
  · exact .of_eq rfl rfl
  · unfold drainWake
    dsimp only
    split
    · exact .ite _ (.of_eq rfl rfl) (.refl _)
    · exact .refl _
  · exact dropRoot_keepsLeases ..
  · exact .refl _

/-- A completed GCOPY may give up a root's slot; every other leaves memory and the bridge. -/
theorem completeOp_storage {o : EngineOp} (h : o.kind ≠ .gcopy) :
    storage (completeOp s r e o) = storage s ∧ (completeOp s r e o).bridge = s.bridge := by
  rw [← updLease_storage s r e (fun l => startOp { l with ops := l.ops.drop 1, done := l.done ++ [(o.id, o.flags)] }),
    ← updLease_bridge s r e (fun l => startOp { l with ops := l.ops.drop 1, done := l.done ++ [(o.id, o.flags)] })]
  unfold completeOp
  split
  · exact ⟨rfl, rfl⟩
  · unfold drainWake
    dsimp only
    split
    · split <;> exact ⟨rfl, rfl⟩
    · exact ⟨rfl, rfl⟩
  · next hk => exact absurd hk h
  · exact ⟨rfl, rfl⟩

/-- A completed operation changes no core but its own. -/
theorem completeOp_core {c : Nat} (h : c ≠ coreOf (o.thread % 4096)) : (completeOp s r e o).core c = s.core c := by
  rw [← updLease_core s r e (fun l => startOp { l with ops := l.ops.drop 1, done := l.done ++ [(o.id, o.flags)] })]
  unfold completeOp
  split
  · exact State.core_setCore_other _ _ h
  · unfold drainWake
    dsimp only
    split
    · split <;> rfl
    · rfl
  · rw [State.core, State.core, (dropRoot_elsewhere ..).2.2]
  · rfl

end

section
variable {s u : State} {r e : Nat} {o : EngineOp} {rest : List EngineOp} (hlive : s.live r = true)
include hlive

theorem stepped_lease (h : (leaseOf s r e).ops.drop 1 = rest) :
    (leaseOf (stepped s r e o) r e).ops = o :: rest ∧ (leaseOf (stepped s r e o) r e).done = (leaseOf s r e).done ∧
      (leaseOf (stepped s r e o) r e).drn = (leaseOf s r e).drn := by
  rw [stepped, setHeadOp, leaseOf_updLease (live_updLease hlive ..), leaseOf_updLease hlive, ← h]
  exact recordStep_frame ..

theorem popped_lease : (leaseOf (popped s r e o) r e).ops = (leaseOf s r e).ops.drop 1 ∧
    (leaseOf (popped s r e o) r e).done = (leaseOf s r e).done ++ [(o.id, o.flags)] ∧
      (leaseOf (popped s r e o) r e).drn = (leaseOf s r e).drn := by
  rw [popped, leaseOf_updLease hlive]
  exact startOp_frame _

theorem completeOp_lease : (leaseOf (completeOp s r e o) r e).ops = (leaseOf s r e).ops.drop 1 ∧
    (leaseOf (completeOp s r e o) r e).done = (leaseOf s r e).done ++ [(o.id, o.flags)] ∧
      (leaseOf (completeOp s r e o) r e).drn = (leaseOf s r e).drn := by
  rw [(completeOp_keepsLeases s r e o).leaseOf (live_updLease hlive ..)]
  exact popped_lease hlive

end

/-- What a step leaves that has made state u and left its operation as o: the operation is completed, or stands first still; the
engine is as in u, and so are memory, the bridge and every core but the operation's own. -/
structure Stepped (u t : State) (r e : Nat) (o : EngineOp) (rest : List EngineOp) : Prop where
  completes : o.total ≤ o.steps → opReady u o = true →
    (leaseOf t r e).ops = rest ∧ (leaseOf t r e).done = (leaseOf u r e).done ++ [(o.id, o.flags)]
  goesOn : ¬ (o.total ≤ o.steps ∧ opReady u o = true) → (leaseOf t r e).ops = o :: rest
  drn : (leaseOf t r e).drn = (leaseOf u r e).drn
  engine : ∀ engine, engineAt t engine = engineAt u engine
  storage : o.kind ≠ .gcopy ∨ o.steps < o.total → Laws.storage t = Laws.storage u
  bridge : o.kind ≠ .gcopy → t.bridge = u.bridge
  core : ∀ c, c ≠ coreOf (o.thread % 4096) → t.core c = u.core c

section
variable {s u : State} {engine r e : Nat} {o : EngineOp} {rest : List EngineOp}

theorem exec_engineStep (hw : AtWork s engine r e o rest) {t : State} (h : engineTurn s engine r e o = some t) :
    exec (.engineStep engine) s = .next t := by
  obtain ⟨hpower, hholder, _, hheld, hflt, hops, htrip⟩ := hw
  change execEngineStep engine s = _
  simp only [execEngineStep, hpower, hholder, hops, hheld, hflt, htrip, Bool.not_false, and_self, if_true, h]

/-- A step of the first operation that is made and does not stop. -/
theorem engineStep_steps (hw : AtWork s engine r e o rest) (hn : o.steps < o.total) {o' : EngineOp}
    (hstep : opStep s engine o = .ok (u, o', none)) (hlive : u.live r = true) (hrest : (leaseOf u r e).ops.drop 1 = rest) :
    ∃ t, exec (.engineStep engine) s = .next t ∧ Stepped u t r e o' rest := by
  have hturn : engineTurn s engine r e o =
      some (if o'.total ≤ o'.steps ∧ opReady u o' then completeOp (stepped u r e o') r e o' else stepped u r e o') := by
    rw [← opReady_stepped u r e o' o']
    simp only [engineTurn, if_neg (Nat.not_le.2 hn), hstep]
    rfl
  refine ⟨_, exec_engineStep hw hturn, ?_⟩
  obtain ⟨hops, hdone, hdrn⟩ := stepped_lease (o := o') hlive hrest
  by_cases hend : o'.total ≤ o'.steps ∧ opReady u o' = true
  · have hslive : (stepped u r e o').live r = true := live_updLease (live_updLease hlive ..) ..
    obtain ⟨hcops, hcdone, hcdrn⟩ := completeOp_lease (o := o') (e := e) hslive
    rw [if_pos hend]
    refine ⟨fun _ _ => ⟨by rw [hcops, hops, List.drop_one, List.tail_cons], by rw [hcdone, hdone]⟩, absurd hend, hcdrn.trans hdrn,
      fun k => ?_, fun hk => ?_, fun hk => ?_, fun c hc => ?_⟩
    · rw [(completeOp_keepsLeases ..).engineAt, popped, engineAt_updLease, engineAt_congr (stepped_module ..)]
    · rw [(completeOp_storage _ _ _ (hk.resolve_right (Nat.not_lt.2 hend.1))).1, stepped_storage]
    · rw [(completeOp_storage _ _ _ hk).2, stepped_bridge]
    · rw [completeOp_core _ _ _ _ hc, stepped_core]
  · rw [if_neg hend]
    exact ⟨fun h1 h2 => absurd ⟨h1, h2⟩ hend, fun _ => hops, hdrn, fun k => engineAt_congr (stepped_module ..) k,
      fun _ => stepped_storage .., fun _ => stepped_bridge .., fun c _ => stepped_core ..⟩

/-- The same where the operation's own accesses have left state s1, in which the engine is still at work. -/
theorem engineStep_made {s1 : State} (hw : AtWork s engine r e o rest) (hn : o.steps < o.total) {o' : EngineOp}
    (hstep : opStep s engine o = .ok (u, o', none)) (h1 : AtWork s1 engine r e o rest) (hq : SameQueue s1 u r e) :
    ∃ t, exec (.engineStep engine) s = .next t ∧ Stepped u t r e o' rest :=
  engineStep_steps hw hn hstep hq.live (by rw [hq.ops, AtWork.ops h1, List.drop_one, List.tail_cons])

/-- What no MROT waits for has come. -/
theorem opReady_of_ne (s : State) {o : EngineOp} (h : o.kind ≠ .mrot) : opReady s o = true := by rw [opReady, if_neg h]

theorem Stepped.left {t : State} (h : Stepped u t r e o rest) (hq : SameQueue s u r e) (hk : o.kind = .mrot → o.steps < o.total) :
    StepLeft s t r e o rest := by
  unfold StepLeft
  split
  · next hend =>
    obtain ⟨hops, hdone⟩ := h.completes hend (opReady_of_ne u fun hm => absurd (hk hm) (Nat.not_lt.2 hend))
    exact ⟨hops, hdone.trans (by rw [hq.done])⟩
  · next hend => exact h.goesOn fun hboth => hend hboth.1

theorem Stepped.mem {t : State} (h : Stepped u t r e o rest) (hk : o.kind ≠ .gcopy) : t.mem = u.mem := mem_of_storage (h.storage (.inl hk))

/-- A step whose access fails stops the operation with its cause and address (R265). -/
theorem engineStep_stops (hw : AtWork s engine r e o rest) (hn : o.steps < o.total) {c : Cause} {va : DWord} {soft : Bool}
    (hstep : opStep s engine o = .error (.fault u c va soft)) (hlive : u.live r = true) :
    ∃ t, exec (.engineStep engine) s = .next t ∧ (leaseOf t r e).flt = true ∧ (leaseOf t r e).fcause = c.code ∧
      (leaseOf t r e).fva = va ∧ storage t = storage u := by
  have hturn : engineTurn s engine r e o = some (stopOp u r e o c va) := by
    simp only [engineTurn, if_neg (Nat.not_le.2 hn), hstep]
  refine ⟨_, exec_engineStep hw hturn, ?_⟩
  rw [stopOp, leaseOf_postLease (live_updLease hlive ..), leaseOf_updLease hlive]
  exact ⟨rfl, rfl, rfl, (postLease_storage ..).trans (updLease_storage ..)⟩

end

/-! ## A step by the kind of its operation (R264, R275 to R286) -/

/-- A step that goes on to the next. -/
def oneStep (o : EngineOp) (r : Mem (State × EngineOp)) : Mem StepEnd := r.map (fun p => (p.1, { p.2 with steps := o.steps + 1 }, none))

@[simp] theorem oneStep_ok (o : EngineOp) (u : State) (o1 : EngineOp) :
    oneStep o (.ok (u, o1)) = .ok (u, { o1 with steps := o.steps + 1 }, none) := rfl

/-- A step that changes the state alone. -/
def plainStep (o : EngineOp) (r : Mem State) : Mem StepEnd := oneStep o (r.map (fun s => (s, o)))

@[simp] theorem plainStep_ok (o : EngineOp) (u : State) :
    plainStep o (.ok u) = .ok (u, { o with steps := o.steps + 1 }, none) := rfl

section
variable {s : State} {engine : Nat} {o : EngineOp}

theorem opStep_mlds (hk : o.kind = .mlds) : opStep s engine o = oneStep o (do
    let (s, p, fl) ← fetchPlane s o (ecAddr o.ec 5) o.x.toNat
    return (setEngine s engine { engineAt s engine with shadow := p }, o.raise fl)) := by
  unfold opStep; rw [hk]; rfl

theorem opStep_mswap (hk : o.kind = .mswap) : opStep s engine o = plainStep o (.ok (setEngine s engine
    { engineAt s engine with plane := (engineAt s engine).shadow, shadow := (engineAt s engine).plane })) := by
  unfold opStep; rw [hk]; rfl

theorem opStep_mzero (hk : o.kind = .mzero) : opStep s engine o = plainStep o (.ok (setEngine (setDrn s engine false) engine
    { engineAt s engine with banks := (engineAt s engine).banks.filter (fun p => p.1 / 4096 != o.x.toNat) })) := by
  unfold opStep; rw [hk]; rfl

theorem opStep_mstream (hk : o.kind = .mstream) : opStep s engine o = oneStep o (do
    let (s, rows, fl) ← fetchGroup s o (ecAddr o.ec 2) o.x.toNat o.steps
    let (banks, sp) := streamGroup o (engineAt s engine).plane (engineAt s engine).banks rows
    return (setEngine s engine { engineAt s engine with banks := banks }, o.raise (fl.or { spill := sp }))) := by
  unfold opStep; rw [hk]; rfl

theorem opStep_mtile (hk : o.kind = .mtile) :
    opStep s engine o = oneStep o (productStep s engine o (ecAddr o.ec 2) (ecAddr o.ec 5) o.steps) := by
  unfold opStep; rw [hk]; rfl

theorem opStep_mrot_product (hk : o.kind = .mrot) (hn : o.steps + 1 ≠ o.total) :
    opStep s engine o = oneStep o (rotateProduct s engine o o.steps) := by
  unfold opStep; rw [hk]; exact if_neg hn

theorem opStep_mrot_transfer (hk : o.kind = .mrot) (hn : o.steps + 1 = o.total) : opStep s engine o = plainStep o (rotateStep s o) := by
  unfold opStep; rw [hk]; exact if_pos hn

theorem opStep_mdrain (hk : o.kind = .mdrain) : opStep s engine o = oneStep o (drainStep s engine o o.steps) := by
  unfold opStep; rw [hk]; rfl

theorem opStep_rlds (hk : o.kind = .rlds) : opStep s engine o = oneStep o (do
    let (s, p, fl) ← fetchResidues s o o.x.toNat
    return (setEngine s engine { engineAt s engine with rplane := p, rshadow := (engineAt s engine).rplane }, o.raise fl)) := by
  unfold opStep; rw [hk]; rfl

theorem opStep_rtile (hk : o.kind = .rtile) : opStep s engine o = oneStep o (residueStep s engine o o.steps) := by
  unfold opStep; rw [hk]; rfl

theorem opStep_rconv (hk : o.kind = .rconv) : opStep s engine o = oneStep o (convertStep s engine o o.steps) := by
  unfold opStep; rw [hk]; rfl

theorem opStep_gconv (hk : o.kind = .gconv) : opStep s engine o = oneStep o (gconvStep s o o.steps) := by
  unfold opStep; rw [hk]; rfl

theorem opStep_ggath (hk : o.kind = .ggath) : opStep s engine o = plainStep o (ggathStep s o o.steps) := by
  unfold opStep; rw [hk]; rfl

theorem opStep_gcopy (hk : o.kind = .gcopy) : opStep s engine o = plainStep o (gcopyStep s o o.steps) := by
  unfold opStep; rw [hk]; rfl

theorem opStep_hdigest (hk : o.kind = .hdigest) : opStep s engine o = oneStep o (digestStep s o o.steps) := by
  unfold opStep; rw [hk]; rfl

theorem opStep_hingest_line (hk : o.kind = .hingest) (hname : o.name = 0) :
    opStep s engine o = (ingestStep s o o.steps).map (fun p => (p.1, p.2, none)) := by
  unfold opStep; rw [hk]; exact if_neg (not_not.2 hname)

theorem opStep_hingest_name (hk : o.kind = .hingest) (hname : o.name ≠ 0) : opStep s engine o = nameStep s o o.steps false := by
  unfold opStep; rw [hk]; exact if_pos hname

theorem opStep_allReduce (hk : o.kind = .allReduce) : opStep s engine o = oneStep o (reduceStep s o o.steps) := by
  unfold opStep; rw [hk]; rfl

end

end Sys2Proof.EngineSteps
end

section
/-!
PROOF of O37, its part about the matrix engine's planes and products (R154, R264 to R266, R275): MLDS, MSWAP, MZERO, MSTREAM, and the
product steps of MTILE and MROT.
-/

namespace Sys2Proof.EngineSteps

open Machine Spec Laws

section
variable {s : State} {engine r e : Nat} {o : EngineOp} {rest : List EngineOp} (hw : AtWork s engine r e o rest)
include hw

/-! ## Steps of one plane or bank (R275) -/

theorem mswap_exchanges (hn : o.steps = 0) (hk : o.kind = .mswap) :
    ∃ t, exec (.engineStep engine) s = .next t ∧ (engineAt t engine).plane = (engineAt s engine).shadow ∧
      (engineAt t engine).shadow = (engineAt s engine).plane ∧ (leaseOf t r e).ops = rest ∧
      (leaseOf t r e).done = (leaseOf s r e).done ++ [(o.id, o.flags)] ∧ SameMemory s t := by
  have hstep : opStep s engine o = .ok (setEngine s engine { engineAt s engine with
      plane := (engineAt s engine).shadow, shadow := (engineAt s engine).plane }, { o with steps := o.steps + 1 }, none) := by
    rw [opStep_mswap hk, plainStep_ok]
  obtain ⟨t, ht, hs⟩ := engineStep_made hw (by simp [EngineOp.total, hk, hn]) hstep hw ((AtWork.sameQueue hw).setEngine ..)
  obtain ⟨hops, hdone⟩ := hs.completes (by simp [EngineOp.total, hk]) (opReady_of_ne _ (by simp [hk]))
  have hengine := (hs.engine engine).trans (engineAt_setEngine ..)
  exact ⟨t, ht, by rw [hengine], by rw [hengine], hops, hdone, sameMemory_of_storage (hs.storage (by simp [hk]))⟩

theorem mzero_empties (hn : o.steps = 0) (hk : o.kind = .mzero) :
    ∃ t, exec (.engineStep engine) s = .next t ∧ (leaseOf t r e).drn = false ∧ (leaseOf t r e).ops = rest ∧
      (engineAt t engine).banks = (engineAt s engine).banks.filter (fun p => p.1 / 4096 != o.x.toNat) ∧ SameMemory s t := by
  have hstep : opStep s engine o = .ok (setEngine (updLease s r e (fun l => { l with drn := false })) engine { engineAt s engine with
      banks := (engineAt s engine).banks.filter (fun p => p.1 / 4096 != o.x.toNat) }, { o with steps := o.steps + 1 }, none) := by
    rw [opStep_mzero hk, setDrn_held (AtWork.holder hw), plainStep_ok]
  obtain ⟨t, ht, hs⟩ := engineStep_made hw (by simp [EngineOp.total, hk, hn]) hstep hw (((AtWork.sameQueue hw).drn false).setEngine ..)
  obtain ⟨hops, _⟩ := hs.completes (by simp [EngineOp.total, hk]) (opReady_of_ne _ (by simp [hk]))
  refine ⟨t, ht, ?_, hops, by rw [hs.engine, engineAt_setEngine], sameMemory_of_storage ?_⟩
  · rw [hs.drn, leaseOf_setEngine, leaseOf_updLease (AtWork.live hw)]
  · rw [hs.storage (by simp [hk]), setEngine_storage, updLease_storage]

theorem mlds_loads (hn : o.steps = 0) (hk : o.kind = .mlds) {s1 : State} {p : Plane} {fl : Raised}
    (hfetch : fetchPlane s o (ecAddr o.ec 5) o.x.toNat = .ok (s1, p, fl)) (h1 : AtWork s1 engine r e o rest) :
    ∃ t, exec (.engineStep engine) s = .next t ∧ (engineAt t engine).shadow = p ∧
      (engineAt t engine).plane = (engineAt s1 engine).plane ∧ (leaseOf t r e).ops = rest ∧
      (leaseOf t r e).done = (leaseOf s1 r e).done ++ [(o.id, o.flags ||| ecFlags fl.word)] ∧ t.mem = s1.mem := by
  have hstep : opStep s engine o = .ok (setEngine s1 engine { engineAt s1 engine with shadow := p },
      { o.raise fl with steps := o.steps + 1 }, none) := by
    rw [opStep_mlds hk, hfetch]
    rfl
  obtain ⟨t, ht, hs⟩ := engineStep_made hw (by simp [EngineOp.total, hk, hn]) hstep h1 ((AtWork.sameQueue h1).setEngine ..)
  obtain ⟨hops, hdone⟩ := hs.completes (by simp [EngineOp.total, EngineOp.raise, hk]) (opReady_of_ne _ (by simp [EngineOp.raise, hk]))
  have hengine := (hs.engine engine).trans (engineAt_setEngine ..)
  exact ⟨t, ht, by rw [hengine], by rw [hengine], hops, hdone, hs.mem (by simp [EngineOp.raise, hk])⟩

theorem mstream_streams {s1 : State} {rows : List (Nat × List Machine.Num)} {fl : Raised} {banks : AMap Acc} {sp : Bool}
    (hk : o.kind = .mstream) (hn : o.steps < rowGroups (ecM o.ec))
    (hfetch : fetchGroup s o (ecAddr o.ec 2) o.x.toNat o.steps = .ok (s1, rows, fl)) (h1 : AtWork s1 engine r e o rest)
    (hstream : streamGroup o (engineAt s1 engine).plane (engineAt s1 engine).banks rows = (banks, sp)) :
    ∃ t, exec (.engineStep engine) s = .next t ∧ (engineAt t engine).banks = banks ∧
      (engineAt t engine).plane = (engineAt s1 engine).plane ∧
      (o.steps + 1 < rowGroups (ecM o.ec) → ((leaseOf t r e).ops.map (fun x => x.steps)).head? = some (o.steps + 1)) := by
  have hstep : opStep s engine o = .ok (setEngine s1 engine { engineAt s1 engine with banks := banks },
      { o.raise (fl.or { spill := sp }) with steps := o.steps + 1 }, none) := by
    rw [opStep_mstream hk, hfetch]
    simp only [bind, Except.bind, hstream]
    rfl
  obtain ⟨t, ht, hs⟩ := engineStep_made hw (by simp [EngineOp.total, hk, hn]) hstep h1 ((AtWork.sameQueue h1).setEngine ..)
  have hengine := (hs.engine engine).trans (engineAt_setEngine ..)
  refine ⟨t, ht, by rw [hengine], by rw [hengine], fun hmore => ?_⟩
  rw [hs.goesOn (by simp [EngineOp.total, EngineOp.raise, hk, hmore])]
  rfl

end

/-! ## Planes that are loaded (R154, R275) -/

section
variable {s : State} {engine : Nat} {o : EngineOp} {base : DWord} {j : Nat}

theorem loadPlane_loaded (h : j < o.loaded ∨ kBlocks o.ec 64 ≤ j) : loadPlane s engine o base j = .ok (s, o) := by
  rw [loadPlane, if_pos h]

theorem loadPlane_fetches {s1 : State} {p : Plane} {fl : Raised} (hnew : o.loaded ≤ j) (hj : j < kBlocks o.ec 64)
    (hfetch : fetchPlane s o base j = .ok (s1, p, fl)) : loadPlane s engine o base j =
      .ok (setEngine s1 engine { engineAt s1 engine with shadow := p }, { o.raise fl with loaded := j + 1 }) := by
  simp only [loadPlane, if_neg (show ¬ (j < o.loaded ∨ kBlocks o.ec 64 ≤ j) by omega), hfetch]
  rfl

/-- A load of a plane changes no geometry. -/
theorem loadPlane_ec {s0 : State} {o0 : EngineOp} (h : loadPlane s engine o base j = .ok (s0, o0)) :
    o0.ec = o.ec ∧ o0.kind = o.kind := by
  unfold loadPlane at h
  split at h
  · cases h
    exact ⟨rfl, rfl⟩
  · cases hfetch : fetchPlane s o base j with
    | error b => simp [hfetch, bind, Except.bind] at h
    | ok x =>
      simp only [hfetch, bind, Except.bind, pure, Except.pure, Except.ok.injEq, Prod.mk.injEq] at h
      obtain ⟨_, rfl⟩ := h
      exact ⟨rfl, rfl⟩

end

/-! ## Steps of a product (R154, R275) -/

/-- The block and the row group of a step. -/
theorem div_mod_group {n j g groups : Nat} (hn : n = j * groups + g) (hg : g < groups) : n / groups = j ∧ n % groups = g := by
  rw [hn, Nat.mul_comm, Nat.mul_add_div (by omega), Nat.div_eq_of_lt hg, Nat.add_zero, Nat.mul_add_mod, Nat.mod_eq_of_lt hg]
  exact ⟨rfl, rfl⟩

/-- A row group of a block is one of the steps of all blocks. -/
theorem group_lt {blocks groups j g : Nat} (hg : g < groups) (hj : j < blocks) : j * groups + g < blocks * groups := by
  have := Nat.mul_le_mul_right groups (Nat.succ_le_of_lt hj)
  rw [Nat.succ_mul] at this
  omega

/-- An engine at row group g of a k-block: with the first the planes are exchanged. -/
def exchanged (x : Engine) (g : Nat) : Engine := if g = 0 then { x with plane := x.shadow, shadow := x.plane } else x

theorem exchanged_plane (x : Engine) (g : Nat) : (exchanged x g).plane = if g = 0 then x.shadow else x.plane := by
  unfold exchanged
  split <;> rfl

theorem exchanged_banks (x : Engine) (g : Nat) : (exchanged x g).banks = x.banks := by
  unfold exchanged
  split <;> rfl

/-- Whether step n of a product begins a new accumulation. -/
def begins (o : EngineOp) (n : Nat) : Bool := n == 0 && ecFresh o.ec

/-- The state in which row group g of a product has been streamed into some banks, at its first step and at its last. -/
def streamed (s : State) (engine : Nat) (first last : Bool) (g : Nat) (banks : AMap Acc) : State :=
  let st := if first then setDrn s engine false else s
  let x := exchanged (engineAt s engine) g
  setEngine { st with drawn := if last then st.drawn + 4096 else st.drawn } engine
    { x with banks := banks, shadow := if last then { unspec := some st.drawn } else x.shadow }

theorem streamed_holds {s : State} {engine r e : Nat} {o : EngineOp} {rest : List EngineOp} (h : AtWork s engine r e o rest)
    (first last : Bool) (g : Nat) (banks : AMap Acc) : SameQueue s (streamed s engine first last g banks) r e ∧
      (streamed s engine first last g banks).mem = s.mem ∧ (engineAt (streamed s engine first last g banks) engine).banks = banks ∧
      (engineAt (streamed s engine first last g banks) engine).plane = (exchanged (engineAt s engine) g).plane ∧
      (leaseOf (streamed s engine first last g banks) r e).drn = (if first then false else (leaseOf s r e).drn) := by
  unfold streamed
  dsimp only
  rw [setDrn_held (AtWork.holder h), engineAt_setEngine]
  split
  · refine ⟨(((AtWork.sameQueue h).drn false).drawing _).setEngine .., mem_of_storage (updLease_storage ..), rfl, rfl, ?_⟩
    exact congrArg Lease.drn (leaseOf_updLease (AtWork.live h) ..)
  · exact ⟨((AtWork.sameQueue h).drawing _).setEngine .., rfl, rfl, rfl, rfl⟩

/-- Step n of a product, row group g of k-block j. -/
theorem productStep_group (s : State) (engine : Nat) (o : EngineOp) (abase bbase : DWord) {j g n : Nat}
    (hn : n = j * rowGroups (ecM o.ec) + g) (hg : g < rowGroups (ecM o.ec)) : productStep s engine o abase bbase n = (do
      let (s0, o0) ← loadPlane s engine o bbase j
      let (s1, rows, fl) ← fetchGroup s0 o0 abase j g
      let x := exchanged (engineAt s1 engine) g
      let (banks, sp) := streamGroup o0 x.plane (if begins o0 n then freshBanks o0.ec x.banks else x.banks) rows
      let t := streamed s1 engine (begins o0 n) (n + 1 == kBlocks o0.ec 64 * rowGroups (ecM o.ec)) g banks
      let o1 := o0.raise (fl.or { spill := sp })
      return if g + 1 = rowGroups (ecM o.ec) then loadBeside (t, o1) (loadPlane t engine o1 bbase (j + 1)) else (t, o1)) := by
  obtain ⟨hdiv, hmod⟩ := div_mod_group hn hg
  rw [productStep, hdiv, hmod]
  rfl

section
variable {s s0 s1 : State} {engine : Nat} {o o0 : EngineOp} {abase bbase : DWord} {j g n : Nat}
  {rows : List (Nat × List Machine.Num)} {fl : Raised} {banks : AMap Acc} {sp : Bool}

/-- A step of a product of which no later plane is to be loaded. -/
theorem productStep_streams (hn : n = j * rowGroups (ecM o.ec) + g) (hg : g < rowGroups (ecM o.ec))
    (hload : loadPlane s engine o bbase j = .ok (s0, o0)) (hfetch : fetchGroup s0 o0 abase j g = .ok (s1, rows, fl))
    (hlater : g + 1 < rowGroups (ecM o.ec) ∨ kBlocks o.ec 64 ≤ j + 1 ∨ j + 1 < o0.loaded)
    (hstream : streamGroup o0 (exchanged (engineAt s1 engine) g).plane
      (if begins o n then freshBanks o.ec (engineAt s1 engine).banks else (engineAt s1 engine).banks) rows = (banks, sp)) :
    productStep s engine o abase bbase n = .ok (streamed s1 engine (begins o n)
      (n + 1 == kBlocks o.ec 64 * rowGroups (ecM o.ec)) g banks, o0.raise (fl.or { spill := sp })) := by
  obtain ⟨hec, _⟩ := loadPlane_ec hload
  have hbegins : begins o0 n = begins o n := by rw [begins, begins, hec]
  rw [productStep_group s engine o abase bbase hn hg, hload]
  simp only [bind, Except.bind, hfetch, exchanged_banks, hbegins, hec, hstream]
  split
  · rw [loadPlane_loaded (by change _ < o0.loaded ∨ kBlocks o0.ec 64 ≤ _; rw [hec]; omega)]
    rfl
  · rfl

theorem begins_iff : begins o n = true ↔ n = 0 ∧ ecFresh o.ec = true := by
  rw [begins, Bool.and_eq_true, beq_iff_eq]

/-- The operations whose steps are those of a product, with the addresses of its operands. -/
def Multiplies (s : State) (o : EngineOp) (abase bbase : DWord) : Prop :=
  (o.kind = .mtile ∧ abase = ecAddr o.ec 2 ∧ bbase = ecAddr o.ec 5) ∨
    (o.kind = .mrot ∧ abase = windowAddr s o.vi (coreOf (o.thread % 4096)) ((rotBanks o).1 * 0x4000) ∧
      bbase = windowAddr s o.vi (coreOf (o.thread % 4096)) ((rotBanks o).2.2.1 * 0x4000))

theorem opStep_multiplies (h : Multiplies s o abase bbase) (hn : o.steps < kBlocks o.ec 64 * rowGroups (ecM o.ec)) :
    opStep s engine o = oneStep o (productStep s engine o abase bbase o.steps) := by
  obtain ⟨hk, rfl, rfl⟩ | ⟨hk, rfl, rfl⟩ := h
  · exact opStep_mtile hk
  · rw [opStep_mrot_product hk (by simp only [EngineOp.total, hk]; omega)]
    rfl

theorem Multiplies.total (h : Multiplies s o abase bbase) : kBlocks o.ec 64 * rowGroups (ecM o.ec) ≤ o.total ∧
    o.kind ≠ .gcopy := by
  obtain ⟨hk, _, _⟩ | ⟨hk, _, _⟩ := h
  · simp [EngineOp.total, hk]
  · simp [EngineOp.total, hk]

/-- A step of MTILE or MROT streams a row group through the plane of its k-block (R154, R275). -/
theorem product_streams {r e : Nat} {rest : List EngineOp} (hw : AtWork s engine r e o rest)
    (hn : o.steps = j * rowGroups (ecM o.ec) + g) (hg : g < rowGroups (ecM o.ec)) (hj : j < kBlocks o.ec 64)
    (hk : Multiplies s o abase bbase) (hload : loadPlane s engine o bbase j = .ok (s0, o0))
    (hfetch : fetchGroup s0 o0 abase j g = .ok (s1, rows, fl)) (h1 : AtWork s1 engine r e o rest)
    (hlater : g + 1 < rowGroups (ecM o.ec) ∨ kBlocks o.ec 64 ≤ j + 1 ∨ j + 1 < o0.loaded)
    (hstream : streamGroup o0 (if g = 0 then (engineAt s1 engine).shadow else (engineAt s1 engine).plane)
      (if o.steps = 0 ∧ ecFresh o.ec = true then freshBanks o.ec (engineAt s1 engine).banks else (engineAt s1 engine).banks) rows =
        (banks, sp)) :
    ∃ t, exec (.engineStep engine) s = .next t ∧ (engineAt t engine).banks = banks ∧
      (engineAt t engine).plane = (if g = 0 then (engineAt s1 engine).shadow else (engineAt s1 engine).plane) ∧ t.mem = s1.mem ∧
      (leaseOf t r e).drn = (if o.steps = 0 ∧ ecFresh o.ec = true then false else (leaseOf s1 r e).drn) ∧
      StepLeft s1 t r e { o0.raise (fl.or { spill := sp }) with steps := o.steps + 1 } rest := by
  obtain ⟨htotal, hcopy⟩ := hk.total
  obtain ⟨hec, hkind⟩ := loadPlane_ec hload
  have hlt : o.steps < kBlocks o.ec 64 * rowGroups (ecM o.ec) := hn ▸ group_lt hg hj
  simp only [← exchanged_plane, ← begins_iff] at hstream ⊢
  obtain ⟨hq, hmem, hbanks, hplane, hdrn⟩ := streamed_holds h1 (begins o o.steps)
    (o.steps + 1 == kBlocks o.ec 64 * rowGroups (ecM o.ec)) g banks
  have hstep := (opStep_multiplies hk hlt).trans
    (congrArg (oneStep o) (productStep_streams hn hg hload hfetch hlater hstream))
  rw [oneStep_ok] at hstep
  obtain ⟨t, ht, hs⟩ := engineStep_made hw (by omega) hstep h1 hq
  refine ⟨t, ht, by rw [hs.engine, hbanks], by rw [hs.engine, hplane], (hs.mem ?_).trans hmem, hs.drn.trans hdrn, ?_⟩
  · exact fun h => hcopy (hkind ▸ h)
  · refine hs.left hq fun h => ?_
    have hm : o0.kind = .mrot := h
    simp only [EngineOp.total, EngineOp.raise, hm, hec]
    omega
end

end Sys2Proof.EngineSteps
end

section
/-!
PROOF of O37, MROT's transfer step (R157, R276). A line of it is one store into a neighbour's bank; the lines go to places apart, of
which none is a place a line comes from.
-/

namespace Sys2Proof.EngineSteps

open Machine Spec Laws

/-! ## A store into a core's local store -/

theorem wakeWords_module (s : State) (place : Nat) (keys : List Nat) (c : Nat) : (wakeWords s place keys c).module = s.module := by
  unfold wakeWords
  dsimp only
  split
  · rfl
  · refine (foldl_view (view := State.module) (Inv := fun _ => True) (fun _ _ _ _ => trivial) (fun s _ w _ => ?_) trivial).trans ?_
    · unfold endWaita
      split <;> rfl
    · unfold setWatchers
      split <;> rfl

/-- A store behind a window keeps every lease. -/
theorem writeThere_keepsLeases (s : State) (place key n : Nat) (data mask : Line) (c : Nat) :
    KeepsLeases s (writeThere s place key n data mask c) := by
  refine .of_calm (writeThere_calm ..) ((wakeWords_module ..).trans ?_)
  unfold raisePlace
  split <;> rfl

/-! ## A line of the transfer -/

/-- A line in its new place. -/
def moveLine (s : State) (m : Move) : State :=
  let s := if s.bridge.poisoned.contains (m.from_ / 64) then poison s (m.to_ / 64) else s
  writeThere s (clusterOf m.dst + 1) m.to_ 64 (memRead s.mem m.from_ 64) (BitVec.allOnes 512) (s.cluster (clusterOf m.src)).clock

section
variable (s : State) (m : Move)

theorem moveLine_mem : (moveLine s m).mem = memWrite s.mem m.to_ 64 (memRead s.mem m.from_ 64) (byteMask 64) := by
  rw [moveLine, writeThere_mem, byteMask_line]
  split
  · rw [mem_of_storage (poison_storage ..)]
  · rfl

theorem moveLine_calm : Calm s (moveLine s m) :=
  (Calm.ite _ (poison_calm ..) (Calm.refl s)).trans (writeThere_calm ..)

theorem moveLine_core (c : Nat) : (moveLine s m).core c = s.core c := by rw [State.core, State.core, (moveLine_calm s m).cores]

theorem moveLine_keepsLeases : KeepsLeases s (moveLine s m) := by
  refine KeepsLeases.trans (.ite _ (.of_calm (poison_calm ..) ?_) (.refl s)) (writeThere_keepsLeases ..)
  unfold poison
  split <;> rfl

/-- The bytes of the line are those of the place it comes from. -/
theorem moveLine_byte {q : Nat} (hq : q < 64) : memByte (moveLine s m).mem (m.to_ + q) = memByte s.mem (m.from_ + q) := by
  rw [moveLine_mem, memByte_memWrite_byteMask _ _ _ hq (le_refl 64), ← byteAt_eq, byteAt_memRead _ _ hq (le_refl 64)]

theorem moveLine_outside {k : Nat} (hk : k < m.to_ ∨ m.to_ + 64 ≤ k) : memByte (moveLine s m).mem k = memByte s.mem k := by
  rw [moveLine_mem, memByte_memWrite_outside _ _ _ _ _ _ hk]

end

/-- Line i of a transfer in a state where its move is known. -/
theorem rotateLine_some {s : State} {o : EngineOp} {i : Nat} {m : Move} (h : rotateMove s o i = some m) : rotateLine s o i =
    if i = 255 then (moveLine s m).setCore m.dst { s.core m.dst with arrivedA := (s.core m.dst).arrivedA ++ [m.dstBank] }
    else if i = 511 then (moveLine s m).setCore m.dst { s.core m.dst with arrivedB := (s.core m.dst).arrivedB ++ [m.dstBank] }
    else moveLine s m := by
  simp only [rotateLine, h, ← moveLine_core s m]
  rfl

section
variable {s : State} {o : EngineOp} {i : Nat} {m : Move} (h : rotateMove s o i = some m)
include h

theorem rotateLine_mem : (rotateLine s o i).mem = (moveLine s m).mem := by
  rw [rotateLine_some h]
  split
  · rfl
  · split <;> rfl

/-- A line changes no core but that it goes to. -/
theorem rotateLine_core {c : Nat} (hc : c ≠ m.dst) : (rotateLine s o i).core c = s.core c := by
  rw [rotateLine_some h]
  split
  · rw [State.core_setCore_other _ _ hc, moveLine_core]
  · split
    · rw [State.core_setCore_other _ _ hc, moveLine_core]
    · exact moveLine_core ..

end

theorem setCore_keepsLeases (s : State) (c : Nat) (x : Core) : KeepsLeases s (s.setCore c x) := .of_eq rfl rfl

theorem rotateLine_keepsLeases (s : State) (o : EngineOp) (i : Nat) : KeepsLeases s (rotateLine s o i) := by
  cases h : rotateMove s o i with
  | none =>
    rw [rotateLine, h]
    exact .refl s
  | some m =>
    rw [rotateLine_some h]
    exact (moveLine_keepsLeases s m).trans (.ite _ (setCore_keepsLeases ..) (.ite _ (setCore_keepsLeases ..) (.refl _)))

/-- The buffer of A is whole with line 255, that of B with line 511. -/
theorem rotateLine_arrivedA {s : State} {o : EngineOp} {m : Move} (h : rotateMove s o 255 = some m) :
    ((rotateLine s o 255).core m.dst).arrivedA = (s.core m.dst).arrivedA ++ [m.dstBank] := by
  rw [rotateLine_some h, if_pos rfl, State.core_setCore_same]

theorem rotateLine_arrivedB {s : State} {o : EngineOp} {m : Move} (h : rotateMove s o 511 = some m) :
    ((rotateLine s o 511).core m.dst).arrivedB = (s.core m.dst).arrivedB ++ [m.dstBank] := by
  rw [rotateLine_some h, if_neg (by decide), if_pos rfl, State.core_setCore_same]

/-- Every other line leaves what has arrived. -/
theorem rotateLine_arrived_other (s : State) (o : EngineOp) (i c : Nat) :
    (i ≠ 255 → ((rotateLine s o i).core c).arrivedA = (s.core c).arrivedA) ∧
      (i ≠ 511 → ((rotateLine s o i).core c).arrivedB = (s.core c).arrivedB) := by
  cases h : rotateMove s o i with
  | none =>
    rw [rotateLine, h]
    exact ⟨fun _ => rfl, fun _ => rfl⟩
  | some m =>
    by_cases hc : c = m.dst
    · rw [rotateLine_some h, hc]
      refine ⟨fun hi => ?_, fun hi => ?_⟩
      · rw [if_neg hi]
        split
        · rw [State.core_setCore_same]
        · rw [moveLine_core]
      · split
        · rw [State.core_setCore_same]
        · rw [moveLine_core]
    · rw [rotateLine_core h hc]
      exact ⟨fun _ => rfl, fun _ => rfl⟩

/-! ## The lines of a transfer one after another -/

theorem rotateRest_whole (s : State) {o : EngineOp} (h : o.moved = 0) :
    rotateRest s o = (List.range rotateLines).foldl (fun st i => rotateLine st o i) s := by
  rw [rotateRest, h, List.drop_zero]

/-- The move of line i: of A to the west, of B to the north. -/
def transfer (core west north a1 a b1 b i : Nat) : Move :=
  if i < 256 then { src := core, srcBank := a1, dst := west, dstBank := a, line := i }
  else { src := core, srcBank := b1, dst := north, dstBank := b, line := i - 256 }

theorem rotBanks_lt {o : EngineOp} {a1 a b1 b : Nat} (h : rotBanks o = (a1, a, b1, b)) : a1 < 16 ∧ a < 16 ∧ b1 < 16 ∧ b < 16 := by
  have hlt (x : Nat) : x % 16 < 16 := Nat.mod_lt _ (by decide)
  unfold rotBanks at h
  dsimp only at h
  split at h
  · obtain ⟨rfl, rfl, rfl, rfl⟩ := by simpa only [Prod.mk.injEq] using h
    exact ⟨hlt _, hlt _, hlt _, hlt _⟩
  · obtain ⟨rfl, rfl, rfl, rfl⟩ := by simpa only [Prod.mk.injEq] using h
    exact ⟨hlt _, hlt _, hlt _, hlt _⟩

section
variable {core west north a1 a b1 b : Nat} (hwest : west ≠ core) (hnorth : north ≠ core) (hapart : ¬ (west = north ∧ a = b))

section
variable (ha1 : a1 < 16) (ha : a < 16) (hb1 : b1 < 16) (hb : b < 16) {i k q : Nat} (hi : i < 512) (hk : k < 512) (hq : q < 64)
include ha hb hi hk hq

include hapart in
/-- Two lines go to places apart. -/
theorem transfer_to_apart (hik : i ≠ k) : (transfer core west north a1 a b1 b i).to_ + q < (transfer core west north a1 a b1 b k).to_ ∨
    (transfer core west north a1 a b1 b k).to_ + 64 ≤ (transfer core west north a1 a b1 b i).to_ + q := by
  simp only [transfer, Move.to_, localKey]
  split <;> split <;> dsimp only <;> omega

include hwest hnorth ha1 hb1 in
/-- No line goes to where a line comes from. -/
theorem transfer_from_apart : (transfer core west north a1 a b1 b i).from_ + q < (transfer core west north a1 a b1 b k).to_ ∨
    (transfer core west north a1 a b1 b k).to_ + 64 ≤ (transfer core west north a1 a b1 b i).from_ + q := by
  simp only [transfer, Move.to_, Move.from_, localKey]
  split <;> split <;> dsimp only <;> omega

end

section
variable {s : State} {o : EngineOp} (hcore : core = coreOf (o.thread % 4096)) (hbanks : rotBanks o = (a1, a, b1, b))
  (hw : neighbour core (s.core core).rseg 27 = some west) (hn : neighbour core (s.core core).rseg 24 = some north)
include hcore hbanks hw hn

theorem rotateMove_transfer {st : State} (hst : st.core core = s.core core) (i : Nat) :
    rotateMove st o i = some (transfer core west north a1 a b1 b i) := by
  simp only [rotateMove, ← hcore, hst, hbanks, transfer]
  split
  · rw [hw, Option.map_some]
  · rw [hn, Option.map_some]

include hwest hnorth

/-- No line changes the core it comes from. -/
theorem rotateLine_own {st : State} (hst : st.core core = s.core core) (i : Nat) : (rotateLine st o i).core core = s.core core := by
  rw [rotateLine_core (rotateMove_transfer hcore hbanks hw hn hst i), hst]
  unfold transfer
  split
  · exact hwest.symm
  · exact hnorth.symm

variable (hmoved : o.moved = 0)
include hmoved

theorem rotateRest_own : (rotateRest s o).core core = s.core core := by
  rw [rotateRest_whole s hmoved]
  exact foldl_keeps (f := fun st i => rotateLine st o i) (l := List.range rotateLines) (Inv := fun st => st.core core = s.core core)
    (fun st hst i _ => rotateLine_own hwest hnorth hcore hbanks hw hn hst i) rfl

/-- What every line leaves, the transfer leaves. -/
theorem rotateRest_view {β : Type} (view : State → β)
    (hview : ∀ st : State, st.core core = s.core core → ∀ i < 512, view (rotateLine st o i) = view st) :
    view (rotateRest s o) = view s := by
  rw [rotateRest_whole s hmoved]
  exact foldl_view (f := fun st i => rotateLine st o i) (l := List.range rotateLines) (Inv := fun st => st.core core = s.core core)
    (fun st hst i _ => rotateLine_own hwest hnorth hcore hbanks hw hn hst i)
    (fun st hst i hi => hview st hst i (List.mem_range.1 hi)) rfl

/-- What one line sets and the others leave. -/
theorem rotateRest_at {β : Type} (view : State → β) (g : β → β) {x : Nat} (hx : x < 512)
    (hset : ∀ st : State, st.core core = s.core core → view (rotateLine st o x) = g (view st))
    (hview : ∀ st : State, st.core core = s.core core → ∀ i < 512, i ≠ x → view (rotateLine st o i) = view st) :
    view (rotateRest s o) = g (view s) := by
  rw [rotateRest_whole s hmoved]
  exact foldl_at (f := fun st i => rotateLine st o i) (l := List.range rotateLines) (Inv := fun st => st.core core = s.core core)
    (fun st hst i _ => rotateLine_own hwest hnorth hcore hbanks hw hn hst i) hset
    (fun st hst i hi => hview st hst i (List.mem_range.1 hi)) List.nodup_range (List.mem_range.2 hx) rfl

theorem rotateRest_arrivedA : a ∈ ((rotateRest s o).core west).arrivedA := by
  have hall : ((rotateRest s o).core west).arrivedA = (s.core west).arrivedA ++ [a] :=
    rotateRest_at hwest hnorth hcore hbanks hw hn hmoved (fun st => (st.core west).arrivedA) (fun l => l ++ [a]) (x := 255) (by decide)
      (fun st hst => rotateLine_arrivedA (rotateMove_transfer hcore hbanks hw hn hst 255))
      (fun st _ i _ hi => (rotateLine_arrived_other st o i west).1 hi)
  rw [hall]
  exact List.mem_append_right _ List.mem_cons_self

theorem rotateRest_arrivedB : b ∈ ((rotateRest s o).core north).arrivedB := by
  have hall : ((rotateRest s o).core north).arrivedB = (s.core north).arrivedB ++ [b] :=
    rotateRest_at hwest hnorth hcore hbanks hw hn hmoved (fun st => (st.core north).arrivedB) (fun l => l ++ [b]) (x := 511) (by decide)
      (fun st hst => rotateLine_arrivedB (rotateMove_transfer hcore hbanks hw hn hst 511))
      (fun st _ i _ hi => (rotateLine_arrived_other st o i north).2 hi)
  rw [hall]
  exact List.mem_append_right _ List.mem_cons_self

/-- A byte outside every line's place is as it was. -/
theorem rotateRest_outside {k : Nat} (hk : ∀ i < 512, k < (transfer core west north a1 a b1 b i).to_ ∨
    (transfer core west north a1 a b1 b i).to_ + 64 ≤ k) : memByte (rotateRest s o).mem k = memByte s.mem k := by
  refine rotateRest_view hwest hnorth hcore hbanks hw hn hmoved (fun st => memByte st.mem k) fun st hst i hi => ?_
  rw [rotateLine_mem (rotateMove_transfer hcore hbanks hw hn hst i), moveLine_outside _ _ (hk i hi)]

include hapart

/-- The bytes of a line lie in its new place. -/
theorem rotateRest_byte {i q : Nat} (hi : i < 512) (hq : q < 64) :
    memByte (rotateRest s o).mem ((transfer core west north a1 a b1 b i).to_ + q) =
      memByte s.mem ((transfer core west north a1 a b1 b i).from_ + q) := by
  obtain ⟨ha1, ha, hb1, hb⟩ := rotBanks_lt hbanks
  have hboth := rotateRest_at hwest hnorth hcore hbanks hw hn hmoved (x := i)
    (fun st => (memByte st.mem ((transfer core west north a1 a b1 b i).to_ + q),
      memByte st.mem ((transfer core west north a1 a b1 b i).from_ + q))) (fun p => (p.2, p.2)) hi
    (fun st hst => by
      rw [rotateLine_mem (rotateMove_transfer hcore hbanks hw hn hst i), moveLine_byte _ _ hq,
        moveLine_outside _ _ (transfer_from_apart hwest hnorth ha1 ha hb1 hb hi hi hq)])
    (fun st hst k hk hik => by
      rw [rotateLine_mem (rotateMove_transfer hcore hbanks hw hn hst k),
        moveLine_outside _ _ (transfer_to_apart hapart ha hb hi hk hq hik.symm),
        moveLine_outside _ _ (transfer_from_apart hwest hnorth ha1 ha hb1 hb hi hk hq)])
  exact congrArg Prod.fst hboth

end

section
variable {o : EngineOp} (hcore : core = coreOf (o.thread % 4096)) (hbanks : rotBanks o = (a1, a, b1, b)) {s : State}
  (hw : neighbour core (s.core core).rseg 27 = some west) (hn : neighbour core (s.core core).rseg 24 = some north)
  (hmoved : o.moved = 0)
include hwest hnorth hcore hbanks hw hn hmoved

/-- What MROT waits for is in its own core. -/
theorem rotateRest_ready : opReady (rotateRest s o) o = opReady s o := by
  simp only [opReady, ← hcore, rotateRest_own hwest hnorth hcore hbanks hw hn hmoved]

/-- The bytes of A lie in the western neighbour's bank. -/
theorem rotateRest_west (hapart : ¬ (west = north ∧ a = b)) {i : Nat} (hi : i < 0x4000) :
    memByte (rotateRest s o).mem (localKey west (a * 0x4000 + i)) = memByte s.mem (localKey core (a1 * 0x4000 + i)) := by
  have h := rotateRest_byte hwest hnorth hapart hcore hbanks hw hn hmoved (i := i / 64) (by omega) (Nat.mod_lt i (by decide))
  have hkey (c x : Nat) : localKey c (x * 0x4000 + 64 * (i / 64)) + i % 64 = localKey c (x * 0x4000 + i) := by
    unfold localKey
    omega
  simpa only [transfer, if_pos (show i / 64 < 256 by omega), Move.to_, Move.from_, hkey] using h

/-- The bytes of B lie in the northern neighbour's bank. -/
theorem rotateRest_north (hapart : ¬ (west = north ∧ a = b)) {i : Nat} (hi : i < 0x4000) :
    memByte (rotateRest s o).mem (localKey north (b * 0x4000 + i)) = memByte s.mem (localKey core (b1 * 0x4000 + i)) := by
  have h := rotateRest_byte hwest hnorth hapart hcore hbanks hw hn hmoved (i := 256 + i / 64) (by omega) (Nat.mod_lt i (by decide))
  have hkey (c x : Nat) : localKey c (x * 0x4000 + 64 * (256 + i / 64 - 256)) + i % 64 = localKey c (x * 0x4000 + i) := by
    unfold localKey
    omega
  simpa only [transfer, if_neg (show ¬ 256 + i / 64 < 256 by omega), Move.to_, Move.from_, hkey] using h

/-- No other byte has changed. -/
theorem rotateRest_elsewhere {k : Nat}
    (hk : ∀ i < 0x4000, k ≠ localKey west (a * 0x4000 + i) ∧ k ≠ localKey north (b * 0x4000 + i)) :
    memByte (rotateRest s o).mem k = memByte s.mem k := by
  refine rotateRest_outside hwest hnorth hcore hbanks hw hn hmoved fun i hi => ?_
  by_contra hinside
  simp only [transfer, Move.to_, localKey] at hinside
  split at hinside
  · obtain ⟨hw, _⟩ := hk (k - localKey west (a * 0x4000)) (by unfold localKey; dsimp only at hinside; omega)
    unfold localKey at hw
    dsimp only at hinside
    omega
  · obtain ⟨_, hn⟩ := hk (k - localKey north (b * 0x4000)) (by unfold localKey; dsimp only at hinside; omega)
    unfold localKey at hn
    dsimp only at hinside
    omega

end

end

/-- The transfer step of MROT (R157, R276). -/
theorem mrot_transfers {s : State} {engine r e : Nat} {o : EngineOp} {rest : List EngineOp} {west north a1 a b1 b core : Nat}
    (hwork : AtWork s engine r e o rest) (hk : o.kind = .mrot) (hlast : o.steps + 1 = o.total) (hmoved : o.moved = 0)
    (hcore : core = coreOf (o.thread % 4096)) (hbanks : rotBanks o = (a1, a, b1, b))
    (hw : neighbour core (s.core core).rseg 27 = some west) (hn : neighbour core (s.core core).rseg 24 = some north)
    (htest : rotateTest s o = .ok ()) (hwest : west ≠ core) (hnorth : north ≠ core) (hapart : ¬ (west = north ∧ a = b)) :
    ∃ t, exec (.engineStep engine) s = .next t ∧
      (∀ i < 0x4000, memByte t.mem (localKey west (a * 0x4000 + i)) = memByte s.mem (localKey core (a1 * 0x4000 + i))) ∧
      (∀ i < 0x4000, memByte t.mem (localKey north (b * 0x4000 + i)) = memByte s.mem (localKey core (b1 * 0x4000 + i))) ∧
      (∀ k, (∀ i < 0x4000, k ≠ localKey west (a * 0x4000 + i) ∧ k ≠ localKey north (b * 0x4000 + i)) →
        memByte t.mem k = memByte s.mem k) ∧
      a ∈ (t.core west).arrivedA ∧ b ∈ (t.core north).arrivedB ∧ (opReady s o = true → (leaseOf t r e).ops = rest) ∧
      (opReady s o = false → (leaseOf t r e).ops = { o with steps := o.total } :: rest) := by
  have hstep : opStep s engine o = .ok (rotateRest s o, { o with steps := o.steps + 1 }, none) := by
    rw [opStep_mrot_transfer hk hlast, rotateStep, if_pos hmoved, htest]
    rfl
  have hkeeps : KeepsLeases s (rotateRest s o) := KeepsLeases.foldl (fun s i => rotateLine_keepsLeases s o i) _ s
  obtain ⟨t, ht, hs⟩ := engineStep_made hwork (by omega) hstep hwork ((AtWork.sameQueue hwork).keeps hkeeps)
  have hready : opReady (rotateRest s o) { o with steps := o.steps + 1 } = opReady s o :=
    rotateRest_ready hwest hnorth hcore hbanks hw hn hmoved
  refine ⟨t, ht, ?_⟩
  rw [hs.mem (by simp [hk]), hs.core west (hcore ▸ hwest), hs.core north (hcore ▸ hnorth)]
  refine ⟨?_, ?_, ?_, ?_, ?_, fun h => ?_, fun h => ?_⟩
  · exact fun i hi => rotateRest_west hwest hnorth hcore hbanks hw hn hmoved hapart hi
  · exact fun i hi => rotateRest_north hwest hnorth hcore hbanks hw hn hmoved hapart hi
  · exact fun k hk => rotateRest_elsewhere hwest hnorth hcore hbanks hw hn hmoved hk
  · exact rotateRest_arrivedA hwest hnorth hcore hbanks hw hn hmoved
  · exact rotateRest_arrivedB hwest hnorth hcore hbanks hw hn hmoved
  · obtain ⟨hops, _⟩ := hs.completes (Nat.le_of_eq hlast.symm) (hready.trans h)
    exact hops
  · have hgoes := hs.goesOn (by rw [hready, h]; simp)
    rwa [hlast] at hgoes

end Sys2Proof.EngineSteps
end

section
/-!
PROOF of O37, MDRAIN's step (R156, R277). The rows of a group are put into the target core's local store a byte at a time, each row
apart from the others.
-/

namespace Sys2Proof.EngineSteps

open Machine Spec Laws

/-! ## Bytes of a local store, by a number and a mask -/

/-- Byte i of a place after a masked write of a number. -/
def maskedByte (data mask i : Nat) (old : Byte) : Byte :=
  mixByte old 0 (BitVec.ofNat 512 (data / 2 ^ (8 * i))) (BitVec.ofNat 512 (mask / 2 ^ (8 * i) % 256))

theorem getLsbD_maskedByte (data mask i : Nat) (old : Byte) {j : Nat} (hj : j < 8) : (maskedByte data mask i old).getLsbD j =
    if mask.testBit (8 * i + j) then data.testBit (8 * i + j) else old.getLsbD j := by
  have hmask : (BitVec.ofNat 512 (mask / 2 ^ (8 * i) % 256)).getLsbD j = mask.testBit (8 * i + j) := by
    rw [BitVec.getLsbD_ofNat, show (256 : Nat) = 2 ^ 8 by decide, Nat.testBit_mod_two_pow, Nat.testBit_div_two_pow,
      decide_eq_true (show j < 512 by omega), decide_eq_true hj, Bool.true_and, Bool.true_and, Nat.add_comm]
  have hdata : (BitVec.ofNat 512 (data / 2 ^ (8 * i))).getLsbD j = data.testBit (8 * i + j) := by
    rw [BitVec.getLsbD_ofNat, Nat.testBit_div_two_pow, decide_eq_true (show j < 512 by omega), Bool.true_and, Nat.add_comm]
  simp only [maskedByte, mixByte, Nat.mul_zero, BitVec.ushiftRight_zero, BitVec.getLsbD_or, BitVec.getLsbD_and, BitVec.getLsbD_not,
    BitVec.getLsbD_setWidth, hmask, hdata, decide_eq_true hj, Bool.true_and]
  cases mask.testBit (8 * i + j) <;> simp

/-- A bit of a number read from memory. -/
theorem memNat_testBit (m : List Host.Cell) (k : Nat) {i n : Nat} (hi : i < 8 * n) :
    (memNat m k n).testBit i = (memByte m (k + i / 8)).getLsbD (i % 8) := by
  rw [← memNat_digit m k (show i / 8 < n by omega), BitVec.getLsbD_ofNat, show (256 : Nat) = 2 ^ 8 by decide, ← Nat.pow_mul,
    Nat.testBit_div_two_pow, decide_eq_true (Nat.mod_lt i (by decide)), Bool.true_and, show i % 8 + 8 * (i / 8) = i by omega]

/-! ## One row -/

section
variable (s : State) (cl core off n data mask : Nat)

theorem putLocal_keepsLeases : KeepsLeases s (putLocal s cl core off n data mask) :=
  KeepsLeases.foldl (fun s _ => writeThere_keepsLeases s ..) _ s

variable {off n} (hfit : off + n ≤ 2 ^ 18)
include hfit

theorem putLocal_byte {i : Nat} (hi : i < n) : memByte (putLocal s cl core off n data mask).mem (localKey core (off + i)) =
    maskedByte data mask i (memByte s.mem (localKey core (off + i))) := by
  have hkey {k : Nat} (hk : k < n) : (off + k) % 2 ^ 18 = off + k := Nat.mod_eq_of_lt (by omega)
  refine foldl_at (view := fun s : State => memByte s.mem (localKey core (off + i))) (Inv := fun _ => True) (x := i)
    (fun _ _ _ _ => trivial) (fun s _ => ?_) (fun s _ k hk hki => ?_) List.nodup_range (List.mem_range.2 hi) trivial
  · rw [writeThere_mem, hkey hi]
    exact memByte_memWrite_inside 1 s.mem (localKey core (off + i)) 0 _ _ Nat.one_pos
  · have hk := List.mem_range.1 hk
    rw [writeThere_mem, hkey hk, memByte_memWrite_outside _ _ _ _ _ _ (by unfold localKey; omega)]

theorem putLocal_outside {k : Nat} (hk : ∀ i < n, k ≠ localKey core (off + i)) :
    memByte (putLocal s cl core off n data mask).mem k = memByte s.mem k := by
  refine foldl_view (view := fun s : State => memByte s.mem k) (Inv := fun _ => True) (fun _ _ _ _ => trivial) (fun s _ i hi => ?_) trivial
  have hi := List.mem_range.1 hi
  have hne := hk i hi
  rw [writeThere_mem, Nat.mod_eq_of_lt (by omega), memByte_memWrite_outside _ _ _ _ _ _ (by omega)]

end

/-! ## The rows of a group -/

/-- The numbers an accumulator's row drains to, one after another. -/
def drainData (o : EngineOp) (banks : AMap Acc) (q : Nat) : Nat :=
  ofLanes (fmtBits (oFmt o.ec)) ((List.range (ecN o.ec)).map (fun c =>
    ((lookD banks (o.y.toNat * 4096 + q % 64 * 64 + c) {}).drain (oFmt o.ec) (ecRnd o.ec) (ecSat o.ec)).1))

/-- A row put into the target core's local store. -/
def drainRow (o : EngineOp) (banks : AMap Acc) (core n : Nat) (at_ : Nat → Nat) (s : State) (q : Nat) : State :=
  putLocal s (clusterOf (coreOf (o.thread % 4096))) core (at_ q) n (drainData o banks q) (2 ^ (fmtBits (oFmt o.ec) * ecN o.ec) - 1)

section
variable {s : State} {engine g first count core n : Nat} {o : EngineOp} {rows : List Nat} {at_ : Nat → Nat}

/-- A step of MDRAIN that may reach every row. -/
theorem drainStep_rows (hcount : drainRows o = (first, count)) (hcore : core = coreOf (o.thread % 4096) / 256 * 256 + o.x.toNat)
    (hn : n = rowBytes (oFmt o.ec) (ecN o.ec)) (hat : at_ = fun q => (ecField o.ec 8 17 0 + q * (ecAt o.ec 9).toNat) % 2 ^ 18)
    (hrows : rows = (List.range (min count (8 * g + 8) - 8 * g)).map (fun i => first + 8 * g + i))
    (hreach : ∀ q ∈ rows, localBad s o.who core (at_ q) n = none) : ∃ fl, drainStep s engine o g =
      .ok (setDrn (rows.foldl (drainRow o (engineAt s engine).banks core n at_) s) engine true, o.raise fl) := by
  have hnone : rows.findSome? (fun q => localBad s o.who core (at_ q) n) = none := List.findSome?_eq_none_iff.2 hreach
  subst hcore hn hat hrows
  unfold drainStep
  simp only [hcount, hnone]
  refine ⟨_, congrArg (fun st => Except.ok (setDrn st engine true, o.raise _)) (List.foldl_hom Prod.fst fun acc q => ?_).symm⟩
  simp only [drainRow, drainData, List.map_map]
  rfl

theorem drainRow_keepsLeases (o : EngineOp) (banks : AMap Acc) (core n : Nat) (at_ : Nat → Nat) (s : State) (rows : List Nat) :
    KeepsLeases s (rows.foldl (drainRow o banks core n at_) s) := KeepsLeases.foldl (fun s _ => putLocal_keepsLeases s ..) rows s

section
variable {banks : AMap Acc} (hfit : ∀ q ∈ rows, at_ q + n ≤ 2 ^ 18)
include hfit

/-- A row's bytes, where the rows lie apart. -/
theorem drainedRows_byte (hapart : ∀ p ∈ rows, ∀ q ∈ rows, p ≠ q → at_ p + n ≤ at_ q ∨ at_ q + n ≤ at_ p) (hnodup : rows.Nodup)
    {q i : Nat} (hq : q ∈ rows) (hi : i < n) :
    memByte (rows.foldl (drainRow o banks core n at_) s).mem (localKey core (at_ q + i)) =
      maskedByte (drainData o banks q) (2 ^ (fmtBits (oFmt o.ec) * ecN o.ec) - 1) i (memByte s.mem (localKey core (at_ q + i))) := by
  refine foldl_at (f := drainRow o banks core n at_) (l := rows) (view := fun s : State => memByte s.mem (localKey core (at_ q + i)))
    (Inv := fun _ => True) (g := maskedByte (drainData o banks q) (2 ^ (fmtBits (oFmt o.ec) * ecN o.ec) - 1) i) (x := q)
    (fun _ _ _ _ => trivial) (fun s _ => putLocal_byte s _ _ _ _ (hfit q hq) hi) (fun s _ p hp hpq => ?_) hnodup hq trivial
  refine putLocal_outside s _ _ _ _ (hfit p hp) fun k hk => ?_
  have := hapart p hp q hq hpq
  unfold localKey
  omega

theorem drainedRows_outside {k : Nat} (hk : ∀ q ∈ rows, ∀ i < n, k ≠ localKey core (at_ q + i)) :
    memByte (rows.foldl (drainRow o banks core n at_) s).mem k = memByte s.mem k :=
  foldl_view (view := fun s : State => memByte s.mem k) (Inv := fun _ => True) (fun _ _ _ _ => trivial)
    (fun s _ q hq => putLocal_outside s _ _ _ _ (hfit q hq) (hk q hq)) trivial

/-- The bits of a row are those its accumulators drain to; beyond its last element they are as they were. -/
theorem drainedRows_bit (hapart : ∀ p ∈ rows, ∀ q ∈ rows, p ≠ q → at_ p + n ≤ at_ q ∨ at_ q + n ≤ at_ p) (hnodup : rows.Nodup)
    {q i : Nat} (hq : q ∈ rows) (hi : i < 8 * n) :
    (memNat (rows.foldl (drainRow o banks core n at_) s).mem (localKey core (at_ q)) n).testBit i =
      if i < fmtBits (oFmt o.ec) * ecN o.ec then (drainData o banks q).testBit i else (memNat s.mem (localKey core (at_ q)) n).testBit i := by
  have hkey : localKey core (at_ q) + i / 8 = localKey core (at_ q + i / 8) := Nat.add_assoc ..
  rw [memNat_testBit _ _ hi, memNat_testBit _ _ hi, hkey, drainedRows_byte hfit hapart hnodup hq (show i / 8 < n by omega),
    getLsbD_maskedByte _ _ _ _ (Nat.mod_lt i (by decide)), Nat.div_add_mod, Nat.testBit_two_pow_sub_one]
  simp only [decide_eq_true_eq]

end

end

/-- A step of MDRAIN writes each row of its group into the target core's local store (R156, R277). -/
theorem mdrain_writes {s : State} {engine r e : Nat} {o : EngineOp} {rest : List EngineOp} {first count core n w : Nat} {rows : List Nat}
    {at_ : Nat → Nat} (hwork : AtWork s engine r e o rest) (hk : o.kind = .mdrain) (hg : o.steps < rowGroups count)
    (hcount : drainRows o = (first, count)) (hcore : core = coreOf (o.thread % 4096) / 256 * 256 + o.x.toNat)
    (hn : n = rowBytes (oFmt o.ec) (ecN o.ec)) (hw : w = fmtBits (oFmt o.ec))
    (hrows : rows = (List.range (min count (8 * o.steps + 8) - 8 * o.steps)).map (fun i => first + 8 * o.steps + i))
    (hat : at_ = fun q => (ecField o.ec 8 17 0 + q * (ecAt o.ec 9).toNat) % 2 ^ 18)
    (hreach : ∀ q ∈ rows, at_ q + n ≤ 2 ^ 18 ∧ localBad s o.who core (at_ q) n = none)
    (hapart : ∀ p ∈ rows, ∀ q ∈ rows, p ≠ q → at_ p + n ≤ at_ q ∨ at_ q + n ≤ at_ p) :
    ∃ t, exec (.engineStep engine) s = .next t ∧ (leaseOf t r e).drn = true ∧ (engineAt t engine).banks = (engineAt s engine).banks ∧
      (∀ q ∈ rows, ∀ i < 8 * n, (memNat t.mem (localKey core (at_ q)) n).testBit i =
        if i < w * ecN o.ec then (ofLanes w ((List.range (ecN o.ec)).map (fun c =>
          ((lookD (engineAt s engine).banks (o.y.toNat * 4096 + q % 64 * 64 + c) {}).drain (oFmt o.ec) (ecRnd o.ec) (ecSat o.ec)).1))).testBit i
        else (memNat s.mem (localKey core (at_ q)) n).testBit i) ∧
      (∀ k, (∀ q ∈ rows, ∀ i < n, k ≠ localKey core (at_ q + i)) → memByte t.mem k = memByte s.mem k) ∧
      (o.steps + 1 < rowGroups count → ((leaseOf t r e).ops.map (fun x => x.steps)).head? = some (o.steps + 1)) ∧
      (rowGroups count ≤ o.steps + 1 → (leaseOf t r e).ops = rest) := by
  have hfit : ∀ q ∈ rows, at_ q + n ≤ 2 ^ 18 := fun q hq => (hreach q hq).1
  have hnodup : rows.Nodup := hrows ▸ List.nodup_range.map fun i k h => by simpa using h
  obtain ⟨fl, hdrain⟩ := drainStep_rows (engine := engine) hcount hcore hn hat hrows fun q hq => (hreach q hq).2
  have hkeeps := drainRow_keepsLeases o (engineAt s engine).banks core n at_ s rows
  generalize hu : rows.foldl (drainRow o (engineAt s engine).banks core n at_) s = u at hdrain hkeeps
  rw [setDrn_held ((congrArg Engine.holder (hkeeps.engineAt engine)).trans (AtWork.holder hwork))] at hdrain
  have hstep : opStep s engine o = .ok (updLease u r e (fun l => { l with drn := true }), { o.raise fl with steps := o.steps + 1 }, none) := by
    rw [opStep_mdrain hk, hdrain, oneStep_ok]
  have hq := (AtWork.sameQueue hwork).keeps hkeeps
  have htotal : o.total = rowGroups count := by simp only [EngineOp.total, hk, hcount]
  obtain ⟨t, ht, hs⟩ := engineStep_made hwork (htotal ▸ hg) hstep hwork (hq.drn true)
  have hmem : t.mem = u.mem := (hs.mem (by simp [EngineOp.raise, hk])).trans (mem_of_storage (updLease_storage ..))
  have htotal' : ({ o.raise fl with steps := o.steps + 1 } : EngineOp).total = rowGroups count := htotal
  refine ⟨t, ht, ?_, ?_, fun q hq i hi => ?_, fun k hk => ?_, fun hmore => ?_, fun hend => ?_⟩
  · rw [hs.drn, leaseOf_updLease hq.live]
  · rw [hs.engine, engineAt_updLease, hkeeps.engineAt]
  · rw [hmem, ← hu, hw]
    exact drainedRows_bit hfit hapart hnodup hq hi
  · rw [hmem, ← hu]
    exact drainedRows_outside hfit hk
  · rw [hs.goesOn fun h => by rw [htotal'] at h; exact Nat.not_le.2 hmore h.1]
    rfl
  · obtain ⟨hops, _⟩ := hs.completes (htotal'.trans_le hend) (opReady_of_ne _ (by simp [EngineOp.raise, hk]))
    exact hops

end Sys2Proof.EngineSteps
end

section
/-!
PROOF of O37, steps of the residue engine (R278, R279).
-/

namespace Sys2Proof.EngineSteps

open Machine Spec Laws

section
variable {s s1 : State} {engine r e : Nat} {o : EngineOp} {rest : List EngineOp}

theorem rlds_loads {p : AMap Int} {fl : Raised} (hw : AtWork s engine r e o rest) (hk : o.kind = .rlds) (hn : o.steps = 0)
    (hfetch : fetchResidues s o o.x.toNat = .ok (s1, p, fl)) (h1 : AtWork s1 engine r e o rest) :
    ∃ t, exec (.engineStep engine) s = .next t ∧ (engineAt t engine).rplane = p ∧
      (engineAt t engine).rshadow = (engineAt s1 engine).rplane ∧ StepLeft s1 t r e { o.raise fl with steps := 1 } rest ∧
      t.mem = s1.mem := by
  have hstep : opStep s engine o = .ok (setEngine s1 engine { engineAt s1 engine with rplane := p, rshadow := (engineAt s1 engine).rplane },
      { o.raise fl with steps := 1 }, none) := by
    rw [opStep_rlds hk, hfetch]
    exact congrArg (fun n => Except.ok (_, { o.raise fl with steps := n + 1 }, none)) hn
  have hq := (AtWork.sameQueue h1).setEngine engine { engineAt s1 engine with rplane := p, rshadow := (engineAt s1 engine).rplane }
  obtain ⟨t, ht, hs⟩ := engineStep_made hw (by simp [EngineOp.total, hk, hn]) hstep h1 hq
  have hengine := (hs.engine engine).trans (engineAt_setEngine ..)
  refine ⟨t, ht, by rw [hengine], by rw [hengine], hs.left hq ?_, hs.mem ?_⟩
  · simp [EngineOp.raise, hk]
  · simp [EngineOp.raise, hk]

theorem loadResidues_loaded {i : Nat} (h : i ≤ o.loaded ∨ kBlocks o.ec 32 ≤ o.x.toNat + i) : loadResidues s engine o i = .ok (s, o) := by
  rw [loadResidues, if_pos h]

theorem loadResidues_fetches {i : Nat} {p : AMap Int} {fl : Raised} (hnew : o.loaded < i) (hj : o.x.toNat + i < kBlocks o.ec 32)
    (hfetch : fetchResidues s o (o.x.toNat + i) = .ok (s1, p, fl)) : loadResidues s engine o i =
      .ok (setEngine s1 engine { engineAt s1 engine with rshadow := p }, { o.raise fl with loaded := i }) := by
  simp only [loadResidues, if_neg (show ¬ (i ≤ o.loaded ∨ kBlocks o.ec 32 ≤ o.x.toNat + i) by omega), hfetch]
  rfl

/-- A load of residues changes neither the geometry nor whose operation it is. -/
theorem loadResidues_frame {i : Nat} {s0 : State} {o0 : EngineOp} (h : loadResidues s engine o i = .ok (s0, o0)) :
    o0.ec = o.ec ∧ o0.kind = o.kind ∧ o0.x = o.x := by
  unfold loadResidues at h
  split at h
  · cases h
    exact ⟨rfl, rfl, rfl⟩
  · cases hfetch : fetchResidues s o (o.x.toNat + i) with
    | error b => simp [hfetch, bind, Except.bind] at h
    | ok x =>
      simp only [hfetch, bind, Except.bind, pure, Except.pure, Except.ok.injEq, Prod.mk.injEq] at h
      obtain ⟨_, rfl⟩ := h
      exact ⟨rfl, rfl, rfl⟩

end

/-! ## Terms added to the bank -/

/-- The terms of a row of A and column c of the plane, added to a residue. -/
def addTerms (plane : AMap Int) (c : Nat) (row : List Machine.Num) (y : Residue) : Residue :=
  row.zipIdx.foldl (fun y v => y.addTerm (intOf v.1) (lookD plane (v.2 * 64 + c) 0)) y

/-- A row of A multiplied into the bank, in columns. -/
def addRow (columns : Nat) (plane : AMap Int) (bank : AMap Residue) (row : Nat × List Machine.Num) : AMap Residue :=
  (List.range columns).foldl
    (fun bank c => put bank (row.1 * 64 + c) (addTerms plane c row.2 (lookD bank (row.1 * 64 + c) {}))) bank

section
variable {columns : Nat} {plane : AMap Int} (bank : AMap Residue) (row : Nat × List Machine.Num)

theorem addRow_column {c : Nat} (hc : c < columns) :
    lookD (addRow columns plane bank row) (row.1 * 64 + c) {} = addTerms plane c row.2 (lookD bank (row.1 * 64 + c) {}) := by
  refine foldl_at (view := fun bank : AMap Residue => lookD bank (row.1 * 64 + c) {}) (Inv := fun _ => True) (x := c)
    (g := addTerms plane c row.2) (fun _ _ _ _ => trivial) (fun bank _ => lookD_put_same ..) (fun bank _ k _ hk => ?_)
    List.nodup_range (List.mem_range.2 hc) trivial
  exact lookD_put_other _ _ _ (by omega)

theorem addRow_outside {k : Nat} (hk : ∀ c < columns, k ≠ row.1 * 64 + c) :
    lookD (addRow columns plane bank row) k {} = lookD bank k {} :=
  foldl_view (view := fun bank : AMap Residue => lookD bank k {}) (Inv := fun _ => True) (fun _ _ _ _ => trivial)
    (fun _ _ c hc => lookD_put_other _ _ _ (hk c (List.mem_range.1 hc))) trivial

end

section
variable {columns : Nat} {plane : AMap Int} (bank : AMap Residue) {rows : List (Nat × List Machine.Num)}

/-- Rows of different numbers are added each in its own place. -/
theorem addRows_column (hcolumns : columns ≤ 64) (hrows : (rows.map Prod.fst).Nodup) {q c : Nat} {row : List Machine.Num}
    (hq : (q, row) ∈ rows) (hc : c < columns) :
    lookD (rows.foldl (addRow columns plane) bank) (q * 64 + c) {} = addTerms plane c row (lookD bank (q * 64 + c) {}) := by
  refine foldl_at (view := fun bank : AMap Residue => lookD bank (q * 64 + c) {}) (Inv := fun _ => True) (x := (q, row))
    (g := addTerms plane c row) (fun _ _ _ _ => trivial) (fun bank _ => addRow_column bank (q, row) hc) (fun bank _ p hp hpq => ?_)
    hrows.of_map hq trivial
  refine addRow_outside _ _ fun k hk hkey => hpq ?_
  exact List.inj_on_of_nodup_map hrows hp hq (by omega)

theorem addRows_outside {k : Nat} (hk : ∀ p ∈ rows, ∀ c < columns, k ≠ p.1 * 64 + c) :
    lookD (rows.foldl (addRow columns plane) bank) k {} = lookD bank k {} :=
  foldl_view (view := fun bank : AMap Residue => lookD bank k {}) (Inv := fun _ => True) (fun _ _ _ _ => trivial)
    (fun bank _ p hp => addRow_outside bank p (hk p hp)) trivial

end

theorem fetchRows_length {who : Who} {f n : Nat} {s s1 : State} {vas : List DWord} {xs : List (List Machine.Num)} {fl : Raised}
    (h : fetchRows who f n s vas = .ok (s1, xs, fl)) : xs.length = vas.length := by
  induction vas generalizing s s1 xs fl with
  | nil =>
    cases h
    rfl
  | cons va vas ih =>
    rw [fetchRows] at h
    cases hread : readAll s who va (rowBytes f n) 2 with
    | error b => simp [hread, bind, Except.bind] at h
    | ok x =>
      cases hmore : fetchRows who f n x.1 vas with
      | error b => simp [hread, hmore, bind, Except.bind] at h
      | ok y =>
        obtain ⟨_, more, _⟩ := y
        simp only [hread, hmore, bind, Except.bind, pure, Except.pure, Except.ok.injEq, Prod.mk.injEq] at h
        obtain ⟨_, rfl, _⟩ := h
        rw [List.length_cons, List.length_cons, ih hmore]

/-! ## A row group of RTILE (R279) -/

/-- An engine at row group g of k-block i of RTILE: with the first of a later k-block the planes are exchanged. -/
def turned (x : Engine) (i g : Nat) : Engine :=
  if g = 0 ∧ 0 < i then { x with rplane := x.rshadow, rshadow := x.rplane } else x

theorem turned_rplane (x : Engine) (i g : Nat) : (turned x i g).rplane = if g = 0 ∧ 0 < i then x.rshadow else x.rplane := by
  unfold turned
  split <;> rfl

theorem turned_rbank (x : Engine) (i g : Nat) : (turned x i g).rbank = x.rbank := by
  unfold turned
  split <;> rfl

/-- The state in which an engine's residues are x's, at an operation's first step without DRN. -/
def multiplied (s : State) (engine : Nat) (first : Bool) (x : Engine) : State :=
  setEngine (if first then setDrn s engine false else s) engine x

theorem multiplied_holds {s : State} {engine r e : Nat} {o : EngineOp} {rest : List EngineOp} (h : AtWork s engine r e o rest)
    (first : Bool) (x : Engine) : SameQueue s (multiplied s engine first x) r e ∧ (multiplied s engine first x).mem = s.mem ∧
      engineAt (multiplied s engine first x) engine = x := by
  unfold multiplied
  rw [setDrn_held (AtWork.holder h)]
  split
  · exact ⟨((AtWork.sameQueue h).drn false).setEngine .., mem_of_storage (updLease_storage ..), engineAt_setEngine ..⟩
  · exact ⟨(AtWork.sameQueue h).setEngine .., rfl, engineAt_setEngine ..⟩

/-- The rows of row group g. -/
def groupRows (o : EngineOp) (g : Nat) : List Nat := (List.range (min (ecM o.ec) (8 * g + 8) - 8 * g)).map (8 * g + ·)

/-- Step n of RTILE, row group g of its k-block i. -/
theorem residueStep_group (s : State) (engine : Nat) (o : EngineOp) {i g n : Nat} (hn : n = i * rowGroups (ecM o.ec) + g)
    (hg : g < rowGroups (ecM o.ec)) : residueStep s engine o n = (do
      let (s0, o0) ← loadResidues s engine o i
      let (s1, xs, fl) ← fetchRows o0.who (aFmt o0.ec) (min (ecK o0.ec) (32 * (o.x.toNat + i) + 32) - 32 * (o.x.toNat + i)) s0
        ((groupRows o0 g).map (fun r => rowAt (ecAddr o0.ec 2) (ecAt o0.ec 4) r +
          BitVec.ofNat 64 (elemBytes (aFmt o0.ec) (32 * (o.x.toNat + i)))))
      let x := turned (engineAt s1 engine) i g
      let bank := ((groupRows o0 g).zip xs).foldl (addRow (ecN o0.ec) x.rplane) (if n = 0 ∧ ecFresh o0.ec then [] else x.rbank)
      let t := multiplied s1 engine (n = 0 ∧ ecFresh o0.ec) { x with rbank := bank }
      let o1 := o0.raise fl
      return if g + 1 = rowGroups (ecM o.ec) then loadBeside (t, o1) (loadResidues t engine o1 (i + 1)) else (t, o1)) := by
  obtain ⟨hdiv, hmod⟩ := div_mod_group hn hg
  rw [residueStep, hdiv, hmod]
  simp only [multiplied, decide_eq_true_eq]
  rfl

section
variable {s s0 s1 : State} {engine : Nat} {o o0 : EngineOp} {i g n : Nat} {xs : List (List Machine.Num)} {fl : Raised}
  (hg : g < rowGroups (ecM o.ec)) (hload : loadResidues s engine o i = .ok (s0, o0))
  (hfetch : fetchRows o0.who (aFmt o.ec) (min (ecK o.ec) (32 * (o.x.toNat + i) + 32) - 32 * (o.x.toNat + i)) s0
    ((groupRows o g).map (fun q => rowAt (ecAddr o.ec 2) (ecAt o.ec 4) q +
      BitVec.ofNat 64 (elemBytes (aFmt o.ec) (32 * (o.x.toNat + i))))) = .ok (s1, xs, fl))
  (hlater : g + 1 < rowGroups (ecM o.ec) ∨ kBlocks o.ec 32 ≤ o.x.toNat + i + 1 ∨ i + 1 ≤ o0.loaded)
include hg hload hfetch hlater

/-- A step of RTILE of which no later plane is to be loaded. -/
theorem residueStep_multiplies (hn : n = i * rowGroups (ecM o.ec) + g) : residueStep s engine o n =
    .ok (multiplied s1 engine (n = 0 ∧ ecFresh o.ec) { turned (engineAt s1 engine) i g with
      rbank := ((groupRows o g).zip xs).foldl (addRow (ecN o.ec) (turned (engineAt s1 engine) i g).rplane)
        (if n = 0 ∧ ecFresh o.ec then [] else (engineAt s1 engine).rbank) }, o0.raise fl) := by
  obtain ⟨hec, _, hx⟩ := loadResidues_frame hload
  have hrows : groupRows o0 g = groupRows o g := by rw [groupRows, groupRows, hec]
  rw [residueStep_group s engine o hn hg, hload]
  simp only [bind, Except.bind, hrows, hec, hfetch, turned_rbank]
  split
  · rw [loadResidues_loaded (by change _ ≤ o0.loaded ∨ kBlocks o0.ec 32 ≤ o0.x.toNat + _; rw [hec, hx]; omega)]
    rfl
  · rfl

end

/-- The rows of a group with their elements. -/
theorem groupRows_zip {o : EngineOp} {g : Nat} {xs : List (List Machine.Num)} (h : xs.length = (groupRows o g).length) :
    (((groupRows o g).zip xs).map Prod.fst).Nodup ∧ ∀ q < min (ecM o.ec) (8 * g + 8) - 8 * g,
      (8 * g + q, xs.getD q []) ∈ (groupRows o g).zip xs := by
  refine ⟨?_, fun q hq => ?_⟩
  · rw [List.map_fst_zip h.ge]
    exact List.nodup_range.map fun i k h => by simpa using h
  · have hlen : q < xs.length := by rw [h, groupRows, List.length_map, List.length_range]; exact hq
    refine List.mem_iff_getElem?.2 ⟨q, ?_⟩
    rw [List.getElem?_zip_eq_some]
    refine ⟨?_, ?_⟩
    · rw [groupRows, List.getElem?_map, List.getElem?_range hq, Option.map_some]
    · rw [List.getD_eq_getElem _ _ hlen, List.getElem?_eq_getElem hlen]

/-- A step of RTILE (R279). -/
theorem rtile_multiplies {s s0 s1 : State} {engine r e : Nat} {o o0 : EngineOp} {rest : List EngineOp} {i g : Nat}
    {xs : List (List Machine.Num)} {fl : Raised} {plane : AMap Int} {bank : AMap Residue} (hw : AtWork s engine r e o rest)
    (hk : o.kind = .rtile) (hn : o.steps = i * rowGroups (ecM o.ec) + g) (hg : g < rowGroups (ecM o.ec))
    (hi : o.x.toNat + i < kBlocks o.ec 32) (hcolumns : ecN o.ec ≤ 64) (hload : loadResidues s engine o i = .ok (s0, o0))
    (hfetch : fetchRows o0.who (aFmt o.ec) (min (ecK o.ec) (32 * (o.x.toNat + i) + 32) - 32 * (o.x.toNat + i)) s0
      ((List.range (min (ecM o.ec) (8 * g + 8) - 8 * g)).map (fun q => rowAt (ecAddr o.ec 2) (ecAt o.ec 4) (8 * g + q) +
        BitVec.ofNat 64 (elemBytes (aFmt o.ec) (32 * (o.x.toNat + i))))) = .ok (s1, xs, fl))
    (h1 : AtWork s1 engine r e o rest)
    (hlater : g + 1 < rowGroups (ecM o.ec) ∨ kBlocks o.ec 32 ≤ o.x.toNat + i + 1 ∨ i + 1 ≤ o0.loaded)
    (hplane : plane = if g = 0 ∧ 0 < i then (engineAt s1 engine).rshadow else (engineAt s1 engine).rplane)
    (hbank : bank = if o.steps = 0 ∧ ecFresh o.ec = true then [] else (engineAt s1 engine).rbank) :
    ∃ t, exec (.engineStep engine) s = .next t ∧ (engineAt t engine).rplane = plane ∧ t.mem = s1.mem ∧
      (∀ q < min (ecM o.ec) (8 * g + 8) - 8 * g, ∀ c < ecN o.ec, lookD (engineAt t engine).rbank ((8 * g + q) * 64 + c) {} =
        addTerms plane c (xs.getD q []) (lookD bank ((8 * g + q) * 64 + c) {})) ∧
      (∀ k, (∀ q < min (ecM o.ec) (8 * g + 8) - 8 * g, ∀ c < ecN o.ec, k ≠ (8 * g + q) * 64 + c) →
        lookD (engineAt t engine).rbank k {} = lookD bank k {}) ∧
      StepLeft s1 t r e { o0.raise fl with steps := o.steps + 1 } rest := by
  obtain ⟨_, hkind, _⟩ := loadResidues_frame hload
  have hlength : xs.length = (groupRows o g).length := by rw [fetchRows_length hfetch, groupRows, List.length_map, List.length_map]
  obtain ⟨hnodup, hzip⟩ := groupRows_zip hlength
  have hfetch' := hfetch
  rw [← Function.comp_def (fun q => rowAt (ecAddr o.ec 2) (ecAt o.ec 4) q + _) (8 * g + ·), ← List.map_map] at hfetch'
  have hstep := (opStep_rtile hk).trans (congrArg (oneStep o) (residueStep_multiplies hg hload hfetch' hlater hn))
  rw [oneStep_ok, ← hbank, turned_rplane, ← hplane] at hstep
  obtain ⟨hq, hmem, hengine⟩ := multiplied_holds h1 (o.steps = 0 ∧ ecFresh o.ec) { turned (engineAt s1 engine) i g with
    rbank := ((groupRows o g).zip xs).foldl (addRow (ecN o.ec) plane) bank }
  have hlt : o.steps < o.total := by
    simp only [EngineOp.total, hk, hn]
    exact group_lt hg (by omega)
  obtain ⟨t, ht, hs⟩ := engineStep_made hw hlt hstep h1 hq
  refine ⟨t, ht, ?_, (hs.mem ?_).trans hmem, fun q hq c hc => ?_, fun k hk => ?_, hs.left hq fun h => ?_⟩
  · rw [hs.engine, hengine, hplane, ← turned_rplane]
  · simp [EngineOp.raise, hkind, hk]
  · rw [hs.engine, hengine]
    exact addRows_column bank hcolumns hnodup (hzip q hq) hc
  · rw [hs.engine, hengine]
    refine addRows_outside bank fun p hp c hc => ?_
    obtain ⟨hrow, _⟩ := List.of_mem_zip hp
    obtain ⟨q, hq, hpq⟩ := List.mem_map.1 hrow
    rw [← hpq]
    exact hk q (List.mem_range.1 hq) c hc
  · simp [EngineOp.raise, hkind, hk] at h

/-! ## RCONV (R279) -/

section
variable {s s1 : State} {engine r e : Nat} {o : EngineOp} {rest : List EngineOp} {g : Nat} {rows : List Nat}
  (hrows : rows = groupRows o g)
  (hwrite : writeRows s o.who (rows.map (fun q => (ecAddr o.ec 8 + BitVec.ofNat 64 (q * (ecAt o.ec 10).toNat),
    rowBytes (oFmt o.ec) (ecN o.ec), ofLanes (fmtBits (oFmt o.ec)) ((List.range (ecN o.ec)).map (fun c =>
      ((lookD (engineAt s engine).rbank (q * 64 + c) {}).convert (oFmt o.ec) (ecRnd o.ec) (ecSat o.ec)).1)),
    2 ^ (fmtBits (oFmt o.ec) * ecN o.ec) - 1))) = .ok s1)
include hrows hwrite

theorem convertStep_writes : ∃ fl, convertStep s engine o g = .ok (setDrn s1 engine true, o.raise fl) := by
  subst hrows
  simp only [groupRows, List.map_map, Function.comp_def] at hwrite
  rw [convertStep]
  simp only [List.map_map, Function.comp_def, hwrite, bind, Except.bind]
  exact ⟨_, rfl⟩

/-- A step of RCONV. -/
theorem rconv_writes (hw : AtWork s engine r e o rest) (hk : o.kind = .rconv) (hn : o.steps = g) (hg : g < rowGroups (ecM o.ec))
    (h1 : AtWork s1 engine r e o rest) : ∃ t o1, exec (.engineStep engine) s = .next t ∧ t.mem = s1.mem ∧ (leaseOf t r e).drn = true ∧
      o1.kind = .rconv ∧ o1.ec = o.ec ∧ o1.id = o.id ∧ o1.steps = g + 1 ∧ StepLeft s1 t r e o1 rest := by
  obtain ⟨fl, hconvert⟩ := convertStep_writes hrows hwrite
  have hstep := (opStep_rconv (s := s) (engine := engine) hk).trans (congrArg (oneStep o) (hn ▸ hconvert))
  rw [oneStep_ok, setDrn_held (AtWork.holder h1)] at hstep
  have hq := (AtWork.sameQueue h1).drn true
  obtain ⟨t, ht, hs⟩ := engineStep_made hw (by simp [EngineOp.total, hk, hn, hg]) hstep h1 hq
  refine ⟨t, { o.raise fl with steps := o.steps + 1 }, ht, (hs.mem ?_).trans (mem_of_storage (updLease_storage ..)), ?_, hk, rfl, rfl,
    congrArg (· + 1) hn, hs.left hq ?_⟩
  · simp [EngineOp.raise, hk]
  · rw [hs.drn, leaseOf_updLease (AtWork.live h1)]
  · simp [EngineOp.raise, hk]

end

/-! ## What a step writes (R93, R264) -/

/-- The lowest digit of what a line holds of a number. -/
theorem ofNat_line_digit (data : Nat) {i : Nat} (hi : i < 64) :
    BitVec.ofNat 8 ((BitVec.ofNat 512 data).toNat / 256 ^ i) = BitVec.ofNat 8 (data / 2 ^ (8 * i)) := by
  refine BitVec.eq_of_getLsbD_eq fun j hj => ?_
  rw [BitVec.getLsbD_ofNat, BitVec.getLsbD_ofNat, show (256 : Nat) = 2 ^ 8 by decide, ← Nat.pow_mul, Nat.testBit_div_two_pow,
    Nat.testBit_div_two_pow, BitVec.testBit_toNat, BitVec.getLsbD_ofNat, decide_eq_true (show j + 8 * i < 512 by omega), Bool.true_and]

theorem ofNat_mask {n : Nat} (hn : n ≤ 64) : BitVec.ofNat 512 (2 ^ (8 * n) - 1) = byteMask n :=
  BitVec.eq_of_toNat_eq (by rw [← byteMask_toNat hn, BitVec.ofNat_toNat, BitVec.setWidth_eq])

section
variable {s : State} {who : Who} {va : DWord} {c off : Nat} {n : Nat}
  (hw : windowOff (s.viOf who.vi.toNat).lswin va = some (c * 2 ^ 18 + off)) (hc : c < 512) (ho : off < 2 ^ 18)
  (hr : localReach s who c off = true) (hline : off % 64 + n ≤ 64)

include hw hline in
/-- Bytes within a line of a local store are one access. -/
theorem headLen_local : headLen va n = n := by
  unfold windowOff at hw
  split at hw
  · have hoff := Option.some.inj hw
    have hmod : va.toNat % 64 = off % 64 := by omega
    rw [headLen, hmod]
    omega
  · cases hw

include hw hc ho hr hline

theorem checkSpan_local (scope fuel : Nat) : checkSpan who scope (fuel + 1) s va n = .ok s := by
  have hrest (va : DWord) : checkSpan who scope fuel s va 0 = .ok s := by cases fuel <;> rfl
  have hbar : sealBar s who (.localStore c off) n scope = false := by simp [sealBar]
  rw [checkSpan]
  split
  · rfl
  · simp only [resolve_local .write hw hc ho hr, bind, Except.bind, headLen_local hw hline, hbar, rangeAt, Nat.sub_self, hrest]
    rfl

theorem writeLines_local (scope fuel data : Nat) (hn : 0 < n) : writeLines who scope false (fuel + 1) s va n data (2 ^ (8 * n) - 1) =
    .ok (writeOut s who (.localStore c off) n (BitVec.ofNat 512 data) (byteMask n)) := by
  have hrest (s : State) (va : DWord) (data mask : Nat) : writeLines who scope false fuel s va 0 data mask = .ok s := by cases fuel <;> rfl
  rw [writeLines, if_neg (Nat.ne_of_gt hn)]
  simp only [agentWrite, resolve_local .write hw hc ho hr, bind, Except.bind, headLen_local hw hline, Nat.sub_self, hrest, writeBytes,
    ofNat_mask (show n ≤ 64 by omega), BitVec.and_self]

/-- One row, in a line of a core's local store, has its bytes there, and every other byte is as it was. -/
theorem writeRows_local (data : Nat) : ∃ s1, writeRows s who [(va, n, data, 2 ^ (8 * n) - 1)] = .ok s1 ∧
    SameMemoryBut s s1 (localKey c off) n ∧ ∀ i < n, memByte s1.mem (localKey c off + i) = BitVec.ofNat 8 (data / 2 ^ (8 * i)) := by
  rcases Nat.eq_zero_or_pos n with rfl | hn
  · exact ⟨s, rfl, fun _ _ => rfl, fun i hi => absurd hi (Nat.not_lt_zero i)⟩
  · refine ⟨writeOut s who (.localStore c off) n (BitVec.ofNat 512 data) (byteMask n), ?_, fun k hk => ?_, fun i hi => ?_⟩
    · simp only [writeRows, spanLines, List.foldlM_cons, List.foldlM_nil, checkSpan_local hw hc ho hr hline,
        writeLines_local hw hc ho hr hline _ _ _ hn, bind, Except.bind, pure, Except.pure, wholly]
    · rw [writeOut_local_mem, memByte_memWrite_outside _ _ _ _ _ _ (by omega)]
    · rw [writeOut_local_mem, memByte_memWrite_byteMask _ _ _ hi (by omega), ofNat_line_digit data (by omega)]

end

end Sys2Proof.EngineSteps
end

section
/-!
PROOF of O37, steps of the hash engine (R280 to R282), the convert-and-gather engine (R283 to R285) and the link engine (R286, R425).
Each step is made of its accesses; what they come to is what the step leaves.
-/

namespace Sys2Proof.EngineSteps

open Machine Spec Laws

section
variable {s s1 s2 s3 : State} {engine r e : Nat} {o : EngineOp} {rest : List EngineOp}

/-! ## HDIGEST (R281) -/

section
variable {n v : Nat} (hleft : n = (ecAt o.ec 4).toNat - 136 * o.steps)
  (hread : readAll s o.who (ecAddr o.ec 2 + BitVec.ofNat 64 (136 * o.steps)) (min n 136) 2 = .ok (s1, v))
include hleft hread

theorem digestStep_block (hn : 136 ≤ n) : digestStep s o o.steps = .ok (s1, { o with sponge := absorb o.sponge v }) := by
  subst hleft
  rw [digestStep, hread]
  exact if_pos hn

theorem digestStep_last (hn : n < 136)
    (hwrite : writeRows s1 o.who [(ecAddr o.ec 5, 32, digestOf (absorb o.sponge (lastBlock v n)), 2 ^ 256 - 1)] = .ok s2) :
    digestStep s o o.steps = .ok (s2, { o with sponge := absorb o.sponge (lastBlock v n) }) := by
  subst hleft
  rw [digestStep, hread]
  refine (if_neg (Nat.not_le.2 hn)).trans ?_
  rw [hwrite]
  rfl

variable (hw : AtWork s engine r e o rest) (hk : o.kind = .hdigest) (hlt : o.steps ≤ (ecAt o.ec 4).toNat / 136)
include hw hk hlt

theorem hdigest_block (h1 : AtWork s1 engine r e o rest) (hn : 136 ≤ n) : ∃ t, exec (.engineStep engine) s = .next t ∧
    t.mem = s1.mem ∧ (leaseOf t r e).ops = { o with sponge := absorb o.sponge v, steps := o.steps + 1 } :: rest := by
  have hstep := (opStep_hdigest (engine := engine) hk).trans (congrArg (oneStep o) (digestStep_block hleft hread hn))
  rw [oneStep_ok] at hstep
  obtain ⟨t, ht, hs⟩ := engineStep_made hw (by simp only [EngineOp.total, hk]; omega) hstep h1 (AtWork.sameQueue h1)
  refine ⟨t, ht, hs.mem (by simp [hk]), hs.goesOn fun h => ?_⟩
  have hend := h.1
  simp only [EngineOp.total, hk] at hend
  omega

theorem hdigest_last (hn : n < 136)
    (hwrite : writeRows s1 o.who [(ecAddr o.ec 5, 32, digestOf (absorb o.sponge (lastBlock v n)), 2 ^ 256 - 1)] = .ok s2)
    (h2 : AtWork s2 engine r e o rest) : ∃ t, exec (.engineStep engine) s = .next t ∧ t.mem = s2.mem ∧ (leaseOf t r e).ops = rest ∧
      (leaseOf t r e).done = (leaseOf s2 r e).done ++ [(o.id, o.flags)] := by
  have hstep := (opStep_hdigest (engine := engine) hk).trans (congrArg (oneStep o) (digestStep_last hleft hread hn hwrite))
  rw [oneStep_ok] at hstep
  obtain ⟨t, ht, hs⟩ := engineStep_made hw (by simp only [EngineOp.total, hk]; omega) hstep h2 (AtWork.sameQueue h2)
  obtain ⟨hops, hdone⟩ := hs.completes (by simp only [EngineOp.total, hk]; omega) (opReady_of_ne _ (by simp [hk]))
  exact ⟨t, ht, hs.mem (by simp [hk]), hops, hdone⟩

end

/-! ## HINGEST (R282) -/

theorem ingestStep_named {p : Place} {l : Line} {n : DWord} (hlost : o.lost = false) (hen : (carStore s o.store).en = true)
    (hres : resolve s o.who .write (ecAddr o.ec 5 + BitVec.ofNat 64 (8 * o.steps)) = .ok (s1, p)) (hrange : rangeAt s1 p = none)
    (hread : agentRead s1 o.who (ecAddr o.ec 2 + BitVec.ofNat 64 (64 * o.steps)) 64 2 = .ok (s2, l))
    (hlook : lookupOrAllocate s2 o.store ((ecAt o.ec 0).getLsbD 0) l = .named s3 n false) :
    ∃ entry, ingestStep s o o.steps = .ok (s3, { o with name := n, nameKey := p.key, nameEntry := entry }) := by
  refine ⟨if p.windowed then none else (tlbFind (s3.cluster o.who.cluster).tlb (s3.viOf o.vi.toNat).pasid
    (ecAddr o.ec 5 + BitVec.ofNat 64 (8 * o.steps)).toNat).map (·.1), ?_⟩
  simp only [ingestStep, hlost, hen, hres, hrange, hread, hlook, bind, Except.bind]
  rfl

theorem hingest_looks {p : Place} {l : Line} {n : DWord} (hw : AtWork s engine r e o rest) (hk : o.kind = .hingest) (hname : o.name = 0)
    (hlt : o.steps < o.total) (hlost : o.lost = false) (hen : (carStore s o.store).en = true)
    (hres : resolve s o.who .write (ecAddr o.ec 5 + BitVec.ofNat 64 (8 * o.steps)) = .ok (s1, p)) (hrange : rangeAt s1 p = none)
    (hread : agentRead s1 o.who (ecAddr o.ec 2 + BitVec.ofNat 64 (64 * o.steps)) 64 2 = .ok (s2, l))
    (hlook : lookupOrAllocate s2 o.store ((ecAt o.ec 0).getLsbD 0) l = .named s3 n false) (h3 : AtWork s3 engine r e o rest) :
    ∃ t o1, exec (.engineStep engine) s = .next t ∧ t.mem = s3.mem ∧ (leaseOf t r e).ops = o1 :: rest ∧ o1.name = n ∧
      o1.nameKey = p.key ∧ o1.steps = o.steps := by
  obtain ⟨entry, hingest⟩ := ingestStep_named hlost hen hres hrange hread hlook
  have hstep : opStep s engine o = .ok (s3, { o with name := n, nameKey := p.key, nameEntry := entry }, none) := by
    rw [opStep_hingest_line hk hname, hingest]
    rfl
  obtain ⟨t, ht, hs⟩ := engineStep_made hw hlt hstep h3 (AtWork.sameQueue h3)
  have htotal : ({ o with name := n, nameKey := p.key, nameEntry := entry } : EngineOp).total = o.total := by
    simp only [EngineOp.total, hk]
  refine ⟨t, _, ht, hs.mem (by simp [hk]), hs.goesOn fun h => ?_, rfl, rfl, rfl⟩
  exact Nat.not_le.2 hlt (htotal ▸ h.1)

theorem hingest_names {p : Place} (hw : AtWork s engine r e o rest) (hk : o.kind = .hingest) (hname : o.name ≠ 0)
    (hlt : o.steps < o.total) (hplace : placeOf s o.who (ecAddr o.ec 5 + BitVec.ofNat 64 (8 * o.steps)) o.nameKey = .ok (s1, p))
    (hwrite : writeBytes s1 o.who (ecAddr o.ec 5 + BitVec.ofNat 64 (8 * o.steps)) p 8 (o.name.setWidth 512) (byteMask 8) 2 false = .ok s2)
    (h2 : AtWork s2 engine r e o rest) : ∃ t, exec (.engineStep engine) s = .next t ∧ t.mem = s2.mem ∧
      StepLeft s2 t r e { o with steps := o.steps + 1, name := 0, nameEntry := none } rest := by
  have hstep : opStep s engine o = .ok (s2, { o with steps := o.steps + 1, name := 0, nameEntry := none }, none) := by
    rw [opStep_hingest_name hk hname, nameStep, hplace]
    simp only [Except.bind, hwrite]
  obtain ⟨t, ht, hs⟩ := engineStep_made hw hlt hstep h2 (AtWork.sameQueue h2)
  exact ⟨t, ht, hs.mem (by simp [hk]), hs.left (AtWork.sameQueue h2) (by simp [hk])⟩

/-! ## GCOPY (R285) -/

/-- A GCOPY whose store is lost or disabled stops. -/
theorem gcopy_stops (hw : AtWork s engine r e o rest) (hk : o.kind = .gcopy) (hlt : o.steps < o.leaves)
    (hbad : o.lost = true ∨ (carStore s o.store).en = false) : ∃ t, exec (.engineStep engine) s = .next t ∧
      (leaseOf t r e).flt = true ∧ (leaseOf t r e).fcause = Cause.permissionFault.code ∧ t.mem = s.mem := by
  have hstep : opStep s engine o = .error (.fault { s with drawn := s.drawn + 1 } .permissionFault (Config.openTval s.drawn) false) := by
    rw [opStep_gcopy hk, gcopyStep, if_pos (by rcases hbad with h | h <;> simp [h])]
    rfl
  obtain ⟨t, ht, hflt, hcause, _, hstorage⟩ := engineStep_stops hw (by simp only [EngineOp.total, hk, hlt]) hstep (AtWork.live hw)
  exact ⟨t, ht, hflt, hcause, mem_of_storage hstorage⟩

theorem gcopy_leaf {l : Line} (hw : AtWork s engine r e o rest) (hk : o.kind = .gcopy) (hlt : o.steps < o.leaves)
    (hlost : o.lost = false) (hen : (carStore s o.store).en = true)
    (hwalk : walkLeaf s o.who.cluster o.store o.steps o.depth o.name = .ok (s1, l))
    (hwrite : writeRows s1 o.who [(ecAddr o.ec 5 + BitVec.ofNat 64 (64 * o.steps), 64, l.toNat, 2 ^ 512 - 1)] = .ok s2)
    (h2 : AtWork s2 engine r e o rest) : ∃ t, exec (.engineStep engine) s = .next t ∧
      (o.steps + 1 < o.leaves → t.mem = s2.mem ∧ (leaseOf t r e).ops = { o with steps := o.steps + 1 } :: rest) ∧
      (o.leaves ≤ o.steps + 1 → (leaseOf t r e).ops = rest) := by
  have hstep : opStep s engine o = .ok (s2, { o with steps := o.steps + 1 }, none) := by
    rw [opStep_gcopy hk, gcopyStep, if_neg (by simp [hlost, hen]), hwalk]
    exact congrArg (plainStep o) hwrite
  have htotal : ({ o with steps := o.steps + 1 } : EngineOp).total = o.leaves := by simp only [EngineOp.total, hk]
  obtain ⟨t, ht, hs⟩ := engineStep_made hw (by simp only [EngineOp.total, hk, hlt]) hstep h2 (AtWork.sameQueue h2)
  refine ⟨t, ht, fun hmore => ⟨mem_of_storage (hs.storage (.inr (hmore.trans_eq htotal.symm))), hs.goesOn fun h => ?_⟩, fun hend => ?_⟩
  · exact Nat.not_le.2 hmore (htotal ▸ h.1)
  · obtain ⟨hops, _⟩ := hs.completes (htotal.trans_le hend) (opReady_of_ne _ (by simp [hk]))
    exact hops

/-- The walk to a leaf reads a node a level (R41, R55). -/
theorem walkLeaf_leaf (cl k i : Nat) (n : DWord) : walkLeaf s cl k i 0 n = if n = 0 then .ok (s, 0) else carRead s cl k n := rfl

theorem walkLeaf_node {cl k i d : Nat} {n : DWord} {l : Line} (hn : n ≠ 0) (hread : carRead s cl k n = .ok (s1, l)) :
    walkLeaf s cl k i (d + 1) n = walkLeaf s1 cl k i d ((l >>> (64 * (i / 8 ^ d % 8))).setWidth 64) := by
  rw [walkLeaf, if_neg hn, hread]
  rfl

/-! ## GCONV and GGATH (R284) -/

/-- A destination within a line is one step. -/
theorem outLines_one {va : DWord} {n : Nat} (hn : 0 < n) (hline : va.toNat % 64 + n ≤ 64) : outLines va n = 1 := by
  rw [outLines, if_neg (Nat.ne_of_gt hn)]
  omega

theorem lineSpan_one {va : DWord} {n : Nat} (hline : va.toNat % 64 + n ≤ 64) : lineSpan va n 0 = (0, n) := by
  simp only [lineSpan, Prod.mk.injEq]
  omega

theorem elemAt_unscaled {f : Nat} (hf : isScaled f = false) (bits k : Nat) :
    elemAt f bits k = decodeElem f (bits / 2 ^ (fmtBits f * k) % 2 ^ fmtBits f) := by
  rw [elemAt, hf]
  rfl

theorem encodeRun_unscaled {g : Nat} (hg : isScaled g = false) (mode : Nat) (sat : Bool) (xs : List Machine.Num) :
    (encodeRun g mode sat xs).1 = ofLanes (fmtBits g) (xs.map (fun x => (encodeElem g mode sat x).1)) := by
  simp only [encodeRun, hg, Bool.false_eq_true, if_false, List.map_map, Function.comp_def]

theorem withOld_nil (va : DWord) (n v : Nat) : withOld [] va n v = v :=
  foldl_view (view := id) (Inv := fun _ => True) (fun _ _ _ _ => trivial) (fun _ _ _ _ => rfl) trivial

/-- The elements a conversion of one line reads. -/
def converted (f count v : Nat) : List Machine.Num :=
  (List.range count).map (fun k => (decodeElem f (v / 2 ^ (fmtBits f * k) % 2 ^ fmtBits f)).1)

/-- An unscaled GCONV of one line, of which nothing has been read before. -/
theorem gconvStep_line {v w count : Nat} {fl : Raised} (hold : o.old = []) (hseen : o.seen = none)
    (hcount : count = (ecAt o.ec 4).toNat) (hf : isScaled (aFmt o.ec) = false) (hg : isScaled (oFmt o.ec) = false)
    (hlog : ¬ (aFmt o.ec = 19 ∧ oFmt o.ec = 19)) (hbits : 0 < fmtBits (oFmt o.ec))
    (hbytes : count * fmtBits (oFmt o.ec) = 8 * gconvBytes o) (hline : (ecAddr o.ec 5).toNat % 64 + gconvBytes o ≤ 64)
    (hread : readAll s o.who (ecAddr o.ec 2) ((count * fmtBits (aFmt o.ec) + 7) / 8) 2 = .ok (s1, v))
    (hrun : encodeRun (oFmt o.ec) (ecRnd o.ec) (ecSat o.ec) (converted (aFmt o.ec) count v) = (w, fl))
    (hwrite : writeRows s1 o.who [(ecAddr o.ec 5, gconvBytes o, w, 2 ^ (8 * gconvBytes o) - 1)] = .ok s2) :
    ∃ kept seen fl, gconvStep s o 0 = .ok (s2, { o.raise fl with old := kept, seen := seen }) := by
  have hlast : min count ((8 * gconvBytes o + fmtBits (oFmt o.ec) - 1) / fmtBits (oFmt o.ec)) = count := by
    rw [← hbytes, Nat.add_sub_assoc hbits, Nat.mul_comm, Nat.mul_add_div hbits, Nat.div_eq_of_lt (by omega), Nat.add_zero, Nat.min_self]
  have hxs : (List.range count).map (fun k => (elemAt (aFmt o.ec) v k).1) = converted (aFmt o.ec) count v := by
    simp only [elemAt_unscaled hf, converted]
  rw [gconvStep]
  simp only [lineSpan_one hline, hf, hg, Bool.false_eq_true, if_false, ← hcount, Nat.mul_zero, Nat.zero_div, Nat.zero_mul, hlast,
    BitVec.add_zero, Nat.sub_zero, Nat.zero_mod, Nat.zero_add, Nat.pow_zero, Nat.div_one, hread, hold, hseen, bind, Except.bind, withSeen,
    withOld_nil, ite_self, if_neg hlog, List.map_map, Function.comp_def, hxs, hrun, hbytes, Nat.min_self, hwrite]
  exact ⟨_, _, _, rfl⟩

/-- A GCONV of one line (R284). -/
theorem gconv_converts {v w count : Nat} {fl : Raised} (hw : AtWork s engine r e o rest) (hk : o.kind = .gconv) (hn : o.steps = 0)
    (hold : o.old = []) (hseen : o.seen = none) (hcount : count = (ecAt o.ec 4).toNat) (hf : isScaled (aFmt o.ec) = false)
    (hg : isScaled (oFmt o.ec) = false) (hlog : ¬ (aFmt o.ec = 19 ∧ oFmt o.ec = 19)) (hbits : 0 < fmtBits (oFmt o.ec))
    (hpos : 0 < count) (hbytes : count * fmtBits (oFmt o.ec) = 8 * gconvBytes o)
    (hline : (ecAddr o.ec 5).toNat % 64 + gconvBytes o ≤ 64)
    (hread : readAll s o.who (ecAddr o.ec 2) ((count * fmtBits (aFmt o.ec) + 7) / 8) 2 = .ok (s1, v))
    (hrun : encodeRun (oFmt o.ec) (ecRnd o.ec) (ecSat o.ec) (converted (aFmt o.ec) count v) = (w, fl))
    (hwrite : writeRows s1 o.who [(ecAddr o.ec 5, gconvBytes o, w, 2 ^ (8 * gconvBytes o) - 1)] = .ok s2)
    (h2 : AtWork s2 engine r e o rest) :
    w = ofLanes (fmtBits (oFmt o.ec)) ((List.range count).map (fun k => (encodeElem (oFmt o.ec) (ecRnd o.ec) (ecSat o.ec)
      (decodeElem (aFmt o.ec) (v / 2 ^ (fmtBits (aFmt o.ec) * k) % 2 ^ fmtBits (aFmt o.ec))).1).1)) ∧
    ∃ t, exec (.engineStep engine) s = .next t ∧ t.mem = s2.mem ∧ (leaseOf t r e).ops = rest := by
  have hvalue := (congrArg Prod.fst hrun).symm
  rw [encodeRun_unscaled hg, converted, List.map_map] at hvalue
  refine ⟨hvalue, ?_⟩
  obtain ⟨kept, seen, fl', hconv⟩ := gconvStep_line hold hseen hcount hf hg hlog hbits hbytes hline hread hrun hwrite
  rw [← hn] at hconv
  have hstep := (opStep_gconv (engine := engine) hk).trans (congrArg (oneStep o) hconv)
  rw [oneStep_ok] at hstep
  have htotal : outLines (ecAddr o.ec 5) (gconvBytes o) = 1 := by
    have := Nat.mul_pos hpos hbits
    exact outLines_one (by omega) hline
  obtain ⟨t, ht, hs⟩ := engineStep_made hw (by simp only [EngineOp.total, hk, hn, htotal, Nat.one_pos]) hstep h2 (AtWork.sameQueue h2)
  obtain ⟨hops, _⟩ := hs.completes (by simp only [EngineOp.total, EngineOp.raise, hk]; exact htotal.trans_le (Nat.le_add_left ..))
    (opReady_of_ne _ (by simp [EngineOp.raise, hk]))
  exact ⟨t, ht, hs.mem (by simp [EngineOp.raise, hk]), hops⟩

/-- The line that an aligned element lies in holds it whole. -/
theorem aligned_line {va : DWord} {size : Nat} (hsize : size ∈ [1, 2, 4, 8, 16, 32, 64]) (halign : va.toNat % size = 0) :
    0 < size ∧ va.toNat % 64 + size ≤ 64 := by
  simp only [List.mem_cons, List.not_mem_nil, or_false] at hsize
  rcases hsize with rfl | rfl | rfl | rfl | rfl | rfl | rfl <;> omega

/-- A GGATH of one element (R284). -/
theorem ggath_gathers {size k v : Nat} (hw : AtWork s engine r e o rest) (hk : o.kind = .ggath) (hn : o.steps = 0)
    (hsize : size = (ecAt o.ec 7).toNat) (hmem : size ∈ [1, 2, 4, 8, 16, 32, 64]) (halign : (ecAddr o.ec 5).toNat % size = 0)
    (hone : ecAt o.ec 4 = 1) (hindex : readAll s o.who (ecAddr o.ec 8) 4 2 = .ok (s1, k))
    (hread : readAll s1 o.who (ecAddr o.ec 2 + BitVec.ofNat 64 (k * size)) size 2 = .ok (s2, v))
    (hwrite : writeRows s2 o.who [(ecAddr o.ec 5, size, v, 2 ^ (8 * size) - 1)] = .ok s3) (h3 : AtWork s3 engine r e o rest) :
    ∃ t, exec (.engineStep engine) s = .next t ∧ t.mem = s3.mem ∧ (leaseOf t r e).ops = rest ∧
      (leaseOf t r e).done = (leaseOf s3 r e).done ++ [(o.id, o.flags)] := by
  obtain ⟨hpos, hline⟩ := aligned_line hmem halign
  have hbytes : (ecAt o.ec 4).toNat * size = size := by rw [hone]; exact Nat.one_mul size
  have hgather : gatherRun o 1 s 0 = .ok (s2, v) := by
    simp only [gatherRun, ← hsize, Nat.mul_zero, BitVec.add_zero, hindex, hread, bind, Except.bind, pure, Except.pure, Nat.zero_mul,
      Nat.add_zero]
  have hstep : opStep s engine o = .ok (s3, { o with steps := o.steps + 1 }, none) := by
    rw [opStep_ggath hk, hn, ggathStep, ← hsize, hbytes, lineSpan_one hline]
    simp only [Nat.sub_zero, Nat.zero_div, Nat.div_self hpos, hgather, bind, Except.bind, BitVec.add_zero, hwrite, plainStep_ok, hn]
  have htotal : outLines (ecAddr o.ec 5) ((ecAt o.ec 4).toNat * (ecAt o.ec 7).toNat) = 1 := by
    rw [← hsize, hbytes]
    exact outLines_one hpos hline
  obtain ⟨t, ht, hs⟩ := engineStep_made hw (by simp only [EngineOp.total, hk, hn, htotal, Nat.one_pos]) hstep h3 (AtWork.sameQueue h3)
  obtain ⟨hops, hdone⟩ := hs.completes (by simp only [EngineOp.total, hk]; omega) (opReady_of_ne _ (by simp [hk]))
  exact ⟨t, ht, hs.mem (by simp [hk]), hops, hdone⟩

/-! ## All-reduce (R286, R425) -/

/-- The sum of a chunk and the peer's chunk, module 0's terms first. -/
def summed (s : State) (o : EngineOp) (v : Nat) (x : Chunk) : Nat × Raised :=
  if moduleNumber s = 0 then reduceElems (aFmt o.ec) (ecRnd o.ec) v x.data else reduceElems (aFmt o.ec) (ecRnd o.ec) x.data v

section
variable {v w : Nat} {fl : Raised} {x : Chunk} (hlink : linkDown s.module = false)
  (hsame : ∀ y ∈ s.bridge.chunks, y.tag = (ecAt o.ec 7).toNat → y.ordinal = o.ordinal →
    y.fmt = aFmt o.ec ∧ y.len = (ecAt o.ec 4).toNat)
  (hread : readAll s o.who (ecAddr o.ec 2 + BitVec.ofNat 64 (4096 * o.steps)) 4096 3 = .ok (s1, v))
  (hport0 : portPaused s1.module 0 = false) (hport1 : portPaused s1.module 1 = false)
  (hfind : s1.bridge.chunks.find? (fun y => y.tag == (ecAt o.ec 7).toNat && y.ordinal == o.ordinal && y.index == o.steps) = some x)
  (hsum : summed s1 o v x = (w, fl))
  (hwrite : writeAll s1 o.who (ecAddr o.ec 5 + BitVec.ofNat 64 (4096 * o.steps)) 4096 w (2 ^ 32768 - 1) 3 false = .ok s2)
include hlink hsame hread hport0 hport1 hfind hsum hwrite

theorem reduceStep_sums : reduceStep s o o.steps =
    .ok ({ s2 with bridge := { s2.bridge with chunks := s2.bridge.chunks.filter (fun y => y != x) } }, o.raise fl) := by
  have hany : s.bridge.chunks.any (fun y => y.tag == (ecAt o.ec 7).toNat && y.ordinal == o.ordinal &&
      (y.fmt != aFmt o.ec || y.len != (ecAt o.ec 4).toNat)) = false := by
    rw [List.any_eq_false]
    intro y hy
    by_cases hmine : y.tag = (ecAt o.ec 7).toNat ∧ y.ordinal = o.ordinal
    · obtain ⟨hfmt, hlen⟩ := hsame y hy hmine.1 hmine.2
      simp [hfmt, hlen]
    · simpa using fun htag hord => absurd ⟨htag, hord⟩ hmine
  simp only [reduceStep, hlink, hany, hread, hport0, hport1, hfind, bind, Except.bind, Bool.false_eq_true, if_false, Bool.or_self,
    ← summed.eq_def, hsum, hwrite, -Nat.reducePow]
  rfl

/-- A chunk of an all-reduce (R425). -/
theorem allReduce_sums (hw : AtWork s engine r e o rest) (hk : o.kind = .allReduce) (hlt : o.steps < o.total)
    (h2 : AtWork s2 engine r e o rest) : ∃ t, exec (.engineStep engine) s = .next t ∧ t.mem = s2.mem ∧
      t.bridge.chunks = s2.bridge.chunks.filter (fun y => y != x) ∧
      StepLeft s2 t r e { o.raise fl with steps := o.steps + 1 } rest := by
  have hstep := (opStep_allReduce (engine := engine) hk).trans
    (congrArg (oneStep o) (reduceStep_sums hlink hsame hread hport0 hport1 hfind hsum hwrite))
  rw [oneStep_ok] at hstep
  have hq : SameQueue s2 { s2 with bridge := { s2.bridge with chunks := s2.bridge.chunks.filter (fun y => y != x) } } r e :=
    ⟨AtWork.live h2, rfl, rfl⟩
  obtain ⟨t, ht, hs⟩ := engineStep_made hw hlt hstep h2 hq
  refine ⟨t, ht, hs.mem ?_, congrArg (·.chunks) (hs.bridge ?_), hs.left hq ?_⟩
  · simp [EngineOp.raise, hk]
  · simp [EngineOp.raise, hk]
  · simp [EngineOp.raise, hk]

end

theorem summed_of_module {v w : Nat} {fl : Raised} {x : Chunk}
    (hzero : moduleNumber s = 0 → (w, fl) = reduceElems (aFmt o.ec) (ecRnd o.ec) v x.data)
    (hone : moduleNumber s ≠ 0 → (w, fl) = reduceElems (aFmt o.ec) (ecRnd o.ec) x.data v) : summed s o v x = (w, fl) := by
  unfold summed
  split
  · next h => exact (hzero h).symm
  · next h => exact (hone h).symm

end

end Sys2Proof.EngineSteps
end

section
/-!
PROOF of O37, put together: the steps of the engines one by one.
-/

namespace Sys2Proof.EngineSteps

open Machine Spec

/-- Settles O37: a step of each kind is what its own accesses come to (`opStep` of the kind), and then what every step leaves of its
lease, its engine and memory (`Stepped`). -/
theorem engineSteps : Obligations.EngineSteps := by
  refine ⟨⟨?plane, ?mstream, ?stop⟩, ⟨?loadPlane, ?product, ?transfer, ?mdrain⟩, ⟨?rlds, ?loadResidues, ?rtile, ?rconv, ?write⟩, ?hdigest,
    ?hingestLine, ?hingestName, ?gconv, ?ggath, ?gcopy, ?walk, ?allReduce⟩
  case plane =>
    exact fun s engine r e o rest hw hn => ⟨mswap_exchanges hw hn, mzero_empties hw hn, fun hk _ _ _ => mlds_loads hw hn hk⟩
  case mstream =>
    exact fun s engine r e o rest s1 rows fl banks sp hw hk hn hfetch h1 => mstream_streams hw hk hn hfetch h1
  case stop =>
    intro s engine r e o rest s1 c va b hw hn hstep hlive
    obtain ⟨t, ht, hflt, hcause, hva, _⟩ := engineStep_stops hw hn hstep hlive
    exact ⟨t, ht, hflt, hcause, hva⟩
  case loadPlane =>
    exact fun s engine o base j => ⟨fun h => loadPlane_loaded (.inl h), fun _ _ _ => loadPlane_fetches⟩
  case product =>
    rintro s engine r e o rest abase bbase j g s0 o0 s1 rows fl x banks sp hw hn hg hj hk hload hfetch h1 hlater rfl hstream
    exact product_streams hw hn hg hj hk hload hfetch h1 hlater hstream
  case transfer =>
    intro s engine r e o rest west north a1 a b1 b core hw hk hlast hmoved hcore hbanks hwest hnorth htest hne1 hne2 hapart
    exact mrot_transfers hw hk hlast hmoved hcore hbanks hwest hnorth htest hne1 hne2 hapart
  case mdrain =>
    intro s engine r e o rest first count core n w rows at_ hw hk hg hcount hcore hn hbits hrows hat hreach hapart
    exact mdrain_writes hw hk hg hcount hcore hn hbits hrows hat hreach hapart
  case rlds =>
    exact fun s engine r e o rest s1 p fl hw hk hn hfetch h1 => rlds_loads hw hk hn hfetch h1
  case loadResidues =>
    exact fun s engine o i => ⟨fun h => loadResidues_loaded (.inl h), fun _ _ _ => loadResidues_fetches⟩
  case rtile =>
    rintro s engine r e o rest i g s0 o0 s1 xs fa x plane bank hw hk hn hg hi hcolumns hload hfetch h1 hlater rfl hplane hbank
    exact rtile_multiplies hw hk hn hg hi hcolumns hload hfetch h1 hlater hplane hbank
  case rconv =>
    rintro s engine r e o rest g rows out s1 hw hk hn hg hrows rfl hwrite h1
    exact rconv_writes hrows hwrite hw hk hn hg h1
  case write =>
    exact fun s who va n data c off hw hc ho hline hr => writeRows_local hw hc ho hr hline data
  case hdigest =>
    exact fun s engine r e o rest n v s1 hw hk hleft hlt hread h1 => ⟨hdigest_block hleft hread hw hk hlt h1,
      fun s2 hn hwrite => hdigest_last hleft hread hw hk hlt hn hwrite⟩
  case hingestLine =>
    intro s engine r e o rest s1 p s2 l s3 n hw hk hname hlt hlost hen hres hrange hread hlook h3
    exact hingest_looks hw hk hname hlt hlost hen hres hrange hread hlook h3
  case hingestName =>
    exact fun s engine r e o rest s1 p s2 hw hk hname hlt hplace hwrite h2 => hingest_names hw hk hname hlt hplace hwrite h2
  case gconv =>
    intro s engine r e o rest s1 v s2 w fl count hw hk hn hold hseen hcount hf hg hlog hbits hpos hbytes hline hread hrun hwrite h2
    exact gconv_converts hw hk hn hold hseen hcount hf hg hlog hbits hpos hbytes hline hread hrun hwrite h2
  case ggath =>
    intro s engine r e o rest size s1 k s2 v s3 hw hk hn hsize hmem halign hone hindex hread hwrite h3
    exact ggath_gathers hw hk hn hsize hmem halign hone hindex hread hwrite h3
  case gcopy =>
    exact fun s engine r e o rest hw hk hlt => ⟨gcopy_stops hw hk hlt,
      fun s1 l s2 hlost hen hwalk hwrite => gcopy_leaf hw hk hlt hlost hen hwalk hwrite⟩
  case walk =>
    exact fun s cl k i n => ⟨walkLeaf_leaf cl k i n, fun d s1 l => walkLeaf_node⟩
  case allReduce =>
    intro s engine r e o rest s1 v x w fl s2 hw hk hlt hlink hsame hread hport0 hport1 hfind hzero hone hwrite h2
    exact allReduce_sums hlink hsame hread hport0 hport1 hfind (summed_of_module hzero hone) hwrite hw hk hlt h2

end Sys2Proof.EngineSteps
end
